-- ==== Sys2Proof/Word.lean ====
section
/-!
DEFINITION. The word types of the E8 and their plainest arithmetic.
-/

namespace Sys2Proof

/-- A byte of memory, of the scratchpad or of a register image (R1). -/
abbrev Byte := BitVec 8

/-- A scalar register's 64 bits (R143). -/
abbrev Word := BitVec 64

/-- A vector register: 4 KiB, byte 0 in bits 7:0 (R61). -/
abbrev VReg := BitVec 32768

/-- A mask register: one bit per 32-bit lane (R206). -/
abbrev MReg := BitVec 1024

/-- A bundle (R113). -/
abbrev BundleBits := BitVec 384

/-- The value a 12-bit immediate stands for, sign-extended to 64 bits (R143). -/
def sext12 (i : BitVec 12) : Word := i.signExtend 64

/-- Clamp an integer into a closed range (R72). -/
def clampInt (lo hi x : Int) : Int := if x < lo then lo else if hi < x then hi else x

/-- The residue of an integer modulo 2^w, as a bit pattern. -/
def wrapInt (w : Nat) (x : Int) : BitVec w := BitVec.ofInt w x

/-- Bits `h` down to `l` of `x`, as R1 writes x[h:l]. -/
def bits (x h l : Nat) : Nat := (x >>> l) % 2 ^ (h + 1 - l)

/-- The single bit `n` of `x` (R1). -/
def bit (x n : Nat) : Bool := x.testBit n

end Sys2Proof
end

