-- ==== Sys2Proof/Syntax.lean ====
section
/-!
DEFINITION. The instructions and steps of the E8: one constructor of `Instr` per row of the table of operations and
events. The first 226 rows are what a bundle's slots hold (and the six things a core's sequencer does in a cycle);
the others are what the rest of the module does between two cycles of a core, each with what it is done to.
-/

namespace Sys2Proof

/-- The element types of the vector slots (R121, R205). -/
inductive ElemTy where
  | i8 | n8 | i16 | n16 | i32 | n32 | f32 | bf | f8 | i4 | n4
deriving DecidableEq, Repr

/-- The fields of a vector-slot instruction beside its opcode, in the one format of R121. -/
structure VOp where
  vd : BitVec 8
  va : BitVec 8
  vb : BitVec 8
  vc : BitVec 8
  ma : BitVec 4
  msk : Bool
  ty : ElemTy
  sbf : Bool
  imm : BitVec 14
deriving DecidableEq, Repr

/-- The fields of format CA of the copy slot (R126): ordering class, capability register, window, descriptor, EXT. -/
structure CaOp where
  cls : BitVec 4
  sa : BitVec 6
  w : BitVec 5
  d : BitVec 4
  ext : BitVec 21
deriving DecidableEq, Repr

/-- The fields of format CF of the copy slot (R126): ordering class, flag, two scalar registers, EXT. -/
structure CfOp where
  cls : BitVec 4
  f : BitVec 5
  sa : BitVec 6
  sb : BitVec 6
  ext : BitVec 19
deriving DecidableEq, Repr

/-- The fields of format CV of the copy slot (R126): vector register, window, row or column mode, locating scalar. -/
structure CvOp where
  v : BitVec 8
  w : BitVec 5
  am : Bool
  sa : BitVec 6
  ext : BitVec 20
deriving DecidableEq, Repr

/-- Who reaches a home (R333): a request of a core's command, or an access from outside the cores and engines of this
module, by the host over the Quitur link or by another module, to `n` bytes at a location within one sector. -/
inductive HomeReq where
  | core (core seq req : Nat) (words : BitVec 64)
  | outside (key n : Nat) (write copy : Bool) (data : BitVec 2048)
deriving DecidableEq, Repr

/-- A phaser command of another module's task, at the home Vertex here (R279): `armed` is the arrival of an arm over there. `tag`
tells the task from others, for the wait request that the command may leave here. -/
inductive ForeignOp where
  | register (mode : Nat)
  | drop (member : Nat)
  | arrive (member tag : Nat)
  | armed (member tag : Nat)
  | waitFor (member : Nat) (q : BitVec 32) (tag : Nat)
  | atomic (op : BitVec 8) (wide signed : Bool) (word : Nat) (half : Bool) (a b : Word)
deriving DecidableEq, Repr

/-- What a crossing carries into this module (R367). -/
inductive Crossing where
  | access (key n : Nat) (write copy : Bool) (data : BitVec 2048)
  | vertex (die obj : Nat) (gen : BitVec 8) (op : ForeignOp)
  | flag (core rcb : Nat) (cardIdx taskIdx : BitVec 32) (f : BitVec 5) (ok : Bool) (scope : BitVec 3) (op : BitVec 8)
  | objectLost (mod die obj : Nat)
  | openStream (unit region : Nat) (gen : BitVec 8) (uid width : Nat) (seg : Option (BitVec 256))
  | pair (uid key : Nat) (vals : List (BitVec 32))
  | closeStream (uid : Nat) (commit : Bool)
  | regionStep (unit region : Nat) (gen : BitVec 8) (apply : Bool)
  | lookup (pbc table row : Nat)
  | deliver (core w off n : Nat) (data : BitVec 2048)
  | taskEnded (tag : Nat)
  | prefetch (pbc table : Nat) (rows : List Nat)
deriving DecidableEq, Repr

/-- A full slot at its destination station (R343, R377). `own` is a request of this module: the station takes it in or,
having refused it twice, answers with a NACK. `sealed` comes from another module: its lane and sequence, the bit of its
epoch, and whether its tag verifies. -/
inductive SlotArrival where
  | own (core seq req : Nat) (nack : Bool)
  | sealed (member lane seqNo : Nat) (epochBit tagOk : Bool) (body : Crossing)
deriving DecidableEq, Repr

/-- Exchange bytes for a rank (R359): the next bytes of a collective of core `core`, or sealed bytes from a member (R375, R377). -/
inductive Delivery where
  | own (core seq rank off n : Nat) (words : BitVec 1024)
  | sealed (member lane seqNo : Nat) (epochBit tagOk : Bool) (core w off n : Nat) (data : BitVec 2048)
deriving DecidableEq, Repr

/-- An Ultra Ethernet packet (R360, R377): the peer it came from, its delivery mode (4 ordered, 5 unordered, anything
else a mode not used), its sequence, epoch bit and tag check, and what it carries. -/
structure UetPacket where
  peer : Nat
  lane : Nat
  seqNo : Nat
  epochBit : Bool
  tagOk : Bool
  body : Crossing
deriving DecidableEq, Repr

/-- The module an SPDM message comes from (R370): a module of the rack ring or a peer. -/
structure Requester where
  isPeer : Bool
  num : Nat
deriving DecidableEq, Repr

/-- An algorithm that SPDM may negotiate (R372): those that the engine supports, and any other by its number. -/
inductive Algorithm where
  | sha384 | rsaPss3072 | ecdheP384MlKem1024 | aes256Gcm | hkdfSha384
  | other (id : Nat)
deriving DecidableEq, Repr

/-- A set of algorithms (R372): hash, signature, key exchange, AEAD and key schedule. -/
structure Algorithms where
  hash : Algorithm
  sign : Algorithm
  exchange : Algorithm
  aead : Algorithm
  schedule : Algorithm
deriving DecidableEq, Repr

/-- The set that the engine negotiates; it refuses every other (R372). -/
def Algorithms.negotiated : Algorithms := ⟨.sha384, .rsaPss3072, .ecdheP384MlKem1024, .aes256Gcm, .hkdfSha384⟩

/-- What the checks of a message find (R373): both chains validate to their roots, both leaves name one identity, the RSA signature
and the SLH-DSA signature verify. -/
structure Proofs where
  chains : Bool
  oneIdentity : Bool
  rsa : Bool
  slh : Bool
deriving DecidableEq, Repr

/-- A check passes (R373). -/
def Proofs.ok (p : Proofs) : Bool := p.chains && p.oneIdentity && p.rsa && p.slh

/-- A response to a request that this engine made (R371-R374), with what its checks find. -/
inductive SpdmAnswer where
  | version (ok : Bool)
  | capabilities (ok : Bool)
  | algorithms (set : Algorithms)
  | digests
  | certificate (slot : Nat) (chainOk sameIdentity : Bool)
  | challenge (rsaOk slhOk : Bool)
  | measurements (digests : List (BitVec 384)) (rsaOk slhOk : Bool)
  | keyExchange (secretsOk rsaOk slhOk : Bool)
  | finish (ok : Bool)
  | error
deriving DecidableEq, Repr

/-- What the steps of a start find (R403): the firmware's signatures or its resident digest, the training of memory; and
the rack-position code that the carrier board presents (R404). -/
structure StartChecks where
  fwOk : Bool
  trainOk : Bool
  position : BitVec 4
deriving DecidableEq, Repr

/-- A queued command of a core, by its sequence number, and which words of it a step moves (R25, R95). -/
structure CmdWords (n : Nat) where
  seq : Nat
  words : BitVec n
deriving DecidableEq, Repr

/-- The same, with the block of 1,024 words of it that the step turns to. -/
structure CmdBlock where
  seq : Nat
  blk : Nat
  words : BitVec 1024
deriving DecidableEq, Repr

/-- A sector of an RDC, and which words of its write-back reach the home in a step (R95). -/
structure SectorWords where
  sector : Nat
  words : BitVec 64
deriving DecidableEq, Repr

/-- A bag of a gather command, and which words of its output and of its status land in a step (R25, R297). -/
structure BagWords where
  bag : Nat
  words : BitVec 1024
  status : BitVec 8
deriving DecidableEq, Repr

/-- A packet of a command to a peer (R360). -/
structure CmdPacket where
  seq : Nat
  pkt : Nat
deriving DecidableEq, Repr

/-- A slot of a DCU's region table, and the RCB address written to it (R37). -/
structure SlotAddress where
  slot : Nat
  addr : BitVec 52
deriving DecidableEq, Repr

/-- What the sensors read (R400): temperatures in 1/16 degree C, rails in mV, module power in W, ring-oscillator counts. -/
structure SensorReadings where
  temps : Vector (BitVec 16) 25
  volts : Vector (BitVec 16) 18
  power : BitVec 12
  rosc : Vector (BitVec 32) 17
deriving DecidableEq, Repr

/-- What the code of a granule shows (R393). -/
inductive ScrubFinding where
  | clean
  | correctable
  | uncorrectable
deriving DecidableEq, Repr

/-- Where an error arises (R392, R394): a granule of memory, by its number; a sector of an RDC or of an L2; a word of the
dictionary store; timed-domain state of a core, by the kinds of R388 and a number; other SRAM, which corrects it. -/
inductive MemErrorSite where
  | dram (granule : Nat) (e : ScrubFinding)
  | rdc (die sector granule : Nat) (correctable : Bool)
  | l2 (die sector granule : Nat) (dirty correctable : Bool)
  | dictionary (core index : Nat) (correctable : Bool)
  | timedState (core kind n : Nat) (correctable : Bool)
  | vertexRecord (die obj : Nat) (correctable : Bool)
  | tableCopy (table : Nat) (correctable : Bool)
  | bin (unit region key : Nat) (correctable : Bool)
  | streamBin (unit region uid key : Nat) (correctable : Bool)
deriving DecidableEq, Repr


/-- Every operation and event of the part (spec/opcode_table.json), in the table's order. -/
inductive Instr where
  /-- `HEAD_OF_ISSUE` (R130). Each timed cycle the sequencer evaluates the sync slot and the freeze causes for the bundle at the head of issue, and either issues the bundle or holds it with the freeze line asserted. -/
  | headOfIssue
  /-- `RESULT_LANDING` (R128). A timed result, or a scratchpad write that performs at +n, lands on its destination after its latency in counted timed cycles, carrying any BSTAT and FPSTAT update. -/
  | resultLanding
  /-- `ACCUMULATE_LANDING` (R242). At c+136 a push lands its column sums on the named accumulator row in add or overwrite mode, updating ACCOV and BSTAT. -/
  | accumulateLanding
  /-- `DRAIN_COMBINE` (R246). At c+144 a drain's candidate is combined with APXV and APXI as they stand in that cycle. -/
  | drainCombine
  /-- `IDLE_EXPIRY` (R163). The IDLE count, falling by one every wall cycle, expires and releases freeze cause 6. -/
  | idleExpiry
  /-- `LOOP_SKIP` (R161). During a zero-trip LOOP the sequencer fetches one body bundle per timed cycle without issuing it, until the LBE bundle is passed. -/
  | loopSkip
  /-- `WAIT` (R117). Sync-slot wait: the bundle issues in the first cycle in which every named flag is SET, and traps if a named flag is ERROR. -/
  | wait (mask : BitVec 32)
  /-- `WAITANY` (R117). Sync-slot wait: the bundle issues in the first cycle in which at least one named flag is SET. -/
  | waitAny (mask : BitVec 32)
  /-- `FCLR` (R117). The bundle issues at once and every named flag becomes CLEAR, ERROR included. -/
  | fclr (mask : BitVec 32)
  /-- `WAITC` (R117). As WAIT, and at issue every named flag becomes CLEAR. -/
  | waitC (mask : BitVec 32)
  /-- `END` (R115). A bundle with the END bit ends fetch after it, closes the open batch without a flag, and moves the task to DRAINING. -/
  | endTask
  /-- `JMP` (R156). Unconditional transfer to TARGET after three delay slots. -/
  | jmp (t : BitVec 18)
  /-- `BEQZ` (R156). Transfer to TARGET after three delay slots when sa is zero. -/
  | beqz (a : BitVec 6) (t : BitVec 18)
  /-- `BNEZ` (R156). Transfer to TARGET after three delay slots when sa is nonzero. -/
  | bnez (a : BitVec 6) (t : BitVec 18)
  /-- `BLTZ` (R156). Transfer to TARGET after three delay slots when sa is negative. -/
  | bltz (a : BitVec 6) (t : BitVec 18)
  /-- `BGEZ` (R156). Transfer to TARGET after three delay slots when sa is not negative. -/
  | bgez (a : BitVec 6) (t : BitVec 18)
  /-- `JMPR` (R156). Unconditional transfer to sa[17:0] after three delay slots. -/
  | jmpr (a : BitVec 6)
  /-- `BMT` (R157). Transfer to TARGET when every active lane of ma is 1; a mixed mask traps. -/
  | bmt (m : BitVec 4) (t : BitVec 18)
  /-- `BMF` (R157). Transfer to TARGET when every active lane of ma is 0; a mixed mask traps. -/
  | bmf (m : BitVec 4) (t : BitVec 18)
  /-- `CALL` (R158). Pushes the return address and transfers to TARGET after three delay slots. -/
  | call (t : BitVec 18)
  /-- `CALLR` (R158). Pushes the return address and transfers to sa[17:0] after three delay slots. -/
  | callr (a : BitVec 6)
  /-- `RET` (R158). Pops the return stack and transfers to the popped address after three delay slots. -/
  | ret
  /-- `RSPUSH` (R159). Pushes sa[17:0] onto the return stack. -/
  | rspush (a : BitVec 6)
  /-- `RSPOP` (R159). Pops the top return-stack entry into sd. -/
  | rspop (d : BitVec 6)
  /-- `LOOP` (R160). Starts a loop nest of 1 to 6 levels with bounds from consecutive scalar registers, replaying the body from the loop buffer. -/
  | loop (a : BitVec 6) (p : BitVec 3)
  /-- `TRAPI` (R163). Raises the software trap at issue with imm recorded. -/
  | trapi (i : BitVec 18)
  /-- `ABORT` (R163). Raises the abort trap at issue, applying at least the CARD fault action. -/
  | abort (i : BitVec 18)
  /-- `IDLE` (R163). Issues and holds the next bundle for imm wall cycles. -/
  | idle (i : BitVec 18)
  /-- `MARK` (R163). Writes imm into MARKV at latency 1. -/
  | mark (i : BitVec 18)
  /-- `ADD` (R144). sd = (sa + sb) mod 2^64. -/
  | add (d : BitVec 6) (a : BitVec 6) (b : BitVec 6)
  /-- `SUB` (R144). sd = (sa - sb) mod 2^64. -/
  | sub (d : BitVec 6) (a : BitVec 6) (b : BitVec 6)
  /-- `AND` (R144). sd = sa AND sb. -/
  | and (d : BitVec 6) (a : BitVec 6) (b : BitVec 6)
  /-- `OR` (R144). sd = sa OR sb. -/
  | or (d : BitVec 6) (a : BitVec 6) (b : BitVec 6)
  /-- `XOR` (R144). sd = sa XOR sb. -/
  | xor (d : BitVec 6) (a : BitVec 6) (b : BitVec 6)
  /-- `SHL` (R144). sd = sa shifted left by sb[5:0]. -/
  | shl (d : BitVec 6) (a : BitVec 6) (b : BitVec 6)
  /-- `SHR` (R144). sd = sa shifted right logically by sb[5:0]. -/
  | shr (d : BitVec 6) (a : BitVec 6) (b : BitVec 6)
  /-- `ASR` (R144). sd = sa shifted right arithmetically by sb[5:0]. -/
  | asr (d : BitVec 6) (a : BitVec 6) (b : BitVec 6)
  /-- `CMPLT_I64` (R144). sd = 1 if sa is less than sb as signed values, else 0. -/
  | cmpltI64 (d : BitVec 6) (a : BitVec 6) (b : BitVec 6)
  /-- `CMPLT_N64` (R144). sd = 1 if sa is less than sb as unsigned values, else 0. -/
  | cmpltN64 (d : BitVec 6) (a : BitVec 6) (b : BitVec 6)
  /-- `CMPEQ` (R144). sd = 1 if sa equals sb, else 0. -/
  | cmpeq (d : BitVec 6) (a : BitVec 6) (b : BitVec 6)
  /-- `MIN_I64` (R144). sd = the signed lesser of sa and sb. -/
  | minI64 (d : BitVec 6) (a : BitVec 6) (b : BitVec 6)
  /-- `MAX_I64` (R144). sd = the signed greater of sa and sb. -/
  | maxI64 (d : BitVec 6) (a : BitVec 6) (b : BitVec 6)
  /-- `MIN_N64` (R144). sd = the unsigned lesser of sa and sb. -/
  | minN64 (d : BitVec 6) (a : BitVec 6) (b : BitVec 6)
  /-- `MAX_N64` (R144). sd = the unsigned greater of sa and sb. -/
  | maxN64 (d : BitVec 6) (a : BitVec 6) (b : BitVec 6)
  /-- `ADDI` (R145). sd = sa plus the sign-extended 12-bit immediate. -/
  | addi (d : BitVec 6) (a : BitVec 6) (i : BitVec 12)
  /-- `ANDI` (R145). sd = sa AND the sign-extended immediate. -/
  | andi (d : BitVec 6) (a : BitVec 6) (i : BitVec 12)
  /-- `ORI` (R145). sd = sa OR the sign-extended immediate. -/
  | ori (d : BitVec 6) (a : BitVec 6) (i : BitVec 12)
  /-- `XORI` (R145). sd = sa XOR the sign-extended immediate. -/
  | xori (d : BitVec 6) (a : BitVec 6) (i : BitVec 12)
  /-- `SHLI` (R145). sd = sa shifted left by an immediate 0 to 63. -/
  | shli (d : BitVec 6) (a : BitVec 6) (i : BitVec 6)
  /-- `SHRI` (R145). sd = sa shifted right logically by an immediate 0 to 63. -/
  | shri (d : BitVec 6) (a : BitVec 6) (i : BitVec 6)
  /-- `ASRI` (R145). sd = sa shifted right arithmetically by an immediate 0 to 63. -/
  | asri (d : BitVec 6) (a : BitVec 6) (i : BitVec 6)
  /-- `CMPLTI` (R145). sd = 1 if sa is signed-less than the sign-extended immediate, else 0. -/
  | cmplti (d : BitVec 6) (a : BitVec 6) (i : BitVec 12)
  /-- `SETH` (R146). Sets quarter Q of sd to IMM16 and every other quarter to 0. -/
  | seth (d : BitVec 6) (q : BitVec 2) (i : BitVec 16)
  /-- `PUTH` (R146). Replaces quarter Q of sd with IMM16, keeping the other quarters. -/
  | puth (d : BitVec 6) (q : BitVec 2) (i : BitVec 16)
  /-- `MUL` (R144). sd = low 64 bits of sa times sb. -/
  | mul (d : BitVec 6) (a : BitVec 6) (b : BitVec 6)
  /-- `MULH_I64` (R144). sd = high 64 bits of the signed 128-bit product. -/
  | mulhI64 (d : BitVec 6) (a : BitVec 6) (b : BitVec 6)
  /-- `MULH_N64` (R144). sd = high 64 bits of the unsigned 128-bit product. -/
  | mulhN64 (d : BitVec 6) (a : BitVec 6) (b : BitVec 6)
  /-- `DIV_I64` (R147). Signed quotient truncated toward zero, with defined results for division by zero and overflow. -/
  | divI64 (d : BitVec 6) (a : BitVec 6) (b : BitVec 6)
  /-- `DIV_N64` (R147). Unsigned quotient, all ones on division by zero. -/
  | divN64 (d : BitVec 6) (a : BitVec 6) (b : BitVec 6)
  /-- `REM_I64` (R147). Signed remainder with the sign of the dividend. -/
  | remI64 (d : BitVec 6) (a : BitVec 6) (b : BitVec 6)
  /-- `REM_N64` (R147). Unsigned remainder, sa on division by zero. -/
  | remN64 (d : BitVec 6) (a : BitVec 6) (b : BitVec 6)
  /-- `CAPADD` (R148). Adds sb to the offset of capability sa modulo 2^58, keeping its segment index. -/
  | capadd (d : BitVec 6) (a : BitVec 6) (b : BitVec 6)
  /-- `CAPADDI` (R148). Adds a sign-extended immediate to the offset of capability sa modulo 2^58. -/
  | capaddi (d : BitVec 6) (a : BitVec 6) (i : BitVec 12)
  /-- `CAPMK` (R148). Forms a capability with segment index seg and the offset of sa. -/
  | capmk (d : BitVec 6) (a : BitVec 6) (s : BitVec 6)
  /-- `CAPSEG` (R148). sd = the segment index of capability sa. -/
  | capseg (d : BitVec 6) (a : BitVec 6)
  /-- `CAPOFF` (R148). sd = the offset of capability sa. -/
  | capoff (d : BitVec 6) (a : BitVec 6)
  /-- `FADD_F32` (R149). Full-IEEE FP32 add with one rounding, setting FPSTAT bits. -/
  | faddF32 (d : BitVec 6) (a : BitVec 6) (b : BitVec 6)
  /-- `FSUB_F32` (R149). Full-IEEE FP32 subtract with one rounding. -/
  | fsubF32 (d : BitVec 6) (a : BitVec 6) (b : BitVec 6)
  /-- `FMUL_F32` (R149). Full-IEEE FP32 multiply with one rounding. -/
  | fmulF32 (d : BitVec 6) (a : BitVec 6) (b : BitVec 6)
  /-- `FMA_F32` (R149). Fused sa times sb plus sd with one rounding. -/
  | fmaF32 (d : BitVec 6) (a : BitVec 6) (b : BitVec 6)
  /-- `FMIN_F32` (R149). The lesser FP32 operand, -0 below +0, a single NaN ignored. -/
  | fminF32 (d : BitVec 6) (a : BitVec 6) (b : BitVec 6)
  /-- `FMAX_F32` (R149). The greater FP32 operand, a single NaN ignored. -/
  | fmaxF32 (d : BitVec 6) (a : BitVec 6) (b : BitVec 6)
  /-- `FCMPLT_F32` (R149). sd = 1 if sa < sb as FP32, 0 with NaN, setting IV on NaN. -/
  | fcmpltF32 (d : BitVec 6) (a : BitVec 6) (b : BitVec 6)
  /-- `FCMPEQ_F32` (R149). sd = 1 if sa equals sb as FP32. -/
  | fcmpeqF32 (d : BitVec 6) (a : BitVec 6) (b : BitVec 6)
  /-- `CVT_F32_I64` (R149). Converts signed 64-bit sa to FP32. -/
  | cvtF32I64 (d : BitVec 6) (a : BitVec 6)
  /-- `CVT_I64_F32` (R149). Converts FP32 sa to a saturated signed 64-bit integer. -/
  | cvtI64F32 (d : BitVec 6) (a : BitVec 6)
  /-- `LDS_N8` (R150). Loads a zero-extended scratchpad byte into sd. -/
  | ldsN8 (d : BitVec 6) (a : BitVec 6) (i : BitVec 12)
  /-- `LDS_I8` (R150). Loads a sign-extended scratchpad byte into sd. -/
  | ldsI8 (d : BitVec 6) (a : BitVec 6) (i : BitVec 12)
  /-- `LDS_N16` (R150). Loads a zero-extended scratchpad halfword into sd. -/
  | ldsN16 (d : BitVec 6) (a : BitVec 6) (i : BitVec 12)
  /-- `LDS_I16` (R150). Loads a sign-extended scratchpad halfword into sd. -/
  | ldsI16 (d : BitVec 6) (a : BitVec 6) (i : BitVec 12)
  /-- `LDS_N32` (R150). Loads a zero-extended scratchpad word into sd. -/
  | ldsN32 (d : BitVec 6) (a : BitVec 6) (i : BitVec 12)
  /-- `LDS_I32` (R150). Loads a sign-extended scratchpad word into sd. -/
  | ldsI32 (d : BitVec 6) (a : BitVec 6) (i : BitVec 12)
  /-- `LDS_I64` (R150). Loads 8 scratchpad bytes into sd. -/
  | ldsI64 (d : BitVec 6) (a : BitVec 6) (i : BitVec 12)
  /-- `STS_N8` (R150). Stores sb[7:0] to the scratchpad, performing at +2. -/
  | stsN8 (b : BitVec 6) (a : BitVec 6) (i : BitVec 12)
  /-- `STS_N16` (R150). Stores sb[15:0] to the scratchpad. -/
  | stsN16 (b : BitVec 6) (a : BitVec 6) (i : BitVec 12)
  /-- `STS_N32` (R150). Stores sb[31:0] to the scratchpad. -/
  | stsN32 (b : BitVec 6) (a : BitVec 6) (i : BitVec 12)
  /-- `STS_N64` (R150). Stores all 64 bits of sb to the scratchpad. -/
  | stsN64 (b : BitVec 6) (a : BitVec 6) (i : BitVec 12)
  /-- `MFSR` (R153). Copies a special register into sd at latency 1. -/
  | mfsr (d : BitVec 6) (r : BitVec 12)
  /-- `MTSR` (R153). Writes sa to a writable special register, clearing FPSTAT bits by RW1C. -/
  | mtsr (a : BitVec 6) (r : BitVec 12)
  /-- `SHAPE` (R154). Grants a lane count and tile shape from the request in sa and writes the grant to SHAPE and sd. -/
  | shape (d : BitVec 6) (a : BitVec 6) (w : BitVec 2)
  /-- `VADD` (R210). Element-wise add, wrapping for integers, rounded for floating types. -/
  | vadd (o : VOp)
  /-- `VSUB` (R210). Element-wise subtract. -/
  | vsub (o : VOp)
  /-- `VMUL` (R210). Element-wise multiply. -/
  | vmul (o : VOp)
  /-- `VMULH` (R210). High half of the element-wise integer product. -/
  | vmulh (o : VOp)
  /-- `VADDS` (R210). Saturating element-wise integer add. -/
  | vadds (o : VOp)
  /-- `VSUBS` (R210). Saturating element-wise integer subtract. -/
  | vsubs (o : VOp)
  /-- `VMIN` (R210). Element-wise minimum. -/
  | vmin (o : VOp)
  /-- `VMAX` (R210). Element-wise maximum. -/
  | vmax (o : VOp)
  /-- `VABS` (R210). Element-wise absolute value. -/
  | vabs (o : VOp)
  /-- `VNEG` (R210). Element-wise negation. -/
  | vneg (o : VOp)
  /-- `VAND` (R211). Bitwise AND of elements. -/
  | vand (o : VOp)
  /-- `VOR` (R211). Bitwise OR of elements. -/
  | vor (o : VOp)
  /-- `VXOR` (R211). Bitwise XOR of elements. -/
  | vxor (o : VOp)
  /-- `VANDN` (R211). Bitwise a AND NOT b of elements. -/
  | vandn (o : VOp)
  /-- `VFMA` (R212). Fused a times b plus c with one rounding. -/
  | vfma (o : VOp)
  /-- `VFMS` (R212). Fused a times b minus c with one rounding. -/
  | vfms (o : VOp)
  /-- `VFNMA` (R212). Fused c minus a times b with one rounding. -/
  | vfnma (o : VOp)
  /-- `VMAC` (R212). Accumulates the integer products of each lane's elements into its 32-bit lane of vd. -/
  | vmac (o : VOp)
  /-- `VRSUM` (R213). Sums the enabled elements of va into sd, exactly for integers, rounded once for floating types. -/
  | vrsum (o : VOp)
  /-- `VRMIN` (R213). Least enabled element of va into sd. -/
  | vrmin (o : VOp)
  /-- `VRMAX` (R213). Greatest enabled element of va into sd. -/
  | vrmax (o : VOp)
  /-- `VRAND` (R213). AND of the enabled elements of va into sd. -/
  | vrand (o : VOp)
  /-- `VROR` (R213). OR of the enabled elements of va into sd. -/
  | vror (o : VOp)
  /-- `VSCALE` (R214). Scales each element by a per-block power of two and adds vc with one rounding. -/
  | vscale (o : VOp)
  /-- `VBCAST` (R215). Broadcasts one element of va, or sb, to every enabled element. -/
  | vbcast (o : VOp)
  /-- `VMOV` (R215). Copies the enabled elements of va bit for bit. -/
  | vmov (o : VOp)
  /-- `VIOTA` (R215). Writes an arithmetic sequence i times step, optionally offset by sb. -/
  | viota (o : VOp)
  /-- `VMOVI` (R215). Writes a sign-extended immediate to every enabled element. -/
  | vmovi (o : VOp)
  /-- `VCMPEQ` (R216). Sets mask bits where elements are equal. -/
  | vcmpeq (o : VOp)
  /-- `VCMPNE` (R216). Sets mask bits where elements differ. -/
  | vcmpne (o : VOp)
  /-- `VCMPLT` (R216). Sets mask bits where a is less than b. -/
  | vcmplt (o : VOp)
  /-- `VCMPLE` (R216). Sets mask bits where a is less than or equal to b. -/
  | vcmple (o : VOp)
  /-- `VSEL` (R217). Selects va or b per element by the selector mask. -/
  | vsel (o : VOp)
  /-- `VSHL` (R218). Element-wise left shift. -/
  | vshl (o : VOp)
  /-- `VSHR` (R218). Element-wise logical right shift. -/
  | vshr (o : VOp)
  /-- `VASR` (R218). Element-wise arithmetic right shift. -/
  | vasr (o : VOp)
  /-- `VFSHL` (R219). Element-wise funnel shift left of a over b. -/
  | vfshl (o : VOp)
  /-- `VFSHR` (R219). Element-wise funnel shift right of b over a. -/
  | vfshr (o : VOp)
  /-- `VLUT3` (R220). Applies an 8-entry truth table bit by bit to three sources. -/
  | vlut3 (o : VOp)
  /-- `VPOPC` (R221). Counts the 1 bits of each element. -/
  | vpopc (o : VOp)
  /-- `VPERM` (R222). Gathers elements of va by the indices in vb. -/
  | vperm (o : VOp)
  /-- `VROT` (R222). Rotates the active elements of va by k. -/
  | vrot (o : VOp)
  /-- `VZIP` (R223). Interleaves va and vb into vd and vd+1. -/
  | vzip (o : VOp)
  /-- `VUNZIP` (R223). De-interleaves va and vb into vd and vd+1. -/
  | vunzip (o : VOp)
  /-- `VCVT` (R224). Converts elements between integer and floating formats, rounding and saturating by R66. -/
  | vcvt (o : VOp)
  /-- `VCVTW` (R224). Narrows integer elements by wrapping. -/
  | vcvtw (o : VOp)
  /-- `VCVTS` (R224). Scales elements by a per-block power of two and converts them. -/
  | vcvts (o : VOp)
  /-- `VUNPK4` (R224). Unpacks 4-bit nibbles into wider integer elements. -/
  | vunpk4 (o : VOp)
  /-- `MAND` (R225). Mask AND over the active lanes. -/
  | mand (o : VOp)
  /-- `MOR` (R225). Mask OR over the active lanes. -/
  | mor (o : VOp)
  /-- `MXOR` (R225). Mask XOR over the active lanes. -/
  | mxor (o : VOp)
  /-- `MNOT` (R225). Mask NOT over the active lanes. -/
  | mnot (o : VOp)
  /-- `MPOPC` (R225). Counts the active 1 bits of a mask into sd. -/
  | mpopc (o : VOp)
  /-- `VEXT` (R226). Extracts one element of va into sd; a scalar index out of range traps. -/
  | vext (o : VOp)
  /-- `VINS` (R226). Inserts sa into one element of vd. -/
  | vins (o : VOp)
  /-- `BSTRD` (R227). Reads a BSTAT entry into sd. -/
  | bstrd (o : VOp)
  /-- `BSTCLR` (R227). Clears a run of BSTAT entries at +2. -/
  | bstclr (o : VOp)
  /-- `SCSEL` (R228). Evaluates SCALE_SELECT on a BSTAT entry and writes k and the lossy bit to sd. -/
  | scsel (o : VOp)
  /-- `XPOSE_N32` (R230). Transposes a 32x32 block of 32-bit elements. -/
  | xposeN32 (d : BitVec 8) (a : BitVec 8) (k : BitVec 4)
  /-- `XPOSE_N16` (R230). Transposes 32x32 blocks of 16-bit elements with block selector. -/
  | xposeN16 (d : BitVec 8) (a : BitVec 8) (k : BitVec 4)
  /-- `XPOSE_N8` (R230). Transposes 32x32 blocks of 8-bit elements with block selector. -/
  | xposeN8 (d : BitVec 8) (a : BitVec 8) (k : BitVec 4)
  /-- `XPOSEB` (R230). Transposes 32x32 bit blocks with block selector. -/
  | xposeb (d : BitVec 8) (a : BitVec 8) (k : BitVec 4)
  /-- `MMODE` (R237). Sets the array's metric, numeric type and Apex direction at latency 1. -/
  | mmode (m : BitVec 2) (t : BitVec 2) (dir : Bool)
  /-- `MCEN` (R238). Sets the 128 column enables from mask ma. -/
  | mcen (a : BitVec 4)
  /-- `MWSH` (R240). Shifts a 256-byte weight row into SHADOW; the 128th shift copies SHADOW to ACTIVE. -/
  | mwsh (v : BitVec 8) (sr : BitVec 4)
  /-- `MPUSHA` (R242). Pushes a sub-row through the array, capturing ACTIVE, MODE and CEN, to accumulate in add mode at +136. -/
  | mpusha (v : BitVec 8) (sr : BitVec 4) (row : BitVec 12)
  /-- `MPUSHW` (R242). Pushes a sub-row through the array to overwrite the accumulator row at +136. -/
  | mpushw (v : BitVec 8) (sr : BitVec 4) (row : BitVec 12)
  /-- `MDRAIN` (R246). Reads an accumulator row and forms the best-column candidate for the Apex chain. -/
  | mdrain (row : BitVec 12)
  /-- `MACCRD` (R244). Reads an accumulator row into 512 bytes of vd. -/
  | maccrd (v : BitVec 8) (sr : BitVec 4) (row : BitVec 12)
  /-- `MACCWR` (R244). Writes 512 bytes of va into an accumulator row, performing at +3. -/
  | maccwr (v : BitVec 8) (sr : BitVec 4) (row : BitVec 12)
  /-- `MACCZ` (R244). Zeroes an accumulator row and its ACCOV. -/
  | maccz (row : BitVec 12)
  /-- `MACCOV` (R244). Reads a row's ACCOV into sd and clears it. -/
  | maccov (d : BitVec 6) (row : BitVec 12)
  /-- `APXRST` (R248). Resets APXV to 0 and APXI to the empty index. -/
  | apxrst
  /-- `APXWR` (R248). Writes sa to APXV, APXI or APXB. -/
  | apxwr (a : BitVec 6) (sel : BitVec 2)
  /-- `APXRD` (R248). Reads APXV, APXI or APXB into sd. -/
  | apxrd (d : BitVec 6) (sel : BitVec 2)
  /-- `MWCLR` (R241). Clears every SHADOW weight and WCNT. -/
  | mwclr
  /-- `TLD` (R190). Checks and queues a tile load of the descriptor's footprint from memory into a window. -/
  | tld (o : CaOp)
  /-- `TST` (R190). Checks and queues a tile store of window bytes to memory. -/
  | tst (o : CaOp)
  /-- `TLDM` (R191). Queues a tile load that reads memory once and writes the window of every named core of the die. -/
  | tldm (o : CaOp)
  /-- `TLDBP` (R192). Queues a load of BPN planes reassembled into INT8 window bytes. -/
  | tldbp (o : CaOp)
  /-- `PREF` (R193). Queues fills of the footprint's sectors into the L2 or RDC without writing a window. -/
  | pref (o : CaOp)
  /-- `STREM` (R346). Queues a remote store that writes window bytes at the home as byte-masked sector writes. -/
  | strem (o : CaOp)
  /-- `STREMO` (R350). Queues an ordered remote store that performs only after the core's earlier same-class stores to the destination. -/
  | stremo (o : CaOp)
  /-- `WCOPY` (R194). Queues a copy of every logical byte of one window into another of equal size. -/
  | wcopy (o : CaOp)
  /-- `WFILL` (R194). Queues a fill of a window's logical bytes with the pattern in sa. -/
  | wfill (o : CaOp)
  /-- `WDECL` (R177). Declares a window with the current SHAPE geometry at a scratchpad base. -/
  | wdecl (o : CfOp)
  /-- `WFREE` (R177). Makes a window undeclared. -/
  | wfree (o : CfOp)
  /-- `DSET` (R184). Loads a loop descriptor from 128 scratchpad bytes after checking it. -/
  | dset (o : CfOp)
  /-- `VLD` (R180). Timed move of window bytes into a vector register in row or column mode. -/
  | vld (o : CvOp)
  /-- `VST` (R180). Timed move of a vector register into window bytes, performing at +3. -/
  | vst (o : CvOp)
  /-- `VLDB` (R180). Timed load of one window row repeated across a vector register. -/
  | vldb (o : CvOp)
  /-- `VSTM` (R180). Timed masked store of vector lanes into window bytes. -/
  | vstm (o : CvOp)
  /-- `FENCE` (R197). Queues a fence ordering the masked classes at a scope, with RDC write-back or invalidation at module or domain scope. -/
  | fence (mask : BitVec 16) (scope : BitVec 3) (kind : BitVec 2)
  /-- `BCLOSE` (R186). Closes the open batch with a flag and opens a new empty batch. -/
  | bclose (f : BitVec 5)
  /-- `BWAIT` (R188). Holds until at most n batches are outstanding, closing the open batch without a flag. -/
  | bwait (n : BitVec 8)
  /-- `PHREG` (R268). Queues a registration of a new phaser member with a mode, returning its number. -/
  | phreg (o : CfOp)
  /-- `PHDROP` (R269). Queues the departure of a phaser member, counting as its last arrival. -/
  | phdrop (o : CfOp)
  /-- `PHARR` (R270). Releases and queues a member's arrival at a phaser. -/
  | pharr (o : CfOp)
  /-- `PHWAIT` (R271). Queues a wait request for the passage of phase q. -/
  | phwait (o : CfOp)
  /-- `PHARM` (R272). Arms a window of the core for a RECV member with a byte count N. -/
  | pharm (o : CfOp)
  /-- `PHRD` (R273). Queues a read of the phaser record into a window. -/
  | phrd (o : CfOp)
  /-- `SWLD` (R274). Queues a sync-word load into a window. -/
  | swld (o : CfOp)
  /-- `SWST` (R274). Queues a sync-word store of window bytes read at issue. -/
  | swst (o : CfOp)
  /-- `AADD` (R275). Queues an atomic add on a sync word, returning the old value. -/
  | aadd (o : CfOp)
  /-- `AMIN` (R275). Queues an atomic minimum on a sync word. -/
  | amin (o : CfOp)
  /-- `AMAX` (R275). Queues an atomic maximum on a sync word. -/
  | amax (o : CfOp)
  /-- `AAND` (R275). Queues an atomic AND on a sync word. -/
  | aand (o : CfOp)
  /-- `AOR` (R275). Queues an atomic OR on a sync word. -/
  | aor (o : CfOp)
  /-- `AXOR` (R275). Queues an atomic XOR on a sync word. -/
  | axor (o : CfOp)
  /-- `AXCHG` (R275). Queues an atomic exchange on a sync word. -/
  | axchg (o : CfOp)
  /-- `ACAS` (R275). Queues an atomic compare-and-swap on a sync word. -/
  | acas (o : CfOp)
  /-- `AFADD_F32` (R276). Queues an atomic IEEE FP32 add on a sync word, rounded once at Vertex. -/
  | afaddF32 (o : CfOp)
  /-- `GBAG` (R297). Hands a bag list to the adjacent PBC to pool each bag into an FP32 vector in a window. -/
  | gbag (o : CfOp)
  /-- `GBAGW` (R297). As GBAG with per-index FP32 weights on a WSUM table. -/
  | gbagw (o : CfOp)
  /-- `GROWS` (R297). Gathers each index as its own dequantised row. -/
  | grows (o : CfOp)
  /-- `GPREF` (R300). Counts an index list in the sketches without reading rows. -/
  | gpref (o : CfOp)
  /-- `GSTAT` (R301). Reads a row's residency state into a window. -/
  | gstat (o : CfOp)
  /-- `GCNTRD` (R301). Reads a PBC's eight counters of a table into a window. -/
  | gcntrd (o : CfOp)
  /-- `GCNTCLR` (R301). Clears a PBC's eight counters of a table. -/
  | gcntclr (o : CfOp)
  /-- `GSKRD` (R301). Reads a row's four sketch counters and their minimum into a window. -/
  | gskrd (o : CfOp)
  /-- `LOPEN` (R321). Opens an update stream slot on a Lattice region. -/
  | lopen (o : CfOp)
  /-- `LPUSH` (R322). Sends N (key, value) pairs from vector registers to an open stream. -/
  | lpush (o : CfOp)
  /-- `LPUSHS` (R322). Sends one pair with its key in sa to an open stream. -/
  | lpushs (o : CfOp)
  /-- `LCLOSE` (R323). Closes a stream so that the instance commits it once all pairs are taken in. -/
  | lclose (o : CfOp)
  /-- `LABORT` (R323). Ends a stream, discarding its pairs and stream bins. -/
  | labort (o : CfOp)
  /-- `LAPPLY` (R337). Applies every committed bin of the region preceding it. -/
  | lapply (o : CfOp)
  /-- `LSTEP` (R337). Increments the region's EPOCH. -/
  | lstep (o : CfOp)
  /-- `LQUERY` (R339). Writes a key's bin state into a window. -/
  | lquery (o : CfOp)
  /-- `LSTAT` (R338). Writes the region's 64-byte status into a window. -/
  | lstat (o : CfOp)
  /-- `LSPILL` (R338). Writes the region's SRAM and spill usage into a window. -/
  | lspill (o : CfOp)
  /-- `XSEND` (R356). Copies n bytes between two capabilities, through the exchange engine for peer homes. -/
  | xsend (o : CfOp)
  /-- `XA2A` (R358). All-to-all exchange of per-rank blocks of a window. -/
  | xa2a (o : CfOp)
  /-- `XBKT` (R358). Exchange of counted index buckets to each rank. -/
  | xbkt (o : CfOp)
  /-- `XPOOL` (R358). Exchange of pooled vectors, optionally rounded to BF16 on the wire. -/
  | xpool (o : CfOp)
  /-- `PCNT` (R351). Writes the core's per-path SENT and DONE counts into a window. -/
  | pcnt (o : CfOp)
  /-- `PWAIT` (R352). Sets its flag when every earlier remote-store sector write is acknowledged. -/
  | pwait (o : CfOp)
  /-- `XSTAT` (R363). Writes a peer's exchange status into a window. -/
  | xstat (o : CfOp)
  /-- `XCAN` (R363). Stops every incomplete exchange command of the task. -/
  | xcan (o : CfOp)
  /-- `TBARR` (R385). Releases at domain scope and sets its flag once the trust EPOCH reaches the target. -/
  | tbarr (o : CfOp)
  /-- `TSTAT` (R386). Writes a trust member entry's state into a window. -/
  | tstat (o : CfOp)
  /-- `TEPOCH` (R386). Writes the trust EPOCH, DSTATE, SELF and member bitmap into a window. -/
  | tepoch (o : CfOp)
  /-- `TLOG` (R386). Writes a drop-log entry into a window. -/
  | tlog (o : CfOp)
  /-- `DOORBELL` (R39). A doorbell write releases host writes and adds cards to the bound region's job queue, or is ignored and counted. -/
  | doorbell (die : Nat) (slot : Nat) (tail : BitVec 32) (region : BitVec 32)
  /-- `BIND` (R38). A write of VALID = 1 to a doorbell slot validates and binds the RCB, or sets BIND_ERR. -/
  | bind (die : Nat) (slot : Nat) (addr : BitVec 52)
  /-- `UNBIND` (R38). A write of VALID = 0 unbinds the slot and stores its RCB_ADDR, BUSY staying 1 until the region's last task has ended. -/
  | unbind (die : Nat) (w : SlotAddress)
  /-- `PERIOD_WRITE` (R37). A write to PERIOD sets the budget period of all eight DCUs, at least 14,000, from the next boundary. -/
  | periodWrite (die : Nat) (v : BitVec 32)
  /-- `EVICT` (R41). Host command forcing eviction of the task on a core, or refused. -/
  | evict (die : Nat) (id : BitVec 32)
  /-- `CANCEL` (R41). Host command setting a region's cancel mark so cards below it dispatch nothing more. -/
  | cancel (die : Nat) (id : BitVec 32)
  /-- `ENABLE` (R41). Host command returning a STOPPED or QERROR region to IDLE or ACTIVE. -/
  | enable (die : Nat) (id : BitVec 32)
  /-- `FLUSH_IMAGE` (R41). Host command clearing a resident image tag on every core of the die. -/
  | flushImage (die : Nat)
  /-- `REPLAY` (R391). Host command making the walker re-read a FAULTHOLD core's faulting translation and continue, re-fault or fail. -/
  | replay (die : Nat) (id : BitVec 32)
  /-- `DCU_BAD_COMMAND` (R41). An undefined CMD_OP gives CMD_RES 1 and no action. -/
  | dcuBadCommand (die : Nat) (op : BitVec 8)
  /-- `JOB_CARD_READ` (R42). The DCU takes the next card in running-index order, validating it or writing INVALID_CARD. -/
  | jobCardRead (die : Nat) (slot : Nat)
  /-- `DISPATCH_DECISION` (R45). When a core is free and a region eligible, the dispatcher chooses a region and task and binds a core. -/
  | dispatchDecision (die : Nat)
  /-- `BUDGET_PERIOD_BOUNDARY` (R35). At each period boundary the DCUs reset or carry USED, write D fields and re-read and validate every bound RCB. -/
  | budgetPeriodBoundary
  /-- `PINNED_CHARGE_REPORT` (R47). Every 14,000 cycles and at task end, the pinning DCU reports charged cycles to the PLACE DCU. -/
  | pinnedChargeReport (die : Nat)
  /-- `DICTIONARY_LOAD_COMPLETE` (R109). When the dictionary and code overlay are loaded, the DCU validates them and starts the task or fails the card. -/
  | dictionaryLoadComplete (core : Nat)
  /-- `CONTEXT_RESTORE` (R170). A resumed task's saved areas and copy entries are restored and it issues from the recorded PC. -/
  | contextRestore (core : Nat)
  /-- `EVICTION_BOUNDARY` (R52). A chosen eviction takes effect at the next bundle boundary: the core freezes and latches its records and array state. -/
  | evictionBoundary (core : Nat)
  /-- `CONTEXT_SAVE` (R169). When the task's queues have settled, the DCU writes the context image to a free save slot. -/
  | contextSave (core : Nat)
  /-- `SAVE_COMPLETE` (R54). The context save ends, the task becomes EVICTED and the core is freed. -/
  | saveComplete (core : Nat)
  /-- `TASK_DRAIN_COMPLETE` (R49). When a DRAINING task's four queues are empty, the core is freed and the task becomes DONE or FAILED. -/
  | taskDrainComplete (core : Nat)
  /-- `COMPLETION_RECORD` (R43). When every task of a card has ended, the DCU writes its completion record, waiting while the queue is full, then raises the interrupt. -/
  | completionRecord (die : Nat) (slot : Nat) (card : Nat)
  /-- `FAULT_LOG_ENTRY` (R389). The DCU writes a fault-log entry to its ring, waiting for room for KIND 1, and advances FLOG_TAIL. -/
  | faultLogEntry (die : Nat)
  /-- `FLOG_BASE_WRITE` (R389). A write of FLOG_BASE, ignored while entries are unconsumed or when misaligned or misplaced. -/
  | flogBaseWrite (die : Nat) (v : Word)
  /-- `FLOG_LOG2_WRITE` (R389). A write of FLOG_LOG2, ignored while entries are unconsumed, storing 16 for larger values. -/
  | flogLog2Write (die : Nat) (v : Word)
  /-- `FLOG_EN_WRITE` (R389). A write of FLOG_EN, ignored when FLOG_BASE is not in the die's stack. -/
  | flogEnWrite (die : Nat) (v : Word)
  /-- `FLOG_HEAD_WRITE` (R389). A host write of FLOG_HEAD frees ring room for waiting entries. -/
  | flogHeadWrite (die : Nat) (v : Word)
  /-- `TLB_WALK_COMPLETE` (R92). The walk for a copy command's first page ends, releasing the freeze or entering FAULTHOLD on an invalid entry. -/
  | tlbWalkComplete (core : Nat)
  /-- `COPY_PAGE_TRANSLATION` (R92). The copy engine translates a later page of a command in the untimed domain, stopping the command on a fault. -/
  | copyPageTranslation (core : Nat) (seq : Nat)
  /-- `SECTOR_REQUEST_ISSUE` (R185). The copy engine forms a sector request of a queued command, within the 2,048 outstanding limit. `w.words` are the words of the source window read now (R25). -/
  | sectorRequestIssue (core : Nat) (w : CmdWords 64)
  /-- `SECTOR_RESPONSE` (R190). Read data for a sector request lands in window bytes, or a write is acknowledged. `words` are the words that land now (R25). -/
  | sectorResponse (core : Nat) (seq : Nat) (req : Nat) (words : BitVec 1024)
  /-- `COPY_COMMAND_COMPLETE` (R187). A copy command completes or stops and leaves its queue entry. `w.words` are the words that move or land now, of block `w.blk` for WCOPY and WFILL, or name the sector that a fence visits (R25, R98). -/
  | copyCommandComplete (core : Nat) (w : CmdBlock)
  /-- `BATCH_COMPLETE` (R187). A closed batch whose commands have all completed sets its flag SET or ERROR. -/
  | batchComplete (core : Nat) (batch : Nat)
  /-- `RDC_REPLACEMENT` (R97). The RDC replaces a sector at any moment, writing back its dirty bytes under a byte mask. -/
  | rdcReplacement (die : Nat) (x : SectorWords)
  /-- `HOME_ACCESS` (R333). An access reaching a sector's home is held until pending committed bins of targets in the sector are applied, then performed. -/
  | homeAccess (a : HomeReq)
  /-- `HASHM_WRITE` (R204). A write of an interleave mask HASHMi, refused with HASHERR when it breaks the mask rules. -/
  | hashmWrite (stack : Nat) (i : Nat) (v : Word)
  /-- `CNTCLR` (R203). Writing 1 to CNTCLR sets every PCREQ counter of the stack to 0. -/
  | cntclr (stack : Nat)
  /-- `INIT_SYNC` (R258). Vertex host command making a FREE object SYNC with eight words read at CMD_ADDR. -/
  | initSync (die : Nat) (obj : Nat)
  /-- `INIT_PHASER` (R258). Vertex host command checking a phaser image and making a FREE object PHASER. -/
  | initPhaser (die : Nat) (obj : Nat)
  /-- `FREE` (R258). Vertex host command freeing an object, raising GEN and failing its waits and arms. -/
  | freeObject (die : Nat) (obj : Nat)
  /-- `READ` (R258). Vertex host command writing an object's record to CMD_ADDR. -/
  | readObject (die : Nat) (obj : Nat)
  /-- `BREAK` (R258). Vertex host command setting BROKEN on a phaser and failing its waits and arms. -/
  | breakPhaser (die : Nat) (obj : Nat)
  /-- `VERTEX_BAD_COMMAND` (R258). An undefined Vertex CMD_OP gives RES 1 and no action. -/
  | vertexBadCommand (die : Nat) (op : BitVec 4) (obj : Nat)
  /-- `OVF_BASE_WRITE` (R257). A write of OVF_BASE, refused with CFG_ERR when objects are in use or the area is bad. -/
  | ovfBaseWrite (die : Nat) (v : Word)
  /-- `OBJ_COUNT_WRITE` (R257). A write of OBJ_COUNT, refused with CFG_ERR when objects are in use or the area is bad. -/
  | objCountWrite (die : Nat) (v : Word)
  /-- `VERTEX_OPERATION` (R277). The home Vertex performs a queued phaser, sync-word or atomic command whole, in its object's total order, setting its flag or failing it. `w.words` are the words of its result that land now, or name the sector that its release visits (R25, R98). -/
  | vertexOperation (core : Nat) (w : CmdWords 1024)
  /-- `ARM_COMPLETE` (R272). When an armed window's byte count reaches N, the arm slot is released and the member's arrival is sent. -/
  | armComplete (core : Nat) (arm : Nat)
  /-- `VERTEX_RECORD_MOVE` (R254). Vertex moves a record between SRAM and the overflow area as it chooses. -/
  | vertexRecordMove (die : Nat) (obj : Nat)
  /-- `TLOAD` (R289). PBC host command loading and checking a table descriptor into all eight PBCs. -/
  | tload (pbc : Nat) (table : Nat)
  /-- `TDROP` (R289). PBC host command demoting a table's rows and making it not VALID. -/
  | tdrop (pbc : Nat) (table : Nat)
  /-- `TREAD` (R289). PBC host command writing a table's image and counters to CMD_ADDR. -/
  | tread (pbc : Nat) (table : Nat)
  /-- `HOTLOAD` (R289). PBC host command promoting one row to the hot-row area. -/
  | hotload (pbc : Nat) (table : Nat)
  /-- `HOTFLUSH` (R289). PBC host command demoting every resident row of a table on this PBC. -/
  | hotflush (pbc : Nat) (table : Nat)
  /-- `SKCLR` (R289). PBC host command clearing a sketch group's counters and GLOOKUPS. -/
  | skclr (pbc : Nat) (group : Nat)
  /-- `PBC_BAD_COMMAND` (R289). An undefined PBC CMD_OP gives RES 1. -/
  | pbcBadCommand (pbc : Nat) (op : BitVec 8)
  /-- `HOT_BASE_WRITE` (R287). A write of HOT_BASE, refused with CFG_ERR while slots are used or the area is bad. -/
  | hotBaseWrite (pbc : Nat) (v : Word)
  /-- `HOT_SLOTS_WRITE` (R287). A write of HOT_SLOTS, refused with CFG_ERR while slots are used or the area is bad. -/
  | hotSlotsWrite (pbc : Nat) (v : Word)
  /-- `SLOTLOG2_WRITE` (R287). A write of SLOTLOG2, refused with CFG_ERR while slots are used or the area is bad. -/
  | slotlog2Write (pbc : Nat) (v : Word)
  /-- `MIG_LIMIT_WRITE` (R287). A write of MIG_LIMIT, storing at least 14,000. -/
  | migLimitWrite (pbc : Nat) (v : Word)
  /-- `GATHER_ACCEPT` (R297). The accepting PBC reads the lists, checks the grant, applies the invalid-index policy and sends buckets by shard. -/
  | gatherAccept (core : Nat) (w : CmdBlock)
  /-- `SHARD_LOOKUP` (R302). A holding PBC looks up the rows of a bucket from the authoritative copy, dequantises and forms partials. -/
  | shardLookup (core : Nat) (seq : Nat) (bag : Nat) (shard : Nat)
  /-- `PARTIAL_COMBINE` (R298). The accepting PBC combines returned partials in shard order and writes the bag's output and status words. `w.words` are the bag's words that land now (R25). -/
  | partialCombine (core : Nat) (seq : Nat) (w : BagWords)
  /-- `MIGRATION_IN_SWITCH` (R305). Once no bin targets the LPDDR-6 copy, a MIG_IN row is copied into its slot and becomes RESIDENT. -/
  | migrationInSwitch (pbc : Nat) (slot : Nat)
  /-- `MIGRATION_TIMEOUT` (R305). A promotion still in MIG_IN after MIG_LIMIT cycles is abandoned and the row returns COLD. -/
  | migrationTimeout (pbc : Nat) (slot : Nat)
  /-- `DEMOTION_SWITCH` (R305). Once no bin targets the hot copy, a MIG_OUT row is written back if trainable and becomes COLD. -/
  | demotionSwitch (pbc : Nat) (slot : Nat)
  /-- `RINIT` (R311). Lattice host command checking a region descriptor and making the region VALID. -/
  | rinit (unit : Nat) (region : Nat)
  /-- `RFREE` (R311). Lattice host command applying every pending bin and freeing the region. -/
  | rfree (unit : Nat) (region : Nat)
  /-- `RREAD` (R311). Lattice host command writing a region's descriptor and status to CMD_ADDR. -/
  | rread (unit : Nat) (region : Nat)
  /-- `RFLUSH` (R311). Lattice host command applying every committed bin of the region. -/
  | rflush (unit : Nat) (region : Nat)
  /-- `RABORT` (R311). Lattice host command failing every open stream of the region. -/
  | rabort (unit : Nat) (region : Nat)
  /-- `LATTICE_BAD_COMMAND` (R311). An undefined Lattice CMD_OP gives RES 1. -/
  | latticeBadCommand (unit : Nat) (op : BitVec 4) (region : Nat)
  /-- `PAIR_INTAKE` (R326). The instance takes in pushed pairs and reduces them into stream bins, asserting back-pressure when out of room. -/
  | pairIntake (core : Nat) (seq : Nat)
  /-- `STREAM_COMMIT` (R323). After all pairs of a closed stream are taken in, the instance merges its bins into the epoch's committed bins, or fails it. -/
  | streamCommit (core : Nat) (seq : Nat)
  /-- `EARLY_APPLY` (R331). Under space pressure the instance applies a committed bin of an earlier epoch. -/
  | earlyApply (unit : Nat) (region : Nat) (key : Nat)
  /-- `BIN_SPILL_MOVE` (R331). The instance moves bins between SRAM and the spill area as it chooses. -/
  | binSpillMove (unit : Nat) (region : Nat) (key : Nat) (toSpill : Bool)
  /-- `STATION_SLOT_RECEIVE` (R343). A full slot reaches its destination station and is taken into the receive buffer, refused to circulate, or NACKed. -/
  | stationSlotReceive (x : SlotArrival)
  /-- `NACK_BACKOFF_EXPIRY` (R343). After a NACK's back-off expires the source resends the access, failing it at the 16th NACK. -/
  | nackBackoffExpiry (core : Nat) (seq : Nat) (req : Nat)
  /-- `RACK_MODULE_JOIN` (R404). A module completes training on both rack rings and its RACKMAP bit is set. -/
  | rackModuleJoin (m : Nat)
  /-- `RACK_MODULE_LOSS` (R404). A module stops answering or loses training and its RACKMAP bit is cleared. -/
  | rackModuleLoss (m : Nat)
  /-- `STREMO_RELEASE` (R350). The destination performs a held STREMO once all earlier counted writes have performed. -/
  | stremoRelease (core : Nat) (seq : Nat) (req : Nat)
  /-- `EXCHANGE_DELIVERY` (R359). Exchange bytes for a rank arrive and are written into the receiver's window or discarded. -/
  | exchangeDelivery (x : Delivery)
  /-- `UET_PACKET_RECEIVE` (R360). An Ultra Ethernet packet from a peer is received and checked, or dropped and counted. -/
  | uetPacketReceive (p : UetPacket)
  /-- `UET_RETRANSMIT` (R360). A transport retransmission timer expires and a packet is resent; after 16 the peer becomes unreachable. `w.pkt` numbers the packet of the command. -/
  | uetRetransmit (peer : Nat) (core : Nat) (w : CmdPacket)
  /-- `PORT_LINK_CHANGE` (R354). An Ultra Ethernet port gains or loses link and PORTUP changes. -/
  | portLinkChange (port : Nat) (up : Bool)
  /-- `NRANK_WRITE` (R354). A write of NRANK of a group; values 65 to 127 read back as 0. -/
  | nrankWrite (g : Nat) (v : Word)
  /-- `ATTEST` (R370). Trust host command attesting a member as SPDM requester, leaving it PENDING or NONE. -/
  | attest (member : Nat)
  /-- `REMOVE` (R370). Trust host command removing a PENDING member or marking an ACTIVE one LEAVING. -/
  | remove (member : Nat)
  /-- `BARRIER` (R370). Trust host command arming a barrier for epoch EPOCH + 1. -/
  | barrier
  /-- `TRUST_EVICT` (R381). Trust host command evicting an ACTIVE or LEAVING member. -/
  | trustEvict (member : Nat)
  /-- `LOGCLR` (R370). Trust host command clearing the drop log. -/
  | logclr
  /-- `TRUST_BAD_COMMAND` (R370). An undefined trust CMD_OP gives RES 1. -/
  | trustBadCommand (op : BitVec 4)
  /-- `SELF_WRITE` (R368). A write of SELF, ignored unless DSTATE is ALONE. -/
  | selfWrite (v : Word)
  /-- `MEMBER_ENTRY_WRITE` (R368). A write of a member entry's VALID, KIND, MOD or PEER, ignored unless MSTATE is NONE. -/
  | memberEntryWrite (i : Nat) (v : Word)
  /-- `GET_VERSION` (R371). SPDM request answered with version 1.3. -/
  | getVersion (w : Requester)
  /-- `GET_CAPABILITIES` (R371). SPDM request answered with the engine's capabilities. -/
  | getCapabilities (w : Requester)
  /-- `NEGOTIATE_ALGORITHMS` (R372). SPDM request negotiating only the algorithms of R372. -/
  | negotiateAlgorithms (w : Requester) (set : Algorithms)
  /-- `GET_DIGESTS` (R371). SPDM request for the digests of certificate slots 0 and 1. -/
  | getDigests (w : Requester)
  /-- `GET_CERTIFICATE` (R373). SPDM request for a certificate chain of slot 0 or 1. -/
  | getCertificate (w : Requester) (slot : Nat)
  /-- `CHALLENGE` (R371). SPDM challenge answered with a signed measurement summary hash. -/
  | challenge (w : Requester) (slot : Nat)
  /-- `GET_MEASUREMENTS` (R374). SPDM request answered with signed measurement blocks 1 to 5. -/
  | getMeasurements (w : Requester)
  /-- `KEY_EXCHANGE` (R374). SPDM key exchange combining ECDHE P-384 with ML-KEM-1024. -/
  | keyExchange (w : Requester) (ok : Bool)
  /-- `FINISH` (R371). SPDM FINISH completing a mutually authenticated session. -/
  | finish (w : Requester) (found : Proofs)
  /-- `KEY_UPDATE` (R371). SPDM in-session key update. -/
  | keyUpdate (w : Requester)
  /-- `HEARTBEAT` (R371). SPDM in-session heartbeat. -/
  | heartbeat (w : Requester)
  /-- `END_SESSION` (R371). SPDM request ending a session. -/
  | endSession (w : Requester)
  /-- `CHUNK_SEND` (R371). SPDM chunk of a message above the transfer size, sent to the engine. -/
  | chunkSend (w : Requester) (chunk : Nat) (last : Bool)
  /-- `CHUNK_GET` (R371). SPDM request for the next chunk of a large response. -/
  | chunkGet (w : Requester) (chunk : Nat)
  /-- `SLH_DSA_SIGNATURE_REQUEST` (R373). Vendor-defined request, opcode 0x0001, answered with the SLH-DSA signature over a transcript hash. -/
  | slhDsaSignatureRequest (w : Requester)
  /-- `BARRIER_ARRIVAL` (R380). A member's barrier arrival is received and, when all agree, the module passes or records a disagreement. -/
  | barrierArrival (member : Nat) (epoch : BitVec 32) (members : BitVec 64) (departing : BitVec 64)
  /-- `EVICTION_NOTICE` (R381). Vendor-defined request, opcode 0x0002, evicting a member and arming or re-arming a barrier. -/
  | evictionNotice (source : Nat) (member : Nat)
  /-- `UNSUPPORTED_REQUEST` (R371). Any other SPDM request code is answered with ERROR(UnsupportedRequest). -/
  | unsupportedRequest (w : Requester) (code : BitVec 8)
  /-- `SPDM_RESPONSE` (R371). A response to a request the engine made as requester is received and checked. -/
  | spdmResponse (member : Nat) (r : SpdmAnswer)
  /-- `REATTESTATION_TIMER` (R374). Every ATTEST_PERIOD ms an ACTIVE member is re-measured, and a failure evicts it. -/
  | reattestationTimer (member : Nat)
  /-- `BARRIER_ARRIVE` (R379). When every crossing already sent is acknowledged or failed, DSTATE becomes ARRIVED and arrivals are sent. -/
  | barrierArrive
  /-- `COLD_START` (R403). START_OP 1: verify firmware, train memory, clear every array and memory byte, reset state and become READY. -/
  | coldStart (x : StartChecks)
  /-- `WARM_START` (R403). START_OP 2: check the firmware digest, write back dirty sectors, clear core state and become READY, keeping memory. -/
  | warmStart (x : StartChecks)
  /-- `START_OP_INVALID` (R400). START_OP 0 or 3 gives SRES 1. -/
  | startOpInvalid (op : BitVec 2)
  /-- `POWER_ON` (R403). Supply is applied and every register, HASHM and the controller block take their reset values. -/
  | powerOn
  /-- `SUPPLY_LOSS` (R13). Removal of module supply loses all state. -/
  | supplyLoss
  /-- `POWER_CONTROL_TICK` (R401). Once a millisecond the controller raises or lowers PWRSTEP and writes health entries. -/
  | powerControlTick (x : SensorReadings)
  /-- `MODULE_TRIP` (R401). A temperature at or above TTRIP or a voltage below VTRIP halts the module and sets SSTATE TRIPPED. -/
  | moduleTrip (x : SensorReadings)
  /-- `PATROL_SCRUB` (R393). The scrubber reads a granule at its home, correcting or poisoning it. -/
  | patrolScrub (granule : Nat) (e : ScrubFinding)
  /-- `PWRCAP_WRITE` (R400). A write of PWRCAP, storing at most 2,400. -/
  | pwrcapWrite (v : Word)
  /-- `REGISTER_WRITE` (R37). A host write to a register without a row of its own stores the value, ignoring reserved bits and clearing RW1C bits. -/
  | registerWrite (off : Nat) (v : Word)
  /-- `LATTICE_REGION_COMMAND` (R320). The Lattice instance performs a queued LOPEN, LABORT, LAPPLY, LSTEP, LQUERY, LSTAT or LSPILL of a core on its region, in the region's order, and sets its flag or fails it. `w.words` are the words of its result that land now (R25). -/
  | latticeRegionCommand (core : Nat) (w : CmdWords 1024)
  /-- `PBC_QUERY_ANSWER` (R301). The holding or named PBC answers a queued GSTAT, GSKRD, GCNTRD or GCNTCLR at one moment and writes the result window and flag. `w.words` are the words of its result that land now (R25). -/
  | pbcQueryAnswer (core : Nat) (w : CmdWords 1024)
  /-- `TRUST_COMMAND_ACT` (R386). The trust engine acts on a queued TSTAT, TEPOCH or TLOG, writing its 16 bytes, or accepts a TBARR wait. `w.words` are the words of its result that land now (R25). -/
  | trustCommandAct (core : Nat) (w : CmdWords 1024)
  /-- `COLLECTIVE_ACCEPT` (R361). The exchange engine reads a queued collective's XCB and source bytes, checks its group and ranks, and sends the blocks of R358, or performs XSEND's reads and writes. `w.words` are the words that are read or moved now, of block `w.blk` for a collective (R25, R95). -/
  | collectiveAccept (core : Nat) (w : CmdBlock)
  /-- `MEMORY_ERROR` (R392). A correctable or uncorrectable error arises in an HBM4 or LPDDR-6 granule or an SRAM word. -/
  | memoryError (x : MemErrorSite)
deriving DecidableEq, Repr

/-- The issue slots of a bundle, in the order of the layout of R113 (the sync slot first). -/
inductive Slot where
  | sync | branch | scalar | vectorA | vectorB | matrix | transpose | copy
deriving DecidableEq, Repr

/-- A bundle (R113): its header bits and what each slot holds; `none` is that slot's NOP. -/
structure Bundle where
  fin : Bool
  lbe : Bool
  sync : Option Instr
  br : Option Instr
  sA : Option Instr
  sB : Option Instr
  vA : Option Instr
  vB : Option Instr
  mx : Option Instr
  tr : Option Instr
  cp : Option Instr
deriving DecidableEq, Repr

/-- The all-NOP bundle, dictionary entry 0 (R109, R113). -/
def Bundle.nop : Bundle := ⟨false, false, none, none, none, none, none, none, none, none, none⟩

/-- The slot whose opcode map an instruction stands in (R117, R119-R126); none for what no slot holds. -/
def Instr.slot? : Instr → Option Slot
  | .headOfIssue | .resultLanding | .accumulateLanding | .drainCombine | .idleExpiry | .loopSkip => none
  | .wait _ | .waitAny _ | .fclr _ | .waitC _ => some .sync
  | .endTask => none
  | .jmp _ | .beqz _ _ | .bnez _ _ | .bltz _ _ | .bgez _ _ | .jmpr _ | .bmt _ _ | .bmf _ _ | .call _ | .callr _ | .ret
  | .rspush _ | .rspop _ | .loop _ _ | .trapi _ | .abort _ | .idle _ | .mark _ => some .branch
  | .add _ _ _ | .sub _ _ _ | .and _ _ _ | .or _ _ _ | .xor _ _ _ | .shl _ _ _ | .shr _ _ _ | .asr _ _ _ | .cmpltI64 _ _ _
  | .cmpltN64 _ _ _ | .cmpeq _ _ _ | .minI64 _ _ _ | .maxI64 _ _ _ | .minN64 _ _ _ | .maxN64 _ _ _ | .addi _ _ _
  | .andi _ _ _ | .ori _ _ _ | .xori _ _ _ | .shli _ _ _ | .shri _ _ _ | .asri _ _ _ | .cmplti _ _ _ | .seth _ _ _
  | .puth _ _ _ | .mul _ _ _ | .mulhI64 _ _ _ | .mulhN64 _ _ _ | .divI64 _ _ _ | .divN64 _ _ _ | .remI64 _ _ _
  | .remN64 _ _ _ | .capadd _ _ _ | .capaddi _ _ _ | .capmk _ _ _ | .capseg _ _ | .capoff _ _ | .faddF32 _ _ _
  | .fsubF32 _ _ _ | .fmulF32 _ _ _ | .fmaF32 _ _ _ | .fminF32 _ _ _ | .fmaxF32 _ _ _ | .fcmpltF32 _ _ _ | .fcmpeqF32 _ _ _
  | .cvtF32I64 _ _ | .cvtI64F32 _ _ | .ldsN8 _ _ _ | .ldsI8 _ _ _ | .ldsN16 _ _ _ | .ldsI16 _ _ _ | .ldsN32 _ _ _
  | .ldsI32 _ _ _ | .ldsI64 _ _ _ | .stsN8 _ _ _ | .stsN16 _ _ _ | .stsN32 _ _ _ | .stsN64 _ _ _ | .mfsr _ _ | .mtsr _ _
  | .shape _ _ _ => some .scalar
  | .vadd _ | .vsub _ | .vmul _ | .vmulh _ | .vadds _ | .vsubs _ | .vmin _ | .vmax _ | .vabs _ | .vneg _ | .vand _ | .vor _
  | .vxor _ | .vandn _ | .vfma _ | .vfms _ | .vfnma _ | .vmac _ | .vrsum _ | .vrmin _ | .vrmax _ | .vrand _ | .vror _
  | .vscale _ | .vbcast _ | .vmov _ | .viota _ | .vmovi _ => some .vectorA
  | .vcmpeq _ | .vcmpne _ | .vcmplt _ | .vcmple _ | .vsel _ | .vshl _ | .vshr _ | .vasr _ | .vfshl _ | .vfshr _ | .vlut3 _
  | .vpopc _ | .vperm _ | .vrot _ | .vzip _ | .vunzip _ | .vcvt _ | .vcvtw _ | .vcvts _ | .vunpk4 _ | .mand _ | .mor _
  | .mxor _ | .mnot _ | .mpopc _ | .vext _ | .vins _ | .bstrd _ | .bstclr _ | .scsel _ => some .vectorB
  | .xposeN32 _ _ _ | .xposeN16 _ _ _ | .xposeN8 _ _ _ | .xposeb _ _ _ => some .transpose
  | .mmode _ _ _ | .mcen _ | .mwsh _ _ | .mpusha _ _ _ | .mpushw _ _ _ | .mdrain _ | .maccrd _ _ _ | .maccwr _ _ _ | .maccz _
  | .maccov _ _ | .apxrst | .apxwr _ _ | .apxrd _ _ | .mwclr => some .matrix
  | .tld _ | .tst _ | .tldm _ | .tldbp _ | .pref _ | .strem _ | .stremo _ | .wcopy _ | .wfill _ | .wdecl _ | .wfree _
  | .dset _ | .vld _ | .vst _ | .vldb _ | .vstm _ | .fence _ _ _ | .bclose _ | .bwait _ | .phreg _ | .phdrop _ | .pharr _
  | .phwait _ | .pharm _ | .phrd _ | .swld _ | .swst _ | .aadd _ | .amin _ | .amax _ | .aand _ | .aor _ | .axor _ | .axchg _
  | .acas _ | .afaddF32 _ | .gbag _ | .gbagw _ | .grows _ | .gpref _ | .gstat _ | .gcntrd _ | .gcntclr _ | .gskrd _
  | .lopen _ | .lpush _ | .lpushs _ | .lclose _ | .labort _ | .lapply _ | .lstep _ | .lquery _ | .lstat _ | .lspill _
  | .xsend _ | .xa2a _ | .xbkt _ | .xpool _ | .pcnt _ | .pwait _ | .xstat _ | .xcan _ | .tbarr _ | .tstat _ | .tepoch _
  | .tlog _ => some .copy
  | .doorbell _ _ _ _ | .bind _ _ _ | .unbind _ _ | .periodWrite _ _ | .evict _ _ | .cancel _ _ | .enable _ _
  | .flushImage _ | .replay _ _ | .dcuBadCommand _ _ | .jobCardRead _ _ | .dispatchDecision _ | .budgetPeriodBoundary
  | .pinnedChargeReport _ | .dictionaryLoadComplete _ | .contextRestore _ | .evictionBoundary _ | .contextSave _
  | .saveComplete _ | .taskDrainComplete _ | .completionRecord _ _ _ | .faultLogEntry _ | .flogBaseWrite _ _
  | .flogLog2Write _ _ | .flogEnWrite _ _ | .flogHeadWrite _ _ | .tlbWalkComplete _ | .copyPageTranslation _ _
  | .sectorRequestIssue _ _ | .sectorResponse _ _ _ _ | .copyCommandComplete _ _ | .batchComplete _ _ | .rdcReplacement _ _
  | .homeAccess _ | .hashmWrite _ _ _ | .cntclr _ | .initSync _ _ | .initPhaser _ _ | .freeObject _ _ | .readObject _ _
  | .breakPhaser _ _ | .vertexBadCommand _ _ _ | .ovfBaseWrite _ _ | .objCountWrite _ _ | .vertexOperation _ _
  | .armComplete _ _ | .vertexRecordMove _ _ | .tload _ _ | .tdrop _ _ | .tread _ _ | .hotload _ _ | .hotflush _ _
  | .skclr _ _ | .pbcBadCommand _ _ | .hotBaseWrite _ _ | .hotSlotsWrite _ _ | .slotlog2Write _ _ | .migLimitWrite _ _
  | .gatherAccept _ _ | .shardLookup _ _ _ _ | .partialCombine _ _ _ | .migrationInSwitch _ _ | .migrationTimeout _ _
  | .demotionSwitch _ _ | .rinit _ _ | .rfree _ _ | .rread _ _ | .rflush _ _ | .rabort _ _ | .latticeBadCommand _ _ _
  | .pairIntake _ _ | .streamCommit _ _ | .earlyApply _ _ _ | .binSpillMove _ _ _ _ | .stationSlotReceive _
  | .nackBackoffExpiry _ _ _ | .rackModuleJoin _ | .rackModuleLoss _ | .stremoRelease _ _ _ | .exchangeDelivery _
  | .uetPacketReceive _ | .uetRetransmit _ _ _ | .portLinkChange _ _ | .nrankWrite _ _ | .attest _ | .remove _ | .barrier
  | .trustEvict _ | .logclr | .trustBadCommand _ | .selfWrite _ | .memberEntryWrite _ _ | .getVersion _ | .getCapabilities _
  | .negotiateAlgorithms _ _ | .getDigests _ | .getCertificate _ _ | .challenge _ _ | .getMeasurements _ | .keyExchange _ _
  | .finish _ _ | .keyUpdate _ | .heartbeat _ | .endSession _ | .chunkSend _ _ _ | .chunkGet _ _ | .slhDsaSignatureRequest _
  | .barrierArrival _ _ _ _ | .evictionNotice _ _ | .unsupportedRequest _ _ | .spdmResponse _ _ | .reattestationTimer _
  | .barrierArrive | .coldStart _ | .warmStart _ | .startOpInvalid _ | .powerOn | .supplyLoss | .powerControlTick _
  | .moduleTrip _ | .patrolScrub _ _ | .pwrcapWrite _ | .registerWrite _ _ | .latticeRegionCommand _ _ | .pbcQueryAnswer _ _
  | .trustCommandAct _ _ | .collectiveAccept _ _ | .memoryError _ => none

/-- The width of an element type in bits (R205; the packed types of R62 are 4). -/
def ElemTy.width : ElemTy → Nat
  | .i8 => 8 | .n8 => 8 | .f8 => 8
  | .i16 => 16 | .n16 => 16 | .bf => 16
  | .i32 => 32 | .n32 => 32 | .f32 => 32
  | .i4 => 4 | .n4 => 4

/-- Integer types wider than a nibble (R61). -/
def ElemTy.isInt : ElemTy → Bool
  | .i8 => true | .n8 => true | .i16 => true | .n16 => true | .i32 => true | .n32 => true
  | .f32 => false | .bf => false | .f8 => false | .i4 => false | .n4 => false

/-- Signed integer types (R61). -/
def ElemTy.isSigned : ElemTy → Bool
  | .i8 => true | .i16 => true | .i32 => true | .i4 => true
  | .n8 => false | .n16 => false | .n32 => false | .f32 => false | .bf => false | .f8 => false | .n4 => false

/-- The two floating types of vector arithmetic (R209). -/
def ElemTy.isArithFloat : ElemTy → Bool
  | .f32 => true | .bf => true
  | .i8 => false | .n8 => false | .i16 => false | .n16 => false | .i32 => false | .n32 => false
  | .f8 => false | .i4 => false | .n4 => false

/-- The three floating formats (R58). -/
def ElemTy.isFloat : ElemTy → Bool
  | .f8 => true
  | t => t.isArithFloat

/-- The type code of R121. -/
def ElemTy.code : ElemTy → BitVec 4
  | .i8 => 0 | .n8 => 1 | .i16 => 2 | .n16 => 3 | .i32 => 4 | .n32 => 5 | .f32 => 6 | .bf => 7 | .f8 => 8
  | .i4 => 9 | .n4 => 10

/-- The type a code of R121 names; codes 11 to 15 are reserved. -/
def ElemTy.ofCode (c : BitVec 4) : Option ElemTy :=
  match c.toNat with
  | 0 => some .i8 | 1 => some .n8 | 2 => some .i16 | 3 => some .n16 | 4 => some .i32 | 5 => some .n32
  | 6 => some .f32 | 7 => some .bf | 8 => some .f8 | 9 => some .i4 | 10 => some .n4
  | _ => none

end Sys2Proof
end

