-- ==== Sys2Proof/WellFormed.lean ====
section
/-!
DEFINITION. Which instructions are well formed (R116 and the encoding rule of each chapter), and the same for the
operands of the events: a die, core or object number that the part has.
-/

namespace Sys2Proof

/-- Elements in one lane (R206). -/
def ElemTy.perLane (t : ElemTy) : Nat := 32 / t.width

/-- Elements in one vector register (R205). -/
def ElemTy.count (t : ElemTy) : Nat := 32768 / t.width

/-- A vector register number (R116). -/
def vOk (v : BitVec 8) : Bool := v.toNat < 160

/-- A scalar register number in an eight-bit field whose upper two bits are zero (R121). -/
def sOk (v : BitVec 8) : Bool := v.toNat < 64

/-- A mask register number in an eight-bit field whose upper four bits are zero (R121). -/
def mOk (v : BitVec 8) : Bool := v.toNat < 16

/-- R206: the mask field, for `g` elements per lane. -/
def VOp.maskOk (o : VOp) (g : Nat) : Bool := if o.msk then o.ma.toNat % g == 0 else o.ma == 0

/-- R208: operand b is a vector register, or a scalar one under SBF. -/
def VOp.bOk (o : VOp) : Bool := if o.sbf then sOk o.vb else vOk o.vb

/-- No operand b at all: VB zero and SBF 0. -/
def VOp.noB (o : VOp) : Bool := o.vb == 0 && !o.sbf

/-- Neither mask field is used. -/
def VOp.noMask (o : VOp) : Bool := !o.msk && o.ma == 0

/-- Integer or floating arithmetic types (R210). -/
def VOp.arithTy (o : VOp) : Bool := o.ty.isInt || o.ty.isArithFloat

/-- Every type but the packed ones (R215). -/
def VOp.moveTy (o : VOp) : Bool := o.ty.isInt || o.ty.isFloat

/-- The common shape `OP.t vd, va, b`, masked by the type's own width, nothing else used. -/
def VOp.wfBin (o : VOp) : Bool :=
  vOk o.vd && vOk o.va && o.bOk && o.vc == 0 && o.imm == 0 && o.maskOk o.ty.perLane

/-- The common shape `OP.t vd, va`. -/
def VOp.wfUn (o : VOp) : Bool :=
  vOk o.vd && vOk o.va && o.noB && o.vc == 0 && o.imm == 0 && o.maskOk o.ty.perLane

/-- The common shape `OP.t vd, va, b, vc` (R212, R214). -/
def VOp.wfTri (o : VOp) : Bool :=
  vOk o.vd && vOk o.va && o.bOk && vOk o.vc && o.imm == 0 && o.maskOk o.ty.perLane

/-- The common shape `OP.t sd, va` of a reduction (R213). -/
def VOp.wfRed (o : VOp) : Bool :=
  sOk o.vd && vOk o.va && o.noB && o.vc == 0 && o.imm == 0 && o.maskOk o.ty.perLane

/-- The common shape of a compare (R216): a mask group as destination. -/
def VOp.wfCmp (o : VOp) : Bool :=
  o.arithTy && mOk o.vd && o.vd.toNat % o.ty.perLane == 0 && vOk o.va && o.bOk && o.vc == 0 && o.imm == 0 &&
    o.maskOk o.ty.perLane

/-- An immediate shift amount (R218): IMMF, bits 12:5 zero, below the element width. -/
def VOp.immShift (o : VOp) : Bool :=
  bit o.imm.toNat 13 && bits o.imm.toNat 12 5 == 0 && decide (bits o.imm.toNat 4 0 < o.ty.width)

/-- Shifts (R218): register, scalar or immediate amount. -/
def VOp.wfShift (o : VOp) : Bool :=
  o.ty.isInt && vOk o.vd && vOk o.va && o.vc == 0 && o.maskOk o.ty.perLane &&
    (if bit o.imm.toNat 13 then o.immShift && o.noB else o.imm == 0 && o.bOk)

/-- Funnel shifts (R219). -/
def VOp.wfFunnel (o : VOp) : Bool :=
  o.ty.isInt && vOk o.vd && vOk o.va && o.bOk && o.maskOk o.ty.perLane &&
    (if bit o.imm.toNat 13 then o.immShift && o.vc == 0 else o.imm == 0 && vOk o.vc)

/-- The source type code of a conversion, IMM14 bits 3:0 (R224). -/
def VOp.ts? (o : VOp) : Option ElemTy := ElemTy.ofCode (o.imm.extractLsb' 0 4)

/-- The part selector h of a conversion, IMM14 bits 5:4 (R224). -/
def VOp.part (o : VOp) : Nat := bits o.imm.toNat 5 4

/-- What R224 asks of every conversion, given which pairs of types its opcode takes. -/
def VOp.wfCvt (o : VOp) (pair : ElemTy → ElemTy → Bool) : Bool :=
  match o.ts? with
  | none => false
  | some ts =>
    let wmax := max o.ty.width ts.width
    let wmin := min o.ty.width ts.width
    pair o.ty ts && bits o.imm.toNat 13 6 == 0 && decide (o.part < wmax / wmin) && vOk o.vd && vOk o.va &&
      o.vc == 0 && o.maskOk (32 / wmax)

/-- The types VCVT converts among (R224). -/
def ElemTy.cvtTy (t : ElemTy) : Bool := t.isInt || t.isFloat

/-- The source types of VCVTS (R224). -/
def ElemTy.scaleSrc : ElemTy → Bool
  | .i32 => true | .f32 => true | .bf => true
  | .i8 => false | .n8 => false | .i16 => false | .n16 => false | .n32 => false | .f8 => false | .i4 => false | .n4 => false

/-- The destination types of VCVTS (R224). -/
def ElemTy.scaleDst : ElemTy → Bool
  | .f8 => true | .i8 => true | .n8 => true | .i16 => true | .bf => true
  | .n16 => false | .i32 => false | .n32 => false | .f32 => false | .i4 => false | .n4 => false

/-- The destination types of VUNPK4 (R224). -/
def ElemTy.unpackDst : ElemTy → Bool
  | .i8 => true | .n8 => true | .i16 => true | .n16 => true
  | .i32 => false | .n32 => false | .f32 => false | .bf => false | .f8 => false | .i4 => false | .n4 => false

/-- A mask instruction's unused fields (R225). -/
def VOp.wfMaskOp (o : VOp) : Bool :=
  o.ty == .i8 && o.noMask && !o.sbf && o.vc == 0 && o.imm == 0 && mOk o.va

/-- The index operand of VEXT and VINS (R226). -/
def VOp.idxOk (o : VOp) : Bool :=
  if o.sbf then sOk o.vb && o.imm == 0 else o.vb == 0 && decide (o.imm.toNat < o.ty.count)

/-- The block operand of SCSEL and the unused fields it shares with BSTRD (R227, R228). -/
def VOp.plainB (o : VOp) : Bool := if o.sbf then sOk o.vb else o.vb == 0

/-- A special register that MFSR may name (R152). -/
def srReadable (r : BitVec 12) : Bool :=
  r.toNat ≤ 0x00A || (0x010 ≤ r.toNat && r.toNat ≤ 0x016) || (0x018 ≤ r.toNat && r.toNat ≤ 0x01D)

/-- A special register that MTSR may name: FPCTL, FPSTAT and MARKV (R152, R153). -/
def srWritable (r : BitVec 12) : Bool := r.toNat == 0x010 || r.toNat == 0x011 || r.toNat == 0x015

/-- An accumulator row (R116). -/
def rowOk (r : BitVec 12) : Bool := r.toNat < 1536

/-- TLDBP's EXT (R192). -/
def bpExtOk (e : BitVec 21) : Bool :=
  2 ≤ bits e.toNat 3 0 && bits e.toNat 3 0 ≤ 8 && bits e.toNat 20 5 != 0

/-- No ordering class, no flag. -/
def CfOp.noClsF (o : CfOp) : Bool := o.cls == 0 && o.f == 0

/-- EXT below a power of two: every field above it zero. -/
def CfOp.extBelow (o : CfOp) (n : Nat) : Bool := o.ext.toNat < n

/-- LPUSH's and LPUSHS's EXT (R318): the vector registers are in range and bit 18 is zero. -/
def CfOp.pushExt (o : CfOp) : Bool :=
  bits o.ext.toNat 7 0 < 160 && bits o.ext.toNat 15 8 < 160 && bits o.ext.toNat 18 18 == 0

/-- Well-formedness of every instruction, and the ranges of every event's operands. -/
def Instr.wf : Instr → Bool
  | .headOfIssue | .resultLanding | .accumulateLanding | .drainCombine | .idleExpiry | .loopSkip => true
  | .wait mask | .waitAny mask | .fclr mask | .waitC mask => mask != 0
  | .endTask | .jmp _ | .beqz _ _ | .bnez _ _ | .bltz _ _ | .bgez _ _ | .jmpr _ | .bmt _ _ | .bmf _ _ | .call _ | .callr _
  | .ret | .rspush _ | .rspop _ => true
  | .loop a p => p.toNat ≤ 5 && a.toNat + p.toNat ≤ 63
  | .trapi _ | .abort _ | .idle _ | .mark _ | .add _ _ _ | .sub _ _ _ | .and _ _ _ | .or _ _ _ | .xor _ _ _ | .shl _ _ _
  | .shr _ _ _ | .asr _ _ _ | .cmpltI64 _ _ _ | .cmpltN64 _ _ _ | .cmpeq _ _ _ | .minI64 _ _ _ | .maxI64 _ _ _
  | .minN64 _ _ _ | .maxN64 _ _ _ | .addi _ _ _ | .andi _ _ _ | .ori _ _ _ | .xori _ _ _ | .shli _ _ _ | .shri _ _ _
  | .asri _ _ _ | .cmplti _ _ _ | .seth _ _ _ | .puth _ _ _ | .mul _ _ _ | .mulhI64 _ _ _ | .mulhN64 _ _ _ | .divI64 _ _ _
  | .divN64 _ _ _ | .remI64 _ _ _ | .remN64 _ _ _ | .capadd _ _ _ | .capaddi _ _ _ | .capmk _ _ _ | .capseg _ _ | .capoff _ _
  | .faddF32 _ _ _ | .fsubF32 _ _ _ | .fmulF32 _ _ _ | .fmaF32 _ _ _ | .fminF32 _ _ _ | .fmaxF32 _ _ _ | .fcmpltF32 _ _ _
  | .fcmpeqF32 _ _ _ | .cvtF32I64 _ _ | .cvtI64F32 _ _ | .ldsN8 _ _ _ | .ldsI8 _ _ _ | .ldsN16 _ _ _ | .ldsI16 _ _ _
  | .ldsN32 _ _ _ | .ldsI32 _ _ _ | .ldsI64 _ _ _ | .stsN8 _ _ _ | .stsN16 _ _ _ | .stsN32 _ _ _ | .stsN64 _ _ _ => true
  | .mfsr _ r => srReadable r
  | .mtsr _ r => srWritable r
  | .shape _ _ w => w != 3
  | .vadd o | .vsub o | .vmul o => o.arithTy && o.wfBin
  | .vmulh o | .vadds o | .vsubs o => o.ty.isInt && o.wfBin
  | .vmin o | .vmax o => o.arithTy && o.wfBin
  | .vabs o | .vneg o => (o.ty.isArithFloat || (o.ty.isInt && o.ty.isSigned)) && o.wfUn
  | .vand o | .vor o | .vxor o | .vandn o => o.ty.isInt && o.wfBin
  | .vfma o | .vfms o | .vfnma o => o.ty.isArithFloat && o.wfTri
  | .vmac o => o.ty.isInt && vOk o.vd && vOk o.va && o.bOk && o.vc == 0 && o.imm == 0 && o.maskOk 1
  | .vrsum o | .vrmin o | .vrmax o => o.arithTy && o.wfRed
  | .vrand o | .vror o => o.ty.isInt && o.wfRed
  | .vscale o => (o.ty == .i32 || o.ty.isArithFloat) && o.wfTri
  | .vbcast o => o.moveTy && vOk o.vd && o.vc == 0 && o.maskOk o.ty.perLane &&
      (if o.sbf then o.va == 0 && sOk o.vb && o.imm == 0 else vOk o.va && o.vb == 0 && decide (o.imm.toNat < o.ty.count))
  | .vmov o => o.moveTy && o.wfUn
  | .viota o => o.ty.isInt && vOk o.vd && o.va == 0 && o.plainB && o.vc == 0 && o.maskOk o.ty.perLane
  | .vmovi o => o.ty.isInt && vOk o.vd && o.va == 0 && o.noB && o.vc == 0 && o.maskOk o.ty.perLane
  | .vcmpeq o | .vcmpne o | .vcmplt o | .vcmple o => o.wfCmp

  | .vsel o => o.moveTy && !o.msk && o.ma.toNat % o.ty.perLane == 0 && vOk o.vd && vOk o.va && o.bOk && o.vc == 0 && o.imm == 0
  | .vshl o | .vshr o | .vasr o => o.wfShift
  | .vfshl o | .vfshr o => o.wfFunnel
  | .vlut3 o => o.ty.isInt && vOk o.vd && vOk o.va && o.bOk && vOk o.vc && decide (o.imm.toNat < 256) && o.maskOk o.ty.perLane
  | .vpopc o => o.ty.isInt && o.wfUn
  | .vperm o => o.moveTy && !o.sbf && o.wfBin
  | .vrot o => o.moveTy && vOk o.vd && vOk o.va && o.plainB && (!o.sbf || o.imm == 0) && o.vc == 0 && o.maskOk o.ty.perLane
  | .vzip o

  | .vunzip o => o.moveTy && o.noMask && !o.sbf && decide (o.vd.toNat ≤ 158) && vOk o.va && vOk o.vb && o.vc == 0 && o.imm == 0
  | .vcvt o => o.noB && o.wfCvt fun td ts => td.cvtTy && ts.cvtTy && td != ts
  | .vcvtw o => o.noB && o.wfCvt fun td ts => td.isInt && ts.isInt && decide (td.width < ts.width)
  | .vcvts o => o.bOk && o.wfCvt fun td ts => td.scaleDst && ts.scaleSrc && decide (td.width ≤ ts.width)
  | .vunpk4 o => o.noB && o.wfCvt fun td ts => td.unpackDst && (ts == .i4 || ts == .n4)
  | .mand o | .mor o | .mxor o => mOk o.vd && mOk o.vb && o.wfMaskOp
  | .mnot o => mOk o.vd && o.vb == 0 && o.wfMaskOp
  | .mpopc o => sOk o.vd && o.vb == 0 && o.wfMaskOp
  | .vext o => o.moveTy && o.noMask && sOk o.vd && vOk o.va && o.idxOk && o.vc == 0
  | .vins o => o.moveTy && o.noMask && vOk o.vd && sOk o.va && o.idxOk && o.vc == 0
  | .bstrd o => o.ty == .i8 && o.noMask && sOk o.vd && o.va == 0 && o.vc == 0 && o.plainB &&
      (if o.sbf then o.imm == 0 else decide (o.imm.toNat < 128))
  | .bstclr o => o.ty == .i8 && o.noMask && !o.sbf && o.vd == 0 && o.va == 0 && o.vb == 0 && o.vc == 0 &&
      decide (bits o.imm.toNat 6 0 + bits o.imm.toNat 13 7 + 1 ≤ 128)
  | .scsel o => o.ty == .i8 && o.noMask && sOk o.vd && sOk o.va && o.vc == 0 && o.plainB && bits o.imm.toNat 13 11 == 0 &&
      (!o.sbf || bits o.imm.toNat 10 4 == 0)
  | .xposeN32 d a k => vOk d && vOk a && k == 0
  | .xposeN16 d a k => vOk d && vOk a && decide (k.toNat ≤ 1)
  | .xposeN8 d a k => vOk d && vOk a && decide (k.toNat ≤ 3)
  | .xposeb d a _ => vOk d && vOk a
  | .mmode m _ _ => m != 3
  | .mcen _ => true
  | .mwsh v _ => vOk v
  | .mpusha v _ row | .mpushw v _ row => vOk v && rowOk row
  | .mdrain row => rowOk row
  | .maccrd v sr row | .maccwr v sr row => vOk v && sr.toNat % 2 == 0 && rowOk row
  | .maccz row | .maccov _ row => rowOk row
  | .apxrst => true
  | .apxwr _ sel | .apxrd _ sel => sel != 3
  | .mwclr => true
  | .tld o | .tst o => o.ext == 0
  | .tldm o => o.ext != 0 && decide (o.ext.toNat < 4096)
  | .tldbp o => bpExtOk o.ext
  | .pref o => o.w == 0 && o.ext == 0
  | .strem o | .stremo o => o.ext == 0
  | .wcopy o => o.cls == 0 && o.d == 0 && o.sa == 0 && decide (o.ext.toNat < 32)
  | .wfill o => o.cls == 0 && o.d == 0 && o.ext == 0
  | .wdecl o => o.noClsF && o.sb == 0 && o.extBelow 64
  | .wfree o => o.noClsF && o.sa == 0 && o.sb == 0 && o.extBelow 32
  | .dset o => o.noClsF && o.sb == 0 && o.extBelow 16
  | .vld o | .vst o => vOk o.v && o.ext == 0
  | .vldb o => vOk o.v && !o.am && o.ext == 0
  | .vstm o => vOk o.v && decide (o.ext.toNat < 16)
  | .fence _ scope kind => decide (scope.toNat ≤ 4) && kind != 0
  | .bclose _ | .bwait _ => true
  | .phreg o => o.cls == 0 && bits o.ext.toNat 18 9 == 0 && bits o.ext.toNat 6 5 == 0
  | .phdrop o | .pharr o | .phwait o => o.cls == 0 && o.ext == 0
  | .pharm o | .phrd o => o.cls == 0 && o.extBelow 32
  | .swld o | .swst o | .aadd o => o.extBelow 64
  | .amin o | .amax o => o.extBelow 128
  | .aand o | .aor o | .axor o | .axchg o | .acas o => o.extBelow 64
  | .afaddF32 o => o.extBelow 32
  | .gbag o | .gbagw o | .grows o => o.sb == 0 && o.extBelow 1024
  | .gpref o => o.sb == 0 && o.ext == 0
  | .gstat o | .gcntrd o => o.cls == 0 && o.extBelow 32
  | .gcntclr o => o.cls == 0 && o.sb == 0 && o.ext == 0
  | .gskrd o => o.cls == 0 && o.extBelow 32
  | .lopen o => o.extBelow 256
  | .lpush o => o.noClsF && o.sb == 0 && o.pushExt
  | .lpushs o => o.noClsF && o.sb == 0 && o.pushExt && bits o.ext.toNat 7 0 == 0
  | .lclose o | .labort o => o.cls == 0 && o.sa == 0 && o.sb == 0 && o.extBelow 4
  | .lapply o | .lstep o => o.cls == 0 && o.sb == 0 && o.ext == 0
  | .lquery o => o.cls == 0
  | .lstat o | .lspill o => o.cls == 0 && o.sb == 0
  | .xsend o => o.ext != 0
  | .xa2a o | .xbkt o | .xpool o => o.cls == 0 && o.sb == 0 && o.extBelow 32
  | .pcnt o => o.cls == 0 && o.sa == 0 && o.extBelow 32
  | .pwait o => o.cls == 0 && o.sa == 0 && o.sb == 0 && o.ext == 0
  | .xstat o => o.cls == 0 && o.extBelow 32
  | .xcan o => o.cls == 0 && o.sa == 0 && o.sb == 0 && o.ext == 0
  | .tbarr o => o.cls == 0 && o.sb == 0 && o.ext == 0
  | .tstat o => o.cls == 0 && o.extBelow 32
  | .tepoch o => o.cls == 0 && o.sa == 0 && o.extBelow 32
  | .tlog o => o.cls == 0 && o.extBelow 32
  | .doorbell die slot _ _ | .bind die slot _ | .unbind die ⟨slot, _⟩ => decide (die < 8 ∧ slot < 1024)
  | .periodWrite die _ | .evict die _ | .cancel die _ | .enable die _ | .flushImage die | .replay die _
  | .dcuBadCommand die _ => decide (die < 8)
  | .jobCardRead die slot => decide (die < 8 ∧ slot < 1024)
  | .dispatchDecision die => decide (die < 8)
  | .budgetPeriodBoundary => true
  | .pinnedChargeReport die => decide (die < 8)
  | .dictionaryLoadComplete core | .contextRestore core | .evictionBoundary core | .contextSave core | .saveComplete core
  | .taskDrainComplete core => decide (core < 96)
  | .completionRecord die slot _ => decide (die < 8 ∧ slot < 1024)
  | .faultLogEntry die | .flogBaseWrite die _ | .flogLog2Write die _ | .flogEnWrite die _
  | .flogHeadWrite die _ => decide (die < 8)
  | .tlbWalkComplete core | .copyPageTranslation core _ | .sectorRequestIssue core _ | .sectorResponse core _ _ _
  | .copyCommandComplete core _ | .batchComplete core _ => decide (core < 96)
  | .rdcReplacement die _ => decide (die < 8)
  | .homeAccess _ => true
  | .hashmWrite stack i _ => decide (stack < 8 ∧ i < 64)
  | .cntclr stack => decide (stack < 8)
  | .initSync die _ | .initPhaser die _ | .freeObject die _ | .readObject die _ | .breakPhaser die _
  | .vertexBadCommand die _ _ | .ovfBaseWrite die _ | .objCountWrite die _ => decide (die < 8)
  | .vertexOperation core _ => decide (core < 96)
  | .armComplete core arm => decide (core < 96 ∧ arm < 4)
  | .vertexRecordMove die _ => decide (die < 8)
  | .tload pbc _ | .tdrop pbc _ | .tread pbc _ | .hotload pbc _ | .hotflush pbc _ => decide (pbc < 8)
  | .skclr pbc group => decide (pbc < 8 ∧ group < 64)
  | .pbcBadCommand pbc _ | .hotBaseWrite pbc _ | .hotSlotsWrite pbc _ | .slotlog2Write pbc _
  | .migLimitWrite pbc _ => decide (pbc < 8)
  | .gatherAccept core _ => decide (core < 96)
  | .shardLookup core _ _ shard => decide (core < 96 ∧ shard < 64)
  | .partialCombine core _ _ => decide (core < 96)
  | .migrationInSwitch pbc _ | .migrationTimeout pbc _ | .demotionSwitch pbc _ => decide (pbc < 8)
  | .rinit unit _ | .rfree unit _ | .rread unit _ | .rflush unit _ | .rabort unit _
  | .latticeBadCommand unit _ _ => decide (unit < 16)
  | .pairIntake core _ | .streamCommit core _ => decide (core < 96)
  | .earlyApply unit _ _ | .binSpillMove unit _ _ _ => decide (unit < 16)
  | .stationSlotReceive _ => true
  | .nackBackoffExpiry core _ _ => decide (core < 96)
  | .rackModuleJoin m | .rackModuleLoss m => decide (m < 16)
  | .stremoRelease core _ _ => decide (core < 96)
  | .exchangeDelivery _ | .uetPacketReceive _ => true
  | .uetRetransmit peer core _ => decide (peer < 4096 ∧ core < 96)
  | .portLinkChange port _ => decide (port < 8)
  | .nrankWrite _ _ => true
  | .attest member | .remove member => decide (member < 64)
  | .barrier => true
  | .trustEvict member => decide (member < 64)
  | .logclr | .trustBadCommand _ | .selfWrite _ => true
  | .memberEntryWrite i _ => decide (i < 64)
  | .getVersion _ | .getCapabilities _ | .negotiateAlgorithms _ _ | .getDigests _ | .getCertificate _ _ | .challenge _ _
  | .getMeasurements _ | .keyExchange _ _ | .finish _ _ | .keyUpdate _ | .heartbeat _ | .endSession _ | .chunkSend _ _ _
  | .chunkGet _ _ | .slhDsaSignatureRequest _ => true
  | .barrierArrival member _ _ _ => decide (member < 64)
  | .evictionNotice source member => decide (source < 64 ∧ member < 64)
  | .unsupportedRequest _ _ => true
  | .spdmResponse member _ | .reattestationTimer member => decide (member < 64)
  | .barrierArrive | .coldStart _ | .warmStart _ | .startOpInvalid _ | .powerOn | .supplyLoss | .powerControlTick _
  | .moduleTrip _ | .patrolScrub _ _ | .pwrcapWrite _ | .registerWrite _ _ => true
  | .latticeRegionCommand core _ | .pbcQueryAnswer core _ | .trustCommandAct core _
  | .collectiveAccept core _ => decide (core < 96)
  | .memoryError _ => true

end Sys2Proof
end

