-- ==== Sys2Proof/Decode.lean ====
section
/-!
DEFINITION. Reading bundles: the raw reading of each slot's field (R117, R119-R126), the validity rule of R116 on
top of it, whole bundles, and, after them, the encoder of every slot instruction.
-/

namespace Sys2Proof

/-- Bit `n` of a word, as a truth value. -/
def bitAt {k : Nat} (w : BitVec k) (n : Nat) : Bool := w.getLsbD n

/-- The fields of the vector format (R121); none where the type code is reserved. -/
def VOp.read (w : BitVec 64) : Option VOp :=
  match ElemTy.ofCode (w.extractLsb' 15 4) with
  | none => none
  | some ty => some { vd := w.extractLsb' 48 8, va := w.extractLsb' 40 8, vb := w.extractLsb' 32 8,
                      vc := w.extractLsb' 24 8, ma := w.extractLsb' 20 4, msk := bitAt w 19, ty := ty,
                      sbf := bitAt w 14, imm := w.extractLsb' 0 14 }

/-- The fields of format CA (R126). -/
def CaOp.read (w : BitVec 48) : CaOp :=
  { cls := w.extractLsb' 36 4, sa := w.extractLsb' 30 6, w := w.extractLsb' 25 5, d := w.extractLsb' 21 4,
    ext := w.extractLsb' 0 21 }

/-- The fields of format CF (R126). -/
def CfOp.read (w : BitVec 48) : CfOp :=
  { cls := w.extractLsb' 36 4, f := w.extractLsb' 31 5, sa := w.extractLsb' 25 6, sb := w.extractLsb' 19 6,
    ext := w.extractLsb' 0 19 }

/-- The fields of format CV (R126). -/
def CvOp.read (w : BitVec 48) : CvOp :=
  { v := w.extractLsb' 32 8, w := w.extractLsb' 27 5, am := bitAt w 26, sa := w.extractLsb' 20 6,
    ext := w.extractLsb' 0 20 }

/-- The scalar destination of a vector instruction, VD bits 53:48 (R121). -/
def VOp.sd (o : VOp) : BitVec 6 := o.vd.setWidth 6

/-- IMM14 as a signed number (R215, R222). -/
def VOp.simm (o : VOp) : Int := o.imm.toInt

/-- IMMF: IMM14 bit 13 (R218). -/
def VOp.immf (o : VOp) : Bool := bit o.imm.toNat 13

/-- The raw reading of the sync slot field (R117): its opcode, its fields, and every bit its format leaves unused.
A field whose unused bits are not zero, or whose opcode no table assigns, is no instruction. -/
def readSync (w : BitVec 40) : Option Instr :=
  match (w.extractLsb' 0 8).toNat with
  | 0x01 => some (.wait (w.extractLsb' 8 32))
  | 0x02 => some (.waitAny (w.extractLsb' 8 32))
  | 0x03 => some (.fclr (w.extractLsb' 8 32))
  | 0x04 => some (.waitC (w.extractLsb' 8 32))
  | _ => none

/-- The raw reading of the branch slot field (R119): its opcode, its fields, and every bit its format leaves unused.
A field whose unused bits are not zero, or whose opcode no table assigns, is no instruction. -/
def readBranch (w : BitVec 32) : Option Instr :=
  match (w.extractLsb' 24 8).toNat with
  | 0x01 => if w.extractLsb' 18 6 = 0 then some (.jmp (w.extractLsb' 0 18)) else none
  | 0x02 => some (.beqz (w.extractLsb' 18 6) (w.extractLsb' 0 18))
  | 0x03 => some (.bnez (w.extractLsb' 18 6) (w.extractLsb' 0 18))
  | 0x04 => some (.bltz (w.extractLsb' 18 6) (w.extractLsb' 0 18))
  | 0x05 => some (.bgez (w.extractLsb' 18 6) (w.extractLsb' 0 18))
  | 0x06 => if w.extractLsb' 0 18 = 0 then some (.jmpr (w.extractLsb' 18 6)) else none
  | 0x07 => if w.extractLsb' 18 2 = 0 then some (.bmt (w.extractLsb' 20 4) (w.extractLsb' 0 18)) else none
  | 0x08 => if w.extractLsb' 18 2 = 0 then some (.bmf (w.extractLsb' 20 4) (w.extractLsb' 0 18)) else none
  | 0x09 => if w.extractLsb' 18 6 = 0 then some (.call (w.extractLsb' 0 18)) else none
  | 0x0A => if w.extractLsb' 0 18 = 0 then some (.callr (w.extractLsb' 18 6)) else none
  | 0x0B => if w.extractLsb' 0 24 = 0 then some .ret else none
  | 0x0C => if w.extractLsb' 0 18 = 0 then some (.rspush (w.extractLsb' 18 6)) else none
  | 0x0D => if w.extractLsb' 0 18 = 0 then some (.rspop (w.extractLsb' 18 6)) else none
  | 0x10 => if w.extractLsb' 0 15 = 0 then some (.loop (w.extractLsb' 18 6) (w.extractLsb' 15 3)) else none
  | 0x30 => if w.extractLsb' 18 6 = 0 then some (.trapi (w.extractLsb' 0 18)) else none
  | 0x31 => if w.extractLsb' 18 6 = 0 then some (.abort (w.extractLsb' 0 18)) else none
  | 0x32 => if w.extractLsb' 18 6 = 0 then some (.idle (w.extractLsb' 0 18)) else none
  | 0x33 => if w.extractLsb' 18 6 = 0 then some (.mark (w.extractLsb' 0 18)) else none
  | _ => none

/-- The raw reading of the scalar slot field (R120): its opcode, its fields, and every bit its format leaves unused.
A field whose unused bits are not zero, or whose opcode no table assigns, is no instruction. -/
def readScalar (w : BitVec 32) : Option Instr :=
  match (w.extractLsb' 24 8).toNat with
  | 0x01 => if w.extractLsb' 0 6 = 0 then some (.add (w.extractLsb' 18 6) (w.extractLsb' 12 6) (w.extractLsb' 6 6)) else none
  | 0x02 => if w.extractLsb' 0 6 = 0 then some (.sub (w.extractLsb' 18 6) (w.extractLsb' 12 6) (w.extractLsb' 6 6)) else none
  | 0x03 => if w.extractLsb' 0 6 = 0 then some (.and (w.extractLsb' 18 6) (w.extractLsb' 12 6) (w.extractLsb' 6 6)) else none
  | 0x04 => if w.extractLsb' 0 6 = 0 then some (.or (w.extractLsb' 18 6) (w.extractLsb' 12 6) (w.extractLsb' 6 6)) else none
  | 0x05 => if w.extractLsb' 0 6 = 0 then some (.xor (w.extractLsb' 18 6) (w.extractLsb' 12 6) (w.extractLsb' 6 6)) else none
  | 0x06 => if w.extractLsb' 0 6 = 0 then some (.shl (w.extractLsb' 18 6) (w.extractLsb' 12 6) (w.extractLsb' 6 6)) else none
  | 0x07 => if w.extractLsb' 0 6 = 0 then some (.shr (w.extractLsb' 18 6) (w.extractLsb' 12 6) (w.extractLsb' 6 6)) else none
  | 0x08 => if w.extractLsb' 0 6 = 0 then some (.asr (w.extractLsb' 18 6) (w.extractLsb' 12 6) (w.extractLsb' 6 6)) else none
  | 0x09 => if w.extractLsb' 0 6 = 0 then some (.cmpltI64 (w.extractLsb' 18 6) (w.extractLsb' 12 6) (w.extractLsb' 6 6)) else none
  | 0x0A => if w.extractLsb' 0 6 = 0 then some (.cmpltN64 (w.extractLsb' 18 6) (w.extractLsb' 12 6) (w.extractLsb' 6 6)) else none
  | 0x0B => if w.extractLsb' 0 6 = 0 then some (.cmpeq (w.extractLsb' 18 6) (w.extractLsb' 12 6) (w.extractLsb' 6 6)) else none
  | 0x0C => if w.extractLsb' 0 6 = 0 then some (.minI64 (w.extractLsb' 18 6) (w.extractLsb' 12 6) (w.extractLsb' 6 6)) else none
  | 0x0D => if w.extractLsb' 0 6 = 0 then some (.maxI64 (w.extractLsb' 18 6) (w.extractLsb' 12 6) (w.extractLsb' 6 6)) else none
  | 0x0E => if w.extractLsb' 0 6 = 0 then some (.minN64 (w.extractLsb' 18 6) (w.extractLsb' 12 6) (w.extractLsb' 6 6)) else none
  | 0x0F => if w.extractLsb' 0 6 = 0 then some (.maxN64 (w.extractLsb' 18 6) (w.extractLsb' 12 6) (w.extractLsb' 6 6)) else none
  | 0x11 => some (.addi (w.extractLsb' 18 6) (w.extractLsb' 12 6) (w.extractLsb' 0 12))
  | 0x12 => some (.andi (w.extractLsb' 18 6) (w.extractLsb' 12 6) (w.extractLsb' 0 12))
  | 0x13 => some (.ori (w.extractLsb' 18 6) (w.extractLsb' 12 6) (w.extractLsb' 0 12))
  | 0x14 => some (.xori (w.extractLsb' 18 6) (w.extractLsb' 12 6) (w.extractLsb' 0 12))
  | 0x15 => if w.extractLsb' 6 6 = 0 then some (.shli (w.extractLsb' 18 6) (w.extractLsb' 12 6) (w.extractLsb' 0 6)) else none
  | 0x16 => if w.extractLsb' 6 6 = 0 then some (.shri (w.extractLsb' 18 6) (w.extractLsb' 12 6) (w.extractLsb' 0 6)) else none
  | 0x17 => if w.extractLsb' 6 6 = 0 then some (.asri (w.extractLsb' 18 6) (w.extractLsb' 12 6) (w.extractLsb' 0 6)) else none
  | 0x18 => some (.cmplti (w.extractLsb' 18 6) (w.extractLsb' 12 6) (w.extractLsb' 0 12))
  | 0x19 => some (.seth (w.extractLsb' 18 6) (w.extractLsb' 16 2) (w.extractLsb' 0 16))
  | 0x1A => some (.puth (w.extractLsb' 18 6) (w.extractLsb' 16 2) (w.extractLsb' 0 16))
  | 0x20 => if w.extractLsb' 0 6 = 0 then some (.mul (w.extractLsb' 18 6) (w.extractLsb' 12 6) (w.extractLsb' 6 6)) else none
  | 0x21 => if w.extractLsb' 0 6 = 0 then some (.mulhI64 (w.extractLsb' 18 6) (w.extractLsb' 12 6) (w.extractLsb' 6 6)) else none
  | 0x22 => if w.extractLsb' 0 6 = 0 then some (.mulhN64 (w.extractLsb' 18 6) (w.extractLsb' 12 6) (w.extractLsb' 6 6)) else none
  | 0x23 => if w.extractLsb' 0 6 = 0 then some (.divI64 (w.extractLsb' 18 6) (w.extractLsb' 12 6) (w.extractLsb' 6 6)) else none
  | 0x24 => if w.extractLsb' 0 6 = 0 then some (.divN64 (w.extractLsb' 18 6) (w.extractLsb' 12 6) (w.extractLsb' 6 6)) else none
  | 0x25 => if w.extractLsb' 0 6 = 0 then some (.remI64 (w.extractLsb' 18 6) (w.extractLsb' 12 6) (w.extractLsb' 6 6)) else none
  | 0x26 => if w.extractLsb' 0 6 = 0 then some (.remN64 (w.extractLsb' 18 6) (w.extractLsb' 12 6) (w.extractLsb' 6 6)) else none
  | 0x28 => if w.extractLsb' 0 6 = 0 then some (.capadd (w.extractLsb' 18 6) (w.extractLsb' 12 6) (w.extractLsb' 6 6)) else none
  | 0x29 => some (.capaddi (w.extractLsb' 18 6) (w.extractLsb' 12 6) (w.extractLsb' 0 12))
  | 0x2A => if w.extractLsb' 6 6 = 0 then some (.capmk (w.extractLsb' 18 6) (w.extractLsb' 12 6) (w.extractLsb' 0 6)) else none
  | 0x2B => if w.extractLsb' 0 12 = 0 then some (.capseg (w.extractLsb' 18 6) (w.extractLsb' 12 6)) else none
  | 0x2C => if w.extractLsb' 0 12 = 0 then some (.capoff (w.extractLsb' 18 6) (w.extractLsb' 12 6)) else none
  | 0x30 => if w.extractLsb' 0 6 = 0 then some (.faddF32 (w.extractLsb' 18 6) (w.extractLsb' 12 6) (w.extractLsb' 6 6)) else none
  | 0x31 => if w.extractLsb' 0 6 = 0 then some (.fsubF32 (w.extractLsb' 18 6) (w.extractLsb' 12 6) (w.extractLsb' 6 6)) else none
  | 0x32 => if w.extractLsb' 0 6 = 0 then some (.fmulF32 (w.extractLsb' 18 6) (w.extractLsb' 12 6) (w.extractLsb' 6 6)) else none
  | 0x33 => if w.extractLsb' 0 6 = 0 then some (.fmaF32 (w.extractLsb' 18 6) (w.extractLsb' 12 6) (w.extractLsb' 6 6)) else none
  | 0x34 => if w.extractLsb' 0 6 = 0 then some (.fminF32 (w.extractLsb' 18 6) (w.extractLsb' 12 6) (w.extractLsb' 6 6)) else none
  | 0x35 => if w.extractLsb' 0 6 = 0 then some (.fmaxF32 (w.extractLsb' 18 6) (w.extractLsb' 12 6) (w.extractLsb' 6 6)) else none
  | 0x36 => if w.extractLsb' 0 6 = 0 then some (.fcmpltF32 (w.extractLsb' 18 6) (w.extractLsb' 12 6) (w.extractLsb' 6 6)) else none
  | 0x37 => if w.extractLsb' 0 6 = 0 then some (.fcmpeqF32 (w.extractLsb' 18 6) (w.extractLsb' 12 6) (w.extractLsb' 6 6)) else none
  | 0x38 => if w.extractLsb' 0 12 = 0 then some (.cvtF32I64 (w.extractLsb' 18 6) (w.extractLsb' 12 6)) else none
  | 0x39 => if w.extractLsb' 0 12 = 0 then some (.cvtI64F32 (w.extractLsb' 18 6) (w.extractLsb' 12 6)) else none
  | 0x40 => some (.ldsN8 (w.extractLsb' 18 6) (w.extractLsb' 12 6) (w.extractLsb' 0 12))
  | 0x41 => some (.ldsI8 (w.extractLsb' 18 6) (w.extractLsb' 12 6) (w.extractLsb' 0 12))
  | 0x42 => some (.ldsN16 (w.extractLsb' 18 6) (w.extractLsb' 12 6) (w.extractLsb' 0 12))
  | 0x43 => some (.ldsI16 (w.extractLsb' 18 6) (w.extractLsb' 12 6) (w.extractLsb' 0 12))
  | 0x44 => some (.ldsN32 (w.extractLsb' 18 6) (w.extractLsb' 12 6) (w.extractLsb' 0 12))
  | 0x45 => some (.ldsI32 (w.extractLsb' 18 6) (w.extractLsb' 12 6) (w.extractLsb' 0 12))
  | 0x46 => some (.ldsI64 (w.extractLsb' 18 6) (w.extractLsb' 12 6) (w.extractLsb' 0 12))
  | 0x48 => some (.stsN8 (w.extractLsb' 18 6) (w.extractLsb' 12 6) (w.extractLsb' 0 12))
  | 0x49 => some (.stsN16 (w.extractLsb' 18 6) (w.extractLsb' 12 6) (w.extractLsb' 0 12))
  | 0x4A => some (.stsN32 (w.extractLsb' 18 6) (w.extractLsb' 12 6) (w.extractLsb' 0 12))
  | 0x4B => some (.stsN64 (w.extractLsb' 18 6) (w.extractLsb' 12 6) (w.extractLsb' 0 12))
  | 0x50 => if w.extractLsb' 12 6 = 0 then some (.mfsr (w.extractLsb' 18 6) (w.extractLsb' 0 12)) else none
  | 0x51 => if w.extractLsb' 12 6 = 0 then some (.mtsr (w.extractLsb' 18 6) (w.extractLsb' 0 12)) else none
  | 0x52 => if w.extractLsb' 2 10 = 0 then some (.shape (w.extractLsb' 18 6) (w.extractLsb' 12 6) (w.extractLsb' 0 2)) else none
  | _ => none

/-- The raw reading of the vectorA slot field (R121, R122): its opcode, its fields, and every bit its format leaves unused.
A field whose unused bits are not zero, or whose opcode no table assigns, is no instruction. -/
def readVectorA (w : BitVec 64) : Option Instr :=
  match VOp.read w with
  | none => none
  | some o =>
  match (w.extractLsb' 56 8).toNat with
  | 0x01 => some (.vadd o)
  | 0x02 => some (.vsub o)
  | 0x03 => some (.vmul o)
  | 0x04 => some (.vmulh o)
  | 0x05 => some (.vadds o)
  | 0x06 => some (.vsubs o)
  | 0x07 => some (.vmin o)
  | 0x08 => some (.vmax o)
  | 0x09 => some (.vabs o)
  | 0x0A => some (.vneg o)
  | 0x0B => some (.vand o)
  | 0x0C => some (.vor o)
  | 0x0D => some (.vxor o)
  | 0x0E => some (.vandn o)
  | 0x10 => some (.vfma o)
  | 0x11 => some (.vfms o)
  | 0x12 => some (.vfnma o)
  | 0x13 => some (.vmac o)
  | 0x18 => some (.vrsum o)
  | 0x19 => some (.vrmin o)
  | 0x1A => some (.vrmax o)
  | 0x1B => some (.vrand o)
  | 0x1C => some (.vror o)
  | 0x20 => some (.vscale o)
  | 0x28 => some (.vbcast o)
  | 0x29 => some (.vmov o)
  | 0x2A => some (.viota o)
  | 0x2B => some (.vmovi o)
  | _ => none

/-- The raw reading of the vectorB slot field (R121, R123): its opcode, its fields, and every bit its format leaves unused.
A field whose unused bits are not zero, or whose opcode no table assigns, is no instruction. -/
def readVectorB (w : BitVec 64) : Option Instr :=
  match VOp.read w with
  | none => none
  | some o =>
  match (w.extractLsb' 56 8).toNat with
  | 0x01 => some (.vcmpeq o)
  | 0x02 => some (.vcmpne o)
  | 0x03 => some (.vcmplt o)
  | 0x04 => some (.vcmple o)
  | 0x05 => some (.vsel o)
  | 0x06 => some (.vshl o)
  | 0x07 => some (.vshr o)
  | 0x08 => some (.vasr o)
  | 0x09 => some (.vfshl o)
  | 0x0A => some (.vfshr o)
  | 0x0B => some (.vlut3 o)
  | 0x0C => some (.vpopc o)
  | 0x10 => some (.vperm o)
  | 0x11 => some (.vrot o)
  | 0x12 => some (.vzip o)
  | 0x13 => some (.vunzip o)
  | 0x18 => some (.vcvt o)
  | 0x19 => some (.vcvtw o)
  | 0x1A => some (.vcvts o)
  | 0x1B => some (.vunpk4 o)
  | 0x20 => some (.mand o)
  | 0x21 => some (.mor o)
  | 0x22 => some (.mxor o)
  | 0x23 => some (.mnot o)
  | 0x24 => some (.mpopc o)
  | 0x28 => some (.vext o)
  | 0x29 => some (.vins o)
  | 0x2C => some (.bstrd o)
  | 0x2D => some (.bstclr o)
  | 0x2E => some (.scsel o)
  | _ => none

/-- The raw reading of the matrix slot field (R125): its opcode, its fields, and every bit its format leaves unused.
A field whose unused bits are not zero, or whose opcode no table assigns, is no instruction. -/
def readMatrix (w : BitVec 32) : Option Instr :=
  match (w.extractLsb' 24 8).toNat with
  | 0x01 => if w.extractLsb' 0 19 = 0 then some (.mmode (w.extractLsb' 22 2) (w.extractLsb' 20 2) (bitAt w 19)) else none
  | 0x02 => if w.extractLsb' 0 20 = 0 then some (.mcen (w.extractLsb' 20 4)) else none
  | 0x03 => if w.extractLsb' 0 12 = 0 then some (.mwsh (w.extractLsb' 16 8) (w.extractLsb' 12 4)) else none
  | 0x04 => some (.mpusha (w.extractLsb' 16 8) (w.extractLsb' 12 4) (w.extractLsb' 0 12))
  | 0x05 => some (.mpushw (w.extractLsb' 16 8) (w.extractLsb' 12 4) (w.extractLsb' 0 12))
  | 0x06 => if w.extractLsb' 12 12 = 0 then some (.mdrain (w.extractLsb' 0 12)) else none
  | 0x08 => some (.maccrd (w.extractLsb' 16 8) (w.extractLsb' 12 4) (w.extractLsb' 0 12))
  | 0x09 => some (.maccwr (w.extractLsb' 16 8) (w.extractLsb' 12 4) (w.extractLsb' 0 12))
  | 0x0A => if w.extractLsb' 12 12 = 0 then some (.maccz (w.extractLsb' 0 12)) else none
  | 0x0B => if w.extractLsb' 12 4 = 0 ∧ w.extractLsb' 16 2 = 3 then some (.maccov (w.extractLsb' 18 6) (w.extractLsb' 0 12)) else none
  | 0x0C => if w.extractLsb' 0 24 = 0 then some .apxrst else none
  | 0x0D => if w.extractLsb' 0 16 = 0 then some (.apxwr (w.extractLsb' 18 6) (w.extractLsb' 16 2)) else none
  | 0x0E => if w.extractLsb' 0 16 = 0 then some (.apxrd (w.extractLsb' 18 6) (w.extractLsb' 16 2)) else none
  | 0x0F => if w.extractLsb' 0 24 = 0 then some .mwclr else none
  | _ => none

/-- The raw reading of the transpose slot field (R124): its opcode, its fields, and every bit its format leaves unused.
A field whose unused bits are not zero, or whose opcode no table assigns, is no instruction. -/
def readTranspose (w : BitVec 32) : Option Instr :=
  match (w.extractLsb' 24 8).toNat with
  | 0x01 => if w.extractLsb' 0 4 = 0 then some (.xposeN32 (w.extractLsb' 16 8) (w.extractLsb' 8 8) (w.extractLsb' 4 4)) else none
  | 0x02 => if w.extractLsb' 0 4 = 0 then some (.xposeN16 (w.extractLsb' 16 8) (w.extractLsb' 8 8) (w.extractLsb' 4 4)) else none
  | 0x03 => if w.extractLsb' 0 4 = 0 then some (.xposeN8 (w.extractLsb' 16 8) (w.extractLsb' 8 8) (w.extractLsb' 4 4)) else none
  | 0x04 => if w.extractLsb' 0 4 = 0 then some (.xposeb (w.extractLsb' 16 8) (w.extractLsb' 8 8) (w.extractLsb' 4 4)) else none
  | _ => none

/-- The raw reading of the copy slot field (R126): its opcode, its fields, and every bit its format leaves unused.
A field whose unused bits are not zero, or whose opcode no table assigns, is no instruction. -/
def readCopy (w : BitVec 48) : Option Instr :=
  match (w.extractLsb' 40 8).toNat with
  | 0x01 => some (.tld (CaOp.read w))
  | 0x02 => some (.tst (CaOp.read w))
  | 0x03 => some (.tldm (CaOp.read w))
  | 0x04 => some (.tldbp (CaOp.read w))
  | 0x05 => some (.pref (CaOp.read w))
  | 0x06 => some (.strem (CaOp.read w))
  | 0x07 => some (.stremo (CaOp.read w))
  | 0x08 => some (.wcopy (CaOp.read w))
  | 0x09 => some (.wfill (CaOp.read w))
  | 0x0A => some (.wdecl (CfOp.read w))
  | 0x0B => some (.wfree (CfOp.read w))
  | 0x0C => some (.dset (CfOp.read w))
  | 0x10 => some (.vld (CvOp.read w))
  | 0x11 => some (.vst (CvOp.read w))
  | 0x12 => some (.vldb (CvOp.read w))
  | 0x13 => some (.vstm (CvOp.read w))
  | 0x18 => if w.extractLsb' 0 19 = 0 then some (.fence (w.extractLsb' 24 16) (w.extractLsb' 21 3) (w.extractLsb' 19 2)) else none
  | 0x19 => if w.extractLsb' 32 8 = 0 ∧ w.extractLsb' 0 27 = 0 then some (.bclose (w.extractLsb' 27 5)) else none
  | 0x1A => if w.extractLsb' 0 32 = 0 then some (.bwait (w.extractLsb' 32 8)) else none
  | 0x20 => some (.phreg (CfOp.read w))
  | 0x21 => some (.phdrop (CfOp.read w))
  | 0x22 => some (.pharr (CfOp.read w))
  | 0x23 => some (.phwait (CfOp.read w))
  | 0x24 => some (.pharm (CfOp.read w))
  | 0x25 => some (.phrd (CfOp.read w))
  | 0x26 => some (.swld (CfOp.read w))
  | 0x27 => some (.swst (CfOp.read w))
  | 0x28 => some (.aadd (CfOp.read w))
  | 0x29 => some (.amin (CfOp.read w))
  | 0x2A => some (.amax (CfOp.read w))
  | 0x2B => some (.aand (CfOp.read w))
  | 0x2C => some (.aor (CfOp.read w))
  | 0x2D => some (.axor (CfOp.read w))
  | 0x2E => some (.axchg (CfOp.read w))
  | 0x2F => some (.acas (CfOp.read w))
  | 0x30 => some (.afaddF32 (CfOp.read w))
  | 0x38 => some (.gbag (CfOp.read w))
  | 0x39 => some (.gbagw (CfOp.read w))
  | 0x3A => some (.grows (CfOp.read w))
  | 0x3B => some (.gpref (CfOp.read w))
  | 0x3C => some (.gstat (CfOp.read w))
  | 0x3D => some (.gcntrd (CfOp.read w))
  | 0x3E => some (.gcntclr (CfOp.read w))
  | 0x3F => some (.gskrd (CfOp.read w))
  | 0x40 => some (.lopen (CfOp.read w))
  | 0x41 => some (.lpush (CfOp.read w))
  | 0x42 => some (.lpushs (CfOp.read w))
  | 0x43 => some (.lclose (CfOp.read w))
  | 0x44 => some (.labort (CfOp.read w))
  | 0x45 => some (.lapply (CfOp.read w))
  | 0x46 => some (.lstep (CfOp.read w))
  | 0x47 => some (.lquery (CfOp.read w))
  | 0x48 => some (.lstat (CfOp.read w))
  | 0x49 => some (.lspill (CfOp.read w))
  | 0x50 => some (.xsend (CfOp.read w))
  | 0x51 => some (.xa2a (CfOp.read w))
  | 0x52 => some (.xbkt (CfOp.read w))
  | 0x53 => some (.xpool (CfOp.read w))
  | 0x54 => some (.pcnt (CfOp.read w))
  | 0x55 => some (.pwait (CfOp.read w))
  | 0x56 => some (.xstat (CfOp.read w))
  | 0x57 => some (.xcan (CfOp.read w))
  | 0x58 => some (.tbarr (CfOp.read w))
  | 0x59 => some (.tstat (CfOp.read w))
  | 0x5A => some (.tepoch (CfOp.read w))
  | 0x5B => some (.tlog (CfOp.read w))
  | _ => none
/-- Why a field or a bundle is no instruction (R116). -/
inductive DecodeError where
  /-- Bits 7:2 of the bundle are not zero. -/
  | headerReserved
  /-- A slot's field has a reserved opcode, or a bit that its format leaves unused is not zero. -/
  | reserved (s : Slot)
  /-- A slot's field reads as an instruction whose fields are out of range or not used as its description requires. -/
  | badField (s : Slot)
deriving DecidableEq, Repr

/-- One slot: the all-zero field is its NOP (R113); anything else must read as a well-formed instruction (R116). -/
def slotOf {n : Nat} (s : Slot) (read : BitVec n → Option Instr) (w : BitVec n) : Except DecodeError (Option Instr) :=
  if w = 0 then .ok none
  else match read w with
    | none => .error (.reserved s)
    | some i => if i.wf then .ok (some i) else .error (.badField s)

/-- A whole bundle (R113, R116). -/
def decodeBundle (b : BundleBits) : Except DecodeError Bundle :=
  if b.extractLsb' 2 6 ≠ 0 then .error .headerReserved
  else
    match slotOf .sync readSync (b.extractLsb' 8 40), slotOf .branch readBranch (b.extractLsb' 48 32),
      slotOf .scalar readScalar (b.extractLsb' 80 32), slotOf .scalar readScalar (b.extractLsb' 112 32),
      slotOf .vectorA readVectorA (b.extractLsb' 144 64), slotOf .vectorB readVectorB (b.extractLsb' 208 64),
      slotOf .matrix readMatrix (b.extractLsb' 272 32), slotOf .transpose readTranspose (b.extractLsb' 304 32),
      slotOf .copy readCopy (b.extractLsb' 336 48) with
    | .error e, _, _, _, _, _, _, _, _ => .error e
    | _, .error e, _, _, _, _, _, _, _ => .error e
    | _, _, .error e, _, _, _, _, _, _ => .error e
    | _, _, _, .error e, _, _, _, _, _ => .error e
    | _, _, _, _, .error e, _, _, _, _ => .error e
    | _, _, _, _, _, .error e, _, _, _ => .error e
    | _, _, _, _, _, _, .error e, _, _ => .error e
    | _, _, _, _, _, _, _, .error e, _ => .error e
    | _, _, _, _, _, _, _, _, .error e => .error e
    | .ok y, .ok br, .ok sA, .ok sB, .ok vA, .ok vB, .ok mx, .ok tr, .ok cp =>
      .ok { fin := bitAt b 0, lbe := bitAt b 1, sync := y, br := br, sA := sA, sB := sB, vA := vA, vB := vB,
            mx := mx, tr := tr, cp := cp }

/-- R116: the validity of a bundle depends only on its own 384 bits. -/
def bundleValid (b : BundleBits) : Bool := match decodeBundle b with
  | .ok _ => true
  | .error _ => false

/-! The encoder, from the same tables. -/

/-- The vector format of R121 with its opcode. -/
def VOp.word (op : BitVec 8) (o : VOp) : BitVec 64 :=
  op ++ o.vd ++ o.va ++ o.vb ++ o.vc ++ o.ma ++ BitVec.ofBool o.msk ++ o.ty.code ++ BitVec.ofBool o.sbf ++ o.imm

/-- Format CA of R126. -/
def CaOp.word (op : BitVec 8) (o : CaOp) : BitVec 48 := op ++ o.cls ++ o.sa ++ o.w ++ o.d ++ o.ext

/-- Format CF of R126. -/
def CfOp.word (op : BitVec 8) (o : CfOp) : BitVec 48 := op ++ o.cls ++ o.f ++ o.sa ++ o.sb ++ o.ext

/-- Format CV of R126. -/
def CvOp.word (op : BitVec 8) (o : CvOp) : BitVec 48 := op ++ o.v ++ o.w ++ BitVec.ofBool o.am ++ o.sa ++ o.ext

/-- The sync slot field of an instruction of that slot (R117); 0, the NOP, for any other. -/
def encodeSync : Instr → BitVec 40
  | .wait mask => mask ++ 0x01#8
  | .waitAny mask => mask ++ 0x02#8
  | .fclr mask => mask ++ 0x03#8
  | .waitC mask => mask ++ 0x04#8
  | _ => 0

/-- The branch slot field of an instruction of that slot (R119); 0, the NOP, for any other. -/
def encodeBranch : Instr → BitVec 32
  | .jmp t => 0x01#8 ++ 0#6 ++ t
  | .beqz a t => 0x02#8 ++ a ++ t
  | .bnez a t => 0x03#8 ++ a ++ t
  | .bltz a t => 0x04#8 ++ a ++ t
  | .bgez a t => 0x05#8 ++ a ++ t
  | .jmpr a => 0x06#8 ++ a ++ 0#18
  | .bmt m t => 0x07#8 ++ m ++ 0#2 ++ t
  | .bmf m t => 0x08#8 ++ m ++ 0#2 ++ t
  | .call t => 0x09#8 ++ 0#6 ++ t
  | .callr a => 0x0A#8 ++ a ++ 0#18
  | .ret => 0x0B#8 ++ 0#24
  | .rspush a => 0x0C#8 ++ a ++ 0#18
  | .rspop d => 0x0D#8 ++ d ++ 0#18
  | .loop a p => 0x10#8 ++ a ++ p ++ 0#15
  | .trapi i => 0x30#8 ++ 0#6 ++ i
  | .abort i => 0x31#8 ++ 0#6 ++ i
  | .idle i => 0x32#8 ++ 0#6 ++ i
  | .mark i => 0x33#8 ++ 0#6 ++ i
  | _ => 0

/-- The scalar slot field of an instruction of that slot (R120); 0, the NOP, for any other. -/
def encodeScalar : Instr → BitVec 32
  | .add d a b => 0x01#8 ++ d ++ a ++ b ++ 0#6
  | .sub d a b => 0x02#8 ++ d ++ a ++ b ++ 0#6
  | .and d a b => 0x03#8 ++ d ++ a ++ b ++ 0#6
  | .or d a b => 0x04#8 ++ d ++ a ++ b ++ 0#6
  | .xor d a b => 0x05#8 ++ d ++ a ++ b ++ 0#6
  | .shl d a b => 0x06#8 ++ d ++ a ++ b ++ 0#6
  | .shr d a b => 0x07#8 ++ d ++ a ++ b ++ 0#6
  | .asr d a b => 0x08#8 ++ d ++ a ++ b ++ 0#6
  | .cmpltI64 d a b => 0x09#8 ++ d ++ a ++ b ++ 0#6
  | .cmpltN64 d a b => 0x0A#8 ++ d ++ a ++ b ++ 0#6
  | .cmpeq d a b => 0x0B#8 ++ d ++ a ++ b ++ 0#6
  | .minI64 d a b => 0x0C#8 ++ d ++ a ++ b ++ 0#6
  | .maxI64 d a b => 0x0D#8 ++ d ++ a ++ b ++ 0#6
  | .minN64 d a b => 0x0E#8 ++ d ++ a ++ b ++ 0#6
  | .maxN64 d a b => 0x0F#8 ++ d ++ a ++ b ++ 0#6
  | .addi d a i => 0x11#8 ++ d ++ a ++ i
  | .andi d a i => 0x12#8 ++ d ++ a ++ i
  | .ori d a i => 0x13#8 ++ d ++ a ++ i
  | .xori d a i => 0x14#8 ++ d ++ a ++ i
  | .shli d a i => 0x15#8 ++ d ++ a ++ 0#6 ++ i
  | .shri d a i => 0x16#8 ++ d ++ a ++ 0#6 ++ i
  | .asri d a i => 0x17#8 ++ d ++ a ++ 0#6 ++ i
  | .cmplti d a i => 0x18#8 ++ d ++ a ++ i
  | .seth d q i => 0x19#8 ++ d ++ q ++ i
  | .puth d q i => 0x1A#8 ++ d ++ q ++ i
  | .mul d a b => 0x20#8 ++ d ++ a ++ b ++ 0#6
  | .mulhI64 d a b => 0x21#8 ++ d ++ a ++ b ++ 0#6
  | .mulhN64 d a b => 0x22#8 ++ d ++ a ++ b ++ 0#6
  | .divI64 d a b => 0x23#8 ++ d ++ a ++ b ++ 0#6
  | .divN64 d a b => 0x24#8 ++ d ++ a ++ b ++ 0#6
  | .remI64 d a b => 0x25#8 ++ d ++ a ++ b ++ 0#6
  | .remN64 d a b => 0x26#8 ++ d ++ a ++ b ++ 0#6
  | .capadd d a b => 0x28#8 ++ d ++ a ++ b ++ 0#6
  | .capaddi d a i => 0x29#8 ++ d ++ a ++ i
  | .capmk d a s => 0x2A#8 ++ d ++ a ++ 0#6 ++ s
  | .capseg d a => 0x2B#8 ++ d ++ a ++ 0#12
  | .capoff d a => 0x2C#8 ++ d ++ a ++ 0#12
  | .faddF32 d a b => 0x30#8 ++ d ++ a ++ b ++ 0#6
  | .fsubF32 d a b => 0x31#8 ++ d ++ a ++ b ++ 0#6
  | .fmulF32 d a b => 0x32#8 ++ d ++ a ++ b ++ 0#6
  | .fmaF32 d a b => 0x33#8 ++ d ++ a ++ b ++ 0#6
  | .fminF32 d a b => 0x34#8 ++ d ++ a ++ b ++ 0#6
  | .fmaxF32 d a b => 0x35#8 ++ d ++ a ++ b ++ 0#6
  | .fcmpltF32 d a b => 0x36#8 ++ d ++ a ++ b ++ 0#6
  | .fcmpeqF32 d a b => 0x37#8 ++ d ++ a ++ b ++ 0#6
  | .cvtF32I64 d a => 0x38#8 ++ d ++ a ++ 0#12
  | .cvtI64F32 d a => 0x39#8 ++ d ++ a ++ 0#12
  | .ldsN8 d a i => 0x40#8 ++ d ++ a ++ i
  | .ldsI8 d a i => 0x41#8 ++ d ++ a ++ i
  | .ldsN16 d a i => 0x42#8 ++ d ++ a ++ i
  | .ldsI16 d a i => 0x43#8 ++ d ++ a ++ i
  | .ldsN32 d a i => 0x44#8 ++ d ++ a ++ i
  | .ldsI32 d a i => 0x45#8 ++ d ++ a ++ i
  | .ldsI64 d a i => 0x46#8 ++ d ++ a ++ i
  | .stsN8 b a i => 0x48#8 ++ b ++ a ++ i
  | .stsN16 b a i => 0x49#8 ++ b ++ a ++ i
  | .stsN32 b a i => 0x4A#8 ++ b ++ a ++ i
  | .stsN64 b a i => 0x4B#8 ++ b ++ a ++ i
  | .mfsr d r => 0x50#8 ++ d ++ 0#6 ++ r
  | .mtsr a r => 0x51#8 ++ a ++ 0#6 ++ r
  | .shape d a w => 0x52#8 ++ d ++ a ++ 0#10 ++ w
  | _ => 0

/-- The vectorA slot field of an instruction of that slot (R121, R122); 0, the NOP, for any other. -/
def encodeVectorA : Instr → BitVec 64
  | .vadd o => VOp.word 0x01#8 o
  | .vsub o => VOp.word 0x02#8 o
  | .vmul o => VOp.word 0x03#8 o
  | .vmulh o => VOp.word 0x04#8 o
  | .vadds o => VOp.word 0x05#8 o
  | .vsubs o => VOp.word 0x06#8 o
  | .vmin o => VOp.word 0x07#8 o
  | .vmax o => VOp.word 0x08#8 o
  | .vabs o => VOp.word 0x09#8 o
  | .vneg o => VOp.word 0x0A#8 o
  | .vand o => VOp.word 0x0B#8 o
  | .vor o => VOp.word 0x0C#8 o
  | .vxor o => VOp.word 0x0D#8 o
  | .vandn o => VOp.word 0x0E#8 o
  | .vfma o => VOp.word 0x10#8 o
  | .vfms o => VOp.word 0x11#8 o
  | .vfnma o => VOp.word 0x12#8 o
  | .vmac o => VOp.word 0x13#8 o
  | .vrsum o => VOp.word 0x18#8 o
  | .vrmin o => VOp.word 0x19#8 o
  | .vrmax o => VOp.word 0x1A#8 o
  | .vrand o => VOp.word 0x1B#8 o
  | .vror o => VOp.word 0x1C#8 o
  | .vscale o => VOp.word 0x20#8 o
  | .vbcast o => VOp.word 0x28#8 o
  | .vmov o => VOp.word 0x29#8 o
  | .viota o => VOp.word 0x2A#8 o
  | .vmovi o => VOp.word 0x2B#8 o
  | _ => 0

/-- The vectorB slot field of an instruction of that slot (R121, R123); 0, the NOP, for any other. -/
def encodeVectorB : Instr → BitVec 64
  | .vcmpeq o => VOp.word 0x01#8 o
  | .vcmpne o => VOp.word 0x02#8 o
  | .vcmplt o => VOp.word 0x03#8 o
  | .vcmple o => VOp.word 0x04#8 o
  | .vsel o => VOp.word 0x05#8 o
  | .vshl o => VOp.word 0x06#8 o
  | .vshr o => VOp.word 0x07#8 o
  | .vasr o => VOp.word 0x08#8 o
  | .vfshl o => VOp.word 0x09#8 o
  | .vfshr o => VOp.word 0x0A#8 o
  | .vlut3 o => VOp.word 0x0B#8 o
  | .vpopc o => VOp.word 0x0C#8 o
  | .vperm o => VOp.word 0x10#8 o
  | .vrot o => VOp.word 0x11#8 o
  | .vzip o => VOp.word 0x12#8 o
  | .vunzip o => VOp.word 0x13#8 o
  | .vcvt o => VOp.word 0x18#8 o
  | .vcvtw o => VOp.word 0x19#8 o
  | .vcvts o => VOp.word 0x1A#8 o
  | .vunpk4 o => VOp.word 0x1B#8 o
  | .mand o => VOp.word 0x20#8 o
  | .mor o => VOp.word 0x21#8 o
  | .mxor o => VOp.word 0x22#8 o
  | .mnot o => VOp.word 0x23#8 o
  | .mpopc o => VOp.word 0x24#8 o
  | .vext o => VOp.word 0x28#8 o
  | .vins o => VOp.word 0x29#8 o
  | .bstrd o => VOp.word 0x2C#8 o
  | .bstclr o => VOp.word 0x2D#8 o
  | .scsel o => VOp.word 0x2E#8 o
  | _ => 0

/-- The matrix slot field of an instruction of that slot (R125); 0, the NOP, for any other. -/
def encodeMatrix : Instr → BitVec 32
  | .mmode m t dir => 0x01#8 ++ m ++ t ++ BitVec.ofBool dir ++ 0#19
  | .mcen a => 0x02#8 ++ a ++ 0#20
  | .mwsh v sr => 0x03#8 ++ v ++ sr ++ 0#12
  | .mpusha v sr row => 0x04#8 ++ v ++ sr ++ row
  | .mpushw v sr row => 0x05#8 ++ v ++ sr ++ row
  | .mdrain row => 0x06#8 ++ 0#12 ++ row
  | .maccrd v sr row => 0x08#8 ++ v ++ sr ++ row
  | .maccwr v sr row => 0x09#8 ++ v ++ sr ++ row
  | .maccz row => 0x0A#8 ++ 0#12 ++ row
  | .maccov d row => 0x0B#8 ++ d ++ 3#2 ++ 0#4 ++ row
  | .apxrst => 0x0C#8 ++ 0#24
  | .apxwr a sel => 0x0D#8 ++ a ++ sel ++ 0#16
  | .apxrd d sel => 0x0E#8 ++ d ++ sel ++ 0#16
  | .mwclr => 0x0F#8 ++ 0#24
  | _ => 0

/-- The transpose slot field of an instruction of that slot (R124); 0, the NOP, for any other. -/
def encodeTranspose : Instr → BitVec 32
  | .xposeN32 d a k => 0x01#8 ++ d ++ a ++ k ++ 0#4
  | .xposeN16 d a k => 0x02#8 ++ d ++ a ++ k ++ 0#4
  | .xposeN8 d a k => 0x03#8 ++ d ++ a ++ k ++ 0#4
  | .xposeb d a k => 0x04#8 ++ d ++ a ++ k ++ 0#4
  | _ => 0

/-- The copy slot field of an instruction of that slot (R126); 0, the NOP, for any other. -/
def encodeCopy : Instr → BitVec 48
  | .tld o => CaOp.word 0x01#8 o
  | .tst o => CaOp.word 0x02#8 o
  | .tldm o => CaOp.word 0x03#8 o
  | .tldbp o => CaOp.word 0x04#8 o
  | .pref o => CaOp.word 0x05#8 o
  | .strem o => CaOp.word 0x06#8 o
  | .stremo o => CaOp.word 0x07#8 o
  | .wcopy o => CaOp.word 0x08#8 o
  | .wfill o => CaOp.word 0x09#8 o
  | .wdecl o => CfOp.word 0x0A#8 o
  | .wfree o => CfOp.word 0x0B#8 o
  | .dset o => CfOp.word 0x0C#8 o
  | .vld o => CvOp.word 0x10#8 o
  | .vst o => CvOp.word 0x11#8 o
  | .vldb o => CvOp.word 0x12#8 o
  | .vstm o => CvOp.word 0x13#8 o
  | .fence mask scope kind => 0x18#8 ++ mask ++ scope ++ kind ++ 0#19
  | .bclose f => 0x19#8 ++ 0#8 ++ f ++ 0#27
  | .bwait n => 0x1A#8 ++ n ++ 0#32
  | .phreg o => CfOp.word 0x20#8 o
  | .phdrop o => CfOp.word 0x21#8 o
  | .pharr o => CfOp.word 0x22#8 o
  | .phwait o => CfOp.word 0x23#8 o
  | .pharm o => CfOp.word 0x24#8 o
  | .phrd o => CfOp.word 0x25#8 o
  | .swld o => CfOp.word 0x26#8 o
  | .swst o => CfOp.word 0x27#8 o
  | .aadd o => CfOp.word 0x28#8 o
  | .amin o => CfOp.word 0x29#8 o
  | .amax o => CfOp.word 0x2A#8 o
  | .aand o => CfOp.word 0x2B#8 o
  | .aor o => CfOp.word 0x2C#8 o
  | .axor o => CfOp.word 0x2D#8 o
  | .axchg o => CfOp.word 0x2E#8 o
  | .acas o => CfOp.word 0x2F#8 o
  | .afaddF32 o => CfOp.word 0x30#8 o
  | .gbag o => CfOp.word 0x38#8 o
  | .gbagw o => CfOp.word 0x39#8 o
  | .grows o => CfOp.word 0x3A#8 o
  | .gpref o => CfOp.word 0x3B#8 o
  | .gstat o => CfOp.word 0x3C#8 o
  | .gcntrd o => CfOp.word 0x3D#8 o
  | .gcntclr o => CfOp.word 0x3E#8 o
  | .gskrd o => CfOp.word 0x3F#8 o
  | .lopen o => CfOp.word 0x40#8 o
  | .lpush o => CfOp.word 0x41#8 o
  | .lpushs o => CfOp.word 0x42#8 o
  | .lclose o => CfOp.word 0x43#8 o
  | .labort o => CfOp.word 0x44#8 o
  | .lapply o => CfOp.word 0x45#8 o
  | .lstep o => CfOp.word 0x46#8 o
  | .lquery o => CfOp.word 0x47#8 o
  | .lstat o => CfOp.word 0x48#8 o
  | .lspill o => CfOp.word 0x49#8 o
  | .xsend o => CfOp.word 0x50#8 o
  | .xa2a o => CfOp.word 0x51#8 o
  | .xbkt o => CfOp.word 0x52#8 o
  | .xpool o => CfOp.word 0x53#8 o
  | .pcnt o => CfOp.word 0x54#8 o
  | .pwait o => CfOp.word 0x55#8 o
  | .xstat o => CfOp.word 0x56#8 o
  | .xcan o => CfOp.word 0x57#8 o
  | .tbarr o => CfOp.word 0x58#8 o
  | .tstat o => CfOp.word 0x59#8 o
  | .tepoch o => CfOp.word 0x5A#8 o
  | .tlog o => CfOp.word 0x5B#8 o
  | _ => 0
/-- Field encoders as option: an empty slot is all zero (R113). -/
def encodeOpt {n : Nat} (f : Instr → BitVec n) : Option Instr → BitVec n
  | none => 0
  | some i => f i

/-- A bundle's 384 bits (R113). -/
def encodeBundle (b : Bundle) : BundleBits :=
  encodeOpt encodeCopy b.cp ++ encodeOpt encodeTranspose b.tr ++ encodeOpt encodeMatrix b.mx ++
    encodeOpt encodeVectorB b.vB ++ encodeOpt encodeVectorA b.vA ++ encodeOpt encodeScalar b.sB ++
    encodeOpt encodeScalar b.sA ++ encodeOpt encodeBranch b.br ++ encodeOpt encodeSync b.sync ++ 0#6 ++
    BitVec.ofBool b.lbe ++ BitVec.ofBool b.fin

/-- A bundle that holds one instruction, in the slot its opcode belongs to (R6: the first scalar slot is slot A).
An event is in no slot: the bundle is then empty. -/
def Bundle.single (i : Instr) : Bundle :=
  match i.slot? with
  | some .sync => { Bundle.nop with sync := some i }
  | some .branch => { Bundle.nop with br := some i }
  | some .scalar => { Bundle.nop with sA := some i }
  | some .vectorA => { Bundle.nop with vA := some i }
  | some .vectorB => { Bundle.nop with vB := some i }
  | some .matrix => { Bundle.nop with mx := some i }
  | some .transpose => { Bundle.nop with tr := some i }
  | some .copy => { Bundle.nop with cp := some i }
  | none => Bundle.nop

/-- The first reading that succeeds. -/
def firstOk : List (Except DecodeError (Option Instr)) → Option Instr
  | [] => none
  | .ok (some i) :: _ => some i
  | _ :: l => firstOk l

/-- The instruction a slot field of the table's width stands for. A bundle's slots have opcode maps of their own, so
one 32-bit field is an instruction of each of up to four slots: the scalar slot is asked first, then the transpose,
the matrix and the branch slot, and for a 64-bit field vector slot A before vector slot B. Log entry 4, DEDUCED. -/
def decodeTableWord (nbits w : Nat) : Option Instr :=
  if nbits ≤ 32 then
    firstOk [slotOf .scalar readScalar (BitVec.ofNat 32 w), slotOf .transpose readTranspose (BitVec.ofNat 32 w),
      slotOf .matrix readMatrix (BitVec.ofNat 32 w), slotOf .branch readBranch (BitVec.ofNat 32 w)]
  else if nbits ≤ 40 then firstOk [slotOf .sync readSync (BitVec.ofNat 40 w)]
  else if nbits ≤ 48 then firstOk [slotOf .copy readCopy (BitVec.ofNat 48 w)]
  else if nbits ≤ 64 then
    firstOk [slotOf .vectorA readVectorA (BitVec.ofNat 64 w), slotOf .vectorB readVectorB (BitVec.ofNat 64 w)]
  else none

end Sys2Proof
end

