-- ==== Sys2Proof/Config.lean ====
section
/-!
DEFINITION. What one device has and a program cannot know: the free values, and the few values a module's
surroundings present to it. Each is a constant without a body, so no proof can see what it is.
-/

namespace Sys2Proof

/-- A fresh 4096-bit value, for what another module answers to a crossing of this module: the contents of an object,
region or row that is not homed here. The step reads it at a counter of State and advances the counter.
Log entry 3, DESIGN CHOICE. -/
opaque Config.freeBits : Nat → BitVec 4096

/-- A fresh truth value, for whether another module could perform what it was asked. Log entry 3, DESIGN CHOICE. -/
opaque Config.freeBool : Nat → Bool

/-- How many halfwords the sequencer fetches ahead of issue; the device fetches at most 64 (R111). Log entry 15, DESIGN CHOICE. -/
opaque Config.fetchDepth : Nat

end Sys2Proof
end

