-- ==== Sys2Proof/Machine/Float.lean ====
section
/-!
DEFINITION. Exact values and the one rounding that ends an operation (R58-R60, R64, R66, R69): a number is a sign, a
magnitude and a power of two, so sums and products are exact, and every format is reached by one function.
-/

namespace Sys2Proof.Machine

/-- An exact value: not a number, an infinity, or (-1)^neg × mag × 2^exp (a zero keeps its sign). -/
inductive FVal where
  | nan
  | inf (neg : Bool)
  | num (neg : Bool) (mag : Nat) (exp : Int)
deriving DecidableEq, Repr

/-- A binary format: precision in bits, exponent of the smallest normal, exponent of the largest finite (R58). -/
structure Fmt where
  prec : Nat
  emin : Int
  emax : Int
deriving DecidableEq, Repr

/-- FP32 (R58). -/
def fp32 : Fmt := ⟨24, -126, 127⟩
/-- BF16 (R58). -/
def bf16 : Fmt := ⟨8, -126, 127⟩
/-- E4M3 (R58, R59). -/
def e4m3 : Fmt := ⟨4, -6, 8⟩

/-- 2^n of a possibly negative n as a left or right shift of a magnitude known to be exact. -/
def shiftMag (m : Nat) (n : Int) : Nat := if 0 ≤ n then m <<< n.toNat else m >>> (-n).toNat

/-- The number of bits of a magnitude; 0 for 0. -/
def bitLen (m : Nat) : Nat := if m = 0 then 0 else Nat.log2 m + 1

/-- The value of a bit pattern with `w` fraction bits and an exponent field of `x` bits, for formats with infinities
(R58). -/
def decodeFp (w x : Nat) (b : Nat) : FVal :=
  let s := b.testBit (w + x)
  let e := (b >>> w) % 2 ^ x
  let m := b % 2 ^ w
  let bias : Int := 2 ^ (x - 1) - 1
  if e = 2 ^ x - 1 then (if m = 0 then .inf s else .nan)
  else if e = 0 then .num s m (1 - bias - w)
  else .num s (m + 2 ^ w) (e - bias - w)

/-- The value of FP32 bits. -/
def ofF32 (b : BitVec 32) : FVal := decodeFp 23 8 b.toNat
/-- The value of BF16 bits: the FP32 value with these upper bits (R58). -/
def ofBf (b : BitVec 16) : FVal := decodeFp 7 8 b.toNat
/-- The value of an E4M3 byte (R59). -/
def ofE4m3 (b : BitVec 8) : FVal :=
  let s := b.toNat.testBit 7
  let e := (b.toNat >>> 3) % 16
  let m := b.toNat % 8
  if e = 15 ∧ m = 7 then .nan
  else if e = 0 then .num s m (-9)
  else .num s (m + 8) (e - 10)

/-- The value of an integer. -/
def ofInt (x : Int) : FVal := .num (decide (x < 0)) x.natAbs 0

/-- A signed integer multiple of 2^e with the sign of a zero given. -/
def ofSigned (zneg : Bool) (x : Int) (e : Int) : FVal :=
  if x = 0 then .num zneg 0 e else .num (decide (x < 0)) x.natAbs e

/-- The negation. -/
def FVal.neg : FVal → FVal
  | .nan => .nan
  | .inf s => .inf (!s)
  | .num s m e => .num (!s) m e

/-- The magnitude. -/
def FVal.abs : FVal → FVal
  | .nan => .nan
  | .inf _ => .inf false
  | .num _ m e => .num false m e

/-- The sign bit of a value; false for a NaN. -/
def FVal.isNeg : FVal → Bool
  | .nan => false
  | .inf s => s
  | .num s _ _ => s

/-- Zero of either sign. -/
def FVal.isZero : FVal → Bool
  | .num _ m _ => m == 0
  | .nan => false
  | .inf _ => false

def FVal.isNan : FVal → Bool
  | .nan => true
  | .inf _ => false
  | .num _ _ _ => false

/-- The signed magnitude. -/
def signedMag (s : Bool) (m : Nat) : Int := if s then -(m : Int) else m

/-- The exact sum; opposite infinities give a NaN, and a zero sum of nonzero or opposite terms is +0 (R64, R75). -/
def FVal.add : FVal → FVal → FVal
  | .nan, _ => .nan
  | _, .nan => .nan
  | .inf s, .inf t => if s = t then .inf s else .nan
  | .inf s, .num _ _ _ => .inf s
  | .num _ _ _, .inf t => .inf t
  | .num s m e, .num t n f =>
    let g := min e f
    ofSigned (s && t && m == 0 && n == 0) (signedMag s (shiftMag m (e - g)) + signedMag t (shiftMag n (f - g))) g

/-- The exact difference. -/
def FVal.sub (x y : FVal) : FVal := x.add y.neg

/-- The exact product; zero times infinity is a NaN (R75). -/
def FVal.mul : FVal → FVal → FVal
  | .nan, _ => .nan
  | _, .nan => .nan
  | .inf s, .inf t => .inf (s != t)
  | .inf s, .num t n _ => if n = 0 then .nan else .inf (s != t)
  | .num s m _, .inf t => if m = 0 then .nan else .inf (s != t)
  | .num s m e, .num t n f => .num (s != t) (m * n) (e + f)

/-- The exact product with 2^k. -/
def FVal.scale (k : Int) : FVal → FVal
  | .nan => .nan
  | .inf s => .inf s
  | .num s m e => .num s m (e + k)

/-- The order of exact values, zeros equal; false when either is a NaN. -/
def FVal.lt : FVal → FVal → Bool
  | .nan, _ => false
  | _, .nan => false
  | .inf s, .inf t => s && !t
  | .inf s, .num _ _ _ => s
  | .num _ _ _, .inf t => !t
  | .num s m e, .num t n f =>
    let g := min e f
    decide (signedMag s (shiftMag m (e - g)) < signedMag t (shiftMag n (f - g)))

/-- Equality of exact values, zeros equal; false when either is a NaN. -/
def FVal.eqv (x y : FVal) : Bool := !x.isNan && !y.isNan && !x.lt y && !y.lt x

/-- The order of R246 and of FMIN: as `lt`, with -0 before +0. -/
def FVal.before (x y : FVal) : Bool := x.lt y || (x.eqv y && x.isZero && x.isNeg && !y.isNeg)

/-- The lesser operand, by the rule of FMIN.f32 (R149). -/
def FVal.minOp (x y : FVal) : FVal :=
  if x.isNan then y else if y.isNan then x else if y.before x then y else x

/-- The greater operand, by the rule of FMAX.f32 (R149). -/
def FVal.maxOp (x y : FVal) : FVal :=
  if x.isNan then y else if y.isNan then x else if x.before y then y else x

/-- A magnitude rounded to a multiple of 2^q: the multiple, and whether it was inexact. RTZ cuts; RNE takes the
nearest, ties to even (R64). -/
def roundAt (rtz : Bool) (m : Nat) (e q : Int) : Nat × Bool :=
  if q ≤ e then (m <<< (e - q).toNat, false)
  else
    let s := (q - e).toNat
    let t := m >>> s
    let r := m % 2 ^ s
    if r = 0 then (t, false)
    else if rtz then (t, true)
    else
      let h := 2 ^ (s - 1)
      if h < r ∨ (r = h ∧ t % 2 = 1) then (t + 1, true) else (t, true)

/-- What a rounding gave: the value, and the conditions that R68 names. -/
structure Rounded where
  val : FVal
  inexact : Bool
  overflow : Bool
  tiny : Bool
deriving DecidableEq, Repr

/-- The exponent of the last place of a value with top exponent `t`, in a format, gradual underflow included. -/
def lastPlace (f : Fmt) (t : Int) : Int := max (t - (f.prec - 1)) (f.emin - (f.prec - 1))

/-- The largest finite value of a format with infinities. -/
def largest (f : Fmt) (s : Bool) : FVal := .num s (2 ^ f.prec - 1) (f.emax - (f.prec - 1))

/-- One rounding of an exact value to a format with infinities (R64, R66). `tiny` says that the value, rounded to the
format's precision with an unbounded exponent, lies below the smallest normal and is not zero (R68, R69). -/
def roundTo (f : Fmt) (rtz : Bool) : FVal → Rounded
  | .nan => ⟨.nan, false, false, false⟩
  | .inf s => ⟨.inf s, false, false, false⟩
  | .num s m e =>
    if m = 0 then ⟨.num s 0 0, false, false, false⟩
    else
      let t : Int := e + bitLen m - 1
      let q := lastPlace f t
      let r := roundAt rtz m e q
      let u := roundAt rtz m e (t - (f.prec - 1))
      let tiny := decide ((t - (f.prec - 1)) + bitLen u.1 - 1 < f.emin)
      if f.emax < q + bitLen r.1 - 1 then
        ⟨if rtz then largest f s else .inf s, true, true, tiny⟩
      else ⟨.num s r.1 q, r.2, false, tiny⟩

/-- One rounding to E4M3: beyond 448, infinities included, the result is 448 (R66). -/
def roundE4m3 (rtz : Bool) : FVal → Rounded
  | .nan => ⟨.nan, false, false, false⟩
  | .inf s => ⟨.num s 7 6, false, true, false⟩
  | .num s m e =>
    if m = 0 then ⟨.num s 0 0, false, false, false⟩
    else
      let t : Int := e + bitLen m - 1
      let q := lastPlace e4m3 t
      let r := roundAt rtz m e q
      let u := roundAt rtz m e (t - 3)
      let tiny := decide ((t - 3) + bitLen u.1 - 1 < e4m3.emin)
      if decide (e4m3.emax < q + bitLen r.1 - 1) || (decide (q = 5) && decide (14 < r.1)) then
        ⟨.num s 7 6, true, true, tiny⟩
      else ⟨.num s r.1 q, r.2, false, tiny⟩

/-- Bits of a value that the format holds exactly, for formats with infinities; a NaN is canonical (R60). -/
def encodeFp (w x : Nat) : FVal → Nat
  | .nan => (2 ^ x - 1) * 2 ^ w + 2 ^ (w - 1)
  | .inf s => s.toNat * 2 ^ (w + x) + (2 ^ x - 1) * 2 ^ w
  | .num s m e =>
    let bias : Int := 2 ^ (x - 1) - 1
    let sg := s.toNat * 2 ^ (w + x)
    if m = 0 then sg
    else
      let t : Int := e + bitLen m - 1
      if t < 1 - bias then sg + shiftMag m (e - (1 - bias - w))
      else sg + (t + bias).toNat * 2 ^ w + (shiftMag m (e - (t - w))) % 2 ^ w

/-- FP32 bits. -/
def toF32 (v : FVal) : BitVec 32 := BitVec.ofNat 32 (encodeFp 23 8 v)
/-- BF16 bits. -/
def toBf (v : FVal) : BitVec 16 := BitVec.ofNat 16 (encodeFp 7 8 v)
/-- E4M3 bits; an infinity does not occur (R66). -/
def toE4m3 : FVal → BitVec 8
  | .nan => 0x7F
  | .inf s => BitVec.ofNat 8 (s.toNat * 128 + 0x7E)
  | .num s m e =>
    let sg := s.toNat * 128
    if m = 0 then BitVec.ofNat 8 sg
    else
      let t : Int := e + bitLen m - 1
      if t < -6 then BitVec.ofNat 8 (sg + shiftMag m (e + 9))
      else BitVec.ofNat 8 (sg + (t + 7).toNat * 8 + shiftMag m (e - (t - 3)) % 8)

/-- A value rounded to an integer (R66); inexact says that a fraction was discarded. -/
def roundInt (rtz : Bool) (s : Bool) (m : Nat) (e : Int) : Int × Bool :=
  let r := roundAt rtz m e 0
  (signedMag s r.1, r.2)

/-- Conversion to an integer range (R66): NaN gives 0, everything else saturates. -/
def toIntSat (rtz : Bool) (lo hi : Int) : FVal → Int
  | .nan => 0
  | .inf s => if s then lo else hi
  | .num s m e => clampInt lo hi (roundInt rtz s m e).1

/-- A subnormal input of the flushing paths becomes a zero of its sign (R69). -/
def flushIn (f : Fmt) : FVal → FVal × Bool
  | .nan => (.nan, false)
  | .inf s => (.inf s, false)
  | .num s m e => if m ≠ 0 ∧ e + bitLen m - 1 < f.emin then (.num s 0 0, true) else (.num s m e, false)

/-- A rounded result of the flushing paths: a tiny one is a zero of its exact value's sign (R69). -/
def flushOut (exact : FVal) (r : Rounded) : FVal × Bool :=
  if r.tiny then (.num exact.isNeg 0 0, true) else (r.val, false)

/-- Round to FP32 by RNE, subnormals kept (R81). -/
def rneF32 (v : FVal) : FVal := (roundTo fp32 false v).val

/-- The FP32-biased exponent that MAXEXP merges for a result of format `f` (R70): none for a zero, 255 after an
infinity or a NaN. A subnormal E4M3 result counts as 120. -/
def maxExpOf (f : Fmt) : FVal → Option Nat
  | .nan => some 255
  | .inf _ => some 255
  | .num _ m e => if m = 0 then none else some ((max (e + bitLen m - 1) (f.emin - 1)) + 127).toNat

/-- Division of exact values by a positive integer, rounded once to FP32 by RNE (R81): the quotient is formed with
guard bits enough to round, and a sticky bit. -/
def divF32 (x : FVal) (d : Nat) : FVal :=
  match x with
  | .nan => .nan
  | .inf s => .inf s
  | .num s m e =>
    if m = 0 then .num s 0 0
    else
      let k := 26 + bitLen d + 1
      let n := m <<< k
      let q := n / d
      let st := if n % d = 0 then 0 else 1
      rneF32 (.num s (2 * q + st) (e - k - 1))

end Sys2Proof.Machine
end

