-- ==== Sys2Proof/Machine/Store.lean ====
section
/-!
DEFINITION. A sparse table: the one form in which the model holds anything with many entries of which few differ
from what an entry reads as when nothing has written it (memory, the vector registers, the accumulator store, the
scratchpad, the engines' objects). Keys rise strictly and no entry equals the default, so equal tables are equal data.
-/

namespace Sys2Proof.Machine

/-- A table of `α` by number: what it lists, in rising order of key. -/
abbrev Store (α : Type) := List (Nat × α)

/-- The entry at `k`; `d` where none is listed. -/
def Store.get {α : Type} (d : α) : Store α → Nat → α
  | [], _ => d
  | (a, v) :: l, k => if k < a then d else if k = a then v else Store.get d l k

/-- Without the leading entries at or below `k`. -/
def Store.dropLE {α : Type} (k : Nat) : Store α → Store α
  | [] => []
  | (a, v) :: l => if a ≤ k then Store.dropLE k l else (a, v) :: l

/-- The table with `v` at `k`; writing the default removes the entry. -/
def Store.set {α : Type} [DecidableEq α] (d : α) : Store α → Nat → α → Store α
  | [], k, v => if v = d then [] else [(k, v)]
  | (a, w) :: l, k, v =>
    if a < k then (a, w) :: Store.set d l k v
    else if a = k then (if v = d then Store.dropLE k l else (k, v) :: l)
    else (if v = d then (a, w) :: l else (k, v) :: (a, w) :: l)

/-- The table without the entries of keys `lo` to `hi - 1`: those read as the default again. -/
def Store.clearRange {α : Type} (lo hi : Nat) (t : Store α) : Store α :=
  t.filter fun e => !(decide (lo ≤ e.1) && decide (e.1 < hi))

/-- The canonical form: keys rise strictly, and no entry equals the default. -/
def Store.wf {α : Type} [DecidableEq α] (d : α) : Store α → Bool
  | [] => true
  | (_, v) :: [] => decide (v ≠ d)
  | (a, v) :: (b, w) :: l => decide (v ≠ d) && decide (a < b) && Store.wf d ((b, w) :: l)

/-! Memory: the bytes of every address, on this module and beyond it. -/

/-- Memory as the bytes that differ from 0, which is what a start leaves in every byte (R403). Log entry 6, DESIGN CHOICE. -/
abbrev Memory := List Host.Cell

/-- The canonical form of memory. -/
def Memory.wf (m : Memory) : Bool := Store.wf (0 : Byte) m

/-- One byte. -/
def Memory.byte (m : Memory) (a : Nat) : Byte := Store.get (0 : Byte) m a

/-- One byte written. -/
def Memory.setByte (m : Memory) (a : Nat) (b : Byte) : Memory := Store.set (0 : Byte) m a b

/-- `n` bytes from `a` on as one number, the lowest address lowest (R1). -/
def Memory.read (m : Memory) (a : Nat) : Nat → Nat
  | 0 => 0
  | n + 1 => (m.byte a).toNat + 256 * Memory.read m (a + 1) n

/-- `n` bytes of the number `v` written from `a` on, the lowest address lowest (R1). -/
def Memory.write (m : Memory) (a : Nat) : Nat → Nat → Memory
  | 0, _ => m
  | n + 1, v => Memory.write (m.setByte a (BitVec.ofNat 8 v)) (a + 1) n (v / 256)

/-- The bytes from `a` on under a mask (bit i for byte a + i) replaced by those of `v`. -/
def Memory.writeMasked (m : Memory) (a : Nat) : Nat → Nat → Nat → Memory
  | 0, _, _ => m
  | n + 1, mask, v =>
    Memory.writeMasked (if mask % 2 = 1 then m.setByte a (BitVec.ofNat 8 v) else m) (a + 1) n (mask / 2) (v / 256)

end Sys2Proof.Machine
end

