-- ==== Sys2Proof/Machine/State.lean ====
section
/-!
DEFINITION. Everything the spec gives the machine, as plain data: the cores with their tasks and queues, the die
control units, the engines, memory and its caches, and the module's registers; and the state right after the supply
is applied.
-/

namespace Sys2Proof.Machine

/-! ### The timed domain of a core -/

/-- A completion flag (R23). -/
inductive FlagState where
  | clear | set | error
deriving DecidableEq, Repr

/-- A declared tile window (R175, R178). -/
structure Window where
  base : BitVec 23
  skew : Bool
  tr : BitVec 13
  tc : BitVec 13
  ew : BitVec 2
deriving DecidableEq, Repr

/-- What a BSTAT update adds to one entry (R70): flushes, and the exponent to merge, if one is. -/
structure BstUpd where
  entry : Nat
  flushes : Nat
  exp : Option Nat
deriving DecidableEq, Repr

/-- The bytes of one 4 KiB stripe that a scratchpad write covers; in `mask` each byte written is 0xFF (R168). -/
structure StripePart where
  stripe : Nat
  mask : VReg
  data : VReg
deriving DecidableEq, Repr

/-- A timed result in flight: where it goes, and the value (R132). The forms after `scratch` are the effects that
R128 gives a latency without a register or byte destination. -/
inductive Result where
  | scalar (r : BitVec 6) (v : Word)
  | vector (r : BitVec 8) (v : VReg)
  | mask (r : BitVec 4) (v : MReg)
  | special (n : BitVec 12) (v : Word)
  | accRow (r : BitVec 12) (v : BitVec 4096)
  | apex (n : BitVec 2) (v : BitVec 32)
  | scratch (parts : List StripePart)
  | arrayMode (metric mt : BitVec 2) (argMax : Bool)
  | arrayCen (v : BitVec 128)
  | shadowClear
  | accZero (r : BitVec 12)
  | accovClear (r : BitVec 12)
  | bstClear (first count : Nat)
  | none
deriving DecidableEq, Repr

/-- The issue slot a result came from, as SLOT of R168 numbers it: 0 branch, 1 scalar A, 2 scalar B, 3 vector A,
4 vector B, 5 matrix, 6 transpose, 7 copy. -/
abbrev SlotNo := BitVec 3

/-- A result in flight with its remaining cycles, its FPSTAT bits (IV, DZ, OF, UF, IX from bit 0) and its BSTAT
update (R132, R168). The list that holds them is in issue order, and within a bundle in slot order (R129). -/
structure Pend where
  remain : Nat
  slot : SlotNo
  res : Result
  fps : BitVec 5
  bst : List BstUpd
deriving DecidableEq, Repr

/-- A push in flight (R250, R251): the column sums, flush bits and enables of its issue. -/
structure Push where
  remain : Nat
  ovw : Bool
  int : Bool
  row : BitVec 12
  sums : BitVec 4096
  flin : BitVec 128
  en : BitVec 128
deriving DecidableEq, Repr

/-- A drain in flight (R250, R251): its candidate, if it has one. -/
structure Drain where
  remain : Nat
  valid : Bool
  argMax : Bool
  int : Bool
  value : BitVec 32
  index : BitVec 16
deriving DecidableEq, Repr

/-- The registers of a core: scalar, vector and mask registers, the accumulator store with its overflow bits, and the
scratchpad by stripe. -/
structure Regs where
  s : Vector Word 64
  v : Store VReg
  m : Vector MReg 16
  acc : Store (BitVec 4096)
  accov : BitVec 1536
  scratch : Store VReg
deriving DecidableEq, Repr

/-- The loop buffer and the six counters (R136, R160, R167). `buf` is what the buffer captured: each body bundle with
its halfword address. -/
structure LoopState where
  active : Bool
  lenKnown : Bool
  depthM1 : BitVec 3
  lenM1 : Nat
  pos : Nat
  skip : Bool
  start : BitVec 18
  after : BitVec 18
  bounds : Vector (BitVec 32) 6
  cnt : Vector (BitVec 32) 6
  passes : Nat
  buf : List (BitVec 18 × BundleBits)
deriving DecidableEq, Repr

/-- The sequencer: program counter, pending transfer, IDLE count, extra cycles spent on a bank conflict of the bundle
at the head of issue, whether the walk for that bundle's prefetch has ended without a page (R92), return stack (top first),
loop state. -/
structure Seq where
  pc : BitVec 18
  btarget : BitVec 18
  bdelay : Nat
  idle : Nat
  conflict : Nat
  walked : Bool
  rstack : List (BitVec 18)
  loop : LoopState
  issuing : SlotNo
deriving DecidableEq, Repr

/-- The special registers that hold a value of their own (R65, R68, R70, R152, R155, R245). -/
structure Special where
  shape : Word
  fpctl : Word
  fpstat : Word
  tcycle : Word
  markv : Word
  apxv : BitVec 32
  apxi : BitVec 16
  apxb : BitVec 16
  bstat : Store (BitVec 32)
deriving DecidableEq, Repr

/-- The matrix array (R234, R236, R251). A weight set is one number, row i in bits 2048 i + 2047 to 2048 i. -/
structure ArrayState where
  active : BitVec 262144
  shadow : BitVec 262144
  wcnt : BitVec 7
  metric : BitVec 2
  mt : BitVec 2
  argMax : Bool
  cen : BitVec 128
  pushes : List Push
  drains : List Drain
deriving DecidableEq, Repr

/-- The state of the timed domain (R21). -/
structure Timed where
  regs : Regs
  seq : Seq
  sp : Special
  arr : ArrayState
  inFlight : List Pend
  flags : Vector FlagState 32
  wins : Vector (Option Window) 32
  desc : Vector (BitVec 1024) 16
deriving DecidableEq, Repr

/-! ### Tasks -/

/-- A trap or fatal fault: its code and the detail recorded (R164, R388). -/
structure Trap where
  code : BitVec 8
  detail : Word
deriving DecidableEq, Repr

/-- What a fault-log entry will hold beside the task and the core's control state (R390). -/
structure FaultInfo where
  kind : BitVec 3
  code : BitVec 8
  slot : BitVec 4
  replays : BitVec 3
  detail : Word
  reached : Word
  faddr : BitVec 52
deriving DecidableEq, Repr

/-- A fault-log entry on its way to the ring (R390). -/
structure FaultRec where
  info : FaultInfo
  core : Nat
  regionId : BitVec 32
  cardSeq : BitVec 32
  taskIdx : BitVec 32
  pc : BitVec 18
  branch : BitVec 20
  markv : Word
  tcycle : Word
  loop : LoopState
deriving DecidableEq, Repr

/-- Why a walk did not give a page (R90, R92): no valid entry, or a fatal fault with its code and detail. -/
inductive WalkFault where
  | invalid
  | fatal (code : BitVec 8) (detail : Word)
deriving DecidableEq, Repr

/-- A page fault being held (R92, R391): the copy command it stopped, if one has issued; the virtual address; the
replays answered; whether the task was DRAINING; and the REPLAYs taken that wait for the fault's entry to be written (R389). -/
structure Hold where
  cmd : Option Nat
  va : Nat
  write : Bool
  replays : Nat
  fromDraining : Bool
  asked : Nat
deriving DecidableEq, Repr

/-- A fault that the copy engine found on a later page (R92), until the bundle boundary where the core takes it: the
command with the element index it reached, the fault, the virtual address. -/
structure LateFault where
  cmd : Nat
  reached : Word
  fault : WalkFault
  va : Nat
  write : Bool
deriving DecidableEq, Repr

/-- Why a task is evicted, as REASON of R57 numbers it: 1 budget, 2 priority, 3 host. -/
abbrev EvictReason := BitVec 4

/-- The states of R54 that a task bound to a core passes through. FAILED keeps the core until its queues are empty
(R165). -/
inductive Phase where
  | loading
  | running
  | draining
  | faultHold
  | evicting
  | failed
deriving DecidableEq, Repr

/-- The failure that a flag in ERROR stands for (R196, R324, R399): the opcode, the element index reached, and the
address a fault-log entry records in FADDR. -/
structure FailInfo where
  op : BitVec 8
  reached : Word
  faddr : BitVec 52
deriving DecidableEq, Repr

/-- A stream slot that is OPEN (R317): the handle, the WIDTH and the class of its stream, and the number that sets this
stream apart from every other. -/
structure StreamSlot where
  handle : Word
  width : Nat
  cls : BitVec 4
  uid : Nat
deriving DecidableEq, Repr

/-- A flag set or failed by an engine while the DCU saves or restores its task (R280): the scope of the acquire it
carries, if it is a passage flag. -/
structure Note where
  flag : BitVec 5
  ok : Bool
  scope : Option (BitVec 3)
  fail : Option FailInfo
deriving DecidableEq, Repr

/-- A task bound to a core. `card` is the job card (R40), `segs` the segment table as copied at the bind (R84), empty until
then; `evictFor` the region whose waiting task an eviction makes room for (R46), 0 for the host's, and `evictAt` the cycle it was
chosen in (R55); `cycles` the charged cycles that no save slot holds yet; `reported` the halfwords whose fault fetch-ahead has
logged for the task (R396). -/
structure Task where
  rcb : Nat
  cardIdx : BitVec 32
  taskIdx : BitVec 32
  regionId : BitVec 32
  card : BitVec 1024
  segs : List (BitVec 256)
  phase : Phase
  lcluster : BitVec 2
  cycles : Nat
  order : Nat
  resume : Option Nat
  evict : Option EvictReason
  evictFor : Nat
  evictAt : Nat
  saveSlot : Option Nat
  hold : Option Hold
  late : Option LateFault
  endPc : BitVec 18
  streams : Vector (Option StreamSlot) 4
  notes : List Note
  reported : List Nat
deriving DecidableEq, Repr

/-- The image a core holds (R50, R107, R108): its tag, its dictionary and its code overlay, with the counts that bound
a fetch (R110, R111), and the halfwords and dictionary entries that poison or an uncorrectable error marks (R396). -/
structure Image where
  tag : Word
  dictCount : Nat
  dict : Store BundleBits
  overlayLen : Nat
  overlay : Store (BitVec 16)
  badHalf : List Nat
  badDict : List Nat
deriving DecidableEq, Repr

/-- A place of the timed domain that holds an uncorrectable error (R388 code 0x53, R397): a register, a mask, an accumulator row, the
array, an entry of the loop buffer, or a byte of the scratchpad. -/
inductive MarkSite where
  | scalar (r : Nat)
  | vector (r : Nat)
  | mask (r : Nat)
  | accRow (r : Nat)
  | array
  | loopBuffer (k : Nat)
  | scratch (byte : Nat)
deriving DecidableEq, Repr

/-! ### Commands in the untimed domain -/

/-- The engine whose queue a command entered (R127, R185); `none` for the fences that an arrival or a passage stands for
(R102), which take no entry. -/
inductive Engine where
  | copy | vertex | lattice | exchange | none
deriving DecidableEq, Repr

/-- Where a sector request stands: a write that is still taking its window bytes (R25), a request that the RDC serves, one on the
ring to a station, backing off after a refusal (R343), at its home, held there behind earlier remote stores (R350), or performed. -/
inductive ReqStage where
  | window
  | rdc
  | ring
  | backoff
  | home
  | held
  | done
deriving DecidableEq, Repr

/-- A sector request (R185, R190): the bytes of one sector that one run of a command touches. `key` is the location of
its first byte, `woff` the window byte that goes with it, `mask` the bytes that a remote store writes with `poison` the granules of
them that the RDC held poisoned (R394), `data` what was read or is to be written, `did` the words of it that have been taken from
the window or have performed (R95), `landed` the aligned words that have reached the window (R25): those of the piece, or in the
first request of a TLDBP's run those of the run; `path` the ring path of a remote store's sector write (R348). -/
structure Req where
  id : Nat
  key : Nat
  bytes : Nat
  woff : Int
  mask : BitVec 256
  run : Nat
  plane : Nat
  write : Bool
  data : BitVec 2048
  did : BitVec 64
  landed : BitVec 1024
  stage : ReqStage
  poison : BitVec 8
  tries : Nat
  path : Option (Fin 4)
deriving DecidableEq, Repr

/-- Whether a command goes on (R92, R196). -/
inductive CmdStop where
  | run
  | fault (va : Nat) (write : Bool)
  | failed (reached : Nat) (faddr : BitVec 52)
deriving DecidableEq, Repr

/-- A bag of a gather command (R291, R293): its valid indices, each with the bits of its weight; how many were invalid;
and whether the FAULT policy makes it zeros. -/
structure Bag where
  rows : List (Nat × BitVec 32)
  invalid : Nat
  fault : Bool
deriving DecidableEq, Repr

/-- A partial that a holding PBC returned (R298). -/
structure Partial where
  bag : Nat
  shard : Nat
  count : Nat
  vals : List (BitVec 32)
deriving DecidableEq, Repr

/-- A gather command under way: the bags read, the lowest bag a failure touches with the address it records, the partials
so far, the bags written, the rows whose promotion GPREF started (R297-R300), the words of outputs that have landed (R25), and the
descriptor that it was accepted with (R299). -/
structure GatherProg where
  bags : List Bag
  fail : Option (Nat × BitVec 52)
  parts : List Partial
  written : List Nat
  promos : List (Nat × Nat)
  landed : Store (BitVec 1024)
  desc : BitVec 8704
deriving DecidableEq, Repr

/-- A collective's bytes for one rank (R358): `len` bytes in pieces of 256, the pieces that have arrived, and whether
every one arrived so far was written; the rank's entry as it was taken (R354), and the words of pieces that are arriving (R359). -/
structure XBlock where
  rank : Nat
  data : Nat
  len : Nat
  got : List Nat
  ok : Bool
  entry : Nat
  part : Store (BitVec 64)
deriving DecidableEq, Repr

/-- A result on its way into a command's window (R25): its first logical byte, its bytes and their value, and the aligned words
that have landed. -/
structure Parked where
  l : Nat
  k : Nat
  v : Nat
  landed : BitVec 1024
deriving DecidableEq, Repr

/-- A byte of a window of core `core` that a command holds back, for a word of the window is written, and read, whole (R25): one that has
arrived, in run or for rank `run`, before the rest of its word, or one read with a word that the command carries in parts. -/
structure HeldByte where
  core : Nat
  at' : Nat
  run : Nat
  val : BitVec 8
deriving DecidableEq, Repr

/-- The progress of a command beyond the requests it has formed: what its engine has done for it so far, the parts that a gather
command and a collective keep, the words of a window, a block or of lists that are done with, by block of 1,024 (R25, R95), and those
read and not yet sent, the sectors that an RDC action has yet to visit (R98), a result that is landing, the peers it has reached with the
PVALID that each was taken with (R354), and the bytes of its windows that it holds back. -/
structure Prog where
  act : Nat
  gather : Option GatherProg
  blocks : List XBlock
  accepted : Bool
  part : Store (BitVec 1024)
  took : Store (BitVec 32)
  left : Option (List Nat)
  parked : Option Parked
  nacks : Store Nat
  backoff : List Nat
  peers : List (Nat × Bool)
  held : List HeldByte
deriving DecidableEq, Repr

/-- A command in an engine's queue: the instruction, what it captured at its issue (the values of sa and sb, window
geometry, descriptor and loop counters, a control block, vector registers), its batch, and how far it has got. The
number `seq` is its place in the core's program order (R26, R127); `uid` is the stream that a Lattice command names. -/
structure Cmd where
  seq : Nat
  eng : Engine
  ins : Instr
  cls : BitVec 4
  a : Word
  b : Word
  win : Option Window
  win2 : Option Window
  img : BitVec 1024
  cnt : Vector (BitVec 32) 6
  regs : List VReg
  batch : Option Nat
  run : Nat
  boff : Nat
  nreq : Nat
  reqs : List Req
  stop : CmdStop
  uid : Nat
  prog : Prog
deriving DecidableEq, Repr

/-- A batch (R186-R188): open, or closed with or without a flag; the commands it took in; its first failing command in
issue order. -/
structure Batch where
  id : Nat
  isOpen : Bool
  flag : Option (BitVec 5)
  count : Nat
  failed : Option (Nat × FailInfo)
deriving DecidableEq, Repr

/-- A cached translation of one task on one core (R91). -/
structure TlbEntry where
  seg : BitVec 6
  va : Nat
  size : Nat
  pa : Nat
  w : Bool
deriving DecidableEq, Repr

/-- An arm slot (R272): the PHARM it belongs to, its flag, the phaser's handle, the member, the window, the byte count N
and the count C; `ok` once Vertex has found the member a RECV member; the NACKs that its arrival has received, and whether it backs
off (R343). -/
structure Arm where
  seq : Nat
  flag : BitVec 5
  handle : Word
  member : BitVec 6
  w : BitVec 5
  n : Nat
  c : Nat
  ok : Bool
  nacks : Nat
  backoff : Bool
deriving DecidableEq, Repr

/-- What a core has in the untimed domain: the number of its next command, its queues, its batches, the first failure of
a batch closed without a flag, its cached translations, its arm slots with the arms released whose arrival has not yet
been accepted (R272), SENT and DONE by path (R348), and the first remote
store of the task that failed (R352). -/
structure Untimed where
  nseq : Nat
  queue : List Cmd
  batches : List Batch
  nbatch : Nat
  flagless : Option FailInfo
  tlb : List TlbEntry
  arms : Vector (Option Arm) 4
  released : List Arm
  sent : Vector (BitVec 48) 4
  done : Vector (BitVec 48) 4
  remoteFail : Option Nat
deriving DecidableEq, Repr

/-! ### Regions and the die control units -/

/-- RSTATE of R32. -/
inductive RState where
  | idle | active | stopped | qerror
deriving DecidableEq, Repr

/-- A card taken from a job queue and not yet completed (R42, R43); bit n of `dies` says that a task of it ran on die n (R106). -/
structure Card where
  idx : BitVec 32
  raw : BitVec 1024
  valid : Bool
  next : Nat
  running : Nat
  done : Nat
  stop : Bool
  kept : Bool
  failed : Option Nat
  reached : Word
  launchFail : BitVec 8
  cycles : Nat
  dies : BitVec 8
deriving DecidableEq, Repr

/-- An evicted task: its save slot, card and linear index, and its die (R53, R57); and what the DCU keeps of it beside the
slot: its stream slots (R317), its passage flags and failures not yet observed (R196, R280), the first failure of a batch
closed without a flag (R188), whether a remote store of it has failed (R352), the cycles charged since its header was written
(R35), the halfwords that fetch-ahead has reported (R396), and a fatal fault found while it was saved (R388). -/
structure Evicted where
  slot : Nat
  cardIdx : BitVec 32
  taskIdx : BitVec 32
  die : Nat
  streams : Vector (Option StreamSlot) 4
  acquires : List (BitVec 5 × BitVec 3)
  fails : Vector (Option FailInfo) 32
  flagless : Option FailInfo
  remoteFail : Bool
  cycles : Nat
  reported : List Nat
  late : Option LateFault
deriving DecidableEq, Repr

/-- A region control block as the DCUs hold it: the H fields as last read, the D fields of their own store, and the
cards, evicted tasks and save slots in use of the region (R32-R43). Ancestors are held in the same way. -/
structure Region where
  raw : BitVec 2048
  die : Nat
  bound : Bool
  jqHead : BitVec 32
  jqTail : BitVec 32
  cqTail : BitVec 32
  cqPhase : Bool
  used : Nat
  rstate : RState
  mark : Option (BitVec 32)
  cards : List Card
  evicted : List Evicted
  saveUsed : List Nat
deriving DecidableEq, Repr

/-- A doorbell slot (R37, R38). `addr` is RCB_ADDR as last written; `left` the RCB that the slot last unbound, whose work left
keeps `busy`. -/
structure BindSlot where
  addr : BitVec 52
  valid : Bool
  busy : Bool
  err : Bool
  left : BitVec 52
deriving DecidableEq, Repr

/-- The fault-log registers of R389 with the entries on their way to the ring. -/
structure FaultLog where
  base : BitVec 52
  log2 : BitVec 5
  tail : BitVec 32
  head : BitVec 32
  lost : BitVec 32
  irq : BitVec 16
  en : Bool
  queue : List FaultRec
deriving DecidableEq, Repr

/-- The register block and the store of one DCU (R37), with the pinned cycles it has yet to report (R47). `evicting` is the
core of an EVICT command in progress, `dispatched` the cycle of the die's last dispatch (R45). -/
structure Dcu where
  dispatchEn : Bool
  cmdArg : Word
  busy : Bool
  res : BitVec 4
  evicting : Option Nat
  dbIgnored : BitVec 32
  slots : Store BindSlot
  served : Vector (Option Nat) 8
  pinned : List (Nat × Nat)
  dispatched : Option Nat
  flog : FaultLog
deriving DecidableEq, Repr

/-! ### A core -/

/-- A core: its timed domain, the task bound to it, its part of the untimed domain, the image it holds, the places that
hold an uncorrectable error (R397), what each flag in ERROR stands for (R196), and the passage flags that no wait has
observed yet, with the scope of their acquire (R102). -/
structure Core where
  timed : Timed
  task : Option Task
  un : Untimed
  image : Image
  marks : List MarkSite
  fails : Vector (Option FailInfo) 32
  acquires : List (BitVec 5 × BitVec 3)
deriving DecidableEq, Repr

/-! ### Caches and memory -/

/-- A sector of an RDC (R97): `full` says that every byte is valid, `dirty` which bytes are dirty; of a sector that is
not full only the dirty bytes are valid. `poison` marks its 32-byte granules (R392); `who` names the cores and classes whose writes
are among the dirty bytes (R101). `got` names the words that a fill under way has taken from the home (R95): they become valid with
the last of them. INVALID is the sector not listed. -/
structure RdcSector where
  full : Bool
  dirty : BitVec 256
  data : BitVec 2048
  poison : BitVec 8
  who : List (Nat × BitVec 4)
  got : BitVec 64
deriving DecidableEq, Repr

/-- A sector that is INVALID. -/
def RdcSector.invalid : RdcSector := ⟨false, 0, 0, 0, [], 0⟩

/-- The interleave registers of an HBM4 stack (R203) and its PCREQ counters. -/
structure Hbm where
  hashM : Vector (BitVec 44) 6
  hashA : Vector (BitVec 44) 6
  hashErr : Bool
  pcreq : Store Nat
deriving DecidableEq, Repr

/-! ### Vertex -/

/-- A phaser (R260). -/
structure Phaser where
  phase : BitVec 32
  scope : BitVec 3
  deliv : Bool
  broken : Bool
  cluster : BitVec 2
  resv : BitVec 25
  reg : BitVec 64
  arr : BitVec 64
  ahead : BitVec 64
  modeLo : BitVec 64
  modeHi : BitVec 64
  join : BitVec 64
  leave : BitVec 64
deriving DecidableEq, Repr

/-- The kind of an object (R255), with its record. -/
inductive ObjKind where
  | free
  | sync (words : BitVec 512)
  | phaser (p : Phaser)
deriving DecidableEq, Repr

/-- An object and its generation (R255). -/
structure VObject where
  gen : BitVec 8
  kind : ObjKind
deriving DecidableEq, Repr

/-- A task by its region's RCB, its card and its linear index. -/
structure TaskRef where
  rcb : Nat
  cardIdx : BitVec 32
  taskIdx : BitVec 32
deriving DecidableEq, Repr

/-- A held wait request (R263); `who` is none for a task of another module, which `away` then tells from others; `op` is the opcode of
its command, for a failure. -/
structure WaitReq where
  obj : Nat
  phase : BitVec 32
  who : Option TaskRef
  away : Nat
  flag : BitVec 5
  scope : BitVec 3
  op : BitVec 8
deriving DecidableEq, Repr

/-- The Vertex of a die (R254-R258). `busy` is the word of a host command in progress, `cmdAt` CMD_ADDR as it stood when that began;
`moved` lists the objects whose record stands in the overflow area, `bad` those whose record in SRAM holds an uncorrectable error
(R394). -/
structure VertexUnit where
  ovfBase : BitVec 52
  objCount : Nat
  cmdAddr : BitVec 52
  busy : Option Word
  cmdAt : BitVec 52
  res : BitVec 4
  genOut : BitVec 8
  cfgErr : Bool
  objs : Store VObject
  moved : List Nat
  bad : List Nat
  ovfMoves : Nat
  waits : List WaitReq
deriving DecidableEq, Repr

/-! ### Pooling buffers -/

/-- The states of a row that is not COLD (R305). -/
inductive RowState where
  | migIn | resident | migOut
deriving DecidableEq, Repr

/-- A row in the residency directory of its holding PBC (R305): its slot, its CLOCK reference bit, and the cycle its
promotion started in. -/
structure HotRow where
  table : Nat
  row : Nat
  slot : Nat
  st : RowState
  ref : Bool
  start : Nat
deriving DecidableEq, Repr

/-- A host command of a PBC that holds BUSY (R289). -/
inductive PbcBusy where
  | drop (table : Nat)
  | flush (table : Nat)
  | load (table row : Nat) (started : Bool)
deriving DecidableEq, Repr

/-- A pooling buffer chiplet (R287-R289, R303-R305). Counter i of table t is `counters` at 8 t + i; counter j of sketch
row k of group g is `sketch` at 262144 g + 65536 k + j. -/
structure Pbc where
  hotBase : BitVec 52
  hotSlots : BitVec 20
  slotLog2 : BitVec 4
  migLimit : BitVec 32
  cmdAddr : BitVec 52
  cmdArg : Word
  busy : Option PbcBusy
  res : BitVec 4
  cfgErr : Bool
  thresh : Vector (BitVec 16) 16
  halve : Vector (BitVec 32) 16
  glookups : Vector (BitVec 32) 16
  sketch : Store (BitVec 16)
  hot : List HotRow
  hand : Nat
  counters : Store Nat
deriving DecidableEq, Repr

/-! ### The Lattice -/

/-- A long accumulator (R77, R78). -/
structure LongAcc where
  l : BitVec 320
  posInf : Bool
  negInf : Bool
  nan : Bool
deriving DecidableEq, Repr

/-- A bin of one key (R326): its epoch (R327) once it is committed, its term count C, an accumulator or a value per
element, the place of LAST's pair, and whether it stands in the spill area. -/
structure Bin where
  key : Nat
  epoch : BitVec 32
  count : Nat
  accs : List LongAcc
  vals : List (BitVec 32)
  last : Nat × Nat
  spilled : Bool
deriving DecidableEq, Repr

/-- An open stream at its instance (R321): the number it is known by, its stream sequence number, the pairs taken in, its
bins. -/
structure Stream where
  uid : Nat
  seqNo : Nat
  pairs : Nat
  bins : List Bin
deriving DecidableEq, Repr

/-- A VALID region (R311-R315): its descriptor, what RINIT captured of a linked table, its epoch, streams, committed bins
and status (R338). -/
structure LRegion where
  desc : BitVec 1024
  rowLo : Nat
  rowHi : Nat
  rowBase : Nat
  pitch : Nat
  epoch : BitVec 32
  nextSeq : Nat
  streams : List Stream
  bins : List Bin
  commits : Nat
  fails : Nat
  applies : Nat
  laccSat : Bool
deriving DecidableEq, Repr

/-- A Lattice instance (R309, R310): its registers, with the word of a host command in progress and CMD_ADDR as it stood when that
began, the regions' generations, and the VALID regions by number. `dead` keeps the REACHED value of each failed stream until its LCLOSE or LABORT; `bad` the regions and keys
of committed bins that hold an uncorrectable error, `badOpen` the streams and keys of stream bins that do (R394). -/
structure LatticeUnit where
  cmdAddr : BitVec 52
  busy : Option Word
  cmdAt : BitVec 52
  res : BitVec 4
  genOut : BitVec 8
  early : Nat
  bpcyc : Nat
  gens : Store (BitVec 8)
  regions : List (Nat × LRegion)
  dead : List (Nat × Nat)
  bad : List (Nat × Nat)
  badOpen : List (Nat × Nat)
deriving DecidableEq, Repr

/-! ### The exchange engine (R354, R360, R363, R404) -/

/-- A peer entry with what XSTAT reports of it. -/
structure Peer where
  faddr : BitVec 48
  pvalid : Bool
  reach : Bool
  retrans : Nat
  dropped : Nat
deriving DecidableEq, Repr

/-- A peer not defined. -/
def Peer.none : Peer := ⟨0, false, false, 0, 0⟩

/-- The exchange engine. Rank entry j of group g is `ranks` at 64 g + j, as bits 25:0 of R354; `tries` counts the
retransmissions of a packet in flight to a peer for a command. -/
structure Exchange where
  rackMap : BitVec 16
  portUp : BitVec 8
  nrank : Vector (BitVec 7) 64
  ranks : Store (BitVec 26)
  peers : Store Peer
  tries : Store Nat
deriving DecidableEq, Repr

/-! ### The trust engine (R368-R382) -/

/-- MSTATE. -/
inductive MState where
  | none | attesting | pending | active | leaving | evicted
deriving DecidableEq, Repr

/-- A member entry: what it names, its state and MAUTH; the reference digests of its last ATTEST (R374), and the steps of
the SPDM exchange passed so far. -/
structure Member where
  valid : Bool
  isPeer : Bool
  mod : BitVec 4
  peer : BitVec 12
  mstate : MState
  mauth : Nat
  refs : List (BitVec 384)
  steps : Nat
deriving DecidableEq, Repr

/-- DSTATE. -/
inductive DState where
  | alone | active | holding | arrived
deriving DecidableEq, Repr

/-- A received barrier arrival (R379). -/
structure Arrival where
  member : Nat
  epoch : BitVec 32
  members : BitVec 64
  departing : BitVec 64
deriving DecidableEq, Repr

/-- A host command of the trust engine that holds BUSY. -/
inductive TrustBusy where
  | attest (member : Nat)
  | barrier
deriving DecidableEq, Repr

/-- A wait of a TBARR (R385). -/
structure EpochWait where
  who : TaskRef
  flag : BitVec 5
  target : BitVec 32
deriving DecidableEq, Repr

/-- What a lane's receiver has accepted in an epoch (R376): the highest sequence and, within its window, which below it. -/
structure LaneIn where
  next : Nat
  seen : List Nat
deriving DecidableEq, Repr

/-- The trust engine. Lane l of member m is entry 6 m + l of `sendSeq`, and of the tables of what has come in under the
current epoch and under the next. -/
structure Trust where
  dstate : DState
  epoch : BitVec 32
  self : BitVec 6
  attestPeriod : BitVec 32
  cmdAddr : BitVec 52
  busy : Option TrustBusy
  res : BitVec 4
  autherr : Nat
  drops : Nat
  dropLog : List (BitVec 128)
  members : Vector Member 64
  released : Bool
  arrivals : List Arrival
  waits : List EpochWait
  sendSeq : Store Nat
  laneIn : Store LaneIn
  laneNext : Store LaneIn
deriving DecidableEq, Repr

/-- The responder's side of an SPDM connection (R371-R374): the requester, how far version, capabilities and algorithms
have got, whether a session is open and finished, and the bytes of a message in chunks. -/
structure Spdm where
  who : Requester
  stage : Nat
  session : Bool
  finished : Bool
  keyUpdates : Nat
  nextChunk : Nat
  chunking : Bool
deriving DecidableEq, Repr

/-! ### The management controller (R400-R403) -/

/-- SSTATE. -/
inductive SState where
  | reset | starting | ready | tripped | failed
deriving DecidableEq, Repr

/-- The block of R400; `cold` says that a cold start has completed and neither supply loss nor a trip has followed, `measured` that
`roscCold` holds the readings of a cold start (R401). -/
structure Control where
  sstate : SState
  sres : BitVec 4
  fwAddr : Word
  hlogBase : Word
  hlogLog2 : BitVec 5
  hlogTail : BitVec 32
  hlogHead : BitVec 32
  hlogLost : BitVec 32
  scrubPeriod : BitVec 32
  pwrStep : BitVec 4
  pwrCap : BitVec 12
  pwrNow : BitVec 12
  tThrot : BitVec 16
  tTrip : BitVec 16
  tWarn : BitVec 16
  temps : Vector (BitVec 16) 25
  volts : Vector (BitVec 16) 18
  vLow : Vector (BitVec 16) 18
  vTrip : Vector (BitVec 16) 18
  rosc : Vector (BitVec 32) 17
  roscCold : Vector (BitVec 32) 17
  ceCount : Vector Nat 16
  cold : Bool
  measured : Bool
deriving DecidableEq, Repr

/-! ### Values at reset -/

/-- The reset grant of SHAPE (R155). -/
def resetShape : Word := 0x0002040000800400

/-- No loop nest (R30). -/
def LoopState.idle : LoopState :=
  { active := false, lenKnown := false, depthM1 := 0, lenM1 := 0, pos := 0, skip := false, start := 0, after := 0,
    bounds := .replicate 6 0, cnt := .replicate 6 0, passes := 0, buf := [] }

def Regs.reset : Regs :=
  { s := .replicate 64 0, v := [], m := .replicate 16 (BitVec.allOnes 1024), acc := [], accov := 0, scratch := [] }

def Seq.reset : Seq :=
  { pc := 0, btarget := 0, bdelay := 0, idle := 0, conflict := 0, walked := false, rstack := [], loop := .idle, issuing := 0 }

def Special.reset : Special :=
  { shape := resetShape, fpctl := 0, fpstat := 0, tcycle := 0, markv := 0, apxv := 0, apxi := 0xFFFF, apxb := 0,
    bstat := [] }

/-- The array at the first bundle of a first task (R235). -/
def ArrayState.reset : ArrayState :=
  { active := 0, shadow := 0, wcnt := 0, metric := 0, mt := 0, argMax := false, cen := BitVec.allOnes 128,
    pushes := [], drains := [] }

/-- R30 and R235, with every register that a task inherits at 0. -/
def Timed.reset : Timed :=
  { regs := .reset, seq := .reset, sp := .reset, arr := .reset, inFlight := [], flags := .replicate 32 .clear,
    wins := .replicate 32 none, desc := .replicate 16 0 }

/-- R50: no resident image. -/
def Image.reset : Image :=
  { tag := 0, dictCount := 0, dict := [], overlayLen := 0, overlay := [], badHalf := [], badDict := [] }

def FaultLog.reset : FaultLog :=
  { base := 0, log2 := 0, tail := 0, head := 0, lost := 0, irq := 0, en := false, queue := [] }

/-- R37, R389. -/
def Dcu.reset : Dcu :=
  { dispatchEn := false, cmdArg := 0, busy := false, res := 0, evicting := none, dbIgnored := 0, slots := [],
    served := .replicate 8 none, pinned := [], dispatched := none, flog := .reset }

def Prog.start : Prog :=
  { act := 0, gather := none, blocks := [], accepted := false, part := [], took := [], left := none, parked := none, nacks := [],
    backoff := [], peers := [], held := [] }

/-- Empty queues and one empty open batch (R186). -/
def Untimed.reset : Untimed :=
  { nseq := 1, queue := [], batches := [⟨0, true, none, 0, none⟩], nbatch := 1, flagless := none, tlb := [],
    arms := .replicate 4 none, released := [], sent := .replicate 4 0, done := .replicate 4 0, remoteFail := none }

def Core.reset : Core :=
  { timed := .reset, task := none, un := .reset, image := .reset, marks := [], fails := .replicate 32 none,
    acquires := [] }

/-- R203: HASHMi and HASHAi are 0x10400 << i. -/
def Hbm.reset : Hbm :=
  { hashM := Vector.ofFn fun i => 0x10400#44 <<< i.val, hashA := Vector.ofFn fun i => 0x10400#44 <<< i.val,
    hashErr := false, pcreq := [] }

def VObject.reset : VObject := ⟨0, .free⟩

/-- R257. -/
def VertexUnit.reset : VertexUnit :=
  { ovfBase := 0, objCount := 0, cmdAddr := 0, busy := none, cmdAt := 0, res := 0, genOut := 0, cfgErr := false, objs := [], moved := [], bad := [],
    ovfMoves := 0, waits := [] }

/-- R287. -/
def Pbc.reset : Pbc :=
  { hotBase := 0, hotSlots := 0, slotLog2 := 6, migLimit := 1400000, cmdAddr := 0, cmdArg := 0, busy := none, res := 0,
    cfgErr := false, thresh := .replicate 16 0, halve := .replicate 16 65536, glookups := .replicate 16 0, sketch := [],
    hot := [], hand := 0, counters := [] }

/-- R310. -/
def LatticeUnit.reset : LatticeUnit :=
  { cmdAddr := 0, busy := none, cmdAt := 0, res := 0, genOut := 0, early := 0, bpcyc := 0, gens := [], regions := [], dead := [], bad := [],
    badOpen := [] }

/-- R354; a module without neighbours is alone in its rack ring (R404). `pos` is its rack position. -/
def Exchange.reset (pos : BitVec 4) : Exchange :=
  { rackMap := BitVec.twoPow 16 pos.toNat, portUp := 0, nrank := .replicate 64 0, ranks := [], peers := [], tries := [] }

def Member.reset : Member :=
  { valid := false, isPeer := false, mod := 0, peer := 0, mstate := .none, mauth := 0, refs := [], steps := 0 }

/-- R368. -/
def Trust.reset : Trust :=
  { dstate := .alone, epoch := 0, self := 0, attestPeriod := 0, cmdAddr := 0, busy := none, res := 0, autherr := 0,
    drops := 0, dropLog := [], members := .replicate 64 .reset, released := false, arrivals := [], waits := [],
    sendSeq := [], laneIn := [], laneNext := [] }

/-- R400. -/
def Control.reset : Control :=
  { sstate := .reset, sres := 0, fwAddr := 0, hlogBase := 0, hlogLog2 := 0, hlogTail := 0, hlogHead := 0, hlogLost := 0,
    scrubPeriod := 86400, pwrStep := 0, pwrCap := 2400, pwrNow := 0, tThrot := 1520, tTrip := 1760, tWarn := 1440,
    temps := .replicate 25 0, volts := .replicate 18 0, vLow := .replicate 18 0, vTrip := .replicate 18 0,
    rosc := .replicate 17 0, roscCold := .replicate 17 0, ceCount := .replicate 16 0, cold := false,
    measured := false }

/-! ### The module -/

/-- An accepted exchange command whose task has been evicted (R361): the core it issued on, its task, the segment table it
reads through, and the command; and the saved commands that it must wait for (R26, R100), by their place in CPSTATE, after a resume
by their numbers. -/
structure Adrift where
  core : Nat
  who : TaskRef
  segs : List (BitVec 256)
  cmd : Cmd
  after : List Nat
deriving DecidableEq, Repr

/-- What a DCU has to do as soon as crossings are no longer held (R379): a bind whose RCBs lie in part on another module, or what a
period boundary does with such an RCB. -/
inductive Delayed where
  | bind (die slot : Nat) (addr : BitVec 52)
  | boundary (rcb : Nat)
deriving DecidableEq, Repr

/-- What this module knows of a stream that a task of it has open on another module (R324, R325): the pairs it has sent, up to the
first failing one, and whether it has failed. -/
structure AwayStream where
  uid : Nat
  pairs : Nat
  failed : Bool
deriving DecidableEq, Repr

/-- Everything of one module (R9). `regions` are the RCBs that the DCUs hold, by address; `rdc` the RDC of each die, by
sector number; `l2` the sectors each L2 holds; `poison` the poisoned granules of memory; `tables` the table descriptors,
all zero where not VALID, with `badTables` those whose copy holds an uncorrectable error (R394); `wall` counts core cycles
and is the module-wide counter of R35, `boundary` its value at the end of the budget period in progress; `adrift` holds the
exchange commands of evicted tasks, `away` the streams open on other modules, `orphans` the tasks just ended, with their open
streams, whose waits and streams are yet to be discarded (R280, R325), `delayed` what the DCUs put off while crossings are held, `irqs`
the interrupt vectors raised to the host, oldest first. The model's own are `focus`, the core whose cycle comes next, and
the last four: the inputs from outside still to be taken in, the order of the next dispatch, the number of the next
stream, and the counter of free values. -/
structure State where
  cores : Vector Core 96
  focus : Fin 96
  dcus : Vector Dcu 8
  period : BitVec 32
  wall : Nat
  boundary : Nat
  regions : List (Nat × Region)
  mem : Memory
  poison : List Nat
  rdc : Vector (Store RdcSector) 8
  l2 : Vector (Store Bool) 8
  hbm : Vector Hbm 8
  vertex : Vector VertexUnit 8
  pbc : Vector Pbc 8
  tables : Store (BitVec 8704)
  badTables : List Nat
  lattice : Vector LatticeUnit 16
  myMod : BitVec 4
  xchg : Exchange
  trust : Trust
  spdm : List Spdm
  ctl : Control
  adrift : List Adrift
  away : List AwayStream
  orphans : List (TaskRef × List StreamSlot)
  delayed : List Delayed
  irqs : List (BitVec 16)
  agenda : List Instr
  norder : Nat
  nuid : Nat
  free : Nat
deriving DecidableEq, Repr

/-- The state when supply is applied (R203, R400, R403): every register at its reset value, SSTATE RESET, nothing bound,
every byte of memory at what an unlisted one reads as (log entry 6, DESIGN CHOICE), alone in its rack ring at position 0
(log entry 7, DESIGN CHOICE). -/
def State.reset : State :=
  { cores := .replicate 96 .reset, focus := 0, dcus := .replicate 8 .reset, period := 1400000, wall := 0,
    boundary := 1400000, regions := [], mem := [], poison := [], rdc := .replicate 8 [], l2 := .replicate 8 [],
    hbm := .replicate 8 .reset, vertex := .replicate 8 .reset, pbc := .replicate 8 .reset, tables := [],
    badTables := [],
    lattice := .replicate 16 .reset, myMod := 0, xchg := .reset 0, trust := .reset, spdm := [], ctl := .reset,
    adrift := [], away := [], orphans := [], delayed := [], irqs := [], agenda := [], norder := 0, nuid := 0, free := 0 }

/-- Why the machine stops. -/
inductive Fault where
  /-- An access from outside the cores to an address that no memory of the module has (R94). Raised by HOME_ACCESS. Safe. -/
  | noSuchAddress (a : Nat)
deriving DecidableEq, Repr

/-- Why a step has no meaning in a state. -/
inductive Refusal where
  /-- The instruction has no meaning yet. Raised by the dispatch alone. Safe. -/
  | notModelled (mnemonic : String)
deriving DecidableEq, Repr

end Sys2Proof.Machine
end

