-- ==== Sys2Proof/Machine/Ops.lean ====
section
/-!
DEFINITION. The named operations over the timed domain of a core: reading registers, putting a result in flight,
landing it, the scratchpad, and the elements of vector registers.
-/

namespace Sys2Proof.Machine

/-! ### Reading registers (R114) -/

/-- A scalar register. -/
def Timed.sreg (t : Timed) (r : BitVec 6) : Word := t.regs.s.get r.toFin

/-- A vector register; R30 leaves one that nothing has written at 0. -/
def Timed.vreg (t : Timed) (r : BitVec 8) : VReg := Store.get 0 t.regs.v r.toNat

/-- A mask register. -/
def Timed.mreg (t : Timed) (r : BitVec 4) : MReg := t.regs.m.get r.toFin

/-- An accumulator row (R243). -/
def Timed.row (t : Timed) (r : BitVec 12) : BitVec 4096 := Store.get 0 t.regs.acc r.toNat

/-- ACCOV of a row (R73). -/
def Timed.rowOv (t : Timed) (r : BitVec 12) : Bool := t.regs.accov.getLsbD r.toNat

/-- A BSTAT entry (R70). -/
def Timed.bst (t : Timed) (b : Nat) : BitVec 32 := Store.get 0 t.sp.bstat b

/-- A flag (R23). -/
def Timed.flag (t : Timed) (f : BitVec 5) : FlagState := t.flags.get f.toFin

/-- A window's declaration (R175). -/
def Timed.win (t : Timed) (w : BitVec 5) : Option Window := t.wins.get w.toFin

/-- A loop descriptor (R182). -/
def Timed.descr (t : Timed) (d : BitVec 4) : BitVec 1024 := t.desc.get d.toFin

/-- VL of SHAPE (R155). -/
def Timed.vl (t : Timed) : Nat := bits t.sp.shape.toNat 12 0

/-! ### Putting results in flight (R128, R129) -/

/-- A result of latency `lat` from the issuing slot. -/
def Timed.pend (t : Timed) (lat : Nat) (r : Result) : Timed :=
  { t with inFlight := t.inFlight ++ [⟨lat, t.seq.issuing, r, 0, []⟩] }

/-- A result that carries FPSTAT bits (R68). -/
def Timed.pendFps (t : Timed) (lat : Nat) (r : Result) (fps : BitVec 5) : Timed :=
  { t with inFlight := t.inFlight ++ [⟨lat, t.seq.issuing, r, fps, []⟩] }

/-- A result that carries a BSTAT update (R70). -/
def Timed.pendBst (t : Timed) (lat : Nat) (r : Result) (b : List BstUpd) : Timed :=
  { t with inFlight := t.inFlight ++ [⟨lat, t.seq.issuing, r, 0, b⟩] }

/-- A scalar result. -/
def Timed.pendS (t : Timed) (lat : Nat) (d : BitVec 6) (v : Word) : Timed := t.pend lat (.scalar d v)

/-- Flag `f` changed by the timed domain or by an engine. -/
def Timed.setFlag (t : Timed) (f : BitVec 5) (x : FlagState) : Timed := { t with flags := t.flags.set f.toNat x f.isLt }

/-- R23: a command that names `f` issues. -/
def Timed.claimFlag (t : Timed) (f : BitVec 5) : Timed := if t.flag f = .error then t else t.setFlag f .clear

/-- R23: the command completes without fault. -/
def Timed.doneFlag (t : Timed) (f : BitVec 5) : Timed := if t.flag f = .error then t else t.setFlag f .set

/-! ### The scratchpad (R173) -/

/-- A stripe. -/
def Timed.stripe (t : Timed) (n : Nat) : VReg := Store.get 0 t.regs.scratch n

/-- One byte of the scratchpad. -/
def Timed.sbyte (t : Timed) (a : Nat) : Byte := (t.stripe (a / 4096)).extractLsb' (8 * (a % 4096)) 8

/-- `n` bytes of one stripe from byte `a` on, little-endian (R1). -/
def Timed.sread (t : Timed) (a n : Nat) : Nat := (t.stripe (a / 4096)).toNat >>> (8 * (a % 4096)) % 2 ^ (8 * n)

/-- One stripe with the masked bytes replaced. -/
def mergeStripe (old mask data : VReg) : VReg := (old &&& ~~~mask) ||| (data &&& mask)

/-- A stripe part written. -/
def Timed.writePart (t : Timed) (p : StripePart) : Timed :=
  { t with regs := { t.regs with
      scratch := Store.set 0 t.regs.scratch p.stripe (mergeStripe (t.stripe p.stripe) p.mask p.data) } }

/-- Every part of a write. -/
def Timed.writeParts (t : Timed) : List StripePart → Timed
  | [] => t
  | p :: l => Timed.writeParts (t.writePart p) l

/-- The part of a scalar store of `n` bytes at `a` (R150). -/
def storePart (a n : Nat) (v : Nat) : StripePart :=
  let sh := 8 * (a % 4096)
  { stripe := a / 4096, mask := BitVec.ofNat 32768 ((2 ^ (8 * n) - 1) <<< sh),
    data := BitVec.ofNat 32768 ((v % 2 ^ (8 * n)) <<< sh) }

/-- One byte of the scratchpad written at once (an engine's delivery, R25). -/
def Timed.setSbyte (t : Timed) (a : Nat) (b : Byte) : Timed := t.writePart (storePart a 1 b.toNat)

/-- `n` bytes of the number `v` written at once from byte `a` on. -/
def Timed.setSbytes (t : Timed) (a : Nat) : Nat → Nat → Timed
  | 0, _ => t
  | n + 1, v => Timed.setSbytes (t.setSbyte a (BitVec.ofNat 8 v)) (a + 1) n (v / 256)

/-- `n` bytes from byte `a` on, whatever stripes they lie in. -/
def Timed.sbytes (t : Timed) (a : Nat) : Nat → Nat
  | 0 => 0
  | n + 1 => (t.sbyte a).toNat + 256 * Timed.sbytes t (a + 1) n

/-! ### Landing -/

/-- A register file entry written. -/
def Timed.setS (t : Timed) (r : BitVec 6) (v : Word) : Timed :=
  { t with regs := { t.regs with s := t.regs.s.set r.toNat v r.isLt } }

def Timed.setV (t : Timed) (r : BitVec 8) (v : VReg) : Timed :=
  { t with regs := { t.regs with v := Store.set 0 t.regs.v r.toNat v } }

def Timed.setM (t : Timed) (r : BitVec 4) (v : MReg) : Timed :=
  { t with regs := { t.regs with m := t.regs.m.set r.toNat v r.isLt } }

def Timed.setRow (t : Timed) (r : BitVec 12) (v : BitVec 4096) : Timed :=
  { t with regs := { t.regs with acc := Store.set 0 t.regs.acc r.toNat v } }

/-- Bit `n` of a vector set to `b`. -/
def putBit {w : Nat} (x : BitVec w) (n : Nat) (b : Bool) : BitVec w :=
  if b then x ||| BitVec.twoPow w n else x &&& ~~~(BitVec.twoPow w n)

def Timed.setOv (t : Timed) (r : BitVec 12) (b : Bool) : Timed :=
  { t with regs := { t.regs with accov := putBit t.regs.accov r.toNat b } }

/-- MTSR's and MARK's targets, and SHAPE (R65, R68, R152). A write to FPSTAT clears, and is landed with the other
clears (`Pend.landClear`). -/
def Timed.setSpecial (t : Timed) (n : BitVec 12) (v : Word) : Timed :=
  if n = 0x010 then { t with sp := { t.sp with fpctl := v &&& 3 } }
  else if n = 0x012 then { t with sp := { t.sp with shape := v } }
  else if n = 0x015 then { t with sp := { t.sp with markv := v } }
  else t

/-- APXV, APXI and APXB by number (R168, R248). -/
def Timed.setApex (t : Timed) (n : BitVec 2) (v : BitVec 32) : Timed :=
  if n = 0 then { t with sp := { t.sp with apxv := v } }
  else if n = 1 then { t with sp := { t.sp with apxi := v.setWidth 16 } }
  else if n = 2 then { t with sp := { t.sp with apxb := v.setWidth 16 } }
  else t

/-- One BSTAT update (R70): the flushes saturate, the exponents take the larger. -/
def bstMerge (x : BitVec 32) (u : BstUpd) : BitVec 32 :=
  let f := min 65535 (bits x.toNat 15 0 + u.flushes)
  let e := match u.exp with
    | none => bits x.toNat 23 16
    | some y => max (bits x.toNat 23 16) y
  BitVec.ofNat 32 (f + 65536 * e)

def Timed.applyBst (t : Timed) : List BstUpd → Timed
  | [] => t
  | u :: l =>
    Timed.applyBst { t with sp := { t.sp with bstat := Store.set 0 t.sp.bstat u.entry (bstMerge (t.bst u.entry) u) } } l

/-- BSTCLR's clear (R227). -/
def Timed.clearBst (t : Timed) (first count : Nat) : Timed :=
  { t with sp := { t.sp with bstat := Store.clearRange first (first + count) t.sp.bstat } }

/-- The FPSTAT bits of a landing result (R68). -/
def Timed.orFps (t : Timed) (f : BitVec 5) : Timed :=
  { t with sp := { t.sp with fpstat := t.sp.fpstat ||| f.setWidth 64 } }

/-- The clears: they take effect before everything else that lands in their cycle (R68, R227, R244). Two MTSR FPSTAT of one bundle
both clear (log entry 60, DESIGN CHOICE). -/
def Pend.landClear (p : Pend) (t : Timed) : Timed :=
  match p.res with
  | .accovClear r => t.setOv r false
  | .bstClear first count => t.clearBst first count
  | .special n v => if n = 0x011 then { t with sp := { t.sp with fpstat := t.sp.fpstat &&& ~~~v } } else t
  | .scalar _ _ => t | .vector _ _ => t | .mask _ _ => t | .accRow _ _ => t | .apex _ _ => t | .scratch _ => t
  | .arrayMode _ _ _ => t | .arrayCen _ => t | .shadowClear => t | .accZero _ => t | .none => t

/-- One result lands (R128, R129). -/
def Pend.landValue (p : Pend) (t : Timed) : Timed :=
  match p.res with
  | .scalar r v => t.setS r v
  | .vector r v => t.setV r v
  | .mask r v => t.setM r v
  | .special n v => t.setSpecial n v
  | .accRow r v => t.setRow r v
  | .apex n v => t.setApex n v
  | .scratch ps => t.writeParts ps
  | .arrayMode m y d => { t with arr := { t.arr with metric := m, mt := y, argMax := d } }
  | .arrayCen v => { t with arr := { t.arr with cen := v } }
  | .shadowClear => { t with arr := { t.arr with shadow := 0, wcnt := 0 } }
  | .accZero r => (t.setRow r 0).setOv r false
  | .accovClear _ => t
  | .bstClear _ _ => t
  | .none => t

/-- A result with its FPSTAT bits and its BSTAT update. -/
def Pend.land (p : Pend) (t : Timed) : Timed := ((p.landValue t).orFps p.fps).applyBst p.bst

def landAll : List Pend → Timed → Timed
  | [], t => t
  | p :: l, t => landAll l (p.land t)

def landClears : List Pend → Timed → Timed
  | [], t => t
  | p :: l, t => landClears l (p.landClear t)

/-- The results due at the end of this cycle. -/
def Timed.due (t : Timed) : List Pend := t.inFlight.filter fun p => p.remain ≤ 1

/-- The results not yet due, one cycle older. -/
def Timed.aged (t : Timed) : List Pend :=
  (t.inFlight.filter fun p => !(decide (p.remain ≤ 1))).map fun p => { p with remain := p.remain - 1 }

/-- RESULT_LANDING: every result in flight ages one cycle, and those that reach theirs land in issue order, so that
the later-issued is kept (R129). -/
def Timed.landDue (t : Timed) : Timed := landAll t.due { t with inFlight := t.aged }

/-! ### Elements of vector registers (R61, R205) -/

/-- Element `i` of a view of width `w`. -/
def elem (v : VReg) (w i : Nat) : Nat := v.toNat >>> (w * i) % 2 ^ w

/-- Element `i` of a view of width `w` replaced. -/
def setElem (v : VReg) (w i x : Nat) : VReg :=
  (v &&& ~~~(BitVec.ofNat 32768 ((2 ^ w - 1) <<< (w * i)))) ||| BitVec.ofNat 32768 ((x % 2 ^ w) <<< (w * i))

/-- The elements below `n` that `en` enables take `f`; every other element keeps its value (R207). -/
def updElems (w : Nat) (en : Nat → Bool) (f : Nat → Nat) (old : VReg) : Nat → VReg
  | 0 => old
  | n + 1 =>
    let r := updElems w en f old n
    if en n then setElem r w n (f n) else r

/-- A signed reading of a `w`-bit element. -/
def signedElem (w x : Nat) : Int := if 2 ^ (w - 1) ≤ x then (x : Int) - 2 ^ w else x

/-- An element as the integer its type reads (R61). -/
def intOf (t : ElemTy) (x : Nat) : Int := if t.isSigned then signedElem t.width x else x

/-- An integer as the residue of a type's width (R72). -/
def wrapTy (t : ElemTy) (x : Int) : Nat := (x % (2 ^ t.width : Nat)).toNat

/-- The range of an integer type. -/
def minInt (t : ElemTy) : Int := if t.isSigned then -(2 ^ (t.width - 1)) else 0
def maxInt (t : ElemTy) : Int := if t.isSigned then 2 ^ (t.width - 1) - 1 else 2 ^ t.width - 1

/-- Saturation into an integer type (R72). -/
def satTy (t : ElemTy) (x : Int) : Nat := wrapTy t (clampInt (minInt t) (maxInt t) x)

/-! ### Outcomes on the focused core -/

/-- The core whose cycle it is. -/
def State.core (s : State) : Core := s.cores.get s.focus

/-- The core numbered `c`; the focused one where there is none. -/
def State.coreAt (s : State) (c : Nat) : Core := if h : c < 96 then s.cores.get ⟨c, h⟩ else s.core

def State.setCore (s : State) (c : Core) : State := { s with cores := s.cores.set s.focus.val c s.focus.isLt }

def State.setCoreAt (s : State) (n : Nat) (c : Core) : State :=
  if h : n < 96 then { s with cores := s.cores.set n c h } else s

/-- A flag named by a command that issues becomes CLEAR unless it is ERROR; what a passage left for it to be observed
goes with it (R23). -/
def Core.claim (c : Core) (f : BitVec 5) : Core :=
  if c.timed.flag f = .error then c
  else { c with timed := c.timed.claimFlag f, acquires := c.acquires.filter fun x => x.1 != f }

/-- The timed domain of the focused core. -/
def State.timed (s : State) : Timed := s.core.timed

def State.setTimed (s : State) (t : Timed) : State := s.setCore { s.core with timed := t }

abbrev Out := Host.Outcome State Fault Refusal

/-- The state after a change of the focused core's timed domain. -/
def State.timedNext (s : State) (f : Timed → Timed) : Out := .next (s.setTimed (f s.timed))

/-- One outcome after another. -/
def andThen (o : Out) (f : State → Out) : Out := match o with
  | .next s => f s
  | .fault r => .fault r
  | .refused r => .refused r

/-- A fresh free value, for what the spec leaves open or another module answers (log entry 3, DESIGN CHOICE). -/
def State.fresh (s : State) : BitVec 4096 × State := (Config.freeBits s.free, { s with free := s.free + 1 })

/-- The state with one free value used up. -/
def State.drew (s : State) : State := { s with free := s.free + 1 }

/-- A fresh free truth value (log entry 3, DESIGN CHOICE). -/
def State.freshBool (s : State) : Bool × State := (Config.freeBool s.free, { s with free := s.free + 1 })

end Sys2Proof.Machine
end

