-- ==== Sys2Proof/Machine/Flags.lean ====
section
/-!
DEFINITION. The status computations: the FPSTAT bits of the scalar FP32 path (R68, R149), the BSTAT updates of the
vector path (R70, R209) and scale selection (R71).
-/

namespace Sys2Proof.Machine

/-- FPSTAT bits as a result carries them: IV, DZ, OF, UF, IX from bit 0 (R68, R168). -/
def fpsBits (iv ov uf ix : Bool) : BitVec 5 :=
  BitVec.ofNat 5 (iv.toNat + 4 * ov.toNat + 8 * uf.toNat + 16 * ix.toNat)

/-- FPSTAT bits of an arithmetic result from operands of which `anyNan` says that one is a NaN (R68). -/
def fpsOf (anyNan : Bool) (r : Rounded) : BitVec 5 :=
  fpsBits (r.val.isNan && !anyNan) r.overflow (r.tiny && r.inexact) r.inexact

/-- The FP32 operand in the low half of a scalar register (R149). -/
def lowF32 (x : Word) : FVal := ofF32 (x.setWidth 32)

/-- SRTZ of FPCTL (R65). -/
def Timed.srtz (t : Timed) : Bool := t.sp.fpctl.getLsbD 1

/-- VRTZ of FPCTL (R65). -/
def Timed.vrtz (t : Timed) : Bool := t.sp.fpctl.getLsbD 0

/-- The BSTAT update of one enabled result element of a floating vector result (R70). -/
def bstElem (f : Fmt) (i : Nat) (flushed : Bool) (v : FVal) : BstUpd :=
  { entry := i / 32, flushes := flushed.toNat, exp := maxExpOf f v }

/-- The BSTAT update of one enabled element where the result is no floating vector (R209). -/
def bstFlush (i : Nat) (flushed : Bool) : BstUpd := { entry := i / 32, flushes := flushed.toNat, exp := none }

/-- The updates of the enabled elements below `n`. -/
def bstList (en : Nat → Bool) (f : Nat → BstUpd) : Nat → List BstUpd
  | 0 => []
  | n + 1 => if en n then bstList en f n ++ [f n] else bstList en f n

/-- SCALE_SELECT (R71): the exponent k and the lossy bit, from a BSTAT entry. -/
def scaleSelect (e : BitVec 32) (top : Int) (h ftol : Nat) : Int × Bool :=
  let mx := bits e.toNat 23 16
  let lossy := decide (ftol ≤ bits e.toNat 15 0 ∧ 0 < ftol)
  if mx = 0 then (0, lossy)
  else if mx = 255 then (0, true)
  else (clampInt (-126) 127 (top - ((mx : Int) - 127) - h), lossy)

/-- SCSEL's result (R228): k in 31:0, lossy in bit 32. -/
def scaleWord (r : Int × Bool) : Word := (0#31 ++ BitVec.ofBool r.2 ++ wrapInt 32 r.1 : BitVec 64)

end Sys2Proof.Machine
end

