-- ==== Sys2Proof/Machine/Regions.lean ====
section
/-!
DEFINITION. Job cards and the region tree: the fields of an RCB and of a card, the chain from a region to its root with
what is inherited along it, what may be dispatched on a die, and PREQ (R32-R34, R40, R42, R45, R51).
-/

namespace Sys2Proof.Machine

/-! ### Fields of a job card (R40) -/

/-- The 64-bit word `k` of a record. -/
def recWord {n : Nat} (x : BitVec n) (k : Nat) : Nat := x.toNat >>> (64 * k) % 2 ^ 64

def cardOp (c : BitVec 1024) : Nat := bits (recWord c 0) 7 0
def cardPin (c : BitVec 1024) : Bool := bit (recWord c 0) 8
def cardPinDie (c : BitVec 1024) : Nat := bits (recWord c 0) 11 9
def cardImage (c : BitVec 1024) : Nat := bits (recWord c 1) 51 0
def cardImageId (c : BitVec 1024) : Word := BitVec.ofNat 64 (recWord c 2)
def cardSegtab (c : BitVec 1024) : Nat := bits (recWord c 3) 51 0
/-- Number of segment-table entries, 1 to 64. -/
def cardSegs (c : BitVec 1024) : Nat := bits (recWord c 3) 57 52 + 1
def cardSpanX (c : BitVec 1024) : Nat := bits (recWord c 4) 15 0
def cardSpanY (c : BitVec 1024) : Nat := bits (recWord c 4) 31 16
def cardSpanZ (c : BitVec 1024) : Nat := bits (recWord c 4) 47 32
def cardEntry (c : BitVec 1024) : Nat := bits (recWord c 5) 31 0
def cardTag (c : BitVec 1024) : Nat := recWord c 6
def cardArg (c : BitVec 1024) (k : Nat) : Word := BitVec.ofNat 64 (recWord c (7 + k))
/-- The number of tasks a card launches (R29); a BARRIER launches none. -/
def cardTasks (c : BitVec 1024) : Nat := if cardOp c = 1 then cardSpanX c * cardSpanY c * cardSpanZ c else 0

/-- R42: what makes a card invalid. -/
def cardInvalid (c : BitVec 1024) : Bool :=
  decide (cardOp c ≠ 1 ∧ cardOp c ≠ 2) ||
  decide (recWord c 0 >>> 12 ≠ 0) || decide (recWord c 1 >>> 52 ≠ 0) || decide (recWord c 3 >>> 58 ≠ 0) ||
  decide (recWord c 4 >>> 48 ≠ 0) || decide (recWord c 5 >>> 32 ≠ 0) || decide (recWord c 15 ≠ 0) ||
  (decide (cardOp c = 1) && (decide (cardTasks c = 0) || decide (0xFFFFFFFE < cardTasks c))) ||
  (decide (cardOp c = 2) && cardPin c)

/-! ### Fields of an RCB (R32) -/

def Region.word (r : Region) (k : Nat) : Nat := recWord r.raw k
def Region.parent (r : Region) : Nat := bits (r.word 0) 51 0
def Region.id (r : Region) : BitVec 32 := BitVec.ofNat 32 (r.word 1)
def Region.prio (r : Region) : Nat := bits (r.word 1) 34 32
def Region.prioInh (r : Region) : Bool := bit (r.word 1) 35
def Region.budInh (r : Region) : Bool := bit (r.word 1) 36
def Region.polInh (r : Region) : Bool := bit (r.word 1) 37
def Region.enable (r : Region) : Bool := bit (r.word 1) 38
def Region.preempt (r : Region) : Bool := bit (r.word 1) 39
def Region.faultAction (r : Region) : Nat := bits (r.word 1) 41 40
def Region.place (r : Region) : Nat := bits (r.word 1) 44 42
def Region.budget (r : Region) : Nat := bits (r.word 2) 39 0
def Region.jqBase (r : Region) : Nat := bits (r.word 3) 51 0
def Region.jqLog2 (r : Region) : Nat := bits (r.word 3) 56 52
def Region.cqBase (r : Region) : Nat := bits (r.word 4) 51 0
def Region.cqLog2 (r : Region) : Nat := bits (r.word 4) 56 52
def Region.cqHead (r : Region) : BitVec 32 := BitVec.ofNat 32 (r.word 5)
def Region.saveBase (r : Region) : Nat := bits (r.word 6) 51 0
def Region.saveSlots (r : Region) : Nat := bits (r.word 6) 59 52
def Region.irq (r : Region) : Nat := bits (r.word 7) 15 0
def Region.unlimited (r : Region) : Bool := r.budget == 0xFFFFFFFFFF

/-! ### The table of regions -/

/-- The region whose RCB lies at `a`, if a DCU holds it. -/
def findRegion (a : Nat) : List (Nat × Region) → Option Region
  | [] => none
  | (b, r) :: l => if b = a then some r else findRegion a l

/-- The table with the region at `a` replaced, or added at its end. -/
def putRegion (a : Nat) (r : Region) : List (Nat × Region) → List (Nat × Region)
  | [] => [(a, r)]
  | (b, q) :: l => if b = a then (a, r) :: l else (b, q) :: putRegion a r l

def State.region? (s : State) (a : Nat) : Option Region := findRegion a s.regions
def State.putRegion (s : State) (a : Nat) (r : Region) : State := { s with regions := Machine.putRegion a r s.regions }

/-- A change to the region at `a`, if there is one. -/
def State.onRegion (s : State) (a : Nat) (f : Region → Region) : State :=
  match s.region? a with
  | none => s
  | some r => s.putRegion a (f r)

/-- The chain from the region at `a` up to its root, at most eight (R33, R36). -/
def regionChain (rs : List (Nat × Region)) : Nat → Nat → List (Nat × Region)
  | 0, _ => []
  | n + 1, a =>
    match findRegion a rs with
    | none => []
    | some r => (a, r) :: (if r.parent = 0 then [] else regionChain rs n r.parent)

def State.chain (s : State) (a : Nat) : List (Nat × Region) := regionChain s.regions 8 a

/-- The effective priority along a chain; a root ignores its inherit bits (R33). -/
def effPrio : List (Nat × Region) → Nat
  | [] => 0
  | [(_, r)] => r.prio
  | (_, r) :: l => if r.prioInh then effPrio l else r.prio

/-- The root of the fault domain: the nearest region with POLICY_INH = 0, or the root (R33, R34). -/
def policyOf : List (Nat × Region) → Option (Nat × Region)
  | [] => none
  | [x] => some x
  | x :: l => if x.2.polInh then policyOf l else some x

def effPreempt (c : List (Nat × Region)) : Bool := match policyOf c with
  | none => false
  | some x => x.2.preempt

def effAction (c : List (Nat × Region)) : Nat := match policyOf c with
  | none => 0
  | some x => x.2.faultAction

/-- The pool chain: the own pools met on the way to the root, the root's included (R33). -/
def poolChain : List (Nat × Region) → List (Nat × Region)
  | [] => []
  | [x] => [x]
  | x :: l => if x.2.budInh then poolChain l else x :: poolChain l

/-- Remaining budget (R33). -/
def hasBudget (c : List (Nat × Region)) : Bool :=
  (poolChain c).all fun x => x.2.unlimited || decide (x.2.used < x.2.budget)

/-- The effective pool of R33, for the comparison of R45. -/
def effPool (c : List (Nat × Region)) : Option Region := match poolChain c with
  | [] => none
  | x :: _ => some x.2

/-- `n` cycles added to USED of every pool of a pool chain (R33). -/
def chargePools (n : Nat) : List (Nat × Region) → State → State
  | [], s => s
  | x :: l, s => chargePools n l (s.onRegion x.1 fun r => { r with used := r.used + n })

/-! ### What may be dispatched (R42, R44, R45) -/

/-- Whether the cancel mark of a region takes in the running index `j` (R41). -/
def Region.below (r : Region) (j : BitVec 32) : Bool := match r.mark with
  | none => false
  | some m => decide (1 ≤ (m - j).toNat ∧ (m - j).toNat < 2 ^ 31)

/-- No more tasks of the card will be dispatched. -/
def Region.dispatched (r : Region) (c : Card) : Bool :=
  !c.valid || c.stop || r.below c.idx || decide (cardTasks c.raw ≤ c.next)

/-- Every task of the card has ended or been discarded (R43). -/
def Region.ended (r : Region) (c : Card) : Bool :=
  r.dispatched c && decide (c.running = 0) && !(r.evicted.any fun e => e.cardIdx == c.idx)

/-- Whether the completion queue is full (R44). -/
def Region.cqFull (r : Region) : Bool := decide ((r.cqTail - r.cqHead).toNat = 2 ^ r.cqLog2)

/-- The next undispatched task, by R42: cards in order, none past a BARRIER before every task of every earlier card has
ended, and none past a card whose record is held (R44). `quiet` says that every earlier card has ended. -/
def nextTask (r : Region) : List Card → Bool → Option (Card × Nat)
  | [], _ => none
  | c :: l, quiet =>
    if !r.dispatched c then some (c, c.next)
    else if cardOp c.raw = 2 ∧ c.valid ∧ !quiet then none
    else if r.ended c ∧ r.cqFull then none
    else nextTask r l (quiet && r.ended c)

/-- The die whose DCU dispatches a card's tasks (R38, R47). -/
def cardDie (r : Region) (c : BitVec 1024) : Nat := if cardPin c then cardPinDie c else r.place

/-- What a DCU would start for a region: an evicted task of this die first (R45), else the next task if the die is the
card's. -/
inductive Ready where
  | resume (e : Evicted)
  | launch (c : Card) (t : Nat)
deriving DecidableEq, Repr

def Region.ready (r : Region) (die : Nat) : Option Ready :=
  match r.evicted.find? fun e => e.die == die && !(r.below e.cardIdx) with
  | some e => some (.resume e)
  | none =>
    match nextTask r r.cards true with
    | none => none
    | some (c, t) => if cardDie r c.raw = die then some (.launch c t) else none

/-- RSTATE lets a region dispatch. -/
def RState.runs : RState → Bool
  | .idle => true
  | .active => true
  | .stopped => false
  | .qerror => false

/-- R45: the region at the head of the chain is eligible on a die. -/
def eligible (die : Nat) (c : List (Nat × Region)) : Bool :=
  match c with
  | [] => false
  | (_, r) :: up =>
    r.bound && decide (r.place = r.die) && r.enable && (up.all fun x => x.2.enable) && r.rstate.runs &&
      (up.all fun x => x.2.rstate != .stopped) &&
      hasBudget c && (r.ready die).isSome

/-- The eligible regions of a die with their chains, in the order of the table. -/
def State.eligibleOn (s : State) (die : Nat) : List (Nat × List (Nat × Region)) :=
  (s.regions.map fun x => (x.1, s.chain x.1)).filter fun x => eligible die x.2

/-- The die of a core (R10). -/
def dieOf (core : Nat) : Nat := core / 12

/-- R51: PREQ of the focused core's task. -/
def State.preq (s : State) : Bool :=
  match s.core.task with
  | none => false
  | some k =>
    let mine := s.chain k.rcb
    (s.eligibleOn (dieOf s.focus.val)).any fun x => decide (effPrio mine < effPrio x.2) || !hasBudget mine

/-- R32: IDLE or ACTIVE by what the region has to do. -/
def Region.activity (r : Region) : RState :=
  if r.jqHead = r.jqTail ∧ r.cards = [] ∧ r.evicted = [] then .idle else .active

/-- A running region moves between IDLE and ACTIVE (R32). -/
def Region.settle (r : Region) : Region := if r.rstate.runs then { r with rstate := r.activity } else r

/-! ### A task fails (R34) -/

/-- A change to the card with running index `j`. -/
def onCard (j : BitVec 32) (f : Card → Card) : List Card → List Card
  | [] => []
  | c :: l => if c.idx = j then f c :: l else c :: onCard j f l

/-- The evicted tasks that `gone` names, taken out of a region, their save slots free again (R34, R54). -/
def Region.without (r : Region) (gone : Evicted → Bool) : Region :=
  { r with evicted := r.evicted.filter fun e => !gone e,
           saveUsed := r.saveUsed.filter fun k => !(r.evicted.any fun e => gone e && e.slot == k) }

/-- The task that an evicted one is. -/
def Evicted.ref (e : Evicted) (rcb : Nat) : TaskRef := ⟨rcb, e.cardIdx, e.taskIdx⟩

/-- Evicted tasks DISCARDED (R54); their waits and open streams go with them (R280, R325). -/
def State.discard (s : State) (a : Nat) (gone : Evicted → Bool) : State :=
  match s.region? a with
  | none => s
  | some r =>
    let out := (r.evicted.filter gone).map fun e => (e.ref a, e.streams.toList.filterMap id)
    { s.putRegion a (r.without gone) with orphans := s.orphans ++ out }

/-- The lowest failed linear index and its REACHED (R43). -/
def Card.fail (c : Card) (t : Nat) (reached : Word) : Card :=
  match c.failed with
  | none => { c with failed := some t, reached := reached }
  | some u => if t < u then { c with failed := some t, reached := reached } else c

/-- R34: what the failure of task `t` of a card does to the card and to the fault domain. `least` is the least action
that applies (CARD for ABORT, R163; CARD for a launch failure, R43). -/
def State.regionFail (s : State) (rcb : Nat) (j : BitVec 32) (t : Nat) (reached : Word) (least : Nat) : State :=
  let chain := s.chain rcb
  let act := max least (effAction chain)
  let s0 := s.onRegion rcb fun r => { r with cards := onCard j (fun c => c.fail t reached) r.cards }
  let s1 := if act = 0 then s0 else
    (s0.discard rcb fun e => e.cardIdx == j).onRegion rcb fun r =>
      { r with cards := onCard j (fun c => { c with stop := true }) r.cards }
  if 2 ≤ act then
    match policyOf chain with
    | none => s1
    | some x => s1.onRegion x.1 fun r => { r with rstate := .stopped }
  else s1

end Sys2Proof.Machine
end

