-- ==== Sys2Proof/Machine/Traps.lean ====
section
/-!
DEFINITION. Taking a trap, as one operation (R165, R166, R387): the task fails at the boundary before the bundle, what
was in flight is discarded, a fault-log entry is on its way, and the fault action of the region applies.
-/

namespace Sys2Proof.Machine

/-- The fault-log entry of a task at this moment (R390). -/
def faultRec (core : Nat) (c : Core) (k : Task) (pc : BitVec 18) (i : FaultInfo) : FaultRec :=
  { info := i, core := core, regionId := k.regionId, cardSeq := k.cardIdx, taskIdx := k.taskIdx, pc := pc,
    branch := (BitVec.ofNat 2 c.timed.seq.bdelay) ++ c.timed.seq.btarget, markv := c.timed.sp.markv,
    tcycle := c.timed.sp.tcycle, loop := c.timed.seq.loop }

/-- A DCU changed. -/
def State.onDcu (s : State) (die : Nat) (f : Dcu → Dcu) : State :=
  if h : die < 8 then { s with dcus := s.dcus.set die (f (s.dcus.get ⟨die, h⟩)) h } else s

/-- The DCU of a die; the first where there is none. -/
def State.dcu (s : State) (die : Nat) : Dcu := if h : die < 8 then s.dcus.get ⟨die, h⟩ else s.dcus.get 0

/-- An entry handed to the fault log of a die (R389). -/
def State.logFault (s : State) (die : Nat) (r : FaultRec) : State :=
  s.onDcu die fun d => { d with flog := { d.flog with queue := d.flog.queue ++ [r] } }

/-- The ring is full. -/
def FaultLog.full (f : FaultLog) : Bool := decide (2 ^ f.log2.toNat ≤ (f.tail - f.head).toNat)

/-- An entry waits for room: only one of KIND 1 does, and only while entries are written at all (R389). -/
def FaultLog.waits (f : FaultLog) (r : FaultRec) : Bool := f.en && f.full && r.info.kind == 1

/-- The page fault of core `n` has an entry that waits for room, and holds its task in FAULTHOLD (R389). -/
def State.entryWaits (s : State) (n : Nat) : Bool :=
  let f := (s.dcu (dieOf n)).flog
  f.queue.any fun r => decide (r.core = n) && f.waits r

/-- A host's EVICT of core `n` that is still in progress ends with result `r` (R41, R55). -/
def State.evictEnds (s : State) (n : Nat) (r : BitVec 4) : State :=
  s.onDcu (dieOf n) fun d => if d.evicting = some n then { d with busy := false, res := r, evicting := none } else d

/-- Every result, push and drain in flight is discarded (R165, R250). -/
def Timed.discard (t : Timed) : Timed :=
  { t with inFlight := [], arr := { t.arr with pushes := [], drains := [] } }

/-- The task on core `n` fails now, with an entry in the fault log and the fault action of R34; the core stays bound
until its queues are empty (R165). -/
def State.failCore (s : State) (n : Nat) (pc : BitVec 18) (i : FaultInfo) (least : Nat) : State :=
  let c := s.coreAt n
  match c.task with
  | none => s
  | some k =>
    let s1 := s.logFault (dieOf n) (faultRec n c k pc i)
    let s2 := s1.setCoreAt n { c with timed := c.timed.discard,
                                      task := some { k with phase := .failed, hold := none, late := none, evict := none } }
    (s2.evictEnds n 3).regionFail k.rcb k.cardIdx k.taskIdx.toNat i.reached least

/-- R165: a trap is taken at the boundary before the bundle that raises it. ABORT fails at least the card (R163). A
flag-error trap records what the failed command reached (R196). -/
def State.takeTrap (s : State) (slot : BitVec 4) (k : Trap) : State :=
  let c := s.core
  let fi := if k.code = 0x07 then c.fails.get ((BitVec.ofNat 5 k.detail.toNat).toFin) else none
  let i : FaultInfo := { kind := 0, code := k.code, slot := slot, replays := 0, detail := k.detail,
                         reached := (fi.map (·.reached)).getD 0, faddr := (fi.map (·.faddr)).getD 0 }
  match c.task with
  | none => s.setTimed c.timed.discard
  | some _ => s.failCore s.focus.val c.timed.seq.pc i (if k.code = 0x0E then 1 else 0)

/-- A meaning that may trap at issue (R164): the trap, or the effect on the timed domain. -/
def State.trapOr (s : State) (slot : BitVec 4) (tr : Option Trap) (f : Timed → Timed) : Out :=
  match tr with
  | some k => .next (s.takeTrap slot k)
  | none => s.timedNext f

/-- A trap with a detail. -/
def trap (code : BitVec 8) (detail : Word) : Option Trap := some ⟨code, detail⟩

end Sys2Proof.Machine
end

