-- ==== Sys2Proof/Machine/Scalar.lean ====
section
/-!
DEFINITION. The scalar slots (R143-R155): integer, capability and FP32 instructions, scratchpad loads and stores,
special registers and SHAPE. Sources are read now; results land at the latencies of R128.
-/

namespace Sys2Proof.Machine

/-! ### Integer register-to-register instructions (R144) -/

/-- A result of one cycle from two registers. -/
def execRR (f : Word → Word → Word) (lat : Nat) (d a b : BitVec 6) (s : State) : Out :=
  s.timedNext fun t => t.pendS lat d (f (t.sreg a) (t.sreg b))

/-- A truth value as a scalar. -/
def boolWord (b : Bool) : Word := if b then 1 else 0

/-- The shift amount of R144: bits 5:0 of the second operand. -/
def shiftBy (b : Word) : Nat := bits b.toNat 5 0

/-- Bits 127:64 of a product (R144). -/
def mulHigh (p : Int) : Word := wrapInt 64 (p / 2 ^ 64)

/-- DIV.i64 (R147). -/
def divI (a b : Word) : Word := if b = 0 then BitVec.allOnes 64 else wrapInt 64 (a.toInt.tdiv b.toInt)
/-- DIV.n64 (R147). -/
def divN (a b : Word) : Word := if b = 0 then BitVec.allOnes 64 else BitVec.ofNat 64 (a.toNat / b.toNat)
/-- REM.i64 (R147): the sign of the dividend; sa when sb is 0. -/
def remI (a b : Word) : Word := if b = 0 then a else wrapInt 64 (a.toInt.tmod b.toInt)
/-- REM.n64 (R147). -/
def remN (a b : Word) : Word := if b = 0 then a else BitVec.ofNat 64 (a.toNat % b.toNat)

/-- ADD (R144). -/
def execAdd (d a b : BitVec 6) (s : State) : Out := execRR (fun x y => x + y) 1 d a b s
/-- SUB (R144). -/
def execSub (d a b : BitVec 6) (s : State) : Out := execRR (fun x y => x - y) 1 d a b s
/-- AND (R144). -/
def execAnd (d a b : BitVec 6) (s : State) : Out := execRR (fun x y => x &&& y) 1 d a b s
/-- OR (R144). -/
def execOr (d a b : BitVec 6) (s : State) : Out := execRR (fun x y => x ||| y) 1 d a b s
/-- XOR (R144). -/
def execXor (d a b : BitVec 6) (s : State) : Out := execRR (fun x y => x ^^^ y) 1 d a b s
/-- SHL (R144). -/
def execShl (d a b : BitVec 6) (s : State) : Out := execRR (fun x y => x <<< shiftBy y) 1 d a b s
/-- SHR (R144). -/
def execShr (d a b : BitVec 6) (s : State) : Out := execRR (fun x y => x >>> shiftBy y) 1 d a b s
/-- ASR (R144). -/
def execAsr (d a b : BitVec 6) (s : State) : Out := execRR (fun x y => x.sshiftRight (shiftBy y)) 1 d a b s
/-- CMPLT.i64 (R144). -/
def execCmpltI64 (d a b : BitVec 6) (s : State) : Out := execRR (fun x y => boolWord (x.slt y)) 1 d a b s
/-- CMPLT.n64 (R144). -/
def execCmpltN64 (d a b : BitVec 6) (s : State) : Out := execRR (fun x y => boolWord (x.ult y)) 1 d a b s
/-- CMPEQ (R144). -/
def execCmpeq (d a b : BitVec 6) (s : State) : Out := execRR (fun x y => boolWord (x == y)) 1 d a b s
/-- MIN.i64 (R144). -/
def execMinI64 (d a b : BitVec 6) (s : State) : Out := execRR (fun x y => if x.sle y then x else y) 1 d a b s
/-- MAX.i64 (R144). -/
def execMaxI64 (d a b : BitVec 6) (s : State) : Out := execRR (fun x y => if y.sle x then x else y) 1 d a b s
/-- MIN.n64 (R144). -/
def execMinN64 (d a b : BitVec 6) (s : State) : Out := execRR (fun x y => if x.ule y then x else y) 1 d a b s
/-- MAX.n64 (R144). -/
def execMaxN64 (d a b : BitVec 6) (s : State) : Out := execRR (fun x y => if y.ule x then x else y) 1 d a b s
/-- MUL (R144). -/
def execMul (d a b : BitVec 6) (s : State) : Out := execRR (fun x y => x * y) 3 d a b s
/-- MULH.i64 (R144). -/
def execMulhI64 (d a b : BitVec 6) (s : State) : Out := execRR (fun x y => mulHigh (x.toInt * y.toInt)) 3 d a b s
/-- MULH.n64 (R144). -/
def execMulhN64 (d a b : BitVec 6) (s : State) : Out := execRR (fun x y => mulHigh ((x.toNat : Int) * y.toNat)) 3 d a b s
/-- DIV.i64 (R147). -/
def execDivI64 (d a b : BitVec 6) (s : State) : Out := execRR divI 12 d a b s
/-- DIV.n64 (R147). -/
def execDivN64 (d a b : BitVec 6) (s : State) : Out := execRR divN 12 d a b s
/-- REM.i64 (R147). -/
def execRemI64 (d a b : BitVec 6) (s : State) : Out := execRR remI 12 d a b s
/-- REM.n64 (R147). -/
def execRemN64 (d a b : BitVec 6) (s : State) : Out := execRR remN 12 d a b s

/-! ### Immediates (R145, R146) -/

/-- A result of one cycle from one register. -/
def execR (f : Word → Word) (d a : BitVec 6) (s : State) : Out := s.timedNext fun t => t.pendS 1 d (f (t.sreg a))

/-- ADDI (R145). -/
def execAddi (d a : BitVec 6) (i : BitVec 12) (s : State) : Out := execR (fun x => x + sext12 i) d a s
/-- ANDI (R145). -/
def execAndi (d a : BitVec 6) (i : BitVec 12) (s : State) : Out := execR (fun x => x &&& sext12 i) d a s
/-- ORI (R145). -/
def execOri (d a : BitVec 6) (i : BitVec 12) (s : State) : Out := execR (fun x => x ||| sext12 i) d a s
/-- XORI (R145). -/
def execXori (d a : BitVec 6) (i : BitVec 12) (s : State) : Out := execR (fun x => x ^^^ sext12 i) d a s
/-- CMPLTI (R145). -/
def execCmplti (d a : BitVec 6) (i : BitVec 12) (s : State) : Out := execR (fun x => boolWord (x.slt (sext12 i))) d a s
/-- SHLI (R145). -/
def execShli (d a i : BitVec 6) (s : State) : Out := execR (fun x => x <<< i.toNat) d a s
/-- SHRI (R145). -/
def execShri (d a i : BitVec 6) (s : State) : Out := execR (fun x => x >>> i.toNat) d a s
/-- ASRI (R145). -/
def execAsri (d a i : BitVec 6) (s : State) : Out := execR (fun x => x.sshiftRight i.toNat) d a s

/-- SETH's value (R146). -/
def sethWord (q : BitVec 2) (i : BitVec 16) : Word := i.setWidth 64 <<< (16 * q.toNat)
/-- PUTH's value from the old one (R146). -/
def puthWord (old : Word) (q : BitVec 2) (i : BitVec 16) : Word :=
  (old &&& ~~~((0xFFFF : Word) <<< (16 * q.toNat))) ||| sethWord q i

/-- SETH (R146). -/
def execSeth (d : BitVec 6) (q : BitVec 2) (i : BitVec 16) (s : State) : Out :=
  s.timedNext fun t => t.pendS 1 d (sethWord q i)
/-- PUTH (R146): sd is read at issue. -/
def execPuth (d : BitVec 6) (q : BitVec 2) (i : BitVec 16) (s : State) : Out :=
  s.timedNext fun t => t.pendS 1 d (puthWord (t.sreg d) q i)

/-! ### Capabilities (R148) -/

/-- Segment index of a capability (R83). -/
def capSeg (c : Word) : BitVec 6 := c.extractLsb' 58 6
/-- Offset of a capability (R83). -/
def capOff (c : Word) : BitVec 58 := c.extractLsb' 0 58

/-- CAPADD (R148). -/
def execCapadd (d a b : BitVec 6) (s : State) : Out :=
  execRR (fun x y => capSeg x ++ (capOff x + y.setWidth 58)) 1 d a b s
/-- CAPADDI (R148). -/
def execCapaddi (d a : BitVec 6) (i : BitVec 12) (s : State) : Out :=
  execR (fun x => capSeg x ++ (capOff x + (sext12 i).setWidth 58)) d a s
/-- CAPMK (R148). -/
def execCapmk (d a g : BitVec 6) (s : State) : Out := execR (fun x => g ++ capOff x) d a s
/-- CAPSEG (R148). -/
def execCapseg (d a : BitVec 6) (s : State) : Out := execR (fun x => (capSeg x).setWidth 64) d a s
/-- CAPOFF (R148). -/
def execCapoff (d a : BitVec 6) (s : State) : Out := execR (fun x => (capOff x).setWidth 64) d a s

/-! ### FP32 (R149) -/

/-- An FP32 result in the low half of a register, zeros above. -/
def f32Word (v : FVal) : Word := (toF32 v).setWidth 64

/-- A result with FPSTAT bits, at latency 4. -/
def execF (d : BitVec 6) (f : Timed → Word × BitVec 5) (s : State) : Out :=
  s.timedNext fun t => t.pendFps 4 (.scalar d (f t).1) (f t).2

/-- An arithmetic result rounded once in the mode of FPCTL at issue. -/
def arithF (t : Timed) (exact : FVal) (anyNan : Bool) : Word × BitVec 5 :=
  let r := roundTo fp32 t.srtz exact
  (f32Word r.val, fpsOf anyNan r)

/-- FADD.f32 (R149). -/
def execFaddF32 (d a b : BitVec 6) (s : State) : Out :=
  execF d (fun t => let x := lowF32 (t.sreg a); let y := lowF32 (t.sreg b)
                    arithF t (x.add y) (x.isNan || y.isNan)) s
/-- FSUB.f32 (R149). -/
def execFsubF32 (d a b : BitVec 6) (s : State) : Out :=
  execF d (fun t => let x := lowF32 (t.sreg a); let y := lowF32 (t.sreg b)
                    arithF t (x.sub y) (x.isNan || y.isNan)) s
/-- FMUL.f32 (R149). -/
def execFmulF32 (d a b : BitVec 6) (s : State) : Out :=
  execF d (fun t => let x := lowF32 (t.sreg a); let y := lowF32 (t.sreg b)
                    arithF t (x.mul y) (x.isNan || y.isNan)) s
/-- FMA.f32 (R149): sd is read at issue; one rounding. -/
def execFmaF32 (d a b : BitVec 6) (s : State) : Out :=
  execF d (fun t => let x := lowF32 (t.sreg a); let y := lowF32 (t.sreg b); let z := lowF32 (t.sreg d)
                    arithF t ((x.mul y).add z) (x.isNan || y.isNan || z.isNan)) s
/-- FMIN.f32 (R149). -/
def execFminF32 (d a b : BitVec 6) (s : State) : Out :=
  execF d (fun t => (f32Word ((lowF32 (t.sreg a)).minOp (lowF32 (t.sreg b))), 0)) s
/-- FMAX.f32 (R149). -/
def execFmaxF32 (d a b : BitVec 6) (s : State) : Out :=
  execF d (fun t => (f32Word ((lowF32 (t.sreg a)).maxOp (lowF32 (t.sreg b))), 0)) s
/-- FCMPLT.f32 (R149). -/
def execFcmpltF32 (d a b : BitVec 6) (s : State) : Out :=
  execF d (fun t => let x := lowF32 (t.sreg a); let y := lowF32 (t.sreg b)
                    (boolWord (x.lt y), fpsBits (x.isNan || y.isNan) false false false)) s
/-- FCMPEQ.f32 (R149). -/
def execFcmpeqF32 (d a b : BitVec 6) (s : State) : Out :=
  execF d (fun t => (boolWord ((lowF32 (t.sreg a)).eqv (lowF32 (t.sreg b))), 0)) s
/-- CVT.f32.i64 (R149): it can raise IX alone. -/
def execCvtF32I64 (d a : BitVec 6) (s : State) : Out :=
  execF d (fun t => let r := roundTo fp32 t.srtz (ofInt (t.sreg a).toInt)
                    (f32Word r.val, fpsBits false false false r.inexact)) s

/-- CVT.i64.f32's result and bits (R149): IV and OF on NaN, infinity and saturation, IX on a discarded fraction. -/
def cvtToI64 (rtz : Bool) : FVal → Word × BitVec 5
  | .nan => (0, fpsBits true true false false)
  | .inf s => (if s then 0x8000000000000000 else 0x7FFFFFFFFFFFFFFF, fpsBits true true false false)
  | .num s m e =>
    let r := roundInt rtz s m e
    if r.1 < -2 ^ 63 then (0x8000000000000000, fpsBits true true false false)
    else if 2 ^ 63 - 1 < r.1 then (0x7FFFFFFFFFFFFFFF, fpsBits true true false false)
    else (wrapInt 64 r.1, fpsBits false false false r.2)

/-- CVT.i64.f32 (R149). -/
def execCvtI64F32 (d a : BitVec 6) (s : State) : Out := execF d (fun t => cvtToI64 t.srtz (lowF32 (t.sreg a))) s

/-! ### Scratchpad loads and stores (R150, R151) -/

/-- The byte address of a load or store, not wrapped to the scratchpad (R150). -/
def spAddr (t : Timed) (a : BitVec 6) (i : BitVec 12) : Nat := (t.sreg a + sext12 i).toNat

/-- R151: range first, then alignment. -/
def spTrap (t : Timed) (a : BitVec 6) (i : BitVec 12) (n : Nat) : Option Trap :=
  let x := spAddr t a i
  if 8388608 < x + n then trap 0x0B (BitVec.ofNat 64 x)
  else if x % n ≠ 0 then trap 0x0C (BitVec.ofNat 64 x)
  else none

/-- The slot number of the scalar slot that is issuing (R168). -/
def scalarSlot (t : Timed) : BitVec 4 := t.seq.issuing.setWidth 4

/-- A load of `n` bytes, extended by `ext`. -/
def execLds (n : Nat) (ext : Nat → Word) (d a : BitVec 6) (i : BitVec 12) (s : State) : Out :=
  s.trapOr (scalarSlot s.timed) (spTrap s.timed a i n) fun t => t.pendS 4 d (ext (t.sread (spAddr t a i) n))

/-- A store of `n` bytes. -/
def execSts (n : Nat) (b a : BitVec 6) (i : BitVec 12) (s : State) : Out :=
  s.trapOr (scalarSlot s.timed) (spTrap s.timed a i n) fun t =>
    t.pend 2 (.scratch [storePart (spAddr t a i) n (t.sreg b).toNat])

/-- Zero extension of loaded bytes. -/
def zext (x : Nat) : Word := BitVec.ofNat 64 x
/-- Sign extension from `w` bits. -/
def sextW (w x : Nat) : Word := wrapInt 64 (signedElem w x)

/-- LDS.n8 (R150). -/
def execLdsN8 (d a : BitVec 6) (i : BitVec 12) (s : State) : Out := execLds 1 zext d a i s
/-- LDS.i8 (R150). -/
def execLdsI8 (d a : BitVec 6) (i : BitVec 12) (s : State) : Out := execLds 1 (sextW 8) d a i s
/-- LDS.n16 (R150). -/
def execLdsN16 (d a : BitVec 6) (i : BitVec 12) (s : State) : Out := execLds 2 zext d a i s
/-- LDS.i16 (R150). -/
def execLdsI16 (d a : BitVec 6) (i : BitVec 12) (s : State) : Out := execLds 2 (sextW 16) d a i s
/-- LDS.n32 (R150). -/
def execLdsN32 (d a : BitVec 6) (i : BitVec 12) (s : State) : Out := execLds 4 zext d a i s
/-- LDS.i32 (R150). -/
def execLdsI32 (d a : BitVec 6) (i : BitVec 12) (s : State) : Out := execLds 4 (sextW 32) d a i s
/-- LDS.i64 (R150). -/
def execLdsI64 (d a : BitVec 6) (i : BitVec 12) (s : State) : Out := execLds 8 zext d a i s
/-- STS.n8 (R150). -/
def execStsN8 (b a : BitVec 6) (i : BitVec 12) (s : State) : Out := execSts 1 b a i s
/-- STS.n16 (R150). -/
def execStsN16 (b a : BitVec 6) (i : BitVec 12) (s : State) : Out := execSts 2 b a i s
/-- STS.n32 (R150). -/
def execStsN32 (b a : BitVec 6) (i : BitVec 12) (s : State) : Out := execSts 4 b a i s
/-- STS.n64 (R150). -/
def execStsN64 (b a : BitVec 6) (i : BitVec 12) (s : State) : Out := execSts 8 b a i s

/-! ### Special registers (R152, R153) and SHAPE (R154) -/

/-- What a task's identity registers read; zero on a core with no task bound. -/
def taskValue (s : State) (f : Task → Nat) : Word :=
  match s.core.task with
  | none => 0
  | some k => BitVec.ofNat 64 (f k)

/-- The value of a special register as it stands at issue (R152). -/
def srValue (s : State) (r : BitVec 12) : Word :=
  let t := s.timed
  match r.toNat with
  | 0x000 => taskValue s fun k => k.taskIdx.toNat % cardSpanX k.card
  | 0x001 => taskValue s fun k => k.taskIdx.toNat / cardSpanX k.card % cardSpanY k.card
  | 0x002 => taskValue s fun k => k.taskIdx.toNat / (cardSpanX k.card * cardSpanY k.card)
  | 0x003 => taskValue s fun k => cardSpanX k.card
  | 0x004 => taskValue s fun k => cardSpanY k.card
  | 0x005 => taskValue s fun k => cardSpanZ k.card
  | 0x006 => taskValue s fun k => k.taskIdx.toNat
  | 0x007 => taskValue s fun k => k.regionId.toNat
  | 0x008 => taskValue s fun k => k.cardIdx.toNat
  | 0x009 => BitVec.ofNat 64 s.focus.val
  | 0x00A => boolWord s.preq
  | 0x010 => t.sp.fpctl
  | 0x011 => t.sp.fpstat
  | 0x012 => t.sp.shape
  | 0x013 => BitVec.ofNat 64 t.seq.rstack.length
  | 0x014 => t.sp.tcycle
  | 0x015 => t.sp.markv
  | 0x016 => t.seq.pc.setWidth 64
  | 0x018 => ((t.seq.loop.cnt.get 0).setWidth 64)
  | 0x019 => ((t.seq.loop.cnt.get 1).setWidth 64)
  | 0x01A => ((t.seq.loop.cnt.get 2).setWidth 64)
  | 0x01B => ((t.seq.loop.cnt.get 3).setWidth 64)
  | 0x01C => ((t.seq.loop.cnt.get 4).setWidth 64)
  | 0x01D => ((t.seq.loop.cnt.get 5).setWidth 64)
  | _ => 0

/-- MFSR (R153). -/
def execMfsr (d : BitVec 6) (r : BitVec 12) (s : State) : Out := s.timedNext fun t => t.pendS 1 d (srValue s r)

/-- MTSR (R153): a write to FPSTAT clears the bits that are 1 in sa when it lands (R68). -/
def execMtsr (a : BitVec 6) (r : BitVec 12) (s : State) : Out :=
  s.timedNext fun t => t.pend 1 (.special r (t.sreg a))

/-- SHAPE_GRANT (R154). -/
def shapeGrant (x : Word) (ew : BitVec 2) : Word :=
  let vl := bits x.toNat 12 0
  let rows := bits x.toNat 28 16
  let cols := bits x.toNat 44 32
  let cmax := 4096 >>> ew.toNat
  let vlG := if vl = 0 ∨ 1024 < vl then 1024 else vl
  let trG := if rows = 0 ∨ 128 < rows then 128 else rows
  let tcG := if cols = 0 ∨ cmax < cols then cmax else cols
  BitVec.ofNat 64 (ew.toNat <<< 48 ||| tcG <<< 32 ||| trG <<< 16 ||| vlG)

/-- SHAPE (R154): the grant lands in sd and in SHAPE. -/
def execShape (d a : BitVec 6) (w : BitVec 2) (s : State) : Out :=
  s.timedNext fun t => (t.pendS 1 d (shapeGrant (t.sreg a) w)).pend 1 (.special 0x012 (shapeGrant (t.sreg a) w))

end Sys2Proof.Machine
end

