-- ==== Sys2Proof/Machine/Operands.lean ====
section
/-!
DEFINITION. The operand forms of the vector slots (R205-R209) and the addresses of tile windows (R175, R176, R179):
active and enabled elements, operand b, flushed floating operands, and where a window's bytes lie.
-/

namespace Sys2Proof.Machine

/-! ### Elements and masks -/

/-- NA: the number of active elements of width `w` (R205). -/
def Timed.active (t : Timed) (w : Nat) : Nat := t.vl * 32 / w

/-- MASKBIT (R206). -/
def Timed.maskBit (t : Timed) (ma : BitVec 4) (w i : Nat) : Bool :=
  let g := 32 / w
  (t.mreg (ma + BitVec.ofNat 4 (i % g))).getLsbD (i / g)

/-- An active element is enabled when the instruction is unmasked or its mask bit is 1 (R206). -/
def Timed.enabled (t : Timed) (o : VOp) (w i : Nat) : Bool := !o.msk || t.maskBit o.ma w i

/-- Operand b of element `i` (R208). -/
def Timed.opB (t : Timed) (o : VOp) (w i : Nat) : Nat :=
  if o.sbf then (t.sreg (o.vb.setWidth 6)).toNat % 2 ^ w else elem (t.vreg o.vb) w i

/-- The scalar register a vector instruction names in VB (R208). -/
def Timed.scalarB (t : Timed) (o : VOp) : Word := t.sreg (o.vb.setWidth 6)

/-! ### Floating elements -/

/-- The format of a floating type; FP32 for the others, which is where an integer's sum goes (R214). -/
def fmtOf : ElemTy → Fmt
  | .bf => bf16
  | .f8 => e4m3
  | .f32 => fp32 | .i8 => fp32 | .n8 => fp32 | .i16 => fp32 | .n16 => fp32 | .i32 => fp32 | .n32 => fp32
  | .i4 => fp32 | .n4 => fp32

/-- The exact value of an element. -/
def valOf (t : ElemTy) (x : Nat) : FVal :=
  match t with
  | .f32 => ofF32 (BitVec.ofNat 32 x)
  | .bf => ofBf (BitVec.ofNat 16 x)
  | .f8 => ofE4m3 (BitVec.ofNat 8 x)
  | .i8 | .n8 | .i16 | .n16 | .i32 | .n32 | .i4 | .n4 => ofInt (intOf t x)

/-- The exact value of a floating element after input flushing (R69); integers never flush. -/
def valIn (t : ElemTy) (x : Nat) : FVal × Bool :=
  if t.isFloat then flushIn (fmtOf t) (valOf t x) else (valOf t x, false)

/-- The bits of a value that the format holds. -/
def bitsOf (t : ElemTy) (v : FVal) : Nat :=
  match t with
  | .bf => (toBf v).toNat
  | .f8 => (toE4m3 v).toNat
  | .f32 | .i8 | .n8 | .i16 | .n16 | .i32 | .n32 | .i4 | .n4 => (toF32 v).toNat

/-- A floating result of one element: its bits, its value, and whether anything flushed. -/
structure EOut where
  bits : Nat
  val : FVal
  fl : Bool
deriving DecidableEq, Repr

/-- One rounding on the flushing path (R64, R66, R69). -/
def roundElem (t : ElemTy) (rtz : Bool) (exact : FVal) (fl : Bool) : EOut :=
  let r := match t with
    | .f8 => roundE4m3 rtz exact
    | .bf => roundTo bf16 rtz exact
    | .f32 | .i8 | .n8 | .i16 | .n16 | .i32 | .n32 | .i4 | .n4 => roundTo fp32 rtz exact
  let o := flushOut exact r
  ⟨bitsOf t o.1, o.1, fl || o.2⟩

/-- A value that needs no rounding. -/
def exactElem (t : ElemTy) (v : FVal) (fl : Bool) : EOut := ⟨bitsOf t v, v, fl⟩

/-- A whole vector destination from per-element results: enabled elements take theirs (R207). -/
def Timed.vecOut (t : Timed) (o : VOp) (w : Nat) (f : Nat → Nat) : VReg :=
  updElems w (t.enabled o w) f (t.vreg o.vd) (t.active w)

/-- An integer or logic result per enabled element. -/
def Timed.pendElems (t : Timed) (lat : Nat) (o : VOp) (w : Nat) (f : Nat → Nat) : Timed :=
  t.pend lat (.vector o.vd (t.vecOut o w f))

/-- A floating result per enabled element, with its BSTAT update (R70, R209). -/
def Timed.pendFloats (t : Timed) (lat : Nat) (o : VOp) (ty : ElemTy) (f : Nat → EOut) : Timed :=
  t.pendBst lat (.vector o.vd (t.vecOut o ty.width fun i => (f i).bits))
    (bstList (t.enabled o ty.width) (fun i => bstElem (fmtOf ty) i (f i).fl (f i).val) (t.active ty.width))

/-! ### Tile windows (R175, R176) -/

/-- TR, TC and EW as numbers. -/
def Window.rows (w : Window) : Nat := w.tr.toNat
/-- RBU: used bytes of a row. -/
def Window.rbu (w : Window) : Nat := w.tc.toNat <<< w.ew.toNat
/-- The smallest power of two at least `n` and at least 64, for `n` up to 4096. -/
def pow2Pitch (n : Nat) : Nat :=
  if n ≤ 64 then 64 else if n ≤ 128 then 128 else if n ≤ 256 then 256 else if n ≤ 512 then 512
  else if n ≤ 1024 then 1024 else if n ≤ 2048 then 2048 else 4096
/-- RP: row pitch. -/
def Window.rp (w : Window) : Nat := pow2Pitch w.rbu
/-- NC: chunks per row. -/
def Window.nc (w : Window) : Nat := w.rp / 64
/-- G: rows per stripe. -/
def Window.g (w : Window) : Nat := 4096 / w.rp
/-- SR: storage rows. -/
def Window.sr (w : Window) : Nat := (w.rows + w.g - 1) / w.g * w.g
/-- S: storage bytes. -/
def Window.storage (w : Window) : Nat := w.sr / w.g * 4096
/-- The logical size. -/
def Window.size (w : Window) : Nat := w.rows * w.rbu

/-- BITREV6 (R176). -/
def bitrev6 (y : Nat) : Nat :=
  (y % 2) * 32 + (y / 2 % 2) * 16 + (y / 4 % 2) * 8 + (y / 8 % 2) * 4 + (y / 16 % 2) * 2 + y / 32 % 2

/-- ADDR (R176): the scratchpad address of row byte `x` of row `i`. -/
def Window.addr (w : Window) (i x : Nat) : Nat :=
  if w.skew then w.base.toNat + 4096 * (i / w.g) + 64 * (x / 64 ^^^ bitrev6 (i % 64)) + x % 64
  else w.base.toNat + i * w.rp + x

/-- The scratchpad address of logical byte `l` (R175, R190). -/
def Window.byteAddr (w : Window) (l : Nat) : Nat := w.addr (l / w.rbu) (l % w.rbu)

/-- The geometry a WDECL takes from SHAPE (R175, R177). -/
def windowOf (shape : Word) (base : BitVec 23) (skew : Bool) : Window :=
  { base := base, skew := skew, tr := shape.extractLsb' 16 13, tc := shape.extractLsb' 32 13, ew := shape.extractLsb' 48 2 }

/-- Byte `l` of a window, through its declaration. -/
def Timed.winByte (t : Timed) (w : Window) (l : Nat) : Byte := t.sbyte (w.byteAddr l)

/-- `n` logical bytes of a window from `l` on, as one number. -/
def Timed.winRead (t : Timed) (w : Window) (l : Nat) : Nat → Nat
  | 0 => 0
  | n + 1 => (t.winByte w l).toNat + 256 * Timed.winRead t w (l + 1) n

/-- `n` logical bytes of a window written from `l` on. -/
def Timed.winWrite (t : Timed) (w : Window) (l : Nat) : Nat → Nat → Timed
  | 0, _ => t
  | n + 1, v => Timed.winWrite (t.setSbyte (w.byteAddr l) (BitVec.ofNat 8 v)) w (l + 1) n (v / 256)

end Sys2Proof.Machine
end

