-- ==== Sys2Proof/Machine/Segments.lean ====
section
/-!
DEFINITION. Capabilities, segments, homes and paging (R83-R94): which access a task's segment table grants, where in
memory it lies, and the walk of a pageable segment.
-/

namespace Sys2Proof.Machine

/-! ### Locations: one number for every byte of memory (R18, R94) -/

/-- The location of a Quitur address of the host; an address of more than 52 bits is no location of the host's (R84, R85). -/
def hostKey (a : Nat) : Nat := if a < 2 ^ 52 then 2 ^ 52 + a else 2 ^ 66 + a
/-- The location of an address on peer module `i`, with the same bound. -/
def peerKey (i a : Nat) : Nat := if a < 2 ^ 52 then 2 ^ 53 + i * 2 ^ 52 + a else 2 ^ 66 + a

/-- The home of a byte (R18). `nowhere` is an offset of a KIND HOST or KIND PEER segment beyond the 52 bits of an address: no
memory port takes it (log entry 61, DESIGN CHOICE). -/
inductive Home where
  | hbm (n : Nat)
  | lpddr (n : Nat)
  | host
  | module (m unit : Nat)
  | peer (i : Nat)
  | nowhere
deriving DecidableEq, Repr

/-- The home of a location, for a module at rack position `me`. -/
def homeOf (me key : Nat) : Home :=
  if 2 ^ 66 ≤ key then .nowhere
  else if 2 ^ 53 ≤ key then .peer ((key - 2 ^ 53) / 2 ^ 52)
  else if 2 ^ 52 ≤ key then .host
  else if key / 2 ^ 48 ≠ me then .module (key / 2 ^ 48) (key / 2 ^ 44 % 16)
  else if key / 2 ^ 44 % 16 < 8 then .hbm (key / 2 ^ 44 % 16)
  else .lpddr (key / 2 ^ 44 % 16 - 8)

def State.home (s : State) (key : Nat) : Home := homeOf s.myMod.toNat key

/-- The bytes of a unit: 64 GiB of HBM4 or 512 GiB of LPDDR-6 (R94). -/
def unitSize (unit : Nat) : Nat := if unit < 8 then 2 ^ 36 else 2 ^ 39

/-- Whether `n` bytes at a global address lie within this module's HBM4 or LPDDR-6 (R94). -/
def State.onModule (s : State) (g n : Nat) : Bool :=
  decide (g / 2 ^ 48 = s.myMod.toNat) && decide (g % 2 ^ 44 + n ≤ unitSize (g / 2 ^ 44 % 16))

/-- The location of local address `a` of HBM4 stack `die`. -/
def State.hbmKey (s : State) (die a : Nat) : Nat := s.myMod.toNat * 2 ^ 48 + die * 2 ^ 44 + a

/-! ### Segment-table entries (R84) -/

abbrev Seg := BitVec 256

def segBase (e : Seg) : Nat := bits (recWord e 0) 51 0
def segLen (e : Seg) : Nat := bits (recWord e 1) 57 0
def segRd (e : Seg) : Bool := bit (recWord e 2) 0
def segWr (e : Seg) : Bool := bit (recWord e 2) 1
def segEx (e : Seg) : Bool := bit (recWord e 2) 2
def segUpd (e : Seg) : Bool := bit (recWord e 2) 3
def segKind (e : Seg) : Nat := bits (recWord e 2) 9 8
def segPageable (e : Seg) : Bool := bit (recWord e 2) 10
def segHomeMod (e : Seg) : Nat := bits (recWord e 2) 15 12
def segHomeUnit (e : Seg) : Nat := bits (recWord e 2) 19 16
def segPeer (e : Seg) : Nat := bits (recWord e 2) 31 20
def segRoot (e : Seg) : Nat := bits (recWord e 3) 51 0

/-- The entry a segment index names, if the table has it. -/
def Task.seg (k : Task) (i : BitVec 6) : Option Seg := k.segs[i.toNat]?

/-- The entry of the focused core's task that a capability names. -/
def State.capEntry (s : State) (cap : Word) : Option Seg := s.core.task.bind fun k => k.seg (capSeg' cap)
where
  /-- Segment index of a capability (R83). -/
  capSeg' (c : Word) : BitVec 6 := c.extractLsb' 58 6

/-- The rights an access asks for (R87). -/
inductive Right where
  | rd | wr | upd
deriving DecidableEq, Repr

def segHas (e : Seg) : Right → Bool
  | .rd => segRd e
  | .wr => segWr e
  | .upd => segUpd e

/-- Bytes `lo` to `hi` of a segment lie within it (R83, R88). -/
def inSegment (e : Seg) (lo hi : Int) : Bool := decide (0 ≤ lo) && decide (hi < segLen e)

/-- R86: what makes one entry, number `i`, invalid. `modules` is the set of modules of the rack ring. -/
def segInvalid (me : Nat) (modules : BitVec 16) (i : Nat) (e : Seg) : Bool :=
  let g := segBase e
  decide (recWord e 0 >>> 52 ≠ 0) || decide (recWord e 1 >>> 58 ≠ 0) || decide (bits (recWord e 2) 7 4 ≠ 0) ||
  decide (segKind e = 3) || bit (recWord e 2) 11 || decide (recWord e 2 >>> 32 ≠ 0) || decide (recWord e 3 >>> 52 ≠ 0) ||
  (decide (i = 0) && (!segEx e || segPageable e || decide (segKind e ≠ 0))) ||
  (decide (i ≠ 0) && segEx e) ||
  (decide (segKind e = 0) && !segPageable e &&
    (decide (g % 256 ≠ 0) || !modules.getLsbD (g / 2 ^ 48) ||
      decide (unitSize (g / 2 ^ 44 % 16) < g % 2 ^ 44 + segLen e))) ||
  (decide (segKind e = 1 ∨ segKind e = 2) && (decide (g % 256 ≠ 0) || segPageable e)) ||
  (segPageable e &&
    (decide (g % 2 ^ 16 ≠ 0) || decide (2 ^ 48 < g + segLen e) || decide (segRoot e % 4096 ≠ 0) ||
      decide (segRoot e / 2 ^ 48 ≠ me) || decide (unitSize (segRoot e / 2 ^ 44 % 16) < segRoot e % 2 ^ 44 + 4096)))

/-! ### Poison (R392, R395): 32-byte granules by number -/

/-- Whether any granule of `n` bytes at a location is poisoned. -/
def State.poisoned (s : State) (key n : Nat) : Bool :=
  s.poison.any fun g => decide (g * 32 < key + n) && decide (key < g * 32 + 32)

/-! ### Paging (R89-R92) -/

/-- The page-table level whose table is at `tab`: the entry index of a virtual address, and the page size of a leaf. -/
def levelIndex (level va : Nat) : Nat :=
  if level = 1 then va / 2 ^ 39 % 512 else if level = 2 then va / 2 ^ 30 % 512 else if level = 3 then va / 2 ^ 21 % 512
  else va / 2 ^ 16 % 32
def leafSize (level : Nat) : Nat := if level = 2 then 2 ^ 30 else if level = 3 then 2 ^ 21 else 2 ^ 16
/-- Alignment of the table below a level. -/
def tableAlign (level : Nat) : Nat := if level = 3 then 256 else 4096

/-- R90: what makes a valid entry of a level malformed. -/
def pteBad (s : State) (e : Seg) (level pte : Nat) : Bool :=
  let adr := bits pte 51 8 * 256
  decide (bits pte 7 3 ≠ 0) || decide (pte / 2 ^ 52 ≠ 0) || (bit pte 1 && decide (level = 1)) ||
  (!bit pte 1 && decide (level = 4)) ||
  (if bit pte 1 then
    decide (adr % leafSize level ≠ 0) || decide (adr / 2 ^ 48 ≠ segHomeMod e) ||
      decide (adr / 2 ^ 44 % 16 ≠ segHomeUnit e) || decide (unitSize (adr / 2 ^ 44 % 16) < adr % 2 ^ 44 + leafSize level)
   else decide (adr % tableAlign level ≠ 0) || !s.onModule adr (tableAlign level))

/-- A cached translation that serves an access; one without W does not serve a write (R90, R91). -/
def tlbFind (tlb : List TlbEntry) (si : BitVec 6) (va : Nat) (write : Bool) : Option TlbEntry :=
  tlb.find? fun x => x.seg == si && decide (x.va ≤ va) && decide (va < x.va + x.size) && (x.w || !write)

/-- Where offset `off` of a segment lies; none while a pageable segment's page is not translated. -/
def placeOf (e : Seg) (si : BitVec 6) (tlb : List TlbEntry) (off : Nat) (write : Bool) : Option Nat :=
  if segPageable e then
    let va := segBase e + off
    (tlbFind tlb si va write).map fun x => x.pa + (va - x.va)
  else if segKind e = 1 then some (hostKey (segBase e + off))
  else if segKind e = 2 then some (peerKey (segPeer e) (segBase e + off))
  else some (segBase e + off)

end Sys2Proof.Machine
end

