-- ==== Sys2Proof/Machine/Copy.lean ====
section
/-!
DEFINITION. The copy slot at issue (R175-R197, R345): windows, descriptors, batches, the checks of a tile command, and
the entry of a command into its engine's queue.
-/

namespace Sys2Proof.Machine

/-! ### Loop descriptors (R182, R183) -/

abbrev Desc := BitVec 1024

def dRun (d : Desc) : Nat := bits (recWord d 0) 12 0
def dNdim (d : Desc) : Nat := bits (recWord d 0) 18 16
def dWstart (d : Desc) : Nat := bits (recWord d 1) 31 0
def dBound (d : Desc) (k : Nat) : Nat := bits (recWord d (2 + 2 * k)) 15 0
def dLsrc (d : Desc) (k : Nat) : Nat := bits (recWord d (2 + 2 * k)) 18 16
def dWstride (d : Desc) (k : Nat) : Int := signedElem 32 (bits (recWord d (2 + 2 * k)) 63 32)
def dMstride (d : Desc) (k : Nat) : Int := signedElem 48 (bits (recWord d (3 + 2 * k)) 47 0)

/-- A loop counter by number, 0 beyond the six. -/
def counter (c : Vector (BitVec 32) 6) (k : Nat) : Nat := (c.toList.getD k 0).toNat

/-- The number of iterations of dimension k: 1 when it is absent or takes its index from a loop counter (R183). -/
def dIters (d : Desc) (k : Nat) : Nat := if dNdim d ≤ k ∨ dLsrc d k ≠ 0 then 1 else dBound d k

/-- The number of runs of a footprint; 0 when it is empty (R183). -/
def runCount (d : Desc) : Nat :=
  if dRun d = 0 ∨ dNdim d = 0 then 0
  else dIters d 0 * dIters d 1 * dIters d 2 * dIters d 3 * dIters d 4 * dIters d 5

/-- The index of dimension `k` in run `r`: dimension 0 is innermost (R183). -/
def runIndex (d : Desc) (c : Vector (BitVec 32) 6) (r k : Nat) : Nat :=
  if dLsrc d k ≠ 0 ∧ k < dNdim d then counter c (dLsrc d k - 1)
  else
    let below := (List.range k).foldl (fun p j => p * dIters d j) 1
    r / below % dIters d k

/-- The offset of run `r` along one of the two strides. -/
def runOff (d : Desc) (c : Vector (BitVec 32) 6) (stride : Desc → Nat → Int) (r : Nat) : Int :=
  (List.range (dNdim d)).foldl (fun x k => x + (runIndex d c r k : Int) * stride d k) 0

/-- moff - OFF of run `r` (R183). -/
def runMoff (d : Desc) (c : Vector (BitVec 32) 6) (r : Nat) : Int := runOff d c dMstride r
/-- woff of run `r` (R183). -/
def runWoff (d : Desc) (c : Vector (BitVec 32) 6) (r : Nat) : Int := dWstart d + runOff d c dWstride r

/-- The least and the greatest offset that one dimension contributes. -/
def dimSpan (d : Desc) (c : Vector (BitVec 32) 6) (stride : Desc → Nat → Int) (k : Nat) : Int × Int :=
  if dLsrc d k ≠ 0 then
    let x := (counter c (dLsrc d k - 1) : Int) * stride d k
    (x, x)
  else
    let x := ((dBound d k : Int) - 1) * stride d k
    (min 0 x, max 0 x)

/-- The least and the greatest offset of all runs (R88). -/
def spanOf (d : Desc) (c : Vector (BitVec 32) 6) (stride : Desc → Nat → Int) : Int × Int :=
  (List.range (dNdim d)).foldl (fun x k => (x.1 + (dimSpan d c stride k).1, x.2 + (dimSpan d c stride k).2)) (0, 0)

/-! ### Checks at issue (R195) -/

/-- R195 check 3. -/
def alignBad (d : Desc) (off : Nat) (bp : Bool) : Bool :=
  decide (off % 4 ≠ 0) || decide (dRun d % (if bp then 32 else 4) ≠ 0) || decide (dWstart d % 4 ≠ 0) ||
    ((List.range (dNdim d)).any fun k =>
      decide (dWstride d k % 4 ≠ 0) || decide (dMstride d k % (if bp then 32 else 4) ≠ 0))

/-- R195 check 4. -/
def windowBad (d : Desc) (c : Vector (BitVec 32) 6) (w : Window) : Bool :=
  let x := spanOf d c dWstride
  decide ((dWstart d : Int) + x.1 < 0) || decide ((w.size : Int) < dWstart d + x.2 + dRun d)

/-- The lowest and the highest byte offset of a footprint; for TLDBP over planes 0 to K - 1 (R88, R192). -/
def byteSpan (d : Desc) (c : Vector (BitVec 32) 6) (off : Nat) (bp : Option (Nat × Nat)) : Int × Int :=
  let x := spanOf d c dMstride
  match bp with
  | none => (off + x.1, off + x.2 + dRun d - 1)
  | some (k, pstride) => (off + x.1 / 8, off + (k - 1) * pstride + (x.2 + dRun d - 1) / 8)

/-- K and PSTRIDE of TLDBP (R192). -/
def bpK (e : BitVec 21) : Nat := bits e.toNat 3 0
def bpMid (e : BitVec 21) : Bool := bit e.toNat 4
def bpStride (e : BitVec 21) : Nat := bits e.toNat 20 5 * 256

/-- The segment index and the offset of a capability (R83). -/
def capIdx (c : Word) : BitVec 6 := c.extractLsb' 58 6
def capOffs (c : Word) : Nat := (c.extractLsb' 0 58).toNat

/-- R88, R195 check 5. A remote store asks more of the segment (R345). -/
def segOk (s : State) (cap : Word) (r : Right) (remote : Bool) (span : Int × Int) : Bool :=
  match s.capEntry cap with
  | none => false
  | some e =>
    segHas e r && inSegment e span.1 span.2 &&
      (!remote || (decide (segKind e = 0) && !segPageable e) || decide (segKind e = 1))

/-- R195 for the commands with a descriptor. `wins` says whether the window is checked: TLDM's is only when the issuing
core is a receiver (R191). An empty footprint passes every check (R183). -/
def tileTrap (s : State) (o : CaOp) (wins : Bool) (r : Right) (remote : Bool) (bp : Option (Nat × Nat)) : Option Trap :=
  let t := s.timed
  let d := t.descr o.d
  let cap := t.sreg o.sa
  let c := t.seq.loop.cnt
  let undeclared := wins && (t.win o.w).isNone
  let outside := match t.win o.w with
    | none => false
    | some w => wins && windowBad d c w
  if runCount d = 0 then none
  else if undeclared then trap 0x32 (o.w.setWidth 64)
  else if alignBad d (capOffs cap) bp.isSome then trap 0x31 (o.d.setWidth 64)
  else if outside then trap 0x33 (o.w.setWidth 64)
  else if segOk s cap r remote (byteSpan d c (capOffs cap) bp) then none
  else trap 0x30 cap

/-- R195 for WCOPY: wd first, then ws; then the logical sizes. -/
def wcopyTrap (t : Timed) (o : CaOp) : Option Trap :=
  let ws : BitVec 5 := o.ext.setWidth 5
  match t.win o.w, t.win ws with
  | none, _ => trap 0x32 (o.w.setWidth 64)
  | some _, none => trap 0x32 (ws.setWidth 64)
  | some x, some y => if x.size = y.size then none else trap 0x37 (BitVec.ofNat 64 (o.w.toNat + 256 * ws.toNat))

/-- R195 for WFILL. -/
def wfillTrap (t : Timed) (o : CaOp) : Option Trap := if (t.win o.w).isNone then trap 0x32 (o.w.setWidth 64) else none

/-! ### Queues (R127, R185) -/

/-- Entries of an engine's queue on a core. -/
def Untimed.count (u : Untimed) (e : Engine) : Nat := (u.queue.filter fun c => c.eng == e).length

/-- How many entries an engine's queue holds per core (R185, R265, R320, R361); gather and trust commands,
PCNT and PWAIT use the copy queue. -/
def Engine.depth : Engine → Nat
  | .copy => 24
  | .vertex => 16
  | .lattice => 16
  | .exchange => 16
  | .none => 0

/-- The engine's queue has a free entry. -/
def Untimed.room (u : Untimed) (e : Engine) : Bool := decide (u.count e < e.depth)

/-- The open batch's number. -/
def Untimed.openBatch (u : Untimed) : Option Nat := (u.batches.find? (·.isOpen)).map (·.id)

/-- A command as it enters a queue, with what it captures (R128, R177, R184). -/
def newCmd (t : Timed) (u : Untimed) (e : Engine) (i : Instr) (cls : BitVec 4) (a b : Word) (w w2 : Option Window)
    (img : BitVec 1024) : Cmd :=
  { seq := u.nseq, eng := e, ins := i, cls := cls, a := a, b := b, win := w, win2 := w2, img := img,
    cnt := t.seq.loop.cnt, regs := [], batch := none, run := 0, boff := 0, nreq := 0, reqs := [], stop := .run,
    uid := 0, prog := .start }

/-- The command joins the queue, and the open batch when it is one of those that R186 names. -/
def Untimed.push (u : Untimed) (c : Cmd) (joins : Bool) : Untimed :=
  let bs := if joins then u.batches.map fun b => if b.isOpen then { b with count := b.count + 1 } else b else u.batches
  { u with nseq := u.nseq + 1, queue := u.queue ++ [{ c with batch := if joins then u.openBatch else none }],
           batches := bs }

def State.un (s : State) : Untimed := s.core.un
def State.setUn (s : State) (u : Untimed) : State := s.setCore { s.core with un := u }

/-- The command enters its queue; with the queue full the bundle is held (R130 cause 2) and nothing changes. -/
def State.enqueue (s : State) (c : Cmd) (joins : Bool) : State :=
  if s.un.room c.eng then s.setUn (s.un.push c joins) else s

/-! ### Windows and descriptors (R177, R184) -/

/-- R177: WDECL's base and extent. -/
def wdeclTrap (t : Timed) (o : CfOp) : Option Trap :=
  let a := t.sreg o.sa
  let w := windowOf t.sp.shape (a.setWidth 23) false
  if a.toNat % 4096 ≠ 0 ∨ 8388608 < a.toNat + w.storage then trap 0x36 a else none

/-- A declaration replaced. -/
def Timed.setWin (t : Timed) (w : BitVec 5) (x : Option Window) : Timed := { t with wins := t.wins.set w.toNat x w.isLt }

/-- A copy-slot instruction that takes effect at issue and then only passes through the queue. -/
def passThrough (i : Instr) (tr : Option Trap) (f : Timed → Timed) (s : State) : Out :=
  match tr with
  | some k => .next (s.takeTrap 7 k)
  | none =>
    if s.un.room .copy then
      let s1 := s.setTimed (f s.timed)
      .next (s1.setUn (s1.un.push (newCmd s.timed s.un .copy i 0 0 0 none none 0) false))
    else .next s

/-- WDECL (R177). -/
def execWdecl (o : CfOp) (s : State) : Out :=
  passThrough (.wdecl o) (wdeclTrap s.timed o)
    (fun t => t.setWin (o.ext.setWidth 5)
      (some (windowOf t.sp.shape ((t.sreg o.sa).setWidth 23) (bit o.ext.toNat 5)))) s
/-- WFREE (R177). -/
def execWfree (o : CfOp) (s : State) : Out :=
  passThrough (.wfree o) none (fun t => t.setWin (o.ext.setWidth 5) none) s

/-- Reserved bits of a descriptor's header and of its dimensions below NDIM (R182, R184). -/
def descBad (d : Desc) : Bool :=
  decide (bits (recWord d 0) 15 13 ≠ 0) || decide (recWord d 0 >>> 19 ≠ 0) || decide (recWord d 1 >>> 32 ≠ 0) ||
  decide (dNdim d = 7) || decide (4096 < dRun d) ||
  ((List.range (min (dNdim d) 6)).any fun k =>
    decide (dLsrc d k = 7) || decide (bits (recWord d (2 + 2 * k)) 31 19 ≠ 0) ||
      decide (recWord d (3 + 2 * k) >>> 48 ≠ 0))

/-- The image as d holds it: dimensions at and above NDIM and bytes 0x70 up are zero (R182). -/
def descKept (d : Desc) : Desc := BitVec.ofNat 1024 (d.toNat % 2 ^ (128 + 128 * min (dNdim d) 6))

/-- The 128 bytes at a scratchpad address. -/
def descAt (t : Timed) (a : Nat) : Desc := BitVec.ofNat 1024 (t.sread a 128)

/-- R184. -/
def dsetTrap (t : Timed) (o : CfOp) : Option Trap :=
  let a := t.sreg o.sa
  if a.toNat % 128 ≠ 0 ∨ 8388608 < a.toNat + 128 then trap 0x36 a
  else if descBad (descAt t a.toNat) then trap 0x35 ((o.ext.setWidth 4 : BitVec 4).setWidth 64)
  else none

/-- DSET (R184). -/
def execDset (o : CfOp) (s : State) : Out :=
  passThrough (.dset o) (dsetTrap s.timed o)
    (fun t =>
      let d : BitVec 4 := o.ext.setWidth 4
      { t with desc := t.desc.set d.toNat (descKept (descAt t (t.sreg o.sa).toNat)) d.isLt }) s

/-! ### Tile commands (R190-R194, R345) -/

/-- A command with a descriptor enters the queue and the open batch. -/
def tileCmd (i : Instr) (o : CaOp) (tr : Option Trap) (s : State) : Out :=
  match tr with
  | some k => .next (s.takeTrap 7 k)
  | none =>
    let t := s.timed
    .next (s.enqueue (newCmd t s.un .copy i o.cls (t.sreg o.sa) 0 (t.win o.w) none (t.descr o.d)) true)

/-- TLD (R190). -/
def execTld (o : CaOp) (s : State) : Out := tileCmd (.tld o) o (tileTrap s o true .rd false none) s
/-- TST (R190). -/
def execTst (o : CaOp) (s : State) : Out := tileCmd (.tst o) o (tileTrap s o true .wr false none) s

/-- Whether TLDM's core mask names the issuing core (R191). -/
def tldmSelf (s : State) (o : CaOp) : Bool := o.ext.getLsbD (s.focus.val % 12)

/-- TLDM (R191). -/
def execTldm (o : CaOp) (s : State) : Out := tileCmd (.tldm o) o (tileTrap s o (tldmSelf s o) .rd false none) s
/-- TLDBP (R192). -/
def execTldbp (o : CaOp) (s : State) : Out :=
  tileCmd (.tldbp o) o (tileTrap s o true .rd false (some (bpK o.ext, bpStride o.ext))) s
/-- PREF (R193): it makes none of the checks. -/
def execPref (o : CaOp) (s : State) : Out := tileCmd (.pref o) o none s
/-- STREM (R345). -/
def execStrem (o : CaOp) (s : State) : Out := tileCmd (.strem o) o (tileTrap s o true .wr true none) s
/-- STREMO (R345, R350). -/
def execStremo (o : CaOp) (s : State) : Out := tileCmd (.stremo o) o (tileTrap s o true .wr true none) s

/-- WCOPY (R194): wd in W, ws in EXT. -/
def execWcopy (o : CaOp) (s : State) : Out :=
  match wcopyTrap s.timed o with
  | some k => .next (s.takeTrap 7 k)
  | none =>
    let t := s.timed
    .next (s.enqueue (newCmd t s.un .copy (.wcopy o) 0 0 0 (t.win o.w) (t.win (o.ext.setWidth 5)) 0) true)
/-- WFILL (R194). -/
def execWfill (o : CaOp) (s : State) : Out :=
  match wfillTrap s.timed o with
  | some k => .next (s.takeTrap 7 k)
  | none =>
    let t := s.timed
    .next (s.enqueue (newCmd t s.un .copy (.wfill o) 0 (t.sreg o.sa) 0 (t.win o.w) none 0) true)

/-! ### FENCE, BCLOSE, BWAIT (R186, R188, R197) -/

/-- FENCE (R197). -/
def execFence (mask : BitVec 16) (scope : BitVec 3) (kind : BitVec 2) (s : State) : Out :=
  .next (s.enqueue (newCmd s.timed s.un .copy (.fence mask scope kind) 0 0 0 none none 0) true)

/-- Closed batches outstanding (R186). -/
def Untimed.closedCount (u : Untimed) : Nat := (u.batches.filter fun b => !b.isOpen).length

/-- Commands of a batch still in the queue. -/
def Untimed.pendingOf (u : Untimed) (b : Nat) : Bool := u.queue.any fun c => c.batch == some b

/-- The open batch closes with a flag or without, and an empty one opens (R186, R188). -/
def Untimed.closeBatch (u : Untimed) (f : Option (BitVec 5)) : Untimed :=
  { u with batches := (u.batches.map fun b => if b.isOpen then { b with isOpen := false, flag := f } else b) ++
             [⟨u.nbatch, true, none, 0, none⟩],
           nbatch := u.nbatch + 1 }

/-- The open batch holds any command. -/
def Untimed.openNonEmpty (u : Untimed) : Bool := u.batches.any fun b => b.isOpen && decide (0 < b.count)

/-- OUT of R188: closed batches outstanding, and the open one if it holds a command that has not completed. -/
def Untimed.outstanding (u : Untimed) : Nat :=
  u.closedCount + (u.batches.any fun b => b.isOpen && u.pendingOf b.id).toNat

/-- BCLOSE (R186): at most 16 closed batches; its flag becomes CLEAR unless it is ERROR. -/
def execBclose (f : BitVec 5) (s : State) : Out :=
  if s.un.room .copy ∧ s.un.closedCount < 16 then
    let s1 := s.setCore (s.core.claim f)
    .next (s1.setUn ((s1.un.closeBatch (some f)).push (newCmd s.timed s.un .copy (.bclose f) 0 0 0 none none 0) false))
  else .next s

/-- A non-empty open batch closes without a flag (BWAIT and END, R188). -/
def Untimed.closeFlagless (u : Untimed) : Untimed := if u.openNonEmpty then u.closeBatch none else u

/-- BWAIT (R188): held while more than n batches are outstanding, or while it would close a 17th (R186; log entry 60, DESIGN
CHOICE). -/
def execBwait (n : BitVec 8) (s : State) : Out :=
  if s.un.room .copy ∧ s.un.outstanding ≤ n.toNat ∧ ¬(s.un.openNonEmpty ∧ 16 ≤ s.un.closedCount) then
    .next (s.setUn (s.un.closeFlagless.push (newCmd s.timed s.un .copy (.bwait n) 0 0 0 none none 0) false))
  else .next s

end Sys2Proof.Machine
end

