-- ==== Sys2Proof/Machine/LongAcc.lean ====
section
/-!
DEFINITION. Exact accumulation and the roundings of the memory side (R67, R77-R81, R328, R329): long accumulators,
quotients, square roots, stochastic rounding, and the combination of pooled partials.
-/

namespace Sys2Proof.Machine

/-! ### Long accumulators (R77, R78) -/

def LongAcc.zero : LongAcc := ⟨0, false, false, false⟩

/-- An FP32 value in units of 2^-149. -/
def units149 : FVal → Int
  | .nan => 0
  | .inf _ => 0
  | .num s m e => signedMag s (shiftMag m (e + 149))

/-- One term added: a finite one to L exactly, anything else to the sticky bits. -/
def LongAcc.addTerm (a : LongAcc) (v : FVal) : LongAcc :=
  match v with
  | .nan => { a with nan := true }
  | .inf s => if s then { a with negInf := true } else { a with posInf := true }
  | .num _ _ _ => { a with l := a.l + BitVec.ofInt 320 (units149 v) }

/-- Two accumulators of one key together. -/
def LongAcc.merge (a b : LongAcc) : LongAcc :=
  ⟨a.l + b.l, a.posInf || b.posInf, a.negInf || b.negInf, a.nan || b.nan⟩

/-- The state as an exact value (R78). -/
def LongAcc.value (a : LongAcc) : FVal :=
  if a.nan || (a.posInf && a.negInf) then .nan
  else if a.posInf then .inf false
  else if a.negInf then .inf true
  else ofSigned false a.l.toInt (-149)

/-- C saturates at 2^40 - 1 (R79). -/
def termLimit : Nat := 2 ^ 40 - 1

/-! ### Quotients and square roots -/

/-- An exact value over a positive integer, as a value that every rounding of at most 60 places takes to the same result:
the quotient to 64 guard bits and a sticky bit. -/
def quotient (x : FVal) (d : Nat) : FVal :=
  match x with
  | .nan => .nan
  | .inf s => .inf s
  | .num s m e =>
    if m = 0 then .num s 0 0
    else
      let k := 64 + bitLen d
      let n := m <<< k
      let st := if n % d = 0 then 0 else 1
      .num s (2 * (n / d) + st) (e - k - 1)

/-- One bit of the integer square root at a time: the root of the leading bits of `m`, with `n` bits of root left. -/
def isqrtFrom (m : Nat) : Nat → Nat → Nat
  | 0, r => r
  | n + 1, r =>
    let r' := r + 2 ^ n
    isqrtFrom m n (if r' * r' ≤ m then r' else r)

/-- The square root, correctly rounded to FP32 (SQRT_RN of R329). A negative value gives NaN, -0 gives -0. -/
def sqrtRn : FVal → FVal
  | .nan => .nan
  | .inf s => if s then .nan else .inf false
  | .num s m e =>
    if m = 0 then .num s 0 0
    else if s then .nan
    else
      let e' : Int := if e % 2 = 0 then e else e - 1
      let m' := (shiftMag m (e - e')) <<< 64
      let r := isqrtFrom m' 60 0
      let st := if r * r = m' then 0 else 1
      rneF32 (.num false (2 * r + st) (e' / 2 - 33))

/-! ### Stochastic rounding (R67) -/

/-- SR_U16. -/
def srU16 (key : BitVec 64) (step e : Nat) : Nat :=
  let x : BitVec 64 := key * 0x9E3779B97F4A7C15 + BitVec.ofNat 64 step * 0xC2B2AE3D27D4EB4F + BitVec.ofNat 64 e
  let x := x ^^^ (x >>> 31)
  let x := x * 0xBF58476D1CE4E5B9
  let x := x ^^^ (x >>> 29)
  (x >>> 48).toNat

/-- SR_ROUND: away from zero when the random number is below the fraction of the step that the value has reached. -/
def srRound (f : Fmt) (key : BitVec 64) (step e : Nat) (v : FVal) : FVal :=
  match v with
  | .nan => .nan
  | .inf s => .inf s
  | .num s m x =>
    let lo := roundTo f true v
    if !lo.inexact then lo.val
    else if (largest f false).lt (.num false m x) then .inf s
    else
      let q := lastPlace f (x + bitLen m - 1)
      let sh := (q - x).toNat
      let frac := (m % 2 ^ sh) * 65536 / 2 ^ sh
      if srU16 key step e < frac then .num s (m >>> sh + 1) q else .num s (m >>> sh) q

/-! ### Pooling (R81) -/

/-- The larger of two elements by the MAX rule of R81: a number beats a NaN, +0 beats -0. -/
def poolMax (x y : FVal) : FVal := FVal.maxOp x y

/-- Elementwise over two lists of FP32 patterns. -/
def zipF32 (f : FVal → FVal → FVal) (a b : List (BitVec 32)) : List (BitVec 32) :=
  List.zipWith (fun x y => toF32 (f (ofF32 x) (ofF32 y))) a b

/-- POOL_COMBINE over the partials in ascending shard order (R81): `kind` is POOL of R282, `width` the row width. -/
def poolCombine (kind width : Nat) (parts : List (Nat × List (BitVec 32))) : List (BitVec 32) × Nat :=
  let live := parts.filter fun p => p.1 ≠ 0
  let total := (live.map (·.1)).foldl (· + ·) 0
  let zero := List.replicate width (0 : BitVec 32)
  match live with
  | [] => (zero, 0)
  | p :: l =>
    if kind = 3 then (l.foldl (fun a x => zipF32 poolMax a x.2) p.2, total)
    else
      let acc := l.foldl (fun a x => zipF32 (fun u v => rneF32 (u.add v)) a x.2) p.2
      if kind = 1 then (acc.map fun x => toF32 (divF32 (ofF32 x) total), total) else (acc, total)

end Sys2Proof.Machine
end

