-- ==== Sys2Proof/Machine/Tables.lean ====
section
/-!
DEFINITION. Embedding tables and the residency directory (R282-R285, R305, R306): the fields of a table descriptor,
where a row is stored, which copy of it is authoritative, and the bytes of a home as that redirects them.
-/

namespace Sys2Proof.Machine

/-! ### Units as vectors of fixed length -/

def State.pbcOf (s : State) (n : Nat) : Pbc := if h : n < 8 then s.pbc.get ⟨n, h⟩ else s.pbc.get 0
def State.onPbc (s : State) (n : Nat) (f : Pbc → Pbc) : State :=
  if h : n < 8 then { s with pbc := s.pbc.set n (f (s.pbc.get ⟨n, h⟩)) h } else s

/-! ### Table descriptors (R282) -/

abbrev Table := BitVec 8704

/-- The descriptor of a table; 0 where it is not VALID. -/
def State.table (s : State) (t : Nat) : Table := Store.get 0 s.tables t
def State.tableValid (s : State) (t : Nat) : Bool := s.table t != 0

def tFormat (d : Table) : Nat := bits (recWord d 0) 2 0
def tBpnk (d : Table) : Nat := bits (recWord d 0) 6 3
def tBpnMid (d : Table) : Bool := bit (recWord d 0) 7
def tPool (d : Table) : Nat := bits (recWord d 0) 9 8
def tFaultPolicy (d : Table) : Bool := bit (recWord d 0) 10
def tHoten (d : Table) : Bool := bit (recWord d 0) 11
def tTrain (d : Table) : Bool := bit (recWord d 0) 12
def tGroup (d : Table) : Nat := bits (recWord d 0) 16 13
def tShards (d : Table) : Nat := bits (recWord d 0) 22 17 + 1
def tWidth (d : Table) : Nat := bits (recWord d 1) 10 0
def tPitch (d : Table) : Nat := bits (recWord d 1) 29 16
def tRows (d : Table) : Nat := bits (recWord d 1) 63 32
def tGrant (d : Table) : Nat := bits (recWord d 2) 51 0
def shRowLo (d : Table) (k : Nat) : Nat := bits (recWord d (8 + 2 * k)) 31 0
def shMod (d : Table) (k : Nat) : Nat := bits (recWord d (8 + 2 * k)) 35 32
def shPbc (d : Table) (k : Nat) : Nat := bits (recWord d (8 + 2 * k)) 38 36
def shPeerF (d : Table) (k : Nat) : Bool := bit (recWord d (8 + 2 * k)) 39
def shPeer (d : Table) (k : Nat) : Nat := bits (recWord d (8 + 2 * k)) 51 40
def shBase (d : Table) (k : Nat) : Nat := bits (recWord d (9 + 2 * k)) 38 0

/-- One past the last row of a shard. -/
def shRowHi (d : Table) (k : Nat) : Nat := if k + 1 < tShards d then shRowLo d (k + 1) else tRows d

/-- The shard of a valid row: the largest whose ROW_LO is at most it (R298). -/
def shardOf (d : Table) (r : Nat) : Nat := ((List.range (tShards d)).filter fun k => shRowLo d k ≤ r).getLastD 0

/-- P of R283. -/
def rowPayload (d : Table) : Nat :=
  let w := tWidth d
  match tFormat d with
  | 0 => 4 * w
  | 1 => 2 * w
  | 2 => w
  | 3 => w
  | 4 => (w + 1) / 2
  | _ => 8 * ((w + 7) / 8)

/-- Q of R283. -/
def rowScaleAt (d : Table) : Nat := (rowPayload d + 3) / 4 * 4

/-- The stored size of a row (R283). -/
def rowStored (d : Table) : Nat := if tFormat d ≤ 2 then rowPayload d else rowScaleAt d + 8

/-- The location of row `r` in the LPDDR-6 of its PBC, on this module (R282). -/
def State.rowHome (s : State) (d : Table) (r : Nat) : Nat :=
  let k := shardOf d r
  s.myMod.toNat * 2 ^ 48 + (8 + shPbc d k) * 2 ^ 44 + shBase d k + (r - shRowLo d k) * tPitch d

/-! ### The residency directory (R305) -/

/-- The directory entry of a row at a PBC; none for a COLD row. -/
def Pbc.find (p : Pbc) (t r : Nat) : Option HotRow := p.hot.find? fun x => x.table == t && x.row == r

/-- The location of a slot of the hot-row area. -/
def Pbc.slotAt (p : Pbc) (slot : Nat) : Nat := p.hotBase.toNat + slot * 2 ^ p.slotLog2.toNat

/-- The hot copy is authoritative: the row is RESIDENT or on its way out (R305). -/
def HotRow.live (x : HotRow) : Bool := match x.st with
  | .migIn => false
  | .resident => true
  | .migOut => true

/-- Where a lookup or an apply finds row `r` of table `t`, held by PBC `n`, whose home is `home`. -/
def State.rowCopy (s : State) (n t r home : Nat) : Nat :=
  match (s.pbcOf n).find t r with
  | none => home
  | some x => if x.live then (s.pbcOf n).slotAt x.slot else home

/-- The row of a trainable table whose hot copy serves a byte of LPDDR-6 (R306): the location it is served from. -/
def redirectIn (s : State) (p : Pbc) (key : Nat) : List HotRow → Option Nat
  | [] => none
  | x :: l =>
    let d := s.table x.table
    let home := s.rowHome d x.row
    if x.live && tTrain d && decide (home ≤ key) && decide (key < home + rowStored d) then
      some (p.slotAt x.slot + (key - home))
    else redirectIn s p key l

/-- Where the byte of a location stands. -/
def State.place (s : State) (key : Nat) : Nat :=
  match s.home key with
  | .lpddr n => (redirectIn s (s.pbcOf n) key (s.pbcOf n).hot).getD key
  | .hbm _ => key
  | .host => key
  | .module _ _ => key
  | .peer _ => key
  | .nowhere => key

/-! ### Bytes at their home -/

/-- `n` bytes from a location, each from where it stands. -/
def State.bytesAt (s : State) (key : Nat) : Nat → Nat
  | 0 => 0
  | n + 1 => (s.mem.byte (s.place key)).toNat + 256 * State.bytesAt s (key + 1) n

/-- Any of `n` bytes is poisoned where it stands. -/
def State.poisonAt (s : State) (key : Nat) : Nat → Bool
  | 0 => false
  | n + 1 => decide (s.place key / 32 ∈ s.poison) || State.poisonAt s (key + 1) n

/-- Whether a masked write of `n` bytes from a location on covers all 32 bytes of granule `g`. -/
def State.covers (s : State) (key n mask g : Nat) : Bool :=
  ((List.range n).filter fun i => mask.testBit i && s.place (key + i) / 32 == g).length == 32

/-- The bytes that a mask names (bit i for byte i) of `n` bytes written from a location on. -/
def State.writeBytes (s : State) (key : Nat) : Nat → Nat → Nat → State
  | 0, _, _ => s
  | n + 1, mask, v =>
    let s1 := if mask % 2 = 1 then { s with mem := s.mem.setByte (s.place key) (BitVec.ofNat 8 v) } else s
    State.writeBytes s1 (key + 1) n (mask / 2) (v / 256)

/-- A masked write at its home (R392): a poisoned granule that it covers whole is poisoned no more; one that it covers in
part stays as it is, and the bytes written are lost with it. -/
def State.storeAt (s : State) (key n mask v : Nat) : State :=
  let hit := s.poison.filter fun g => !(s.covers key n mask g)
  let lost := (List.range n).foldl (fun m i =>
    if decide (s.place (key + i) / 32 ∈ hit) && mask.testBit i then m - 2 ^ i else m) mask
  (({ s with poison := hit } : State).writeBytes key n lost v)

end Sys2Proof.Machine
end

