-- ==== Sys2Proof/Machine/Apply.lean ====
section
/-!
DEFINITION. Health entries, and the read-triggers-apply rule of the Lattice (R326-R334, R402): a key's committed bins
applied to its target as one step, and what an access to a home does first.
-/

namespace Sys2Proof.Machine

/-! ### Health entries (R402) -/

/-- The module-wide cycle counter of R35. -/
def State.cycleCounter (s : State) : Nat := if s.ctl.sstate = .ready ∨ s.ctl.sstate = .starting then s.wall else 0

/-- A health entry: written to its ring in host memory, or dropped and counted. -/
def State.health (s : State) (kind unit core addr data : Nat) : State :=
  let c := s.ctl
  if (c.hlogTail - c.hlogHead).toNat < 2 ^ c.hlogLog2.toNat then
    let at' := hostKey (c.hlogBase.toNat + 32 * (c.hlogTail.toNat % 2 ^ c.hlogLog2.toNat))
    let v := (kind + 2 ^ 8 * unit + 2 ^ 16 * core) + 2 ^ 64 * (addr % 2 ^ 52) + 2 ^ 128 * s.cycleCounter +
      2 ^ 192 * data
    { s with mem := s.mem.write at' 32 v, ctl := { c with hlogTail := c.hlogTail + 1 } }
  else { s with ctl := { c with hlogLost := if c.hlogLost = 0xFFFFFFFF then c.hlogLost else c.hlogLost + 1 } }

/-! ### Lattice regions -/

def State.unitOf (s : State) (u : Nat) : LatticeUnit := if h : u < 16 then s.lattice.get ⟨u, h⟩ else s.lattice.get 0
def State.onUnit (s : State) (u : Nat) (f : LatticeUnit → LatticeUnit) : State :=
  if h : u < 16 then { s with lattice := s.lattice.set u (f (s.lattice.get ⟨u, h⟩)) h } else s

/-- A region in a list by number. -/
def findNum {α : Type} (k : Nat) : List (Nat × α) → Option α
  | [] => none
  | (a, x) :: l => if a = k then some x else findNum k l

/-- A numbered entry changed. -/
def onNum {α : Type} (k : Nat) (f : α → α) : List (Nat × α) → List (Nat × α)
  | [] => []
  | (a, x) :: l => if a = k then (a, f x) :: l else (a, x) :: onNum k f l

def LatticeUnit.region? (x : LatticeUnit) (r : Nat) : Option LRegion := findNum r x.regions
def LatticeUnit.onRegion (x : LatticeUnit) (r : Nat) (f : LRegion → LRegion) : LatticeUnit :=
  { x with regions := onNum r f x.regions }

def rOper (d : BitVec 1024) : Nat := bits (recWord d 0) 3 0
def rBf (d : BitVec 1024) : Bool := bits (recWord d 0) 5 4 == 1
def rSrnd (d : BitVec 1024) : Bool := bit (recWord d 0) 6
def rTlink (d : BitVec 1024) : Bool := bit (recWord d 0) 7
def rTable (d : BitVec 1024) : Nat := bits (recWord d 0) 17 8
def rShard (d : BitVec 1024) : Nat := bits (recWord d 0) 23 18
def rWidth (d : BitVec 1024) : Nat := bits (recWord d 0) 34 24
def rRows (d : BitVec 1024) : Nat := bits (recWord d 1) 31 0
def rPitch (d : BitVec 1024) : Nat := bits (recWord d 1) 45 32
def rRowBase (d : BitVec 1024) : Nat := bits (recWord d 2) 51 0
def rStateBase (d : BitVec 1024) : Nat := bits (recWord d 3) 51 0
def rStatePitch (d : BitVec 1024) : Nat := bits (recWord d 4) 15 0
def rLr (d : BitVec 1024) : FVal := ofF32 (BitVec.ofNat 32 (recWord d 5))
def rMu (d : BitVec 1024) : FVal := ofF32 (BitVec.ofNat 32 (recWord d 5 >>> 32))
def rEps (d : BitVec 1024) : FVal := ofF32 (BitVec.ofNat 32 (recWord d 6))
def rEpoch0 (d : BitVec 1024) : BitVec 32 := BitVec.ofNat 32 (recWord d 7)
def rSpillBase (d : BitVec 1024) : Nat := bits (recWord d 8) 51 0
def rSpillSize (d : BitVec 1024) : Nat := bits (recWord d 9) 39 0

/-- Bytes of the elements of a row, and the bytes of state per key (R314). -/
def rRowBytes (d : BitVec 1024) : Nat := rWidth d * (if rBf d then 2 else 4)
def rStateBytes (d : BitVec 1024) : Nat :=
  if rOper d = 4 then 8 else if rOper d = 7 then 4 * rWidth d else if rOper d = 8 then 4 else 0

/-- Where the row of a key stands: its home, or the slot of a linked row whose hot copy is authoritative (R315, R336). -/
def State.keyRow (s : State) (u : Nat) (g : LRegion) (k : Nat) : Nat :=
  let home := g.rowBase + (k - g.rowLo) * g.pitch
  if rTlink g.desc then s.rowCopy (u - 8) (rTable g.desc) k home else home

/-- Where the state record of a key stands (R314). -/
def LRegion.keyState (g : LRegion) (k : Nat) : Nat := rStateBase g.desc + k * rStatePitch g.desc

/-! ### One bin applied (R328, R329) -/

/-- A key's target as read: the elements of the row, and its state bytes as a number. -/
structure Target where
  row : List FVal
  st : Nat
deriving DecidableEq, Repr

/-- The rounding of a result to RFMT: stochastic for an optimiser with SRND, else RNE. -/
def rowRound (g : LRegion) (key : BitVec 64) (e : BitVec 32) (j : Nat) (x : FVal) : FVal :=
  let f := if rBf g.desc then bf16 else fp32
  if rSrnd g.desc then srRound f key e.toNat j x else (roundTo f false x).val

/-- Element `i` of the FP32 words in a number. -/
def stElem (v i : Nat) : FVal := ofF32 (BitVec.ofNat 32 (v >>> (32 * i)))

/-- LACC_READ with one more exact term (R328). -/
def laccPlus (a : LongAcc) (w : FVal) : FVal := (a.addTerm w).value

/-- `f` of the index and the element, over a list. -/
def mapIdxFrom {α β : Type} (f : Nat → α → β) : Nat → List α → List β
  | _, [] => []
  | i, x :: l => f i x :: mapIdxFrom f (i + 1) l

/-- A quotient x / d for an FP32 divisor d: by zero it is an infinity, NaN for 0 / 0 (R329). -/
def divF (x d : FVal) : FVal ⊕ (FVal × Nat) :=
  match d with
  | .nan => .inl .nan
  | .inf t => .inl (match x with | .nan => .nan | .inf _ => .nan | .num s _ _ => .num (s != t) 0 0)
  | .num t m e =>
    match x with
    | .nan => .inl .nan
    | .inf s => .inl (.inf (s != t))
    | .num s n f =>
      if m = 0 then .inl (if n = 0 then .nan else .inf (s != t)) else .inr (.num (s != t) n (f - e), m)

/-- w - x / d as a value that rounds once to the result. -/
def subQuot (w x d : FVal) : FVal :=
  match divF x d with
  | .inl v => w.sub v
  | .inr (n, m) => if n.isZero then w.sub n else quotient ((w.mul (ofInt m)).sub n) m

/-- The gradient of element j: LACC_READ as FP32, RNE. -/
def gradOf (b : Bin) (j : Nat) : FVal := rneF32 ((b.accs.getD j .zero).value)

/-- APPLY_PLAIN and APPLY_OPT: one bin applied to a target. `key` is RKEY of the key. -/
def applyBin (g : LRegion) (key : BitVec 64) (b : Bin) (t : Target) : Target :=
  let d := g.desc
  let rnd := rowRound g key b.epoch
  let acc := fun j => b.accs.getD j .zero
  let val := fun j => ofF32 (b.vals.getD j 0)
  match rOper d with
  | 0 => { t with row := mapIdxFrom (fun j w => rnd j (laccPlus (acc j) w)) 0 t.row }
  | 1 => { t with row := mapIdxFrom (fun j w => rnd j (w.minOp (val j))) 0 t.row }
  | 2 => { t with row := mapIdxFrom (fun j w => rnd j (w.maxOp (val j))) 0 t.row }
  | 3 => { t with row := mapIdxFrom (fun j _ => rnd j (val j)) 0 t.row }
  | 4 => { row := mapIdxFrom (fun j w => rnd j (laccPlus (acc j) w)) 0 t.row, st := (t.st + b.count) % 2 ^ 64 }
  | 5 => { t with row := mapIdxFrom (fun j _ => rnd j (quotient (acc j).value b.count)) 0 t.row }
  | 6 => { t with row := mapIdxFrom (fun j w => rnd j (w.sub ((rLr d).mul (gradOf b j)))) 0 t.row }
  | 7 =>
    let v := fun j => rneF32 (((rMu d).mul (stElem t.st j)).add (gradOf b j))
    { row := mapIdxFrom (fun j w => rnd j (w.sub ((rLr d).mul (v j)))) 0 t.row,
      st := (List.range (rWidth d)).foldl (fun x j => x + (toF32 (v j)).toNat <<< (32 * j)) 0 }
  | _ =>
    let sq := (List.range (rWidth d)).foldl (fun x j => x.add ((gradOf b j).mul (gradOf b j))) (.num false 0 0)
    let a := rneF32 ((stElem t.st 0).add (divF32 sq (rWidth d)))
    let dv := rneF32 ((sqrtRn a).add (rEps d))
    { row := mapIdxFrom (fun j w =>
        if (gradOf b j).isZero then w else rnd j (subQuot w ((rLr d).mul (gradOf b j)) dv)) 0 t.row,
      st := (toF32 a).toNat }

/-- RKEY of R329. -/
def rKey (u region k : Nat) : BitVec 64 := BitVec.ofNat 64 (u * 2 ^ 44 ||| region * 2 ^ 32 ||| k)

/-- The target of a key, read as it stands. -/
def State.readTarget (s : State) (u : Nat) (g : LRegion) (k : Nat) : Target :=
  let w := rWidth g.desc
  let v := s.bytesAt (s.keyRow u g k) (rRowBytes g.desc)
  { row := (List.range w).map fun j =>
      if rBf g.desc then ofBf (BitVec.ofNat 16 (v >>> (16 * j))) else ofF32 (BitVec.ofNat 32 (v >>> (32 * j))),
    st := s.bytesAt (g.keyState k) (rStateBytes g.desc) }

/-- The bytes of a row. -/
def rowBits (bf : Bool) (l : List FVal) : Nat :=
  (mapIdxFrom (fun j x => if bf then (toBf x).toNat <<< (16 * j) else (toF32 x).toNat <<< (32 * j)) 0 l).foldl (· + ·) 0

/-- A target written whole. -/
def State.writeTarget (s : State) (u : Nat) (g : LRegion) (k : Nat) (t : Target) : State :=
  let n := rRowBytes g.desc
  let m := rStateBytes g.desc
  let s1 := s.storeAt (s.keyRow u g k) n (2 ^ n - 1) (rowBits (rBf g.desc) t.row)
  if m = 0 then s1 else s1.storeAt (g.keyState k) m (2 ^ m - 1) t.st

/-- A counter of 48 bits that saturates. -/
def satAdd48 (a b : Nat) : Nat := min (2 ^ 48 - 1) (a + b)

/-- A key whose apply cannot be made: its target has a poisoned granule (R395), or its bins hold an uncorrectable error
(R394). -/
def State.targetPoisoned (s : State) (u r : Nat) (g : LRegion) (k : Nat) : Bool :=
  (s.unitOf u).bad.contains (r, k) ||
  s.poisonAt (s.keyRow u g k) (rRowBytes g.desc) || s.poisonAt (g.keyState k) (rStateBytes g.desc)

/-- The first poisoned granule of `n` bytes where they stand. -/
def State.granuleIn (s : State) (key n : Nat) : Option Nat :=
  ((List.range n).find? fun i => s.poisonAt (key + i) 1).map fun i => s.place (key + i) / 32 * 32

/-- The granule that a health entry of an abandoned apply names (R402): the first poisoned one of the key's target, or where it is
the bins that hold the error, the first of the row. -/
def State.targetGranule (s : State) (u : Nat) (g : LRegion) (k : Nat) : Nat :=
  ((s.granuleIn (s.keyRow u g k) (rRowBytes g.desc)).orElse fun _ => s.granuleIn (g.keyState k) (rStateBytes g.desc)).getD
    (s.place (s.keyRow u g k) / 32 * 32)

/-- The committed bins of key `k` that `p` picks applied in epoch order as one step (R328). A key whose target has a poisoned
granule loses all that are pending, with a health entry (R395); the answer then says that poison was consumed. -/
def State.applyWhere (s : State) (u r k : Nat) (p : LRegion → Bin → Bool) : State × Bool :=
  match (s.unitOf u).region? r with
  | none => (s, false)
  | some g =>
    let pick := fun b => b.key == k && p g b
    let mine := g.bins.filter pick
    let drop := fun (out : Bin → Bool) (n : Nat) => fun (x : LatticeUnit) =>
      { (x.onRegion r fun g => { g with bins := g.bins.filter fun b => !(out b), applies := satAdd48 g.applies n }) with
        bad := x.bad.filter fun z => z != (r, k) }
    if mine.isEmpty then (s, false)
    else if s.targetPoisoned u r g k then
      ((s.onUnit u (drop (fun b => b.key == k) 0)).health 6 u 0 (s.targetGranule u g k) (r * 2 ^ 32 + k), true)
    else
      let t := mine.foldl (fun t b => applyBin g (rKey u r k) b t) (s.readTarget u g k)
      ((s.onUnit u (drop pick mine.length)).writeTarget u g k t, false)

/-- BIN_APPLY: every committed bin of a key. -/
def State.applyKey (s : State) (u r k : Nat) : State × Bool := s.applyWhere u r k fun _ _ => true

/-- A list of keys of a region applied one after another. -/
def State.applyKeys (s : State) (u r : Nat) : List Nat → State × Bool
  | [] => (s, false)
  | k :: l =>
    let x := s.applyKey u r k
    let y := x.1.applyKeys u r l
    (y.1, x.2 || y.2)

/-- Every committed bin of a region applied; the answer says whether poison was consumed (R395). -/
def State.applyAll (s : State) (u r : Nat) : State × Bool :=
  match (s.unitOf u).region? r with
  | none => (s, false)
  | some g => s.applyKeys u r ((g.bins.map (·.key)).dedup)

/-! ### An access to a home (R333) -/

/-- Two ranges of bytes have a byte in common. -/
def overlaps (a n b m : Nat) : Bool := decide (0 < n) && decide (0 < m) && decide (a < b + m) && decide (b < a + n)

/-- The keys of a region with a committed bin whose target has bytes in the 256 bytes at `sector`. -/
def State.keysIn (s : State) (u : Nat) (g : LRegion) (sector : Nat) : List Nat :=
  ((g.bins.filter fun b =>
    overlaps sector 256 (s.keyRow u g b.key) (rRowBytes g.desc) ||
      overlaps sector 256 (g.keyState b.key) (rStateBytes g.desc)).map (·.key)).dedup

/-- Every region of an instance in turn. -/
def State.applyIn (s : State) (u sector : Nat) : List (Nat × LRegion) → State × Bool
  | [] => (s, false)
  | (r, g) :: l =>
    let x := s.applyKeys u r (s.keysIn u g sector)
    let y := x.1.applyIn u sector l
    (y.1, x.2 || y.2)

/-- The instances in a list, for an access to the 256 bytes at `sector`. -/
def State.applyUnits (s : State) (sector : Nat) : List Nat → State × Bool
  | [] => (s, false)
  | u :: l =>
    let x := s.applyIn u sector (s.unitOf u).regions
    let y := x.1.applyUnits sector l
    (y.1, x.2 || y.2)

/-- The instances whose targets an access to a location may meet: the unit's own, and for LPDDR-6 the PBC's, through its
redirection also at a hot copy. An access to the hot-row area itself applies nothing (R336). -/
def State.instancesAt (s : State) (key : Nat) : List Nat :=
  match s.home key with
  | .hbm n => [n]
  | .lpddr n => [8 + n]
  | .host => []
  | .module _ _ => []
  | .peer _ => []
  | .nowhere => []

/-- The sectors where the bytes of an access stand: its own, and those of the hot copies that serve it. -/
def State.sectorsOf (s : State) (key n : Nat) : List Nat :=
  ((List.range n).map fun i => s.place (key + i) / 256 * 256).dedup

/-- All of the sectors where an access's bytes stand. -/
def State.touchAll (s : State) (units : List Nat) : List Nat → State × Bool
  | [] => (s, false)
  | x :: l =>
    let a := s.applyUnits x units
    let b := a.1.touchAll units l
    (b.1, a.2 || b.2)

/-- An access of `n` bytes within one sector reaches its home: every pending committed bin of a target in the sector is
applied first (R333). The answer says whether that consumed poison. -/
def State.touch (s : State) (key n : Nat) : State × Bool :=
  s.touchAll (s.instancesAt key) (s.sectorsOf key n)

/-- The granule whose poison an access of `n` bytes meets in the target of a pending bin (R395); 0 where there is none. -/
def State.abandonedGranule (s : State) (key n : Nat) : BitVec 52 :=
  BitVec.ofNat 52 (((s.sectorsOf key n).findSome? fun x => (s.instancesAt key).findSome? fun u =>
    (s.unitOf u).regions.findSome? fun g => (s.keysIn u g.2 x).findSome? fun k =>
      if s.targetPoisoned u g.1 g.2 k then some (s.targetGranule u g.2 k) else none).getD 0)

/-- The granule whose poison an access of `n` bytes at their home consumes (R390, R392, R395): one of its bytes, or one of a target
whose bins it would have applied; 0 where there is none. -/
def State.homeGranule (s : State) (key n : Nat) : BitVec 52 :=
  match (s.touch key n).1.granuleIn key n with
  | some g => BitVec.ofNat 52 g
  | none => s.abandonedGranule key n

/-- A read of `n` bytes at their home: bins applied, then the bytes, and whether poison was consumed (R392). -/
def State.homeRead (s : State) (key n : Nat) : State × Nat × Bool :=
  let x := s.touch key n
  (x.1, x.1.bytesAt key n, x.2 || x.1.poisonAt key n)

/-- The home of a location is on another module. -/
def State.isRemoteKey (s : State) (key : Nat) : Bool := match s.home key with
  | .module _ _ => true
  | .peer _ => true
  | .nowhere => false
  | .hbm _ => false
  | .lpddr _ => false
  | .host => false

/-- A byte-masked write of `n` bytes at their home: bins applied, then the bytes written. Bytes for another module leave
this one's state. -/
def State.homeWrite (s : State) (key n mask v : Nat) : State × Bool :=
  if s.isRemoteKey key then (s, false)
  else
    let x := s.touch key n
    (x.1.storeAt key n mask v, x.2)

/-- A read of any length, sector by sector (`fuel` sectors at most). -/
def State.homeReadLong (s : State) : Nat → Nat → Nat → State × Nat × Bool
  | 0, _, _ => (s, 0, false)
  | fuel + 1, key, n =>
    if n = 0 then (s, 0, false)
    else
      let m := min n (256 - key % 256)
      let a := s.homeRead key m
      let b := a.1.homeReadLong fuel (key + m) (n - m)
      (b.1, a.2.1 + b.2.1 <<< (8 * m), a.2.2 || b.2.2)

/-- A write of any length, sector by sector. -/
def State.homeWriteLong (s : State) : Nat → Nat → Nat → Nat → State
  | 0, _, _, _ => s
  | fuel + 1, key, n, v =>
    if n = 0 then s
    else
      let m := min n (256 - key % 256)
      (s.homeWrite key m (2 ^ m - 1) (v % 2 ^ (8 * m))).1.homeWriteLong fuel (key + m) (n - m) (v >>> (8 * m))

end Sys2Proof.Machine
end

