-- ==== Sys2Proof/Machine/Crossing.lean ====
section
/-!
DEFINITION. Which crossings a module may make (R366, R367, R404), and the drop log of the trust engine (R381, R382).
-/

namespace Sys2Proof.Machine

def Trust.member (t : Trust) (m : Nat) : Member := if h : m < 64 then t.members.get ⟨m, h⟩ else .reset
def Trust.setMember (t : Trust) (m : Nat) (x : Member) : Trust :=
  if h : m < 64 then { t with members := t.members.set m x h } else t
def State.onTrust (s : State) (f : Trust → Trust) : State := { s with trust := f s.trust }
def State.onXchg (s : State) (f : Exchange → Exchange) : State := { s with xchg := f s.xchg }

/-- The entry names the module (KIND 0) or the peer (KIND 1) with this number. -/
def Member.names (x : Member) (isPeer : Bool) (n : Nat) : Bool :=
  x.valid && x.isPeer == isPeer && (if isPeer then x.peer.toNat == n else x.mod.toNat == n)

/-- The member that names a module or a peer. -/
def Trust.memberFor (t : Trust) (isPeer : Bool) (n : Nat) : Option Nat :=
  (List.range 64).find? fun m => (t.member m).names isPeer n

/-- MSTATE is ACTIVE or LEAVING: crossings are allowed (R367). -/
def MState.crosses : MState → Bool
  | .none => false | .attesting => false | .pending => false | .active => true | .leaving => true | .evicted => false

/-- Module m of the rack ring answers (R404). -/
def State.inRack (s : State) (m : Nat) : Bool := s.xchg.rackMap.getLsbD m

/-- The member that homes a location on another module. -/
def State.memberOf (s : State) (key : Nat) : Option Nat :=
  match s.home key with
  | .module m _ => s.trust.memberFor false m
  | .peer i => s.trust.memberFor true i
  | .nowhere => none
  | .hbm _ => none
  | .lpddr _ => none
  | .host => none

/-- A crossing to a member is sent only while its entry is ACTIVE or LEAVING and the module is not ALONE (R367). -/
def Trust.allows (t : Trust) (m : Option Nat) : Bool :=
  t.dstate != .alone && match m with
    | none => false
    | some i => (t.member i).mstate.crosses

/-- TRUSTED of peer `i` (R354, R367). -/
def State.trusted (s : State) (i : Nat) : Bool :=
  match s.trust.memberFor true i with
  | none => false
  | some m => (s.trust.member m).mstate.crosses

def State.peer (s : State) (i : Nat) : Peer := Store.get Peer.none s.xchg.peers i

/-! ### Lanes and sequences of what is sent (R342, R344, R375) -/

/-- The path of a crossing to module `m` of the rack ring: the rotation with fewer rack hops, clockwise on a tie, and lane
`b`. -/
def State.rackPath (s : State) (m b : Nat) : Nat :=
  let me := s.myMod.toNat
  let on := fun k => s.xchg.rackMap.getLsbD (k % 16)
  let cw := ((List.range ((m + 16 - me) % 16)).filter fun i => on (me + 1 + i)).length
  let all := ((List.range 16).filter on).length
  (if cw + cw ≤ all then 0 else 2) + b % 2

/-- The lane of an access to a location on another module, with the member that homes it: bit 8 of the address, or ordered
delivery to a peer (R360). -/
def State.laneOf (s : State) (key : Nat) : Option (Nat × Nat) :=
  match s.home key with
  | .module m _ => (s.trust.memberFor false m).map fun i => (i, s.rackPath m (key / 256))
  | .peer p => (s.trust.memberFor true p).map fun i => (i, 4)
  | .nowhere => none
  | .hbm _ => none
  | .lpddr _ => none
  | .host => none

/-- A lane's sequence has not run out (R375). -/
def Trust.laneOpen (t : Trust) (m lane : Nat) : Bool := decide (Store.get 0 t.sendSeq (6 * m + lane) < 2 ^ 64)

/-- A crossing sealed on a lane. -/
def Trust.sealOn (t : Trust) (m lane : Nat) : Trust :=
  { t with sendSeq := Store.set 0 t.sendSeq (6 * m + lane) (Store.get 0 t.sendSeq (6 * m + lane) + 1) }

/-- A memory access to another module sent: on the path given, for the sector write of a remote store, or on its lane. -/
def State.crossOn (s : State) (key : Nat) (path : Option Nat) : State :=
  match s.laneOf key with
  | none => s
  | some (m, l) => s.onTrust fun t => t.sealOn m (if l = 4 then 4 else path.getD l)

/-- `k` crossings without an address sent to module `m` of the rack ring. -/
def State.crossTo (s : State) (m k : Nat) : State :=
  match s.trust.memberFor false m with
  | none => s
  | some i => (List.range k).foldl (fun s _ => s.onTrust fun t => t.sealOn i (s.rackPath m 0)) s

/-- A crossing sent to a peer, by ordered or by unordered delivery. -/
def State.crossPeer (s : State) (p : Nat) (ordered : Bool) : State :=
  match s.trust.memberFor true p with
  | none => s
  | some i => s.onTrust fun t => t.sealOn i (if ordered then 4 else 5)

/-- A lane to a member has sequences left. -/
def Trust.open (t : Trust) (m : Option Nat) (lane : Nat) : Bool := match m with
  | none => false
  | some i => t.laneOpen i lane

/-- PVALID of peer `i` as a command takes it: as it stood when the command first reached the peer (R354; that this is so, and not by
an entry that is older or newer still, is log entry 69, DESIGN CHOICE). -/
def Prog.pvalid (x : Prog) (s : State) (i : Nat) : Bool := (x.peers.lookup i).getD (s.peer i).pvalid

/-- The module that homes a location may be reached by a command's access (R367, R404, R359), on the path given or on the lane of its
address; one of this module, or the host's, always; no location at all never. -/
def State.mayLeave (s : State) (x : Prog) (key : Nat) (path : Option Nat) : Bool :=
  match s.home key with
  | .hbm _ => true
  | .lpddr _ => true
  | .host => true
  | .nowhere => false
  | .module m _ => s.inRack m && s.trust.allows (s.trust.memberFor false m) &&
      s.trust.open (s.trust.memberFor false m) (path.getD (s.rackPath m (key / 256)))
  | .peer i => x.pvalid s i && s.trust.allows (s.trust.memberFor true i) && s.trust.open (s.trust.memberFor true i) 4

/-- The same of an access that no command makes, on the lane of its address. -/
def State.mayCross (s : State) (key : Nat) : Bool := s.mayLeave .start key none

/-- A command's progress with peer `i` taken, as it stands unless it has been taken before. -/
def Prog.takePeerNo (x : Prog) (s : State) (i : Nat) : Prog :=
  if (x.peers.lookup i).isSome then x else { x with peers := x.peers ++ [(i, (s.peer i).pvalid)] }

/-- The same with the peer that homes a location, if one does. -/
def Prog.takePeer (x : Prog) (s : State) (key : Nat) : Prog := match s.home key with
  | .peer i => x.takePeerNo s i
  | .hbm _ => x
  | .lpddr _ => x
  | .host => x
  | .module _ _ => x
  | .nowhere => x

/-- A crossing to peer `i` may be made, by ordered or by unordered delivery (R359, R360, R367, R375). -/
def State.mayReachPeer (s : State) (i : Nat) (ordered : Bool) : Bool :=
  s.trust.allows (s.trust.memberFor true i) && s.trust.open (s.trust.memberFor true i) (if ordered then 4 else 5)

/-- A crossing to module `m` of the rack ring may be made; to this module itself there is none. -/
def State.mayReach (s : State) (m : Nat) : Bool :=
  decide (m = s.myMod.toNat) || (s.inRack m && s.trust.allows (s.trust.memberFor false m) &&
    s.trust.open (s.trust.memberFor false m) (s.rackPath m 0))

/-- While a barrier is armed, new crossings are held at the hub die (R379). -/
def Trust.holds (t : Trust) : Bool := match t.dstate with
  | .alone => false | .active => false | .holding => true | .arrived => true

/-- The address a drop-log entry records (R382). -/
def dropAddr (key : Nat) : Nat := key / 256 * 256 % 2 ^ 52

/-- A sector dropped (R381): counted, and logged while there is room. `kind`: 0 an RDC sector, 1 a sector write failed in
flight, 2 written after the arrival. -/
def State.dropSector (s : State) (key die kind : Nat) : State :=
  let m := (s.memberOf key).getD 0
  let e : BitVec 128 := BitVec.ofNat 128 (dropAddr key + 2 ^ 63 +
    2 ^ 64 * (m + 2 ^ 8 * die + 2 ^ 12 * kind + 2 ^ 16 * s.trust.epoch.toNat))
  s.onTrust fun t =>
    { t with drops := satAdd48 t.drops 1, dropLog := if t.dropLog.length < 1024 then t.dropLog ++ [e] else t.dropLog }

end Sys2Proof.Machine
end

