-- ==== Sys2Proof/Machine/Rdc.lean ====
section
/-!
DEFINITION. The RDC of a die (R15, R97, R98) and how a die reaches memory: through its own HBM4 stack, or through its
RDC; the release, the acquire and the replacement of sectors.
-/

namespace Sys2Proof.Machine

def State.rdcOf (s : State) (die : Nat) : Store RdcSector := if h : die < 8 then s.rdc.get ⟨die, h⟩ else []
def State.setRdc (s : State) (die : Nat) (r : Store RdcSector) : State :=
  if h : die < 8 then { s with rdc := s.rdc.set die r h } else s

/-- The RDC's sector number `n` (R97: INVALID when it holds none). -/
def State.sector (s : State) (die n : Nat) : RdcSector := Store.get .invalid (s.rdcOf die) n
def State.setSector (s : State) (die n : Nat) (x : RdcSector) : State :=
  s.setRdc die (Store.set .invalid (s.rdcOf die) n x)

/-- A mask of `n` bytes from byte `o` of a sector, one bit a byte. -/
def byteMask (o n : Nat) : BitVec 256 := BitVec.ofNat 256 ((2 ^ n - 1) <<< o)

/-- A byte mask widened to eight bits a byte. -/
def widen (m : BitVec 256) : Nat → Nat
  | 0 => 0
  | n + 1 => widen m n + (if m.getLsbD n then 255 <<< (8 * n) else 0)

/-- Bytes of `old` with those that a mask names taken from `new`. -/
def mergeBytes (old new : BitVec 2048) (m : BitVec 256) : BitVec 2048 :=
  let w := BitVec.ofNat 2048 (widen m 256)
  (old &&& ~~~w) ||| (new &&& w)

/-- The granules (of eight) that a byte mask covers whole. -/
def fullGranules (m : BitVec 256) : BitVec 8 :=
  (List.range 8).foldl (fun g i => if (m >>> (32 * i)).setWidth 32 = BitVec.allOnes 32 then g ||| BitVec.twoPow 8 i else g) 0

/-- The granules that a byte mask touches. -/
def touchedGranules (m : BitVec 256) : BitVec 8 :=
  (List.range 8).foldl (fun g i => if (m >>> (32 * i)).setWidth 32 = 0#32 then g else g ||| BitVec.twoPow 8 i) 0

/-- The words of a piece of `k` bytes that a mask names, as a mask of its bytes. -/
def bytesOfWords (words : BitVec 64) (k : Nat) : Nat :=
  (List.range k).foldl (fun m i => if words.getLsbD (i / 4) then m + 2 ^ i else m) 0

/-- The words of a sector that a mask names, as a mask of its bytes. -/
def sectorBytes (words : BitVec 64) : BitVec 256 := BitVec.ofNat 256 (bytesOfWords words 256)

/-- What a read of a sector at its home gives: its bytes, which of its granules are poisoned, and whether the read consumed the poison
of a target whose bins it would have applied (R395). -/
structure Fetched where
  data : BitVec 2048
  poison : BitVec 8
  abandoned : Bool

/-- A read of a whole sector at its home: this module's memory, or the host's; another module's answer is a free value
(log entry 3, DESIGN CHOICE). -/
def State.fetchSector (s : State) (n : Nat) : State × Fetched :=
  match s.home (256 * n) with
  | .module _ _ => let f := (s.crossOn (256 * n) none).fresh; (f.2, ⟨f.1.setWidth 2048, 0, false⟩)
  | .peer _ => let f := (s.crossOn (256 * n) none).fresh; (f.2, ⟨f.1.setWidth 2048, 0, false⟩)
  | .nowhere => (s, ⟨0, 0, false⟩)
  | .hbm _ | .lpddr _ | .host =>
    let x := s.touch (256 * n) 256
    (x.1, ⟨BitVec.ofNat 2048 (x.1.bytesAt (256 * n) 256),
      (List.range 8).foldl (fun g i => if x.1.poisonAt (256 * n + 32 * i) 32 then g ||| BitVec.twoPow 8 i else g) 0, x.2⟩)

/-- The granules of a sector that a write has brought to its home poisoned (R394); none on another module. -/
def State.poisonSector (s : State) (n : Nat) (p : BitVec 8) : State :=
  let bad := (List.range 8).filter fun i => p.getLsbD i && !s.isRemoteKey (256 * n)
  { s with poison := s.poison ++ (bad.map fun i => s.place (256 * n + 32 * i) / 32).filter fun g => !(s.poison.contains g) }

/-- The bytes of a sector that a write-back carries reach the home, poison with them (R97, R394). -/
def State.writeHome (s : State) (n : Nat) (x : RdcSector) : State :=
  let s1 := ((s.homeWrite (256 * n) 256 x.dirty.toNat x.data.toNat).1).crossOn (256 * n) none
  s1.poisonSector n (x.poison &&& touchedGranules x.dirty)

/-- A write-back of a sector's dirty bytes: to its home, or dropped where the home may not be crossed to (R381). -/
def State.writeBack (s : State) (die n : Nat) : State :=
  let x := s.sector die n
  if x.dirty = 0 then s
  else if s.mayCross (256 * n) then s.writeHome n x
  else s.dropSector (256 * n) die 0

/-- The sector with some of its dirty bytes written back: the rest of it stands as it did. -/
def RdcSector.cleaned (x : RdcSector) (m : BitVec 256) : RdcSector :=
  let d := x.dirty &&& ~~~m
  if d ≠ 0 then { x with dirty := d }
  else if x.full ∨ x.got ≠ 0 then { x with dirty := 0, who := [] } else .invalid

/-- A part of a write-back, for no access of several words is atomic (R95): the dirty bytes that a mask names reach the home. -/
def State.writeBackPart (s : State) (die n : Nat) (m : BitVec 256) : State :=
  let x := s.sector die n
  if x.dirty &&& m = 0 then s
  else (s.writeHome n { x with dirty := x.dirty &&& m }).setSector die n (x.cleaned m)

/-- A sector is in scope of a release or acquire (R97): at module scope when this module's memory homes it. -/
def State.sectorIn (s : State) (domain : Bool) (n : Nat) : Bool :=
  domain || match s.home (256 * n) with
    | .hbm _ => true | .lpddr _ => true | .host => false | .module _ _ => false | .peer _ => false | .nowhere => false

/-- A release of one sector: DIRTY to CLEAN, PARTIAL to INVALID, its bytes written back (R97). -/
def State.releaseSector (s : State) (die n : Nat) : State :=
  let x := s.sector die n
  if x.dirty = 0 then s
  else (s.writeBack die n).setSector die n (if x.full then { x with dirty := 0, who := [] } else .invalid)

/-- An acquire of one sector: CLEAN to INVALID, DIRTY to PARTIAL (R97). -/
def State.acquireSector (s : State) (die n : Nat) : State :=
  let x := s.sector die n
  s.setSector die n (if x.dirty = 0 then .invalid else
    { x with full := false, data := mergeBytes 0 x.data x.dirty, poison := x.poison &&& touchedGranules x.dirty, got := 0 })

/-- A replacement of one sector: INVALID, its dirty bytes written back (R97). -/
def State.replaceSector (s : State) (die n : Nat) : State := (s.writeBack die n).setSector die n .invalid

/-- The numbers of the sectors of a die's RDC in scope. -/
def State.sectorsIn (s : State) (die : Nat) (domain : Bool) : List Nat :=
  ((s.rdcOf die).map (·.1)).filter fun n => s.sectorIn domain n

/-- What a fence of kind REL 1, ACQ 2 or AR 3 does to one sector in scope (R101): the release, the acquire, or one after the
other. An acquire alone first writes back a sector in which `mine` finds writes that the fence orders (log entry 65, DEDUCED). -/
def State.fenceSector (s : State) (die kind : Nat) (mine : RdcSector → Bool) (n : Nat) : State :=
  let s1 := if kind = 2 ∧ mine (s.sector die n) = false then s else s.releaseSector die n
  if kind = 1 then s1 else s1.acquireSector die n

/-- The RDC action of a fence over the sectors in a list. -/
def State.fenceSectors (s : State) (die kind : Nat) (mine : RdcSector → Bool) (l : List Nat) : State :=
  l.foldl (fun s n => s.fenceSector die kind mine n) s

/-- Writes of core `n` in a class of a mask are among the dirty bytes. -/
def RdcSector.wroteIn (n : Nat) (mask : BitVec 16) (x : RdcSector) : Bool :=
  x.who.any fun y => y.1 == n && mask.getLsbD y.2.toNat

/-- The release over a die's RDC (R98, R101). -/
def State.release (s : State) (die : Nat) (domain : Bool) : State :=
  (s.sectorsIn die domain).foldl (fun s n => s.releaseSector die n) s
/-- The acquire over a die's RDC (R98, R101). -/
def State.acquire (s : State) (die : Nat) (domain : Bool) : State :=
  (s.sectorsIn die domain).foldl (fun s n => s.acquireSector die n) s

/-- The RDC action of a fence or of a phaser's release or acquire: none below module scope (R101). Scopes: 0 core,
1 cluster, 2 die, 3 module, 4 domain. -/
def State.rdcRelease (s : State) (die scope : Nat) : State := if scope < 3 then s else s.release die (decide (scope = 4))
def State.rdcAcquire (s : State) (die scope : Nat) : State := if scope < 3 then s else s.acquire die (decide (scope = 4))

/-- A release at domain scope would cross while crossings are held (R379). -/
def State.releaseHeld (s : State) (die : Nat) : Bool :=
  s.trust.holds && (s.rdcOf die).any fun x => s.isRemoteKey (256 * x.1) && x.2.dirty != 0

/-- The home is the HBM4 stack of the die itself (R18). -/
def State.ownStack (s : State) (die key : Nat) : Bool := s.home key == .hbm die

/-- The RDC serves a read of the bytes without its home (R97). -/
def RdcSector.serves (x : RdcSector) (m : BitVec 256) : Bool := x.full || m &&& ~~~x.dirty == 0

/-- No byte of the sector is valid (R97). -/
def RdcSector.isInvalid (x : RdcSector) : Bool := !x.full && x.dirty == 0

/-- The sector filled from its home: the bytes that are neither dirty nor taken already are taken, the dirty ones kept (R97). The
answer says whether that consumed the poison of a target (R395). -/
def State.fillSector (s : State) (die n : Nat) : State × Bool :=
  let x := s.sector die n
  let f := s.fetchSector n
  (f.1.setSector die n
    { x with
      full := true
      data := mergeBytes f.2.data x.data (x.dirty ||| sectorBytes x.got)
      poison := x.poison ||| (f.2.poison &&& ~~~(fullGranules x.dirty))
      got := 0 }, f.2.abandoned)

/-- A fill goes on by the words of a mask, for no access of several words is atomic (R95): those that have not been taken are. -/
def State.fillPart (s : State) (die n : Nat) (words : BitVec 64) : State × Bool :=
  let x := s.sector die n
  let f := s.fetchSector n
  let now := sectorBytes (words &&& ~~~x.got) &&& ~~~x.dirty
  let whole := sectorBytes (x.got ||| words) ||| x.dirty == BitVec.allOnes 256
  (f.1.setSector die n
    { x with
      full := whole
      data := mergeBytes x.data f.2.data now
      poison := x.poison ||| (f.2.poison &&& touchedGranules now &&& ~~~(fullGranules x.dirty))
      got := if whole then 0 else x.got ||| words }, f.2.abandoned)

/-- A step that moves the words of a mask finds bytes that only a fill can bring, and can take those words of the sector alone: its
home is one of this module, or the host. -/
def State.fillsPart (s : State) (die key n : Nat) (all : Bool) : Bool :=
  !all && !(s.ownStack die key) && !(s.isRemoteKey key) && !((s.sector die (key / 256)).serves (byteMask (key % 256) n))

/-- A read of the bytes of one sector by a die: the bytes, and whether it consumed poison. -/
def State.dieRead (s : State) (die key n : Nat) : State × Nat × Bool :=
  if s.ownStack die key then s.homeRead key n
  else
    let m := byteMask (key % 256) n
    let f := if (s.sector die (key / 256)).serves m then (s, false) else s.fillSector die (key / 256)
    let x := f.1.sector die (key / 256)
    (f.1, x.data.toNat >>> (8 * (key % 256)) % 2 ^ (8 * n), f.2 || x.poison &&& touchedGranules m != 0)

/-- The granule whose poison a read of the bytes of one sector by a die consumes (R390): at the home for its own stack, else of the
sector as the RDC holds it, or fills it; 0 where there is none. -/
def State.readGranule (s : State) (die key n : Nat) : BitVec 52 :=
  if s.ownStack die key then s.homeGranule key n
  else
    let at' := key / 256 * 256
    let m := byteMask (key % 256) n
    let fills := !(s.sector die (key / 256)).serves m
    let s1 := if fills then (s.fillSector die (key / 256)).1 else s
    let bad := (s1.sector die (key / 256)).poison &&& touchedGranules m
    match (List.range 8).find? bad.getLsbD with
    | some i => BitVec.ofNat 52 (at' + 32 * i)
    | none => if fills && !(s.isRemoteKey key) then s.abandonedGranule at' 256 else 0

/-- A byte-masked write of `n` bytes of one sector by a die: at the home for its own stack, else into its RDC (R97). The answer says
that it consumed the poison of a target (R395), and wrote nothing. -/
def State.dieWrite (s : State) (die key n mask v : Nat) : State × Bool :=
  if s.ownStack die key then (if (s.touch key n).2 then ((s.touch key n).1, true) else s.homeWrite key n mask v)
  else
    let x := s.sector die (key / 256)
    let m := BitVec.ofNat 256 ((mask % 2 ^ n) <<< (key % 256))
    let lost := x.poison &&& ~~~(fullGranules m)
    let d := mergeBytes x.data (BitVec.ofNat 2048 (v <<< (8 * (key % 256)))) m
    (s.setSector die (key / 256) { x with dirty := x.dirty ||| m, data := d, poison := lost }, false)

/-! ### The walk (R89-R91) -/

/-- The walk from a level with `fuel` levels left (R89): the state once it has read, and the translation of `va` or why there is
none. It reads the entries at their homes (R91), where pending bins are applied first (R333). -/
def walkFrom (e : Seg) (si : BitVec 6) (va : Nat) (write : Bool) : Nat → State → Nat → Nat → State × Except WalkFault TlbEntry
  | 0, s, _, _ => (s, .error .invalid)
  | fuel + 1, s, level, tab =>
    let x := s.homeRead (tab + 8 * levelIndex level va) 8
    let pte := x.2.1
    if x.2.2 then (x.1, .error (.fatal 0x54 (BitVec.ofNat 64 level)))
    else if pte % 2 = 0 then (x.1, .error .invalid)
    else if pteBad x.1 e level pte then (x.1, .error (.fatal 0x50 (BitVec.ofNat 64 level)))
    else if bit pte 1 then
      if write && !bit pte 2 then (x.1, .error (.fatal 0x51 0))
      else (x.1, .ok ⟨si, va / leafSize level * leafSize level, leafSize level, bits pte 51 8 * 256, bit pte 2⟩)
    else walkFrom e si va write fuel x.1 (level + 1) (bits pte 51 8 * 256)

/-- The locations of the entries that this walk reads. -/
def walkKeys (e : Seg) (va : Nat) : Nat → State → Nat → Nat → List Nat
  | 0, _, _, _ => []
  | fuel + 1, s, level, tab =>
    let key := tab + 8 * levelIndex level va
    let x := s.homeRead key 8
    let pte := x.2.1
    if x.2.2 || pte % 2 == 0 || pteBad x.1 e level pte || bit pte 1 then [key]
    else key :: walkKeys e va fuel x.1 (level + 1) (bits pte 51 8 * 256)

/-- The page walk of a pageable segment's offset (R89). -/
def walk (s : State) (e : Seg) (si : BitVec 6) (off : Nat) (write : Bool) : Except WalkFault TlbEntry :=
  (walkFrom e si (segBase e + off) write 4 s 1 (segRoot e)).2

/-- The state once that walk has read its entries. -/
def State.walked (s : State) (e : Seg) (si : BitVec 6) (off : Nat) (write : Bool) : State :=
  (walkFrom e si (segBase e + off) write 4 s 1 (segRoot e)).1

/-- A core's write in a class stands among the dirty bytes of a sector. -/
def State.noteWriter (s : State) (die n core : Nat) (cls : BitVec 4) : State :=
  let x := s.sector die n
  if x.who.contains (core, cls) then s else s.setSector die n { x with who := x.who ++ [(core, cls)] }

/-- The granule whose poison a read of any length by a die consumes. -/
def State.readGranuleLong (s : State) (die : Nat) : Nat → Nat → Nat → BitVec 52
  | 0, _, _ => 0
  | fuel + 1, key, n =>
    if n = 0 then 0
    else
      let m := min n (256 - key % 256)
      let a := s.dieRead die key m
      if a.2.2 then s.readGranule die key m else a.1.readGranuleLong die fuel (key + m) (n - m)

/-- A read of any length by a die, sector by sector. -/
def State.dieReadLong (s : State) (die : Nat) : Nat → Nat → Nat → State × Nat × Bool
  | 0, _, _ => (s, 0, false)
  | fuel + 1, key, n =>
    if n = 0 then (s, 0, false)
    else
      let m := min n (256 - key % 256)
      let a := s.dieRead die key m
      let b := a.1.dieReadLong die fuel (key + m) (n - m)
      (b.1, a.2.1 + b.2.1 <<< (8 * m), a.2.2 || b.2.2)

end Sys2Proof.Machine
end

