-- ==== Sys2Proof/Machine/Engine.lean ====
section
/-!
DEFINITION. What the untimed engines share: the commands of a core by number, program order among them (R26, R100,
R101), setting and failing flags wherever their task is (R23, R280), and writing results into tile windows (R25).
-/

namespace Sys2Proof.Machine

/-! ### Commands of a core -/

def State.unAt (s : State) (n : Nat) : Untimed := (s.coreAt n).un
def State.onCore (s : State) (n : Nat) (f : Core → Core) : State := s.setCoreAt n (f (s.coreAt n))
def State.onUn (s : State) (n : Nat) (f : Untimed → Untimed) : State := s.onCore n fun c => { c with un := f c.un }
def State.timedAt (s : State) (n : Nat) : Timed := (s.coreAt n).timed
def State.onTimed (s : State) (n : Nat) (f : Timed → Timed) : State := s.onCore n fun c => { c with timed := f c.timed }

def Untimed.cmd? (u : Untimed) (q : Nat) : Option Cmd := u.queue.find? fun c => c.seq == q
def Untimed.onCmd (u : Untimed) (q : Nat) (f : Cmd → Cmd) : Untimed :=
  { u with queue := u.queue.map fun c => if c.seq = q then f c else c }
def Untimed.dropCmd (u : Untimed) (q : Nat) : Untimed := { u with queue := u.queue.filter fun c => c.seq != q }

def State.cmd? (s : State) (n q : Nat) : Option Cmd := (s.unAt n).cmd? q
def State.onCmd (s : State) (n q : Nat) (f : Cmd → Cmd) : State := s.onUn n fun u => u.onCmd q f
def State.dropCmd (s : State) (n q : Nat) : State := s.onUn n fun u => u.dropCmd q

/-- OP of a copy-slot command (R126). -/
def opOf (i : Instr) : BitVec 8 := (encodeCopy i).extractLsb' 40 8

/-! ### Program order (R100, R101) -/

/-- The fields that set a command's accesses in order: those that make accesses of their class (R27, R100). WCOPY, WFILL
and the phaser commands make none that a fence orders, and the lattice and exchange commands theirs. -/
def insOrdered : Instr → Bool
  | .tld _ | .tst _ | .tldm _ | .tldbp _ | .pref _ | .strem _ | .stremo _ | .wcopy _ | .wfill _ => true
  | .swld _ | .swst _ | .aadd _ | .amin _ | .amax _ | .aand _ | .aor _ | .axor _ | .axchg _ | .acas _ | .afaddF32 _ => true
  | .gbag _ | .gbagw _ | .grows _ | .gpref _ => true
  | .lpush _ | .lpushs _ | .lclose _ | .xsend _ => true
  | _ => false

/-- The classes that a command fences (R101): a FENCE those of its mask; a phaser arrival or drop, an arm and a TBARR all
sixteen, each by its release (R102, R264, R385). -/
def fenceMask : Instr → BitVec 16
  | .fence m _ _ => m
  | .pharr _ | .phdrop _ | .pharm _ | .tbarr _ => 0xFFFF
  | _ => 0

/-- A fence whose mask has the class (R101). -/
def insFences (i : Instr) (cls : BitVec 4) : Bool := (fenceMask i).getLsbD cls.toNat

/-- A remote store; the sector writes of one perform in no order with those of another of its core (R349). -/
def isRemote : Instr → Bool
  | .strem _ | .stremo _ => true
  | _ => false

/-- An earlier command that an access of class `cls` must wait for: one of its class, or a fence over it. -/
def Cmd.precedes (c : Cmd) (q : Nat) (cls : BitVec 4) (remote : Bool) : Bool :=
  decide (c.seq < q) && ((insOrdered c.ins && c.cls == cls && !(remote && isRemote c.ins)) || insFences c.ins cls)

/-- The accesses of command `q` of class `cls` may perform: every earlier command of its class, and every earlier fence
over it, is done (R100, R101). -/
def Untimed.clear (u : Untimed) (q : Nat) (cls : BitVec 4) (remote : Bool) : Bool :=
  !(u.queue.any fun c => c.precedes q cls remote)

/-- An exchange command of the task on core `n`, sent before an eviction of it, makes accesses of a class in a mask and comes before
command `q`: it is not one that itself waits for `q` (R26, R361). -/
def State.adriftIn (s : State) (n q : Nat) (mask : BitVec 16) : Bool :=
  s.adrift.any fun a =>
    (s.coreAt n).task.any (fun k => decide (k.rcb = a.who.rcb ∧ k.cardIdx = a.who.cardIdx ∧ k.taskIdx = a.who.taskIdx)) &&
    insOrdered a.cmd.ins && mask.getLsbD a.cmd.cls.toNat && !a.after.contains q

/-- The accesses of command `q` of core `n` may perform: nothing of the core's queues, and no command adrift of its task, comes
before them (R26, R100, R101). -/
def State.clear (s : State) (n q : Nat) (cls : BitVec 4) (remote : Bool) : Bool :=
  (s.coreAt n).un.clear q cls remote && !(s.adriftIn n q (BitVec.twoPow 16 cls.toNat))

/-- Every access of a class in a mask that precedes command `q` has performed, and so has every earlier fence (R101). -/
def Untimed.settled (u : Untimed) (q : Nat) (mask : BitVec 16) : Bool :=
  !(u.queue.any fun c => decide (c.seq < q) &&
    ((insOrdered c.ins && mask.getLsbD c.cls.toNat) || fenceMask c.ins &&& mask != 0))

/-- The same with the commands adrift of the task. -/
def State.settled (s : State) (n q : Nat) (mask : BitVec 16) : Bool :=
  (s.coreAt n).un.settled q mask && !(s.adriftIn n q mask)

/-! ### Tasks, and their flags wherever they are (R23, R280) -/

def Task.ref (k : Task) : TaskRef := ⟨k.rcb, k.cardIdx, k.taskIdx⟩

/-- The task bound to a core. -/
def State.refAt (s : State) (n : Nat) : Option TaskRef := (s.coreAt n).task.map Task.ref

/-- The core that a task is bound to. -/
def State.coreOf (s : State) (w : TaskRef) : Option Nat := (List.range 96).find? fun n => s.refAt n == some w

/-- A task has issued its END: it is DRAINING, or in a FAULTHOLD that it entered from DRAINING (R54). -/
def Task.pastEnd (k : Task) : Bool := k.phase == .draining || (k.phase == .faultHold && k.hold.any fun h => h.fromDraining)

/-- A flag set or failed in a core (R23); a passage flag keeps the scope of its acquire until a wait observes it. A
failure reported while the task is DRAINING, or frozen since, makes it FAILED at its end (R49): the first one is kept. -/
def Core.report (c : Core) (x : Note) : Core :=
  if x.ok then
    let c1 := { c with timed := c.timed.doneFlag x.flag }
    match x.scope with
    | none => c1
    | some sc => if c.timed.flag x.flag = .error then c1 else { c1 with acquires := c1.acquires ++ [(x.flag, sc)] }
  else
    let c1 := if (c.task.any Task.pastEnd) && c.un.flagless.isNone
      then { c with un := { c.un with flagless := x.fail } } else c
    if c.timed.flag x.flag = .error then c1
    else { c1 with timed := c.timed.setFlag x.flag .error, fails := c.fails.set x.flag.toNat x.fail x.flag.isLt }

/-- Where save slot `k` of a region lies (R56). -/
def Region.slotBase (r : Region) (k : Nat) : Nat := r.saveBase + k * 0xA00000

/-- FLAGS of a save slot with one flag changed (R167, R280): 0 CLEAR, 1 SET, 2 ERROR. The DCU reads and writes it at its home
(R333). -/
def State.noteInSlot (s : State) (base : Nat) (x : Note) : State :=
  let a := base + 0x1000 + 0xA00
  let r := s.homeRead a 8
  let old := r.2.1 >>> (2 * x.flag.toNat) % 4
  let new := if old = 2 then 2 else if x.ok then 1 else 2
  (r.1.homeWrite a 8 255 (r.2.1 - old * 2 ^ (2 * x.flag.toNat) + new * 2 ^ (2 * x.flag.toNat))).1

/-- What an evicted task will find of it at its resume. -/
def Evicted.note (e : Evicted) (x : Note) : Evicted :=
  if x.ok then
    match x.scope with
    | none => e
    | some sc => { e with acquires := e.acquires ++ [(x.flag, sc)] }
  else { e with fails := e.fails.set x.flag.toNat x.fail x.flag.isLt }

/-- A notification applied to an evicted task (R280). -/
def State.noteEvicted (s : State) (w : TaskRef) (x : Note) : State :=
  match s.region? w.rcb with
  | none => s
  | some r =>
    match r.evicted.find? fun e => e.cardIdx == w.cardIdx && e.taskIdx == w.taskIdx with
    | none => s
    | some e =>
      let s1 := s.noteInSlot (r.slotBase e.slot) x
      s1.putRegion w.rcb { r with evicted := r.evicted.map fun y =>
        if y.cardIdx = w.cardIdx ∧ y.taskIdx = w.taskIdx then y.note x else y }

/-- The DCU is saving or restoring this task (R280). -/
def Task.moving (k : Task) : Bool := match k.phase with
  | .loading => true
  | .evicting => k.saveSlot.isSome
  | .running | .draining | .faultHold | .failed => false

/-- A flag reported to its task, wherever it is (R280): on its core, held by the DCU during a save or a restore, or in
its save slot. A task that has ended takes no notice. -/
def State.report (s : State) (w : TaskRef) (x : Note) : State :=
  match s.coreOf w with
  | some n =>
    match (s.coreAt n).task with
    | none => s
    | some k =>
      if k.moving then s.onCore n fun c => { c with task := some { k with notes := k.notes ++ [x] } }
      else s.onCore n fun c => c.report x
  | none => s.noteEvicted w x

/-- A flag of the task bound to core `n`. -/
def State.reportAt (s : State) (n : Nat) (x : Note) : State := s.onCore n fun c => c.report x

/-- Command `q` of core `n` is done: its flag becomes SET, and it leaves its queue. -/
def State.cmdDone (s : State) (n q : Nat) (f : BitVec 5) (scope : Option (BitVec 3)) : State :=
  (s.reportAt n ⟨f, true, scope, none⟩).dropCmd n q

/-- Command `q` of core `n` fails: its flag becomes ERROR, and it leaves its queue (R278, R299, R362). -/
def State.cmdFailed (s : State) (n q : Nat) (f : BitVec 5) (op : BitVec 8) (reached : Nat) (faddr : BitVec 52) : State :=
  (s.reportAt n ⟨f, false, none, some ⟨op, BitVec.ofNat 64 reached, faddr⟩⟩).dropCmd n q

/-- The RDC action of a fence, sector by sector (R98): the sectors that it found in scope at its start are visited in any order, one
at a time, or all that are left. The answer is the state and the sectors still to visit. -/
def State.fencePass (s : State) (n : Nat) (c : Cmd) (mask : BitVec 16) (scope kind : Nat) (words : BitVec 1024) : State × List Nat :=
  if scope < 3 then (s, [])
  else
    let todo := c.prog.left.getD (s.sectorsIn (dieOf n) (decide (scope = 4)))
    let now := if words = BitVec.allOnes 1024 then todo else (todo[words.toNat % todo.length]?).toList
    (s.fenceSectors (dieOf n) kind (RdcSector.wroteIn n mask) now, todo.filter fun x => !(now.contains x))

/-! ### Results in windows (R25) -/

/-- The marks of a core without those that `gone` names. -/
def Core.unmark (c : Core) (gone : MarkSite → Bool) : Core := { c with marks := c.marks.filter fun m => !gone m }

/-- An engine has written `k` logical bytes of a window from `l` on: an error that one of them held is gone (R397). -/
def Core.unmarkWin (c : Core) (w : Window) (l k : Nat) : Core := c.unmark fun m => match m with
  | .scratch a => (List.range k).any fun i => w.byteAddr (l + i) == a
  | .scalar _ | .vector _ | .mask _ | .accRow _ | .array | .loopBuffer _ => false

/-- `k` logical bytes of a window of core `n` written from `l` on. -/
def State.winWriteAt (s : State) (n : Nat) (w : Option Window) (l k v : Nat) : State :=
  match w with
  | none => s
  | some x => (s.onTimed n fun t => t.winWrite x l k v).onCore n fun c => c.unmarkWin x l k

/-- `k` logical bytes of a window of core `n`. -/
def State.winReadAt (s : State) (n : Nat) (w : Option Window) (l k : Nat) : Nat :=
  match w with
  | none => 0
  | some x => (s.timedAt n).winRead x l k

/-- A window of core `n` as bytes from elsewhere find it (R191, R359): undeclared where no task is bound, before the task's
first bundle or its restore, and once its image has been saved. -/
def State.openWin (s : State) (n : Nat) (w : BitVec 5) : Option Window :=
  match (s.coreAt n).task with
  | none => none
  | some k => if k.moving then none else (s.timedAt n).win w

/-- Bytes written into a window by a TLDM or a delivery count toward the slot armed there (R272 step 1). -/
def State.countArm (s : State) (n : Nat) (w : BitVec 5) (k : Nat) : State :=
  s.onUn n fun u => { u with arms := u.arms.map fun a => a.map fun x => if x.w = w then { x with c := x.c + k } else x }

/-- The aligned words of a window that `k` logical bytes from `l` on lie in, in order (R25, R175): of each the first of those bytes,
counted from `l`, and how many of them it holds. A row that is no multiple of 4 bytes ends in a shorter word. `fuel` words at most. -/
def Window.wordsFrom (w : Window) (l k : Nat) : Nat → Nat → List (Nat × Nat)
  | 0, _ => []
  | fuel + 1, o =>
    let x := (l + o) % w.rbu
    let n := min (min 4 (w.rbu - x / 4 * 4) - x % 4) (k - o)
    if n = 0 then [] else (o, n) :: w.wordsFrom l k fuel (o + n)

def Window.wordsIn (w : Window) (l k : Nat) : List (Nat × Nat) := w.wordsFrom l k k 0

/-- The logical bytes of the word of a window that byte `l` lies in: the first of them, and how many. -/
def Window.wordOf (w : Window) (l : Nat) : Nat × Nat :=
  let x := l % w.rbu
  (l - x % 4, min 4 (w.rbu - x / 4 * 4))

/-- Words of four logical bytes from 0 on are not the words of the window. -/
def Window.odd (w : Window) : Bool := w.rbu % 4 != 0

/-- The words of a list by their numbers, as far as a mask of 1,024 names them: number `i` by bit i mod 1024. -/
def pickWords (words : BitVec 1024) (l : List (Nat × Nat)) : List (Nat × Nat) :=
  (l.zipIdx.filter fun x => words.getLsbD (x.2 % 1024)).map (·.1)

/-- The words that `words` names of `k` logical bytes of a window of core `n`, from byte `l` on. -/
def State.winWords (s : State) (n : Nat) (w : Option Window) (l k v : Nat) (words : BitVec 1024) : State :=
  if words = BitVec.allOnes 1024 then s.winWriteAt n w l k v
  else match w with
  | none => s
  | some x => (pickWords words (x.wordsIn l k)).foldl (fun s p => s.winWriteAt n w (l + p.1) p.2 (v >>> (8 * p.1))) s

/-- Every word of `k` logical bytes of a window from `l` on is in a mask. -/
def wordsFull (w : Option Window) (l k : Nat) (words : BitVec 1024) : Bool := match w with
  | none => true
  | some x => (List.range (x.wordsIn l k).length).all fun i => words.getLsbD (i % 1024)

/-! ### Words that a command writes, or carries, in parts (R25) -/

/-- A byte held back in the place of an earlier one of the same logical byte. -/
def holdByte (l : List HeldByte) (h : HeldByte) : List HeldByte := (l.filter fun x => !(x.core == h.core && x.at' == h.at')) ++ [h]

/-- `k` bytes from logical byte `l` on held back. -/
def holdBytes (core run l v k : Nat) (held : List HeldByte) : List HeldByte :=
  (List.range k).foldl (fun h i => holdByte h ⟨core, l + i, run, BitVec.ofNat 8 (v >>> (8 * i))⟩) held

/-- What has become of bytes held back: those that still are, and the run of the first that was discarded, if any. -/
structure Landing where
  held : List HeldByte
  lost : Option Nat

/-- Bytes held back for core `m` land in its window, each word of which they fill at once, or every one of them where `all` says so;
`pick` chooses among the words. They count toward the arm slot of the window `arm`. Where the window is undeclared, or ends before them,
they are discarded (R191, R359). -/
def State.landHeld (s : State) (m : Nat) (win : Option Window) (arm : Option (BitVec 5)) (all : Bool) (pick : Nat → Bool)
    (held : List HeldByte) : State × Landing :=
  let mine := held.filter fun h => h.core == m
  match win with
  | none => (s, ⟨held.filter fun h => h.core != m, mine.head?.map (·.run)⟩)
  | some w =>
    let same := fun (x h : HeldByte) => (w.wordOf x.at').1 == (w.wordOf h.at').1
    let now := mine.filter fun h =>
      (all || (mine.filter (same h)).length == (w.wordOf h.at').2) && pick ((w.wordOf h.at').1 / 4 % 1024)
    let s1 := (now.filter fun h => decide (h.at' < w.size)).foldl (fun s h =>
      let s1 := s.winWriteAt m (some w) h.at' 1 h.val.toNat
      arm.elim s1 fun a => s1.countArm m a 1) s
    (s1, ⟨held.filter fun h => !(now.contains h), (now.find? fun h => decide (w.size ≤ h.at')).map (·.run)⟩)

/-- `k` logical bytes of a window of core `n` from `l` on, as a command carries them: those of a word that it has read before as they
were then. In a window with shorter words, the words that are read now are kept for what the command carries of them later. -/
def State.carry (s : State) (n : Nat) (w : Option Window) (l k : Nat) (held : List HeldByte) : Nat × List HeldByte :=
  match w with
  | none => (0, held)
  | some x =>
    if !x.odd then (s.winReadAt n w l k, held)
    else
      let old := fun i => (held.find? fun h => h.core == n && h.at' == i).map (·.val)
      let byte := fun i => (old i).getD (BitVec.ofNat 8 (s.winReadAt n w i 1))
      let words := ((List.range k).map fun i => x.wordOf (l + i)).dedup
      ((List.range k).foldl (fun v i => v + (byte (l + i)).toNat <<< (8 * i)) 0,
        words.foldl (fun h p => (List.range p.2).foldl (fun h i =>
          if (old (p.1 + i)).isSome then h else holdByte h ⟨n, p.1 + i, 0, byte (p.1 + i)⟩) h) held)

/-- The result of a command in its window, or the words of it that `words` names (R25): the bytes, and with the last of them the
flag, then the queue entry (R265, R301, R386). A result that has begun to land goes on as it was. -/
def State.cmdResult (s : State) (n : Nat) (c : Cmd) (f : BitVec 5) (l k v : Nat) (words : BitVec 1024) : State :=
  let p := c.prog.parked.getD ⟨l, k, v, 0⟩
  let s1 := s.winWords n c.win p.l p.k p.v (words &&& ~~~p.landed)
  if wordsFull c.win p.l p.k (p.landed ||| words) then s1.cmdDone n c.seq f none
  else s1.onCmd n c.seq fun c => { c with prog := { c.prog with parked := some { p with landed := p.landed ||| words } } }

/-- The flag of a command of format CF. -/
def resultFlag : Instr → BitVec 5
  | .phreg o | .phrd o | .swld o | .aadd o | .amin o | .amax o | .aand o | .aor o | .axor o | .axchg o | .acas o
  | .afaddF32 o | .gstat o | .gcntrd o | .gskrd o | .lquery o | .lstat o | .lspill o | .pcnt o | .xstat o | .tstat o
  | .tepoch o | .tlog o => o.f
  | _ => 0

/-- The result of a command that has begun to land goes on (R25); any other command does what `f` says. -/
def State.orLand (s : State) (n : Nat) (c : Cmd) (words : BitVec 1024) (f : State) : State :=
  if c.prog.parked.isSome then s.cmdResult n c (resultFlag c.ins) 0 0 0 words else f

/-- Whether an untimed engine's read of a window's bytes meets an uncorrectable error of the scratchpad (R397). -/
def State.winMarked (s : State) (n : Nat) (w : Option Window) (l k : Nat) : Bool :=
  match w with
  | none => false
  | some x =>
    (s.coreAt n).marks.any fun m => match m with
      | .scratch a => (List.range k).any fun i => x.byteAddr (l + i) == a
      | .scalar _ | .vector _ | .mask _ | .accRow _ | .array | .loopBuffer _ => false

/-- A command of the copy slot whose meaning is a check, a claim of its flag and an entry in its engine's queue. -/
def issueFlagged (tr : Option Trap) (f : BitVec 5) (c : Cmd) (s : State) : Out :=
  match tr with
  | some k => .next (s.takeTrap 7 k)
  | none =>
    if s.un.room c.eng then .next ((s.setCore (s.core.claim f)).enqueue c false) else .next s

end Sys2Proof.Machine
end

