-- ==== Sys2Proof/Machine/Faulting.lean ====
section
/-!
DEFINITION. Page faults and fatal memory faults (R92, R388, R390, R391): entering FAULTHOLD, failing a task for what the
walker found, and the fault-log entries of both.
-/

namespace Sys2Proof.Machine

/-- The element index that a stopped command has reached: its run (R92, R399). -/
def State.reachedOf (s : State) (n : Nat) (q : Option Nat) : Word :=
  match q.bind fun q => s.cmd? n q with
  | none => 0
  | some c => BitVec.ofNat 64 c.run

/-- The PC that a fault of the copy engine records: that of the boundary, or of the END bundle while DRAINING (R92). -/
def Core.faultPc (c : Core) : BitVec 18 := match c.task with
  | none => c.timed.seq.pc
  | some k => if k.phase = .draining then k.endPc else c.timed.seq.pc

/-- A KIND 1 entry (R390). -/
def State.logPageFault (s : State) (n : Nat) (h : Hold) : State :=
  let c := s.coreAt n
  match c.task with
  | none => s
  | some k =>
    let pc := if h.fromDraining then k.endPc else c.timed.seq.pc
    s.logFault (dieOf n) (faultRec n c k pc
      { kind := 1, code := 0, slot := 0, replays := BitVec.ofNat 3 h.replays, detail := 0, reached := s.reachedOf n h.cmd,
        faddr := BitVec.ofNat 52 h.va })

/-- FAULTHOLD_ENTRY (R92): the core is frozen in place, and the fault is logged. An eviction that the dispatcher chose is
dropped; the host's stands (R46, R55). -/
def State.enterHold (s : State) (n : Nat) (cmd : Option Nat) (va : Nat) (write : Bool) : State :=
  match (s.coreAt n).task with
  | none => s
  | some k =>
    let h : Hold := ⟨cmd, va, write, 0, decide (k.phase = .draining), 0⟩
    (s.onCore n fun c => { c with task := some { k with
        phase := .faultHold, hold := some h, late := none, evict := if k.evict = some 3 then k.evict else none } }).logPageFault n h

/-- A fatal memory fault fails the task (R388, R391). -/
def State.fatalFault (s : State) (n : Nat) (pc : BitVec 18) (code : BitVec 8) (detail : Word) (replays : Nat)
    (reached : Word) (va : Nat) : State :=
  s.failCore n pc { kind := 0, code := code, slot := 7, replays := BitVec.ofNat 3 replays, detail := detail,
                    reached := reached, faddr := BitVec.ofNat 52 va } 0

/-- The command that a fatal fault stopped ends as a failed command (R388). -/
def State.failStopped (s : State) (n : Nat) (cmd : Option Nat) (va : Nat) : State :=
  match cmd with
  | none => s
  | some q => s.onCmd n q fun c => { c with stop := .failed c.run (BitVec.ofNat 52 va) }

/-- A fault that the copy engine found on a later page is taken: at a bundle boundary, or at once while DRAINING (R92). -/
def State.takeLate (s : State) (n : Nat) (f : LateFault) : State :=
  match f.fault with
  | .invalid => s.enterHold n (some f.cmd) f.va f.write
  | .fatal code detail =>
    s.fatalFault n (s.coreAt n).faultPc code detail 0 f.reached f.va

/-- A walk of the copy engine's found no page (R92, R388). While the task is saved, the command that met a page fault is kept
stopped for the resume (R198), and a fatal fault waits for the first boundary of the resumed run; after a trap there is no task to
hold, and the command fails; otherwise the fault waits for the core. -/
def State.lateFault (s : State) (n : Nat) (f : LateFault) : State :=
  match (s.coreAt n).task with
  | none => s
  | some k =>
    let stopped := match f.fault with
      | .invalid => s.onCmd n f.cmd fun c => { c with stop := .fault f.va f.write }
      | .fatal _ _ => s.failStopped n (some f.cmd) f.va
    let kept := stopped.onCore n fun c => { c with task := some { k with late := some f } }
    match k.phase with
    | .evicting => match f.fault with
      | .invalid => stopped
      | .fatal _ _ => kept
    | .failed => s.failStopped n (some f.cmd) f.va
    | .draining => stopped.takeLate n f
    | .running | .faultHold | .loading => kept

end Sys2Proof.Machine
end

