-- ==== Sys2Proof/Machine/VertexCmd.lean ====
section
/-!
DEFINITION. The Vertex commands at issue (R256, R265-R267, R272): their checks, what they capture, and the arm slot that
PHARM binds.
-/

namespace Sys2Proof.Machine

/-! ### Handles and EXT fields (R256, R266) -/

def hWord (h : Word) : Nat := bits h.toNat 2 0
def hHalf (h : Word) : Bool := bit h.toNat 3
def hObj (h : Word) : Nat := bits h.toNat 23 4
def hGen (h : Word) : BitVec 8 := h.extractLsb' 24 8
def hDie (h : Word) : Nat := bits h.toNat 34 32
def hMod (h : Word) : Nat := bits h.toNat 38 35

/-- The window of a command in format CF. -/
def cfW (o : CfOp) : BitVec 5 := o.ext.setWidth 5
def vxWide (o : CfOp) : Bool := bit o.ext.toNat 5
def vxSigned (o : CfOp) : Bool := bit o.ext.toNat 6
def vxMode (o : CfOp) : Nat := bits o.ext.toNat 8 7

/-! ### Checks at issue (R267) -/

/-- Check 1. -/
def handleBad (phaser wide : Bool) (h : Word) : Bool :=
  decide (h.toNat / 2 ^ 39 ≠ 0) || (phaser && decide (bits h.toNat 3 0 ≠ 0)) || (!phaser && wide && hHalf h)

/-- A window is declared, and L is a multiple of 16 with L + n within its logical size. -/
def windowFits (t : Timed) (w : BitVec 5) (l n : Nat) : Bool := match t.win w with
  | none => false
  | some x => decide (l % 16 = 0) && decide (l + n ≤ x.size)

/-- The checks of a command that uses a window for `n` bytes at L. -/
def vxTrap (t : Timed) (o : CfOp) (phaser wide : Bool) (n : Nat) : Option Trap :=
  if handleBad phaser wide (t.sreg o.sa) then trap 0x41 (t.sreg o.sa)
  else if windowFits t (cfW o) (t.sreg o.sb).toNat n then none
  else trap 0x40 ((cfW o).setWidth 64)

/-- The checks of a phaser command that uses no window. -/
def phTrap (t : Timed) (o : CfOp) : Option Trap :=
  if handleBad true false (t.sreg o.sa) then trap 0x41 (t.sreg o.sa) else none

/-- A slot is armed for the window. -/
def Untimed.armed (u : Untimed) (w : BitVec 5) : Bool := u.arms.toList.any fun a => match a with
  | none => false
  | some x => x.w == w

/-- An arm slot is free. -/
def Untimed.armFree (u : Untimed) : Bool := u.arms.toList.any fun a => a.isNone

/-- N of PHARM: bits 55:32 of sb. -/
def pharmN (b : Word) : Nat := bits b.toNat 55 32

/-- The checks of PHARM. -/
def pharmTrap (t : Timed) (u : Untimed) (o : CfOp) : Option Trap :=
  if handleBad true false (t.sreg o.sa) then trap 0x41 (t.sreg o.sa)
  else match t.win (cfW o) with
    | none => trap 0x40 ((cfW o).setWidth 64)
    | some x =>
      if (u.armed (cfW o) || u.armFree) && decide (pharmN (t.sreg o.sb) ≤ x.size) then none
      else trap 0x42 ((cfW o).setWidth 64)

/-! ### Entry into the Vertex queue -/

/-- A Vertex command: its handle, the value of sb, its window and the 16 operand bytes at L (R274, R275). -/
def vxCmd (i : Instr) (o : CfOp) (s : State) : Cmd :=
  let t := s.timed
  let l := (t.sreg o.sb).toNat
  let img := match t.win (cfW o) with
    | none => 0
    | some x => BitVec.ofNat 1024 (t.winRead x l 16)
  newCmd t s.un .vertex i o.cls (t.sreg o.sa) (t.sreg o.sb) (t.win (cfW o)) none img

/-- A phaser command without operand bytes. -/
def phCmd (i : Instr) (o : CfOp) (s : State) : Cmd :=
  newCmd s.timed s.un .vertex i 0 (s.timed.sreg o.sa) (s.timed.sreg o.sb) (s.timed.win (cfW o)) none 0

/-- The slot of an arm: the window's own, or else the first that is free. -/
def Untimed.armSlot (u : Untimed) (w : BitVec 5) : Option (Fin 4) :=
  match (List.finRange 4).find? fun i => (u.arms.get i).any fun x => x.w == w with
  | some i => some i
  | none => (List.finRange 4).find? fun i => (u.arms.get i).isNone

/-- A slot bound to a window, with C = 0 (R272 step 1). -/
def Untimed.bindArm (u : Untimed) (a : Arm) : Untimed :=
  match u.armSlot a.w with
  | none => u
  | some i => { u with arms := u.arms.set i.val (some a) i.isLt }

/-- PHREG (R268). -/
def execPhreg (o : CfOp) (s : State) : Out := issueFlagged (vxTrap s.timed o true false 16) o.f (phCmd (.phreg o) o s) s
/-- PHDROP (R269). -/
def execPhdrop (o : CfOp) (s : State) : Out := issueFlagged (phTrap s.timed o) o.f (phCmd (.phdrop o) o s) s
/-- PHARR (R270). -/
def execPharr (o : CfOp) (s : State) : Out := issueFlagged (phTrap s.timed o) o.f (phCmd (.pharr o) o s) s
/-- PHWAIT (R271). -/
def execPhwait (o : CfOp) (s : State) : Out := issueFlagged (phTrap s.timed o) o.f (phCmd (.phwait o) o s) s
/-- PHARM (R272): a slot is bound at issue. -/
def execPharm (o : CfOp) (s : State) : Out :=
  let t := s.timed
  let a : Arm := { seq := s.un.nseq, flag := o.f, handle := t.sreg o.sa, member := (t.sreg o.sb).setWidth 6, w := cfW o,
                   n := pharmN (t.sreg o.sb), c := 0, ok := false, nacks := 0, backoff := false }
  match pharmTrap t s.un o with
  | some k => .next (s.takeTrap 7 k)
  | none =>
    if s.un.room .vertex then
      let s1 := (s.setCore (s.core.claim o.f)).enqueue (phCmd (.pharm o) o s) false
      .next (s1.setUn (s1.un.bindArm a))
    else .next s
/-- PHRD (R273). -/
def execPhrd (o : CfOp) (s : State) : Out := issueFlagged (vxTrap s.timed o true false 64) o.f (phCmd (.phrd o) o s) s

/-- SWLD (R274). -/
def execSwld (o : CfOp) (s : State) : Out := issueFlagged (vxTrap s.timed o false (vxWide o) 16) o.f (vxCmd (.swld o) o s) s
/-- SWST (R274). -/
def execSwst (o : CfOp) (s : State) : Out := issueFlagged (vxTrap s.timed o false (vxWide o) 16) o.f (vxCmd (.swst o) o s) s
/-- AADD (R275). -/
def execAadd (o : CfOp) (s : State) : Out := issueFlagged (vxTrap s.timed o false (vxWide o) 16) o.f (vxCmd (.aadd o) o s) s
/-- AMIN (R275). -/
def execAmin (o : CfOp) (s : State) : Out := issueFlagged (vxTrap s.timed o false (vxWide o) 16) o.f (vxCmd (.amin o) o s) s
/-- AMAX (R275). -/
def execAmax (o : CfOp) (s : State) : Out := issueFlagged (vxTrap s.timed o false (vxWide o) 16) o.f (vxCmd (.amax o) o s) s
/-- AAND (R275). -/
def execAand (o : CfOp) (s : State) : Out := issueFlagged (vxTrap s.timed o false (vxWide o) 16) o.f (vxCmd (.aand o) o s) s
/-- AOR (R275). -/
def execAor (o : CfOp) (s : State) : Out := issueFlagged (vxTrap s.timed o false (vxWide o) 16) o.f (vxCmd (.aor o) o s) s
/-- AXOR (R275). -/
def execAxor (o : CfOp) (s : State) : Out := issueFlagged (vxTrap s.timed o false (vxWide o) 16) o.f (vxCmd (.axor o) o s) s
/-- AXCHG (R275). -/
def execAxchg (o : CfOp) (s : State) : Out := issueFlagged (vxTrap s.timed o false (vxWide o) 16) o.f (vxCmd (.axchg o) o s) s
/-- ACAS (R275). -/
def execAcas (o : CfOp) (s : State) : Out := issueFlagged (vxTrap s.timed o false (vxWide o) 16) o.f (vxCmd (.acas o) o s) s
/-- AFADD.f32 (R276). -/
def execAfaddF32 (o : CfOp) (s : State) : Out := issueFlagged (vxTrap s.timed o false false 16) o.f (vxCmd (.afaddF32 o) o s) s

end Sys2Proof.Machine
end

