-- ==== Sys2Proof/Machine/Vertex.lean ====
section
/-!
DEFINITION. Vertex (R254-R281): its objects and where their records stand, phasers and passages, wait requests, the host
commands, and the commands of cores performed in the order of each object.
-/

namespace Sys2Proof.Machine

def State.vxOf (s : State) (d : Nat) : VertexUnit := if h : d < 8 then s.vertex.get ⟨d, h⟩ else s.vertex.get 0
def State.onVx (s : State) (d : Nat) (f : VertexUnit → VertexUnit) : State :=
  if h : d < 8 then { s with vertex := s.vertex.set d (f (s.vertex.get ⟨d, h⟩)) h } else s

/-! ### Records (R254, R259, R260) -/

/-- A phaser's record of 64 bytes. -/
def Phaser.toRec (p : Phaser) : BitVec 512 :=
  p.leave ++ p.join ++ p.modeHi ++ p.modeLo ++ p.ahead ++ p.arr ++ p.reg ++
    (p.resv ++ p.cluster ++ BitVec.ofBool p.broken ++ BitVec.ofBool p.deliv ++ p.scope ++ p.phase)

/-- The phaser that a record holds. -/
def Phaser.ofRec (r : BitVec 512) : Phaser :=
  { phase := r.extractLsb' 0 32, scope := r.extractLsb' 32 3, deliv := r.getLsbD 35, broken := r.getLsbD 36,
    cluster := r.extractLsb' 37 2, resv := r.extractLsb' 39 25, reg := r.extractLsb' 64 64, arr := r.extractLsb' 128 64,
    ahead := r.extractLsb' 192 64,
    modeLo := r.extractLsb' 256 64, modeHi := r.extractLsb' 320 64, join := r.extractLsb' 384 64,
    leave := r.extractLsb' 448 64 }

def ObjKind.toRec : ObjKind → BitVec 512
  | .free => 0
  | .sync w => w
  | .phaser p => p.toRec

/-- The same kind of object with another record. -/
def ObjKind.withRec (k : ObjKind) (r : BitVec 512) : ObjKind := match k with
  | .free => .free
  | .sync _ => .sync r
  | .phaser _ => .phaser (.ofRec r)

def VertexUnit.obj (u : VertexUnit) (n : Nat) : VObject := Store.get .reset u.objs n
def VertexUnit.setObj (u : VertexUnit) (n : Nat) (x : VObject) : VertexUnit :=
  { u with objs := Store.set .reset u.objs n x }

def ObjKind.isFree : ObjKind → Bool
  | .free => true
  | .sync _ => false
  | .phaser _ => false

/-- Records standing in SRAM (RESIDENT of R257). -/
def VertexUnit.resident (u : VertexUnit) : Nat :=
  (u.objs.filter fun x => !x.2.kind.isFree && !(u.moved.contains x.1)).length

/-- The record frames (R254). -/
def frames : Nat := 131072

/-- Where an object's record stands in the overflow area. -/
def VertexUnit.ovfAt (u : VertexUnit) (n : Nat) : Nat := u.ovfBase.toNat + 64 * n

/-- An object as it stands: from SRAM, or read from the overflow area; none where that consumes poison or meets an
uncorrectable error (R394, R395). -/
def State.readObj (s : State) (d n : Nat) : State × Option ObjKind :=
  let u := s.vxOf d
  let k := (u.obj n).kind
  if u.moved.contains n && !k.isFree then
    let x := s.homeRead (u.ovfAt n) 64
    (x.1, if x.2.2 then none else some (k.withRec (BitVec.ofNat 512 x.2.1)))
  else (s, if u.bad.contains n then none else some k)

/-- An object written where its record stands. -/
def State.writeObj (s : State) (d n : Nat) (k : ObjKind) : State :=
  let s1 := s.onVx d fun u => { u.setObj n { u.obj n with kind := k } with bad := u.bad.filter fun x => x != n }
  if (s.vxOf d).moved.contains n && !k.isFree then
    (s1.homeWrite ((s.vxOf d).ovfAt n) 64 (2 ^ 64 - 1) k.toRec.toNat).1
  else s1

/-! ### Phasers (R261-R263, R268-R271) -/

/-- The members that are not WAIT members. -/
def Phaser.signalling (p : Phaser) : BitVec 64 := p.reg &&& ~~~(p.modeLo &&& ~~~p.modeHi)

/-- The mode of a member: 0 SIG, 1 WAIT, 2 SW, 3 RECV. -/
def Phaser.mode (p : Phaser) (m : Nat) : Nat := (p.modeLo.getLsbD m).toNat + 2 * (p.modeHi.getLsbD m).toNat

/-- TRY_PASS: the phaser afterwards, and the phases that passed in order. A phase can pass twice in one step at most:
the second needs AHEAD, which the first has used up. -/
def tryPass : Nat → Phaser → List (BitVec 32) → Phaser × List (BitVec 32)
  | 0, p, l => (p, l)
  | n + 1, p, l =>
    if p.signalling ≠ 0 ∧ p.signalling &&& ~~~p.arr = 0 then
      let reg := (p.reg &&& ~~~p.leave) ||| p.join
      tryPass n { p with phase := p.phase + 1, reg := reg, arr := p.ahead &&& reg, ahead := 0, join := 0, leave := 0 }
        (l ++ [p.phase])
    else (p, l)

/-- ARRIVE: the phaser afterwards, the phases that passed, and the phase the arrival counted in. -/
def arrive (p : Phaser) (m : Nat) : Option (Phaser × List (BitVec 32) × BitVec 32) :=
  if !p.reg.getLsbD m || p.mode m == 1 then none
  else if !p.arr.getLsbD m then
    let x := tryPass 3 { p with arr := p.arr ||| BitVec.twoPow 64 m } []
    some (x.1, x.2, p.phase)
  else if !p.ahead.getLsbD m then
    let x := tryPass 3 { p with ahead := p.ahead ||| BitVec.twoPow 64 m } []
    some (x.1, x.2, p.phase + 1)
  else none

/-- The lowest member number in neither REG nor JOIN. -/
def Phaser.freeMember (p : Phaser) : Option Nat :=
  (List.range 64).find? fun m => !p.reg.getLsbD m && !p.join.getLsbD m

/-- PHREG (R268): the phaser with the new member, and its number. -/
def register (p : Phaser) (mode : Nat) : Option (Phaser × Nat) :=
  if mode = 3 ∧ !p.deliv then none
  else match p.freeMember with
    | none => none
    | some m =>
      let b := BitVec.twoPow 64 m
      let p1 := { p with modeLo := putBit p.modeLo m (mode % 2 == 1), modeHi := putBit p.modeHi m (decide (2 ≤ mode)) }
      some (if p.signalling = 0 then { p1 with reg := p1.reg ||| b } else { p1 with join := p1.join ||| b }, m)

/-- PHDROP (R269): the phaser afterwards and the phases that passed. -/
def dropMember (p : Phaser) (m : Nat) : Option (Phaser × List (BitVec 32)) :=
  let b := BitVec.twoPow 64 m
  if p.join.getLsbD m then some ({ p with join := p.join &&& ~~~b }, [])
  else if p.reg.getLsbD m && !p.leave.getLsbD m then
    let p1 := { p with leave := p.leave ||| b }
    if p.mode m ≠ 1 ∧ !p.arr.getLsbD m then some (tryPass 3 { p1 with arr := p1.arr ||| b } [])
    else some (p1, [])
  else none

/-- A flag reported to a task of this module; one of another module is told by a crossing. -/
def State.reportTo (s : State) (w : Option TaskRef) (x : Note) : State := match w with
  | none => s
  | some r => s.report r x

/-- Wait requests answered, all alike: SET at a passage, ERROR at a FREE or a BREAK. -/
def State.answer (s : State) (ok : Bool) : List WaitReq → State
  | [] => s
  | w :: l =>
    (s.reportTo w.who ⟨w.flag, ok, if ok then some w.scope else none, if ok then none else some ⟨w.op, 0, 0⟩⟩).answer ok l

/-- NOTIFY (R263): the requests for a phase of an object that has passed. -/
def State.notify (s : State) (d n : Nat) (q : BitVec 32) : State :=
  let hit := (s.vxOf d).waits.filter fun w => w.obj == n && w.phase == q
  (s.onVx d fun u => { u with waits := u.waits.filter fun w => !(w.obj == n && w.phase == q) }).answer true hit

/-- A phaser written back, and the phases that passed notified in order. -/
def State.putPhaser (s : State) (d n : Nat) (p : Phaser) (passed : List (BitVec 32)) : State :=
  passed.foldl (fun s q => s.notify d n q) (s.writeObj d n (.phaser p))

/-- The phase has already passed (R263). -/
def hasPassed (q phase : BitVec 32) : Bool := decide (2 ^ 31 ≤ (q - phase).toNat)

/-- A wait request accepted (R263): set at once, or held. -/
def State.request (s : State) (d : Nat) (p : Phaser) (w : WaitReq) : State :=
  if hasPassed w.phase p.phase then s.answer true [w]
  else s.onVx d fun u => { u with waits := u.waits ++ [w] }

/-- The pool of wait requests has room (R263). -/
def VertexUnit.poolRoom (u : VertexUnit) : Bool := decide (u.waits.length < 8192)

/-- A task on a core of this module lies in a phaser's scope (R261). -/
def inPhaserScope (p : Phaser) (d n : Nat) (lcluster : BitVec 2) : Bool :=
  if p.scope = 1 then decide (dieOf n = d) && lcluster == p.cluster
  else if p.scope = 2 then decide (dieOf n = d)
  else true

/-! ### Atomics (R275, R276) -/

/-- The new value of an n-bit atomic, by its opcode. -/
def atomicNew (op : BitVec 8) (signed : Bool) (n old a b : Nat) : Nat :=
  let sa : Int := if signed then signedElem n a else a
  let so : Int := if signed then signedElem n old else old
  if op = 0x28 then (old + a) % 2 ^ n
  else if op = 0x29 then (if sa < so then a else old)
  else if op = 0x2A then (if so < sa then a else old)
  else if op = 0x2B then old &&& a
  else if op = 0x2C then old ||| a
  else if op = 0x2D then old ^^^ a
  else if op = 0x2E then a
  else if op = 0x2F then (if old = a then b else old)
  else if op = 0x30 then
    (toF32 (rneF32 ((ofF32 (BitVec.ofNat 32 old)).add (ofF32 (BitVec.ofNat 32 a))))).toNat
  else if op = 0x27 then a
  else old

/-- The old value and the words after it, of an operation on a word or half. -/
def syncOp (w : BitVec 512) (op : BitVec 8) (wide signed : Bool) (word : Nat) (half : Bool) (a b : Nat) :
    Nat × BitVec 512 :=
  let n := if wide then 64 else 32
  let at' := 64 * word + (if half then 32 else 0)
  let old := w.toNat >>> at' % 2 ^ n
  let new := atomicNew op signed n old (a % 2 ^ n) (b % 2 ^ n)
  (old, BitVec.ofNat 512 (w.toNat - old <<< at' + (new % 2 ^ n) <<< at'))

/-! ### The order of the Vertex queue (R277) -/

def isPhaserOp : Instr → Bool
  | .phreg _ | .phdrop _ | .pharr _ | .phwait _ | .pharm _ | .phrd _ => true
  | _ => false

/-- The commands that are preceded by a release (R264). -/
def releases : Instr → Bool
  | .phdrop _ | .pharr _ | .pharm _ => true
  | _ => false

/-- Two handles name one object. -/
def sameObject (a b : Word) : Bool := hObj a == hObj b && hDie a == hDie b && hMod a == hMod b

/-- An earlier command of the Vertex queue that a command must wait for (R277). -/
def Untimed.vxBlocked (u : Untimed) (c : Cmd) : Bool :=
  u.queue.any fun x => decide (x.seq < c.seq) && x.eng == .vertex &&
    (sameObject x.a c.a || (isPhaserOp x.ins && isPhaserOp c.ins))

/-- The command may be performed: program order of its object and of its kind, its class (R100), and what its release
covers (R264). -/
def State.vxReady (s : State) (n : Nat) (c : Cmd) : Bool :=
  c.eng == .vertex && !((s.unAt n).vxBlocked c) && (isPhaserOp c.ins || s.clear n c.seq c.cls false) &&
    (!(releases c.ins) || s.settled n c.seq 0xFFFF)

/-- The scope of the release that a command on a phaser makes before it reaches Vertex, whatever becomes of it there (R102, R264);
0, which releases nothing, for a command without one. -/
def Phaser.releaseScope (p : Phaser) (i : Instr) (m : Nat) : Nat := match i with
  | .pharr _ | .pharm _ => p.scope.toNat
  | .phdrop _ => if p.arr.getLsbD m then 0 else p.scope.toNat
  | _ => 0

/-- A member that a wait request may be placed for (R271). -/
def Phaser.mayWait (p : Phaser) (m : Nat) : Bool := (p.reg.getLsbD m || p.join.getLsbD m) && p.mode m != 0

/-! ### Commands performed at their home (R262, R268-R278) -/

/-- The slot armed by PHARM `q`, if it has not been replaced. -/
def Untimed.armOf (u : Untimed) (q : Nat) : Option Arm :=
  (u.arms.toList.filterMap id ++ u.released).find? fun a => a.seq == q

/-- The arm of PHARM `q` changed or released. -/
def Untimed.onArm (u : Untimed) (q : Nat) (f : Arm → Option Arm) : Untimed :=
  { u with arms := u.arms.map fun a => a.bind fun x => if x.seq = q then f x else some x,
           released := u.released.filterMap fun x => if x.seq = q then f x else some x }

/-- An arm's arrival, with its wait request (R272 step 3). -/
def State.armArrive (s : State) (n : Nat) (a : Arm) (who : TaskRef) : State :=
  let d := hDie a.handle
  let x := s.readObj d (hObj a.handle)
  let failed : Note := ⟨a.flag, false, none, some ⟨0x24, 0, 0⟩⟩
  match x.2 with
  | some (.phaser p) =>
    if p.broken || ((x.1.vxOf d).obj (hObj a.handle)).gen != hGen a.handle then x.1.reportAt n failed
    else match arrive p a.member.toNat with
      | none => x.1.reportAt n failed
      | some (p1, passed, q) =>
        (x.1.putPhaser d (hObj a.handle) p1 passed).request d p1 ⟨hObj a.handle, q, some who, 0, a.flag, p.scope, 0x24⟩
  | _ => x.1.reportAt n failed

/-- An arm's arrival sent to its Vertex; where the crossing is refused the flag becomes ERROR (R278, R367). -/
def State.armSend (s : State) (n : Nat) (a : Arm) (who : TaskRef) : State :=
  if hMod a.handle = s.myMod.toNat then s.armArrive n a who
  else if s.mayReach (hMod a.handle) then s.crossTo (hMod a.handle) 1
  else s.reportAt n ⟨a.flag, false, none, some ⟨0x24, 0, 0⟩⟩

/-- A phaser command on a phaser `p` of this module, by a task in scope, its release made. None where it fails; the state is
otherwise the one after it, its flag and queue entry included. -/
def State.phaserOp (s : State) (n : Nat) (c : Cmd) (p : Phaser) (who : TaskRef) (words : BitVec 1024) : Option State :=
  let d := hDie c.a
  let o := hObj c.a
  let m := bits c.b.toNat 5 0
  match c.ins with
  | .phreg x =>
    match register p (vxMode x) with
    | none => none
    | some (p1, k) => some ((s.putPhaser d o p1 []).cmdResult n c x.f c.b.toNat 8 k words)
  | .phdrop x =>
    match dropMember p m with
    | none => none
    | some (p1, passed) => some ((s.putPhaser d o p1 passed).cmdDone n c.seq x.f none)
  | .pharr x =>
    if p.mode m = 1 ∨ p.mode m = 3 then none
    else match arrive p m with
      | none => none
      | some (p1, passed, q) =>
        let s1 := s.putPhaser d o p1 passed
        if p.mode m = 0 then some (s1.cmdDone n c.seq x.f none)
        else some ((s1.dropCmd n c.seq).request d p1 ⟨o, q, some who, 0, x.f, p.scope, opOf c.ins⟩)
  | .phwait x =>
    if p.mayWait (bits c.b.toNat 37 32) then
      some ((s.dropCmd n c.seq).request d p ⟨o, c.b.setWidth 32, some who, 0, x.f, p.scope, opOf c.ins⟩)
    else none
  | .pharm _ =>
    let s1 := s.dropCmd n c.seq
    match (s.unAt n).armOf c.seq with
    | none => some s1
    | some a =>
      if !(p.reg.getLsbD m || p.join.getLsbD m) || p.mode m != 3 then none
      else if (s.unAt n).released.contains a then
        some ((s1.onUn n fun u => u.onArm c.seq fun _ => none).armArrive n a who)
      else some (s1.onUn n fun u => u.onArm c.seq fun a => some { a with ok := true })
  | .phrd x => some (s.cmdResult n c x.f c.b.toNat 64 p.toRec.toNat words)
  | _ => none

/-- A sync-word command on an object's words. -/
def State.syncCmd (s : State) (n : Nat) (c : Cmd) (o : CfOp) (w : BitVec 512) (words : BitVec 1024) : State :=
  let wide := if opOf c.ins = 0x30 then false else vxWide o
  let x := syncOp w (opOf c.ins) wide (vxSigned o) (hWord c.a) (hHalf c.a) (c.img.toNat % 2 ^ 64) (c.img.toNat / 2 ^ 64)
  let s1 := s.writeObj (hDie c.a) (hObj c.a) (.sync x.2)
  if opOf c.ins = 0x27 then s1.cmdDone n c.seq o.f none
  else s1.cmdResult n c o.f c.b.toNat (if wide then 8 else 4) x.1 words

/-- A Vertex command fails (R278); a PHARM releases its slot, unless a re-arm has taken it, whose flag then stays. -/
def State.vxFail (s : State) (n : Nat) (c : Cmd) (f : BitVec 5) : State :=
  match c.ins with
  | .pharm _ =>
    if ((s.unAt n).armOf c.seq).isSome then
      (s.onUn n fun u => u.onArm c.seq fun _ => none).cmdFailed n c.seq f (opOf c.ins) 0 0
    else s.dropCmd n c.seq
  | _ => s.cmdFailed n c.seq f (opOf c.ins) 0 0

/-- The flag and the fields of a Vertex command. -/
def vxFields : Instr → Option CfOp
  | .phreg o | .phdrop o | .pharr o | .phwait o | .pharm o | .phrd o => some o
  | .swld o | .swst o | .aadd o | .amin o | .amax o | .aand o | .aor o | .axor o | .axchg o | .acas o | .afaddF32 o => some o
  | _ => none

/-- A command's release at a phaser's scope goes on, sector by sector (R98); once it is made the command reaches Vertex, where `f`
says what it does. -/
def State.releaseThen (s : State) (n : Nat) (c : Cmd) (scope : Nat) (words : BitVec 1024) (f : State → State) : State :=
  let x := s.fencePass n c 0xFFFF scope 1 words
  if x.2.isEmpty then f x.1 else x.1.onCmd n c.seq fun c => { c with prog := { c.prog with left := some x.2 } }

/-- The scope of the release that a command makes for the object record at its handle (R264): that of the phaser standing there. -/
def objScope (c : Cmd) : Option ObjKind → Nat
  | some (.phaser p) => p.releaseScope c.ins (bits c.b.toNat 5 0)
  | some (.sync _) | some .free | none => 0

/-- A command whose object is on this module (R262, R277, R278). A handle that names no object of its generation fails after the release
that the command's issue began, at the scope of the phaser that stands there; where none stands the release has no scope (log entry
35, DEDUCED). -/
def State.vxLocal (s : State) (n : Nat) (c : Cmd) (o : CfOp) (k : Task) (words : BitVec 1024) : State :=
  let d := hDie c.a
  let u := s.vxOf d
  let x := s.readObj d (hObj c.a)
  if u.objCount ≤ hObj c.a then s.vxFail n c o.f
  else if (u.obj (hObj c.a)).gen ≠ hGen c.a then x.1.releaseThen n c (objScope c x.2) words fun s => s.vxFail n c o.f
  else
    match x.2 with
    | some (.phaser p) =>
      x.1.releaseThen n c (p.releaseScope c.ins (bits c.b.toNat 5 0)) words fun s =>
        if !isPhaserOp c.ins || p.broken || !(inPhaserScope p d n k.lcluster) then s.vxFail n c o.f
        else (s.phaserOp n c p k.ref words).getD (s.vxFail n c o.f)
    | some (.sync w) => if isPhaserOp c.ins then x.1.vxFail n c o.f else x.1.syncCmd n c o w words
    | some .free => x.1.vxFail n c o.f
    | none => x.1.vxFail n c o.f

/-- The record of a phaser on another module that a PHRD of this one may read: its scope is the domain (R261), it is not BROKEN (R278),
its reserved bits are 0, and a RECV member it has only with DELIV (R260). -/
def awayRecord (r : BitVec 512) : BitVec 512 :=
  let p := Phaser.ofRec r
  { p with scope := 4, broken := false, resv := 0, deliv := p.deliv || p.reg &&& p.modeLo &&& p.modeHi != 0 }.toRec

/-- A command whose object is on another module of the rack ring (R279): the bytes that come back are free values, and so
is whether that Vertex could perform it (log entry 3, DESIGN CHOICE). A flag that a passage there sets comes back as a crossing. -/
def State.vxRemote (s : State) (n : Nat) (c : Cmd) (o : CfOp) (k : Task) (words : BitVec 1024) : State :=
  s.releaseThen n c (if releases c.ins then 4 else 0) words fun s =>
    let r := (s.crossTo (hMod c.a) 1).freshBool
    if !r.1 then r.2.vxFail n c o.f
    else
      let v := r.2.fresh
      match c.ins with
      | .phreg _ => v.2.cmdResult n c o.f c.b.toNat 8 (v.1.toNat % 64) words
      | .phrd _ => v.2.cmdResult n c o.f c.b.toNat 64 (awayRecord (v.1.setWidth 512)).toNat words
      | .phdrop _ | .swst _ => r.2.cmdDone n c.seq o.f none
      | .pharr _ | .phwait _ => r.2.dropCmd n c.seq
      | .pharm _ =>
        let s1 := r.2.dropCmd n c.seq
        match (r.2.unAt n).released.find? fun a => a.seq == c.seq with
        | some a => (s1.onUn n fun u => u.onArm c.seq fun _ => none).armSend n a k.ref
        | none => s1.onUn n fun u => u.onArm c.seq fun a => some { a with ok := true }
      | _ => v.2.cmdResult n c o.f c.b.toNat (if vxWide o && opOf c.ins != 0x30 then 8 else 4)
          (v.1.toNat % 2 ^ (if vxWide o && opOf c.ins != 0x30 then 64 else 32)) words

/-- The phaser that a handle names on this module, as it stands, for a task of launch cluster `lc` on core `n` that may act on it. -/
def State.phaserFor (s : State) (n : Nat) (lc : BitVec 2) (h : Word) : Option Phaser :=
  match (s.readObj (hDie h) (hObj h)).2 with
  | some (.phaser p) =>
    if hObj h < (s.vxOf (hDie h)).objCount ∧ ((s.vxOf (hDie h)).obj (hObj h)).gen = hGen h ∧ p.broken = false ∧
        inPhaserScope p (hDie h) n lc = true then some p else none
  | some (.sync _) | some .free | none => none

/-- A command on an object of this module that creates a wait request stays in the queue while the pool is full (R263): an SW member's
arrival, a PHWAIT, and a PHARM whose arm has counted its bytes already. One that fails creates none. -/
def State.wantsRequest (s : State) (n : Nat) (c : Cmd) : Bool :=
  let m := bits c.b.toNat 5 0
  match (s.coreAt n).task.bind fun k => s.phaserFor n k.lcluster c.a with
  | none => false
  | some p => match c.ins with
    | .pharr _ => p.mode m == 2 && (arrive p m).isSome
    | .phwait _ => p.mayWait (bits c.b.toNat 37 32)
    | .pharm _ => p.mode m == 3 && (arrive p m).isSome && (s.unAt n).released.any fun a => a.seq == c.seq
    | _ => false

/-- A release at domain scope that a command on an object of this module asks for would cross while crossings are held (R379). -/
def State.vxReleaseHeld (s : State) (n : Nat) (c : Cmd) : Bool :=
  s.releaseHeld (dieOf n) && match (s.readObj (hDie c.a) (hObj c.a)).2 with
    | some (.phaser p) => p.releaseScope c.ins (bits c.b.toNat 5 0) == 4
    | some (.sync _) | some .free | none => false

/-- VERTEX_OPERATION is due: the command may be performed, and the pool and the crossing take it; or its result is landing. -/
def State.vxDue (s : State) (n : Nat) (c : Cmd) : Bool :=
  c.prog.parked.isSome || (s.vxReady n c && c.prog.backoff.isEmpty &&
    (if hMod c.a = s.myMod.toNat then
      (!(s.wantsRequest n c) || (s.vxOf (hDie c.a)).poolRoom) && !(s.vxReleaseHeld n c)
     else !s.trust.holds || (!(s.mayReach (hMod c.a)) && !(releases c.ins && s.releaseHeld (dieOf n)))))

/-- VERTEX_OPERATION (R277): command `seq` of core `core` performed whole. `words` names the sector that its release visits (R98) or
the words of its result that land (R25); all of them make the release and take the whole effect at once. -/
def execVertexOperation (core : Nat) (w : CmdWords 1024) (s : State) : Out :=
  match s.cmd? core w.seq, (s.coreAt core).task with
  | some c, some k =>
    match vxFields c.ins with
    | none => .next s
    | some o =>
      if !s.vxDue core c then .next s
      else .next (s.orLand core c w.words
        (if hMod c.a = s.myMod.toNat then s.vxLocal core c o k w.words
         else if s.mayReach (hMod c.a) then s.vxRemote core c o k w.words
         else s.releaseThen core c (if releases c.ins then 4 else 0) w.words fun s => s.vxFail core c o.f))
  | _, _ => .next s

/-- An arm's arrival may be sent: it finds a place in the pool of wait requests, or needs none (R263); or crossings are not held, or
this one would be refused (R367, R379). -/
def State.armFree (s : State) (n : Nat) (a : Arm) : Bool :=
  if hMod a.handle = s.myMod.toNat then
    (s.vxOf (hDie a.handle)).poolRoom || (match (s.coreAt n).task.bind fun k => s.phaserFor n k.lcluster a.handle with
      | none => true
      | some p => (arrive p a.member.toNat).isNone)
  else !s.trust.holds || !(s.mayReach (hMod a.handle))

/-- An arm's arrival travels on a ring: its Vertex is that of another die, or of another module that it may cross to. -/
def State.armFar (s : State) (n : Nat) (a : Arm) : Bool :=
  if hMod a.handle = s.myMod.toNat then dieOf n != hDie a.handle else s.mayReach (hMod a.handle)

/-- ARM_COMPLETE is due: arm slot `i` < 4 has counted its bytes; or the arm released `i` - 4 places after the oldest has passed its
check, and its arrival may be sent. -/
def State.armDue (s : State) (n i : Nat) : Option Arm :=
  if i < 4 then match (s.unAt n).arms.toList.getD i none with
    | none => none
    | some a => if a.n ≤ a.c then some a else none
  else match (s.unAt n).released[i - 4]? with
    | none => none
    | some a => if a.ok && s.armFree n a && !a.backoff then some a else none

/-- ARM_COMPLETE (R272): the slot is released and the arrival sent; it waits for the check of its PHARM, and until it may be sent. One
that travels arrives in a step of its own. -/
def execArmComplete (core arm : Nat) (s : State) : Out :=
  match s.armDue core arm, (s.coreAt core).task with
  | some a, some k =>
    let s1 := s.onUn core fun u => u.onArm a.seq fun _ => none
    if a.ok && s.armFree core a && (decide (4 ≤ arm) || !(s.armFar core a)) then .next (s1.armSend core a k.ref)
    else .next (s1.onUn core fun u => { u with released := u.released ++ [a] })
  | _, _ => .next s

/-! ### Records moved (R254) -/

/-- VERTEX_RECORD_MOVE: a record moved to the overflow area, or back where the frames have room and no poison is
consumed (R395). -/
def execVertexRecordMove (die obj : Nat) (s : State) : Out :=
  let u := s.vxOf die
  let k := (u.obj obj).kind
  let count := fun (u : VertexUnit) => { u with ovfMoves := satAdd48 u.ovfMoves 1 }
  if k.isFree ∨ u.objCount ≤ obj then .next s
  else if u.moved.contains obj then
    if frames ≤ u.resident then .next s
    else
      let x := s.readObj die obj
      match x.2 with
      | none => .next x.1
      | some k1 =>
        .next (x.1.onVx die fun u => count ({ u with moved := u.moved.filter fun n => n != obj }.setObj obj
          { u.obj obj with kind := k1 }))
  else
    if u.bad.contains obj then .next s
    else
      let s1 := (s.homeWrite (u.ovfAt obj) 64 (2 ^ 64 - 1) k.toRec.toNat).1
      .next (s1.onVx die fun u => count { u with moved := u.moved ++ [obj] })

/-! ### Host commands (R257, R258) -/

/-- The end of a host command: RES, and GENOUT for an object in range. -/
def State.vxRes (s : State) (die obj : Nat) (r : BitVec 4) : State :=
  s.onVx die fun u => { u with res := r, genOut := (u.obj obj).gen }

/-- CMD_ADDR may be used (R258). -/
def State.imageOk (s : State) (a : BitVec 52) (n : Nat) : Bool := decide (a.toNat % 64 = 0) && s.onModule a.toNat n

/-- The reserved and refused values of a phaser image (R260). -/
def phaserImageBad (r : BitVec 512) : Bool :=
  let p := Phaser.ofRec r
  decide (r.extractLsb' 39 25 ≠ 0#25) || p.broken || decide (p.arr ≠ 0) || decide (p.ahead ≠ 0) || decide (p.join ≠ 0) ||
  decide (p.leave ≠ 0) || decide (p.scope = 0) || decide (4 < p.scope.toNat) ||
  decide (p.reg &&& p.modeLo &&& p.modeHi ≠ 0 ∧ !p.deliv) || decide (p.scope = 1 ∧ p.cluster = 3)

/-- A new object takes a frame, or a place in the overflow area when the frames are full (R254). -/
def State.createObj (s : State) (die obj : Nat) (k : ObjKind) : State :=
  let s1 := if frames ≤ (s.vxOf die).resident then s.onVx die fun u => { u with moved := u.moved ++ [obj] } else s
  s1.writeObj die obj k

/-- The checks that INIT_SYNC, INIT_PHASER and READ share: the object's number, its state, CMD_ADDR. -/
def State.vxHost (s : State) (die obj : Nat) (allowed : ObjKind → Bool) (f : State → State) : Out :=
  let u := s.vxOf die
  if u.objCount ≤ obj then .next (s.vxRes die obj 2)
  else if !(allowed (u.obj obj).kind) then .next (s.vxRes die obj 3)
  else if !(s.imageOk u.cmdAddr 64) then .next (s.vxRes die obj 4)
  else .next (f s)

/-- INIT_SYNC (R258). -/
def execInitSync (die obj : Nat) (s : State) : Out :=
  s.vxHost die obj ObjKind.isFree fun s =>
    let x := s.homeRead (s.vxOf die).cmdAddr.toNat 64
    if x.2.2 then x.1.vxRes die obj 4
    else (x.1.createObj die obj (.sync (BitVec.ofNat 512 x.2.1))).vxRes die obj 0

/-- INIT_PHASER (R258, R260). -/
def execInitPhaser (die obj : Nat) (s : State) : Out :=
  s.vxHost die obj ObjKind.isFree fun s =>
    let x := s.homeRead (s.vxOf die).cmdAddr.toNat 64
    let r := BitVec.ofNat 512 x.2.1
    if x.2.2 || phaserImageBad r then x.1.vxRes die obj 4
    else (x.1.createObj die obj (.phaser (.ofRec r))).vxRes die obj 0

/-- READ (R258): a record that consumes poison cannot be read. -/
def execReadObject (die obj : Nat) (s : State) : Out :=
  s.vxHost die obj (fun k => !k.isFree) fun s =>
    let x := s.readObj die obj
    match x.2 with
    | none => x.1.vxRes die obj 4
    | some k => (x.1.homeWrite (s.vxOf die).cmdAddr.toNat 64 (2 ^ 64 - 1) k.toRec.toNat).1.vxRes die obj 0

/-- The arms of one core that name an object are released, and their flags become ERROR (R278). -/
def Core.failArms (c : Core) (names : Word → Bool) : Core :=
  let hit := (c.un.arms.toList.filterMap id ++ c.un.released).filter fun a => names a.handle
  let c1 := { c with un := { c.un with
    arms := c.un.arms.map fun a => a.bind fun x => if names x.handle then none else some x,
    released := c.un.released.filter fun x => !(names x.handle) } }
  hit.foldl (fun c a => c.report ⟨a.flag, false, none, some ⟨0x24, 0, 0⟩⟩) c1

/-- Held wait requests and arm slots on an object fail (R278). -/
def State.failWaits (s : State) (die obj : Nat) : State :=
  let hit := (s.vxOf die).waits.filter fun w => w.obj == obj
  let s1 := (s.onVx die fun u => { u with waits := u.waits.filter fun w => w.obj != obj }).answer false hit
  let names := fun h => hObj h == obj && hDie h == die && hMod h == s.myMod.toNat
  { s1 with cores := s1.cores.map fun c => c.failArms names }

/-- FREE (R258, R278). -/
def execFreeObject (die obj : Nat) (s : State) : Out :=
  let u := s.vxOf die
  if u.objCount ≤ obj then .next (s.vxRes die obj 2)
  else if (u.obj obj).kind.isFree then .next (s.vxRes die obj 3)
  else
    let s1 := s.failWaits die obj
    .next ((s1.onVx die fun u =>
      { u with moved := u.moved.filter fun n => n != obj }.setObj obj ⟨(u.obj obj).gen + 1, .free⟩).vxRes die obj 0)

/-- BREAK (R258, R278). -/
def execBreakPhaser (die obj : Nat) (s : State) : Out :=
  let u := s.vxOf die
  if u.objCount ≤ obj then .next (s.vxRes die obj 2)
  else match (u.obj obj).kind with
    | .phaser _ =>
      let x := s.readObj die obj
      match x.2 with
      | some (.phaser p) => .next (((x.1.writeObj die obj (.phaser { p with broken := true })).failWaits die obj).vxRes die obj 0)
      | some .free => .next x.1
      | some (.sync _) => .next x.1
      | none => .next (x.1.vxRes die obj 4)
    | .free => .next (s.vxRes die obj 3)
    | .sync _ => .next (s.vxRes die obj 3)

/-- VERTEX_BAD_COMMAND (R258): RES 1, no action. -/
def execVertexBadCommand (die : Nat) (op : BitVec 4) (_obj : Nat) (s : State) : Out :=
  if 1 ≤ op.toNat ∧ op.toNat ≤ 5 then .next s else .next (s.onVx die fun u => { u with res := 1 })

/-- Every object is FREE. -/
def VertexUnit.allFree (u : VertexUnit) : Bool := u.objs.all fun x => x.2.kind.isFree

/-- The overflow area that two register values describe breaks its alignment or home (R257). -/
def State.ovfBad (s : State) (die : Nat) (base : BitVec 52) (count : Nat) : Bool :=
  decide (count ≠ 0) && (decide (base.toNat % 65536 ≠ 0) || decide (base.toNat / 2 ^ 44 ≠ s.myMod.toNat * 16 + die) ||
    decide (2 ^ 36 < base.toNat % 2 ^ 44 + 64 * count))

/-- OVF_BASE_WRITE (R257). -/
def execOvfBaseWrite (die : Nat) (v : Word) (s : State) : Out :=
  let u := s.vxOf die
  if !u.allFree || s.ovfBad die (v.setWidth 52) u.objCount then .next (s.onVx die fun u => { u with cfgErr := true })
  else .next (s.onVx die fun u => { u with ovfBase := v.setWidth 52 })

/-- OBJ_COUNT_WRITE (R257): a count above 1,048,576 describes no area and is refused. -/
def execObjCountWrite (die : Nat) (v : Word) (s : State) : Out :=
  let u := s.vxOf die
  let n := bits v.toNat 20 0
  if !u.allFree || decide (1048576 < n) || s.ovfBad die u.ovfBase n then .next (s.onVx die fun u => { u with cfgErr := true })
  else .next (s.onVx die fun u => { u with objCount := n })

end Sys2Proof.Machine
end

