-- ==== Sys2Proof/Machine/CopyEngine.lean ====
section
/-!
DEFINITION. The copy engine (R92, R185-R200, R345-R352): the sector requests of a command, their answers, its later
pages, its end, and the end of a batch.
-/

namespace Sys2Proof.Machine

/-! ### Kinds of commands -/

/-- Commands that form sector requests from a descriptor. -/
def isTile : Instr → Bool
  | .tld _ | .tst _ | .tldm _ | .tldbp _ | .pref _ | .strem _ | .stremo _ => true
  | _ => false

/-- Commands that write a tile window (R198). -/
def writesWindow : Instr → Bool
  | .tld _ | .tldm _ | .tldbp _ | .wcopy _ | .wfill _ => true
  | _ => false

/-- Instructions that took their effect at issue and leave the queue at its head (R185). -/
def passesThrough : Instr → Bool
  | .wdecl _ | .wfree _ | .dset _ | .bclose _ | .bwait _ => true
  | _ => false

def isPref : Instr → Bool
  | .pref _ => true
  | _ => false
def isStremo : Instr → Bool
  | .stremo _ => true
  | _ => false
/-- PCNT and PWAIT wait for the remote stores before them (R351, R352). -/
def isPathWait : Instr → Bool
  | .pcnt _ | .pwait _ => true
  | _ => false
def isWriteTile : Instr → Bool
  | .tst _ | .strem _ | .stremo _ => true
  | _ => false

/-- K and PSTRIDE of a TLDBP (R192). -/
def bpOf : Instr → Option (Nat × Nat × Bool)
  | .tldbp o => some (bpK o.ext, bpStride o.ext, bpMid o.ext)
  | _ => none

/-! ### The next access of a command -/

/-- The bytes of one sector that a command asks for next: their offset in the segment, their location, how many, the
logical window byte (for TLDBP the byte within the plane), the run and the plane. -/
structure Piece where
  key : Nat
  n : Nat
  woff : Int
  run : Nat
  plane : Nat
deriving DecidableEq, Repr

/-- What a command's next access needs. -/
inductive NextAccess where
  | finished
  | page (va : Nat)
  | piece (p : Piece)
deriving DecidableEq, Repr

/-- Bytes that one run reads or writes. -/
def runBytes (c : Cmd) : Nat := match bpOf c.ins with
  | none => dRun c.img
  | some (k, _, _) => k * (dRun c.img / 8)

/-- The byte offset in its segment, the window byte and the plane of the next access, and the bytes left in a row. -/
def nextOffset (c : Cmd) : Int × Int × Nat × Nat :=
  let m := runMoff c.img c.cnt c.run
  let base : Int := capOffs c.a
  match bpOf c.ins with
  | none => (base + m + c.boff, runWoff c.img c.cnt c.run + c.boff, 0, dRun c.img - c.boff)
  | some (_, stride, _) =>
    let per := dRun c.img / 8
    let p := c.boff / per
    let j := c.boff % per
    (base + p * stride + m / 8 + j, j, p, per - j)

/-- R87, R193: the rights and bounds of a prefetch. -/
def prefAllowed (c : Cmd) (e : Seg) : Bool :=
  let x := byteSpan c.img c.cnt (capOffs c.a) none
  segHas e .rd && inSegment e x.1 x.2

/-- The next access of a command of core `n`. -/
def State.nextAccess (s : State) (n : Nat) (c : Cmd) : NextAccess :=
  match (s.coreAt n).task.bind fun k => k.seg (capIdx c.a) with
  | none => .finished
  | some e =>
    if runCount c.img ≤ c.run || (isPref c.ins && !(prefAllowed c e)) then .finished
    else
      let x := nextOffset c
      match placeOf e (capIdx c.a) (s.unAt n).tlb x.1.toNat (isWriteTile c.ins) with
      | none => .page (segBase e + x.1.toNat)
      | some key => .piece ⟨key, min x.2.2.2 (256 - key % 256), x.2.1, c.run, x.2.2.1⟩

/-- The command has formed every request it will. -/
def State.formed (s : State) (n : Nat) (c : Cmd) : Bool := s.nextAccess n c == .finished

/-- The position after `k` more bytes. -/
def Cmd.advance (c : Cmd) (k : Nat) : Cmd :=
  if c.boff + k < runBytes c then { c with boff := c.boff + k } else { c with run := c.run + 1, boff := 0 }

/-! ### What holds a request back -/

/-- Sector requests outstanding for a core (R185). -/
def Untimed.outstandingReqs (u : Untimed) : Nat := (u.queue.map fun c => c.reqs.length).foldl (· + ·) 0

/-- A sector write of a remote store, formed by a core of the die, that is not yet acknowledged (R347): from its forming on, while it
takes its window bytes too. -/
def State.sectorHeld (s : State) (die sector : Nat) : Bool :=
  (List.range 12).any fun k => (s.unAt (12 * die + k)).queue.any fun c =>
    isRemote c.ins && c.reqs.any fun r => r.key / 256 == sector

/-- A walk of the die's waits: a remote store of the die is writing a sector that it reads (R347). -/
def State.walkHeld (s : State) (die : Nat) (e : Seg) (off : Nat) : Bool :=
  (walkKeys e (segBase e + off) 4 s 1 (segRoot e)).any fun k => s.sectorHeld die (k / 256)

/-- Run `k` of a command, as far as it has not been asked for, touches a sector; the segment of a remote store is not pageable
(R345). -/
def Cmd.runTouches (c : Cmd) (e : Seg) (sector k : Nat) : Bool :=
  let done := if k = c.run then c.boff else 0
  match placeOf e (capIdx c.a) [] (capOffs c.a + runMoff c.img c.cnt k + done : Int).toNat true with
  | none => false
  | some a => decide (a / 256 ≤ sector) && decide (sector ≤ (a + (dRun c.img - done) - 1) / 256)

/-- A remote store of core `n` has yet to form a write to a sector. -/
def State.willWrite (s : State) (n : Nat) (c : Cmd) (sector : Nat) : Bool :=
  match (s.coreAt n).task.bind fun k => k.seg (capIdx c.a) with
  | none => false
  | some e => (List.range (runCount c.img)).any fun k => decide (c.run ≤ k) && c.runTouches e sector k

/-- A remote store of the same core and class before command `c` has yet to form its write to a sector: the later one's is not sent
before it (R347, R365). -/
def State.earlierWrite (s : State) (n : Nat) (c : Cmd) (sector : Nat) : Bool :=
  isRemote c.ins && (s.unAt n).queue.any fun x =>
    decide (x.seq < c.seq) && isRemote x.ins && x.cls == c.cls && x.stop == .run && s.willWrite n x sector

def CmdStop.isFault : CmdStop → Bool
  | .run => false
  | .fault _ _ => true
  | .failed _ _ => false

/-- Command `c` must wait for `x`: by its class or by a fence over it (R100, R101), as a fence itself, or as a PCNT or PWAIT for
the remote stores before it (R351, R352). -/
def Cmd.behind (c x : Cmd) : Bool :=
  (insOrdered c.ins && x.precedes c.seq c.cls (isRemote c.ins)) ||
    (decide (x.seq < c.seq) && ((insOrdered x.ins && (fenceMask c.ins).getLsbD x.cls.toNat) ||
      fenceMask c.ins &&& fenceMask x.ins != 0 || (isPathWait c.ins && isRemote x.ins)))

/-- The commands that a page fault stops, in queue order: those it stopped at an access, and those that wait for one of
them (R92, R198). -/
def stoppedBy : List Cmd → List Cmd → List Cmd
  | _, [] => []
  | held, c :: l =>
    if c.stop.isFault || held.any fun x => c.behind x then c :: stoppedBy (c :: held) l else stoppedBy held l

/-- What a save waits for (R52, R198, R265, R296, R325, R361): a command that writes a tile window, a Vertex or Lattice
command, a gather, a counter or a trust command, and an exchange command not yet accepted; XSTAT until it has answered. -/
def Cmd.awaited (c : Cmd) : Bool := match c.eng with
  | .vertex => true
  | .lattice => true
  | .none => false
  | .exchange => !c.prog.accepted
  | .copy => writesWindow c.ins || match c.ins with
    | .gbag _ | .gbagw _ | .grows _ | .gpref _ | .gstat _ | .gcntrd _ | .gcntclr _ | .gskrd _ | .pcnt _ | .pwait _
    | .tbarr _ | .tstat _ | .tepoch _ | .tlog _ => true
    | _ => false

/-- The home that a remote store writes to: that of its segment (R85). -/
def State.destOf (s : State) (n : Nat) (c : Cmd) : Option Home :=
  match (s.coreAt n).task.bind fun k => k.seg (capIdx c.a) with
  | none => none
  | some e => (placeOf e (capIdx c.a) [] (capOffs c.a) true).map fun k => s.home k

/-- The commands of a queue, in order, that a save lets go on (R52, R198): those it waits for that no page fault stops; those that
one of these must wait for; and the remote stores that a STREMO with sector writes in flight waits for at its destination (R350). -/
def neededFrom (dest : Cmd → Option Home) (stopped : List Cmd) : List Cmd → List Cmd
  | [] => []
  | c :: l =>
    let later := neededFrom dest stopped l
    if (c.awaited && !(stopped.any fun x => x.seq == c.seq)) || (later.any fun x => x.behind c) ||
        (isRemote c.ins && l.any fun x => isStremo x.ins && !x.reqs.isEmpty && x.cls == c.cls && dest x == dest c)
    then c :: later else later

/-- The numbers of the commands of core `n` that a save lets go on. -/
def State.neededAt (s : State) (n : Nat) : List Nat :=
  let q := (s.unAt n).queue
  (neededFrom (s.destOf n) (stoppedBy [] q) q).map (·.seq)

/-- While its task is saved, a command forms no more requests (R198), but for those that the save lets go on. -/
def State.stoppedForSave (s : State) (n : Nat) (c : Cmd) : Bool :=
  ((s.coreAt n).task.any fun k => k.phase == .evicting) && !((s.neededAt n).contains c.seq)

/-- A request leaves for its home on a path of the ring (R18, R342): not to the die's own stack or its own PBC. -/
def State.onRing (s : State) (die key : Nat) : Bool := !(s.ownStack die key) && s.home key != .lpddr die

/-- A prefetch fills the sector: the own stack's, or an INVALID one of the RDC; it makes no access to another (R193). -/
def State.prefFills (s : State) (die key : Nat) : Bool := s.ownStack die key || (s.sector die (key / 256)).isInvalid

/-- The path with the least SENT - DONE, the lowest on a tie (R348). -/
def Untimed.bestPath (u : Untimed) : Fin 4 :=
  (List.finRange 4).foldl (fun b p =>
    if (u.sent.get p - u.done.get p).toNat < (u.sent.get b - u.done.get b).toNat then p else b) 0

/-- An access of a command that is made now would not be refused (R196, R367): the sector write of a remote store on its path
(R348, R375). -/
def State.accessAllowed (s : State) (n : Nat) (c : Cmd) (key : Nat) : Bool :=
  s.mayLeave c.prog key (if isRemote c.ins then some (s.unAt n).bestPath.val else none)

/-- An access of a command to bytes of one sector crosses to another module: a remote store's always, a tile store's never, for it
goes into the RDC, any other's where the RDC does not serve it. -/
def State.accessCrosses (s : State) (n : Nat) (c : Cmd) (key k : Nat) : Bool :=
  s.isRemoteKey key &&
    if isRemote c.ins then true
    else if isPref c.ins then s.prefFills (dieOf n) key
    else !(isWriteTile c.ins) && !((s.sector (dieOf n) (key / 256)).serves (byteMask (key % 256) k))

/-- A request is due (R100, R101, R185, R347); one that crosses waits while crossings are held (R379), but one that is refused fails
at once. -/
def State.requestDue (s : State) (n : Nat) (c : Cmd) : Option Piece :=
  let die := dieOf n
  if c.eng != .copy || !isTile c.ins || c.stop != .run || s.stoppedForSave n c || (c.reqs.any fun r => r.stage == .window) ||
      !(s.clear n c.seq c.cls (isRemote c.ins)) || decide (2048 ≤ (s.unAt n).outstandingReqs) then none
  else match s.nextAccess n c with
    | .finished => none
    | .page _ => none
    | .piece p =>
      if s.sectorHeld die (p.key / 256) || s.earlierWrite n c (p.key / 256) ||
          (s.trust.holds && s.accessCrosses n c p.key p.n && s.accessAllowed n c p.key) then none
      else some p

/-! ### Failures (R196) -/

/-- A command stops at an access: no later one performs (R196). -/
def Cmd.cut (c : Cmd) (id run : Nat) (faddr : BitVec 52) : Cmd :=
  { c with stop := .failed run faddr, reqs := c.reqs.filter fun r => decide (r.id < id) }

/-- Sector writes sent on a path are counted when acknowledged or failed (R348). -/
def Untimed.countDone (u : Untimed) (l : List Req) : Untimed :=
  l.foldl (fun u r => match r.path with
    | none => u
    | some p => { u with done := u.done.set p.val (u.done.get p + 1) p.isLt }) u

/-- Command `q` of core `n` fails at request `r` (R196). -/
def State.failAt (s : State) (n q : Nat) (r : Req) (faddr : BitVec 52) : State :=
  s.onUn n fun u =>
    let late := match u.cmd? q with
      | none => []
      | some c => c.reqs.filter fun x => !(decide (x.id < r.id))
    (u.countDone late).onCmd q fun c => c.cut r.id r.run faddr

/-! ### SECTOR_REQUEST_ISSUE -/

/-- The request of a command by its number. -/
def Cmd.req? (c : Cmd) (r : Nat) : Option Req := c.reqs.find? fun x => x.id == r
def Cmd.onReq (c : Cmd) (r : Nat) (f : Req → Req) : Cmd :=
  { c with reqs := c.reqs.map fun x => if x.id = r then f x else x }

/-- A new request of a command. -/
def newReq (c : Cmd) (p : Piece) (st : ReqStage) (data : Nat) : Req :=
  { id := c.nreq, key := p.key, bytes := p.n, woff := p.woff, mask := byteMask (p.key % 256) p.n, run := p.run, plane := p.plane,
    write := isWriteTile c.ins, data := BitVec.ofNat 2048 data, did := 0, landed := 0, stage := st, poison := 0, tries := 0,
    path := none }

/-- The command with a request added. -/
def Cmd.addReq (c : Cmd) (p : Piece) (r : Req) : Cmd :=
  { c.advance p.n with nreq := c.nreq + 1, reqs := c.reqs ++ [r] }

/-- The stage a request starts in. -/
def State.firstStage (s : State) (die key : Nat) : ReqStage := if s.onRing die key then .ring else .home

/-- A read: one that the RDC serves is performed there in its turn, any other goes to the home (R97, R100). -/
def State.formRead (s : State) (n : Nat) (c : Cmd) (p : Piece) : State :=
  let die := dieOf n
  let here := !s.ownStack die p.key && (s.sector die (p.key / 256)).serves (byteMask (p.key % 256) p.n)
  s.onCmd n c.seq fun c => c.addReq p (newReq c p (if here then .rdc else s.firstStage die p.key) 0)

/-- A prefetch that fills a sector (R193): the own stack's into the L2, an INVALID one into the RDC. -/
def State.formPref (s : State) (n : Nat) (c : Cmd) (p : Piece) : State :=
  s.onCmd n c.seq fun c => c.addReq p (newReq c p (s.firstStage (dieOf n) p.key) 0)

/-- A tile store whose window bytes have been read (R97, R190): to the own stack, or into the RDC. -/
def State.sendStore (s : State) (n : Nat) (c : Cmd) (r : Req) (v : BitVec 2048) : State :=
  s.onCmd n c.seq fun c => c.onReq r.id fun r =>
    { r with data := v, did := 0, stage := if s.ownStack (dieOf n) r.key then .home else .rdc }

/-- A sector write of a remote store whose window bytes have been read (R346-R348): the RDC's dirty bytes of the sector travel with
it, poison with them (R394), and the sector takes its replacement transition. -/
def State.sendRemote (s : State) (n : Nat) (c : Cmd) (r : Req) (v : BitVec 2048) : State :=
  let die := dieOf n
  let sec := r.key / 256
  let x := s.sector die sec
  let m := byteMask (r.key % 256) r.bytes
  let data := mergeBytes x.data (BitVec.ofNat 2048 (v.toNat <<< (8 * (r.key % 256)))) m
  let path := if s.onRing die r.key then some (s.unAt n).bestPath else none
  let st := if s.onRing die r.key then .ring else if isStremo c.ins then .held else .home
  let s1 := s.setSector die sec .invalid
  let s2 := s1.onUn n fun u => match path with
    | none => u
    | some q => { u with sent := u.sent.set q.val (u.sent.get q + 1) q.isLt }
  s2.onCmd n c.seq fun c => c.onReq r.id fun r =>
    { r with key := sec * 256, bytes := 256, mask := m ||| x.dirty, data := data, did := 0, stage := st, path := path,
             poison := x.poison &&& touchedGranules x.dirty &&& ~~~(fullGranules m) }

/-- Every word of a piece is in a mask. -/
def fullPiece (words : BitVec 64) (k : Nat) : Bool := (List.range ((k + 3) / 4)).all words.getLsbD

/-- `k` bytes of a number replaced by those of another under a mask of words. -/
def mergeWords (old new : BitVec 2048) (words : BitVec 64) (k : Nat) : BitVec 2048 :=
  mergeBytes old new (BitVec.ofNat 256 (bytesOfWords words k))

/-- A write whose window bytes are all read sets out: a tile store to the own stack or into the RDC; a remote store's sector write to
its home, unless its crossing is refused now (R367, R381), and while crossings are held not at all (R379). -/
def State.sendWrite (s : State) (n : Nat) (c : Cmd) (r : Req) (v : BitVec 2048) : State :=
  if !(isRemote c.ins) then s.sendStore n c r v
  else if !(s.accessAllowed n c r.key) then s.onCmd n c.seq fun c => c.cut r.id r.run 0
  else if s.trust.holds && s.isRemoteKey r.key then s
  else s.sendRemote n c r v

/-- The words of the window that the bytes of a request lie in: word `i` goes by bit i mod 64 of its masks. -/
def Cmd.winPieces (c : Cmd) (r : Req) : List (Nat × Nat) := match c.win with
  | none => []
  | some w => w.wordsIn r.woff.toNat r.bytes

/-- The bytes of words of a list that a mask names. -/
def pieceMask (words : BitVec 64) (l : List (Nat × Nat)) : BitVec 256 :=
  l.zipIdx.foldl (fun m x => if words.getLsbD (x.2 % 64) then m ||| byteMask x.1.1 x.1.2 else m) 0

/-- The words `words` of the window bytes that a write carries are read (R25, R190); with the last of them it sets out. A word that
goes on in the next request is carried by both as the first one reads it (log entry 71, DEDUCED). An uncorrectable error in the bytes
fails the command (R397). -/
def State.captureWords (s : State) (n : Nat) (c : Cmd) (r : Req) (words : BitVec 64) : State :=
  let l := r.woff.toNat
  let ws := c.winPieces r
  if s.winMarked n c.win l r.bytes then s.onCmd n c.seq fun c => c.cut r.id r.run 0
  else
    let x := s.carry n c.win l r.bytes c.prog.held
    let v := mergeBytes r.data (BitVec.ofNat 2048 x.1) (pieceMask (words &&& ~~~r.did) ws)
    let did := r.did ||| words
    let last := (words &&& ~~~r.did).getLsbD ((ws.length - 1) % 64)
    let kept := (if last then x.2 else c.prog.held).filter fun h => decide (l + r.bytes ≤ h.at') && decide (h.at' < l + r.bytes + 4)
    let keep := fun (kept : List HeldByte) => s.onCmd n c.seq fun c => { c with prog := { c.prog with held := kept } }
    let s1 := keep (kept ++ c.prog.held.filter fun h => decide (h.at' < l + r.bytes))
    let s2 := keep kept
    if (List.range ws.length).all fun i => did.getLsbD (i % 64) then s2.sendWrite n c r v
    else s1.onCmd n c.seq fun c => c.onReq r.id fun r => { r with data := v, did := did }

/-- A write: its request, and the first words of its window bytes. -/
def State.formWrite (s : State) (n : Nat) (c : Cmd) (p : Piece) (words : BitVec 64) : State :=
  let r := newReq c p .window 0
  (s.onCmd n c.seq fun c => c.addReq p r).captureWords n c r words

/-- The peer that homes an access taken by its command (R354). -/
def State.reaches (s : State) (n q key : Nat) : State := s.onCmd n q fun c => { c with prog := c.prog.takePeer s key }

/-- The request for a piece formed. An access whose crossing would be refused fails at this moment (R196, R367). -/
def State.formPiece (s : State) (n : Nat) (c : Cmd) (p : Piece) (words : BitVec 64) : State :=
  if isPref c.ins && !(s.prefFills (dieOf n) p.key) then s.onCmd n c.seq fun c => c.advance p.n
  else if !(s.accessAllowed n c p.key) then s.onCmd n c.seq fun c => c.cut c.nreq p.run 0
  else
    let s1 := s.reaches n c.seq p.key
    if isPref c.ins then s1.formPref n c p
    else if isWriteTile c.ins then s1.formWrite n c p words
    else s1.formRead n c p

/-- SECTOR_REQUEST_ISSUE (R185): the next request of command `seq` of core `core` is formed, or the words `words` of the window
bytes that its last one carries are read. -/
def execSectorRequestIssue (core : Nat) (w : CmdWords 64) (s : State) : Out :=
  match s.cmd? core w.seq with
  | none => .next s
  | some c =>
    match c.reqs.find? fun r => r.stage == .window with
    | some r => .next (s.captureWords core c r w.words)
    | none =>
      match s.requestDue core c with
      | none => .next s
      | some p => .next (s.formPiece core c p w.words)

/-! ### At the home (R333, R346) -/

/-- The parity of a number of 44 bits. -/
def parity44 (x : Nat) : Nat := (List.range 44).foldl (fun p i => p + x >>> i % 2) 0 % 2

/-- The pseudo-channel of a local address of an HBM4 stack (R202). -/
def pseudoChannel (h : Hbm) (a : Nat) : Nat :=
  (List.finRange 6).foldl (fun p i => p + parity44 (a &&& (h.hashA.get i).toNat) * 2 ^ i.val) 0

def State.onHbm (s : State) (n : Nat) (f : Hbm → Hbm) : State :=
  if h : n < 8 then { s with hbm := s.hbm.set n (f (s.hbm.get ⟨n, h⟩)) h } else s

/-- A sector request of a copy engine reaches its slice: PCREQ counts it (R203), and the L2 holds the sector. -/
def State.countSlice (s : State) (key : Nat) : State :=
  match s.home key with
  | .hbm d =>
    let s1 := s.onHbm d fun h =>
      let p := pseudoChannel h (key % 2 ^ 44)
      { h with pcreq := Store.set 0 h.pcreq p (satAdd48 (Store.get 0 h.pcreq p) 1) }
    if h : d < 8 then { s1 with l2 := s1.l2.set d (Store.set false (s1.l2.get ⟨d, h⟩) (key / 256) true) h } else s1
  | .lpddr _ | .host | .module _ _ | .peer _ | .nowhere => s

/-- The memory port refuses a KIND HOST or KIND PEER access, or not: a free value (R86, R88; log entry 3, DESIGN CHOICE). -/
def State.portRefuses (s : State) (key : Nat) : Bool × State := match s.home key with
  | .host => s.freshBool
  | .peer _ => s.freshBool
  | .nowhere => (true, s)
  | .hbm _ | .lpddr _ | .module _ _ => (false, s)

/-- The bytes of a write's piece that have not been written, one bit a byte. -/
def Cmd.todo (c : Cmd) (r : Req) : Nat :=
  let all := if isRemote c.ins then r.mask.toNat else 2 ^ r.bytes - 1
  if r.did = 0 then all else all &&& bytesOfWords (~~~r.did) r.bytes

/-- The words of a write that may go together: a poisoned granule that the write covers goes whole, so that it is poisoned no more
(R392). `bad` says which granules of the sector are poisoned. -/
def wholeGranules (bad : Nat → Bool) (key todo : Nat) (words : BitVec 64) : BitVec 64 :=
  (List.range 8).foldl (fun w g =>
    let m := byteMask (key % 256) 0 ||| BitVec.ofNat 256 (todo <<< (key % 256))
    let mine := (List.range 64).filter fun i => decide ((key % 256 + 4 * i) / 32 = g)
    if bad g && (fullGranules m).getLsbD g && mine.any words.getLsbD then mine.foldl (fun w i => w ||| BitVec.twoPow 64 i) w else w) words

/-- The request once the words `words` of it have performed, with the data read; `left` is where the rest of it goes on. -/
def Req.performed (r : Req) (words : BitVec 64) (v : BitVec 2048) (left : ReqStage) : Req :=
  { r with data := v, did := r.did ||| words, stage := if fullPiece (r.did ||| words) r.bytes then .done else left }

/-- The words `words` of a read performed by the RDC, or at the home, from where the sector is filled (R95, R97): where it is not valid
yet, the step takes those words of the sector, and the read goes on. -/
def State.performRead (s : State) (n : Nat) (c : Cmd) (r : Req) (words : BitVec 64) : State :=
  let die := dieOf n
  let x := s.dieRead die r.key r.bytes
  let f := s.fillPart die (r.key / 256) words
  if s.fillsPart die r.key r.bytes (words == BitVec.allOnes 64) then
    (if f.2 then f.1.failAt n c.seq r (s.readGranule die r.key r.bytes) else f.1)
  else if x.2.2 then x.1.failAt n c.seq r (s.readGranule die r.key r.bytes)
  else
    let v := mergeWords r.data (BitVec.ofNat 2048 x.2.1) (words &&& ~~~r.did) r.bytes
    x.1.onCmd n c.seq fun c => c.onReq r.id fun r =>
      r.performed words (if r.did = 0 ∧ words = BitVec.allOnes 64 then BitVec.ofNat 2048 x.2.1 else v)
        (if s.ownStack die r.key then .home else .rdc)

/-- The words `words` of a tile store written into the RDC (R97). -/
def State.performRdcWrite (s : State) (n : Nat) (c : Cmd) (r : Req) (words : BitVec 64) : State :=
  let die := dieOf n
  let sec := r.key / 256
  let w := wholeGranules (s.sector die sec).poison.getLsbD r.key (c.todo r) words
  let s1 := (s.dieWrite die r.key r.bytes (if words = BitVec.allOnes 64 then c.todo r else c.todo r &&& bytesOfWords w r.bytes)
    r.data.toNat).1
  (s1.noteWriter die sec n c.cls).onCmd n c.seq fun c => c.onReq r.id fun r => r.performed w r.data .rdc

/-- The words `words` of a write performed at its home (R333, R346): where a bin applied first consumes poison the access fails and
writes nothing (R395). -/
def State.performWrite (s : State) (n : Nat) (c : Cmd) (r : Req) (words : BitVec 64) : State :=
  let w := wholeGranules (fun g => s.poisonAt (r.key / 256 * 256 + 32 * g) 32) r.key (c.todo r) words
  if !s.isRemoteKey r.key && (s.touch r.key r.bytes).2 then
    (s.touch r.key r.bytes).1.failAt n c.seq r (s.abandonedGranule r.key r.bytes)
  else
    let s1 := (s.homeWrite r.key r.bytes (if words = BitVec.allOnes 64 then c.todo r else c.todo r &&& bytesOfWords w r.bytes)
      r.data.toNat).1
    let s2 := if fullPiece (r.did ||| w) r.bytes then (if isRemote c.ins then (s1.poisonSector (r.key / 256) r.poison).crossOn r.key
      (r.path.map fun p => p.val) else s1) else s1
    s2.onCmd n c.seq fun c => c.onReq r.id fun r => r.performed w r.data r.stage

/-- The module that a request in flight goes to has left the rack ring (R404). -/
def State.gone (s : State) (key : Nat) : Bool := match s.home key with
  | .module m _ => !s.inRack m
  | .hbm _ | .lpddr _ | .host | .peer _ | .nowhere => false

/-- A prefetch performed at its home: the own stack's sector into the L2, any other into the RDC (R193), or the words of a mask of it. -/
def State.performPref (s : State) (n : Nat) (c : Cmd) (r : Req) (words : BitVec 64) : State :=
  let die := dieOf n
  if s.fillsPart die r.key r.bytes (words == BitVec.allOnes 64) then (s.fillPart die (r.key / 256) words).1
  else
  let s1 := if s.ownStack die r.key then (s.touch r.key r.bytes).1 else (s.fillSector die (r.key / 256)).1
  s1.onCmd n c.seq fun c => c.onReq r.id fun r => { r with stage := .done, data := 0 }

/-- The words `words` of a request performed: by the RDC, or at its home, where it is counted once and the memory port may refuse
it (R86, R88, R203). A request that the RDC no longer serves sets out for the home, but not while crossings are held (R379). -/
def State.performAt (s : State) (n : Nat) (c : Cmd) (r : Req) (words : BitVec 64) : State :=
  let die := dieOf n
  if (if r.stage == .rdc then !s.mayLeave c.prog r.key none else s.gone r.key) then s.failAt n c.seq r 0
  else if r.stage == .rdc && !r.write && !((s.sector die (r.key / 256)).serves (byteMask (r.key % 256) r.bytes)) then
    if s.trust.holds && s.isRemoteKey r.key then s
    else s.onCmd n c.seq fun c => c.onReq r.id fun r => { r with stage := s.firstStage die r.key }
  else
    let s0 := if r.stage == .rdc || r.did != 0 then s else s.countSlice r.key
    let pr := if r.did != 0 || (r.stage == .rdc && !r.write) then (false, s0) else s0.portRefuses r.key
    if pr.1 then pr.2.failAt n c.seq r 0
    else if isPref c.ins then pr.2.performPref n c r words
    else if !r.write then pr.2.performRead n c r words
    else if r.stage == .rdc then pr.2.performRdcWrite n c r words
    else pr.2.performWrite n c r words

/-- The request is the first of its command that has not performed: the accesses of a command perform in its own order
(R196), but the sector writes of a remote store in any (R349). -/
def Cmd.isFirst (c : Cmd) (r : Req) : Bool :=
  isRemote c.ins || !(c.reqs.any fun x => decide (x.id < r.id) && x.stage != .done)

/-- An access at its home, or in the RDC, is due; one of the issuing die's to a sector that a remote store is writing is held
(R347). -/
def State.homeDue (s : State) (n q rq : Nat) : Option (Cmd × Req) :=
  match s.cmd? n q with
  | none => none
  | some c =>
    match c.req? rq with
    | none => none
    | some r =>
      if (r.stage == .home || r.stage == .rdc) && c.isFirst r && (isRemote c.ins || !(s.sectorHeld (dieOf n) (r.key / 256)))
      then some (c, r) else none

/-- An access from outside to the bytes of one sector (R94): an address that no memory has. -/
def State.outsideMissing (s : State) (key n : Nat) : Bool := match s.home key with
  | .hbm u => decide (unitSize u < key % 2 ^ 44 + n)
  | .lpddr u => decide (unitSize (8 + u) < key % 2 ^ 44 + n)
  | .host => false
  | .module _ _ => true
  | .peer _ => true
  | .nowhere => true

/-- HOME_ACCESS (R333). A request from outside that a copy engine sends is counted at its slice, as a core's is (R203). -/
def execHomeAccess (a : HomeReq) (s : State) : Out :=
  match a with
  | .core n q rq words =>
    match s.homeDue n q rq with
    | none => .next s
    | some (c, r) => .next (s.performAt n c r words)
  | .outside key n write copy data =>
    let s1 := if copy then s.countSlice key else s
    if s.outsideMissing key n then .fault (.noSuchAddress key)
    else if write then .next (s1.homeWrite key n (2 ^ n - 1) data.toNat).1
    else .next (s1.homeRead key n).1

/-- A held STREMO sector write is due: every earlier remote store of the core, of its class and to its destination, has
performed (R350). -/
def State.stremoDue (s : State) (n q rq : Nat) : Option (Cmd × Req) :=
  match s.cmd? n q with
  | none => none
  | some c =>
    match c.req? rq with
    | none => none
    | some r =>
      let dest := s.home r.key
      let early := (s.unAt n).queue.any fun x => decide (x.seq < q) && isRemote x.ins && x.cls == c.cls &&
        s.destOf n x == some dest && ((x.reqs.any fun y => y.stage != .done) || (x.stop == .run && !(s.formed n x)))
      if r.stage == .held && !early then some (c, r) else none

/-- STREMO_RELEASE (R350). -/
def execStremoRelease (core seq req : Nat) (s : State) : Out :=
  match s.stremoDue core seq req with
  | none => .next s
  | some (c, r) => .next (s.performAt core c r (BitVec.allOnes 64))

/-! ### On the ring (R343) -/

/-- A request of this module reaches its destination station: taken in, or refused twice and answered with a NACK. -/
def State.slotArrives (s : State) (n q rq : Nat) (nack : Bool) : State :=
  match (s.cmd? n q).bind fun c => c.req? rq with
  | none => s
  | some r =>
    if r.stage != .ring then s
    else if nack then
      if 15 ≤ r.tries then s.failAt n q r 0
      else s.onCmd n q fun c => c.onReq rq fun r => { r with stage := .backoff, tries := r.tries + 1 }
    else s.onCmd n q fun c => c.onReq rq fun r => { r with stage := if isStremo c.ins then .held else .home }

/-! ### Answers (R25, R190-R192) -/

/-- The cores that receive a command's bytes (R191): the issuing core, or those of a TLDM's mask. -/
def receivers (n : Nat) (i : Instr) : List Nat := match i with
  | .tldm o => ((List.range 12).filter fun k => o.ext.getLsbD k).map fun k => dieOf n * 12 + k
  | _ => [n]

/-- The window of core `m` that bytes from core `n` go to: the one captured at issue, or for a TLDM the receiver's own
declaration as it stands (R191). -/
def State.receiverWin (s : State) (m : Nat) (c : Cmd) : Option Window := match c.ins with
  | .tldm o => s.openWin m o.w
  | _ => c.win

/-- One aligned word of a piece written at a receiver, from logical byte `l` on. The answer says whether bytes were discarded: those
outside the logical size, on either side (R191). -/
def State.landWord (s : State) (m : Nat) (c : Cmd) (l : Int) (v : Nat) : State × Bool :=
  match s.receiverWin m c with
  | none => (s, true)
  | some w =>
    let k := if l < 0 then 0 else min 4 (w.size - l.toNat)
    let s1 := s.winWriteAt m (some w) l.toNat k v
    match c.ins with
    | .tldm o => (s1.countArm m o.w k, decide (k < 4))
    | _ => (s1, false)

/-- Four bytes of a piece held back for a receiver whose words they may not fill; those before its first byte are discarded. -/
def State.holdWord (s : State) (n q m run : Nat) (l : Int) (v : Nat) : State × Bool :=
  let out := (-l).toNat
  (s.onCmd n q fun c => { c with prog := { c.prog with
    held := holdBytes m run (l.toNat) (v >>> (8 * out)) (4 - out) c.prog.held } }, decide (0 < out))

/-- The window of a receiver that counts toward its arm slot (R272). -/
def armWindow : Instr → Option (BitVec 5)
  | .tldm o => some o.w
  | _ => none

/-- The words that bytes of a command held back fill land, or all of those bytes. A byte that is discarded is noted with its run. -/
def State.landWaiting (s : State) (n q m : Nat) (all : Bool) (pick : Nat → Bool) : State :=
  match s.cmd? n q with
  | none => s
  | some c =>
    let x := s.landHeld m (s.receiverWin m c) (armWindow c.ins) all pick c.prog.held
    x.1.onCmd n q fun c => { c with prog := { c.prog with
      held := x.2.held
      act := if c.prog.act = 0 then (x.2.lost.elim 0 fun r => r + 1) else c.prog.act } }

/-- The words `words` of a piece at every receiver. -/
def State.landWords (s : State) (n : Nat) (c : Cmd) (r : Req) (words : BitVec 1024) : State × Bool :=
  (receivers n c.ins).foldl (fun x m =>
    let odd := (x.1.receiverWin m c).any Window.odd
    let y := (List.range (r.bytes / 4)).foldl (fun (y : State × Bool) i =>
      if words.getLsbD i && !(r.landed.getLsbD i) then
        let l := r.woff + 4 * i
        let v := r.data.toNat >>> (32 * i) % 2 ^ 32
        let z := if odd then y.1.holdWord n c.seq m r.run l v else y.1.landWord m c l v
        (z.1, y.2 || z.2)
      else y) x
    if odd then (y.1.landWaiting n c.seq m false fun _ => true, y.2) else y) (s, false)

/-- BPN_ELEMENT (R63), from the bits of element `i` in each plane. -/
def bpnElement (plane : Nat → Nat → Bool) (i k : Nat) (mid : Bool) : Nat :=
  (List.range k).foldl (fun q p => q + if plane p i then 2 ^ (7 - p) else 0)
    (if mid && decide (k < 8) then 2 ^ (7 - k) else 0)

/-- The bit of element `i` in plane `p`, among the answered requests of a run. -/
def planeBit (l : List Req) (p i : Nat) : Bool :=
  match l.find? fun r => r.plane == p && decide (r.woff.toNat ≤ i / 8) && decide (i / 8 < r.woff.toNat + r.bytes) with
  | none => false
  | some r => r.data.getLsbD (8 * (i / 8 - r.woff.toNat) + i % 8)

/-- A run of a TLDBP that will not be written: its command failed in it or before it (R196). -/
def Cmd.runLost (c : Cmd) (run : Nat) : Bool := match c.stop with
  | .failed k _ => decide (k ≤ run)
  | .run | .fault _ _ => false

/-- Every request of a run has been formed and has performed; of a run that is lost, those that were formed. -/
def Cmd.runDone (c : Cmd) (run : Nat) : Bool :=
  (decide (run < c.run) || c.runLost run) && (c.reqs.all fun r => r.run != run || r.stage == .done)

/-- Words of the bytes of TLDBP's run written, one INT8 byte an element (R192), its requests done with after the last of them; those
of a run that is lost go without a trace. In a window with shorter words the run's bytes are held back until its words are filled. -/
def State.landRun (s : State) (n : Nat) (c : Cmd) (run k : Nat) (mid : Bool) (words : BitVec 1024) : State :=
  let mine := c.reqs.filter fun r => r.run == run
  let len := dRun c.img
  let v := (List.range len).foldl (fun x i => x + bpnElement (planeBit mine) i k mid <<< (8 * i)) 0
  let was := (mine.head?.map (·.landed)).getD 0
  let drop := fun (s : State) => s.onCmd n c.seq fun c => { c with reqs := c.reqs.filter fun r => r.run != run }
  let l := (runWoff c.img c.cnt run).toNat
  if c.runLost run then drop s
  else if c.win.any Window.odd then
    drop ((s.onCmd n c.seq fun c => { c with prog := { c.prog with held := holdBytes n run l v len c.prog.held } }).landWaiting n c.seq n
      false words.getLsbD)
  else
    let s1 := s.winWords n c.win l len v (words &&& ~~~was)
    if wordsFull c.win l len (was ||| words) then drop s1
    else s1.onCmd n c.seq fun c => c.onReq ((mine.head?.map (·.id)).getD 0) fun r => { r with landed := was ||| words }

/-- The mask of all the words of a piece. -/
def allWords (r : Req) : BitVec 1024 := BitVec.ofNat 1024 (2 ^ (r.bytes / 4) - 1)

/-- The words of a piece that wait for an earlier piece of the command to the same window bytes: the runs move in their order
(R183). -/
def Cmd.laterWords (c : Cmd) (r : Req) : BitVec 1024 :=
  (List.range (r.bytes / 4)).foldl (fun m (i : Nat) =>
    if c.reqs.any fun x => decide (x.id < r.id) && decide (x.woff < r.woff + 4 * i + 4) && decide (r.woff + 4 * i < x.woff + x.bytes)
    then m ||| BitVec.twoPow 1024 i else m) 0

/-- An earlier run of a TLDBP to the same window bytes has not landed (R183). -/
def Cmd.laterRun (c : Cmd) (run : Nat) : Bool :=
  c.reqs.any fun x => decide (x.run < run) &&
    decide ((runWoff c.img c.cnt x.run - runWoff c.img c.cnt run).natAbs < dRun c.img)

/-- An answer is due. -/
def State.answerDue (s : State) (n q rq : Nat) : Option (Cmd × Req) :=
  match (s.cmd? n q).bind fun c => (c.req? rq).map fun r => (c, r) with
  | none => none
  | some (c, r) =>
    if r.stage != .done || !isTile c.ins then none
    else match bpOf c.ins with
      | none => some (c, r)
      | some _ => if c.runDone r.run && !(c.laterRun r.run) then some (c, r) else none

/-- SECTOR_RESPONSE (R190): the words that `words` names land in the window, each whole (R25), and the request ends with
the last of them; a write is acknowledged; a TLDBP's run begins to land when all its planes are in. -/
def execSectorResponse (core seq req : Nat) (words : BitVec 1024) (s : State) : Out :=
  match s.answerDue core seq req with
  | none => .next s
  | some (c, r) =>
    let gone := fun (c : Cmd) => { c with reqs := c.reqs.filter fun x => x.id != req }
    match bpOf c.ins with
    | some (k, _, mid) => .next (s.landRun core c r.run k mid words)
    | none =>
      if r.write || isPref c.ins then .next (s.onUn core fun u => (u.countDone [r]).onCmd seq gone)
      else
        let now := words &&& ~~~(c.laterWords r)
        let x := s.landWords core c r now
        let lost := fun (c : Cmd) =>
          if x.2 && c.prog.act == 0 then { c with prog := { c.prog with act := r.run + 1 } } else c
        if allWords r &&& ~~~(r.landed ||| now) = 0 then .next (x.1.onCmd core seq fun c => gone (lost c))
        else .next (x.1.onCmd core seq fun c => (lost c).onReq req fun r => { r with landed := r.landed ||| now })

/-! ### Later pages (R92) -/

/-- A command whose engine forms its requests now. -/
def State.forming (s : State) (n : Nat) (c : Cmd) : Bool :=
  c.eng == .copy && isTile c.ins && c.stop == .run && !(s.stoppedForSave n c) && s.clear n c.seq c.cls (isRemote c.ins)

/-- The number by which the NACKs of the walk for a command's page go (R343). -/
def walkAccess : Nat := 2 ^ 64

/-- COPY_PAGE_TRANSLATION is due: the command's next page has no cached translation, no other fault is on its way, and its walk is
not held (R347) and not in back-off (R343). -/
def State.translateDue (s : State) (n : Nat) (c : Cmd) : Option (Task × Seg × Nat) :=
  match (s.coreAt n).task with
  | none => none
  | some k =>
    if !(s.forming n c) || k.late.isSome || k.hold.isSome || c.prog.backoff.contains walkAccess then none
    else match k.seg (capIdx c.a), s.nextAccess n c with
      | some e, .page va => if s.walkHeld (dieOf n) e (va - segBase e) then none else some (k, e, va)
      | _, _ => none

/-- The page of a command's next access stands in a pageable segment, translated: its segment and virtual address (R91). -/
def State.pageInUse (s : State) (n : Nat) (c : Cmd) : Option (Seg × Nat) :=
  match (s.coreAt n).task.bind fun k => k.seg (capIdx c.a), s.nextAccess n c with
  | some e, .piece _ => if segPageable e && s.forming n c then some (e, segBase e + (nextOffset c).1.toNat) else none
  | _, _ => none

/-- A translation cached (R91). -/
def Untimed.cache (u : Untimed) (x : TlbEntry) : Untimed :=
  { u with tlb := x :: u.tlb.filter fun y => !(y.seg == x.seg && y.va == x.va) }

/-- A translation that the host may have changed since it was cached (R91): the old one stays beside the new, and either may serve
an access; the one that comes first does. -/
def Untimed.cacheBeside (u : Untimed) (x : TlbEntry) : Untimed := { u with tlb := x :: u.tlb.filter fun y => y != x }

/-- The first translation that serves an access goes behind the others. -/
def Untimed.otherFirst (u : Untimed) (si : BitVec 6) (va : Nat) (write : Bool) : Untimed :=
  match tlbFind u.tlb si va write with
  | none => u
  | some x => { u with tlb := (u.tlb.filter fun y => y != x) ++ [x] }

/-- The bytes of a prefetch up to the end of the page that could not be translated. -/
def Cmd.skipPage (c : Cmd) (va : Nat) : Cmd := c.advance (min (runBytes c - c.boff) (65536 - va % 65536))

/-- COPY_PAGE_TRANSLATION (R92): a later page is translated; a fault stops the command there; a prefetch skips it. Where the page
is translated already, the walker reads it again, or another translation of it comes first: each access uses the old or the new
(R91), a free value (log entry 3, DESIGN CHOICE). -/
def execCopyPageTranslation (core seq : Nat) (s : State) : Out :=
  match s.cmd? core seq with
  | none => .next s
  | some c =>
    let si := capIdx c.a
    let wr := isWriteTile c.ins
    match s.translateDue core c with
    | none => match s.pageInUse core c with
      | none => .next s
      | some (e, va) =>
        let b := s.freshBool
        if b.1 then .next (b.2.onUn core fun u => u.otherFirst si va wr)
        else if b.2.walkHeld (dieOf core) e (va - segBase e) then .next b.2
        else match walk b.2 e si (va - segBase e) wr with
          | .ok x => .next ((b.2.walked e si (va - segBase e) wr).onUn core fun u => u.cacheBeside x)
          | .error _ => .next (b.2.walked e si (va - segBase e) wr)
    | some (_, e, va) =>
      let s1 := s.walked e si (va - segBase e) wr
      match walk s e si (va - segBase e) wr with
      | .ok x => .next (s1.onUn core fun u => u.cache x)
      | .error f =>
        if isPref c.ins then .next (s1.onCmd core seq fun c => c.skipPage va)
        else .next (s1.lateFault core ⟨seq, BitVec.ofNat 64 c.run, f, va, wr⟩)

/-! ### Ends of commands (R187, R194, R197, R351, R352) -/

/-- A failure recorded with its batch: the first failing command in issue order is kept (R196). -/
def Untimed.failBatch (u : Untimed) (c : Cmd) (f : FailInfo) : Untimed :=
  { u with batches := u.batches.map fun b =>
      if some b.id = c.batch then
        match b.failed with
        | none => { b with failed := some (c.seq, f) }
        | some (q, g) => { b with failed := some (if c.seq < q then (c.seq, f) else (q, g)) }
      else b }

/-- The failure of a command that has stopped or lost bytes. -/
def Cmd.failure (c : Cmd) : Option FailInfo :=
  match c.stop with
  | .failed r a => some ⟨opOf c.ins, BitVec.ofNat 64 r, a⟩
  | .run => if c.prog.act = 0 then none else some ⟨opOf c.ins, BitVec.ofNat 64 (c.prog.act - 1), 0⟩
  | .fault _ _ => none

/-- A tile command or remote store leaves its queue (R187, R352). -/
def Untimed.endTile (u : Untimed) (c : Cmd) : Untimed :=
  match c.failure with
  | none => u.dropCmd c.seq
  | some f =>
    let u1 := (u.failBatch c f).dropCmd c.seq
    if isRemote c.ins then
      { u1 with remoteFail := match u.remoteFail with
          | none => some c.seq
          | some q => some (min q c.seq) }
    else u1

/-- A tile command has completed or stopped: the bytes that it still holds back of windows that it writes land, or words of them, and
after the last it leaves its queue. -/
def State.endTileAt (s : State) (n : Nat) (c : Cmd) (words : BitVec 1024) : State :=
  if c.prog.held.isEmpty || isWriteTile c.ins then s.onUn n fun u => u.endTile c
  else
    let s1 := ((c.prog.held.map (·.core)).dedup).foldl (fun s m => s.landWaiting n c.seq m true words.getLsbD) s
    match s1.cmd? n c.seq with
    | some d => if d.prog.held.isEmpty then s1.onUn n fun u => u.endTile d else s1
    | none => s1

/-- Every byte that a core's commands hold back of windows that they write lands: what has arrived of a command that a page fault stops
is saved with the windows (log entry 71, DEDUCED). -/
def State.landStopped (s : State) (n : Nat) : State :=
  (s.unAt n).queue.foldl (fun s c => if writesWindow c.ins then
    ((c.prog.held.map (·.core)).dedup).foldl (fun s m => s.landWaiting n c.seq m true fun _ => true) s else s) s

/-- WCOPY (R194). -/
def wcopyBytes (t : Timed) (d w : Window) : Timed := t.winWrite d 0 d.size (t.winRead w 0 w.size)

/-- WFILL (R194): byte (x mod 4) of the value to each logical byte, x being its row byte. -/
def wfillFrom (w : Window) (v : Nat) : Nat → Timed → Timed
  | 0, t => t
  | l + 1, t => (wfillFrom w v l t).setSbyte (w.byteAddr l) (BitVec.ofNat 8 (v >>> (8 * (l % w.rbu % 4))))

/-- The aligned words of a window: of word `i` the first logical byte and how many there are (R175, R194). -/
def Window.rowWords (w : Window) : Nat := (w.rbu + 3) / 4
def Window.words (w : Window) : Nat := w.rows * w.rowWords
def Window.wordAt (w : Window) (i : Nat) : Nat × Nat :=
  let x := 4 * (i % w.rowWords)
  (i / w.rowWords * w.rbu + x, min 4 (w.rbu - x))

/-- One word of WCOPY or WFILL: read where it stands now, or with the rest of its word of the source, and written. -/
def State.moveWord (s : State) (n : Nat) (c : Cmd) (d : Window) (held : List HeldByte) (i : Nat) : State × List HeldByte :=
  let p := d.wordAt i
  match c.win2 with
  | some w =>
    let x := s.carry n (some w) p.1 p.2 held
    (s.winWriteAt n (some d) p.1 p.2 x.1, x.2)
  | none => (s.winWriteAt n (some d) p.1 p.2 c.a.toNat, held)

/-- The words of a block of 1,024 that `words` names and that have not been written. -/
def Cmd.wordsNow (c : Cmd) (d : Window) (blk : Nat) (words : BitVec 1024) : List Nat :=
  ((List.range 1024).filter fun i => words.getLsbD i && !((Store.get 0 c.prog.part blk).getLsbD i) &&
    decide (1024 * blk + i < d.words)).map fun i => 1024 * blk + i

/-- Every word of a window is written. -/
def Cmd.wordsDone (c : Cmd) (d : Window) : Bool :=
  (List.range ((d.words + 1023) / 1024)).all fun b =>
    (List.range (min 1024 (d.words - 1024 * b))).all (Store.get 0 c.prog.part b).getLsbD

/-- The whole effect of WCOPY or WFILL that nothing of has been done. -/
def Timed.wholeMove (t : Timed) (c : Cmd) (d : Window) : Timed := match c.win2 with
  | some w => wcopyBytes t d w
  | none => wfillFrom d c.a.toNat d.size t

/-- The scratchpad effect of WCOPY and WFILL, all at once or the words `words` of block `blk`, each whole (R25, R194); an
uncorrectable error in the source fails the command (R397). -/
def State.fillOrCopy (s : State) (n : Nat) (c : Cmd) (blk : Nat) (words : BitVec 1024) : State :=
  match c.win with
  | none => s
  | some d =>
    if c.win2.any fun w => s.winMarked n (some w) 0 w.size then s.onUn n fun u => u.endTile { c with stop := .failed 0 0 }
    else if words = BitVec.allOnes 1024 ∧ c.prog.part = [] then
      ((s.onTimed n fun t => t.wholeMove c d).onCore n fun k => k.unmarkWin d 0 d.size).onUn n fun u => u.dropCmd c.seq
    else
      let x := (c.wordsNow d blk words).foldl (fun (x : State × List HeldByte) i => x.1.moveWord n c d x.2 i) (s, c.prog.held)
      let c1 := { c with prog := { c.prog with
        part := Store.set 0 c.prog.part blk ((Store.get 0 c.prog.part blk) ||| words), held := x.2 } }
      let s1 := x.1
      if c1.wordsDone d then s1.onUn n fun u => u.dropCmd c.seq else s1.onCmd n c.seq fun _ => c1

/-- Every sector write of every remote store before command `q` has been sent (R351). -/
def State.remoteSent (s : State) (n q : Nat) : Bool :=
  (s.unAt n).queue.all fun c => !(decide (c.seq < q) && isRemote c.ins && c.stop == .run) ||
    (s.formed n c && c.reqs.all fun r => r.stage != .window)

/-- A remote store before command `q` is unfinished. -/
def Untimed.remotePending (u : Untimed) (q : Nat) : Bool := u.queue.any fun c => decide (c.seq < q) && isRemote c.ins

/-- The 64 bytes of PCNT (R351). -/
def Untimed.pathCounts (u : Untimed) : Nat :=
  (List.finRange 4).foldl (fun x p => x + (u.sent.get p).toNat <<< (128 * p.val) + (u.done.get p).toNat <<< (128 * p.val + 64)) 0

/-- The whole RDC action of a fence of core `n` over the classes of a mask (R101), kinds REL 1, ACQ 2, AR 3. -/
def State.fenceAct (s : State) (n : Nat) (mask : BitVec 16) (scope kind : Nat) : State :=
  if scope < 3 then s
  else s.fenceSectors (dieOf n) kind (RdcSector.wroteIn n mask) (s.sectorsIn (dieOf n) (decide (scope = 4)))

/-- A fence goes on with its RDC action, and completes with the last sector (R101). -/
def State.fenceStep (s : State) (n : Nat) (c : Cmd) (mask : BitVec 16) (scope kind : Nat) (words : BitVec 1024) : State :=
  let x := s.fencePass n c mask scope kind words
  if x.2.isEmpty then x.1.dropCmd n c.seq
  else x.1.onCmd n c.seq fun c => { c with prog := { c.prog with left := some x.2 } }

/-- The command is the first of its core's copy queue. -/
def Untimed.atHead (u : Untimed) (q : Nat) : Bool := match u.queue.find? fun c => c.eng == .copy with
  | none => false
  | some c => c.seq == q

/-- Whether a command may complete or leave its queue now. -/
def State.endDue (s : State) (n : Nat) (c : Cmd) : Bool :=
  let u := s.unAt n
  match c.ins with
  | .wdecl _ | .wfree _ | .dset _ | .bclose _ | .bwait _ => u.atHead c.seq
  | .tld _ | .tst _ | .tldm _ | .tldbp _ | .pref _ | .strem _ | .stremo _ =>
    c.reqs.isEmpty && (match c.stop with
      | .run => s.formed n c
      | .failed _ _ => true
      | .fault _ _ => false)
  | .wcopy _ | .wfill _ => s.clear n c.seq c.cls false
  | .fence m sc _ =>
    s.settled n c.seq m && !(s.stoppedForSave n c) && (decide (sc.toNat < 4) || !(s.releaseHeld (dieOf n)))
  | .pcnt _ => c.prog.parked.isSome || s.remoteSent n c.seq
  | .pwait _ => !(u.remotePending c.seq)
  | _ => false

/-- COPY_COMMAND_COMPLETE (R187): a command of the copy queue completes or stops, and leaves its entry. `words` are the words of
block `blk` of a window that WCOPY and WFILL write now, those of PCNT's result or of a tile command's last bytes that land now (R25), or
the sector that a fence visits (R98); all of them take the whole effect at once. -/
def execCopyCommandComplete (core : Nat) (w : CmdBlock) (s : State) : Out :=
  match s.cmd? core w.seq with
  | none => .next s
  | some c =>
    if !(s.endDue core c) then .next s
    else match c.ins with
      | .wcopy _ | .wfill _ => .next (s.fillOrCopy core c w.blk w.words)
      | .fence m sc k => .next (s.fenceStep core c m sc.toNat k.toNat w.words)
      | .pcnt o => .next (s.cmdResult core c o.f c.b.toNat 64 (s.unAt core).pathCounts w.words)
      | .pwait o =>
        if (s.unAt core).remoteFail.any fun q => decide (q < w.seq) then .next (s.cmdFailed core w.seq o.f 0x55 0 0)
        else .next (s.cmdDone core w.seq o.f none)
      | _ => .next (s.endTileAt core c w.words)

/-- BATCH_COMPLETE is due: the batch is closed and every command in it has completed or stopped (R187). -/
def Untimed.batchDue (u : Untimed) (b : Nat) : Option Batch :=
  match u.batches.find? fun x => x.id == b && !x.isOpen with
  | none => none
  | some x => if u.pendingOf b then none else some x

/-- BATCH_COMPLETE (R187, R188): the flag becomes SET or ERROR; a failure without a flag is kept for the task's end. Of several
such failures the one of the batch that completes first is kept; R188's "the first failing command" does not say by what order
(log entry 67, DESIGN CHOICE). -/
def execBatchComplete (core batch : Nat) (s : State) : Out :=
  match (s.unAt core).batchDue batch with
  | none => .next s
  | some x =>
    let s1 := s.onUn core fun u => { u with batches := u.batches.filter fun y => y.id != batch || y.isOpen }
    match x.flag, x.failed with
    | some f, none => .next (s1.reportAt core ⟨f, true, none, none⟩)
    | some f, some (_, i) => .next (s1.reportAt core ⟨f, false, none, some i⟩)
    | none, none => .next s1
    | none, some (_, i) =>
      .next (s1.onUn core fun u => { u with flagless := match u.flagless with
        | none => some i
        | some j => some j })

/-- A sector cannot be replaced now: a remote store's write to it is outstanding (R347), or crossings are held. -/
def State.replaceHeld (s : State) (die sector : Nat) : Bool :=
  s.sectorHeld die sector || (s.trust.holds && s.isRemoteKey (256 * sector) && (s.sector die sector).dirty != 0)

/-- RDC_REPLACEMENT (R97): a sector is replaced, unless a remote store's write to it is outstanding (R347) or crossings
are held. Where its home is of this module or the host's, words of its write-back may reach the home before the others (R95). -/
def execRdcReplacement (die : Nat) (x : SectorWords) (s : State) : Out :=
  let n := x.sector
  let d := (s.sector die n).dirty
  if s.replaceHeld die n then .next s
  else if x.words = BitVec.allOnes 64 ∨ s.isRemoteKey (256 * n) = true ∨ d = 0 then .next (s.replaceSector die n)
  else .next (s.writeBackPart die n
    (sectorBytes (wholeGranules (fun g => s.poisonAt (256 * n + 32 * g) 32) (256 * n) d.toNat x.words)))

/-! ### What the caches hold (R9) -/

/-- The sectors of an RDC of 32 MiB and of an L2 of 96 MiB. -/
def rdcSectors : Nat := 131072
def l2Sectors : Nat := 393216

/-- One of a list by a free value (log entry 3, DESIGN CHOICE). -/
def State.anyOf (s : State) (l : List Nat) : Option Nat := l[(Config.freeBits s.free).toNat % l.length]?

/-- An RDC that holds more sectors than it has room for replaces some, whichever (R97); `fuel` at most. -/
def State.trimRdc (s : State) (die : Nat) : Nat → State
  | 0 => s
  | fuel + 1 =>
    if (s.rdcOf die).length ≤ rdcSectors then s
    else match s.anyOf (((s.rdcOf die).map (·.1)).filter fun n => !(s.replaceHeld die n)) with
      | none => s
      | some n => (s.drew.replaceSector die n).trimRdc die fuel

/-- An L2 lets some sector go in the same way; its bytes stand in its stack. -/
def State.trimL2 (s : State) (die : Nat) : State :=
  let l := s.l2.toList.getD die []
  if l.length ≤ l2Sectors then s
  else match s.anyOf (l.map (·.1)) with
    | none => s
    | some n => { s.drew with l2 := s.l2.setIfInBounds die (Store.set false l n false) }

/-- Every cache within its size. -/
def State.trimCaches (s : State) : State :=
  (List.range 8).foldl (fun s d => (s.trimRdc d ((s.rdcOf d).length - rdcSectors)).trimL2 d) s

end Sys2Proof.Machine
end

