-- ==== Sys2Proof/Machine/GatherCmd.lean ====
section
/-!
DEFINITION. The gather instructions at issue (R290, R294-R296): the gather control block they read, and their checks.
-/

namespace Sys2Proof.Machine

/-! ### The gather control block (R290) -/

abbrev Gcb := BitVec 1024

def gTable (g : Gcb) : Nat := bits (recWord g 0) 9 0
def gBags (g : Gcb) : Nat := bits (recWord g 0) 28 16
def gSeg (g : Gcb) : Nat := bits (recWord g 0) 37 32
def gWidth (g : Gcb) : Nat := bits (recWord g 0) 58 48
def gOffCap (g : Gcb) : Word := BitVec.ofNat 64 (recWord g 1)
def gIdxCap (g : Gcb) : Word := BitVec.ofNat 64 (recWord g 2)
def gWCap (g : Gcb) : Word := BitVec.ofNat 64 (recWord g 3)
def gOutOff (g : Gcb) : Nat := bits (recWord g 4) 31 0
def gStOff (g : Gcb) : Nat := bits (recWord g 4) 63 32

/-- The 64 bytes at a scratchpad address. -/
def blockAt (t : Timed) (a : Word) : BitVec 1024 := BitVec.ofNat 1024 (t.sread a.toNat 64)

/-- The address of a control block is aligned and within the scratchpad (R295, R364). -/
def blockBad (a : Word) : Bool := decide (a.toNat % 64 ≠ 0) || decide (8388608 < a.toNat + 64)

/-- Check 1 of a GCB form: `weights` for GBAGW, `outputs` for the forms that write windows. -/
def gcbBad (g : Gcb) (weights outputs : Bool) : Bool :=
  decide (bits (recWord g 0) 15 10 ≠ 0) || decide (bits (recWord g 0) 31 29 ≠ 0) ||
  decide (bits (recWord g 0) 47 38 ≠ 0) || decide (bits (recWord g 0) 63 59 ≠ 0) ||
  decide (recWord g 5 ≠ 0) || decide (recWord g 6 ≠ 0) || decide (recWord g 7 ≠ 0) ||
  decide (gBags g = 0) || decide (4096 < gBags g) || decide (gWidth g = 0) || decide (1024 < gWidth g) ||
  (!weights && gWCap g != 0) || (outputs && (decide (gOutOff g % 4 ≠ 0) || decide (gStOff g % 8 ≠ 0)))

/-- SW of EXT bits 9:5. -/
def cfSW (o : CfOp) : BitVec 5 := o.ext.extractLsb' 5 5

/-- A declared window holds `n` logical bytes. -/
def windowHolds (t : Timed) (w : BitVec 5) (n : Nat) : Bool := match t.win w with
  | none => false
  | some x => decide (n ≤ x.size)

/-- The checks of GBAG, GBAGW and GROWS (R295). -/
def gbagTrap (t : Timed) (o : CfOp) (weights : Bool) : Option Trap :=
  let a := t.sreg o.sa
  let g := blockAt t a
  if blockBad a || gcbBad g weights true then trap 0x43 a
  else if !windowHolds t (cfW o) (gOutOff g + 4 * gWidth g * gBags g) then trap 0x44 ((cfW o).setWidth 64)
  else if !windowHolds t (cfSW o) (gStOff g + 8 * gBags g) then trap 0x44 ((cfSW o).setWidth 64)
  else none

/-- The checks of GPREF. -/
def gprefTrap (t : Timed) (o : CfOp) : Option Trap :=
  if blockBad (t.sreg o.sa) || gcbBad (blockAt t (t.sreg o.sa)) false false then trap 0x43 (t.sreg o.sa) else none

/-- A row operand: index in bits 31:0, table in bits 41:32 (R294). -/
def rowOperandBad (a : Word) : Bool := decide (a.toNat / 2 ^ 42 ≠ 0)
/-- A counter operand: table in bits 9:0, PBC in bits 18:16 (R294). -/
def counterOperandBad (a : Word) : Bool := decide (bits a.toNat 15 10 ≠ 0) || decide (a.toNat / 2 ^ 19 ≠ 0)

/-- The checks of a query that writes `n` bytes at L. -/
def gqueryTrap (t : Timed) (o : CfOp) (bad : Word → Bool) (n : Nat) : Option Trap :=
  if bad (t.sreg o.sa) then trap 0x43 (t.sreg o.sa)
  else if windowFits t (cfW o) (t.sreg o.sb).toNat n then none
  else trap 0x44 ((cfW o).setWidth 64)

/-- A gather command in the copy queue, with its GCB (R296). -/
def gatherCmd (i : Instr) (o : CfOp) (s : State) : Cmd :=
  let t := s.timed
  newCmd t s.un .copy i o.cls (t.sreg o.sa) (t.sreg o.sb) (t.win (cfW o)) (t.win (cfSW o)) (blockAt t (t.sreg o.sa))

/-- A query in the copy queue. -/
def gqueryCmd (i : Instr) (o : CfOp) (s : State) : Cmd :=
  newCmd s.timed s.un .copy i 0 (s.timed.sreg o.sa) (s.timed.sreg o.sb) (s.timed.win (cfW o)) none 0

/-- GBAG (R297). -/
def execGbag (o : CfOp) (s : State) : Out := issueFlagged (gbagTrap s.timed o false) o.f (gatherCmd (.gbag o) o s) s
/-- GBAGW (R297). -/
def execGbagw (o : CfOp) (s : State) : Out := issueFlagged (gbagTrap s.timed o true) o.f (gatherCmd (.gbagw o) o s) s
/-- GROWS (R297). -/
def execGrows (o : CfOp) (s : State) : Out := issueFlagged (gbagTrap s.timed o false) o.f (gatherCmd (.grows o) o s) s
/-- GPREF (R300). -/
def execGpref (o : CfOp) (s : State) : Out := issueFlagged (gprefTrap s.timed o) o.f (gatherCmd (.gpref o) o s) s
/-- GSTAT (R301). -/
def execGstat (o : CfOp) (s : State) : Out :=
  issueFlagged (gqueryTrap s.timed o rowOperandBad 16) o.f (gqueryCmd (.gstat o) o s) s
/-- GCNTRD (R301). -/
def execGcntrd (o : CfOp) (s : State) : Out :=
  issueFlagged (gqueryTrap s.timed o counterOperandBad 64) o.f (gqueryCmd (.gcntrd o) o s) s
/-- GCNTCLR (R301). -/
def execGcntclr (o : CfOp) (s : State) : Out :=
  issueFlagged (if counterOperandBad (s.timed.sreg o.sa) then trap 0x43 (s.timed.sreg o.sa) else none) o.f
    (gqueryCmd (.gcntclr o) o s) s
/-- GSKRD (R301). -/
def execGskrd (o : CfOp) (s : State) : Out :=
  issueFlagged (gqueryTrap s.timed o rowOperandBad 16) o.f (gqueryCmd (.gskrd o) o s) s

end Sys2Proof.Machine
end

