-- ==== Sys2Proof/Machine/Pooling.lean ====
section
/-!
DEFINITION. The pooling buffer chiplets (R282-R289, R303-R308): sketches, promotions and the CLOCK hand, migration in
both directions, host commands, and the queries of cores.
-/

namespace Sys2Proof.Machine

/-! ### Counters (R288) -/

/-- Counter `i` of a table gains `n`, saturating at 48 bits. -/
def Pbc.count (p : Pbc) (t i n : Nat) : Pbc :=
  { p with counters := Store.set 0 p.counters (8 * t + i) (satAdd48 (Store.get 0 p.counters (8 * t + i)) n) }

/-- The eight counters of a table as 64 bytes. -/
def Pbc.counterBytes (p : Pbc) (t : Nat) : Nat :=
  (List.range 8).foldl (fun x i => x + Store.get 0 p.counters (8 * t + i) <<< (64 * i)) 0

/-! ### Promotion (R304) -/

def Pbc.migrations (p : Pbc) : Nat := (p.hot.filter fun x => x.st != .resident).length

/-- HOT_USED (R287). -/
def Pbc.used (p : Pbc) : Nat := ((p.hot.map (·.slot)).dedup).length

/-- The lowest-numbered FREE slot. -/
def Pbc.freeSlot (p : Pbc) : Option Nat :=
  (List.range p.hotSlots.toNat).find? fun k => !(p.hot.any fun x => x.slot == k)

/-- The CLOCK hand over at most `n` slots: the victim's slot, if it finds one. -/
def clockFrom : Nat → Pbc → Pbc × Option Nat
  | 0, p => (p, none)
  | n + 1, p =>
    let k := p.hand
    let next := if k + 1 < p.hotSlots.toNat then k + 1 else 0
    match p.hot.find? fun x => x.slot == k && x.st == .resident with
    | none => clockFrom n { p with hand := next }
    | some x =>
      if x.ref then
        clockFrom n { p with
          hand := next
          hot := p.hot.map fun y => if y.slot = k ∧ y.st = .resident then { y with ref := false } else y }
      else
        ({ p with
          hand := next
          hot := p.hot.map fun y => if y.slot = k ∧ y.st = .resident then { y with st := .migOut } else y }, some k)

/-- PROMOTION_START (R304): the row enters MIG_IN, or the promotion is not started and ABANDONED gains 1. -/
def Pbc.promote (p : Pbc) (t r now : Nat) : Pbc × Bool :=
  let add := fun (p : Pbc) (k : Nat) => { p with hot := p.hot ++ [⟨t, r, k, .migIn, false, now⟩] }
  match p.freeSlot with
  | some k => if 16 ≤ p.migrations then (p.count t 7 1, false) else (add p k, true)
  | none =>
    if p.hotSlots = 0 ∨ 15 ≤ p.migrations then (p.count t 7 1, false)
    else match clockFrom (2 * p.hotSlots.toNat) p with
      | (q, none) => (q.count t 7 1, false)
      | (q, some k) => (add q k, true)

/-! ### Sketches (R303) -/

/-- KMUL. -/
def kmul : Nat → BitVec 64
  | 0 => 0x9E3779B97F4A7C15
  | 1 => 0xC2B2AE3D27D4EB4F
  | 2 => 0x165667B19E3779F9
  | _ => 0xD6E8FEB86659FD93

/-- SK_HASH. -/
def skHash (k t r : Nat) : Nat :=
  let x : BitVec 64 := BitVec.ofNat 64 (t <<< 32 ||| r) * kmul k
  let x := x ^^^ (x >>> 29)
  let x := x * 0xBF58476D1CE4E5B9
  let x := x ^^^ (x >>> 32)
  x.toNat % 65536

/-- Where counter `k` of a row lies in the sketch table. -/
def skAt (g k t r : Nat) : Nat := 262144 * g + 65536 * k + skHash k t r

/-- Counter `k` of a row. -/
def Pbc.sk (p : Pbc) (g k t r : Nat) : BitVec 16 := Store.get 0 p.sketch (skAt g k t r)

/-- The estimate: the least of the four counters. -/
def Pbc.estimate (p : Pbc) (g t r : Nat) : Nat :=
  min (min (p.sk g 0 t r).toNat (p.sk g 1 t r).toNat) (min (p.sk g 2 t r).toNat (p.sk g 3 t r).toNat)

/-- One counter gains 1, saturating. -/
def Pbc.bump (p : Pbc) (g k t r : Nat) : Pbc :=
  { p with sketch := Store.set 0 p.sketch (skAt g k t r) (if p.sk g k t r = 0xFFFF then 0xFFFF else p.sk g k t r + 1) }

/-- Every counter of a group shifted right by one; those that become 0 are listed no more. -/
def halveGroup (g : Nat) (l : Store (BitVec 16)) : Store (BitVec 16) :=
  l.filterMap fun (x : Nat × BitVec 16) =>
    if 262144 * g ≤ x.1 ∧ x.1 < 262144 * (g + 1) then (if x.2 >>> 1 = 0#16 then none else some (x.1, x.2 >>> 1)) else some x

/-- An entry of a table of sixteen. -/
def at16 {α : Type} (v : Vector α 16) (g : Nat) : α := if h : g < 16 then v.get ⟨g, h⟩ else v.get 0
def put16 {α : Type} (v : Vector α 16) (g : Nat) (x : α) : Vector α 16 := if h : g < 16 then v.set g x h else v

/-- SKETCH_COUNT (R303): a lookup or a GPREF count of a row, and the promotion it may start. -/
def Pbc.sketchCount (p : Pbc) (d : Table) (t r now : Nat) : Pbc × Bool :=
  let g := tGroup d
  let p1 := (((p.bump g 0 t r).bump g 1 t r).bump g 2 t r).bump g 3 t r
  let n := at16 p1.glookups g + 1
  let p2 := if at16 p1.halve g ≠ 0 ∧ n = at16 p1.halve g
    then { p1 with sketch := halveGroup g p1.sketch, glookups := put16 p1.glookups g 0 }
    else { p1 with glookups := put16 p1.glookups g n }
  let th := (at16 p2.thresh g).toNat
  if th ≠ 0 ∧ th ≤ p2.estimate g t r ∧ tHoten d ∧ tPitch d ≤ 2 ^ p2.slotLog2.toNat ∧ (p2.find t r).isNone
  then p2.promote t r now else (p2, false)

/-! ### Migration (R305, R306, R336) -/

/-- The row of a linked region that a key of its table names. -/
def LRegion.linksRow (g : LRegion) (t r : Nat) : Bool :=
  rTlink g.desc && rTable g.desc == t && decide (g.rowLo ≤ r) && decide (r < g.rowHi)

/-- The bins of earlier epochs of a row are applied to the old copy at once (R336). -/
def State.applyOld (s : State) (pbc t r : Nat) : State :=
  ((s.unitOf (8 + pbc)).regions.filter fun x => x.2.linksRow t r).foldl
    (fun s x => (s.applyWhere (8 + pbc) x.1 r fun g b => b.epoch != g.epoch).1) s

/-- A bin of the row, committed or of an open stream, still targets the copy in use (R306). -/
def State.rowHasBins (s : State) (pbc t r : Nat) : Bool :=
  (s.unitOf (8 + pbc)).regions.any fun x => x.2.linksRow t r &&
    ((x.2.bins.any fun b => b.key == r) || x.2.streams.any fun y => y.bins.any fun b => b.key == r)

/-- `n` bytes copied from one location to another as they stand, poison with them. A last granule of the destination that they cover
in part stays poisoned if it was, and the bytes written to it are lost (R392). -/
def State.copyBytes (s : State) (src dst n : Nat) : State :=
  let v := s.mem.read src n
  let bad := (List.range ((n + 31) / 32)).filter fun i => decide (src / 32 + i ∈ s.poison)
  let keep := s.poison.filter fun g => !(decide (dst / 32 ≤ g) && decide (g < dst / 32 + n / 32))
  let k := if dst / 32 + n / 32 ∈ s.poison then n / 32 * 32 else n
  { s with mem := s.mem.write dst k (v % 2 ^ (8 * k))
           poison := keep ++ (bad.map fun i => dst / 32 + i).filter fun g => !(keep.contains g) }

/-- Every RESIDENT row of a table on a PBC goes to MIG_OUT, and its promotions in MIG_IN are abandoned (R289). -/
def Pbc.evictTable (p : Pbc) (t : Nat) : Pbc :=
  let gone := (p.hot.filter fun x => x.table == t && x.st == .migIn).length
  let left := (p.hot.filter fun x => !(x.table == t && x.st == .migIn)).map fun x =>
    if x.table = t ∧ x.st = .resident then { x with st := .migOut } else x
  Pbc.count { p with hot := left } t 7 gone

/-- No row of the table is other than COLD on this PBC. -/
def Pbc.cold (p : Pbc) (t : Nat) : Bool := !(p.hot.any fun x => x.table == t)

/-- A host command that held BUSY ends, or goes on, after a change of the directory (R289). A HOTLOAD whose table a TDROP has made not
VALID while it waited abandons its promotion (log entry 47, DESIGN CHOICE). -/
def State.settlePbc (s : State) (n : Nat) : State :=
  let p := s.pbcOf n
  let fin := fun (r : BitVec 4) => s.onPbc n fun p => { p with busy := none, res := r }
  match p.busy with
  | none => s
  | some (.drop t) =>
    if (List.range 8).all fun k => (s.pbcOf k).cold t then { fin 0 with tables := Store.set 0 s.tables t 0 } else s
  | some (.flush t) => if p.cold t then fin 0 else s
  | some (.load t r started) =>
    match p.find t r with
    | some x => if x.st = .resident then fin 0 else s
    | none =>
      if started || !s.tableValid t then fin 3
      else
        let q := p.promote t r s.wall
        if q.2 then s.onPbc n fun _ => { q.1 with busy := some (.load t r true) }
        else s.onPbc n fun _ => { q.1 with busy := none, res := 3 }

/-- Every PBC's host command looked at again. -/
def State.settleAll (s : State) : State := (List.range 8).foldl (fun s n => s.settlePbc n) s

/-- The directory entry of a slot in a state. -/
def Pbc.inSlot (p : Pbc) (k : Nat) (st : RowState) : Option HotRow := p.hot.find? fun x => x.slot == k && x.st == st

/-- A directory entry replaced, or removed. -/
def Pbc.change (p : Pbc) (x : HotRow) (f : HotRow → Option HotRow) : Pbc :=
  { p with hot := p.hot.filterMap fun y => if y = x then f y else some y }

/-- A promotion has been in MIG_IN for MIG_LIMIT cycles (R305). -/
def State.migTooLong (s : State) (pbc : Nat) (x : HotRow) : Bool := decide (x.start + (s.pbcOf pbc).migLimit.toNat ≤ s.wall)

/-- MIGRATION_IN_SWITCH (R305): once its slot is free of its victim and no bin targets the LPDDR-6 copy, the row's bytes
are copied into the slot and the row is RESIDENT; never after MIG_LIMIT cycles. -/
def execMigrationInSwitch (pbc slot : Nat) (s : State) : Out :=
  match (s.pbcOf pbc).inSlot slot .migIn with
  | none => .next s
  | some x =>
    if s.migTooLong pbc x then .next s
    else
    let s1 := s.applyOld pbc x.table x.row
    if ((s.pbcOf pbc).inSlot slot .migOut).isSome || s1.rowHasBins pbc x.table x.row then .next s1
    else
      let d := s.table x.table
      let s2 := s1.copyBytes (s.rowHome d x.row) ((s.pbcOf pbc).slotAt slot) (rowStored d)
      .next ((s2.onPbc pbc fun p =>
        (p.change x fun y => some { y with st := .resident, ref := true }).count x.table 5 1).settleAll)

/-- MIGRATION_TIMEOUT (R305): a promotion in MIG_IN for MIG_LIMIT cycles is abandoned. -/
def execMigrationTimeout (pbc slot : Nat) (s : State) : Out :=
  match (s.pbcOf pbc).inSlot slot .migIn with
  | none => .next s
  | some x =>
    if !s.migTooLong pbc x then .next s
    else .next ((s.onPbc pbc fun p => (p.change x fun _ => none).count x.table 7 1).settleAll)

/-- DEMOTION_SWITCH (R305): once no bin targets the hot copy, a trainable row's bytes go back, and the slot is free. -/
def execDemotionSwitch (pbc slot : Nat) (s : State) : Out :=
  match (s.pbcOf pbc).inSlot slot .migOut with
  | none => .next s
  | some x =>
    let s1 := s.applyOld pbc x.table x.row
    if s1.rowHasBins pbc x.table x.row then .next s1
    else
      let d := s.table x.table
      let s2 := if tTrain d then s1.copyBytes ((s.pbcOf pbc).slotAt slot) (s.rowHome d x.row) (rowStored d) else s1
      .next ((s2.onPbc pbc fun p => (p.change x fun _ => none).count x.table 6 1).settleAll)

/-! ### Host commands (R284, R289) -/

/-- R284. -/
def tableBad (s : State) (d : Table) : Bool :=
  let w0 := recWord d 0
  let f := tFormat d
  decide (w0 / 2 ^ 23 ≠ 0) || decide (bits (recWord d 1) 15 11 ≠ 0) || decide (bits (recWord d 1) 31 30 ≠ 0) ||
  decide (recWord d 2 / 2 ^ 52 ≠ 0) || ((List.range 5).any fun i => decide (recWord d (3 + i) ≠ 0)) ||
  decide (6 ≤ f) || (if f = 5 then decide (tBpnk d < 2) || decide (8 < tBpnk d) else decide (tBpnk d ≠ 0) || tBpnMid d) ||
  decide (tWidth d = 0) || decide (1024 < tWidth d) || decide (tRows d = 0) ||
  decide (tPitch d < 32) || decide (8192 < tPitch d) || decide (tPitch d % 32 ≠ 0) || decide (tPitch d < rowStored d) ||
  decide (tGrant d % 256 ≠ 0) || decide (shRowLo d 0 ≠ 0) ||
  ((List.range 64).any fun k =>
    if k < tShards d then
      decide (recWord d (8 + 2 * k) / 2 ^ 52 ≠ 0) || decide (recWord d (9 + 2 * k) / 2 ^ 39 ≠ 0) ||
      decide (tRows d ≤ shRowLo d k) || (decide (k ≠ 0) && decide (shRowLo d k ≤ shRowLo d (k - 1))) ||
      decide (shBase d k % 32 ≠ 0) ||
      decide (2 ^ 39 < shBase d k + (shRowHi d k - 1 - shRowLo d k) * tPitch d + rowStored d) ||
      (!shPeerF d k && !s.inRack (shMod d k))
    else decide (recWord d (8 + 2 * k) ≠ 0) || decide (recWord d (9 + 2 * k) ≠ 0))

def State.pbcRes (s : State) (n : Nat) (r : BitVec 4) : State := s.onPbc n fun p => { p with res := r }

/-- TLOAD (R289). -/
def execTload (pbc table : Nat) (s : State) : Out :=
  let p := s.pbcOf pbc
  if p.busy.isSome then .next s
  else if 1024 ≤ table then .next (s.pbcRes pbc 2)
  else if s.tableValid table then .next (s.pbcRes pbc 3)
  else if !(s.imageOk p.cmdAddr 1088) then .next (s.pbcRes pbc 4)
  else
    let x := s.homeReadLong 6 p.cmdAddr.toNat 1088
    let d : Table := BitVec.ofNat 8704 x.2.1
    if x.2.2 || tableBad x.1 d then .next (x.1.pbcRes pbc 4)
    else
      let s1 := { x.1 with
        tables := Store.set 0 x.1.tables table d,
        badTables := x.1.badTables.filter fun t => t != table }
      .next (((List.range 8).foldl (fun s n => s.onPbc n fun p =>
        { p with counters := Store.clearRange (8 * table) (8 * table + 8) p.counters }) s1).pbcRes pbc 0)

/-- A gather command of a core names the table (R289). -/
def State.tableInUse (s : State) (t : Nat) : Bool :=
  s.cores.toList.any fun c => c.un.queue.any fun x => match x.ins with
    | .gbag _ | .gbagw _ | .grows _ | .gpref _ => gTable x.img == t
    | .gstat _ | .gskrd _ => bits x.a.toNat 41 32 == t
    | .gcntrd _ | .gcntclr _ => bits x.a.toNat 9 0 == t
    | _ => false

/-- TDROP (R289). -/
def execTdrop (pbc table : Nat) (s : State) : Out :=
  if (s.pbcOf pbc).busy.isSome then .next s
  else if 1024 ≤ table ∨ !s.tableValid table then .next (s.pbcRes pbc 2)
  else if s.tableInUse table then .next (s.pbcRes pbc 3)
  else
    let s1 := (List.range 8).foldl (fun s n => s.onPbc n fun p => p.evictTable table) s
    .next ((s1.onPbc pbc fun p => { p with busy := some (.drop table) }).settleAll)

/-- TREAD (R289). -/
def execTread (pbc table : Nat) (s : State) : Out :=
  let p := s.pbcOf pbc
  if p.busy.isSome then .next s
  else if 1024 ≤ table ∨ !s.tableValid table then .next (s.pbcRes pbc 2)
  else if !(s.imageOk p.cmdAddr 1152) then .next (s.pbcRes pbc 4)
  else
    .next ((s.homeWriteLong 6 p.cmdAddr.toNat 1152 ((s.table table).toNat + p.counterBytes table <<< 8704)).pbcRes pbc 0)

/-- A row is held by a PBC of this module (R289). -/
def State.rowHeld (s : State) (n : Nat) (d : Table) (r : Nat) : Bool :=
  let k := shardOf d r
  decide (r < tRows d) && !shPeerF d k && shMod d k == s.myMod.toNat && shPbc d k == n

/-- HOTLOAD (R289): the row of CMD_ARG bits 31:0. -/
def execHotload (pbc table : Nat) (s : State) : Out :=
  let p := s.pbcOf pbc
  let r := bits p.cmdArg.toNat 31 0
  let d := s.table table
  if p.busy.isSome then .next s
  else if 1024 ≤ table ∨ !s.tableValid table then .next (s.pbcRes pbc 2)
  else if !(tHoten d) || decide (2 ^ p.slotLog2.toNat < tPitch d) || !(s.rowHeld pbc d r) then .next (s.pbcRes pbc 3)
  else
    .next ((s.onPbc pbc fun p => { p with busy := some (.load table r ((p.find table r).any fun x => x.st == .migIn)) }).settleAll)

/-- HOTFLUSH (R289). -/
def execHotflush (pbc table : Nat) (s : State) : Out :=
  if (s.pbcOf pbc).busy.isSome then .next s
  else if 1024 ≤ table ∨ !s.tableValid table then .next (s.pbcRes pbc 2)
  else .next ((s.onPbc pbc fun p => { p.evictTable table with busy := some (.flush table) }).settleAll)

/-- SKCLR (R289). -/
def execSkclr (pbc group : Nat) (s : State) : Out :=
  if (s.pbcOf pbc).busy.isSome then .next s
  else .next (s.onPbc pbc fun p =>
    { p with sketch := Store.clearRange (262144 * (group % 16)) (262144 * (group % 16 + 1)) p.sketch,
             glookups := put16 p.glookups (group % 16) 0, res := 0 })

/-- PBC_BAD_COMMAND (R289). -/
def execPbcBadCommand (pbc : Nat) (op : BitVec 8) (s : State) : Out :=
  if (s.pbcOf pbc).busy.isSome ∨ (1 ≤ op.toNat ∧ op.toNat ≤ 6) then .next s else .next (s.pbcRes pbc 1)

/-- The hot-row area of three register values is misaligned or leaves its stack (R287). -/
def State.hotAreaBad (s : State) (n : Nat) (base : BitVec 52) (slots : BitVec 20) (log2 : BitVec 4) : Bool :=
  decide (slots ≠ 0) && (decide (base.toNat % 65536 ≠ 0) || decide (base.toNat / 2 ^ 44 ≠ s.myMod.toNat * 16 + n) ||
    decide (2 ^ 36 < base.toNat % 2 ^ 44 + slots.toNat * 2 ^ log2.toNat))

/-- A write to one of the three registers of the hot-row area, accepted or refused with CFG_ERR (R287). -/
def State.hotWrite (s : State) (n : Nat) (base : BitVec 52) (slots : BitVec 20) (log2 : BitVec 4) : Out :=
  if (s.pbcOf n).used ≠ 0 ∨ s.hotAreaBad n base slots log2 then .next (s.onPbc n fun p => { p with cfgErr := true })
  else .next (s.onPbc n fun p => { p with hotBase := base, hotSlots := slots, slotLog2 := log2 })

/-- HOT_BASE_WRITE (R287). -/
def execHotBaseWrite (pbc : Nat) (v : Word) (s : State) : Out :=
  let p := s.pbcOf pbc
  s.hotWrite pbc (v.setWidth 52) p.hotSlots p.slotLog2
/-- HOT_SLOTS_WRITE (R287). -/
def execHotSlotsWrite (pbc : Nat) (v : Word) (s : State) : Out :=
  let p := s.pbcOf pbc
  s.hotWrite pbc p.hotBase (v.setWidth 20) p.slotLog2
/-- SLOTLOG2_WRITE (R287): the field at bits 27:24; a value outside 6 to 13 is no slot size and is refused. -/
def execSlotlog2Write (pbc : Nat) (v : Word) (s : State) : Out :=
  let p := s.pbcOf pbc
  let n := bits v.toNat 27 24
  if n < 6 ∨ 13 < n then .next (s.onPbc pbc fun p => { p with cfgErr := true })
  else s.hotWrite pbc p.hotBase p.hotSlots (BitVec.ofNat 4 n)
/-- MIG_LIMIT_WRITE (R287). -/
def execMigLimitWrite (pbc : Nat) (v : Word) (s : State) : Out :=
  .next (s.onPbc pbc fun p => { p with migLimit := BitVec.ofNat 32 (max 14000 (bits v.toNat 31 0)) })

/-! ### Queries (R301) -/

/-- The fields of a query. -/
def queryFields : Instr → Option CfOp
  | .gstat o | .gcntrd o | .gcntclr o | .gskrd o => some o
  | _ => none

/-- GSTAT's 16 bytes. -/
def State.gstatBytes (s : State) (t r : Nat) : Nat :=
  let d := s.table t
  if tRows d ≤ r then 2 ^ 79
  else
    let k := shardOf d r
    let place := k + shPbc d k <<< 8 + shMod d k <<< 11
    let st := match (s.pbcOf (shPbc d k)).find t r with
      | none => 0
      | some x =>
        (match x.st with | .migIn => 1 | .resident => 2 | .migOut => 3) + x.ref.toNat <<< 8 + x.slot <<< 32
    st + place <<< 64

/-- GSKRD's 16 bytes. -/
def State.gskrdBytes (s : State) (t r : Nat) : Nat :=
  let d := s.table t
  if tRows d ≤ r then 0
  else
    let p := s.pbcOf (shPbc d (shardOf d r))
    let g := tGroup d
    (p.sk g 0 t r).toNat + (p.sk g 1 t r).toNat <<< 16 + (p.sk g 2 t r).toNat <<< 32 + (p.sk g 3 t r).toNat <<< 48 +
      p.estimate g t r <<< 64

/-- Whether a shard is held here (`none`), or on another module that a command may, or may not, cross to (R298, R299). -/
def State.shardAway (s : State) (x : Prog) (d : Table) (k : Nat) : Option Bool :=
  if shPeerF d k then some (x.pvalid s (shPeer d k) && s.mayReachPeer (shPeer d k) false)
  else if shMod d k = s.myMod.toNat then none
  else some (s.mayReach (shMod d k))

/-- A row's holder is on another module: a command may cross to it or not. -/
def State.holderAway (s : State) (x : Prog) (d : Table) (r : Nat) : Option Bool :=
  if tRows d ≤ r then none else s.shardAway x d (shardOf d r)

/-- GSTAT's 16 bytes for a row held elsewhere, given what its holder has answered: state, reference bit and slot (R301). -/
def gstatAway (d : Table) (r v : Nat) : Nat :=
  let k := shardOf d r
  (if v % 4 = 0 then 0 else v % 4 + (v >>> 2 % 2) <<< 8 + (v >>> 3 % 2 ^ 20) <<< 32) + (k + shPbc d k <<< 8 + shMod d k <<< 11) <<< 64

/-- GSKRD's 16 bytes, given four sketch counters. -/
def gskrdAway (v : Nat) : Nat :=
  let c := fun i => v >>> (16 * i) % 65536
  c 0 + c 1 <<< 16 + c 2 <<< 32 + c 3 <<< 48 + min (min (c 0) (c 1)) (min (c 2) (c 3)) <<< 64

/-- A bucket or a query of command `q` of core `n` sent to the module that holds a shard; a peer is taken by its command (R354). -/
def State.crossShard (s : State) (n q : Nat) (d : Table) (k : Nat) : State :=
  if shPeerF d k then
    (s.onCmd n q fun c => { c with prog := c.prog.takePeerNo s (shPeer d k) }).crossPeer (shPeer d k) false
  else s.crossTo (shMod d k) 1

/-- A query of a row held elsewhere: answered with free values within what R301 defines, or not (log entry 3, DESIGN CHOICE). -/
def State.queryAway (s : State) (n : Nat) (c : Cmd) (o : CfOp) (t r : Nat) (words : BitVec 1024) : State :=
  let a := (s.crossShard n c.seq (s.table t) (shardOf (s.table t) r)).freshBool
  let v := a.2.fresh
  if !a.1 then a.2.cmdFailed n c.seq o.f (opOf c.ins) 0 0
  else
    let x := match c.ins with
      | .gstat _ => gstatAway (s.table t) r v.1.toNat
      | _ => gskrdAway v.1.toNat
    v.2.cmdResult n c o.f c.b.toNat 16 x words

/-- PBC_QUERY_ANSWER (R301). `words` are the words of the result that land now (R25). A query that would cross waits while crossings
are held (R379). -/
def execPbcQueryAnswer (core : Nat) (w : CmdWords 1024) (s : State) : Out :=
  match s.cmd? core w.seq with
  | none => .next s
  | some c =>
    match queryFields c.ins with
    | none => .next s
    | some o =>
      let row := match c.ins with
        | .gstat _ => true | .gskrd _ => true | _ => false
      let t := if row then bits c.a.toNat 41 32 else bits c.a.toNat 9 0
      let r := bits c.a.toNat 31 0
      let n := bits c.a.toNat 18 16
      let away := if row then s.holderAway c.prog (s.table t) r else none
      if c.prog.parked.isNone && (!c.prog.backoff.isEmpty || (s.trust.holds && away = some true)) then .next s
      else .next (s.orLand core c w.words
        (if !s.tableValid t ∨ away = some false then s.cmdFailed core w.seq o.f (opOf c.ins) 0 0
         else if away = some true then s.queryAway core c o t r w.words
         else match c.ins with
          | .gstat _ => s.cmdResult core c o.f c.b.toNat 16 (s.gstatBytes t r) w.words
          | .gskrd _ => s.cmdResult core c o.f c.b.toNat 16 (s.gskrdBytes t r) w.words
          | .gcntrd _ => s.cmdResult core c o.f c.b.toNat 64 ((s.pbcOf n).counterBytes t) w.words
          | .gcntclr _ =>
            (s.onPbc n fun p => { p with counters := Store.clearRange (8 * t) (8 * t + 8) p.counters }).cmdDone core w.seq o.f none
          | _ => s))

end Sys2Proof.Machine
end

