-- ==== Sys2Proof/Machine/Gather.lean ====
section
/-!
DEFINITION. Gather commands under way (R285, R286, R291-R293, R297-R300, R302): reading the lists, the lookups of each
bag's rows in the shards that hold them, and the bags written.
-/

namespace Sys2Proof.Machine

/-! ### Dequantisation (R283, R285) -/

/-- Element `j` of a stored row, its bytes as the number `v`. -/
def deq (d : Table) (v j : Nat) : FVal :=
  let q := rowScaleAt d
  let scaled := fun (x : Int) =>
    rneF32 (((ofF32 (BitVec.ofNat 32 (v >>> (8 * q)))).mul (ofInt x)).add (ofF32 (BitVec.ofNat 32 (v >>> (8 * q + 32)))))
  match tFormat d with
  | 0 => ofF32 (BitVec.ofNat 32 (v >>> (32 * j)))
  | 1 => ofBf (BitVec.ofNat 16 (v >>> (16 * j)))
  | 2 => ofE4m3 (BitVec.ofNat 8 (v >>> (8 * j)))
  | 3 => scaled (signedElem 8 (v >>> (8 * j) % 256))
  | 4 => scaled (signedElem 4 (v >>> (4 * j) % 16))
  | _ =>
    let pb := (tWidth d + 7) / 8
    scaled (signedElem 8 (bpnElement (fun p i => v.testBit (8 * (p * pb + i / 8) + i % 8)) j (tBpnk d) (tBpnMid d)))

/-- The bytes that a lookup of a row reads, as pieces: a BPN row's planes and its scale and bias, else the whole row. -/
def rowPieces (d : Table) : List (Nat × Nat) :=
  if tFormat d = 5 then [(0, tBpnk d * ((tWidth d + 7) / 8)), (rowScaleAt d, 8)] else [(0, rowStored d)]

/-- Pieces of a row read at its home. -/
def State.readPieces (s : State) (key : Nat) : List (Nat × Nat) → State × Nat × Bool
  | [] => (s, 0, false)
  | (o, n) :: l =>
    let a := s.homeReadLong 34 (key + o) n
    let b := a.1.readPieces key l
    (b.1, a.2.1 <<< (8 * o) + b.2.1, a.2.2 || b.2.2)

/-! ### List reads (R87, R93, R291) -/

/-- What a list read gives: the entry, or the address that its failure records. -/
abbrev ListRead := State × Except Nat Nat

/-- What a list read gives that cannot be made yet, in the place of the address of a failure: no address. -/
def notYet : Nat := 2 ^ 64

/-- Where byte `off` of a segment of core `n` lies: through the cached translations, or by a walk (R93). -/
def State.listPlace (s : State) (n : Nat) (e : Seg) (si : BitVec 6) (off : Nat) : State × Option Nat :=
  match placeOf e si (s.unAt n).tlb off false with
  | some k => (s, some k)
  | none =>
    match walk s e si off false with
    | .ok x => (s.walked e si off false, some (x.pa + (segBase e + off - x.va)))
    | .error _ => (s.walked e si off false, none)

/-- A read of one byte waits: a remote store of the die is writing its sector (R347), or it would cross while crossings are held
(R379). -/
def State.readHeld (s : State) (die key : Nat) : Bool :=
  s.sectorHeld die (key / 256) ||
    (s.trust.holds && s.isRemoteKey key && !((s.sector die (key / 256)).serves (byteMask (key % 256) 1)))

/-- The walk for a byte of a list waits (R347). -/
def State.listWalkHeld (s : State) (n : Nat) (e : Seg) (si : BitVec 6) (off : Nat) : Bool :=
  (placeOf e si (s.unAt n).tlb off false).isNone && s.walkHeld (dieOf n) e off

/-- `k` bytes of a list, byte by byte: each may lie in a page of its own. A read whose crossing would be refused fails at once, held or
not. -/
def State.listBytes (s : State) (n : Nat) (x : Prog) (e : Seg) (si : BitVec 6) (off : Nat) : Nat → ListRead
  | 0 => (s, .ok 0)
  | k + 1 =>
    if s.listWalkHeld n e si off then (s, .error notYet)
    else match s.listPlace n e si off with
    | (s, none) => (s, .error (segBase e + off))
    | (s, some key) =>
      if !(s.mayLeave x key none) then (s, .error 0)
      else if s.readHeld (dieOf n) key then (s, .error notYet)
      else
        let r := s.dieRead (dieOf n) key 1
        if r.2.2 then (r.1, .error (s.readGranule (dieOf n) key 1).toNat)
        else match r.1.listBytes n x e si (off + 1) k with
          | (s1, .ok v) => (s1, .ok (r.2.1 + 256 * v))
          | (s1, .error a) => (s1, .error a)

/-- The segment, its number and the offset of entry `i` of the list that a capability names. -/
def State.listAt (s : State) (n : Nat) (cap : Word) (i : Nat) : Option (Seg × Nat) :=
  ((s.coreAt n).task.bind fun k => k.seg (capIdx cap)).map fun e => (e, capOffs cap + 4 * i)

/-- Entry `i`, 4 bytes, of the list that a capability names, read by a command of core `n`. -/
def State.readEntry (s : State) (n : Nat) (x : Prog) (cap : Word) (i : Nat) : ListRead :=
  match s.listAt n cap i with
  | none => (s, .error 0)
  | some (e, off) =>
    if segHas e .rd && inSegment e off (off + 3 : Nat) then
      let key := (s.listPlace n e (capIdx cap) off).2.getD 0
      let p := s.portRefuses key
      if p.1 then (p.2, .error 0) else p.2.listBytes n x e (capIdx cap) off 4
    else (s, .error 0)

/-- The three lists of a gather control block: 0 the offsets, 1 the indices, 2 the weights. -/
def Cmd.listCap (c : Cmd) (l : Nat) : Word := if l = 0 then gOffCap c.img else if l = 1 then gIdxCap c.img else gWCap c.img

/-- The number of entry `i` of list `l` among the words that a gather command has read before the others. -/
def listWord (l i : Nat) : Nat := 3 * i + l

/-- The word has been read. -/
def Prog.read (x : Prog) (k : Nat) : Bool := (Store.get 0 x.part (k / 1024)).getLsbD (k % 1024)

/-- A word read. -/
def Prog.take (x : Prog) (k : Nat) (v : BitVec 32) : Prog :=
  { x with part := Store.set 0 x.part (k / 1024) (Store.get 0 x.part (k / 1024) ||| BitVec.twoPow 1024 (k % 1024))
           took := Store.set 0 x.took k v }

/-- Entry `i` of list `l` of a gather command: as it was read before the others, or read now. -/
def State.listEntry (s : State) (n : Nat) (c : Cmd) (l i : Nat) : ListRead :=
  if c.prog.read (listWord l i) then (s, .ok (Store.get 0 c.prog.took (listWord l i)).toNat) else s.readEntry n c.prog (c.listCap l) i

/-! ### The bags (R291, R293) -/

/-- The descriptor that a gather command goes by: the one it was accepted with, or before that its table's. -/
def Cmd.gatherTable (c : Cmd) (s : State) : Table := (c.prog.gather.map (·.desc)).getD (s.table (gTable c.img))

/-- The fields of a gather command. -/
def gatherFields : Instr → Option CfOp
  | .gbag o | .gbagw o | .grows o | .gpref o => some o
  | _ => none

def isGrows : Instr → Bool
  | .grows _ => true
  | _ => false
def isGbagw : Instr → Bool
  | .gbagw _ => true
  | _ => false
def isGpref : Instr → Bool
  | .gpref _ => true
  | _ => false

/-- `k` entries of a bag from index entry `i` on, added to the bag. -/
def State.readBag (s : State) (n : Nat) (c : Cmd) (d : Table) (b : Bag) (i : Nat) : Nat → State × Except Nat Bag
  | 0 => (s, .ok b)
  | k + 1 =>
    match s.listEntry n c 1 i with
    | (s1, .error a) => (s1, .error a)
    | (s1, .ok r) =>
      let w := if isGbagw c.ins then s1.listEntry n c 2 i else (s1, .ok 0)
      match w with
      | (s2, .error a) => (s2, .error a)
      | (s2, .ok x) =>
        let b' := if r < tRows d then { b with rows := b.rows ++ [(r, BitVec.ofNat 32 x)] }
          else { b with invalid := b.invalid + 1 }
        s2.readBag n c d b' (i + 1) k

/-- A bag as its policy leaves it (R293). -/
def Bag.settle (b : Bag) (c : Cmd) (d : Table) : Bag :=
  if tFaultPolicy d && decide (0 < b.invalid) && !isGpref c.ins then { b with rows := [], fault := true } else b

/-- The bags from bag `b` on, `k` of them, `lo` being the offset entry of the first; with the failure that stopped the
reading. -/
def State.readBags (s : State) (n : Nat) (c : Cmd) (d : Table) (lo b : Nat) :
    Nat → State × List Bag × Option (Nat × Nat)
  | 0 => (s, [], none)
  | k + 1 =>
    let single := isGrows c.ins || isGpref c.ins
    let hi := if single then (s, Except.ok (b + 1)) else s.listEntry n c 0 (b + 1)
    match hi with
    | (s1, .error a) => (s1, [], some (b, a))
    | (s1, .ok h) =>
      if h < lo then (s1, [], some (b, 0))
      else match s1.readBag n c d ⟨[], 0, false⟩ lo (h - lo) with
        | (s2, .error a) => (s2, [], some (b, a))
        | (s2, .ok bag) =>
          let r := s2.readBags n c d h (b + 1) k
          (r.1, bag.settle c d :: r.2.1, r.2.2)

/-- The grant and the descriptor allow the command (R291, R297, R299). -/
def State.gatherAllowed (s : State) (n : Nat) (c : Cmd) : Bool :=
  let d := s.table (gTable c.img)
  let granted := match (s.coreAt n).task.bind fun k => k.segs[gSeg c.img]? with
    | none => false
    | some e => decide (segKind e = 0) && segRd e && segBase e == tGrant d
  s.tableValid (gTable c.img) && granted && gWidth c.img == tWidth d && (!isGbagw c.ins || tPool d == 2)

/-- A gather command fails at bag `b` (R299): the lowest such bag counts. -/
def GatherProg.failAt (g : GatherProg) (b : Nat) (a : Nat) : GatherProg :=
  match g.fail with
  | none => { g with fail := some (b, BitVec.ofNat 52 a) }
  | some x => if b < x.1 then { g with fail := some (b, BitVec.ofNat 52 a) } else g

/-- The shards that a bag's rows lie in, ascending. -/
def Bag.shards (b : Bag) (d : Table) : List Nat :=
  (List.range (tShards d)).filter fun k => b.rows.any fun r => shardOf d r.1 == k

/-- Bags below the failure, or all of them. -/
def GatherProg.bound (g : GatherProg) : Nat := match g.fail with
  | none => g.bags.length
  | some x => x.1

/-- Every promotion that a GPREF's counts started has ended (R300). -/
def State.promosDone (s : State) (t : Nat) (l : List (Nat × Nat)) : Bool :=
  l.all fun p => !(((s.pbcOf p.1).find t p.2).any fun x => x.st == .migIn)

/-- Every shard of a bag has answered. -/
def GatherProg.answered (g : GatherProg) (d : Table) (b : Nat) : Bool :=
  match g.bags[b]? with
  | none => true
  | some x => (x.shards d).all fun k => g.parts.any fun p => p.bag == b && p.shard == k

/-- The command completes, or fails once every bag below the failure is written (R297, R299, R300). -/
def State.gatherEnd (s : State) (n q : Nat) : State :=
  match s.cmd? n q with
  | none => s
  | some c =>
    match c.prog.gather, gatherFields c.ins with
    | some g, some o =>
      let d := g.desc
      let whole := ((List.range g.bound).all fun b =>
        if isGpref c.ins then g.answered d b else g.written.contains b) && g.landed.all fun x => g.written.contains (x.1 % 4096)
      if !whole then s
      else match g.fail with
        | some x => s.cmdFailed n q o.f (opOf c.ins) x.1 x.2
        | none =>
          if isGpref c.ins && !s.promosDone (gTable c.img) g.promos then s else s.cmdDone n q o.f none
    | none, _ => s
    | _, none => s

/-- One bag an index, with no offset list (R291, R300). -/
def isSingle (i : Instr) : Bool := isGrows i || isGpref i

/-- The lists read to their ends, and the command accepted: with its bags, or failed before them all (R291, R293, R297-R299); not yet,
where one of the reads is held. -/
def State.acceptGather (s : State) (n : Nat) (c : Cmd) (o : CfOp) : State :=
  let d := s.table (gTable c.img)
  match (if isSingle c.ins then (s, Except.ok 0) else s.listEntry n c 0 0) with
  | (s1, .error a) => if a = notYet then s else s1.cmdFailed n c.seq o.f (opOf c.ins) 0 (BitVec.ofNat 52 a)
  | (s1, .ok lo) =>
    let r := s1.readBags n c d lo 0 (gBags c.img)
    let g : GatherProg := ⟨r.2.1, r.2.2.map fun x => (x.1, BitVec.ofNat 52 x.2), [], [], [], [], d⟩
    if r.2.2.any fun x => x.2 == notYet then s
    else (r.1.onCmd n c.seq fun c =>
      { c with prog := { c.prog with accepted := true, gather := some g, part := [], took := [] } }).gatherEnd n c.seq

/-- Entry `i` of list `l` is one that the command reads, as far as the offsets read so far say. -/
def Cmd.listDue (c : Cmd) (l i : Nat) : Bool :=
  let off := fun b => (Store.get 0 c.prog.took (listWord 0 b)).toNat
  let have' := fun b => c.prog.read (listWord 0 b)
  if l = 0 then !(isSingle c.ins) && decide (i ≤ gBags c.img)
  else (l == 1 || isGbagw c.ins) &&
    if isSingle c.ins then decide (i < gBags c.img)
    else (List.range (gBags c.img)).any fun b => have' b && have' (b + 1) && decide (off b ≤ i) && decide (i < off (b + 1))

/-- One word of the lists read before the others (R95), or words of the RDC's sector that holds it taken; one that is held or that
fails is left to the acceptance. -/
def State.readEarly (s : State) (n q k : Nat) (words : BitVec 64) : State :=
  match s.cmd? n q with
  | none => s
  | some c =>
    let at' := (s.listAt n (c.listCap (k % 3)) (k / 3)).bind fun x => (s.listPlace n x.1 (capIdx (c.listCap (k % 3))) x.2).2
    if c.prog.read k || !(c.listDue (k % 3) (k / 3)) then s
    else match s.readEntry n c.prog (c.listCap (k % 3)) (k / 3), at' with
      | (_, .error _), _ => s
      | (_, .ok _), none => s
      | (s1, .ok v), some key =>
        if s.fillsPart (dieOf n) key 4 false then (s.fillPart (dieOf n) (key / 256) words).1
        else s1.onCmd n q fun c => { c with prog := (c.prog.takePeer s key).take k (BitVec.ofNat 32 v) }

/-- GATHER_ACCEPT: the accepting PBC checks the grant and the descriptor and reads the lists (R291, R293, R297-R299), once
the command's accesses may perform (R302) and none of them is held: the words of the lists that a block and a mask name are read before
the others, for no access of several words is atomic (R95); a mask of all ones reads the rest, and accepts the command. -/
def execGatherAccept (core : Nat) (w : CmdBlock) (s : State) : Out :=
  match s.cmd? core w.seq with
  | none => .next s
  | some c =>
    match gatherFields c.ins with
    | none => .next s
    | some o =>
      if c.prog.accepted || !c.prog.backoff.isEmpty || !(s.clear core w.seq c.cls false) then .next s
      else if !s.gatherAllowed core c || s.badTables.contains (gTable c.img) then .next (s.cmdFailed core w.seq o.f (opOf c.ins) 0 0)
      else if w.words = BitVec.allOnes 1024 then .next (s.acceptGather core c o)
      else .next (((List.range 1024).filter w.words.getLsbD).foldl
        (fun s i => s.readEarly core w.seq (1024 * w.blk + i) (w.words.setWidth 64)) s)

/-! ### Lookups (R286, R302, R303) -/

/-- The terms of a shard's partial. -/
structure PoolSum where
  count : Nat
  accs : List LongAcc
  maxs : List FVal

/-- A row's terms added: by long accumulator, or as a running maximum. -/
def PoolSum.add (p : PoolSum) (term : Nat → FVal) (w : Nat) : PoolSum :=
  { count := p.count + 1
    accs := (List.range w).map fun j => (p.accs.getD j .zero).addTerm (term j)
    maxs := (List.range w).map fun j => if p.count = 0 then term j else poolMax (p.maxs.getD j .nan) (term j) }

/-- The kind of pooling of a command (R286, R297): GROWS always sums. -/
def poolKind (c : Cmd) (d : Table) : Nat := if isGrows c.ins then 0 else tPool d

/-- A shard's partial (R81). -/
def PoolSum.partial (p : PoolSum) (kind bag shard : Nat) : Partial :=
  ⟨bag, shard, p.count, if kind = 3 then p.maxs.map toF32 else p.accs.map fun a => toF32 (rneF32 a.value)⟩

/-- REF of a RESIDENT row (R305). -/
def Pbc.refer (p : Pbc) (t r : Nat) : Pbc :=
  { p with hot := p.hot.map fun (x : HotRow) => if x.table = t ∧ x.row = r ∧ x.st = .resident then { x with ref := true } else x }

/-- Two copies of `k` words, taken word by word from either: where they differ a free value says which (log entry 3, DESIGN CHOICE). -/
def State.eitherWords (s : State) (a b : Nat) : Nat → State × Nat
  | 0 => (s, 0)
  | k + 1 =>
    let x := a % 2 ^ 32
    let y := b % 2 ^ 32
    let f := if x = y then (true, s) else s.freshBool
    let r := f.2.eitherWords (a >>> 32) (b >>> 32) k
    (r.1, (if f.1 then x else y) + r.2 <<< 32)

/-- The bytes of pieces of a row as they stand, none of them poisoned. -/
def State.piecesAt (s : State) (key : Nat) (l : List (Nat × Nat)) : Option Nat :=
  if l.any fun p => s.poisonAt (key + p.1) p.2 then none
  else some (l.foldl (fun v p => v + s.bytesAt (key + p.1) p.2 <<< (8 * p.1)) 0)

/-- The granule whose poison a read of pieces of a row consumes. -/
def State.pieceGranule (s : State) (key : Nat) (l : List (Nat × Nat)) : BitVec 52 :=
  ((l.map fun p => s.homeGranule (key + p.1) p.2).find? fun g => g != 0).getD 0

/-- One lookup by a holding PBC of this module: its step in the sketch, the row read, and its term (R302, R303). A row of a trainable
table is read at its home, from which the PBC serves the hot copy with its pending bins applied (R306, R333); of one of another table
that is RESIDENT, software may have written the home, and each word is then either copy's (R307). The answer is the row's bytes, or the
address of the poison consumed. -/
def State.lookupRow (s : State) (d : Table) (t r : Nat) : State × Except Nat Nat :=
  let n := shPbc d (shardOf d r)
  let s1 := s.onPbc n fun p => (p.sketchCount d t r s.wall).1
  let live := ((s1.pbcOf n).find t r).any HotRow.live
  let s2 := s1.onPbc n fun p =>
    let p2 := (p.refer t r).count t 3 1
    if live then p2.count t 4 1 else p2
  let home := s2.rowHome d r
  let key := if tTrain d then home else s2.rowCopy n t r home
  let x := s2.readPieces key (rowPieces d)
  if x.2.2 then (x.1, .error (s2.pieceGranule key (rowPieces d)).toNat)
  else
    let y := x.1.eitherWords x.2.1 ((x.1.piecesAt home (rowPieces d)).getD x.2.1) ((rowStored d + 3) / 4)
    if key = home then (x.1, .ok x.2.1) else (y.1, .ok y.2)

/-- The rows of one shard of a bag looked up one after another. -/
def State.lookupRows (s : State) (c : Cmd) (d : Table) (p : PoolSum) : List (Nat × BitVec 32) → State × Except Nat PoolSum
  | [] => (s, .ok p)
  | (r, w) :: l =>
    match s.lookupRow d (gTable c.img) r with
    | (s1, .error a) => (s1, .error a)
    | (s1, .ok v) =>
      let term := fun j => if isGbagw c.ins then rneF32 ((ofF32 w).mul (deq d v j)) else deq d v j
      s1.lookupRows c d (p.add term (tWidth d)) l

/-- GPREF's counts of the rows of one shard, with the promotions that they started. -/
def State.countRows (s : State) (d : Table) (t : Nat) : List (Nat × BitVec 32) → State × List (Nat × Nat)
  | [] => (s, [])
  | (r, _) :: l =>
    let n := shPbc d (shardOf d r)
    let x := (s.pbcOf n).sketchCount d t r s.wall
    let y := (s.onPbc n fun _ => x.1).countRows d t l
    (y.1, if x.2 then (n, r) :: y.2 else y.2)

/-- An FP32 pattern that an element of a partial can hold (R81): NaN in its canonical pattern, and but for MAX no -0. -/
def partialWord (kind : Nat) (w : BitVec 32) : BitVec 32 :=
  if kind ≠ 3 ∧ (ofF32 w).isZero = true then 0 else toF32 (ofF32 w)

/-- The elements of a partial that another module answers with: free values (log entry 3, DESIGN CHOICE) that a partial can hold. -/
def State.freshWords (s : State) (kind : Nat) : Nat → State × List (BitVec 32)
  | 0 => (s, [])
  | k + 1 =>
    let f := s.fresh
    let r := f.2.freshWords kind k
    (r.1, partialWord kind (f.1.setWidth 32) :: r.2)

def State.onGather (s : State) (n q : Nat) (f : GatherProg → GatherProg) : State :=
  s.onCmd n q fun c => { c with prog := { c.prog with gather := c.prog.gather.map f } }

/-- The holder of a bag's bucket of `m` rows for shard `k` does not answer: the bag fails (R299), but not a GPREF, which has counted
none of them (R300). -/
def State.bucketLost (s : State) (n : Nat) (c : Cmd) (bag k m : Nat) : State :=
  (s.onGather n c.seq fun g => if isGpref c.ins then { g with parts := g.parts ++ [⟨bag, k, m, []⟩] } else g.failAt bag 0).gatherEnd n c.seq

/-- A bag's bucket for shard `k` looked up. A holder here whose table is no longer the one that the command was accepted with finds it
not VALID (R299). -/
def State.lookupShard (s : State) (n : Nat) (c : Cmd) (bag k : Nat) (rows : List (Nat × BitVec 32)) : State :=
  let d := c.gatherTable s
  let q := c.seq
  let lost := s.table (gTable c.img) ≠ d ∨ s.badTables.contains (gTable c.img) = true
  let fail := fun (s : State) (a : Nat) => (s.onGather n q fun g => g.failAt bag a).gatherEnd n q
  let done := fun (s : State) (p : Partial) => (s.onGather n q fun g => { g with parts := g.parts ++ [p] }).gatherEnd n q
  match s.shardAway c.prog d k with
  | some false => s.bucketLost n c bag k rows.length
  | some true =>
    if isGpref c.ins then done (s.crossShard n q d k) ⟨bag, k, rows.length, []⟩
    else
      let a := (s.crossShard n q d k).freshBool
      if a.1 then
        let v := a.2.freshWords (poolKind c d) (tWidth d)
        done v.1 ⟨bag, k, rows.length, v.2⟩
      else fail a.2 0
  | none =>
    if lost then fail s 0
    else if isGpref c.ins then
      let x := s.countRows d (gTable c.img) rows
      done (x.1.onGather n q fun g => { g with promos := g.promos ++ x.2 }) ⟨bag, k, rows.length, []⟩
    else
      match s.lookupRows c d ⟨0, [], []⟩ rows with
      | (s1, .error a) => fail s1 a
      | (s1, .ok p) => done s1 (p.partial (poolKind c d) bag k)

/-- The number by which the NACKs of a bucket's access go (R343). -/
def bucketKey (bag shard : Nat) : Nat := 1 + 64 * bag + shard

/-- The rows of a bag's bucket that may be looked up: not yet answered, not in back-off (R343), and its crossing not held (R379). -/
def State.bucketDue (s : State) (c : Cmd) (bag shard : Nat) : List (Nat × BitVec 32) :=
  match c.prog.gather with
  | none => []
  | some g =>
    if (g.parts.any fun p => p.bag == bag && p.shard == shard) || c.prog.backoff.contains (bucketKey bag shard) ||
        (s.trust.holds && s.shardAway c.prog g.desc shard = some true) then []
    else match g.bags[bag]? with
      | none => []
      | some b => b.rows.filter fun r => shardOf g.desc r.1 == shard

/-- SHARD_LOOKUP (R298, R302). -/
def execShardLookup (core seq bag shard : Nat) (s : State) : Out :=
  match s.cmd? core seq with
  | none => .next s
  | some c =>
    if s.bucketDue c bag shard = [] then .next s
    else .next (s.lookupShard core c bag shard (s.bucketDue c bag shard))

/-! ### Bags written (R292, R293, R297) -/

/-- A list of FP32 patterns as bytes. -/
def wordsNum : List (BitVec 32) → Nat
  | [] => 0
  | x :: l => x.toNat + 2 ^ 32 * wordsNum l

/-- Insertion of a partial into a list in ascending shard order. -/
def insertPart (p : Partial) : List Partial → List Partial
  | [] => [p]
  | x :: l => if p.shard ≤ x.shard then p :: x :: l else x :: insertPart p l

/-- A bag's partials in ascending shard order, as POOL_COMBINE takes them. -/
def GatherProg.partsOf (g : GatherProg) (b : Nat) : List (Nat × List (BitVec 32)) :=
  (((g.parts.filter fun p => p.bag == b).foldl (fun l p => insertPart p l) []).map fun p => (p.count, p.vals))

/-- A bag's output, and the count of terms that its status reports. -/
def GatherProg.combined (g : GatherProg) (c : Cmd) (bag : Nat) : List (BitVec 32) × Nat :=
  poolCombine (poolKind c g.desc) (tWidth g.desc) (g.partsOf bag)

/-- The status of a bag (R293). -/
def Bag.status (b : Bag) (terms : Nat) : Nat := terms % 2 ^ 32 + min b.invalid (2 ^ 24 - 1) * 2 ^ 32 + b.fault.toNat * 2 ^ 56

/-- The words of the output of a bag that have landed stand in its table by its number, those of its status behind them all. -/
def statusKey (bag : Nat) : Nat := 4096 + bag

/-- Words of a bag's output and of its status land (R25); with the last of them the counters of the accepting PBC count it. -/
def State.landBag (s : State) (n : Nat) (c : Cmd) (g : GatherProg) (w : BagWords) (b : Bag) : State :=
  let k := 4 * tWidth g.desc
  let l := gOutOff c.img + k * w.bag
  let m := gStOff c.img + 8 * w.bag
  let had := Store.get 0 g.landed w.bag
  let hadSt := Store.get 0 g.landed (statusKey w.bag)
  let st := (w.status.setWidth 1024) ||| (if w.status = BitVec.allOnes 8 then BitVec.allOnes 1024 else 0)
  let x := g.combined c w.bag
  let s1 := (s.winWords n c.win l k (wordsNum x.1) (w.words &&& ~~~had)).winWords n c.win2 m 8 (b.status x.2) (st &&& ~~~hadSt)
  if wordsFull c.win l k (had ||| w.words) && wordsFull c.win2 m 8 (hadSt ||| st) then
    ((s1.onPbc (dieOf n) fun p =>
        ((p.count (gTable c.img) 0 b.invalid).count (gTable c.img) 1 b.fault.toNat).count (gTable c.img) 2 1).onGather n c.seq fun g =>
      { g with written := g.written ++ [w.bag]
               landed := Store.set 0 (Store.set 0 g.landed w.bag 0) (statusKey w.bag) 0 }).gatherEnd n c.seq
  else s1.onGather n c.seq fun g =>
    { g with landed := Store.set 0 (Store.set 0 g.landed w.bag (had ||| w.words)) (statusKey w.bag) (hadSt ||| st) }

/-- Words of a bag have landed, and it will be written in full (R299). -/
def GatherProg.begun (g : GatherProg) (bag : Nat) : Bool :=
  Store.get 0 g.landed bag != 0 || Store.get 0 g.landed (statusKey bag) != 0

/-- PARTIAL_COMBINE: a bag whose partials have all arrived is combined, and words of its output and its status are written (R25); one that
has begun is written in full (R299). Of a GPREF, which writes none, whether it has completed is looked at. -/
def execPartialCombine (core seq : Nat) (w : BagWords) (s : State) : Out :=
  match s.cmd? core seq with
  | none => .next s
  | some c =>
    match c.prog.gather with
    | none => .next s
    | some g =>
      match g.bags[w.bag]? with
      | none => .next s
      | some b =>
        if isGpref c.ins then .next (s.gatherEnd core seq)
        else if (g.bound ≤ w.bag ∧ g.begun w.bag = false) ∨ g.written.contains w.bag = true ∨ g.answered g.desc w.bag = false then .next s
        else .next (s.landBag core c g w b)

end Sys2Proof.Machine
end

