-- ==== Sys2Proof/Machine/ExchangeCmd.lean ====
section
/-!
DEFINITION. The exchange instructions at issue (R351, R352, R355-R357, R361, R363, R364): the exchange control block,
the checks, and the entries of the exchange queue; XCAN, which acts at once.
-/

namespace Sys2Proof.Machine

/-! ### The exchange control block (R357) -/

def xGroup (g : Gcb) : Nat := bits (recWord g 0) 5 0
def xMyRank (g : Gcb) : Nat := bits (recWord g 0) 13 8
def xOrd (g : Gcb) : Bool := bit (recWord g 0) 16
def xFmt (g : Gcb) : Bool := bit (recWord g 0) 17
def xDstW (g : Gcb) : BitVec 5 := BitVec.ofNat 5 (bits (recWord g 0) 28 24)
def xSrcOff (g : Gcb) : Nat := bits (recWord g 1) 31 0
def xDstOff (g : Gcb) : Nat := bits (recWord g 2) 31 0
def xBlk (g : Gcb) : Nat := bits (recWord g 3) 24 0

/-- Check 1 of a collective (R364): reserved bits, BLK and the offsets; XFMT stands in XPOOL alone. -/
def xcbBad (g : Gcb) (pool : Bool) : Bool :=
  decide (bits (recWord g 0) 7 6 ≠ 0) || decide (bits (recWord g 0) 15 14 ≠ 0) || decide (bits (recWord g 0) 23 18 ≠ 0) ||
  decide (recWord g 0 / 2 ^ 29 ≠ 0) || decide (recWord g 1 / 2 ^ 32 ≠ 0) || decide (recWord g 2 / 2 ^ 32 ≠ 0) ||
  decide (recWord g 3 / 2 ^ 25 ≠ 0) || ((List.range 4).any fun i => decide (recWord g (4 + i) ≠ 0)) ||
  (xFmt g && !pool) || decide (xSrcOff g % 4 ≠ 0) || decide (xDstOff g % 4 ≠ 0) ||
  decide (xBlk g < 4) || decide (2 ^ 24 < xBlk g) || decide (xBlk g % 4 ≠ 0)

/-! ### Checks (R364) -/

def collectiveTrap (t : Timed) (o : CfOp) (pool : Bool) : Option Trap :=
  let a := t.sreg o.sa
  if blockBad a || xcbBad (blockAt t a) pool then trap 0x48 a
  else if (t.win (cfW o)).isNone then trap 0x49 ((cfW o).setWidth 64) else none

/-- A window of `n` bytes at L. -/
def xwinTrap (t : Timed) (o : CfOp) (n : Nat) : Option Trap :=
  if windowFits t (cfW o) (t.sreg o.sb).toNat n then none else trap 0x49 ((cfW o).setWidth 64)

def xstatTrap (t : Timed) (o : CfOp) : Option Trap :=
  if 4096 ≤ (t.sreg o.sa).toNat then trap 0x48 (t.sreg o.sa) else xwinTrap t o 16

/-! ### Issue -/

/-- A command in the exchange queue. -/
def exchangeCmd (i : Instr) (o : CfOp) (s : State) : Cmd :=
  let t := s.timed
  newCmd t s.un .exchange i o.cls (t.sreg o.sa) (t.sreg o.sb) (t.win (cfW o)) none (blockAt t (t.sreg o.sa))

/-- XSEND (R356): no check at issue; it is accepted at once (R361). -/
def execXsend (o : CfOp) (s : State) : Out :=
  let t := s.timed
  let c := newCmd t s.un .exchange (.xsend o) o.cls (t.sreg o.sa) (t.sreg o.sb) none none 0
  issueFlagged none o.f { c with prog := { c.prog with accepted := true } } s
/-- XA2A (R357, R358). -/
def execXa2a (o : CfOp) (s : State) : Out :=
  issueFlagged (collectiveTrap s.timed o false) o.f (exchangeCmd (.xa2a o) o s) s
/-- XBKT (R357, R358). -/
def execXbkt (o : CfOp) (s : State) : Out :=
  issueFlagged (collectiveTrap s.timed o false) o.f (exchangeCmd (.xbkt o) o s) s
/-- XPOOL (R357, R358). -/
def execXpool (o : CfOp) (s : State) : Out :=
  issueFlagged (collectiveTrap s.timed o true) o.f (exchangeCmd (.xpool o) o s) s
/-- XSTAT (R363), accepted at once (R361). -/
def execXstat (o : CfOp) (s : State) : Out :=
  let c := newCmd s.timed s.un .exchange (.xstat o) 0 (s.timed.sreg o.sa) (s.timed.sreg o.sb) (s.timed.win (cfW o)) none 0
  issueFlagged (xstatTrap s.timed o) o.f { c with prog := { c.prog with accepted := true } } s
/-- PCNT (R351): in the copy queue. -/
def execPcnt (o : CfOp) (s : State) : Out :=
  issueFlagged (xwinTrap s.timed o 64) o.f
    (newCmd s.timed s.un .copy (.pcnt o) 0 0 (s.timed.sreg o.sb) (s.timed.win (cfW o)) none 0) s
/-- PWAIT (R352): in the copy queue. -/
def execPwait (o : CfOp) (s : State) : Out :=
  issueFlagged none o.f (newCmd s.timed s.un .copy (.pwait o) 0 0 0 none none 0) s

/-! ### XCAN (R363) -/

/-- The flag of an exchange command. -/
def exchangeFlag : Instr → BitVec 5
  | .xsend o | .xa2a o | .xbkt o | .xpool o | .xstat o => o.f
  | _ => 0

/-- The lowest rank that is not fully delivered, or XSEND's whole 256-byte blocks written (R362). -/
def Cmd.xreached (c : Cmd) : Nat := match c.ins with
  | .xsend _ => c.run
  | _ => ((c.prog.blocks.find? fun b => !b.ok || decide (b.got.length * 256 < b.len)).map (·.rank)).getD 0

/-- The failure of a stopped or failed exchange command. -/
def Cmd.xfail (c : Cmd) : Note :=
  ⟨exchangeFlag c.ins, false, none, some ⟨opOf c.ins, BitVec.ofNat 64 c.xreached, 0⟩⟩

/-- XCAN: every exchange command of the task that has not completed stops, its flag ERROR; then XCAN's own flag is SET. -/
def execXcan (o : CfOp) (s : State) : Out :=
  let n := s.focus.val
  let mine := s.un.queue.filter fun c => c.eng == .exchange
  let lost := s.adrift.filter fun a => s.refAt n == some a.who
  let s1 := s.setCore ((s.core.claim o.f))
  let s2 := mine.foldl (fun s c => (s.reportAt n c.xfail).dropCmd n c.seq) s1
  let s3 := lost.foldl (fun s a => s.reportAt n a.cmd.xfail) s2
  .next ({ s3 with adrift := s3.adrift.filter fun a => !(s.refAt n == some a.who) }.reportAt n ⟨o.f, true, none, none⟩)

end Sys2Proof.Machine
end

