-- ==== Sys2Proof/Machine/LatticeCmd.lean ====
section
/-!
DEFINITION. The Lattice instructions at issue (R316-R320, R322): handles, stream slots, the checks, and what a command
takes with it into the Lattice queue.
-/

namespace Sys2Proof.Machine

/-! ### Handles (R316) -/

def lhRegion (h : Word) : Nat := bits h.toNat 9 0
def lhUnit (h : Word) : Nat := bits h.toNat 13 10
def lhMod (h : Word) : Nat := bits h.toNat 17 14
def lhGen (h : Word) : BitVec 8 := h.extractLsb' 18 8
def lhBad (h : Word) : Bool := decide (h.toNat / 2 ^ 26 ≠ 0)

/-- The handle that a Lattice command carries. -/
def Cmd.lhandle (c : Cmd) : Word := c.img.setWidth 64

/-! ### Fields (R318) -/

/-- S of LOPEN, LCLOSE and LABORT, and of the pushes. -/
def lsSlot (o : CfOp) : Fin 4 := (o.ext.extractLsb' 0 2).toFin
def lpSlot (o : CfOp) : Fin 4 := (o.ext.extractLsb' 16 2).toFin
def loSeg (o : CfOp) : Nat := bits o.ext.toNat 7 2
def loWidth (b : Word) : Nat := bits b.toNat 10 0
def lpVk (o : CfOp) : BitVec 8 := o.ext.extractLsb' 0 8
def lpVv (o : CfOp) : BitVec 8 := o.ext.extractLsb' 8 8
def lqOff (o : CfOp) : Nat := 16 * bits o.ext.toNat 18 5

/-- The stream in a slot of the focused core's task. -/
def State.slotOf (s : State) (k : Fin 4) : Option StreamSlot := s.core.task.bind fun t => t.streams.get k

def Core.setSlot (c : Core) (k : Fin 4) (x : Option StreamSlot) : Core :=
  { c with task := c.task.map fun t => { t with streams := t.streams.set k.val x k.isLt } }

/-- V of R319. -/
def pushRegs (n w : Nat) : Nat := (n * w + 1023) / 1024

/-! ### Pairs (R322) -/

/-- Pairs of a push. -/
def Cmd.pushPairs (c : Cmd) : Nat := match c.ins with
  | .lpush _ => min 1024 c.a.toNat
  | .lpushs _ => 1
  | _ => 0

def Cmd.isPush (c : Cmd) : Bool := match c.ins with
  | .lpush _ => true
  | .lpushs _ => true
  | _ => false

/-- A push of one pair, whose key is in sa. -/
def Cmd.single (c : Cmd) : Bool := match c.ins with
  | .lpushs _ => true
  | _ => false

/-- The pairs of a push in order: key and values. -/
def pushPair (c : Cmd) (single : Bool) (i : Nat) : Nat × List (BitVec 32) :=
  let w := c.b.toNat
  let lane := fun e => BitVec.ofNat 32 (elem ((c.regs.drop (1 + e / 1024)).headD 0) 32 (e % 1024))
  (if single then bits c.a.toNat 31 0 else elem (c.regs.headD 0) 32 i, (List.range w).map fun j => lane (i * w + j))

/-- The keys of a push. -/
def Cmd.pushKeys (c : Cmd) : List Nat := (List.range c.pushPairs).map fun i => (pushPair c c.single i).1

/-! ### Checks (R319) -/

def lopenTrap (s : State) (o : CfOp) : Option Trap :=
  let a := s.timed.sreg o.sa
  let w := loWidth (s.timed.sreg o.sb)
  if lhBad a || decide (w = 0) || decide (1024 < w) then trap 0x45 a
  else if (s.slotOf (lsSlot o)).isSome then trap 0x46 (BitVec.ofNat 64 (lsSlot o).val) else none

/-- LPUSH with `n` pairs. -/
def lpushTrap (s : State) (o : CfOp) (n : Nat) (a : Word) : Option Trap :=
  match s.slotOf (lpSlot o) with
  | none => if 1024 < n then trap 0x45 a else trap 0x46 (BitVec.ofNat 64 (lpSlot o).val)
  | some x =>
    if 1024 < n ∨ 160 < (lpVv o).toNat + pushRegs n x.width then trap 0x45 a else none

def lcloseTrap (s : State) (o : CfOp) : Option Trap :=
  if (s.slotOf (lsSlot o)).isSome then none else trap 0x46 (BitVec.ofNat 64 (lsSlot o).val)

/-- LAPPLY and LSTEP. -/
def lhTrap (t : Timed) (o : CfOp) : Option Trap := if lhBad (t.sreg o.sa) then trap 0x45 (t.sreg o.sa) else none

/-- A query of `n` bytes. -/
def lqueryTrap (t : Timed) (o : CfOp) (n : Nat) : Option Trap :=
  if lhBad (t.sreg o.sa) then trap 0x45 (t.sreg o.sa)
  else if windowFits t (cfW o) (lqOff o) n then none
  else trap 0x47 ((cfW o).setWidth 64)

/-! ### Commands -/

/-- A command in the Lattice queue for a region. -/
def latticeCmd (i : Instr) (o : CfOp) (cls : BitVec 4) (h : Word) (s : State) : Cmd :=
  newCmd s.timed s.un .lattice i cls (s.timed.sreg o.sa) (s.timed.sreg o.sb) (s.timed.win (cfW o)) none (h.setWidth 1024)

/-- LOPEN (R317, R321): its slot is OPEN from now on. -/
def execLopen (o : CfOp) (s : State) : Out :=
  match lopenTrap s o with
  | some k => .next (s.takeTrap 7 k)
  | none =>
    if s.un.room .lattice then
      let h := s.timed.sreg o.sa
      let id := 2 * s.nuid
      let x : StreamSlot := ⟨h, loWidth (s.timed.sreg o.sb), o.cls, id⟩
      let c := { latticeCmd (.lopen o) o o.cls h s with uid := id }
      let s1 := (s.setCore ((s.core.claim o.f).setSlot (lsSlot o) (some x))).enqueue c false
      .next { s1 with nuid := s.nuid + 1 }
    else .next s

/-- A push of `n` pairs to an open stream, in its class: the key register and the value registers as they stand (R100, R322). -/
def State.pushOf (s : State) (i : Instr) (o : CfOp) (n : Nat) (x : StreamSlot) : Cmd :=
  let t := s.timed
  let regs := t.vreg (lpVk o) :: (List.range (pushRegs n x.width)).map fun k => t.vreg (lpVv o + BitVec.ofNat 8 k)
  { latticeCmd i o x.cls x.handle s with uid := x.uid, regs := regs, b := BitVec.ofNat 64 x.width }

/-- A push of `n` pairs at issue. -/
def pushCmd (i : Instr) (o : CfOp) (n : Nat) (s : State) : Out :=
  match lpushTrap s o n (s.timed.sreg o.sa) with
  | some k => .next (s.takeTrap 7 k)
  | none =>
    match s.slotOf (lpSlot o) with
    | none => .next s
    | some x =>
      if s.un.room .lattice then .next (s.enqueue (s.pushOf i o n x) false) else .next s

/-- LPUSH (R322). -/
def execLpush (o : CfOp) (s : State) : Out := pushCmd (.lpush o) o (s.timed.sreg o.sa).toNat s
/-- LPUSHS (R322). -/
def execLpushs (o : CfOp) (s : State) : Out := pushCmd (.lpushs o) o 1 s

/-- LCLOSE or LABORT: its slot is CLOSED from now on; the command is in its stream's class (R317, R335). -/
def closeCmd (i : Instr) (o : CfOp) (s : State) : Out :=
  match lcloseTrap s o with
  | some k => .next (s.takeTrap 7 k)
  | none =>
    match s.slotOf (lsSlot o) with
    | none => .next s
    | some x =>
      if s.un.room .lattice then
        .next ((s.setCore ((s.core.claim o.f).setSlot (lsSlot o) none)).enqueue
          { latticeCmd i o x.cls x.handle s with uid := x.uid } false)
      else .next s

/-- LCLOSE (R323). -/
def execLclose (o : CfOp) (s : State) : Out := closeCmd (.lclose o) o s
/-- LABORT (R323). -/
def execLabort (o : CfOp) (s : State) : Out := closeCmd (.labort o) o s

/-- LAPPLY (R337). -/
def execLapply (o : CfOp) (s : State) : Out :=
  issueFlagged (lhTrap s.timed o) o.f (latticeCmd (.lapply o) o 0 (s.timed.sreg o.sa) s) s
/-- LSTEP (R337). -/
def execLstep (o : CfOp) (s : State) : Out :=
  issueFlagged (lhTrap s.timed o) o.f (latticeCmd (.lstep o) o 0 (s.timed.sreg o.sa) s) s
/-- LQUERY (R339). -/
def execLquery (o : CfOp) (s : State) : Out :=
  issueFlagged (lqueryTrap s.timed o 16) o.f (latticeCmd (.lquery o) o 0 (s.timed.sreg o.sa) s) s
/-- LSTAT (R338). -/
def execLstat (o : CfOp) (s : State) : Out :=
  issueFlagged (lqueryTrap s.timed o 64) o.f (latticeCmd (.lstat o) o 0 (s.timed.sreg o.sa) s) s
/-- LSPILL (R338). -/
def execLspill (o : CfOp) (s : State) : Out :=
  issueFlagged (lqueryTrap s.timed o 16) o.f (latticeCmd (.lspill o) o 0 (s.timed.sreg o.sa) s) s

end Sys2Proof.Machine
end

