-- ==== Sys2Proof/Machine/Lattice.lean ====
section
/-!
DEFINITION. The Lattice instances (R309-R315, R320-R339): the space of bins and back-pressure, regions and the host's
commands, pairs taken in, commits, applies, and the queries of cores.
-/

namespace Sys2Proof.Machine

/-! ### Space (R331, R332) -/

/-- The bytes of a bin. -/
def binSize (w : Nat) : Nat := (64 + 48 * w + 63) / 64 * 64

/-- Bin SRAM of an instance (R309). -/
def latticeSram : Nat := 16777216

/-- Bytes of a list of bins, in SRAM or in the spill area. -/
def binBytes (w : Nat) (spilled : Bool) (l : List Bin) : Nat := (l.filter fun b => b.spilled == spilled).length * binSize w

def LRegion.width (g : LRegion) : Nat := rWidth g.desc

/-- The bytes that a region's bins take. -/
def LRegion.usedIn (g : LRegion) (spilled : Bool) : Nat :=
  binBytes g.width spilled g.bins + (g.streams.map fun x => binBytes g.width spilled x.bins).foldl (· + ·) 0

/-- SRAM_USED. -/
def LatticeUnit.sramUsed (x : LatticeUnit) : Nat := (x.regions.map fun r => r.2.usedIn false).foldl (· + ·) 0

/-- Room in a region's spill area. -/
def LRegion.spillRoom (g : LRegion) : Nat := rSpillSize g.desc - g.usedIn true

/-- A new bin of a region goes to its spill area while there is room, and else to SRAM, from where the instance may move it (log entry
62, DESIGN CHOICE). -/
def LRegion.spills (g : LRegion) : Bool := decide (binSize g.width ≤ g.spillRoom)

def LRegion.stream? (g : LRegion) (uid : Nat) : Option Stream := g.streams.find? fun x => x.uid == uid

/-- The bins that a push to a region has still to make: one for each key of a row of the region that its stream, open or to be opened
before it, has none for. -/
def LRegion.newBins (g : LRegion) (c : Cmd) : Nat :=
  ((c.pushKeys.filter fun k => decide (g.rowLo ≤ k) && decide (k < g.rowHi) &&
    !((g.stream? c.uid).any fun st => st.bins.any fun b => b.key == k)).dedup).length

/-- The bins reserved for the pushes already issued to a region of this module (R332); one whose stream has failed needs none. -/
def State.reserved (s : State) (u r : Nat) (g : LRegion) : Nat :=
  (s.cores.toList.map fun c => (c.un.queue.map fun x =>
    if lhRegion x.lhandle = r ∧ lhUnit x.lhandle = u ∧ lhMod x.lhandle = s.myMod.toNat ∧ (findNum x.uid (s.unitOf u).dead).isNone
    then g.newBins x else 0).foldl (· + ·) 0).foldl (· + ·) 0

/-- The bytes of a region's committed bins of earlier epochs in SRAM, or in its spill area: an early apply may free them (R331). -/
def LRegion.oldBytes (g : LRegion) (spilled : Bool) : Nat :=
  binBytes g.width spilled (g.bins.filter fun b => b.epoch != g.epoch)

/-- The bytes of SRAM that `k` more bins of a region need, with `room` bytes free in its spill area: a bin stands in one of the two. -/
def LRegion.sramFor (g : LRegion) (room k : Nat) : Nat := (k - room / binSize g.width) * binSize g.width

/-- What the pushes already issued to the other regions of an instance need of its SRAM, beyond their own spill areas. -/
def State.reservedBeside (s : State) (u r : Nat) : Nat :=
  ((s.unitOf u).regions.map fun y => if y.1 = r then 0 else y.2.sramFor y.2.spillRoom (s.reserved u y.1 y.2)).foldl (· + ·) 0

/-- SRAM and a region's spill area have no room for `k` more bins of the region beside those reserved, if `sram` and `spill` more bytes
are free in the two. -/
def State.noRoom (s : State) (u r : Nat) (g : LRegion) (sram spill k : Nat) : Bool :=
  decide (latticeSram - (s.unitOf u).sramUsed + sram <
    s.reservedBeside u r + g.sramFor (g.spillRoom + spill) (s.reserved u r g + k))

/-- The same once every early apply that R331 allows has been made, of bins in SRAM or in the region's spill area. -/
def State.noRoomLate (s : State) (u r : Nat) (g : LRegion) (k : Nat) : Bool :=
  s.noRoom u r g (((s.unitOf u).regions.map fun y => y.2.oldBytes false).foldl (· + ·) 0) (g.oldBytes true) k

/-- Space nears full for a region (R331): there is no room for one more bin of it while bins of earlier epochs stand (log entry 62,
DESIGN CHOICE). -/
def State.nearFull (s : State) (u r : Nat) : Bool := match (s.unitOf u).region? r with
  | none => false
  | some g => s.noRoom u r g 0 0 1

/-- Back-pressure on a region (R332): after every early apply that R331 allows there is no room for one more bin. -/
def State.backPressure (s : State) (u r : Nat) : Bool := match (s.unitOf u).region? r with
  | none => false
  | some g => s.noRoomLate u r g 1

/-- A push does not issue: back-pressure is asserted on its region, or there is no room to reserve for its own pairs, as R332 has it
reserved for every push that issues (log entry 62, DEDUCED). One whose stream is gone needs none. -/
def State.pushWaits (s : State) (u r : Nat) (c : Cmd) : Bool := match (s.unitOf u).region? r with
  | none => false
  | some g => s.backPressure u r || s.noRoomLate u r g (g.newBins c)

/-- Back-pressure asserted on any region of an instance: BPCYC counts it. -/
def State.unitPressed (s : State) (u : Nat) : Bool := (s.unitOf u).regions.any fun x => s.backPressure u x.1

/-! ### Regions (R313-R315) -/

/-- `n` bytes at a global address lie in unit `u` of this module. -/
def State.inUnit (s : State) (u a n : Nat) : Bool := decide (a / 2 ^ 44 = s.myMod.toNat * 16 + u) && s.onModule a n

/-- The conditions of R315 on the table of a linked region of unit `u`. -/
def State.linkOk (s : State) (u : Nat) (d : BitVec 1024) : Bool :=
  let t := s.table (rTable d)
  let k := rShard d
  decide (rTable d < 1024) && s.tableValid (rTable d) && tTrain t && decide (tFormat t < 2) &&
  tFormat t == (rBf d).toNat && tWidth t == rWidth d && tPitch t == rPitch d && decide (k < tShards t) &&
  !shPeerF t k && shMod t k == s.myMod.toNat && decide (8 ≤ u) && shPbc t k == u - 8

/-- The test of R315 made again at an LOPEN or a commit: the table still is what RINIT captured. -/
def State.linkStill (s : State) (u : Nat) (g : LRegion) : Bool :=
  !rTlink g.desc ||
    (s.linkOk u g.desc &&
      (let t := s.table (rTable g.desc)
       let k := rShard g.desc
       shRowLo t k == g.rowLo && shRowHi t k == g.rowHi && tPitch t == g.pitch &&
         decide (s.myMod.toNat * 2 ^ 48 + u * 2 ^ 44 + shBase t k = g.rowBase)))

/-- The rows and keys of a region as RINIT captures them. -/
def State.capture (s : State) (u : Nat) (d : BitVec 1024) : LRegion :=
  let t := s.table (rTable d)
  let k := rShard d
  { desc := d
    rowLo := if rTlink d then shRowLo t k else 0
    rowHi := if rTlink d then shRowHi t k else rRows d
    rowBase := if rTlink d then s.myMod.toNat * 2 ^ 48 + u * 2 ^ 44 + shBase t k else rRowBase d
    pitch := rPitch d
    epoch := rEpoch0 d, nextSeq := 1, streams := [], bins := [], commits := 0, fails := 0, applies := 0, laccSat := false }

/-- R313. -/
def State.regionBad (s : State) (u : Nat) (d : BitVec 1024) : Bool :=
  let g := s.capture u d
  let m := rStateBytes d
  decide (recWord d 0 / 2 ^ 35 ≠ 0) || decide (recWord d 1 / 2 ^ 46 ≠ 0) || decide (recWord d 2 / 2 ^ 52 ≠ 0) ||
  decide (recWord d 3 / 2 ^ 52 ≠ 0) || decide (recWord d 4 / 2 ^ 16 ≠ 0) || decide (recWord d 6 / 2 ^ 32 ≠ 0) ||
  decide (recWord d 7 / 2 ^ 32 ≠ 0) || decide (recWord d 8 / 2 ^ 52 ≠ 0) || decide (recWord d 9 / 2 ^ 40 ≠ 0) ||
  ((List.range 6).any fun i => decide (recWord d (10 + i) ≠ 0)) ||
  decide (9 ≤ rOper d) || decide (2 ≤ bits (recWord d 0) 5 4) || (rSrnd d && decide (rOper d < 6)) ||
  decide (rWidth d = 0) || decide (1024 < rWidth d) ||
  decide (rPitch d < 4) || decide (8192 < rPitch d) || decide (rPitch d % 4 ≠ 0) || decide (rPitch d < rRowBytes d) ||
  (!rTlink d && (decide (rRows d = 0) || decide (rRowBase d % 256 ≠ 0) ||
    !s.inUnit u (rRowBase d) ((rRows d - 1) * rPitch d + rRowBytes d))) ||
  (decide (m ≠ 0) && (decide (rStatePitch d < m) ||
    !s.inUnit u (g.keyState g.rowLo) ((g.rowHi - 1 - g.rowLo) * rStatePitch d + m))) ||
  decide (rSpillSize d % 65536 ≠ 0) ||
  (decide (rSpillSize d ≠ 0) && (decide (rSpillBase d % 65536 ≠ 0) || !s.inUnit u (rSpillBase d) (rSpillSize d))) ||
  (rTlink d && !s.linkOk u d)

/-- RES and GENOUT at the end of a host command. -/
def State.latticeRes (s : State) (u r : Nat) (res : BitVec 4) : State :=
  s.onUnit u fun x => { x with res := res, genOut := if r < 1024 then Store.get 0 x.gens r else x.genOut }

/-- RINIT (R311). -/
def execRinit (unit region : Nat) (s : State) : Out :=
  let x := s.unitOf unit
  if 1024 ≤ region then .next (s.latticeRes unit region 2)
  else if (x.region? region).isSome then .next (s.latticeRes unit region 3)
  else if !(s.imageOk x.cmdAddr 128) then .next (s.latticeRes unit region 4)
  else
    let r := s.homeRead x.cmdAddr.toNat 128
    let d := BitVec.ofNat 1024 r.2.1
    if r.2.2 || r.1.regionBad unit d then .next (r.1.latticeRes unit region 4)
    else .next ((r.1.onUnit unit fun x => { x with regions := x.regions ++ [(region, r.1.capture unit d)] }).latticeRes
      unit region 0)

/-- Every committed bin of a region applied, key by key (BIN_APPLY). -/
def State.applyRegion (s : State) (u r : Nat) : State := (s.applyAll u r).1

/-- RFREE (R311). -/
def execRfree (unit region : Nat) (s : State) : Out :=
  if 1024 ≤ region then .next (s.latticeRes unit region 2)
  else match (s.unitOf unit).region? region with
    | none => .next (s.latticeRes unit region 3)
    | some g =>
      if g.streams ≠ [] then .next (s.latticeRes unit region 3)
      else .next (((s.applyRegion unit region).onUnit unit fun x =>
        { x with regions := x.regions.filter fun y => y.1 != region,
                 gens := Store.set 0 x.gens region (Store.get 0 x.gens region + 1) }).latticeRes unit region 0)

/-- A count as it fits a field of `w` bits. -/
def capTo (w n : Nat) : Nat := min n (2 ^ w - 1)

/-- The 64-byte status of a region (R338). -/
def State.statusOf (s : State) (u r : Nat) (g : LRegion) : Nat :=
  g.epoch.toNat + g.nextSeq % 2 ^ 64 * 2 ^ 64 + capTo 16 g.streams.length * 2 ^ 128 + capTo 32 g.bins.length * 2 ^ 192 +
  g.commits * 2 ^ 256 + g.fails * 2 ^ 320 + g.applies * 2 ^ 384 +
  (g.laccSat.toNat + 2 * (s.backPressure u r).toNat) * 2 ^ 448

/-- RREAD (R311). -/
def execRread (unit region : Nat) (s : State) : Out :=
  let x := s.unitOf unit
  if 1024 ≤ region then .next (s.latticeRes unit region 2)
  else match x.region? region with
    | none => .next (s.latticeRes unit region 3)
    | some g =>
      if !(s.imageOk x.cmdAddr 192) then .next (s.latticeRes unit region 4)
      else .next ((s.homeWriteLong 2 x.cmdAddr.toNat 192 (g.desc.toNat + s.statusOf unit region g * 2 ^ 1024)).latticeRes
        unit region 0)

/-- RFLUSH (R311). -/
def execRflush (unit region : Nat) (s : State) : Out :=
  if 1024 ≤ region then .next (s.latticeRes unit region 2)
  else match (s.unitOf unit).region? region with
    | none => .next (s.latticeRes unit region 3)
    | some _ => .next ((s.applyRegion unit region).latticeRes unit region 0)

/-! ### Streams (R321-R324) -/

def LRegion.onStream (g : LRegion) (uid : Nat) (f : Stream → Stream) : LRegion :=
  { g with streams := g.streams.map fun x => if x.uid = uid then f x else x }
def LRegion.dropStream (g : LRegion) (uid : Nat) : LRegion := { g with streams := g.streams.filter fun x => x.uid != uid }

/-- A stream fails: its bins are discarded, and what it had reached is kept until its LCLOSE or LABORT. -/
def LatticeUnit.failStream (x : LatticeUnit) (r uid : Nat) : LatticeUnit :=
  match (x.region? r).bind fun g => g.stream? uid with
  | none => x
  | some st =>
    { x.onRegion r fun g => { g.dropStream uid with fails := satAdd48 g.fails 1 } with
      dead := x.dead ++ [(uid, st.pairs)], badOpen := x.badOpen.filter fun y => y.1 != uid }

/-- A stream that commits nothing leaves its region. -/
def LatticeUnit.loseStream (x : LatticeUnit) (r uid : Nat) : LatticeUnit :=
  { x.onRegion r fun g => { g.dropStream uid with fails := satAdd48 g.fails 1 } with
    badOpen := x.badOpen.filter fun y => y.1 != uid }

/-- Every stream of a list of numbers fails. -/
def LatticeUnit.failStreams (x : LatticeUnit) (r : Nat) (l : List Nat) : LatticeUnit := l.foldl (fun x u => x.failStream r u) x

/-- RABORT (R311). -/
def execRabort (unit region : Nat) (s : State) : Out :=
  if 1024 ≤ region then .next (s.latticeRes unit region 2)
  else match (s.unitOf unit).region? region with
    | none => .next (s.latticeRes unit region 3)
    | some g => .next ((s.onUnit unit fun x => x.failStreams region (g.streams.map (·.uid))).latticeRes unit region 0)

/-- LATTICE_BAD_COMMAND (R311). -/
def execLatticeBadCommand (unit : Nat) (op : BitVec 4) (region : Nat) (s : State) : Out :=
  if 1 ≤ op.toNat ∧ op.toNat ≤ 5 then .next s else .next (s.latticeRes unit region 1)

/-- The region of this module that a handle names, VALID and of the generation expected (R321, R337). -/
def State.regionFor (s : State) (h : Word) : Option LRegion :=
  let x := s.unitOf (lhUnit h)
  if Store.get 0 x.gens (lhRegion h) = lhGen h then x.region? (lhRegion h) else none

/-- What an entry of a segment table needs for any stream: KIND GLOBAL, not pageable, UPD, WR and RD (R321). -/
def segStreams (e : Seg) : Bool := decide (segKind e = 0) && !segPageable e && segUpd e && segWr e && segRd e

/-- Such an entry grants the rows of a region. -/
def LRegion.grantedBy (g : LRegion) : Option Seg → Bool
  | none => false
  | some e => segStreams e && segBase e == g.rowBase && decide ((g.rowHi - g.rowLo) * g.pitch ≤ segLen e)

/-- Segment TSEG of core `n`'s task (R321). -/
def State.streamSeg (s : State) (n seg : Nat) : Option Seg := (s.coreAt n).task.bind fun k => k.segs[seg]?

/-- Segment TSEG of core `n`'s task grants the rows of a region (R321). -/
def State.rowsGranted (s : State) (n : Nat) (seg : Nat) (g : LRegion) : Bool := g.grantedBy (s.streamSeg n seg)

/-- A stream opened on a region: the next stream sequence number is its own. -/
def LRegion.openStream (g : LRegion) (uid : Nat) : LRegion :=
  { g with nextSeq := g.nextSeq + 1, streams := g.streams ++ [⟨uid, g.nextSeq, 0, []⟩] }

/-- A stream that failed at its LOPEN. -/
def LatticeUnit.failOpen (x : LatticeUnit) (r uid : Nat) (named : Bool) : LatticeUnit :=
  let x1 := { x with dead := x.dead ++ [(uid, 0)] }
  if named then x1.onRegion r fun g => { g with fails := satAdd48 g.fails 1 } else x1

/-! ### Bins (R326, R327, R330) -/

/-- An operator that keeps long accumulators. -/
def accOper (oper : Nat) : Bool := oper == 0 || decide (4 ≤ oper)

/-- A count with one more, and whether it has saturated (R79). -/
def addCount (a b : Nat) : Nat := min termLimit (a + b)

/-- One pair's bin. -/
def pairBin (oper key seqNo pos : Nat) (vals : List (BitVec 32)) (spilled : Bool) : Bin :=
  { key := key, epoch := 0, count := 1, accs := if accOper oper then vals.map fun v => LongAcc.zero.addTerm (ofF32 v) else [],
    vals := if accOper oper then [] else vals, last := (seqNo, pos), spilled := spilled }

/-- Two bins of one key together. -/
def Bin.join (oper : Nat) (a b : Bin) : Bin :=
  { a with
    count := addCount a.count b.count
    accs := List.zipWith LongAcc.merge a.accs b.accs
    vals := match oper with
      | 1 => zipF32 FVal.minOp a.vals b.vals
      | 2 => zipF32 FVal.maxOp a.vals b.vals
      | 3 => if a.last.1 < b.last.1 ∨ (a.last.1 = b.last.1 ∧ a.last.2 < b.last.2) then b.vals else a.vals
      | _ => []
    last := if a.last.1 < b.last.1 ∨ (a.last.1 = b.last.1 ∧ a.last.2 < b.last.2) then b.last else a.last }

/-- A bin joined to the one in a list that `same` picks, or added as a new one. -/
def joinInto (oper : Nat) (same : Bin → Bool) (b : Bin) : List Bin → List Bin
  | [] => [b]
  | x :: l => if same x then x.join oper b :: l else x :: joinInto oper same b l

/-- A bin whose count has saturated. -/
def anySaturated (l : List Bin) : Bool := l.any fun b => b.count == termLimit

/-- One pair taken into a stream of a region (R322-R324). A bad key fails the stream. -/
def LatticeUnit.takePair (x : LatticeUnit) (r uid key : Nat) (vals : List (BitVec 32)) : LatticeUnit :=
  if key = 0xFFFFFFFF then x
  else match x.region? r with
    | none => x
    | some g =>
      match g.stream? uid with
      | none => x
      | some st =>
        if key < g.rowLo ∨ g.rowHi ≤ key then x.failStream r uid
        else
          let oper := rOper g.desc
          let b := pairBin oper key st.seqNo st.pairs vals g.spills
          let bins := joinInto oper (fun y => y.key == key) b st.bins
          x.onRegion r fun g =>
            { g.onStream uid (fun st => { st with pairs := st.pairs + 1, bins := bins }) with
              laccSat := g.laccSat || anySaturated bins }

/-- The bins of a committed stream joined to the region's, for the current epoch. -/
def LRegion.commit (g : LRegion) (st : Stream) : LRegion :=
  let oper := rOper g.desc
  let bins := st.bins.foldl (fun l b =>
    joinInto oper (fun y => y.key == b.key && y.epoch == g.epoch) { b with epoch := g.epoch } l) g.bins
  { g.dropStream st.uid with bins := bins, commits := satAdd48 g.commits 1, laccSat := g.laccSat || anySaturated bins }

/-- A stream committed; a stream bin in error makes the committed bin it joins bad (R394). -/
def LatticeUnit.commitStream (x : LatticeUnit) (r : Nat) (st : Stream) : LatticeUnit :=
  { x.onRegion r fun g => g.commit st with
    bad := x.bad ++ (x.badOpen.filter fun y => y.1 == st.uid).map fun y => (r, y.2)
    badOpen := x.badOpen.filter fun y => y.1 != st.uid }

/-! ### Early applies (R331) -/

/-- The committed bins of a key of earlier epochs applied early, each counted in EARLY. -/
def State.applyEarly (s : State) (unit region key : Nat) : State :=
  let old := fun (g : LRegion) (b : Bin) => b.epoch != g.epoch
  match (s.unitOf unit).region? region with
  | none => s
  | some g =>
    let k := (g.bins.filter fun b => b.key == key && old g b).length
    if k = 0 then s
    else (s.applyWhere unit region key old).1.onUnit unit fun x => { x with early := satAdd48 x.early k }

/-- The regions and keys of an instance with a bin of an earlier epoch in SRAM, or in the spill area of region `r`. -/
def State.oldKeys (s : State) (u r : Nat) : List (Nat × Nat) :=
  (s.unitOf u).regions.flatMap fun y =>
    ((y.2.bins.filter fun b => b.epoch != y.2.epoch && (!b.spilled || y.1 == r)).map fun b => (y.1, b.key)).dedup

/-- Before a region whose space nears full takes pairs in, the bins of earlier epochs are applied. -/
def State.makeRoomFor (s : State) (u r : Nat) : State :=
  if s.nearFull u r then (s.oldKeys u r).foldl (fun s y => s.applyEarly u y.1 y.2) s else s

/-! ### Streams on other modules (R324, R325) -/

def State.awayOf (s : State) (uid : Nat) : AwayStream := (s.away.find? fun x => x.uid == uid).getD ⟨uid, 0, false⟩
def State.setAway (s : State) (x : AwayStream) : State := { s with away := (s.away.filter fun y => y.uid != x.uid) ++ [x] }
def State.dropAway (s : State) (uid : Nat) : State := { s with away := s.away.filter fun y => y.uid != uid }

/-- A push to another module: its pairs cross, and fail the stream or not over there, a free value (log entry 3, DESIGN CHOICE); one
whose crossing is refused fails it here (R324). -/
def State.pushAway (s : State) (uid m k : Nat) : State :=
  let x := s.awayOf uid
  if !s.mayReach m then s.setAway { x with failed := true }
  else if x.failed then s.crossTo m k
  else
    let a := (s.crossTo m k).freshBool
    let v := a.2.fresh
    if a.1 then a.2.setAway { x with pairs := x.pairs + k }
    else v.2.setAway { x with pairs := x.pairs + v.1.toNat % (k + 1), failed := true }

/-! ### Commands of cores -/

/-- No earlier command of the core names the same region (R320). -/
def Untimed.latticeFirst (u : Untimed) (c : Cmd) : Bool :=
  !(u.queue.any fun x => x.eng == .lattice && decide (x.seq < c.seq) &&
    x.lhandle.setWidth 18 == c.lhandle.setWidth 18)

/-- A Lattice command may be performed: first of its region, and its crossing, if it makes one, not held. -/
def State.latticeDue (s : State) (n : Nat) (c : Cmd) : Bool :=
  c.eng == .lattice && (s.unAt n).latticeFirst c && c.prog.backoff.isEmpty &&
    (decide (lhMod c.lhandle = s.myMod.toNat) || !s.trust.holds || !s.mayReach (lhMod c.lhandle))

/-- PAIR_INTAKE: the instance takes in, or discards, every pair of the core's next push (R320, R322, R326). -/
def execPairIntake (core seq : Nat) (s : State) : Out :=
  match s.cmd? core seq with
  | none => .next s
  | some c =>
    let single := c.single
    if !c.isPush || !s.latticeDue core c || !(s.clear core seq c.cls false) then .next s
    else
      let h := c.lhandle
      let s1 := s.dropCmd core seq
      if lhMod h = s.myMod.toNat then
        .next ((s.makeRoomFor (lhUnit h) (lhRegion h)).dropCmd core seq |>.onUnit (lhUnit h) fun x =>
          (List.range c.pushPairs).foldl (fun x i =>
          let p := pushPair c single i
          x.takePair (lhRegion h) c.uid p.1 p.2) x)
      else .next (s1.pushAway c.uid (lhMod h) ((List.range c.pushPairs).filter fun i => (pushPair c single i).1 != 0xFFFFFFFF).length)

/-- STREAM_COMMIT: an LCLOSE (R323, R324, R327, R335). -/
def execStreamCommit (core seq : Nat) (s : State) : Out :=
  match s.cmd? core seq with
  | none => .next s
  | some c =>
    match c.ins with
    | .lclose o =>
      let h := c.lhandle
      let u := lhUnit h
      let r := lhRegion h
      let fail := fun (s : State) (n : Nat) => s.cmdFailed core seq o.f (opOf c.ins) n 0
      if !s.latticeDue core c || !(s.clear core seq c.cls false) then .next s
      else if lhMod h = s.myMod.toNat then
        match ((s.unitOf u).region? r).bind fun g => (g.stream? c.uid).map fun st => (g, st) with
        | some (g, st) =>
          if s.linkStill u g then .next ((s.onUnit u fun x => x.commitStream r st).cmdDone core seq o.f none)
          else .next (fail (s.onUnit u fun x => x.loseStream r c.uid) st.pairs)
        | none =>
          .next (fail (s.onUnit u fun x => { x with dead := x.dead.filter fun y => y.1 != c.uid })
            ((findNum c.uid (s.unitOf u).dead).getD 0))
      else
        let x := s.awayOf c.uid
        let s1 := s.dropAway c.uid
        if x.failed || !s.mayReach (lhMod h) then .next (fail s1 x.pairs)
        else
          let a := (s1.crossTo (lhMod h) 1).freshBool
          let v := a.2.fresh
          if a.1 then .next (a.2.cmdDone core seq o.f none) else .next (fail v.2 (v.1.toNat % (x.pairs + 1)))
    | _ => .next s

/-- A stream aborted at its instance, if that is here: its bins are discarded (R323, R325). -/
def State.abortStream (s : State) (h : Word) (uid : Nat) : State :=
  if lhMod h = s.myMod.toNat then
    s.onUnit (lhUnit h) fun x =>
      let y := x.failStream (lhRegion h) uid
      { y with dead := y.dead.filter fun z => z.1 != uid }
  else s.dropAway uid

/-- What an open stream has taken in, or had when it failed. -/
def State.streamPairs (s : State) (h : Word) (uid : Nat) : Nat :=
  let x := s.unitOf (lhUnit h)
  if lhMod h = s.myMod.toNat then
    match (x.region? (lhRegion h)).bind fun g => g.stream? uid with
    | some st => st.pairs
    | none => (findNum uid x.dead).getD 0
  else (s.awayOf uid).pairs

/-- LQUERY's 16 bytes (R339). -/
def LRegion.queryBytes (g : LRegion) (k : Nat) : Nat :=
  if k < g.rowLo ∨ g.rowHi ≤ k then 4
  else
    let l := g.bins.filter fun b => b.key == k
    (!l.isEmpty).toNat + 2 * (g.streams.any fun st => st.bins.any fun b => b.key == k).toNat + capTo 8 l.length * 256 +
      (match l with
        | [] => 0
        | b :: _ => b.epoch.toNat) * 2 ^ 32

/-- LSPILL's 16 bytes (R338). -/
def State.spillBytes (s : State) (u r : Nat) (g : LRegion) : Nat :=
  capTo 25 (g.usedIn false) + capTo 39 (g.usedIn true) * 2 ^ 25 + rSpillSize g.desc * 2 ^ 64 +
    (s.backPressure u r).toNat * 2 ^ 127

/-- LOPEN at its instance on this module (R321). -/
def State.openHere (s : State) (n : Nat) (c : Cmd) (o : CfOp) : State :=
  let h := c.lhandle
  let u := lhUnit h
  match s.regionFor h with
  | none => (s.onUnit u fun x => x.failOpen (lhRegion h) c.uid false).cmdFailed n c.seq o.f (opOf c.ins) 0 0
  | some g =>
    if loWidth c.b == g.width && s.rowsGranted n (loSeg o) g && s.linkStill u g then
      (s.onUnit u fun x => x.onRegion (lhRegion h) fun g => g.openStream c.uid).cmdDone n c.seq o.f none
    else (s.onUnit u fun x => x.failOpen (lhRegion h) c.uid true).cmdFailed n c.seq o.f (opOf c.ins) 0 0

/-- LAPPLY (R337): where an apply finds poison not every bin is applied, and the command fails there (R395; log entry 50, DEDUCED). -/
def State.applyCmd (s : State) (n : Nat) (c : Cmd) (o : CfOp) (u r : Nat) : State :=
  let x := s.applyAll u r
  if x.2 then x.1.cmdFailed n c.seq o.f (opOf c.ins) 0
      (BitVec.ofNat 52 (((((s.unitOf u).region? r).bind fun g => (g.bins.map (·.key)).findSome? fun k =>
        if s.targetPoisoned u r g k then some (s.targetGranule u g k) else none)).getD 0))
  else x.1.cmdDone n c.seq o.f none

/-- A region command at its instance on this module (R321, R323, R337-R339). -/
def State.regionCmd (s : State) (n : Nat) (c : Cmd) (words : BitVec 1024) : State :=
  let h := c.lhandle
  let u := lhUnit h
  let r := lhRegion h
  let onRegion := fun (f : BitVec 5) (act : LRegion → State) => match s.regionFor h with
    | none => s.cmdFailed n c.seq f (opOf c.ins) 0 0
    | some g => act g
  match c.ins with
  | .lopen o => s.openHere n c o
  | .labort o => (s.abortStream h c.uid).cmdDone n c.seq o.f none
  | .lapply o => onRegion o.f fun _ => s.applyCmd n c o u r
  | .lstep o => onRegion o.f fun _ =>
      (s.onUnit u fun x => x.onRegion r fun g => { g with epoch := g.epoch + 1 }).cmdDone n c.seq o.f none
  | .lquery o => onRegion o.f fun g => s.cmdResult n c o.f (lqOff o) 16 (g.queryBytes (bits c.b.toNat 31 0)) words
  | .lstat o => onRegion o.f fun g => s.cmdResult n c o.f (lqOff o) 64 (s.statusOf u r g) words
  | .lspill o => onRegion o.f fun g => s.cmdResult n c o.f (lqOff o) 16 (s.spillBytes u r g) words
  | _ => s

/-- The fields of the commands of LATTICE_REGION_COMMAND, and the bytes that a query writes. -/
def regionFields : Instr → Option (CfOp × Nat)
  | .lopen o | .labort o | .lapply o | .lstep o => some (o, 0)
  | .lquery o | .lspill o => some (o, 16)
  | .lstat o => some (o, 64)
  | _ => none

/-- What an LOPEN to another module may know to fail at once: its TSEG grants no rows of that unit, for a region has one row at least
(R313, R321). -/
def State.openRefused (s : State) (n : Nat) (c : Cmd) (o : CfOp) : Bool := match s.streamSeg n (loSeg o) with
  | none => true
  | some e => !segStreams e || segLen e == 0 || segBase e / 2 ^ 44 != lhMod c.lhandle * 16 + lhUnit c.lhandle

/-- A region command to another module: done or failed as it answers, which is a free value (log entry 3, DESIGN CHOICE). An LABORT
ends its stream whatever the answer (R323); an LOPEN that fails fails its stream (R324). -/
def State.regionCmdAway (s : State) (n : Nat) (c : Cmd) (o : CfOp) (k : Nat) (words : BitVec 1024) : State :=
  let a := if s.mayReach (lhMod c.lhandle) then (s.crossTo (lhMod c.lhandle) 1).freshBool else (false, s)
  match c.ins with
  | .labort _ => (a.2.dropAway c.uid).cmdDone n c.seq o.f none
  | .lopen _ =>
    let ok := a.1 && !s.openRefused n c o
    let s1 := a.2.setAway ⟨c.uid, 0, !ok⟩
    if ok then s1.cmdDone n c.seq o.f none else s1.cmdFailed n c.seq o.f (opOf c.ins) 0 0
  | _ =>
    if !a.1 then a.2.cmdFailed n c.seq o.f (opOf c.ins) 0 0
    else if k = 0 then a.2.cmdDone n c.seq o.f none
    else
      let v := a.2.fresh
      v.2.cmdResult n c o.f (lqOff o) k (v.1.toNat % 2 ^ (8 * k)) words

/-- LATTICE_REGION_COMMAND (R320). `words` are the words of a query's result that land now (R25). -/
def execLatticeRegionCommand (core : Nat) (w : CmdWords 1024) (s : State) : Out :=
  match s.cmd? core w.seq with
  | none => .next s
  | some c =>
    match regionFields c.ins with
    | none => .next s
    | some (o, k) =>
      if c.prog.parked.isNone && !s.latticeDue core c then .next s
      else .next (s.orLand core c w.words
        (if lhMod c.lhandle = s.myMod.toNat then s.regionCmd core c w.words else s.regionCmdAway core c o k w.words))

/-! ### The instance's own choices (R331) -/

/-- EARLY_APPLY: a key's committed bins of earlier epochs are applied early, where the space of a region nears full. -/
def execEarlyApply (unit region key : Nat) (s : State) : Out :=
  if (s.unitOf unit).regions.any fun x => s.nearFull unit x.1 then .next (s.applyEarly unit region key) else .next s

/-- BIN_SPILL_MOVE: the bins of a key that fit go to the spill area, or come back to SRAM beside what is reserved there. -/
def execBinSpillMove (unit region key : Nat) (toSpill : Bool) (s : State) : Out :=
  let x := s.unitOf unit
  match x.region? region with
  | none => .next s
  | some g =>
    let moves := fun (b : Bin) => b.key == key && b.spilled != toSpill
    let k := (g.bins.filter moves).length + (g.streams.map fun st => (st.bins.filter moves).length).foldl (· + ·) 0
    let room := if toSpill then g.spillRoom else latticeSram -
      (x.sramUsed + s.reservedBeside unit region + g.sramFor g.spillRoom (s.reserved unit region g))
    let put := fun (l : List Bin) => l.map fun b => if moves b then { b with spilled := toSpill } else b
    if room < k * binSize g.width then .next s
    else .next (s.onUnit unit fun x => x.onRegion region fun g =>
      { g with bins := put g.bins, streams := g.streams.map fun st => { st with bins := put st.bins } })

end Sys2Proof.Machine
end

