-- ==== Sys2Proof/Machine/Fabric.lean ====
section
/-!
DEFINITION. What arrives from other modules (R279, R298, R359, R367, R375-R377): the check of a sealed crossing, what
each kind of crossing does here, and the members of the rack ring (R404).
-/

namespace Sys2Proof.Machine

/-! ### Sequences and keys (R375-R377) -/

/-- A lane's window (R376): how far behind the highest sequence accepted a new one may lie. -/
def laneWindow (lane : Nat) : Nat := if lane = 5 then 4096 else 64

/-- R376. -/
def LaneIn.accepts (x : LaneIn) (lane n : Nat) : Bool :=
  if lane = 4 then n == x.next
  else decide (x.next ≤ n) || (decide (x.next ≤ n + laneWindow lane) && !x.seen.contains n)

/-- A sequence accepted. -/
def LaneIn.take (x : LaneIn) (lane n : Nat) : LaneIn :=
  let next := max x.next (n + 1)
  { next := next, seen := (x.seen ++ [n]).filter fun k => decide (next ≤ k + laneWindow lane) }

def LaneIn.reset : LaneIn := ⟨0, []⟩

/-- What a member has sent on a lane, under the current epoch's key or the next one's. -/
def Trust.lane (t : Trust) (later : Bool) (m lane : Nat) : LaneIn :=
  Store.get .reset (if later then t.laneNext else t.laneIn) (6 * m + lane)

def Trust.setLane (t : Trust) (later : Bool) (m lane : Nat) (x : LaneIn) : Trust :=
  if later then { t with laneNext := Store.set .reset t.laneNext (6 * m + lane) x }
  else { t with laneIn := Store.set .reset t.laneIn (6 * m + lane) x }

/-- A discarded slot or packet (R377). -/
def Trust.discard (t : Trust) (m : Nat) : Trust :=
  { t with autherr := satAdd48 t.autherr 1 }.setMember m { t.member m with mauth := satAdd48 (t.member m).mauth 1 }

/-- MSTATE for which a key of the next epoch is held (R369, R380). -/
def MState.holdsNext : MState → Bool
  | .pending => true | .active => true | .none => false | .attesting => false | .leaving => false | .evicted => false

/-- The key that an epoch bit names is held and accepted (R377, R380): the current epoch's, or from the arrival until the
pass the next one's. -/
def Trust.keyOk (t : Trust) (m : Nat) (later : Bool) : Bool :=
  if later then t.dstate == .arrived && (t.member m).mstate.holdsNext
  else t.dstate != .alone && (t.member m).mstate.crosses

/-- CROSSING_RECEIVE: the seal opened (R377). A source that no entry names has no key. -/
def Trust.receive (t : Trust) (m lane n : Nat) (epochBit tagOk : Bool) : Trust × Bool :=
  let later := epochBit != t.epoch.getLsbD 0
  if tagOk && decide (lane < 6 ∧ m < 64) && t.keyOk m later && (t.lane later m lane).accepts lane n
  then (t.setLane later m lane ((t.lane later m lane).take lane n), true)
  else (t.discard m, false)

/-! ### What a crossing does here -/

/-- A wait of a task of another module: its flag is set over there. -/
def awayWait (obj tag : Nat) (q : BitVec 32) (scope : BitVec 3) : WaitReq := ⟨obj, q, none, tag, 0, scope, 0⟩

/-- The wait requests that an ended task of another module left here are discarded (R280). -/
def State.awayEnded (s : State) (tag : Nat) : State :=
  { s with vertex := s.vertex.map fun u => { u with waits := u.waits.filter fun w => w.who.isSome || w.away != tag } }

/-- A phaser command of another module's task (R279). A command that fails changes nothing here. -/
def State.foreignPhaser (s : State) (d n : Nat) (p : Phaser) (op : ForeignOp) : State :=
  match op with
  | .register mode => match register p mode with
    | none => s
    | some x => s.putPhaser d n x.1 []
  | .drop m => match dropMember p m with
    | none => s
    | some x => s.putPhaser d n x.1 x.2
  | .arrive m tag =>
    if p.mode m = 1 ∨ p.mode m = 3 then s
    else match arrive p m with
      | none => s
      | some x =>
        let s1 := s.putPhaser d n x.1 x.2.1
        if p.mode m = 0 then s1 else s1.request d x.1 (awayWait n tag x.2.2 p.scope)
  | .armed m tag =>
    if p.mode m ≠ 3 then s
    else match arrive p m with
      | none => s
      | some x => (s.putPhaser d n x.1 x.2.1).request d x.1 (awayWait n tag x.2.2 p.scope)
  | .waitFor m q tag => if p.mayWait m then s.request d p (awayWait n tag q p.scope) else s
  | .atomic _ _ _ _ _ _ _ => s

/-- A Vertex command of another module's task at its object's home (R277-R279): a phaser only at domain scope (R261). -/
def State.foreignVertex (s : State) (d n : Nat) (gen : BitVec 8) (op : ForeignOp) : State :=
  let u := s.vxOf d
  if u.objCount ≤ n ∨ (u.obj n).gen ≠ gen then s
  else
    let x := s.readObj d n
    match x.2 with
    | some (.phaser p) => if p.broken || p.scope != 4 then x.1 else x.1.foreignPhaser d n p op
    | some (.sync w) => match op with
      | .atomic code wide signed word half a b =>
        x.1.writeObj d n (.sync (syncOp w code wide signed (word % 8) half a.toNat b.toNat).2)
      | .register _ => x.1
      | .drop _ => x.1
      | .arrive _ _ => x.1
      | .armed _ _ => x.1
      | .waitFor _ _ _ => x.1
    | some .free => x.1
    | none => x.1

/-- The number by which a stream of another module's task is known here: even numbers are this module's own. -/
def awayStream (uid : Nat) : Nat := 2 * uid + 1

/-- The open stream with a number: its unit and region. -/
def State.findStream (s : State) (uid : Nat) : Option (Nat × Nat) :=
  (List.range 16).findSome? fun u =>
    ((s.unitOf u).regions.find? fun x => (x.2.stream? uid).isSome).map fun x => (u, x.1)

/-- A stream opened by a task of another module, with the entry of its TSEG (R321); one that its region refuses has FAILED (R338). -/
def State.awayOpen (s : State) (u r : Nat) (gen : BitVec 8) (uid width : Nat) (seg : Option (BitVec 256)) : State :=
  match (s.unitOf u).region? r with
  | none => s
  | some g =>
    if Store.get 0 (s.unitOf u).gens r ≠ gen ∨ s.findStream uid ≠ none then s
    else if width = g.width ∧ g.grantedBy seg = true ∧ s.linkStill u g = true
    then s.onUnit u fun x => x.onRegion r fun g => g.openStream uid
    else s.onUnit u fun x => x.onRegion r fun g => { g with fails := satAdd48 g.fails 1 }

/-- A pair of such a stream. -/
def State.awayPair (s : State) (uid key : Nat) (vals : List (BitVec 32)) : State :=
  match s.findStream uid with
  | none => s
  | some (u, r) => (s.makeRoomFor u r).onUnit u fun x =>
      match x.region? r with
      | none => x
      | some g => x.takePair r uid key ((List.range g.width).map fun j => vals.getD j 0)

/-- Such a stream committed or aborted. -/
def State.awayClose (s : State) (uid : Nat) (commit : Bool) : State :=
  match s.findStream uid with
  | none => s
  | some (u, r) =>
    let drop := s.onUnit u fun x => x.loseStream r uid
    match ((s.unitOf u).region? r).bind fun g => (g.stream? uid).map fun st => (g, st) with
    | none => s
    | some (g, st) =>
      if commit && s.linkStill u g then s.onUnit u fun x => x.commitStream r st else drop

/-- An LAPPLY or LSTEP of another module's task. -/
def State.awayStep (s : State) (u r : Nat) (gen : BitVec 8) (apply : Bool) : State :=
  match (s.unitOf u).region? r with
  | none => s
  | some _ =>
    if Store.get 0 (s.unitOf u).gens r ≠ gen then s
    else if apply then s.applyRegion u r
    else s.onUnit u fun x => x.onRegion r fun g => { g with epoch := g.epoch + 1 }

/-- A gather bucket's row looked up for another module (R298). -/
def State.awayLookup (s : State) (n t r : Nat) : State :=
  let d := s.table t
  if s.tableValid t && s.rowHeld n d r then (s.lookupRow d t r).1 else s

/-- The valid rows of a GPREF of another module counted at their PBC here (R300). -/
def State.awayPrefetch (s : State) (n t : Nat) (rows : List Nat) : State :=
  let d := s.table t
  if s.tableValid t && rows.all (s.rowHeld n d) then (s.countRows d t (rows.map fun r => (r, 0))).1 else s

/-- Bytes written, word by word, from logical byte `l` on into window `w` of a core, whatever task is bound there
(R359): those that the declaration admits, which count toward the slot armed there (R272). The answer says whether all
were. -/
def State.landBytes (s : State) (n : Nat) (w : BitVec 5) (l v : Nat) : Nat → State × Bool
  | 0 => (s, true)
  | k + 1 =>
    match s.openWin n w with
    | none => (s, false)
    | some x =>
      let m := min 4 (x.size - l)
      let s1 := (s.winWriteAt n (some x) l m v).countArm n w m
      let r := s1.landBytes n w (l + 4) (v >>> 32) k
      (r.1, r.2 && decide (4 ≤ m))

/-- A command of another module's task on a phaser here creates a wait request (R263). -/
def foreignWaits (p : Phaser) : ForeignOp → Bool
  | .arrive m _ => p.mode m == 2 && (arrive p m).isSome
  | .armed m _ => p.mode m == 3 && (arrive p m).isSome
  | .waitFor m _ _ => p.mayWait m
  | .register _ | .drop _ | .atomic _ _ _ _ _ _ _ => false

/-- A crossing that needs a place in the pool of wait requests (R263). -/
def crossNeedsPool (s : State) : Crossing → Option Nat
  | .vertex die obj gen op =>
    if (s.vxOf die).objCount ≤ obj ∨ ((s.vxOf die).obj obj).gen ≠ gen then none
    else match (s.readObj die obj).2 with
      | some (.phaser p) => if !p.broken && p.scope == 4 && foreignWaits p op then some die else none
      | some (.sync _) | some .free | none => none
  | _ => none

/-- An object of another module has been made FREE or BROKEN over there: every arm slot here that names it is released, and its flag
becomes ERROR (R278). -/
def State.awayObjectLost (s : State) (m die obj : Nat) : State :=
  let names := fun h => hObj h == obj && hDie h == die && hMod h == m && m != s.myMod.toNat
  { s with cores := s.cores.map fun c => c.failArms names }

/-- The effect of an accepted crossing. -/
def State.crossIn (s : State) (x : Crossing) : Out :=
  match x with
  | .access key n write copy data => execHomeAccess (.outside key n write copy data) s
  | .vertex die obj gen op => .next (s.foreignVertex die obj gen op)
  | .flag _ rcb cardIdx taskIdx f ok scope op =>
    .next (s.report ⟨rcb, cardIdx, taskIdx⟩ ⟨f, ok, if ok then some scope else none, if ok then none else some ⟨op, 0, 0⟩⟩)
  | .objectLost m die obj => .next (s.awayObjectLost m die obj)
  | .openStream unit region gen uid width seg => .next (s.awayOpen unit region gen (awayStream uid) width seg)
  | .pair uid key vals => .next (s.awayPair (awayStream uid) key vals)
  | .closeStream uid commit => .next (s.awayClose (awayStream uid) commit)
  | .regionStep unit region gen apply => .next (s.awayStep unit region gen apply)
  | .lookup pbc table row => .next (s.awayLookup pbc table row)
  | .deliver core w off n data => .next (s.landBytes core (BitVec.ofNat 5 w) off data.toNat ((n + 3) / 4)).1
  | .taskEnded tag => .next (s.awayEnded tag)
  | .prefetch pbc table rows => .next (s.awayPrefetch pbc table rows)

/-- A crossing finds the pool of wait requests full (R263). -/
def State.poolFullFor (s : State) (body : Crossing) : Bool := match crossNeedsPool s body with
  | none => false
  | some d => !(s.vxOf d).poolRoom

/-- A pair from another module finds no room for the bin that it needs (R332): room for it is made first, where it can be. -/
def State.noRoomFor (s : State) : Crossing → Bool
  | .pair uid key _ => match s.findStream (awayStream uid) with
    | none => false
    | some (u, r) => match ((s.makeRoomFor u r).unitOf u).region? r with
      | none => false
      | some g => decide (g.rowLo ≤ key) && decide (key < g.rowHi) &&
          !((g.stream? (awayStream uid)).any fun st => st.bins.any fun b => b.key == key) && (s.makeRoomFor u r).noRoom u r g 0 0 1
  | _ => false

/-- A crossing waits in the receive buffer: it finds the pool of wait requests full (log entry 52, DESIGN CHOICE), or no room for a
bin (log entry 62, DEDUCED). -/
def State.crossingWaits (s : State) (body : Crossing) : Bool := s.poolFullFor body || s.noRoomFor body

/-- A sealed crossing at the hub die (R377): opened and performed, or discarded and counted; one that is accepted may wait. -/
def State.openSealed (s : State) (m lane n : Nat) (epochBit tagOk : Bool) (body : Crossing) : Out :=
  let r := s.trust.receive m lane n epochBit tagOk
  let s1 := s.onTrust fun _ => r.1
  if !r.2 then .next s1
  else if s.crossingWaits body then .next s
  else s1.crossIn body

/-! ### The rack ring (R404) -/

/-- RACK_MODULE_JOIN. -/
def execRackModuleJoin (m : Nat) (s : State) : Out :=
  .next (s.onXchg fun x => { x with rackMap := putBit x.rackMap (m % 16) true })

/-- RACK_MODULE_LOSS: the module's own bit stays. -/
def execRackModuleLoss (m : Nat) (s : State) : Out :=
  if m % 16 = s.myMod.toNat then .next s
  else .next (s.onXchg fun x => { x with rackMap := putBit x.rackMap (m % 16) false })

end Sys2Proof.Machine
end

