-- ==== Sys2Proof/Machine/Exchange.lean ====
section
/-!
DEFINITION. The exchange engine (R354, R356, R358-R363): its commands, those of evicted tasks among them; XSEND's reads
and writes; the blocks of a collective and their delivery; peers, packets and ports.
-/

namespace Sys2Proof.Machine

/-! ### Commands, bound or adrift (R361) -/

/-- An exchange command with its task and the segment table it reads through. -/
structure XCmd where
  cmd : Cmd
  who : TaskRef
  segs : List (BitVec 256)

/-- Command `q` of core `n`: in its queue, or adrift since its task was evicted. -/
def State.xcmd? (s : State) (n q : Nat) : Option XCmd :=
  match s.cmd? n q, (s.coreAt n).task with
  | some c, some k => if c.eng == .exchange then some ⟨c, k.ref, k.segs⟩ else none
  | _, _ => (s.adrift.find? fun a => a.core == n && a.cmd.seq == q).map fun a => ⟨a.cmd, a.who, a.segs⟩

/-- A change of an exchange command, wherever it is. -/
def State.onXcmd (s : State) (n q : Nat) (f : Cmd → Cmd) : State :=
  { s.onCmd n q f with adrift := s.adrift.map fun a => if a.core = n ∧ a.cmd.seq = q then { a with cmd := f a.cmd } else a }

/-- An exchange command ends: its flag is reported to its task, wherever that is. -/
def State.endXcmd (s : State) (n q : Nat) (who : TaskRef) (x : Note) : State :=
  let s1 := (s.report who x).dropCmd n q
  { s1 with adrift := s1.adrift.filter fun a => !(a.core == n && a.cmd.seq == q) }

def State.xdone (s : State) (n : Nat) (x : XCmd) : State :=
  s.endXcmd n x.cmd.seq x.who ⟨exchangeFlag x.cmd.ins, true, none, none⟩
def State.xfailed (s : State) (n : Nat) (x : XCmd) (reached : Nat) (faddr : BitVec 52) : State :=
  s.endXcmd n x.cmd.seq x.who ⟨exchangeFlag x.cmd.ins, false, none, some ⟨opOf x.cmd.ins, BitVec.ofNat 64 reached, faddr⟩⟩

/-- A task has been evicted and waits for its resume. -/
def State.isEvicted (s : State) (w : TaskRef) : Bool :=
  (s.region? w.rcb).any fun r => r.evicted.any fun e => e.cardIdx == w.cardIdx && e.taskIdx == w.taskIdx

/-- A command adrift waits for a saved command that comes before it in program order (R26, R100): as long as its task is evicted, or
that command is in its queue again. -/
def State.adriftHeld (s : State) (a : Adrift) : Bool := match s.coreOf a.who with
  | some m =>
    if (s.coreAt m).task.any Task.moving then !a.after.isEmpty else a.after.any fun q => (s.cmd? m q).isSome
  | none => !a.after.isEmpty && s.isEvicted a.who

/-- An ordered command of the same task and class was cast adrift earlier. -/
def adriftBefore (a : Adrift) : List Adrift → Bool
  | [] => false
  | b :: l => if b.core = a.core ∧ b.cmd.seq = a.cmd.seq then false
      else (b.who == a.who && insOrdered b.cmd.ins && b.cmd.cls == a.cmd.cls) || adriftBefore a l

/-- The accesses of an exchange command of core `n` may perform (R100), be it in its queue or adrift. -/
def State.xclear (s : State) (n : Nat) (c : Cmd) : Bool :=
  match s.adrift.find? fun a => a.core == n && a.cmd.seq == c.seq with
  | some a => !s.adriftHeld a && !adriftBefore a s.adrift
  | none => s.clear n c.seq c.cls false

/-! ### XSEND (R356) -/

/-- `n` bytes written by a die for a core in a class, sector by sector, up to a sector whose write consumes poison (R395): the answer
is then the granule. -/
def State.dieWriteLong (s : State) (die core : Nat) (cls : BitVec 4) : Nat → Nat → Nat → Nat → State × Option (BitVec 52)
  | 0, _, _, _ => (s, none)
  | fuel + 1, key, n, v =>
    if n = 0 then (s, none)
    else
      let m := min n (256 - key % 256)
      let w := s.dieWrite die key m (2 ^ m - 1) v
      let s2 := if s.ownStack die key then w.1 else w.1.noteWriter die (key / 256) core cls
      if w.2 then (s2, some (s.abandonedGranule key m))
      else s2.dieWriteLong die core cls fuel (key + m) (n - m) (v >>> (8 * m))

/-- Bytes of an XSEND. -/
def xsendBytes (o : CfOp) : Nat := o.ext.toNat * 256

/-- Where a capability's range of an XSEND starts, if its segment grants the whole range: not pageable, within bounds, with
the right, and 4-byte aligned. -/
def xsendPlace (segs : List (BitVec 256)) (cap : Word) (r : Right) (n : Nat) : Option Nat :=
  match segs[(capIdx cap).toNat]? with
  | none => none
  | some e =>
    let off := capOffs cap
    if !segPageable e && segHas e r && inSegment e off (off + n - 1 : Nat) && decide (off % 4 = 0)
    then placeOf e (capIdx cap) [] off false else none

/-- An XSEND's block is done: the next one, or the end. -/
def State.xsendNext (s : State) (n : Nat) (x : XCmd) (o : CfOp) : State :=
  if x.cmd.run + 1 = o.ext.toNat then s.xdone n x
  else s.onXcmd n x.cmd.seq fun c => { c with run := c.run + 1, prog := { c.prog with part := [], took := [] } }

/-- The next 256-byte block of an XSEND read and written. -/
def State.xsendBlock (s : State) (n : Nat) (x : XCmd) (o : CfOp) (a b : Nat) : State :=
  let die := dieOf n
  let r := s.dieReadLong die 3 a 256
  if r.2.2 then r.1.xfailed n x x.cmd.run (s.readGranuleLong die 3 a 256)
  else match r.1.dieWriteLong die n x.cmd.cls 3 b 256 r.2.1 with
    | (s1, some g) => s1.xfailed n x x.cmd.run g
    | (s1, none) => s1.xsendNext n x o

/-- Words of a block of an XSEND read (R25): the state, the words' values, and the granule of poison that was consumed. -/
def State.xsendRead (s : State) (die a : Nat) (took : Store (BitVec 32)) : List Nat → State × Store (BitVec 32) × Option (BitVec 52)
  | [] => (s, took, none)
  | i :: l =>
    let r := s.dieReadLong die 2 (a + 4 * i) 4
    if r.2.2 then (r.1, took, some (s.readGranuleLong die 2 (a + 4 * i) 4))
    else r.1.xsendRead die a (Store.set 0 took i (BitVec.ofNat 32 r.2.1)) l

/-- The first sector of a block of an XSEND that a step which moves some words must fill, and does so by those words (R95). -/
def State.xsendFills (s : State) (die a : Nat) (all : Bool) : Option Nat :=
  if s.fillsPart die a (min 256 (256 - a % 256)) all then some (a / 256)
  else if a % 256 ≠ 0 && s.fillsPart die (a / 256 * 256 + 256) (a % 256) all then some (a / 256 + 1) else none

/-- Words of a block of an XSEND written; all of them at once where its bytes meet poison, so that a granule that the block covers is
poisoned no more (R392). -/
def State.xsendWrite (s : State) (n : Nat) (c : Cmd) (b : Nat) : List Nat → State × Option (BitVec 52)
  | [] => (s, none)
  | i :: l => match s.dieWriteLong (dieOf n) n c.cls 2 (b + 4 * i) 4 (Store.get 0 c.prog.took i).toNat with
    | (s1, some g) => (s1, some g)
    | (s1, none) => s1.xsendWrite n c b l

/-- The destination of a block holds poison, at its home or in the RDC. -/
def State.blockPoisoned (s : State) (die b : Nat) : Bool :=
  s.poisonAt b 256 || (s.sector die (b / 256)).poison != 0 || (s.sector die ((b + 255) / 256)).poison != 0

/-- An XSEND's block goes on word by word (R25, R95): the words `words` are read, and once all of them are, written. -/
def State.xsendWords (s : State) (n : Nat) (x : XCmd) (o : CfOp) (a b : Nat) (words : BitVec 64) : State :=
  let c := x.cmd
  let read := (Store.get 0 c.prog.part 0).setWidth 64
  let sent := (Store.get 0 c.prog.part 1).setWidth 64
  let pick := fun (m : BitVec 64) => (List.range 64).filter m.getLsbD
  let mark := fun (s : State) (k : Nat) (m : BitVec 64) (t : Store (BitVec 32)) => s.onXcmd n c.seq fun c =>
    { c with prog := { c.prog with part := Store.set 0 c.prog.part k (m.setWidth 1024), took := t } }
  if read ≠ BitVec.allOnes 64 then
    match s.xsendFills (dieOf n) a (words == BitVec.allOnes 64) with
    | some sec =>
      let f := s.fillPart (dieOf n) sec words
      if f.2 then f.1.xfailed n x c.run (s.abandonedGranule (256 * sec) 256) else f.1
    | none =>
      let r := s.xsendRead (dieOf n) a c.prog.took (pick (words &&& ~~~read))
      match r.2.2 with
      | some g => r.1.xfailed n x c.run g
      | none => mark r.1 0 (read ||| words) r.2.1
  else
    let now := if s.blockPoisoned (dieOf n) b then ~~~sent else words &&& ~~~sent
    let w := if now = BitVec.allOnes 64 then
        s.dieWriteLong (dieOf n) n c.cls 3 b 256 ((List.range 64).foldl (fun v i => v + (Store.get 0 c.prog.took i).toNat <<< (32 * i)) 0)
      else s.xsendWrite n c b (pick now)
    match w with
    | (s1, some g) => s1.xfailed n x c.run g
    | (s1, none) => if sent ||| now = BitVec.allOnes 64 then s1.xsendNext n x o else mark s1 1 (sent ||| now) c.prog.took

/-- A remote store of the die is writing a sector of a block (R347). -/
def State.blockHeld (s : State) (die a : Nat) : Bool := s.sectorHeld die (a / 256) || s.sectorHeld die ((a + 255) / 256)

/-- A read of bytes of one sector by a die would cross to another module: the RDC does not serve it. -/
def State.readCrosses (s : State) (die key n : Nat) : Bool :=
  s.isRemoteKey key && !((s.sector die (key / 256)).serves (byteMask (key % 256) n))

/-- A read of the 256 bytes at `a` would cross. -/
def State.blockCrosses (s : State) (die a : Nat) : Bool :=
  s.readCrosses die a (256 - a % 256) || (decide (a % 256 ≠ 0) && s.readCrosses die (a / 256 * 256 + 256) (a % 256))

/-- The homes of the 256 bytes at `a` may be reached by a command. -/
def State.blockAllowed (s : State) (x : Prog) (a : Nat) : Bool := s.mayLeave x a none && s.mayLeave x (a + 255) none

/-- Words of an XSEND's block have yet to be read. -/
def Prog.reading (x : Prog) : Bool := (Store.get 0 x.part 0).setWidth 64 != BitVec.allOnes 64

/-- The next accesses of an XSEND, to the block at `a` it reads and the block at `b` it writes, would be refused (R367): both of a
block not begun, of one under way those that it has come to. -/
def State.xsendRefused (s : State) (x : Prog) (a b : Nat) : Bool :=
  if x.part = [] then !(s.blockAllowed x a && s.blockAllowed x b)
  else if x.reading then !(s.blockAllowed x a) else !(s.blockAllowed x b)

/-- They wait: a remote store of the die is writing one of the sectors (R347), or crossings are held (R379). -/
def State.xsendHeld (s : State) (x : Prog) (die a b : Nat) : Bool :=
  (s.trust.holds && x.reading && s.blockCrosses die a) || s.blockHeld die a || s.blockHeld die b

/-- An XSEND's next step: its checks, then the next block, or words of it, once the accesses of its class before it have performed
(R100). -/
def State.xsendStep (s : State) (n : Nat) (x : XCmd) (o : CfOp) (words : BitVec 64) : State :=
  match xsendPlace x.segs x.cmd.b .rd (xsendBytes o), xsendPlace x.segs x.cmd.a .wr (xsendBytes o) with
  | some src, some dst =>
    let a := src + 256 * x.cmd.run
    let b := dst + 256 * x.cmd.run
    let p := x.cmd.prog
    if !(s.xclear n x.cmd) || !p.backoff.isEmpty then s
    else if s.xsendRefused p a b then s.xfailed n x x.cmd.run 0
    else if s.xsendHeld p (dieOf n) a b then s
    else if p.part ≠ [] then s.xsendWords n x o a b words
    else
      let u := s.portRefuses a
      let v := u.2.portRefuses b
      let s1 := v.2.onXcmd n x.cmd.seq fun c => { c with prog := (c.prog.takePeer s a).takePeer s b }
      if u.1 || v.1 then v.2.xfailed n x x.cmd.run 0
      else if words = BitVec.allOnes 64 then s1.xsendBlock n x o a b
      else s1.xsendWords n x o a b words
  | _, _ => s.xfailed n x 0 0

/-! ### Groups and ranks (R354) -/

def at64 {α : Type} (v : Vector α 64) (g : Nat) : α := if h : g < 64 then v.get ⟨g, h⟩ else v.get 0

/-- R of a group. -/
def Exchange.rankCount (x : Exchange) (g : Nat) : Nat := (at64 x.nrank g).toNat
/-- Rank `j` of a group. -/
def Exchange.rank (x : Exchange) (g j : Nat) : Nat := (Store.get 0 x.ranks (64 * g + j)).toNat
def rkRoute (e : Nat) : Nat := bits e 2 1
def rkMod (e : Nat) : Nat := bits e 6 3
def rkPeer (e : Nat) : Nat := bits e 18 7
def rkCore (e : Nat) : Nat := 12 * bits e 21 19 + bits e 25 22
/-- A rank entry is defined. -/
def rkValid (e : Nat) : Bool := bit e 0 && decide (rkRoute e ≠ 3) && decide (bits e 25 22 ≤ 11)

/-- Every rank of a command's group is defined, and its own rank is one of them (R362). -/
def State.groupOk (s : State) (g : Gcb) : Bool :=
  let r := s.xchg.rankCount (xGroup g)
  decide (xMyRank g < r) && (List.range r).all fun j => rkValid (s.xchg.rank (xGroup g) j)

/-! ### Source bytes (R358) -/

/-- An FP32 word as the BF16 value that RNE rounds it to, widened (R64, R66). -/
def narrowWord (v : BitVec 32) : Nat := (toBf (roundTo bf16 false (ofF32 v)).val).toNat * 65536

/-- XPOOL's words as such values. -/
def narrowWords : Nat → Nat → Nat
  | 0, _ => 0
  | n + 1, v => narrowWord (BitVec.ofNat 32 v) + 2 ^ 32 * narrowWords n (v >>> 32)

/-- A block of a collective before any of it is delivered. -/
def newBlock (j data blk : Nat) : XBlock := ⟨j, data, blk, [], true, 0, []⟩

/-- The bytes for every rank of XA2A or XPOOL. -/
def plainBlocks (v blk r : Nat) (narrow : Bool) : List XBlock :=
  (List.range r).map fun j =>
    let b := v >>> (8 * (j * blk)) % 2 ^ (8 * blk)
    newBlock j (if narrow then narrowWords (blk / 4) b else b) blk

/-- XBKT's record for one rank: its count, zeros, its words, and 0xFF to BLK. -/
def bucketRecord (n data blk : Nat) : Nat :=
  n + data * 2 ^ 64 + (2 ^ (8 * blk) - 2 ^ (8 * (8 + 4 * n)))

/-- The count of XBKT for rank `j`, in the window's bytes from SRCOFF on. -/
def bucketCount (v j : Nat) : Nat := v >>> (32 * j) % 2 ^ 32

/-- The bytes for the ranks from `j` on of XBKT, `k` of them, given the window's bytes from SRCOFF on as the number `v` and
how many there are; `e` is where the next rank's words begin. -/
def bucketBlocks (v size blk j e : Nat) : Nat → Option (List XBlock)
  | 0 => some []
  | k + 1 =>
    let n := bucketCount v j
    if blk < 8 + 4 * n ∨ size < e + 4 * n then none
    else (bucketBlocks v size blk (j + 1) (e + 4 * n) k).map fun l =>
      newBlock j (bucketRecord n (v >>> (8 * e) % 2 ^ (32 * n)) blk) blk :: l

/-- The bytes of its window that a collective may read, from SRCOFF on; none where they do not all lie in it. -/
def sourceLen (c : Cmd) (r : Nat) : Option Nat := match c.win with
  | none => none
  | some w =>
    let size := w.size - xSrcOff c.img
    match c.ins with
    | .xbkt _ => if size < 4 * r then none else some size
    | _ => if size < r * xBlk c.img then none else some (r * xBlk c.img)

/-- The blocks of a collective, given the `size` bytes of its window as the number `v`; none where a record overflows. -/
def Cmd.blocksOf (c : Cmd) (v size r : Nat) : Option (List XBlock) := match c.ins with
  | .xbkt _ => bucketBlocks v size (xBlk c.img) 0 (4 * r) r
  | _ => some (plainBlocks v (xBlk c.img) r (xFmt c.img))

/-- The bytes among them that a collective does read (R397). -/
def Cmd.sourceSpan (c : Cmd) (v r : Nat) : Nat := match c.ins with
  | .xbkt _ => 4 * r + 4 * ((List.range r).map (bucketCount v)).foldl (· + ·) 0
  | _ => r * xBlk c.img

/-- A collective whose source bytes have all been read, with the value `v`: it is accepted, each rank with its entry as it stands,
or it fails (R358, R361, R362, R397). -/
def State.acceptWith (s : State) (n : Nat) (x : XCmd) (v size : Nat) : State :=
  let c := x.cmd
  let g := xGroup c.img
  let r := s.xchg.rankCount g
  if s.winMarked n c.win (xSrcOff c.img) (min size (c.sourceSpan v r)) then s.xfailed n x 0 0
  else match c.blocksOf v size r with
    | none => s.xfailed n x 0 0
    | some l => s.onXcmd n c.seq fun c => { c with prog := { c.prog with
        accepted := true, part := [], took := [], held := [], blocks := l.map fun b => { b with entry := s.xchg.rank g b.rank } } }

/-- The words `words` of block `blk` of the source read (R25); with the last of them the collective is accepted. -/
def State.readSource (s : State) (n : Nat) (x : XCmd) (size blk : Nat) (words : BitVec 1024) : State :=
  let c := x.cmd
  let l := xSrcOff c.img
  let had := Store.get 0 c.prog.part blk
  let now := (List.range 1024).filter fun i => words.getLsbD i && !had.getLsbD i && decide (4 * (1024 * blk + i) < size)
  let y := now.foldl (fun (y : Store (BitVec 32) × List HeldByte) i =>
    let k := 1024 * blk + i
    let z := s.carry n c.win (l + 4 * k) (min 4 (size - 4 * k)) y.2
    (Store.set 0 y.1 k (BitVec.ofNat 32 z.1), z.2)) (c.prog.took, c.prog.held)
  let took := y.1
  let part := Store.set 0 c.prog.part blk (had ||| words)
  let words := (size + 3) / 4
  if (List.range words).all fun i => (Store.get 0 part (i / 1024)).getLsbD (i % 1024) then
    s.acceptWith n x ((List.range words).foldl (fun v i => v + (Store.get 0 took i).toNat <<< (32 * i)) 0) size
  else s.onXcmd n c.seq fun c => { c with prog := { c.prog with part := part, took := took, held := y.2 } }

/-- A collective's source read, all of it at once or word by word (R25, R358). -/
def State.acceptCollective (s : State) (n : Nat) (x : XCmd) (blk : Nat) (words : BitVec 1024) : State :=
  let c := x.cmd
  if c.prog.accepted then s
  else if !s.groupOk c.img then s.xfailed n x 0 0
  else match sourceLen c (s.xchg.rankCount (xGroup c.img)) with
    | none => s.xfailed n x 0 0
    | some size =>
      if words = BitVec.allOnes 1024 ∧ c.prog.part = [] then
        s.acceptWith n x (s.winReadAt n c.win (xSrcOff c.img) size) size
      else s.readSource n x size blk words

/-- XSTAT's 16 bytes (R363). -/
def State.xstatBytes (s : State) (i : Nat) : Nat :=
  let p := s.peer i
  p.pvalid.toNat + 2 * (s.trusted i).toNat + 4 * p.reach.toNat + 256 * s.xchg.portUp.toNat +
    2 ^ 64 * (p.retrans + 2 ^ 48 * p.dropped)

/-- Bytes of a window written into the save slot of an evicted task. -/
def State.slotWrite (s : State) (w : TaskRef) (x : Option Window) (l k v : Nat) : State :=
  match x, (s.region? w.rcb).bind fun r => (r.evicted.find? fun e =>
      e.cardIdx == w.cardIdx && e.taskIdx == w.taskIdx).map fun e => r.slotBase e.slot with
  | some y, some base => (List.range k).foldl (fun s i =>
      (s.homeWrite (base + 0x1E5000 + y.byteAddr (l + i)) 1 1 (v >>> (8 * i) % 256)).1) s
  | _, _ => s

/-- XSTAT answered, in its window as words of it land; of an evicted task in the window's bytes of its save slot, and not while the
DCU saves or restores it (log entry 63, DEDUCED). -/
def State.answerStat (s : State) (n : Nat) (x : XCmd) (words : BitVec 1024) : State :=
  let c := x.cmd
  let v := s.xstatBytes c.a.toNat
  if (s.cmd? n c.seq).isSome then s.orLand n c words (s.cmdResult n c (exchangeFlag c.ins) c.b.toNat 16 v words)
  else match s.coreOf x.who with
    | some m => if (s.coreAt m).task.any Task.moving then s else (s.winWriteAt m c.win c.b.toNat 16 v).xdone n x
    | none => (s.slotWrite x.who c.win c.b.toNat 16 v).xdone n x

/-- COLLECTIVE_ACCEPT: the engine's next step for a command of its queue: the words `words` of block `blk` of a collective's source
read, the next block of an XSEND moved or words of it, or an XSTAT answered. -/
def execCollectiveAccept (core : Nat) (w : CmdBlock) (s : State) : Out :=
  match s.xcmd? core w.seq with
  | none => .next s
  | some x => match x.cmd.ins with
    | .xsend o => .next (s.xsendStep core x o (w.words.setWidth 64))
    | .xa2a _ | .xbkt _ | .xpool _ => .next (s.acceptCollective core x w.blk w.words)
    | .xstat _ => .next (s.answerStat core x w.words)
    | _ => .next s

/-! ### Delivery (R359) -/

/-- Every piece of a block has been delivered or discarded. -/
def XBlock.arrived (b : XBlock) : Bool := decide (b.len ≤ b.got.length * 256)

/-- A piece of a block noted as arrived, written or discarded. -/
def Cmd.gotPiece (c : Cmd) (rank p : Nat) (ok : Bool) : Cmd :=
  { c with prog := { c.prog with blocks := c.prog.blocks.map fun b =>
      if b.rank = rank then { b with got := b.got ++ [p], ok := b.ok && ok } else b } }

/-- A collective all of whose bytes have arrived completes, or fails at its lowest rank not delivered (R361, R362). -/
def State.endCollective (s : State) (n q : Nat) : State :=
  match s.xcmd? n q with
  | none => s
  | some x =>
    if x.cmd.prog.accepted && x.cmd.prog.blocks.all XBlock.arrived then
      if x.cmd.prog.blocks.all fun b => b.ok then s.xdone n x else s.xfailed n x x.cmd.xreached 0
    else s

/-- A peer changed. -/
def Exchange.onPeer (x : Exchange) (i : Nat) (f : Peer → Peer) : Exchange :=
  { x with peers := Store.set .none x.peers i (f (Store.get .none x.peers i)) }

/-- The number by which the engine knows a packet in flight to a peer for a command. -/
def tryKey (peer core seq pkt : Nat) : Nat := ((seq * 96 + core) * 4096 + peer) * 2 ^ 32 + pkt

/-- The packet of a collective that carries byte `off` for a rank: up to 4,096 bytes of its block (R360). -/
def packetOf (rank off : Nat) : Nat := rank * 4096 + off / 4096

/-- Words of `k` bytes landed in window `w` of a core: all, or those of a mask. The answer says whether all of them were written. -/
def State.landMasked (s : State) (n : Nat) (w : BitVec 5) (l v k : Nat) (words : BitVec 64) : State × Bool :=
  if words = BitVec.allOnes 64 then s.landBytes n w l v ((k + 3) / 4)
  else (List.range ((k + 3) / 4)).foldl (fun (x : State × Bool) i =>
    if words.getLsbD i then
      let r := x.1.landBytes n w (l + 4 * i) (v >>> (32 * i)) 1
      (r.1, x.2 && r.2)
    else x) (s, true)

/-- A rank's core is one of this module's. -/
def State.rankHere (s : State) (e : Nat) : Bool := rkRoute e == 0 || (rkRoute e == 1 && rkMod e == s.myMod.toNat)

/-- Bytes of a rank on another module handed to it, in a slot of the rack ring or a packet to a peer; `pv` is PVALID of the peer as it
was taken, and `fresh` says that the packet goes now, sealed (R360, R375). Whether they are written is a free value (log entry 3,
DESIGN CHOICE). -/
def State.deliverAway (s : State) (ord : Bool) (e : Nat) (pv fresh : Bool) : State × Bool :=
  if rkRoute e = 1 then
    if s.mayReach (rkMod e) then let a := (s.crossTo (rkMod e) 1).freshBool; (a.2, a.1) else (s, false)
  else if pv && (!fresh || s.mayReachPeer (rkPeer e) ord) then
    let a := (if fresh then s.crossPeer (rkPeer e) ord else s).freshBool
    (if a.1 then a.2.onXchg fun x => x.onPeer (rkPeer e) fun p => { p with reach := true } else a.2, a.1)
  else (s, false)

/-- A rank's bytes leave this module. -/
def State.rankAway (s : State) (e : Nat) : Bool :=
  rkRoute e == 2 || (rkRoute e == 1 && decide (rkMod e ≠ s.myMod.toNat))

/-- The entry that a piece of a block goes by (R354): the one taken when the collective was accepted; or where the entry has been
changed before any byte for the rank has gone, that or the new one, a free value (log entry 3, DESIGN CHOICE). -/
def State.entryFor (s : State) (c : Cmd) (b : XBlock) : Nat × State :=
  let e := s.xchg.rank (xGroup c.img) b.rank
  if e = b.entry ∨ b.got ≠ [] ∨ b.part ≠ [] then (b.entry, s)
  else (if s.freshBool.1 then e else b.entry, s.freshBool.2)

/-- The number by which the NACKs of a piece's access go (R343). -/
def pieceKey (rank p : Nat) : Nat := rank * 2 ^ 32 + p

/-- Piece `p` of a command's block for a rank may arrive: not yet arrived, in ascending order where ORD is 1, not in back-off (R343),
and its crossing not held. -/
def State.pieceDue (s : State) (c : Cmd) (b : XBlock) (p : Nat) : Bool :=
  decide (256 * p < b.len) && !b.got.contains p && (!xOrd c.img || (List.range p).all fun i => b.got.contains i) &&
    !(s.trust.holds && s.rankAway b.entry) && !c.prog.backoff.contains (pieceKey b.rank p)

/-- The words of a piece that may land now: not yet landed, and where ORD is 1 none before one that has not (R359). -/
def landable (ord : Bool) (had words : BitVec 64) : BitVec 64 :=
  if ord then (List.range 64).foldl (fun m i =>
    if (had ||| m).getLsbD i then m
    else if words.getLsbD i && (List.range i).all (had ||| m).getLsbD then m ||| BitVec.twoPow 64 i else m) 0
  else words &&& ~~~had

/-- The words of a piece that lie in it. -/
def pieceWords (k : Nat) : BitVec 64 := BitVec.ofNat 64 (2 ^ ((k + 3) / 4) - 1)

/-- The rank's block after words of a piece have landed. -/
def Cmd.landedPiece (c : Cmd) (rank p e : Nat) (words : BitVec 64) (ok : Bool) : Cmd :=
  { c with prog := { c.prog with blocks := c.prog.blocks.map fun b =>
      if b.rank = rank then { b with part := Store.set 0 b.part p words, ok := b.ok && ok, entry := e } else b } }

/-- No other piece of the packet that carries piece `p` has gone: up to 4,096 bytes travel in one (R360). -/
def XBlock.packetFresh (b : XBlock) (p : Nat) : Bool := !b.ok || b.got.all fun i => i / 16 != p / 16

/-- Words of `k` bytes for a rank of this module land in window `w` of its core, from logical byte `l` on: at once, or in a window with
shorter words as they fill its words, `last` saying that no more bytes for the rank will come. The answer says whether all were
written, and which bytes are held back. -/
def State.landRank (s : State) (c : Cmd) (core rank l v k : Nat) (now : BitVec 64) (last : Bool) : State × Bool × List HeldByte :=
  let w := xDstW c.img
  let held := c.prog.held
  if !((s.openWin core w).any Window.odd) then
    let r := s.landMasked core w l v k now
    (r.1, r.2, held)
  else
    let come := (List.range ((k + 3) / 4)).foldl (fun h i =>
      if now.getLsbD i then holdBytes core rank (l + 4 * i) (v >>> (32 * i)) (min 4 (k - 4 * i)) h else h) held
    let x := s.landHeld core (s.openWin core w) (some w) last (fun _ => true) come
    (x.1, x.2.lost.isNone, x.2.held)

/-- Words of a piece of a collective arrive; the piece with the last of them. -/
def State.deliverPiece (s : State) (core seq : Nat) (c : Cmd) (b : XBlock) (p : Nat) (words : BitVec 64) : State :=
  let e := s.entryFor c b
  let l := xDstOff c.img + xMyRank c.img * xBlk c.img + 256 * p
  let k := min 256 (b.len - 256 * p)
  let had := Store.get 0 b.part p
  let whole := !(s.rankHere e.1) || (decide (words = BitVec.allOnes 64) && had == 0)
  let now := if whole then BitVec.allOnes 64 else landable (xOrd c.img) had words
  let full := pieceWords k &&& ~~~(had ||| now) == 0
  let last := full && decide (b.len ≤ (b.got.length + 1) * 256)
  let r := if !rkValid e.1 then (e.2, false, c.prog.held)
    else if s.rankHere e.1 then e.2.landRank c (rkCore e.1) b.rank l (b.data >>> (8 * (256 * p)) % 2 ^ (8 * k)) k now last
    else
      let d := e.2.deliverAway (xOrd c.img) e.1 (c.prog.pvalid s (rkPeer e.1)) (b.packetFresh p)
      (d.1, d.2, c.prog.held)
  let s1 := if rkRoute e.1 = 2 then
      (r.1.onXchg fun x => { x with tries := Store.set 0 x.tries (tryKey (rkPeer e.1) core seq (packetOf b.rank (256 * p))) 0 }).onXcmd
        core seq fun c => { c with prog := c.prog.takePeerNo s (rkPeer e.1) }
    else r.1
  let s2 := s1.onXcmd core seq fun c => { c with prog := { c.prog with held := r.2.2 } }
  if full then (s2.onXcmd core seq fun c => (c.landedPiece b.rank p e.1 0 true).gotPiece b.rank p r.2.1).endCollective core seq
  else s2.onXcmd core seq fun c => c.landedPiece b.rank p e.1 (had ||| now) r.2.1

/-- EXCHANGE_DELIVERY: a piece of 256 bytes of a collective of core `core`, or words of it, arrives at rank `rank`, at byte `off` of
its block; or the bytes of a crossing land in a window. -/
def execExchangeDelivery (x : Delivery) (s : State) : Out :=
  match x with
  | .own core seq rank off _ words =>
    match s.xcmd? core seq with
    | none => .next s
    | some x =>
      match x.cmd.prog.blocks.find? fun b => b.rank == rank with
      | none => .next s
      | some b =>
        if s.pieceDue x.cmd b (off / 256) then .next (s.deliverPiece core seq x.cmd b (off / 256) (words.setWidth 64)) else .next s
  | .sealed member lane seqNo epochBit tagOk core w off n data =>
    s.openSealed member lane seqNo epochBit tagOk (.deliver core w off n data)

/-! ### The Ultra Ethernet transport (R360) -/

/-- UET_PACKET_RECEIVE: a packet of a delivery mode not used is dropped and counted; others are opened as sealed crossings. One that is
taken in shows a live connection to its peer (R354; log entry 52, DESIGN CHOICE). `lane` is the delivery mode: 4 ordered, 5 unordered. -/
def execUetPacketReceive (p : UetPacket) (s : State) : Out :=
  if p.lane ≠ 4 ∧ p.lane ≠ 5 then
    .next (s.onXchg fun x => x.onPeer (p.peer % 4096) fun y => { y with dropped := min 65535 (y.dropped + 1) })
  else match s.trust.memberFor true (p.peer % 4096) with
    | none => .next (s.onTrust fun t => { t with autherr := satAdd48 t.autherr 1 })
    | some m =>
      let x := s.openSealed m p.lane p.seqNo p.epochBit p.tagOk p.body
      if (s.trust.receive m p.lane p.seqNo p.epochBit p.tagOk).2 && !s.crossingWaits p.body then
        andThen x fun s => .next (s.onXchg fun x => x.onPeer (p.peer % 4096) fun y => { y with reach := true })
      else x

/-- A block of a rank routed to peer `i`, what has not arrived of it given up. -/
def loseRank (i : Nat) (b : XBlock) : XBlock :=
  if rkRoute b.entry = 2 ∧ rkPeer b.entry = i ∧ b.arrived = false
  then { b with ok := false, got := List.range ((b.len + 255) / 256) } else b

/-- A range of an XSEND is homed on peer `i`. -/
def State.xsendPeer (s : State) (x : XCmd) (o : CfOp) (i : Nat) : Bool :=
  ((xsendPlace x.segs x.cmd.b .rd (xsendBytes o)).any fun k => s.home k == .peer i) ||
    (xsendPlace x.segs x.cmd.a .wr (xsendBytes o)).any fun k => s.home k == .peer i

/-- What waited for a peer that has become unreachable fails: the ranks of a collective routed to it, an XSEND to or from it, or the
requests of a copy command that it homes. -/
def State.peerLost (s : State) (i n q : Nat) : State :=
  match s.xcmd? n q with
  | some x => match x.cmd.ins with
    | .xsend o => if s.xsendPeer x o i then s.xfailed n x x.cmd.run 0 else s
    | .xstat _ => s
    | _ =>
      (s.onXcmd n q fun c =>
        { c with prog := { c.prog with blocks := c.prog.blocks.map (loseRank i) } }).endCollective n q
  | none =>
    match s.cmd? n q with
    | none => s
    | some c =>
      match c.reqs.find? fun r => s.home r.key == .peer i && (r.stage == .ring || r.stage == .home) with
      | none => s
      | some r => s.failAt n q r 0

/-- UET_RETRANSMIT: packet `pkt` to a peer for a command is sent again; after sixteen times the peer is unreachable. -/
def execUetRetransmit (peer core : Nat) (w : CmdPacket) (s : State) : Out :=
  let i := peer % 4096
  let k := tryKey i core w.seq w.pkt
  let n := Store.get 0 s.xchg.tries k + 1
  if (s.xcmd? core w.seq).isNone && (s.cmd? core w.seq).isNone then .next s
  else
    let s1 := s.onXchg fun x =>
      { x.onPeer i fun p => { p with retrans := satAdd48 p.retrans 1, reach := p.reach && decide (n < 16) } with
        tries := Store.set 0 x.tries k (if n < 16 then n else 0) }
    if n < 16 then .next s1 else .next (s1.peerLost i core w.seq)

/-- PORT_LINK_CHANGE. -/
def execPortLinkChange (port : Nat) (up : Bool) (s : State) : Out :=
  .next (s.onXchg fun x => { x with portUp := putBit x.portUp (port % 8) up })

/-- NRANK_WRITE: 65 to 127 read back as 0. -/
def execNrankWrite (g : Nat) (v : Word) (s : State) : Out :=
  let n := bits v.toNat 6 0
  .next (s.onXchg fun x => { x with nrank := if h : g < 64 then x.nrank.set g (if n ≤ 64 then BitVec.ofNat 7 n else 0) h else x.nrank })

end Sys2Proof.Machine
end

