-- ==== Sys2Proof/Machine/Dcu.lean ====
section
/-!
DEFINITION. The die control units towards the host (R32, R35-R43, R106): binding and unbinding of regions, doorbells, the
commands CANCEL, ENABLE and FLUSH_IMAGE, the reading of job cards, and the budget period boundary. EVICT and REPLAY stand
with evictions and page faults.
-/

namespace Sys2Proof.Machine

/-! ### How a DCU reaches memory -/

/-- A read of `n` bytes at their home; bytes that this module's memory does not hold are free values (log entry 3, DESIGN CHOICE).
A crossing that is refused (R367) fails the read (log entry 64, DESIGN CHOICE). -/
def State.dcuRead (s : State) (a n : Nat) : State × Nat × Bool :=
  if s.onModule a n then s.homeReadLong (n / 256 + 2) a n
  else if s.mayCross a then
    let f := (s.crossOn a none).fresh
    (f.2, f.1.toNat % 2 ^ (8 * n), false)
  else (s, 0, true)

/-- A write of `n` bytes at their home; bytes that this module's memory does not hold leave its state, and are lost where the
crossing is refused. -/
def State.dcuWrite (s : State) (a n v : Nat) : State :=
  if s.onModule a n then s.homeWriteLong (n / 256 + 2) a n v
  else if s.mayCross a then s.crossOn a none else s

/-- A crossing of the DCU to these bytes is held by a barrier (R379). -/
def State.dcuHeld (s : State) (a n : Nat) : Bool := s.trust.holds && !(s.onModule a n) && s.mayCross a

/-- The health entry of a DCU's read of `n` bytes at `a`, from state `before`, that consumed poison (R395); a read that was refused
consumed none. -/
def State.demandPoison (s before : State) (a n : Nat) : State :=
  if s.onModule a n then s.health 4 (a / 2 ^ 44 % 16) 0 (before.homeGranule a n).toNat 0 else s

/-! ### Region control blocks (R32, R36) -/

/-- RSTATE by its code. -/
def RState.code : RState → Nat
  | .idle => 0
  | .active => 1
  | .stopped => 2
  | .qerror => 3

def RState.ofCode (x : Nat) : RState := if x = 0 then .idle else if x = 1 then .active else if x = 2 then .stopped else .qerror

/-- A region as a DCU takes it in from its RCB (R32). -/
def regionOf (raw : BitVec 2048) (die : Nat) : Region :=
  { raw := raw, die := die, bound := false, jqHead := BitVec.ofNat 32 (recWord raw 8),
    jqTail := BitVec.ofNat 32 (recWord raw 8 >>> 32), cqTail := BitVec.ofNat 32 (recWord raw 9),
    cqPhase := bit (recWord raw 9) 32, used := recWord raw 10, rstate := .ofCode (bits (recWord raw 11) 1 0), mark := none,
    cards := [], evicted := [], saveUsed := [] }

/-- The D fields as 32 bytes at 0x40 of the RCB (R32). -/
def Region.dFields (r : Region) : Nat :=
  r.jqHead.toNat + r.jqTail.toNat <<< 32 + (r.cqTail.toNat + r.cqPhase.toNat <<< 32) <<< 64 +
    (r.used % 2 ^ 64) <<< 128 + r.rstate.code <<< 192

/-- The D fields written to memory. -/
def State.writeD (s : State) (a : Nat) : State := match s.region? a with
  | none => s
  | some r => s.dcuWrite (a + 0x40) 32 r.dFields

/-- A reserved bit of an RCB is not 0 (R32, R36). -/
def rcbReserved (raw : BitVec 2048) : Bool :=
  let w := recWord raw
  decide (w 0 >>> 52 ≠ 0) || decide (w 1 >>> 45 ≠ 0) || decide (w 2 >>> 40 ≠ 0) || decide (w 3 >>> 57 ≠ 0) ||
  decide (bits (w 4) 63 57 ≠ 0) || decide (w 5 >>> 32 ≠ 0) || decide (w 6 >>> 60 ≠ 0) || decide (w 7 >>> 16 ≠ 0) ||
  decide (w 9 >>> 33 ≠ 0) || decide (w 11 >>> 2 ≠ 0) || decide (raw.toNat >>> 768 ≠ 0)

/-- What makes any node of a chain invalid (R36). -/
def rcbBad (raw : BitVec 2048) : Bool :=
  rcbReserved raw || decide (bits (recWord raw 1) 41 40 = 3) || decide (recWord raw 0 % 256 ≠ 0)

/-- What makes the fields of a queue invalid (R36): not looked at in an inner node (R32). -/
def queueBad (s : State) (raw : BitVec 2048) : Bool :=
  let r := regionOf raw 0
  decide (20 < r.jqLog2) || decide (20 < r.cqLog2) || decide (r.jqBase % 128 ≠ 0) || decide (r.cqBase % 32 ≠ 0) ||
  decide (r.saveBase % 65536 ≠ 0) || s.home r.saveBase != .hbm r.place

/-- The RCBs from `a` up to the root, at most `fuel` of them; none when one is invalid, or when one consumes poison, which
is reported (R36, R395). -/
def State.readChain : Nat → State → Nat → State × Option (List (Nat × BitVec 2048))
  | 0, s, _ => (s, none)
  | fuel + 1, s, a =>
    if a % 256 ≠ 0 then (s, none)
    else
      let x := s.dcuRead a 256
      let raw : BitVec 2048 := BitVec.ofNat 2048 x.2.1
      if x.2.2 then (x.1.demandPoison s a 256, none)
      else if rcbBad raw then (x.1, none)
      else if bits (recWord raw 0) 51 0 = 0 then (x.1, some [(a, raw)])
      else
        let y := State.readChain fuel x.1 (bits (recWord raw 0) 51 0)
        (y.1, y.2.map fun l => (a, raw) :: l)

/-- Some slot binds the RCB at `a`. -/
def State.isBound (s : State) (a : Nat) : Bool :=
  s.dcus.toList.any fun d => d.slots.any fun x => x.2.valid && decide (x.2.addr.toNat = a)

/-- A chain read and validated whole: the RCB to be bound and every ancestor that is bound has a queue (R32, R36). -/
def State.validChain (s : State) (a : Nat) : State × Option (List (Nat × BitVec 2048)) :=
  let x := State.readChain 8 s a
  match x.2 with
  | some ((b, raw) :: l) =>
    (x.1, if queueBad x.1 raw || l.any fun y => x.1.isBound y.1 && queueBad x.1 y.2 then none else some ((b, raw) :: l))
  | _ => (x.1, none)

/-- The H fields of a chain taken in; an RCB that no DCU holds yet with its D fields too. `renew`: for those held, the new
H fields take effect, as at a period boundary (R36). -/
def State.takeChain (s : State) (die : Nat) (renew : Bool) (l : List (Nat × BitVec 2048)) : State :=
  l.foldl (fun s x => match s.region? x.1 with
    | some r => if renew then s.putRegion x.1 { r with raw := x.2 } else s
    | none => s.putRegion x.1 (regionOf x.2 die)) s

/-! ### Doorbell slots (R38) -/

/-- A slot that nothing has written (R37). -/
def BindSlot.reset : BindSlot := ⟨0, false, false, false, 0⟩

/-- The RCB whose region a slot serves: the one it binds, else the one whose work it still waits for. -/
def BindSlot.rcb (x : BindSlot) : Nat := if x.valid then x.addr.toNat else x.left.toNat

def Dcu.slot (d : Dcu) (i : Nat) : BindSlot := Store.get BindSlot.reset d.slots i
def Dcu.setSlot (d : Dcu) (i : Nat) (x : BindSlot) : Dcu :=
  { d with slots := Store.set BindSlot.reset d.slots i x }
def State.setSlot (s : State) (die i : Nat) (x : BindSlot) : State := s.onDcu die fun d => d.setSlot i x

/-- The completion record of a card is due (R42, R43): every task has ended, and for a BARRIER those of every earlier card. -/
def recordDue (r : Region) : List Card → Nat → Bool → Option Card
  | [], _, _ => none
  | c :: l, j, quiet =>
    if c.idx.toNat = j then (if r.ended c && (quiet || !(c.valid && decide (cardOp c.raw = 2))) then some c else none)
    else recordDue r l j (quiet && r.ended c)

/-- A region has a running or evicted task, or a completion record still to be written (R38): that of a card of which a task has
been dispatched, or which is due (log entry 59, DESIGN CHOICE). -/
def Region.busy (r : Region) : Bool :=
  !r.evicted.isEmpty || r.cards.any fun c => decide (0 < c.next) || (recordDue r r.cards c.idx.toNat true).isSome

/-- Whether a region is unbound with work left. -/
def State.busyAt (s : State) (a : Nat) : Bool := match s.region? a with
  | none => false
  | some r => r.busy

/-- BUSY falls once the unbound region's last task has ended and its record is written (R38). -/
def State.clearBusy (s : State) : State :=
  { s with dcus := s.dcus.map fun d =>
      { d with slots := (d.slots.map fun x => (x.1, if x.2.busy && !(s.busyAt x.2.left.toNat)
          then { x.2 with busy := false, left := 0 } else x.2)).filter fun x => x.2 != .reset } }

/-- The RCBs that a DCU needs: those bound, those with work left, and their ancestors. -/
def State.needed (s : State) : List Nat :=
  (s.regions.filter fun x => x.2.bound || x.2.busy).flatMap fun x => (s.chain x.1).map (·.1)

/-- What follows of itself when tasks and regions end: BUSY falls, and RCBs that no region needs are let go. A card of an unbound
region that was taken, and of which nothing was dispatched, goes with it and leaves no record; one of which a task was dispatched
keeps BUSY until a CANCEL discards the tasks that the unbind keeps from running (log entry 59, DESIGN CHOICE). -/
def State.tidy (s : State) : State :=
  let s1 := s.clearBusy
  let keep := s1.needed
  { s1 with regions := s1.regions.filter fun x => keep.contains x.1 }

/-- Slot `i` no longer binds its region. -/
def State.unbindSlot (s : State) (die i : Nat) : State :=
  let x := (s.dcu die).slot i
  let busy := s.busyAt x.addr.toNat
  let s1 := s.setSlot die i { x with valid := false, busy := busy, left := if busy then x.addr else 0 }
  s1.onRegion x.addr.toNat fun r => { r with bound := s1.isBound x.addr.toNat }

/-- The reading of the RCBs from `a` up to the root waits at one of them (R379). -/
def State.chainHeld : Nat → State → Nat → Bool
  | 0, _, _ => false
  | fuel + 1, s, a =>
    if a % 256 ≠ 0 then false
    else if s.dcuHeld a 256 then true
    else
      let x := s.dcuRead a 256
      let raw : BitVec 2048 := BitVec.ofNat 2048 x.2.1
      if x.2.2 || rcbBad raw || bits (recWord raw 0) 51 0 == 0 then false
      else State.chainHeld fuel x.1 (bits (recWord raw 0) 51 0)

/-- A bind put off is a bind of this slot. -/
def Delayed.bindsSlot (die slot : Nat) : Delayed → Bool
  | .bind d i _ => d == die && i == slot
  | .boundary _ => false

/-- A bind that was put off gives way to a later write of its slot. -/
def State.dropBind (s : State) (die slot : Nat) : State :=
  { s with delayed := s.delayed.filter fun x => !(x.bindsSlot die slot) }

def State.delay (s : State) (x : Delayed) : State := { s with delayed := s.delayed ++ [x] }

/-- A slot that binds nothing binds the RCB at `addr`, provided validation passes. An RCB that the DCUs hold already, as another
slot's or as an ancestor, keeps the H fields in effect until the next boundary (R36). -/
def State.bindNow (s : State) (die slot : Nat) (addr : BitVec 52) : State :=
  let y := s.validChain addr.toNat
  let failed := y.1.setSlot die slot ⟨addr, false, false, true, 0⟩
  match y.2 with
  | none => failed.tidy
  | some l =>
    let s1 := y.1.takeChain die false l
    match s1.region? addr.toNat with
    | some r =>
      let q := { r with die := die, bound := true }
      if q.place ≠ die then failed.tidy
      else (s1.putRegion addr.toNat q.settle).setSlot die slot ⟨addr, true, false, false, 0⟩
    | none => failed.tidy

/-- BIND (R36, R38). A slot that is bound already takes the write only once its region has no work left (log entry 13, DEDUCED). While
an RCB that it reads lies across a crossing that is held, the bind waits, VALID reading 0 (R379; log entry 70, DESIGN CHOICE). -/
def execBind (die slot : Nat) (addr : BitVec 52) (s : State) : Out :=
  let x := (s.dcu die).slot slot
  if 8 ≤ die ∨ 1024 ≤ slot then .next s
  else if x.busy || (x.valid && s.busyAt x.addr.toNat) then .next (s.setSlot die slot { x with err := true })
  else
    let s0 := (if x.valid then s.unbindSlot die slot else s).dropBind die slot
    if s0.chainHeld 8 addr.toNat then .next ((s0.setSlot die slot ⟨addr, false, false, false, 0⟩).delay (.bind die slot addr))
    else .next (s0.bindNow die slot addr)

/-- UNBIND (R37, R38): a write of VALID = 0, which stores RCB_ADDR. -/
def execUnbind (die : Nat) (w : SlotAddress) (s : State) : Out :=
  if 8 ≤ die ∨ 1024 ≤ w.slot then .next s
  else
    let s1 := (if ((s.dcu die).slot w.slot).valid then s.unbindSlot die w.slot else s).dropBind die w.slot
    .next (s1.setSlot die w.slot { (s1.dcu die).slot w.slot with addr := w.addr }).tidy

/-- An ignored doorbell counted (R37). -/
def State.ignoreBell (s : State) (die : Nat) : State :=
  s.onDcu die fun d => { d with dbIgnored := if d.dbIgnored = 0xFFFFFFFF then d.dbIgnored else d.dbIgnored + 1 }

/-- DOORBELL (R39). -/
def execDoorbell (die slot : Nat) (tail region : BitVec 32) (s : State) : Out :=
  let x := (s.dcu die).slot slot
  if 8 ≤ die ∨ 1024 ≤ slot then .next s
  else match x.valid, s.region? x.addr.toNat with
    | true, some r =>
      if region ≠ r.id ∨ 2 ^ r.jqLog2 < (tail - r.jqHead).toNat then
        .next ((s.ignoreBell die).putRegion x.addr.toNat { r with rstate := .qerror })
      else if (r.jqTail - r.jqHead).toNat < (tail - r.jqHead).toNat then
        .next (s.putRegion x.addr.toNat ({ r with jqTail := tail } : Region).settle)
      else .next s
    | _, _ => .next (s.ignoreBell die)

/-- PERIOD_WRITE (R37). -/
def execPeriodWrite (_die : Nat) (v : BitVec 32) (s : State) : Out :=
  .next { s with period := if v.toNat < 14000 then 14000 else v }

/-! ### Commands (R41) -/

/-- The result of a command. -/
def State.dcuRes (s : State) (die : Nat) (r : BitVec 4) : State := s.onDcu die fun d => { d with res := r }

/-- A command acts unless one is in progress (log entry 14, DESIGN CHOICE). -/
def State.command (s : State) (die : Nat) (f : State → State) : Out :=
  if 8 ≤ die ∨ (s.dcu die).busy then .next s else .next (f s)

/-- Index `j` lies below a mark `m` (R41). -/
def belowMark (m j : BitVec 32) : Bool := decide (1 ≤ (m - j).toNat ∧ (m - j).toNat < 2 ^ 31)

/-- Tasks of a card are kept from running when nothing more of it is dispatched (R43). -/
def Region.keeps (r : Region) (c : Card) : Bool :=
  !r.dispatched c || r.evicted.any fun e => e.cardIdx == c.idx

/-- CANCEL of one region (R41): the cards below the mark end, and their evicted tasks are discarded. -/
def State.cancelAt (s : State) (a : Nat) (m : BitVec 32) : State :=
  let s1 := s.onRegion a fun r =>
    { r with mark := if r.jqHead = m then none else some m,
             cards := r.cards.map fun c =>
               if belowMark m c.idx then { c with stop := true, kept := c.kept || r.keeps c } else c }
  (s1.discard a fun e => belowMark m e.cardIdx).onRegion a Region.settle

/-- The bound regions of a die with an identifier, and those unbound with work left. CANCEL and ENABLE act on each of them, since
R41 does not say which one an identifier that several share names (log entry 67, DESIGN CHOICE). -/
def State.regionsNamed (s : State) (die : Nat) (id : BitVec 32) : List Nat :=
  (s.regions.filter fun x => x.2.die == die && (x.2.bound || x.2.busy) && x.2.id == id).map (·.1)

/-- CANCEL (R41). -/
def execCancel (die : Nat) (id : BitVec 32) (s : State) : Out :=
  s.command die fun s =>
    match s.regionsNamed die id with
    | [] => s.dcuRes die 2
    | l => (l.foldl (fun s a => s.cancelAt a ((s.dcu die).cmdArg.setWidth 32)) s).tidy.dcuRes die 0

/-- The regions that ENABLE may name: those bound on the die and their ancestors. -/
def State.treeNamed (s : State) (die : Nat) (id : BitVec 32) : List Nat :=
  ((((s.regions.filter fun x => x.2.die == die && x.2.bound).flatMap fun x => s.chain x.1).filter
    fun x => x.2.id == id).map (·.1)).dedup

/-- ENABLE (R41). -/
def execEnable (die : Nat) (id : BitVec 32) (s : State) : Out :=
  s.command die fun s =>
    match s.treeNamed die id with
    | [] => s.dcuRes die 2
    | l => (l.foldl (fun s a => s.onRegion a fun r => if r.rstate.runs then r else { r with rstate := r.activity }) s).dcuRes die 0

/-- FLUSH_IMAGE (R41, R50). -/
def execFlushImage (die : Nat) (s : State) : Out :=
  s.command die fun s =>
    let tag := (s.dcu die).cmdArg
    ((List.range 12).foldl (fun s k => s.onCore (12 * die + k) fun c =>
      if c.image.tag = tag then { c with image := { c.image with tag := 0 } } else c) s).dcuRes die 0

/-- DCU_BAD_COMMAND (R41). -/
def execDcuBadCommand (die : Nat) (_op : BitVec 8) (s : State) : Out := s.command die fun s => s.dcuRes die 1

/-! ### Job cards (R42) -/

/-- The next card of a region is to be read: there is one, every card before it has been dispatched, and the record of an
invalid one is written (R42). -/
def Region.cardDue (r : Region) : Bool :=
  r.bound && r.rstate.runs && decide (r.jqHead ≠ r.jqTail) && r.cards.all fun c => c.valid && r.dispatched c

/-- A card as it is taken (R41, R42). -/
def Region.take (r : Region) (raw : BitVec 1024) : Region :=
  let valid := !cardInvalid raw
  let stop := r.below r.jqHead
  let c : Card := { idx := r.jqHead, raw := raw, valid := valid, next := 0, running := 0, done := 0, stop := stop,
                    kept := stop && valid && decide (0 < cardTasks raw), failed := none, reached := 0, launchFail := 0,
                    cycles := 0, dies := 0 }
  let q := { r with jqHead := r.jqHead + 1, cards := r.cards ++ [c] }
  ({ q with mark := if q.mark = some q.jqHead then none else q.mark } : Region).settle

/-- JOB_CARD_READ (R39, R42, R395). -/
def execJobCardRead (die slot : Nat) (s : State) : Out :=
  let x := (s.dcu die).slot slot
  match x.valid, s.region? x.addr.toNat with
  | true, some r =>
    if !r.cardDue then .next s
    else
      let a := r.jqBase + 128 * (r.jqHead.toNat % 2 ^ r.jqLog2)
      let y := s.dcuRead a 128
      if s.dcuHeld a 128 then .next s
      else if y.2.2 then .next ((y.1.demandPoison s a 128).putRegion x.addr.toNat { r with rstate := .qerror })
      else .next (y.1.putRegion x.addr.toNat (r.take (BitVec.ofNat 1024 y.2.1)))
  | _, _ => .next s

/-! ### Budgets (R33, R35, R47) -/

/-- A pool at a period boundary. -/
def Region.newPeriod (r : Region) : Region :=
  { r with used := if !r.unlimited && decide (r.budget < r.used) then r.used - r.budget else 0 }

/-- RCB_REVALIDATION (R36): the H fields of a bound region and its ancestors are read again. -/
def State.revalidate (s : State) (a : Nat) : State :=
  match s.region? a with
  | none => s
  | some r =>
    if !r.bound then s
    else
      let x := s.validChain a
      match x.2 with
      | none => x.1.onRegion a fun r => { r with rstate := .qerror }
      | some l => (x.1.takeChain r.die true l).onRegion a Region.settle

/-- What a boundary does with an RCB beside its pool: the H fields are read again, or while that would cross and crossings are held,
later (R379; log entry 70, DESIGN CHOICE). -/
def State.revalidateOr (s : State) (a : Nat) : State :=
  if s.chainHeld 8 a then s.delay (.boundary a) else s.revalidate a

/-- The D fields are written, unless that waits. -/
def State.writeDOr (s : State) (a : Nat) : State := if s.delayed.contains (.boundary a) then s else s.writeD a

/-- What was put off is done. -/
def State.runDelayed (s : State) : Delayed → State
  | .bind die slot addr => s.bindNow die slot addr
  | .boundary a => (s.revalidate a).writeD a

/-- Everything that was put off is done once crossings are no longer held. -/
def State.actDelayed (s : State) : State :=
  if s.trust.holds then s else s.delayed.foldl State.runDelayed { s with delayed := [] }

/-- A budget period is over. -/
def State.boundaryDue (s : State) : Bool := decide (s.boundary ≤ s.wall) && s.ctl.sstate == .ready

/-- BUDGET_PERIOD_BOUNDARY (R32, R35, R36): the pools, the H fields, then the D fields as the boundary leaves them. -/
def execBudgetPeriodBoundary (s : State) : Out :=
  if !s.boundaryDue then .next s
  else
    let s1 := { s with
      regions := s.regions.map fun (x : Nat × Region) => (x.1, x.2.newPeriod)
      boundary := s.boundary + s.period.toNat }
    let names := s1.regions.map fun x => x.1
    let s2 := names.foldl State.revalidateOr s1
    .next (names.foldl State.writeDOr s2).tidy

/-- Cycles of a pinned task kept until they are reported (R47). -/
def addPinned (a n : Nat) : List (Nat × Nat) → List (Nat × Nat)
  | [] => [(a, n)]
  | (b, m) :: l => if b = a then (b, m + n) :: l else (b, m) :: addPinned a n l

/-- What a die has to report is charged to the pools. -/
def State.reportPinned (s : State) (die : Nat) : State :=
  let l := (s.dcu die).pinned
  l.foldl (fun s x => chargePools x.2 (poolChain (s.chain x.1)) s) (s.onDcu die fun d => { d with pinned := [] })

/-- A report is due: every 14,000 cycles (R47), counted on the module's cycle counter from its 0 on, which R47 leaves open (log
entry 67, DESIGN CHOICE). -/
def State.pinnedDue (s : State) (die : Nat) : Bool :=
  decide (s.wall % 14000 = 0) && !(s.dcu die).pinned.isEmpty

/-- PINNED_CHARGE_REPORT (R47). -/
def execPinnedChargeReport (die : Nat) (s : State) : Out :=
  if s.pinnedDue die then .next (s.reportPinned die) else .next s

/-- One core cycle charged to the task of core `n` (R33, R35, R47). -/
def State.charge (s : State) (n : Nat) : State :=
  match (s.coreAt n).task with
  | none => s
  | some k =>
    let s1 := s.onCore n fun c => { c with task := some { k with cycles := k.cycles + 1 } }
    let s2 := s1.onRegion k.rcb fun r =>
      { r with cards := onCard k.cardIdx (fun c => { c with cycles := c.cycles + 1 }) r.cards }
    match s2.region? k.rcb with
    | none => s2
    | some r =>
      if r.place = dieOf n then chargePools 1 (poolChain (s2.chain k.rcb)) s2
      else s2.onDcu (dieOf n) fun d => { d with pinned := addPinned k.rcb 1 d.pinned }

end Sys2Proof.Machine
end

