-- ==== Sys2Proof/Machine/Dispatcher.lean ====
section
/-!
DEFINITION. The dispatcher (R45-R48, R51-R55): which region is served, on which core, and which task is evicted when a
task waits and no core is free.
-/

namespace Sys2Proof.Machine

/-! ### Choosing a region (R45) -/

/-- A region that may be served, with its chain from itself to the root. -/
abbrev Candidate := Nat × List (Nat × Region)

/-- The lowest doorbell slot that binds a region. -/
def State.doorbellOf (s : State) (a : Nat) : Nat := match s.region? a with
  | none => 0
  | some r => (((s.dcu r.die).slots.find? fun x => x.2.valid && decide (x.2.addr.toNat = a)).map (·.1)).getD 0

/-- USED of the effective pool, 0 for an unlimited one, and its BUDGET. -/
def usedOf (c : Candidate) : Nat × Nat := match effPool c.2 with
  | none => (0, 1)
  | some r => (if r.unlimited then 0 else r.used, r.budget)

/-- The comparison of rule 2: `x` has used less of its budget than `y`. -/
def usesLess (x y : Candidate) : Bool := decide ((usedOf x).1 * (usedOf y).2 < (usedOf y).1 * (usedOf x).2)

/-- How far a doorbell lies behind the last one served at its priority, wrapping from 1023 to 0; none served counts as
1023. -/
def State.afterServed (s : State) (die : Nat) (x : Candidate) : Nat :=
  let last := match (s.dcu die).served.toList.getD (effPrio x.2) none with
    | none => 1023
    | some n => n
  (s.doorbellOf x.1 + 1024 - (last + 1)) % 1024

/-- `x` is served before `y` (R45). -/
def State.before (s : State) (die : Nat) (x y : Candidate) : Bool :=
  if effPrio x.2 ≠ effPrio y.2 then decide (effPrio y.2 < effPrio x.2)
  else if usesLess x y then true
  else if usesLess y x then false
  else decide (s.afterServed die x < s.afterServed die y)

/-- The candidate that is served first. Between regions that R45 leaves level, as two with one doorbell number on different DCUs
(pinned cards), the order in which the DCUs came to hold them decides (log entry 59, DESIGN CHOICE). -/
def State.chooseFrom (s : State) (die : Nat) : List Candidate → Option Candidate
  | [] => none
  | x :: l => match s.chooseFrom die l with
    | none => some x
    | some y => if s.before die y x then some y else some x

/-- The candidates in the order they would be served. -/
def State.inOrder (s : State) (die : Nat) : Nat → List Candidate → List Candidate
  | 0, _ => []
  | n + 1, l => match s.chooseFrom die l with
    | none => []
    | some x => x :: s.inOrder die n (l.filter fun y => y.1 != x.1)

/-- The candidates of a die; none while DISPATCH_EN is 0 (R37) or before the module is ready. -/
def State.candidates (s : State) (die : Nat) : List Candidate :=
  if (s.dcu die).dispatchEn && s.ctl.sstate == .ready then s.eligibleOn die else []

/-! ### Choosing a core (R46) -/

/-- The free cores of a die, lowest first. -/
def State.freeCores (s : State) (die : Nat) : List Nat :=
  ((List.range 12).map fun k => 12 * die + k).filter fun n => (s.coreAt n).task.isNone

/-- The IMAGE_ID of what a region would start. -/
def Region.imageOf (r : Region) : Ready → Word
  | .launch c _ => cardImageId c.raw
  | .resume e => match r.cards.find? fun c => c.idx == e.cardIdx with
    | none => 0
    | some c => cardImageId c.raw

/-- The core that is taken: one whose resident image is the task's, else the first. -/
def State.coreFor (s : State) (die : Nat) (tag : Word) : Option Nat :=
  match (s.freeCores die).find? fun n => tag != 0 && (s.coreAt n).image.tag == tag with
  | some n => some n
  | none => (s.freeCores die).head?

/-! ### Binding a core (R53, R54) -/

/-- The task that a dispatch binds: LOADING, with nothing loaded yet. -/
def newTask (a : Nat) (r : Region) (c : Card) (t : BitVec 32) (core order : Nat) (e : Option Evicted) : Task :=
  { rcb := a, cardIdx := c.idx, taskIdx := t, regionId := r.id, card := c.raw, segs := [], phase := .loading,
    lcluster := BitVec.ofNat 2 (core % 12 / 4), cycles := (e.map (·.cycles)).getD 0, order := order,
    resume := e.map (·.slot), evict := none,
    evictFor := 0, evictAt := 0, saveSlot := none, hold := none, late := e.bind (·.late), endPc := 0,
    streams := (e.map (·.streams)).getD (.replicate 4 none), notes := [],
    reported := (e.map (·.reported)).getD [] }

/-- A core as it is bound: nothing in its queues, no translation cached, SENT and DONE 0 (R91, R348), the sequencer and the
special registers at rest; the register files, the scratchpad, the array's weights and the image stay (R30). -/
def Core.bind (c : Core) (k : Task) (e : Option Evicted) : Core :=
  { c with
    timed := { c.timed with
      seq := .reset, sp := .reset, inFlight := [], flags := .replicate 32 .clear, wins := .replicate 32 none,
      desc := .replicate 16 0, arr := { ArrayState.reset with active := c.timed.arr.active, shadow := c.timed.arr.shadow } }
    task := some k
    un := { Untimed.reset with
      nseq := c.un.nseq
      flagless := e.bind (·.flagless)
      remoteFail := if (e.map (·.remoteFail)).getD false then some 0 else none }
    marks := c.marks.filter fun m => match m with
      | .vector _ | .accRow _ | .array | .scratch _ => true
      | .scalar _ | .mask _ | .loopBuffer _ => false
    fails := (e.map (·.fails)).getD (.replicate 32 none)
    acquires := (e.map (·.acquires)).getD [] }

/-- The region once the dispatch has been made on a die. -/
def Region.started (r : Region) (die : Nat) (j : BitVec 32) : Ready → Region
  | .launch _ _ => { r with cards := onCard j (fun c =>
      { c with next := c.next + 1, running := c.running + 1, dies := c.dies ||| BitVec.twoPow 8 die }) r.cards }
  | .resume e => { r with
      cards := onCard j (fun c => { c with running := c.running + 1 }) r.cards,
      evicted := r.evicted.filter fun x => !(x.cardIdx == e.cardIdx && x.taskIdx == e.taskIdx) }

/-- The dispatcher's choice of a victim on core `c` is withdrawn (R46, R55). -/
def Core.keepTask (c : Core) : Core :=
  { c with task := c.task.map fun k => { k with evict := none, evictFor := 0 } }

/-- The dispatcher has chosen the task of a core for a waiting task of the region at `a`, and it has not been frozen yet. -/
def Core.chosenFor (c : Core) (a : Nat) : Bool :=
  c.task.any fun k => k.phase == .running && k.evict.isSome && k.evict != some 3 && decide (k.evictFor = a)

/-- The choices of victims for the region at `a` on a die are withdrawn: its task waits no longer (R46). -/
def State.withdraw (s : State) (die a : Nat) : State :=
  (List.range 12).foldl (fun s k =>
    if (s.coreAt (12 * die + k)).chosenFor a then s.onCore (12 * die + k) Core.keepTask else s) s

/-- The dispatch of a region's ready task to core `n`. Before the first task of a card, the DCU takes the acquire of the
doorbell over its RDC (R106). -/
def State.start (s : State) (die n a prio : Nat) (r : Region) (c : Card) (x : Ready) : State :=
  let s0 := match x with
    | .launch _ 0 => s.acquire die true
    | .launch _ (_ + 1) => s
    | .resume _ => s
  let e := match x with
    | .launch _ _ => none
    | .resume e => some e
  let t := match x with
    | .launch _ t => BitVec.ofNat 32 t
    | .resume e => e.taskIdx
  let s1 := (s0.putRegion a (r.started die c.idx x)).withdraw die a
  let s2 := s1.onCore n fun q => q.bind (newTask a r c t n s.norder e) e
  { s2.onDcu die fun d => { d with
      served := d.served.setIfInBounds prio (some (s.doorbellOf a))
      dispatched := some s.wall } with
    norder := s.norder + 1 }

/-! ### Forced eviction (R46, R52) -/

/-- Save slots of a region that are neither in use nor promised to an eviction under way. -/
def State.spareSlots (s : State) (a : Nat) : Nat := match s.region? a with
  | none => 0
  | some r =>
    let promised := s.cores.toList.filter fun c => match c.task with
      | none => false
      | some k => decide (k.rcb = a) && (k.evict.isSome || k.phase == .evicting) && k.saveSlot.isNone
    r.saveSlots - r.saveUsed.length - promised.length

/-- An armed receiver with bytes outstanding (R46, R272). -/
def Core.armed (c : Core) : Bool := c.un.arms.toList.any fun a => a.isSome

/-- The task on core `n` may be chosen for eviction by the dispatcher. -/
def State.evictable (s : State) (n : Nat) : Bool :=
  let c := s.coreAt n
  match c.task with
  | none => false
  | some k => k.phase == .running && k.evict.isNone && k.late.isNone && !c.armed && decide (0 < s.spareSlots k.rcb)

/-- EVICT may take it: also from a page fault, but for one met while DRAINING (R46, R54). A task whose eviction has already been
chosen is not taken a second time, of which R46 says nothing (log entry 67, DESIGN CHOICE). -/
def State.hostEvictable (s : State) (n : Nat) : Bool :=
  let c := s.coreAt n
  match c.task with
  | none => false
  | some k => (k.phase == .running || (k.phase == .faultHold && !(k.hold.any fun h => h.fromDraining))) &&
      k.evict.isNone && !c.armed && decide (0 < s.spareSlots k.rcb)

/-- The order of dispatch of a core's task, and its effective priority. -/
def State.orderOf (s : State) (n : Nat) : Nat := ((s.coreAt n).task.map (·.order)).getD 0
def State.prioOf (s : State) (n : Nat) : Nat := effPrio (((s.coreAt n).task.map fun k => s.chain k.rcb).getD [])

/-- The best of a list by a preference. -/
def pickBest (better : Nat → Nat → Bool) : List Nat → Option Nat
  | [] => none
  | x :: l => match pickBest better l with
    | none => some x
    | some y => if better y x then some y else some x

/-- The victim for a waiting region (R46), with the reason as R57 numbers it. -/
def State.victim (s : State) (die : Nat) (c : Candidate) : Option (Nat × EvictReason) :=
  let run := ((List.range 12).map fun k => 12 * die + k).filter s.evictable
  let poor := run.filter fun n => match (s.coreAt n).task with
    | none => false
    | some k => !hasBudget (s.chain k.rcb)
  match pickBest (fun x y => decide (s.orderOf y < s.orderOf x)) poor with
  | some n => some (n, 1)
  | none =>
    if !effPreempt c.2 then none
    else
      let low := run.filter fun n => decide (s.prioOf n < effPrio c.2)
      (pickBest (fun x y => decide (s.prioOf x < s.prioOf y ∨ (s.prioOf x = s.prioOf y ∧ s.orderOf y < s.orderOf x))) low).map
        fun n => (n, 2)

/-- An eviction for this region's waiting task is under way. -/
def State.madeRoom (s : State) (die : Nat) (a : Nat) : Bool :=
  (List.range 12).any fun k => match (s.coreAt (12 * die + k)).task with
    | none => false
    | some t => (t.evict.isSome || t.phase == .evicting) && t.evict != some 3 && decide (t.evictFor = a)

/-- FORCED_EVICTION_CHOICE: one eviction, for the first waiting region that has a victim and none under way (R46). -/
def State.forceFor (s : State) (die : Nat) : List Candidate → Option (Nat × EvictReason × Nat)
  | [] => none
  | c :: l =>
    if s.madeRoom die c.1 then s.forceFor die l
    else match s.victim die c with
      | some (n, why) => some (n, why, c.1)
      | none => s.forceFor die l

/-- The task of core `n` is chosen. -/
def State.chooseVictim (s : State) (n : Nat) (why : EvictReason) (a : Nat) : State :=
  s.onCore n fun c => { c with task := c.task.map fun k => { k with evict := some why, evictFor := a, evictAt := s.wall } }

/-- What a decision on a die comes to. -/
inductive Decision where
  | nothing
  | serve (n a prio : Nat) (r : Region) (c : Card) (x : Ready)
  | evict (n : Nat) (why : EvictReason) (a : Nat)
deriving DecidableEq, Repr

/-- The card of what a region would start. -/
def Region.cardOf (r : Region) : Ready → Option Card
  | .launch c _ => some c
  | .resume e => r.cards.find? fun c => c.idx == e.cardIdx

/-- The decision on a die (R45, R46): at most one task is dispatched in a cycle. -/
def State.decision (s : State) (die : Nat) : Decision :=
  match s.chooseFrom die (s.candidates die) with
  | none => .nothing
  | some x =>
    match x.2 with
    | [] => .nothing
    | (_, r) :: _ =>
      match r.ready die with
      | none => .nothing
      | some y =>
        match s.coreFor die (r.imageOf y), r.cardOf y with
        | some n, some c =>
          if (s.dcu die).dispatched = some s.wall then .nothing else .serve n x.1 (effPrio x.2) r c y
        | some _, none => .nothing
        | none, _ =>
          match s.forceFor die (s.inOrder die (s.candidates die).length (s.candidates die)) with
          | none => .nothing
          | some (n, why, a) => .evict n why a

/-- Some core's task is chosen for a region that has no task waiting on the die any more. -/
def State.chosenIdly (s : State) (die : Nat) : Option Nat :=
  (List.range 12).findSome? fun k => match (s.coreAt (12 * die + k)).task with
    | none => none
    | some t =>
      if (s.coreAt (12 * die + k)).chosenFor t.evictFor && !(eligible die (s.chain t.evictFor)) then some t.evictFor else none

/-- No more evictions stand on a die than tasks wait (R46): a choice whose region waits no more is withdrawn. -/
def State.withdrawIdle (s : State) : State :=
  (List.range 8).foldl (fun s d => match s.chosenIdly d with
    | none => s
    | some a => s.withdraw d a) s

/-- DISPATCH_DECISION (R45, R46). -/
def execDispatchDecision (die : Nat) (s : State) : Out :=
  match s.decision die with
  | .nothing => .next s
  | .serve n a prio r c x => .next (s.start die n a prio r c x)
  | .evict n why a => .next (s.chooseVictim n why a)

/-- EVICT (R41, R46, R54). The command is in progress until the eviction takes effect at a boundary, or an END or a trap
there withdraws it (R55). A core of the die without a task is refused like one whose task is not evictable (log entry 59, DESIGN
CHOICE). -/
def execEvict (die : Nat) (id : BitVec 32) (s : State) : Out :=
  s.command die fun s =>
    let n := 12 * die + id.toNat
    if 12 ≤ id.toNat then s.dcuRes die 2
    else if !s.hostEvictable n then s.dcuRes die 3
    else (s.chooseVictim n 3 0).onDcu die fun d => { d with busy := true, evicting := some n }

end Sys2Proof.Machine
end

