-- ==== Sys2Proof/Machine/Branch.lean ====
section
/-!
DEFINITION. The branch slot (R134, R136, R156-R163): control transfers with their three delay slots, the return stack,
loop nests and the system instructions.
-/

namespace Sys2Proof.Machine

/-- The halfword at an index of the code overlay (R110). -/
def Core.half (c : Core) (p : BitVec 18) : BitVec 16 := Store.get 0 c.image.overlay p.toNat

/-- The halfword address after the bundle at `p`: 25 halfwords for a literal, 1 otherwise (R110). -/
def Core.after (c : Core) (p : BitVec 18) : BitVec 18 := if c.half p = 0xFFFF then p + 25 else p + 1

/-- The address of the fourth bundle after the one at `p` in fetch order (R158). -/
def Core.fourth (c : Core) (p : BitVec 18) : BitVec 18 := c.after (c.after (c.after (c.after p)))

/-- R134, R137: a control transfer in a delay slot, or inside an active body. -/
def ctlTrap (t : Timed) : Option Trap :=
  if t.seq.bdelay ≠ 0 then trap 0x05 0 else if t.seq.loop.active then trap 0x06 0 else none

/-- R134, R137: a LOOP in a delay slot, or while a nest is active. -/
def loopTrap (t : Timed) : Option Trap :=
  if t.seq.bdelay ≠ 0 then trap 0x05 0 else if t.seq.loop.active then trap 0x06 1 else none

/-- A transfer becomes pending: three delay bundles, then the target. -/
def Timed.transfer (t : Timed) (target : BitVec 18) : Timed :=
  { t with seq := { t.seq with btarget := target, bdelay := 3 } }

/-- A conditional or unconditional transfer. Its three delay slots are in force whether or not it is taken (R134); one
not taken continues at the fourth bundle in sequence. -/
def execTransfer (taken : Timed → Bool) (target : Timed → BitVec 18) (s : State) : Out :=
  s.trapOr 0 (ctlTrap s.timed) fun t => t.transfer (if taken t then target t else s.core.fourth t.seq.pc)

/-- JMP (R156). -/
def execJmp (x : BitVec 18) (s : State) : Out := execTransfer (fun _ => true) (fun _ => x) s
/-- BEQZ (R156). -/
def execBeqz (a : BitVec 6) (x : BitVec 18) (s : State) : Out := execTransfer (fun t => t.sreg a == 0) (fun _ => x) s
/-- BNEZ (R156). -/
def execBnez (a : BitVec 6) (x : BitVec 18) (s : State) : Out := execTransfer (fun t => t.sreg a != 0) (fun _ => x) s
/-- BLTZ (R156). -/
def execBltz (a : BitVec 6) (x : BitVec 18) (s : State) : Out := execTransfer (fun t => (t.sreg a).msb) (fun _ => x) s
/-- BGEZ (R156). -/
def execBgez (a : BitVec 6) (x : BitVec 18) (s : State) : Out := execTransfer (fun t => !(t.sreg a).msb) (fun _ => x) s
/-- JMPR (R156). -/
def execJmpr (a : BitVec 6) (s : State) : Out := execTransfer (fun _ => true) (fun t => (t.sreg a).setWidth 18) s

/-- The active bits of a mask: lanes 0 to VL - 1 (R157). -/
def Timed.activeBits (t : Timed) (m : BitVec 4) : Nat := (t.mreg m).toNat % 2 ^ t.vl

/-- Every active lane of the mask is 1. -/
def Timed.allSet (t : Timed) (m : BitVec 4) : Bool := t.activeBits m == 2 ^ t.vl - 1

/-- Every active lane of the mask is 0. -/
def Timed.noneSet (t : Timed) (m : BitVec 4) : Bool := t.activeBits m == 0

/-- R157: neither all 1 nor all 0. -/
def mixedTrap (t : Timed) (m : BitVec 4) : Option Trap :=
  if t.allSet m || t.noneSet m then none else trap 0x08 (m.setWidth 64)

/-- BMT and BMF: the transfer's own traps first, then the mixed mask. -/
def maskTrap (t : Timed) (m : BitVec 4) : Option Trap := (ctlTrap t).or (mixedTrap t m)

/-- BMT (R156, R157). -/
def execBmt (m : BitVec 4) (x : BitVec 18) (s : State) : Out :=
  s.trapOr 0 (maskTrap s.timed m) fun t => t.transfer (if t.allSet m then x else s.core.fourth t.seq.pc)
/-- BMF (R156, R157). -/
def execBmf (m : BitVec 4) (x : BitVec 18) (s : State) : Out :=
  s.trapOr 0 (maskTrap s.timed m) fun t => t.transfer (if t.noneSet m then x else s.core.fourth t.seq.pc)

/-- The return stack with one more entry (R158); the hardware never spills. -/
def Timed.rpush (t : Timed) (x : BitVec 18) : Timed := { t with seq := { t.seq with rstack := x :: t.seq.rstack } }
/-- The return stack without its top. -/
def Timed.rdrop (t : Timed) : Timed := { t with seq := { t.seq with rstack := t.seq.rstack.tail } }
/-- The top entry. -/
def Timed.rtop (t : Timed) : BitVec 18 := t.seq.rstack.headD 0

/-- R158: a push at depth 32. -/
def pushTrap (t : Timed) : Option Trap := if 32 ≤ t.seq.rstack.length then trap 0x09 0 else none
/-- R158: a pop at depth 0. -/
def popTrap (t : Timed) : Option Trap := if t.seq.rstack = [] then trap 0x0A 0 else none

/-- CALL (R158). -/
def execCall (x : BitVec 18) (s : State) : Out :=
  s.trapOr 0 ((ctlTrap s.timed).or (pushTrap s.timed)) fun t => (t.rpush (s.core.fourth t.seq.pc)).transfer x
/-- CALLR (R158). -/
def execCallr (a : BitVec 6) (s : State) : Out :=
  s.trapOr 0 ((ctlTrap s.timed).or (pushTrap s.timed)) fun t =>
    (t.rpush (s.core.fourth t.seq.pc)).transfer ((t.sreg a).setWidth 18)
/-- RET (R158). -/
def execRet (s : State) : Out :=
  s.trapOr 0 ((ctlTrap s.timed).or (popTrap s.timed)) fun t => t.rdrop.transfer t.rtop
/-- RSPUSH (R159). -/
def execRspush (a : BitVec 6) (s : State) : Out :=
  s.trapOr 0 (pushTrap s.timed) fun t => t.rpush ((t.sreg a).setWidth 18)
/-- RSPOP (R159). -/
def execRspop (d : BitVec 6) (s : State) : Out :=
  s.trapOr 0 (popTrap s.timed) fun t => t.rdrop.pendS 1 d (t.rtop.setWidth 64)

/-! ### Loop nests (R136, R160, R161) -/

/-- The bound registers from `a` on, bits 31:0; 0 beyond the depth (log entry 60, DESIGN CHOICE: the spec gives those no value). -/
def loopBounds (t : Timed) (a : BitVec 6) (depth : Nat) : Vector (BitVec 32) 6 :=
  Vector.ofFn fun j => if j.val < depth then (t.sreg (a + BitVec.ofNat 6 j.val)).setWidth 32 else 0

/-- The trip count (R160). -/
def tripCount (b : Vector (BitVec 32) 6) (depth : Nat) : Nat :=
  (List.range depth).foldl (fun p j => p * (b.toList.getD j 0).toNat) 1

/-- LOOP starts a nest, or the skip of a body with a zero trip count. -/
def startLoop (b : Vector (BitVec 32) 6) (p : BitVec 3) (start : BitVec 18) : LoopState :=
  { LoopState.idle with
    active := decide (tripCount b (p.toNat + 1) ≠ 0), skip := decide (tripCount b (p.toNat + 1) = 0), depthM1 := p,
    start := start, bounds := b }

/-- LOOP (R160). -/
def execLoop (a : BitVec 6) (p : BitVec 3) (s : State) : Out :=
  s.trapOr 0 (loopTrap s.timed) fun t =>
    { t with seq := { t.seq with loop := startLoop (loopBounds t a (p.toNat + 1)) p (s.core.after t.seq.pc) } }

/-! ### System instructions (R163) -/

/-- TRAPI (R163). -/
def execTrapi (i : BitVec 18) (s : State) : Out := .next (s.takeTrap 0 ⟨0x0D, i.setWidth 64⟩)
/-- ABORT (R163). -/
def execAbort (i : BitVec 18) (s : State) : Out := .next (s.takeTrap 0 ⟨0x0E, i.setWidth 64⟩)
/-- IDLE (R163): the count falls by one in every wall cycle after this one. -/
def execIdle (i : BitVec 18) (s : State) : Out :=
  s.timedNext fun t => { t with seq := { t.seq with idle := i.toNat } }
/-- MARK (R163). -/
def execMark (i : BitVec 18) (s : State) : Out := s.timedNext fun t => t.pend 1 (.special 0x015 (i.setWidth 64))

end Sys2Proof.Machine
end

