-- ==== Sys2Proof/Machine/Fetch.lean ====
section
/-!
DEFINITION. Fetch (R110, R111, R116, R396): what stands at the head of issue, the traps of a fetch, fetch ahead, and the
steps of the program counter, of delay slots and of loop nests (R134, R136, R160, R161).
-/

namespace Sys2Proof.Machine

/-! ### The bundle at a halfword (R110, R111) -/

/-- What makes a halfword of the overlay unfit for issue: it lies beyond segment 0, or holds an uncorrectable error. -/
def Core.halfTrap (c : Core) (p : Nat) : Option Trap :=
  if c.image.overlayLen ≤ p then trap 0x01 (BitVec.ofNat 64 p)
  else if c.image.badHalf.contains p then trap 0x02 (BitVec.ofNat 64 p)
  else none

/-- The first unfit halfword of the `n` from `p` on. -/
def Core.halfTraps (c : Core) (p : Nat) : Nat → Option Trap
  | 0 => none
  | n + 1 => match c.halfTrap p with
    | some k => some k
    | none => Core.halfTraps c (p + 1) n

/-- The `n` halfwords from `p` on as one number, the first lowest. -/
def Core.literal (c : Core) (p : Nat) : Nat → Nat
  | 0 => 0
  | n + 1 => (Store.get 0 c.image.overlay p).toNat + 65536 * Core.literal c (p + 1) n

/-- The bundle that the halfword at `p` selects, or the trap (R110, R111, R116). -/
def Core.fetch (c : Core) (p : BitVec 18) : Except Trap BundleBits :=
  match c.halfTrap p.toNat with
  | some k => .error k
  | none =>
    let h := (c.half p).toNat
    if h = 0xFFFF then
      match c.halfTraps (p.toNat + 1) 24 with
      | some k => .error k
      | none =>
        let w : BundleBits := BitVec.ofNat 384 (c.literal (p.toNat + 1) 24)
        if bundleValid w then .ok w else .error ⟨0x04, 0⟩
    else if h < c.image.dictCount ∧ h < 0x2000 then
      if c.image.badDict.contains h then .error ⟨0x02, p.setWidth 64⟩ else .ok (Store.get 0 c.image.dict h)
    else .error ⟨0x03, BitVec.ofNat 64 h⟩

/-- The loop buffer's bundle at a position (R136). -/
def LoopState.at (l : LoopState) (k : Nat) : Option (BitVec 18 × BundleBits) := l.buf[k]?

/-- A later pass replays the buffer. -/
def LoopState.replays (l : LoopState) : Bool := l.active && l.lenKnown

/-- What stands at the head of issue. -/
def Core.headBits (c : Core) : Except Trap BundleBits :=
  let l := c.timed.seq.loop
  if l.replays then
    match l.at l.pos with
    | some x => .ok x.2
    | none => c.fetch c.timed.seq.pc
  else c.fetch c.timed.seq.pc

/-- The decoded bundle at the head of issue. -/
def Core.head (c : Core) : Except Trap Bundle :=
  match c.headBits with
  | .error k => .error k
  | .ok w => match decodeBundle w with
    | .ok b => .ok b
    | .error _ => .error ⟨0x04, 0⟩

/-! ### Fetch ahead (R111, R396) -/

/-- A health entry for a halfword that is only fetched ahead, once per task. -/
def State.aheadFault (s : State) (n p kind : Nat) : State :=
  let c := s.coreAt n
  match c.task with
  | none => s
  | some k =>
    if k.reported.contains p then s
    else (s.setCoreAt n { c with task := some { k with reported := p :: k.reported } }).health kind 0 n p 0

/-- The `fuel` halfwords from `p` on are fetched ahead; `lit` of them still belong to a literal. -/
def State.ahead (n : Nat) : Nat → State → Nat → Nat → State
  | 0, s, _, _ => s
  | fuel + 1, s, p, lit =>
    let c := s.coreAt n
    let h := (Store.get 0 c.image.overlay p).toNat
    let s1 :=
      if c.image.overlayLen ≤ p then s.aheadFault n p 1
      else if c.image.badHalf.contains p || (decide (lit = 0) && c.image.badDict.contains h) then s.aheadFault n p 2
      else s
    State.ahead n fuel s1 (p + 1) (if lit = 0 then (if h = 0xFFFF then 24 else 0) else lit - 1)

/-- None of the `n` halfwords from `p` on lies beyond segment 0 or could be reported. -/
def Core.aheadClean (c : Core) (p n : Nat) : Bool :=
  decide (p + n ≤ c.image.overlayLen) && c.image.badHalf.isEmpty && c.image.badDict.isEmpty

/-- The halfwords that the focused core fetches ahead of issue from `p` on: as many as the device fetches, at most 64. -/
def State.fetchAhead (s : State) (p : BitVec 18) : State :=
  if s.timed.seq.loop.replays || s.core.aheadClean p.toNat 64 then s
  else State.ahead s.focus.val (min 64 Config.fetchDepth) s p.toNat 0

/-! ### The steps of a loop nest (R136, R160) -/

/-- The odometer: the counters of the next pass, or none when it has wrapped. -/
def stepCounters (b : Vector (BitVec 32) 6) (depth : Nat) (l : Vector (BitVec 32) 6) : Nat → Nat → Option (Vector (BitVec 32) 6)
  | 0, _ => none
  | fuel + 1, j =>
    if depth ≤ j then none
    else
      let x := l.toList.getD j 0 + 1
      if x.toNat < (b.toList.getD j 0).toNat then some (l.setIfInBounds j x)
      else stepCounters b depth (l.setIfInBounds j 0) fuel (j + 1)

/-- The sequencer after the last bundle of a pass. -/
def Seq.passEnd (q : Seq) (l : LoopState) : Seq :=
  match stepCounters l.bounds (l.depthM1.toNat + 1) l.cnt 6 0 with
  | none => { q with pc := l.after, loop := .idle }
  | some x => { q with pc := l.start, loop := { l with cnt := x, pos := 0, passes := l.passes + 1 } }

/-- The sequencer after a bundle of an active body that stood at `p` with bits `w` and was followed by `next`: the first
pass captures it, a later one replays the next. -/
def Seq.inBody (q : Seq) (p next : BitVec 18) (w : BundleBits) (lbe : Bool) : Seq :=
  let l := q.loop
  if l.lenKnown then
    if l.pos = l.lenM1 then q.passEnd l
    else
      let dest := match l.at (l.pos + 1) with
        | some x => x.1
        | none => next
      { q with pc := dest, loop := { l with pos := l.pos + 1 } }
  else
    let l1 := { l with buf := l.buf ++ [(p, w)] }
    if lbe then q.passEnd { l1 with lenKnown := true, lenM1 := l.pos, after := next }
    else { q with pc := next, loop := { l1 with pos := l.pos + 1 } }

/-- The sequencer after a bundle that issued: `q` as its branch slot left it, `was` as it stood before. -/
def Seq.advance (q was : Seq) (next : BitVec 18) (w : BundleBits) (lbe : Bool) : Seq :=
  if was.loop.active then q.inBody was.pc next w lbe
  else if was.bdelay = 0 then { q with pc := next }
  else if was.bdelay = 1 then { q with pc := was.btarget, bdelay := 0 }
  else { q with pc := next, bdelay := was.bdelay - 1 }

/-- The 65th bundle of a body without LBE (R137). -/
def bodyTrap (l : LoopState) : Option Trap :=
  if (l.active || l.skip) && !l.lenKnown && decide (64 ≤ l.pos) then trap 0x06 2 else none

/-! ### Skipping a body with a zero trip count (R161) -/

/-- What the sequencer does with the next bundle of a skipped body: a trap, or past it. -/
def Core.skipTrap (c : Core) : Option Trap := match c.headBits with
  | .error k => some k
  | .ok _ => bodyTrap c.timed.seq.loop

/-- One bundle of the body is passed over. -/
def Seq.skipOne (q : Seq) (next : BitVec 18) (lbe : Bool) : Seq :=
  if lbe then { q with pc := next, loop := .idle }
  else { q with pc := next, loop := { q.loop with pos := q.loop.pos + 1 } }

/-- LOOP_SKIP (R161): one body bundle is fetched in a timed cycle and not issued; a trap there is taken. -/
def execLoopSkip (s : State) : Out :=
  let c := s.core
  if !c.timed.seq.loop.skip then .next s
  else match c.skipTrap, c.headBits with
    | some k, _ => .next (s.takeTrap 0 k)
    | none, .ok w =>
      let next := c.after c.timed.seq.pc
      .next ((s.setTimed { c.timed with seq := c.timed.seq.skipOne next (bitAt w 1) }).fetchAhead next)
    | none, .error _ => .next s

/-- IDLE_EXPIRY (R163, R131): the count falls by one in every wall cycle, and at 0 cause 6 is released. -/
def execIdleExpiry (s : State) : Out :=
  s.timedNext fun t => { t with seq := { t.seq with idle := t.seq.idle - 1 } }

end Sys2Proof.Machine
end

