-- ==== Sys2Proof/Machine/Matrix.lean ====
section
/-!
DEFINITION. The matrix slot (R74-R76, R233-R249): loading weights, pushes and their accumulation, the accumulator
store, and the Apex chain.
-/

namespace Sys2Proof.Machine

/-- `n` fields of `w` bits as one number, field 0 lowest. -/
def packN (w : Nat) (f : Nat → Nat) : Nat → Nat
  | 0 => 0
  | n + 1 => packN w f n + (f n % 2 ^ w) * 2 ^ (w * n)

/-- Sub-row SUB of a vector register: its bytes 256 SUB to 256 SUB + 255 (R240). -/
def subRow (v : VReg) (sr : BitVec 4) : BitVec 2048 := v.extractLsb' (2048 * sr.toNat) 2048

/-- Column `n` of an accumulator row (R243). -/
def colOf (r : BitVec 4096) (n : Nat) : BitVec 32 := r.extractLsb' (32 * n) 32

/-! ### Terms and column sums (R74, R75, R233) -/

/-- The floating modes: .bf and .f8 (R233). -/
def mtFloat (mt : BitVec 2) : Bool := mt == 0 || mt == 3

/-- The type of the pushed elements and of the weights of a numeric type MT (R233). -/
def mtType (mt : BitVec 2) : ElemTy := if mt = 0 then .bf else if mt = 1 then .i8 else if mt = 2 then .n8 else .f8

/-- K: terms per column (R233). -/
def mtK (mt : BitVec 2) : Nat := if mt = 0 then 128 else 256

/-- Pushed element `k` (R233). -/
def pushElem (mt : BitVec 2) (a : BitVec 2048) (k : Nat) : Nat :=
  let w := (mtType mt).width
  a.toNat >>> (w * k) % 2 ^ w

/-- Weight `k` of column `n` (R233): cell (i, n) holds k = i, or k = 2i and 2i + 1 in its low and high byte. -/
def weightElem (mt : BitVec 2) (wts : BitVec 262144) (n k : Nat) : Nat :=
  if mt = 0 then wts.toNat >>> (2048 * k + 16 * n) % 65536
  else wts.toNat >>> (2048 * (k / 2) + 16 * n + 8 * (k % 2)) % 256

/-- A value rounded to FP32 by RNE with flushing, as every step in the array is (R64, R69, R74). -/
def arrayRound (x : FVal) : FVal × Bool := flushOut x (roundTo fp32 false x)

/-- An exact product as the addition that takes it finds it: infinite where it lies beyond the FP32 range (R75). -/
def inRange (x : FVal) : FVal :=
  let r := roundTo fp32 false x
  if r.overflow then r.val else x

/-- A floating term and whether a rounded step of it flushed (R75). -/
def floatTerm (metric : BitVec 2) (a b : FVal) : FVal × Bool :=
  if metric = 0 then (inRange (a.mul b), false)
  else
    let d := arrayRound (a.sub b)
    if metric = 1 then (d.1.abs, d.2)
    else
      let q := arrayRound (d.1.mul d.1)
      (q.1, d.2 || q.2)

/-- An integer term (R75). -/
def intTerm (metric : BitVec 2) (a b : Int) : Int :=
  if metric = 0 then a * b else if metric = 1 then (a - b).natAbs else (a - b) * (a - b)

/-- COLUMN_SUM in a floating mode, and whether any input, rounded term step or partial sum flushed (R74, R242). -/
def floatSum (metric mt : BitVec 2) (a : BitVec 2048) (wts : BitVec 262144) (n : Nat) : Nat → FVal × Bool
  | 0 => (.num false 0 0, false)
  | k + 1 =>
    let p := floatSum metric mt a wts n k
    let x := valIn (mtType mt) (pushElem mt a k)
    let y := valIn (mtType mt) (weightElem mt wts n k)
    let t := floatTerm metric x.1 y.1
    let r := arrayRound (p.1.add t.1)
    (r.1, p.2 || x.2 || y.2 || t.2 || r.2)

/-- COLUMN_SUM in an integer mode: every addition is exact (R74). -/
def intSum (metric mt : BitVec 2) (a : BitVec 2048) (wts : BitVec 262144) (n : Nat) : Nat → Int
  | 0 => 0
  | k + 1 =>
    intSum metric mt a wts n k +
      intTerm metric (intOf (mtType mt) (pushElem mt a k)) (intOf (mtType mt) (weightElem mt wts n k))

/-- The 32 bits of a column's sum, and its flush bit. -/
def columnSum (metric mt : BitVec 2) (a : BitVec 2048) (wts : BitVec 262144) (n : Nat) : Nat × Bool :=
  if mtFloat mt then
    let r := floatSum metric mt a wts n (mtK mt)
    ((toF32 r.1).toNat, r.2)
  else (((intSum metric mt a wts n (mtK mt)) % 2 ^ 32).toNat, false)

/-! ### Loading weights (R234, R240, R241) -/

/-- MWSH on the array: the 128th shift copies SHADOW to ACTIVE. -/
def ArrayState.shift (x : ArrayState) (row : BitVec 2048) : ArrayState :=
  let sh : BitVec 262144 := (x.shadow >>> 2048) ||| (row.setWidth 262144 <<< (2048 * 127))
  if x.wcnt = 127 then { x with shadow := sh, active := sh, wcnt := 0 }
  else { x with shadow := sh, wcnt := x.wcnt + 1 }

/-- MMODE (R237). -/
def execMmode (m y : BitVec 2) (dir : Bool) (s : State) : Out := s.timedNext fun t => t.pend 1 (.arrayMode m y dir)
/-- MCEN (R238). -/
def execMcen (a : BitVec 4) (s : State) : Out := s.timedNext fun t => t.pend 1 (.arrayCen ((t.mreg a).setWidth 128))
/-- MWSH (R240). -/
def execMwsh (v : BitVec 8) (sr : BitVec 4) (s : State) : Out :=
  s.timedNext fun t => { t with arr := t.arr.shift (subRow (t.vreg v) sr) }
/-- MWCLR (R241). -/
def execMwclr (s : State) : Out := s.timedNext fun t => t.pend 1 .shadowClear

/-! ### Push and accumulate (R242) -/

/-- What a push captures at issue. -/
def pushOf (x : ArrayState) (a : BitVec 2048) (row : BitVec 12) (ovw : Bool) : Push :=
  { remain := 136, ovw := ovw, int := !mtFloat x.mt, row := row,
    sums := BitVec.ofNat 4096 (packN 32 (fun n => (columnSum x.metric x.mt a x.active n).1) 128),
    flin := BitVec.ofNat 128 (packN 1 (fun n => (columnSum x.metric x.mt a x.active n).2.toNat) 128),
    en := x.cen }

def execPush (ovw : Bool) (v : BitVec 8) (sr : BitVec 4) (row : BitVec 12) (s : State) : Out :=
  s.timedNext fun t =>
    { t with arr := { t.arr with pushes := t.arr.pushes ++ [pushOf t.arr (subRow (t.vreg v) sr) row ovw] } }

/-- MPUSHA (R242). -/
def execMpusha (v : BitVec 8) (sr : BitVec 4) (row : BitVec 12) (s : State) : Out := execPush false v sr row s
/-- MPUSHW (R242). -/
def execMpushw (v : BitVec 8) (sr : BitVec 4) (row : BitVec 12) (s : State) : Out := execPush true v sr row s

/-- What one enabled column of a floating push leaves: the value, its bits and whether it counts a flush (R242). -/
def accFloat (p : Push) (old : BitVec 32) (n : Nat) : EOut :=
  let sum := ofF32 (colOf p.sums n)
  if p.ovw then ⟨(colOf p.sums n).toNat, sum, p.flin.getLsbD n⟩
  else
    let x := flushIn fp32 (ofF32 old)
    let r := arrayRound (x.1.add sum)
    ⟨(toF32 r.1).toNat, r.1, p.flin.getLsbD n || x.2 || r.2⟩

/-- The signed sum of an integer column before it wraps. -/
def accInt (p : Push) (old : BitVec 32) (n : Nat) : Int := old.toInt + (colOf p.sums n).toInt

/-- The row after a push lands. -/
def pushRow (p : Push) (old : BitVec 4096) : BitVec 4096 :=
  BitVec.ofNat 4096 (packN 32 (fun n =>
    if p.en.getLsbD n then
      if p.int then (if p.ovw then (colOf p.sums n).toNat else ((accInt p (colOf old n) n) % 2 ^ 32).toNat)
      else (accFloat p (colOf old n) n).bits
    else (colOf old n).toNat) 128)

/-- Whether an enabled column below `n` wraps (R73). -/
def pushWraps (p : Push) (old : BitVec 4096) : Nat → Bool
  | 0 => false
  | n + 1 =>
    pushWraps p old n ||
      (p.en.getLsbD n && (decide (accInt p (colOf old n) n < -2 ^ 31) || decide (2 ^ 31 - 1 < accInt p (colOf old n) n)))

/-- ACCOV after a push lands (R73, R242). -/
def pushOv (p : Push) (old : BitVec 4096) (ov : Bool) : Bool :=
  if p.ovw then false else if p.int then ov || pushWraps p old 128 else ov

/-- A push lands: its row, ACCOV and, in a floating mode, the BSTAT entries of the enabled columns (R70, R242). -/
def Push.land (p : Push) (t : Timed) : Timed :=
  let old := t.row p.row
  let t1 := (t.setRow p.row (pushRow p old)).setOv p.row (pushOv p old (t.rowOv p.row))
  if p.int then t1
  else t1.applyBst (bstList (fun n => p.en.getLsbD n)
    (fun n => bstElem fp32 n (accFloat p (colOf old n) n).fl (accFloat p (colOf old n) n).val) 128)

def landPushes : List Push → Timed → Timed
  | [], t => t
  | p :: l, t => landPushes l (p.land t)

/-- The accumulate beat of a cycle: the clears due with it first, then the pushes that reach their cycle (R227, R242,
R244); the others age. -/
def Timed.accumulate (t : Timed) : Timed :=
  let t1 := landClears t.due t
  let due := t1.arr.pushes.filter fun p => p.remain ≤ 1
  let rest := (t1.arr.pushes.filter fun p => !(decide (p.remain ≤ 1))).map fun p => { p with remain := p.remain - 1 }
  landPushes due { t1 with arr := { t1.arr with pushes := rest } }

/-! ### The accumulator store (R244) -/

/-- MACCRD (R244). -/
def execMaccrd (v : BitVec 8) (sr : BitVec 4) (row : BitVec 12) (s : State) : Out :=
  s.timedNext fun t =>
    let ones : VReg := BitVec.ofNat 32768 ((2 ^ 4096 - 1) <<< (2048 * sr.toNat))
    t.pend 6 (.vector v ((t.vreg v &&& ~~~ones) ||| ((t.row row).setWidth 32768 <<< (2048 * sr.toNat))))
/-- MACCWR (R244). -/
def execMaccwr (v : BitVec 8) (sr : BitVec 4) (row : BitVec 12) (s : State) : Out :=
  s.timedNext fun t => t.pend 3 (.accRow row ((t.vreg v).extractLsb' (2048 * sr.toNat) 4096))
/-- MACCZ (R244). -/
def execMaccz (row : BitVec 12) (s : State) : Out := s.timedNext fun t => t.pend 1 (.accZero row)
/-- MACCOV (R244): sd at +2, the clear at +1. -/
def execMaccov (d : BitVec 6) (row : BitVec 12) (s : State) : Out :=
  s.timedNext fun t => (t.pendS 2 d (boolWord (t.rowOv row))).pend 1 (.accovClear row)

/-! ### The Apex chain (R245-R248) -/

/-- The place of a value in ORD (R246): -0 before +0, NaN aside. -/
def ordKey (int : Bool) (x : BitVec 32) : Int :=
  if int then x.toInt
  else if x.msb then -((x.toNat % 2 ^ 31 : Nat) : Int) - 1 else (x.toNat : Int)

/-- A NaN of a floating order. -/
def ordNan (int : Bool) (x : BitVec 32) : Bool := !int && (ofF32 x).isNan

/-- BETTER (R246). -/
def better (argMax int : Bool) (x y : BitVec 32) : Bool :=
  if argMax then decide (ordKey int y < ordKey int x) else decide (ordKey int x < ordKey int y)

/-- The candidate among the columns below `n` (R246). -/
def drainScan (argMax int : Bool) (row : BitVec 4096) (en : BitVec 128) (base : BitVec 16) :
    Nat → Option (BitVec 32 × BitVec 16)
  | 0 => none
  | n + 1 =>
    let c := drainScan argMax int row en base n
    let x := colOf row n
    if !en.getLsbD n || decide (65534 < base.toNat + n) || ordNan int x then c
    else match c with
      | none => some (x, BitVec.ofNat 16 (base.toNat + n))
      | some b => if better argMax int x b.1 then some (x, BitVec.ofNat 16 (base.toNat + n)) else some b

/-- What a drain captures at issue. Without a candidate VALUE and INDEX are 0, of which R251 says nothing (log entry 67, DESIGN
CHOICE). -/
def drainOf (t : Timed) (row : BitVec 12) : Drain :=
  let int := !mtFloat t.arr.mt
  let c := drainScan t.arr.argMax int (t.row row) t.arr.cen t.sp.apxb 128
  { remain := 144, valid := c.isSome, argMax := t.arr.argMax, int := int, value := (c.map (·.1)).getD 0,
    index := (c.map (·.2)).getD 0 }

/-- MDRAIN (R246). -/
def execMdrain (row : BitVec 12) (s : State) : Out :=
  s.timedNext fun t => { t with arr := { t.arr with drains := t.arr.drains ++ [drainOf t row] } }

/-- A drain combines with APXV and APXI as they stand in its landing cycle (R246). -/
def Drain.land (d : Drain) (t : Timed) : Timed :=
  let v := t.sp.apxv
  let i := t.sp.apxi
  if d.valid && (decide (i = 0xFFFF) || ordNan d.int v || better d.argMax d.int d.value v ||
      (decide (ordKey d.int d.value = ordKey d.int v) && decide (d.index.toNat < i.toNat))) then
    { t with sp := { t.sp with apxv := d.value, apxi := d.index } }
  else t

def landDrains : List Drain → Timed → Timed
  | [], t => t
  | d :: l, t => landDrains l (d.land t)

/-- The drains that reach their cycle combine; the others age. -/
def Timed.combine (t : Timed) : Timed :=
  let due := t.arr.drains.filter fun p => p.remain ≤ 1
  let rest := (t.arr.drains.filter fun p => !(decide (p.remain ≤ 1))).map fun p => { p with remain := p.remain - 1 }
  landDrains due { t with arr := { t.arr with drains := rest } }

/-- DRAIN_COMBINE (R239, R246). -/
def execDrainCombine (s : State) : Out := s.timedNext Timed.combine

/-- APXRST (R248). -/
def execApxrst (s : State) : Out := s.timedNext fun t => (t.pend 1 (.apex 0 0)).pend 1 (.apex 1 0xFFFF)
/-- APXWR (R248). -/
def execApxwr (a : BitVec 6) (sel : BitVec 2) (s : State) : Out :=
  s.timedNext fun t => t.pend 1 (.apex sel ((t.sreg a).setWidth 32))

/-- An Apex register, zero-extended (R248). -/
def apexValue (t : Timed) (sel : BitVec 2) : Word :=
  if sel = 0 then t.sp.apxv.setWidth 64 else if sel = 1 then t.sp.apxi.setWidth 64 else t.sp.apxb.setWidth 64

/-- APXRD (R248). -/
def execApxrd (d : BitVec 6) (sel : BitVec 2) (s : State) : Out := s.timedNext fun t => t.pendS 2 d (apexValue t sel)

end Sys2Proof.Machine
end

