-- ==== Sys2Proof/Machine/Moves.lean ====
section
/-!
DEFINITION. The vector moves of the copy slot (R179-R181): VLD, VST, VLDB and VSTM, between the scratchpad's tile
windows and the vector registers.
-/

namespace Sys2Proof.Machine

/-- ROW0 of the locating scalar (R179). -/
def moveRow (t : Timed) (o : CvOp) : Nat := bits (t.sreg o.sa).toNat 15 0
/-- C of the locating scalar (R179). -/
def moveChunk (t : Timed) (o : CvOp) : Nat := bits (t.sreg o.sa).toNat 21 16

/-- MOVE_ADDR of register chunk `k`, bytes 64 k to 64 k + 63: a chunk never leaves its row (R179). -/
def moveAddr (w : Window) (col : Bool) (row0 c k : Nat) : Nat :=
  if col then w.addr (row0 + k) (64 * c) else w.addr (row0 + 64 * k / w.rp) (64 * k % w.rp)

/-- The address of register chunk `k` in VLDB: one row, repeated (R180). -/
def bcastAddr (w : Window) (row0 k : Nat) : Nat := w.addr row0 (64 * k % w.rp)

/-- R181, for VLD, VST and VSTM. -/
def moveTrap (t : Timed) (o : CvOp) : Option Trap :=
  match t.win o.w with
  | none => trap 0x32 (o.w.setWidth 64)
  | some w =>
    let r := moveRow t o
    if !o.am && decide (r % w.g ≠ 0) then trap 0x34 (o.w.setWidth 64)
    else if !o.am && decide (w.sr < r + w.g) then trap 0x33 (o.w.setWidth 64)
    else if o.am && (decide (w.sr < r + 64) || decide (w.nc ≤ moveChunk t o)) then trap 0x33 (o.w.setWidth 64)
    else none

/-- R181, for VLDB. -/
def bcastTrap (t : Timed) (o : CvOp) : Option Trap :=
  match t.win o.w with
  | none => trap 0x32 (o.w.setWidth 64)
  | some w => if w.sr ≤ moveRow t o then trap 0x33 (o.w.setWidth 64) else none

/-- The 64 bytes of a chunk of the scratchpad. -/
def chunkAt (t : Timed) (a : Nat) : Nat := t.sread a 64

/-- The value a register takes from chunks at `addr`, lanes below VL; the others keep theirs (R180). -/
def loadReg (t : Timed) (addr : Nat → Nat) (old : VReg) : VReg :=
  updElems 32 (fun _ => true) (fun n => chunkAt t (addr (n / 16)) >>> (32 * (n % 16)) % 2 ^ 32) old t.vl

/-- The byte mask of the lanes of chunk `k` that a store writes. -/
def laneMask (en : Nat → Bool) (k : Nat) : Nat :=
  packN' (fun j => if en (16 * k + j) then 2 ^ 32 - 1 else 0) 16
where
  /-- Sixteen lanes as one number. -/
  packN' (f : Nat → Nat) : Nat → Nat
    | 0 => 0
    | n + 1 => packN' f n + f n * 2 ^ (32 * n)

/-- A part added to a list of parts, joined to the part of its stripe if there is one. -/
def addPart (p : StripePart) : List StripePart → List StripePart
  | [] => [p]
  | q :: l =>
    if q.stripe = p.stripe then { q with mask := q.mask ||| p.mask, data := mergeStripe q.data p.mask p.data } :: l
    else if p.stripe < q.stripe then p :: q :: l
    else q :: addPart p l

/-- The parts of a store of the first `n` chunks of a register (R180), in rising order of stripe (R168). -/
def storeParts (en : Nat → Bool) (addr : Nat → Nat) (v : VReg) : Nat → List StripePart
  | 0 => []
  | k + 1 =>
    let rest := storeParts en addr v k
    let m := laneMask en k
    if m = 0 then rest
    else
      let a := addr k
      let sh := 8 * (a % 4096)
      addPart { stripe := a / 4096, mask := BitVec.ofNat 32768 (m <<< sh),
                data := BitVec.ofNat 32768 ((v.toNat >>> (512 * k) % 2 ^ 512) <<< sh) } rest

/-- A store of the lanes that `en` enables, performing at +3 (R180). -/
def moveOut (t : Timed) (o : CvOp) (en : Nat → Bool) : Timed :=
  match t.win o.w with
  | none => t
  | some w =>
    t.pend 3 (.scratch (storeParts (fun n => decide (n < t.vl) && en n)
      (moveAddr w o.am (moveRow t o) (moveChunk t o)) (t.vreg o.v) 64))

/-- VLD (R180). -/
def execVld (o : CvOp) (s : State) : Out :=
  s.trapOr 7 (moveTrap s.timed o) fun t =>
    match t.win o.w with
    | none => t
    | some w => t.pend 6 (.vector o.v (loadReg t (moveAddr w o.am (moveRow t o) (moveChunk t o)) (t.vreg o.v)))
/-- VLDB (R180). -/
def execVldb (o : CvOp) (s : State) : Out :=
  s.trapOr 7 (bcastTrap s.timed o) fun t =>
    match t.win o.w with
    | none => t
    | some w => t.pend 6 (.vector o.v (loadReg t (bcastAddr w (moveRow t o)) (t.vreg o.v)))
/-- VST (R180). -/
def execVst (o : CvOp) (s : State) : Out := s.trapOr 7 (moveTrap s.timed o) fun t => moveOut t o fun _ => true
/-- VSTM (R180): only lanes whose bit of ma is 1; ma is EXT bits 3:0. -/
def execVstm (o : CvOp) (s : State) : Out :=
  s.trapOr 7 (moveTrap s.timed o) fun t => moveOut t o fun n => (t.mreg (o.ext.setWidth 4)).getLsbD n

/-! ### Bank conflicts (R173, R174) -/

/-- The bank of a chunk (R173). -/
def bankOf (a : Nat) : Nat := a / 64 % 64

/-- The chunks of a move that hold a byte of an enabled lane. -/
def moveChunks (en : Nat → Bool) (addr : Nat → Nat) (n : Nat) : List Nat :=
  ((List.range n).filter fun k => decide (laneMask en k ≠ 0)).map fun k => addr k / 64 * 64

/-- Without repeats. -/
def distinct : List Nat → List Nat
  | [] => []
  | x :: l => if (distinct l).contains x then distinct l else x :: distinct l

/-- E of R174 for the chunks that a bundle's accesses touch. -/
def extraCycles (chunks : List Nat) : Nat :=
  let cs := distinct (chunks.map fun a => a / 64 * 64)
  let most := (List.range 64).foldl (fun m b => max m ((cs.filter fun a => bankOf a == b).length)) 0
  most - 1

/-- The chunks an instruction's timed accesses touch (R174). -/
def chunksOf (t : Timed) : Option Instr → List Nat
  | some (.ldsN8 _ a i) | some (.ldsI8 _ a i) | some (.ldsN16 _ a i) | some (.ldsI16 _ a i)
  | some (.ldsN32 _ a i) | some (.ldsI32 _ a i) | some (.ldsI64 _ a i)
  | some (.stsN8 _ a i) | some (.stsN16 _ a i) | some (.stsN32 _ a i) | some (.stsN64 _ a i) => [spAddr t a i]
  | some (.vld o) | some (.vst o) => match t.win o.w with
    | none => []
    | some w => moveChunks (fun n => decide (n < t.vl)) (moveAddr w o.am (moveRow t o) (moveChunk t o)) 64
  | some (.vldb o) => match t.win o.w with
    | none => []
    | some w => moveChunks (fun n => decide (n < t.vl)) (bcastAddr w (moveRow t o)) 64
  | some (.vstm o) => match t.win o.w with
    | none => []
    | some w => moveChunks (fun n => decide (n < t.vl) && (t.mreg (o.ext.setWidth 4)).getLsbD n)
        (moveAddr w o.am (moveRow t o) (moveChunk t o)) 64
  | _ => []

end Sys2Proof.Machine
end

