-- ==== Sys2Proof/Machine/TrustCmd.lean ====
section
/-!
DEFINITION. The trust instructions at issue (R383, R384).
-/

namespace Sys2Proof.Machine

/-- A trust command in the copy queue. -/
def trustCmd (i : Instr) (o : CfOp) (s : State) : Cmd :=
  newCmd s.timed s.un .copy i 0 (s.timed.sreg o.sa) (s.timed.sreg o.sb) (s.timed.win (cfW o)) none 0

/-- The checks of a reader whose operand has `w` bits. -/
def trustTrap (t : Timed) (o : CfOp) (w : Nat) : Option Trap :=
  if 2 ^ w ≤ (t.sreg o.sa).toNat then trap 0x4B (t.sreg o.sa)
  else if windowFits t (cfW o) (t.sreg o.sb).toNat 16 then none
  else trap 0x4A ((cfW o).setWidth 64)

/-- TBARR (R385). -/
def execTbarr (o : CfOp) (s : State) : Out :=
  issueFlagged (if 2 ^ 32 ≤ (s.timed.sreg o.sa).toNat then trap 0x4B (s.timed.sreg o.sa) else none) o.f
    (trustCmd (.tbarr o) o s) s
/-- TSTAT (R386). -/
def execTstat (o : CfOp) (s : State) : Out := issueFlagged (trustTrap s.timed o 6) o.f (trustCmd (.tstat o) o s) s
/-- TEPOCH (R386): it reads no operand. -/
def execTepoch (o : CfOp) (s : State) : Out :=
  issueFlagged (if windowFits s.timed (cfW o) (s.timed.sreg o.sb).toNat 16 then none else trap 0x4A ((cfW o).setWidth 64)) o.f
    (trustCmd (.tepoch o) o s) s
/-- TLOG (R386). -/
def execTlog (o : CfOp) (s : State) : Out := issueFlagged (trustTrap s.timed o 10) o.f (trustCmd (.tlog o) o s) s

end Sys2Proof.Machine
end

