-- ==== Sys2Proof/Machine/VectorA.lean ====
section
/-!
DEFINITION. Vector slot A (R210-R215): element arithmetic and logic, multiply-add, reductions, scale, moves.
-/

namespace Sys2Proof.Machine

/-- An integer result per element, from the elements' bits. -/
def intArith (o : VOp) (f : ElemTy → Nat → Nat → Nat) (s : State) : Out :=
  s.timedNext fun t =>
    t.pendElems 2 o o.ty.width fun i => f o.ty (elem (t.vreg o.va) o.ty.width i) (t.opB o o.ty.width i)

/-- A floating result per element from two flushed operands: `f` gives the exact result, rounded once. -/
def floatArith (o : VOp) (f : FVal → FVal → FVal) (s : State) : Out :=
  s.timedNext fun t =>
    t.pendFloats 4 o o.ty fun i =>
      let a := valIn o.ty (elem (t.vreg o.va) o.ty.width i)
      let b := valIn o.ty (t.opB o o.ty.width i)
      roundElem o.ty t.vrtz (f a.1 b.1) (a.2 || b.2)

/-- A floating result that is one of the operands, with no rounding (VMIN, VMAX). -/
def floatPick (o : VOp) (f : FVal → FVal → FVal) (s : State) : Out :=
  s.timedNext fun t =>
    t.pendFloats 4 o o.ty fun i =>
      let a := valIn o.ty (elem (t.vreg o.va) o.ty.width i)
      let b := valIn o.ty (t.opB o o.ty.width i)
      exactElem o.ty (f a.1 b.1) (a.2 || b.2)

/-- A floating result of one operand that only changes its sign (VABS, VNEG). -/
def floatSign (o : VOp) (f : FVal → FVal) (s : State) : Out :=
  s.timedNext fun t =>
    t.pendFloats 4 o o.ty fun i =>
      let a := valIn o.ty (elem (t.vreg o.va) o.ty.width i)
      exactElem o.ty (f a.1) a.2

/-- The operands as integers of the type, the result wrapped. -/
def wrapOp (f : Int → Int → Int) (t : ElemTy) (a b : Nat) : Nat := wrapTy t (f (intOf t a) (intOf t b))

/-- The operands as integers of the type, the result saturated. -/
def satOp (f : Int → Int → Int) (t : ElemTy) (a b : Nat) : Nat := satTy t (f (intOf t a) (intOf t b))

/-- VADD (R210). -/
def execVadd (o : VOp) (s : State) : Out :=
  if o.ty.isFloat then floatArith o FVal.add s else intArith o (wrapOp fun a b => a + b) s
/-- VSUB (R210). -/
def execVsub (o : VOp) (s : State) : Out :=
  if o.ty.isFloat then floatArith o FVal.sub s else intArith o (wrapOp fun a b => a - b) s
/-- VMUL (R210). -/
def execVmul (o : VOp) (s : State) : Out :=
  if o.ty.isFloat then floatArith o FVal.mul s else intArith o (wrapOp fun a b => a * b) s
/-- VMULH (R210): bits 2W-1:W of the exact product. -/
def execVmulh (o : VOp) (s : State) : Out :=
  intArith o (fun t a b => wrapTy t (intOf t a * intOf t b / 2 ^ t.width)) s
/-- VADDS (R210). -/
def execVadds (o : VOp) (s : State) : Out := intArith o (satOp fun a b => a + b) s
/-- VSUBS (R210). -/
def execVsubs (o : VOp) (s : State) : Out := intArith o (satOp fun a b => a - b) s
/-- VMIN (R210). -/
def execVmin (o : VOp) (s : State) : Out :=
  if o.ty.isFloat then floatPick o FVal.minOp s else intArith o (wrapOp fun a b => if a ≤ b then a else b) s
/-- VMAX (R210). -/
def execVmax (o : VOp) (s : State) : Out :=
  if o.ty.isFloat then floatPick o FVal.maxOp s else intArith o (wrapOp fun a b => if b ≤ a then a else b) s
/-- VABS (R210). -/
def execVabs (o : VOp) (s : State) : Out :=
  if o.ty.isFloat then floatSign o FVal.abs s else intArith o (fun t a _ => wrapTy t (intOf t a).natAbs) s
/-- VNEG (R210). -/
def execVneg (o : VOp) (s : State) : Out :=
  if o.ty.isFloat then floatSign o FVal.neg s else intArith o (fun t a _ => wrapTy t (-(intOf t a))) s

/-- VAND (R211). -/
def execVand (o : VOp) (s : State) : Out := intArith o (fun _ a b => a &&& b) s
/-- VOR (R211). -/
def execVor (o : VOp) (s : State) : Out := intArith o (fun _ a b => a ||| b) s
/-- VXOR (R211). -/
def execVxor (o : VOp) (s : State) : Out := intArith o (fun _ a b => a ^^^ b) s
/-- VANDN (R211): a AND NOT b. -/
def execVandn (o : VOp) (s : State) : Out := intArith o (fun t a b => a &&& (b ^^^ (2 ^ t.width - 1))) s

/-- A fused result per element of three flushed operands (R212). -/
def fused (o : VOp) (f : FVal → FVal → FVal → FVal) (s : State) : Out :=
  s.timedNext fun t =>
    t.pendFloats 4 o o.ty fun i =>
      let a := valIn o.ty (elem (t.vreg o.va) o.ty.width i)
      let b := valIn o.ty (t.opB o o.ty.width i)
      let c := valIn o.ty (elem (t.vreg o.vc) o.ty.width i)
      roundElem o.ty t.vrtz (f a.1 b.1 c.1) (a.2 || b.2 || c.2)

/-- VFMA (R212). -/
def execVfma (o : VOp) (s : State) : Out := fused o (fun a b c => (a.mul b).add c) s
/-- VFMS (R212). -/
def execVfms (o : VOp) (s : State) : Out := fused o (fun a b c => (a.mul b).sub c) s
/-- VFNMA (R212). -/
def execVfnma (o : VOp) (s : State) : Out := fused o (fun a b c => c.sub (a.mul b)) s

/-- The sum of a lane's `k` products (R212). -/
def laneDot (t : Timed) (o : VOp) (n : Nat) : Nat → Int
  | 0 => 0
  | k + 1 =>
    let g := 32 / o.ty.width
    laneDot t o n k +
      intOf o.ty (elem (t.vreg o.va) o.ty.width (g * n + k)) * intOf o.ty (t.opB o o.ty.width (g * n + k))

/-- VMAC (R212): per 32-bit lane; vd is read at issue as the accumulator. -/
def execVmac (o : VOp) (s : State) : Out :=
  s.timedNext fun t =>
    t.pendElems 2 o 32 fun n =>
      (((elem (t.vreg o.vd) 32 n : Int) + laneDot t o n (32 / o.ty.width)) % 2 ^ 32).toNat

/-! ### Reductions (R213) -/

/-- A fold over the enabled elements below `n`, in ascending order. -/
def foldEn {α : Type} (en : Nat → Bool) (f : α → Nat → α) (init : α) : Nat → α
  | 0 => init
  | n + 1 => let r := foldEn en f init n; if en n then f r n else r

/-- An integer reduction to 64 bits. -/
def reduceInt (o : VOp) (init : ElemTy → Int) (f : Int → Int → Int) (s : State) : Out :=
  s.timedNext fun t =>
    t.pendS 6 o.sd (wrapInt 64 (foldEn (t.enabled o o.ty.width)
      (fun r i => f r (intOf o.ty (elem (t.vreg o.va) o.ty.width i))) (init o.ty) (t.active o.ty.width)))

/-- The BSTAT update of a reduction: the source elements that flushed (R209). -/
def reduceBst (t : Timed) (o : VOp) : List BstUpd :=
  bstList (t.enabled o o.ty.width) (fun i => bstFlush i (valIn o.ty (elem (t.vreg o.va) o.ty.width i)).2)
    (t.active o.ty.width)

/-- A floating reduction: the fold over the flushed elements, none at first; `fin` makes the FP32 result. -/
def reduceFloat (o : VOp) (f : FVal → FVal → FVal) (fin : Bool → Option FVal → FVal) (s : State) : Out :=
  s.timedNext fun t =>
    let r := foldEn (t.enabled o o.ty.width)
      (fun r i =>
        let x := (valIn o.ty (elem (t.vreg o.va) o.ty.width i)).1
        match r with
        | none => some x
        | some y => some (f y x)) none (t.active o.ty.width)
    t.pendBst 6 (.scalar o.sd (f32Word (fin t.vrtz r))) (reduceBst t o)

/-- The floating sum rounded once to FP32, tiny sums flushed; +0 for no element (R213). -/
def sumOut (rtz : Bool) : Option FVal → FVal
  | none => .num false 0 0
  | some x => (flushOut x (roundTo fp32 rtz x)).1

/-- VRSUM (R213). -/
def execVrsum (o : VOp) (s : State) : Out :=
  if o.ty.isFloat then reduceFloat o FVal.add sumOut s else reduceInt o (fun _ => 0) (fun a b => a + b) s
/-- VRMIN (R213): a NaN gives way to any number; +infinity for no element. -/
def execVrmin (o : VOp) (s : State) : Out :=
  if o.ty.isFloat then reduceFloat o FVal.minOp (fun _ r => r.getD (.inf false)) s
  else reduceInt o maxInt (fun a b => if a ≤ b then a else b) s
/-- VRMAX (R213). -/
def execVrmax (o : VOp) (s : State) : Out :=
  if o.ty.isFloat then reduceFloat o FVal.maxOp (fun _ r => r.getD (.inf true)) s
  else reduceInt o minInt (fun a b => if b ≤ a then a else b) s

/-- A bitwise reduction, zero-extended. -/
def reduceBits (o : VOp) (init : Nat) (f : Nat → Nat → Nat) (s : State) : Out :=
  s.timedNext fun t =>
    t.pendS 6 o.sd (BitVec.ofNat 64 (foldEn (t.enabled o o.ty.width)
      (fun r i => f r (elem (t.vreg o.va) o.ty.width i)) init (t.active o.ty.width)))

/-- VRAND (R213). -/
def execVrand (o : VOp) (s : State) : Out := reduceBits o (2 ^ o.ty.width - 1) (fun a b => a &&& b) s
/-- VROR (R213). -/
def execVror (o : VOp) (s : State) : Out := reduceBits o 0 (fun a b => a ||| b) s

/-! ### Scale (R214) -/

/-- The type of VSCALE's destination and of vc. -/
def scaleTy : ElemTy → ElemTy
  | .bf => .bf
  | .i8 => .f32 | .n8 => .f32 | .i16 => .f32 | .n16 => .f32 | .i32 => .f32 | .n32 => .f32 | .f32 => .f32
  | .f8 => .f32 | .i4 => .f32 | .n4 => .f32

/-- The scale exponent of block `b`: lane b of vb, or the scalar (R214, R224). -/
def Timed.scaleExp (t : Timed) (o : VOp) (b : Nat) : Int :=
  signedElem 8 ((if o.sbf then (t.scalarB o).toNat else elem (t.vreg o.vb) 32 b) % 256)

/-- VSCALE (R214). -/
def execVscale (o : VOp) (s : State) : Out :=
  s.timedNext fun t =>
    let ty := scaleTy o.ty
    t.pendFloats 4 o ty fun i =>
      let a := valIn o.ty (elem (t.vreg o.va) ty.width i)
      let c := valIn ty (elem (t.vreg o.vc) ty.width i)
      roundElem ty t.vrtz ((a.1.scale (t.scaleExp o (i / 32))).add c.1) (a.2 || c.2)

/-! ### Moves and constants (R215) -/

/-- VBCAST (R215). -/
def execVbcast (o : VOp) (s : State) : Out :=
  s.timedNext fun t =>
    t.pendElems 2 o o.ty.width fun _ =>
      if o.sbf then (t.scalarB o).toNat % 2 ^ o.ty.width else elem (t.vreg o.va) o.ty.width o.imm.toNat
/-- VMOV (R215). -/
def execVmov (o : VOp) (s : State) : Out :=
  s.timedNext fun t => t.pendElems 2 o o.ty.width fun i => elem (t.vreg o.va) o.ty.width i
/-- VIOTA (R215). -/
def execViota (o : VOp) (s : State) : Out :=
  s.timedNext fun t =>
    t.pendElems 2 o o.ty.width fun i =>
      wrapTy o.ty ((if o.sbf then ((t.scalarB o).toNat : Int) else 0) + i * o.simm)
/-- VMOVI (R215). -/
def execVmovi (o : VOp) (s : State) : Out :=
  s.timedNext fun t => t.pendElems 2 o o.ty.width fun _ => wrapTy o.ty o.simm

end Sys2Proof.Machine
end

