-- ==== Sys2Proof/Machine/VectorB.lean ====
section
/-!
DEFINITION. Vector slot B (R216-R229): compares and select, shifts and bit logic, permutes, conversions, mask
instructions, single elements, and block statistics.
-/

namespace Sys2Proof.Machine

/-! ### Compares and select (R216, R217) -/

/-- Bits below `n` that `en` enables take `f`; every other bit keeps its value (R207). -/
def updBits (en f : Nat → Bool) (old : MReg) : Nat → MReg
  | 0 => old
  | n + 1 => let r := updBits en f old n; if en n then putBit r n (f n) else r

/-- Mask `md + j` of a compare: the bits of elements i with i mod g = j (R216). -/
def cmpMask (t : Timed) (o : VOp) (rel : Nat → Bool) (j : Nat) : MReg :=
  let g := 32 / o.ty.width
  updBits (fun n => t.enabled o o.ty.width (g * n + j)) (fun n => rel (g * n + j))
    (t.mreg (o.vd.setWidth 4 + BitVec.ofNat 4 j)) t.vl

/-- The masks of the group from number `j` to `j + k - 1`, each a result of its own; the BSTAT update goes with the
first. -/
def pendMasks (t0 : Timed) (o : VOp) (rel : Nat → Bool) (b : List BstUpd) : Nat → Nat → Timed → Timed
  | 0, _, t => t
  | k + 1, j, t =>
    pendMasks t0 o rel [] k (j + 1)
      (t.pendBst 2 (.mask (o.vd.setWidth 4 + BitVec.ofNat 4 j) (cmpMask t0 o rel j)) b)

/-- A compare with its integer and its floating relation. -/
def compare (o : VOp) (ri : Int → Int → Bool) (rf : FVal → FVal → Bool) (s : State) : Out :=
  s.timedNext fun t =>
    let a := fun i => elem (t.vreg o.va) o.ty.width i
    let b := fun i => t.opB o o.ty.width i
    if o.ty.isFloat then
      pendMasks t o (fun i => rf (valIn o.ty (a i)).1 (valIn o.ty (b i)).1)
        (bstList (t.enabled o o.ty.width)
          (fun i => bstFlush i ((valIn o.ty (a i)).2 || (valIn o.ty (b i)).2)) (t.active o.ty.width))
        (32 / o.ty.width) 0 t
    else pendMasks t o (fun i => ri (intOf o.ty (a i)) (intOf o.ty (b i))) [] (32 / o.ty.width) 0 t

/-- VCMPEQ (R216). -/
def execVcmpeq (o : VOp) (s : State) : Out := compare o (fun a b => a == b) FVal.eqv s
/-- VCMPNE (R216): true of a NaN. -/
def execVcmpne (o : VOp) (s : State) : Out := compare o (fun a b => a != b) (fun a b => !a.eqv b) s
/-- VCMPLT (R216). -/
def execVcmplt (o : VOp) (s : State) : Out := compare o (fun a b => decide (a < b)) FVal.lt s
/-- VCMPLE (R216). -/
def execVcmple (o : VOp) (s : State) : Out := compare o (fun a b => decide (a ≤ b)) (fun a b => a.lt b || a.eqv b) s

/-- VSEL (R217): MA is the selector, every active element is written. -/
def execVsel (o : VOp) (s : State) : Out :=
  s.timedNext fun t =>
    t.pendElems 2 o o.ty.width fun i =>
      if t.maskBit o.ma o.ty.width i then elem (t.vreg o.va) o.ty.width i else t.opB o o.ty.width i

/-! ### Shifts and bit logic (R218-R221) -/

/-- The amount of a shift: the immediate, or b mod W (R218). -/
def shiftAmt (t : Timed) (o : VOp) (i : Nat) : Nat :=
  if o.immf then bits o.imm.toNat 4 0 else t.opB o o.ty.width i % o.ty.width

/-- A shift of each element. -/
def shiftEach (o : VOp) (f : ElemTy → Nat → Nat → Nat) (s : State) : Out :=
  s.timedNext fun t =>
    t.pendElems 2 o o.ty.width fun i => f o.ty (elem (t.vreg o.va) o.ty.width i) (shiftAmt t o i)

/-- VSHL (R218). -/
def execVshl (o : VOp) (s : State) : Out := shiftEach o (fun t a n => (a <<< n) % 2 ^ t.width) s
/-- VSHR (R218). -/
def execVshr (o : VOp) (s : State) : Out := shiftEach o (fun _ a n => a >>> n) s
/-- VASR (R218): arithmetic within W bits, whatever the sign of the type. -/
def execVasr (o : VOp) (s : State) : Out :=
  shiftEach o (fun t a n => wrapTy t (signedElem t.width a / 2 ^ n)) s

/-- The amount of a funnel shift: the immediate, or vc mod W (R219). -/
def funnelAmt (t : Timed) (o : VOp) (i : Nat) : Nat :=
  if o.immf then bits o.imm.toNat 4 0 else elem (t.vreg o.vc) o.ty.width i % o.ty.width

/-- A funnel shift of each element pair. -/
def funnelEach (o : VOp) (f : Nat → Nat → Nat → Nat → Nat) (s : State) : Out :=
  s.timedNext fun t =>
    t.pendElems 2 o o.ty.width fun i =>
      f o.ty.width (elem (t.vreg o.va) o.ty.width i) (t.opB o o.ty.width i) (funnelAmt t o i)

/-- VFSHL (R219): a high, b low. -/
def execVfshl (o : VOp) (s : State) : Out :=
  funnelEach o (fun w a b n => ((a * 2 ^ w + b) <<< n) / 2 ^ w % 2 ^ w) s
/-- VFSHR (R219): b high, a low. -/
def execVfshr (o : VOp) (s : State) : Out := funnelEach o (fun w a b n => ((b * 2 ^ w + a) >>> n) % 2 ^ w) s

/-- One minterm of a three-input table: the bits where a, b, c are as `k` says, if the table has a 1 there (R220). -/
def minterm (ones table a b c k : Nat) : Nat :=
  if table.testBit k then
    (if k.testBit 2 then a else a ^^^ ones) &&& (if k.testBit 1 then b else b ^^^ ones) &&&
      (if k.testBit 0 then c else c ^^^ ones)
  else 0

/-- Three-input logic on W bits (R220). -/
def lut3 (w table a b c : Nat) : Nat :=
  let m := minterm (2 ^ w - 1) table a b c
  m 0 ||| m 1 ||| m 2 ||| m 3 ||| m 4 ||| m 5 ||| m 6 ||| m 7

/-- VLUT3 (R220). -/
def execVlut3 (o : VOp) (s : State) : Out :=
  s.timedNext fun t =>
    t.pendElems 2 o o.ty.width fun i =>
      lut3 o.ty.width (bits o.imm.toNat 7 0) (elem (t.vreg o.va) o.ty.width i) (t.opB o o.ty.width i)
        (elem (t.vreg o.vc) o.ty.width i)

/-- The number of 1 bits below bit `n` (R221). -/
def popcount (x : Nat) : Nat → Nat
  | 0 => 0
  | n + 1 => popcount x n + (x.testBit n).toNat

/-- VPOPC (R221). -/
def execVpopc (o : VOp) (s : State) : Out :=
  s.timedNext fun t =>
    t.pendElems 2 o o.ty.width fun i => popcount (elem (t.vreg o.va) o.ty.width i) o.ty.width

/-! ### Permutes (R222, R223) -/

/-- VPERM (R222). -/
def execVperm (o : VOp) (s : State) : Out :=
  s.timedNext fun t =>
    t.pendElems 4 o o.ty.width fun i =>
      elem (t.vreg o.va) o.ty.width (elem (t.vreg o.vb) o.ty.width i % o.ty.count)

/-- VROT (R222): among the active elements. -/
def execVrot (o : VOp) (s : State) : Out :=
  s.timedNext fun t =>
    let k : Int := if o.sbf then (t.scalarB o).toInt else o.simm
    t.pendElems 4 o o.ty.width fun i =>
      elem (t.vreg o.va) o.ty.width (((i : Int) + k) % (t.active o.ty.width : Int)).toNat

/-- Every element of a register, from `f` (R223: VL and masks are ignored). -/
def allElems (w : Nat) (f : Nat → Nat) : VReg := updElems w (fun _ => true) f 0 (32768 / w)

/-- The two registers of a zip or unzip, each a result of its own (R223, R232). -/
def pendPair (o : VOp) (f g : Timed → Nat → Nat) (s : State) : Out :=
  s.timedNext fun t =>
    (t.pend 4 (.vector o.vd (allElems o.ty.width (f t)))).pend 4 (.vector (o.vd + 1) (allElems o.ty.width (g t)))

/-- Element `j` of the zip of va and vb. -/
def zipElem (o : VOp) (t : Timed) (j : Nat) : Nat :=
  elem (t.vreg (if j % 2 = 0 then o.va else o.vb)) o.ty.width (j / 2)

/-- Element `j` of va followed by vb. -/
def catElem (o : VOp) (t : Timed) (j : Nat) : Nat :=
  if j < o.ty.count then elem (t.vreg o.va) o.ty.width j else elem (t.vreg o.vb) o.ty.width (j - o.ty.count)

/-- VZIP (R223). -/
def execVzip (o : VOp) (s : State) : Out :=
  pendPair o (fun t i => zipElem o t i) (fun t i => zipElem o t (i + o.ty.count)) s
/-- VUNZIP (R223). -/
def execVunzip (o : VOp) (s : State) : Out :=
  pendPair o (fun t i => catElem o t (2 * i)) (fun t i => catElem o t (2 * i + 1)) s

/-! ### Conversions (R224) -/

/-- One converted element (R66, R224): the source value times 2^k, exact, then to the destination type. A negative integer to a
wider unsigned type, for which "exact" gives no value, saturates to 0 (log entry 42, DEDUCED). -/
def convElem (td ts : ElemTy) (rtz : Bool) (k : Int) (x : Nat) : EOut :=
  let a := valIn ts x
  let v := a.1.scale k
  if td.isFloat then roundElem td rtz v a.2
  else ⟨wrapTy td (toIntSat rtz (minInt td) (maxInt td) v), v, a.2⟩

/-- The pairs of a conversion. `f i` is what pair `i` writes; the destination element is in part h where the source is
wider. -/
def convert (o : VOp) (f : Timed → ElemTy → Nat → EOut) (s : State) : Out :=
  match o.ts? with
  | none => .next s
  | some ts =>
    s.timedNext fun t =>
      let wd := o.ty.width
      let ws := ts.width
      let wmax := max wd ws
      let n := 32768 / wmax
      let src := fun i => if ws < wd then i + o.part * n else i
      let off := if wd < ws then o.part * n else 0
      let na := t.active wmax
      let en := fun i => decide (i < na) && t.enabled o wmax i
      let out := updElems wd (fun j => decide (off ≤ j) && en (j - off)) (fun j => (f t ts (src (j - off))).bits)
        (t.vreg o.vd) (off + n)
      let b := if o.ty.isFloat then
          bstList en (fun i => bstElem (fmtOf o.ty) (i + off) (f t ts (src i)).fl (f t ts (src i)).val) n
        else if ts.isFloat then bstList en (fun i => bstFlush (i + off) (f t ts (src i)).fl) n
        else []
      t.pendBst 3 (.vector o.vd out) b

/-- VCVT (R224). -/
def execVcvt (o : VOp) (s : State) : Out :=
  convert o (fun t ts j => convElem o.ty ts t.vrtz 0 (elem (t.vreg o.va) ts.width j)) s
/-- VCVTW (R224): the low bits of the source. -/
def execVcvtw (o : VOp) (s : State) : Out :=
  convert o (fun t ts j => ⟨elem (t.vreg o.va) ts.width j % 2 ^ o.ty.width, .nan, false⟩) s
/-- VCVTS (R224). -/
def execVcvts (o : VOp) (s : State) : Out :=
  convert o (fun t ts j => convElem o.ty ts t.vrtz (t.scaleExp o (j / 32)) (elem (t.vreg o.va) ts.width j)) s
/-- VUNPK4 (R224, R62). -/
def execVunpk4 (o : VOp) (s : State) : Out :=
  convert o (fun t ts j => ⟨wrapTy o.ty (intOf ts (elem (t.vreg o.va) 4 j)), .nan, false⟩) s

/-! ### Masks (R225) -/

/-- Bits 0 to VL - 1 of a mask replaced. -/
def maskWrite (t : Timed) (o : VOp) (x : MReg) : Timed :=
  let low : MReg := BitVec.ofNat 1024 (2 ^ t.vl - 1)
  t.pend 2 (.mask (o.vd.setWidth 4) ((t.mreg (o.vd.setWidth 4) &&& ~~~low) ||| (x &&& low)))

def maskOp (o : VOp) (f : MReg → MReg → MReg) (s : State) : Out :=
  s.timedNext fun t => maskWrite t o (f (t.mreg (o.va.setWidth 4)) (t.mreg (o.vb.setWidth 4)))

/-- MAND (R225). -/
def execMand (o : VOp) (s : State) : Out := maskOp o (fun a b => a &&& b) s
/-- MOR (R225). -/
def execMor (o : VOp) (s : State) : Out := maskOp o (fun a b => a ||| b) s
/-- MXOR (R225). -/
def execMxor (o : VOp) (s : State) : Out := maskOp o (fun a b => a ^^^ b) s
/-- MNOT (R225). -/
def execMnot (o : VOp) (s : State) : Out := maskOp o (fun a _ => ~~~a) s
/-- MPOPC (R225). -/
def execMpopc (o : VOp) (s : State) : Out :=
  s.timedNext fun t => t.pendS 2 o.sd (BitVec.ofNat 64 (popcount (t.mreg (o.va.setWidth 4)).toNat t.vl))

/-! ### Elements and block statistics (R226-R229) -/

/-- The vector index trap (R229): its detail is the low 32 bits of sb. -/
def indexTrap (t : Timed) (o : VOp) (limit : Nat) : Option Trap :=
  if o.sbf ∧ limit ≤ (t.scalarB o).toNat then trap 0x10 ((t.scalarB o).setWidth 32 |>.setWidth 64) else none

/-- The element index of VEXT and VINS. -/
def elemIdx (t : Timed) (o : VOp) : Nat := if o.sbf then (t.scalarB o).toNat else o.imm.toNat

/-- VEXT (R226). -/
def execVext (o : VOp) (s : State) : Out :=
  s.trapOr 4 (indexTrap s.timed o o.ty.count) fun t =>
    let x := elem (t.vreg o.va) o.ty.width (elemIdx t o)
    t.pendS 2 o.sd (if o.ty.isInt && o.ty.isSigned then sextW o.ty.width x else zext x)
/-- VINS (R226). -/
def execVins (o : VOp) (s : State) : Out :=
  s.trapOr 4 (indexTrap s.timed o o.ty.count) fun t =>
    t.pend 2 (.vector o.vd (setElem (t.vreg o.vd) o.ty.width (elemIdx t o) (t.sreg (o.va.setWidth 6)).toNat))
/-- BSTRD (R227). -/
def execBstrd (o : VOp) (s : State) : Out :=
  s.trapOr 4 (indexTrap s.timed o 128) fun t => t.pendS 2 o.sd ((t.bst (elemIdx t o)).setWidth 64)
/-- BSTCLR (R227). -/
def execBstclr (o : VOp) (s : State) : Out :=
  s.timedNext fun t => t.pend 2 (.bstClear (bits o.imm.toNat 6 0) (bits o.imm.toNat 13 7 + 1))

/-- T of R71 by tcode (R228). -/
def scaleTop (c : Nat) : Int := if c = 0 then 8 else if c = 1 then 6 else if c = 2 then 14 else 127

/-- SCSEL (R228). -/
def execScsel (o : VOp) (s : State) : Out :=
  s.trapOr 4 (indexTrap s.timed o 128) fun t =>
    let blk := if o.sbf then (t.scalarB o).toNat else bits o.imm.toNat 10 4
    t.pendS 2 o.sd (scaleWord (scaleSelect (t.bst blk) (scaleTop (bits o.imm.toNat 1 0)) (bits o.imm.toNat 3 2)
      (bits (t.sreg (o.va.setWidth 6)).toNat 15 0)))

end Sys2Proof.Machine
end

