-- ==== Sys2Proof/Machine/Reads.lean ====
section
/-!
DEFINITION. What each instruction reads of the timed domain, for the consumption of an uncorrectable error (R397): a
destination that keeps a part of its old value is read too (log entry 16, DEDUCED).
-/

namespace Sys2Proof.Machine

/-- A scalar register as a place. -/
def rdS (r : BitVec 6) : MarkSite := .scalar r.toNat
/-- A vector register as a place. -/
def rdV (r : BitVec 8) : MarkSite := .vector r.toNat
/-- An accumulator row as a place. -/
def rdRow (r : BitVec 12) : MarkSite := .accRow r.toNat

/-- `g` masks from `m` on. -/
def rdM (m : BitVec 4) (g : Nat) : List MarkSite := (List.range g).map fun j => .mask (m + BitVec.ofNat 4 j).toNat

/-- `n` bytes of the scratchpad. -/
def rdBytes (a n : Nat) : List MarkSite := (List.range n).map fun k => .scratch (a + k)

/-- `n` logical bytes of a window. -/
def rdWin (t : Timed) (w : BitVec 5) (l n : Nat) : List MarkSite := match t.win w with
  | none => []
  | some x => (List.range n).map fun i => .scratch (x.byteAddr (l + i))

/-- The chunks of a vector move. -/
def rdChunks (t : Timed) (i : Instr) : List MarkSite := (chunksOf t (some i)).flatMap fun a => rdBytes (a / 64 * 64) 64

/-- The masks that enable the elements of a masked instruction. -/
def rdMask (o : VOp) : List MarkSite := if o.msk then rdM o.ma (32 / o.ty.width) else []

/-- The destination, where not every element of it is written. -/
def rdOld (t : Timed) (o : VOp) : List MarkSite := if o.msk || decide (t.vl < 1024) then [rdV o.vd] else []

/-- Operand b. -/
def rdB (o : VOp) : List MarkSite := if o.sbf then [rdS (o.vb.setWidth 6)] else [rdV o.vb]

/-- The scalar that stands for operand b, if one does. -/
def rdSb (o : VOp) : List MarkSite := if o.sbf then [rdS (o.vb.setWidth 6)] else []

/-- Two operands and a result. -/
def rdBin (t : Timed) (o : VOp) : List MarkSite := [rdV o.va] ++ rdB o ++ rdMask o ++ rdOld t o
/-- One operand and a result. -/
def rdUn (t : Timed) (o : VOp) : List MarkSite := [rdV o.va] ++ rdMask o ++ rdOld t o
/-- Three operands and a result. -/
def rdTri (t : Timed) (o : VOp) : List MarkSite := [rdV o.va] ++ rdB o ++ [rdV o.vc] ++ rdMask o ++ rdOld t o
/-- A compare: its destination is a group of masks. -/
def rdCmp (t : Timed) (o : VOp) : List MarkSite :=
  [rdV o.va] ++ rdB o ++ rdMask o ++
    if o.msk || decide (t.vl < 1024) then rdM (o.vd.setWidth 4) (32 / o.ty.width) else []
/-- A conversion: a narrower destination takes one part of its register. -/
def rdCvt (t : Timed) (o : VOp) : List MarkSite :=
  [rdV o.va] ++ rdMask o ++
    if o.msk || decide (t.vl < 1024) || (o.ts?.any fun s => decide (o.ty.width < s.width)) then [rdV o.vd] else []
/-- A logic operation on masks. -/
def rdMaskOp (t : Timed) (o : VOp) (two : Bool) : List MarkSite :=
  rdM (o.va.setWidth 4) 1 ++ (if two then rdM (o.vb.setWidth 4) 1 else []) ++
    if t.vl < 1024 then rdM (o.vd.setWidth 4) 1 else []

/-- The vector registers of a push (R322). -/
def rdPush (s : State) (o : CfOp) (key : Bool) : List MarkSite := match s.slotOf (lpSlot o) with
  | none => [rdS o.sa]
  | some x =>
    [rdS o.sa] ++ (if key then [rdV (lpVk o)] else []) ++
      (List.range (pushRegs (if key then (s.timed.sreg o.sa).toNat else 1) x.width)).map fun k =>
        rdV (lpVv o + BitVec.ofNat 8 k)

/-- A sync-word command with operand bytes in its window. -/
def rdOperand (t : Timed) (o : CfOp) : List MarkSite :=
  [rdS o.sa, rdS o.sb] ++ rdWin t (cfW o) (t.sreg o.sb).toNat 16

/-- A command with a control block at sa. -/
def rdBlock (t : Timed) (o : CfOp) : List MarkSite := [rdS o.sa] ++ rdBytes (t.sreg o.sa).toNat 64

/-- What a branch-slot instruction reads. -/
def readsBranch : Instr → List MarkSite
  | .beqz a _ | .bnez a _ | .bltz a _ | .bgez a _ | .jmpr a | .callr a | .rspush a => [rdS a]
  | .bmt m _ | .bmf m _ => rdM m 1
  | .loop a p => (List.range (p.toNat + 1)).map fun j => rdS (a + BitVec.ofNat 6 j)
  | _ => []

/-- What a scalar-slot instruction reads. -/
def readsScalar (t : Timed) : Instr → List MarkSite
  | .add _ a b | .sub _ a b | .and _ a b | .or _ a b | .xor _ a b | .shl _ a b | .shr _ a b | .asr _ a b
  | .cmpltI64 _ a b | .cmpltN64 _ a b | .cmpeq _ a b | .minI64 _ a b | .maxI64 _ a b | .minN64 _ a b | .maxN64 _ a b
  | .mul _ a b | .mulhI64 _ a b | .mulhN64 _ a b | .divI64 _ a b | .divN64 _ a b | .remI64 _ a b | .remN64 _ a b
  | .capadd _ a b | .faddF32 _ a b | .fsubF32 _ a b | .fmulF32 _ a b | .fminF32 _ a b | .fmaxF32 _ a b
  | .fcmpltF32 _ a b | .fcmpeqF32 _ a b => [rdS a, rdS b]
  | .fmaF32 d a b => [rdS a, rdS b, rdS d]
  | .addi _ a _ | .andi _ a _ | .ori _ a _ | .xori _ a _ | .shli _ a _ | .shri _ a _ | .asri _ a _ | .cmplti _ a _
  | .capaddi _ a _ | .capmk _ a _ | .capseg _ a | .capoff _ a | .cvtF32I64 _ a | .cvtI64F32 _ a | .mtsr a _
  | .shape _ a _ => [rdS a]
  | .puth d _ _ => [rdS d]
  | .ldsN8 _ a i | .ldsI8 _ a i => [rdS a] ++ rdBytes (spAddr t a i) 1
  | .ldsN16 _ a i | .ldsI16 _ a i => [rdS a] ++ rdBytes (spAddr t a i) 2
  | .ldsN32 _ a i | .ldsI32 _ a i => [rdS a] ++ rdBytes (spAddr t a i) 4
  | .ldsI64 _ a i => [rdS a] ++ rdBytes (spAddr t a i) 8
  | .stsN8 b a _ | .stsN16 b a _ | .stsN32 b a _ | .stsN64 b a _ => [rdS a, rdS b]
  | _ => []

/-- What an instruction of vector slot A reads. -/
def readsVectorA (t : Timed) : Instr → List MarkSite
  | .vadd o | .vsub o | .vmul o | .vmulh o | .vadds o | .vsubs o | .vmin o | .vmax o | .vand o | .vor o | .vxor o
  | .vandn o => rdBin t o
  | .vabs o | .vneg o | .vmov o => rdUn t o
  | .vfma o | .vfms o | .vfnma o | .vscale o => rdTri t o
  | .vmac o => [rdV o.va, rdV o.vd] ++ rdB o ++ rdMask o
  | .vrsum o | .vrmin o | .vrmax o | .vrand o | .vror o => [rdV o.va] ++ rdMask o
  | .vbcast o => (if o.sbf then rdSb o else [rdV o.va]) ++ rdMask o ++ rdOld t o
  | .viota o | .vmovi o => rdSb o ++ rdMask o ++ rdOld t o
  | _ => []

/-- What an instruction of vector slot B reads. -/
def readsVectorB (t : Timed) : Instr → List MarkSite
  | .vcmpeq o | .vcmpne o | .vcmplt o | .vcmple o => rdCmp t o
  | .vsel o => [rdV o.va] ++ rdB o ++ rdM o.ma (32 / o.ty.width) ++ rdOld t o
  | .vshl o | .vshr o | .vasr o => [rdV o.va] ++ (if o.immf then [] else rdB o) ++ rdMask o ++ rdOld t o
  | .vfshl o | .vfshr o => [rdV o.va] ++ rdB o ++ (if o.immf then [] else [rdV o.vc]) ++ rdMask o ++ rdOld t o
  | .vlut3 o => rdTri t o
  | .vpopc o => rdUn t o
  | .vperm o => rdBin t o
  | .vrot o => [rdV o.va] ++ rdSb o ++ rdMask o ++ rdOld t o
  | .vzip o | .vunzip o => [rdV o.va, rdV o.vb]
  | .vcvt o | .vcvtw o | .vunpk4 o => rdCvt t o
  | .vcvts o => rdCvt t o ++ rdB o
  | .mand o | .mor o | .mxor o => rdMaskOp t o true
  | .mnot o => rdMaskOp t o false
  | .mpopc o => rdM (o.va.setWidth 4) 1
  | .vext o => [rdV o.va] ++ rdSb o
  | .vins o => [rdS (o.va.setWidth 6), rdV o.vd] ++ rdSb o
  | .bstrd o => rdSb o
  | .scsel o => [rdS (o.va.setWidth 6)] ++ rdSb o
  | _ => []

/-- What a matrix- or transpose-slot instruction reads. A push reads its row when it lands (R239). -/
def readsMatrix : Instr → List MarkSite
  | .mcen a => rdM a 1
  | .mwsh v _ => [rdV v, .array]
  | .mpusha v _ row => [rdV v, .array, rdRow row]
  | .mpushw v _ _ => [rdV v, .array]
  | .mdrain row => [rdRow row, .array]
  | .maccrd v _ row => [rdRow row, rdV v]
  | .maccwr v _ _ => [rdV v]
  | .apxwr a _ => [rdS a]
  | .xposeN32 _ a _ | .xposeN16 _ a _ | .xposeN8 _ a _ | .xposeb _ a _ => [rdV a]
  | _ => []

/-- What a copy-slot instruction reads at its issue. -/
def readsCopy (s : State) : Instr → List MarkSite
  | .tld o | .tst o | .tldm o | .tldbp o | .pref o | .strem o | .stremo o | .wfill o => [rdS o.sa]
  | .wdecl o => [rdS o.sa]
  | .dset o => [rdS o.sa] ++ rdBytes (s.timed.sreg o.sa).toNat 128
  | .vld o => [rdS o.sa] ++ rdChunks s.timed (.vld o) ++ if s.timed.vl < 1024 then [rdV o.v] else []
  | .vldb o => [rdS o.sa] ++ rdChunks s.timed (.vldb o) ++ if s.timed.vl < 1024 then [rdV o.v] else []
  | .vst o => [rdS o.sa, rdV o.v]
  | .vstm o => [rdS o.sa, rdV o.v] ++ rdM (o.ext.setWidth 4) 1
  | .phreg o | .phdrop o | .pharr o | .phwait o | .pharm o | .phrd o | .swld o => [rdS o.sa, rdS o.sb]
  | .swst o | .aadd o | .amin o | .amax o | .aand o | .aor o | .axor o | .axchg o | .acas o | .afaddF32 o =>
    rdOperand s.timed o
  | .gbag o | .gbagw o | .grows o | .gpref o => rdBlock s.timed o
  | .gstat o | .gcntrd o | .gskrd o | .lopen o | .lquery o => [rdS o.sa, rdS o.sb]
  | .gcntclr o | .lapply o | .lstep o | .lstat o | .lspill o => [rdS o.sa]
  | .lpush o => rdPush s o true
  | .lpushs o => rdPush s o false
  | .xsend o => [rdS o.sa, rdS o.sb]
  | .xa2a o | .xbkt o | .xpool o => rdBlock s.timed o
  | .pcnt o => [rdS o.sb]
  | .xstat o | .tstat o | .tlog o => [rdS o.sa, rdS o.sb]
  | .tbarr o => [rdS o.sa]
  | .tepoch o => [rdS o.sb]
  | _ => []

/-- The kind of a place, as the detail of code 0x53 numbers it (R388). -/
def MarkSite.kind : MarkSite → Nat
  | .scalar _ => 0
  | .vector _ => 1
  | .mask _ => 2
  | .accRow _ => 3
  | .array => 4
  | .loopBuffer _ => 5
  | .scratch _ => 6

/-- The trap of a bundle that reads a marked place: the first of those it reads. -/
def markTrap (marks reads : List MarkSite) : Option Trap :=
  match reads.find? fun m => marks.contains m with
  | none => none
  | some m => trap 0x53 (BitVec.ofNat 64 m.kind)

/-- A landing result replaces what a marked place held: a register or row whole, a byte of the scratchpad that it writes. -/
def Result.covers (r : Result) (m : MarkSite) : Bool :=
  match r, m with
  | .scalar x _, .scalar k => x.toNat == k
  | .vector x _, .vector k => x.toNat == k
  | .mask x _, .mask k => x.toNat == k
  | .accRow x _, .accRow k => x.toNat == k
  | .accZero x, .accRow k => x.toNat == k
  | .scratch ps, .scratch a =>
    ps.any fun p => decide (p.stripe = a / 4096) && (p.mask.extractLsb' (8 * (a % 4096)) 8 == BitVec.allOnes 8)
  | _, _ => false

/-- A push in overwrite mode with every column enabled replaces its row. -/
def Push.covers (p : Push) (m : MarkSite) : Bool := p.ovw && p.en == BitVec.allOnes 128 && m == rdRow p.row

/-- ACCUMULATE_LANDING (R239, R242). -/
def execAccumulateLanding (s : State) : Out :=
  let c := s.core
  .next ((s.setCore (c.unmark fun m => c.timed.arr.pushes.any fun p => decide (p.remain ≤ 1) && p.covers m)).setTimed
    c.timed.accumulate)

/-- RESULT_LANDING (R128, R129). -/
def execResultLanding (s : State) : Out :=
  let c := s.core
  .next ((s.setCore (c.unmark fun m => c.timed.due.any fun p => p.res.covers m)).setTimed c.timed.landDue)

end Sys2Proof.Machine
end

