-- ==== Sys2Proof/Machine/Sync.lean ====
section
/-!
DEFINITION. The sync slot (R117, R118) and END (R115, R49, R188).
-/

namespace Sys2Proof.Machine

/-- The flags a mask names, lowest first (R117). -/
def namedFlags (mask : BitVec 32) : List (BitVec 5) :=
  ((List.range 32).filter fun i => mask.getLsbD i).map fun i => BitVec.ofNat 5 i

/-- The flag-error trap (R117): its detail is the lowest-numbered named flag in ERROR. -/
def flagTrap (t : Timed) (mask : BitVec 32) : Option Trap :=
  match (namedFlags mask).find? fun f => t.flag f == .error with
  | some f => trap 0x07 (f.setWidth 64)
  | none => none

def allSetFlags (t : Timed) (mask : BitVec 32) : Bool := (namedFlags mask).all fun f => t.flag f == .set
def anySetFlag (t : Timed) (mask : BitVec 32) : Bool := (namedFlags mask).any fun f => t.flag f == .set

/-- Every named flag becomes CLEAR, ERROR included, and what a failure recorded for it goes with it. -/
def Core.clearFlags (c : Core) : List (BitVec 5) → Core
  | [] => c
  | f :: l =>
    Core.clearFlags { c with timed := c.timed.setFlag f .clear, fails := c.fails.set f.toNat none f.isLt } l

/-- Whether a sync slot passes in this cycle (R117). -/
def syncPasses (t : Timed) : Option Instr → Bool
  | some (.wait m) => allSetFlags t m
  | some (.waitC m) => allSetFlags t m
  | some (.waitAny m) => anySetFlag t m
  | _ => true

/-- The trap a sync slot raises (R117). -/
def syncTrap (t : Timed) : Option Instr → Option Trap
  | some (.wait m) => flagTrap t m
  | some (.waitC m) => flagTrap t m
  | some (.waitAny m) => flagTrap t m
  | _ => none

/-- The flags that a passage has set and no wait has yet observed: the first wait that sees one SET is the acquire of
R102. Each carries the phaser's scope. -/
def Core.observe (c : Core) (mask : BitVec 32) : Core × List (BitVec 3) :=
  let seen := c.acquires.filter fun x => mask.getLsbD x.1.toNat && c.timed.flag x.1 == .set
  ({ c with acquires := c.acquires.filter fun x => !(mask.getLsbD x.1.toNat && c.timed.flag x.1 == .set) },
   seen.map (·.2))

/-- The acquire of a passage: a fence ahead of every copy-slot command of this bundle or later (R102). It stands in
the program order of the core and takes no queue entry. -/
def State.acquireFences (s : State) : List (BitVec 3) → State
  | [] => s
  | sc :: l =>
    let c := { newCmd s.timed s.un .none (.fence 0xFFFF sc 2) 0 0 0 none none 0 with batch := none }
    State.acquireFences (s.setUn (s.un.push c false)) l

/-- A wait that passes (R117, R102). -/
def passWait (mask : BitVec 32) (s : State) : State :=
  let x := s.core.observe mask
  (s.setCore x.1).acquireFences x.2

/-- A wait that has not passed holds its bundle (R117, R130): nothing changes. -/
def execWait (mask : BitVec 32) (s : State) : Out :=
  match flagTrap s.timed mask with
  | some k => .next (s.takeTrap 0 k)
  | none => if allSetFlags s.timed mask then .next (passWait mask s) else .next s
/-- WAITANY (R117). -/
def execWaitAny (mask : BitVec 32) (s : State) : Out :=
  match flagTrap s.timed mask with
  | some k => .next (s.takeTrap 0 k)
  | none => if anySetFlag s.timed mask then .next (passWait mask s) else .next s
/-- FCLR (R117): at once, ERROR included. -/
def execFclr (mask : BitVec 32) (s : State) : Out := .next (s.setCore (s.core.clearFlags (namedFlags mask)))
/-- WAITC (R117). -/
def execWaitC (mask : BitVec 32) (s : State) : Out :=
  match flagTrap s.timed mask with
  | some k => .next (s.takeTrap 0 k)
  | none =>
    if allSetFlags s.timed mask then
      let s1 := passWait mask s
      .next (s1.setCore (s1.core.clearFlags (namedFlags mask)))
    else .next s

/-- END (R115): fetch ends, a pending transfer and an active nest are dropped (R134, R137), an eviction chosen for the
task is withdrawn, and a host's EVICT answered 3 (R55), the open batch closes without a flag (R188) and the task enters DRAINING (R49). -/
def execEndTask (s : State) : Out :=
  let c := s.core
  match c.task with
  | none => .next s
  | some k =>
    let t := c.timed
    let t1 := { t with seq := { t.seq with bdelay := 0, loop := .idle } }
    let k1 := { k with phase := .draining, endPc := t.seq.pc, evict := none }
    .next ((s.setCore { c with timed := t1, un := c.un.closeFlagless, task := some k1 }).evictEnds s.focus.val 3)

end Sys2Proof.Machine
end

