-- ==== Sys2Proof/Machine/Transpose.lean ====
section
/-!
DEFINITION. The transpose slot (R230, R231).
-/

namespace Sys2Proof.Machine

/-- The number of the element that element `n` of a transposed register comes from: 32 × 32 blocks, each turned, the
block number XORed with the selector (R230). -/
def xposeFrom (blk n : Nat) : Nat := 1024 * (n / 1024 ^^^ blk) + 32 * (n % 32) + n % 1024 / 32

/-- A transposed register of `w`-bit elements, element by element from element 0. -/
def xposeReg (w blk : Nat) (v : VReg) : VReg :=
  updElems w (fun _ => true) (fun n => elem v w (xposeFrom blk n)) 0 (32768 / w)

/-- A transpose lands at +8 (R128). -/
def execXpose (w : Nat) (d a : BitVec 8) (k : BitVec 4) (s : State) : Out :=
  s.timedNext fun t => t.pend 8 (.vector d (xposeReg w k.toNat (t.vreg a)))

/-- XPOSE.n32 (R230). -/
def execXposeN32 (d a : BitVec 8) (k : BitVec 4) (s : State) : Out := execXpose 32 d a k s
/-- XPOSE.n16 (R230). -/
def execXposeN16 (d a : BitVec 8) (k : BitVec 4) (s : State) : Out := execXpose 16 d a k s
/-- XPOSE.n8 (R230). -/
def execXposeN8 (d a : BitVec 8) (k : BitVec 4) (s : State) : Out := execXpose 8 d a k s
/-- XPOSEB (R230): single bits, bit c of lane 32 k + r. -/
def execXposeb (d a : BitVec 8) (k : BitVec 4) (s : State) : Out := execXpose 1 d a k s

end Sys2Proof.Machine
end

