-- ==== Sys2Proof/Machine/Slots.lean ====
section
/-!
DEFINITION. The meaning of what each slot of a bundle holds, as the sequencer calls it (R113-R127). Anything that is no
instruction of the slot changes nothing: a decoded bundle holds none (R116).
-/

namespace Sys2Proof.Machine

/-- An instruction of the sync slot. -/
def slotSync (i : Instr) (s : State) : Out :=
  match i with
  | .wait mask => execWait mask s
  | .waitAny mask => execWaitAny mask s
  | .fclr mask => execFclr mask s
  | .waitC mask => execWaitC mask s
  | _ => .next s

/-- An instruction of the branch slot. -/
def slotBranch (i : Instr) (s : State) : Out :=
  match i with
  | .jmp t => execJmp t s
  | .beqz a t => execBeqz a t s
  | .bnez a t => execBnez a t s
  | .bltz a t => execBltz a t s
  | .bgez a t => execBgez a t s
  | .jmpr a => execJmpr a s
  | .bmt m t => execBmt m t s
  | .bmf m t => execBmf m t s
  | .call t => execCall t s
  | .callr a => execCallr a s
  | .ret => execRet s
  | .rspush a => execRspush a s
  | .rspop d => execRspop d s
  | .loop a p => execLoop a p s
  | .trapi i => execTrapi i s
  | .abort i => execAbort i s
  | .idle i => execIdle i s
  | .mark i => execMark i s
  | _ => .next s

/-- An instruction of a scalar slot. -/
def slotScalar (i : Instr) (s : State) : Out :=
  match i with
  | .add d a b => execAdd d a b s
  | .sub d a b => execSub d a b s
  | .and d a b => execAnd d a b s
  | .or d a b => execOr d a b s
  | .xor d a b => execXor d a b s
  | .shl d a b => execShl d a b s
  | .shr d a b => execShr d a b s
  | .asr d a b => execAsr d a b s
  | .cmpltI64 d a b => execCmpltI64 d a b s
  | .cmpltN64 d a b => execCmpltN64 d a b s
  | .cmpeq d a b => execCmpeq d a b s
  | .minI64 d a b => execMinI64 d a b s
  | .maxI64 d a b => execMaxI64 d a b s
  | .minN64 d a b => execMinN64 d a b s
  | .maxN64 d a b => execMaxN64 d a b s
  | .addi d a i => execAddi d a i s
  | .andi d a i => execAndi d a i s
  | .ori d a i => execOri d a i s
  | .xori d a i => execXori d a i s
  | .shli d a i => execShli d a i s
  | .shri d a i => execShri d a i s
  | .asri d a i => execAsri d a i s
  | .cmplti d a i => execCmplti d a i s
  | .seth d q i => execSeth d q i s
  | .puth d q i => execPuth d q i s
  | .mul d a b => execMul d a b s
  | .mulhI64 d a b => execMulhI64 d a b s
  | .mulhN64 d a b => execMulhN64 d a b s
  | .divI64 d a b => execDivI64 d a b s
  | .divN64 d a b => execDivN64 d a b s
  | .remI64 d a b => execRemI64 d a b s
  | .remN64 d a b => execRemN64 d a b s
  | .capadd d a b => execCapadd d a b s
  | .capaddi d a i => execCapaddi d a i s
  | .capmk d a k => execCapmk d a k s
  | .capseg d a => execCapseg d a s
  | .capoff d a => execCapoff d a s
  | .faddF32 d a b => execFaddF32 d a b s
  | .fsubF32 d a b => execFsubF32 d a b s
  | .fmulF32 d a b => execFmulF32 d a b s
  | .fmaF32 d a b => execFmaF32 d a b s
  | .fminF32 d a b => execFminF32 d a b s
  | .fmaxF32 d a b => execFmaxF32 d a b s
  | .fcmpltF32 d a b => execFcmpltF32 d a b s
  | .fcmpeqF32 d a b => execFcmpeqF32 d a b s
  | .cvtF32I64 d a => execCvtF32I64 d a s
  | .cvtI64F32 d a => execCvtI64F32 d a s
  | .ldsN8 d a i => execLdsN8 d a i s
  | .ldsI8 d a i => execLdsI8 d a i s
  | .ldsN16 d a i => execLdsN16 d a i s
  | .ldsI16 d a i => execLdsI16 d a i s
  | .ldsN32 d a i => execLdsN32 d a i s
  | .ldsI32 d a i => execLdsI32 d a i s
  | .ldsI64 d a i => execLdsI64 d a i s
  | .stsN8 b a i => execStsN8 b a i s
  | .stsN16 b a i => execStsN16 b a i s
  | .stsN32 b a i => execStsN32 b a i s
  | .stsN64 b a i => execStsN64 b a i s
  | .mfsr d r => execMfsr d r s
  | .mtsr a r => execMtsr a r s
  | .shape d a w => execShape d a w s
  | _ => .next s

/-- An instruction of vector slot A. -/
def slotVectorA (i : Instr) (s : State) : Out :=
  match i with
  | .vadd o => execVadd o s
  | .vsub o => execVsub o s
  | .vmul o => execVmul o s
  | .vmulh o => execVmulh o s
  | .vadds o => execVadds o s
  | .vsubs o => execVsubs o s
  | .vmin o => execVmin o s
  | .vmax o => execVmax o s
  | .vabs o => execVabs o s
  | .vneg o => execVneg o s
  | .vand o => execVand o s
  | .vor o => execVor o s
  | .vxor o => execVxor o s
  | .vandn o => execVandn o s
  | .vfma o => execVfma o s
  | .vfms o => execVfms o s
  | .vfnma o => execVfnma o s
  | .vmac o => execVmac o s
  | .vrsum o => execVrsum o s
  | .vrmin o => execVrmin o s
  | .vrmax o => execVrmax o s
  | .vrand o => execVrand o s
  | .vror o => execVror o s
  | .vscale o => execVscale o s
  | .vbcast o => execVbcast o s
  | .vmov o => execVmov o s
  | .viota o => execViota o s
  | .vmovi o => execVmovi o s
  | _ => .next s

/-- An instruction of vector slot B. -/
def slotVectorB (i : Instr) (s : State) : Out :=
  match i with
  | .vcmpeq o => execVcmpeq o s
  | .vcmpne o => execVcmpne o s
  | .vcmplt o => execVcmplt o s
  | .vcmple o => execVcmple o s
  | .vsel o => execVsel o s
  | .vshl o => execVshl o s
  | .vshr o => execVshr o s
  | .vasr o => execVasr o s
  | .vfshl o => execVfshl o s
  | .vfshr o => execVfshr o s
  | .vlut3 o => execVlut3 o s
  | .vpopc o => execVpopc o s
  | .vperm o => execVperm o s
  | .vrot o => execVrot o s
  | .vzip o => execVzip o s
  | .vunzip o => execVunzip o s
  | .vcvt o => execVcvt o s
  | .vcvtw o => execVcvtw o s
  | .vcvts o => execVcvts o s
  | .vunpk4 o => execVunpk4 o s
  | .mand o => execMand o s
  | .mor o => execMor o s
  | .mxor o => execMxor o s
  | .mnot o => execMnot o s
  | .mpopc o => execMpopc o s
  | .vext o => execVext o s
  | .vins o => execVins o s
  | .bstrd o => execBstrd o s
  | .bstclr o => execBstclr o s
  | .scsel o => execScsel o s
  | _ => .next s

/-- An instruction of the matrix or the transpose slot. -/
def slotArray (i : Instr) (s : State) : Out :=
  match i with
  | .mmode m t dir => execMmode m t dir s
  | .mcen a => execMcen a s
  | .mwsh v sr => execMwsh v sr s
  | .mpusha v sr row => execMpusha v sr row s
  | .mpushw v sr row => execMpushw v sr row s
  | .mdrain row => execMdrain row s
  | .maccrd v sr row => execMaccrd v sr row s
  | .maccwr v sr row => execMaccwr v sr row s
  | .maccz row => execMaccz row s
  | .maccov d row => execMaccov d row s
  | .apxrst => execApxrst s
  | .apxwr a sel => execApxwr a sel s
  | .apxrd d sel => execApxrd d sel s
  | .mwclr => execMwclr s
  | .xposeN32 d a k => execXposeN32 d a k s
  | .xposeN16 d a k => execXposeN16 d a k s
  | .xposeN8 d a k => execXposeN8 d a k s
  | .xposeb d a k => execXposeb d a k s
  | _ => .next s

/-- An instruction of the copy slot. -/
def slotCopy (i : Instr) (s : State) : Out :=
  match i with
  | .tld o => execTld o s
  | .tst o => execTst o s
  | .tldm o => execTldm o s
  | .tldbp o => execTldbp o s
  | .pref o => execPref o s
  | .strem o => execStrem o s
  | .stremo o => execStremo o s
  | .wcopy o => execWcopy o s
  | .wfill o => execWfill o s
  | .wdecl o => execWdecl o s
  | .wfree o => execWfree o s
  | .dset o => execDset o s
  | .fence mask scope kind => execFence mask scope kind s
  | .bclose f => execBclose f s
  | .bwait n => execBwait n s
  | .vld o => execVld o s
  | .vst o => execVst o s
  | .vldb o => execVldb o s
  | .vstm o => execVstm o s
  | .phreg o => execPhreg o s
  | .phdrop o => execPhdrop o s
  | .pharr o => execPharr o s
  | .phwait o => execPhwait o s
  | .pharm o => execPharm o s
  | .phrd o => execPhrd o s
  | .swld o => execSwld o s
  | .swst o => execSwst o s
  | .aadd o => execAadd o s
  | .amin o => execAmin o s
  | .amax o => execAmax o s
  | .aand o => execAand o s
  | .aor o => execAor o s
  | .axor o => execAxor o s
  | .axchg o => execAxchg o s
  | .acas o => execAcas o s
  | .afaddF32 o => execAfaddF32 o s
  | .gbag o => execGbag o s
  | .gbagw o => execGbagw o s
  | .grows o => execGrows o s
  | .gpref o => execGpref o s
  | .gstat o => execGstat o s
  | .gcntrd o => execGcntrd o s
  | .gcntclr o => execGcntclr o s
  | .gskrd o => execGskrd o s
  | .lopen o => execLopen o s
  | .lpush o => execLpush o s
  | .lpushs o => execLpushs o s
  | .lclose o => execLclose o s
  | .labort o => execLabort o s
  | .lapply o => execLapply o s
  | .lstep o => execLstep o s
  | .lquery o => execLquery o s
  | .lstat o => execLstat o s
  | .lspill o => execLspill o s
  | .xsend o => execXsend o s
  | .xa2a o => execXa2a o s
  | .xbkt o => execXbkt o s
  | .xpool o => execXpool o s
  | .pcnt o => execPcnt o s
  | .pwait o => execPwait o s
  | .xstat o => execXstat o s
  | .xcan o => execXcan o s
  | .tbarr o => execTbarr o s
  | .tstat o => execTstat o s
  | .tepoch o => execTepoch o s
  | .tlog o => execTlog o s
  | _ => .next s

end Sys2Proof.Machine
end

