-- ==== Sys2Proof/Machine/Issue.lean ====
section
/-!
DEFINITION. The head of issue (R130, R131, R138, R164): which trap a bundle raises, what holds it, and its issue; and the
walk for a command's first page (R92), with REPLAY (R391).
-/

namespace Sys2Proof.Machine

/-! ### Issue-time traps of the slots (R164) -/

/-- The delay-slot and loop-control traps of a branch slot (R134, R137). -/
def controlTrap (t : Timed) : Instr → Option Trap
  | .jmp _ | .beqz _ _ | .bnez _ _ | .bltz _ _ | .bgez _ _ | .jmpr _ | .bmt _ _ | .bmf _ _ | .call _ | .callr _ | .ret =>
    ctlTrap t
  | .loop _ _ => loopTrap t
  | _ => none

/-- The other traps of the branch slot (R157-R159, R163). -/
def branchTrap (t : Timed) : Instr → Option Trap
  | .bmt m _ | .bmf m _ => mixedTrap t m
  | .call _ | .callr _ | .rspush _ => pushTrap t
  | .ret | .rspop _ => popTrap t
  | .trapi i => trap 0x0D (i.setWidth 64)
  | .abort i => trap 0x0E (i.setWidth 64)
  | _ => none

/-- The traps of a scalar slot (R151). -/
def scalarTrap (t : Timed) : Instr → Option Trap
  | .ldsN8 _ a i | .ldsI8 _ a i | .stsN8 _ a i => spTrap t a i 1
  | .ldsN16 _ a i | .ldsI16 _ a i | .stsN16 _ a i => spTrap t a i 2
  | .ldsN32 _ a i | .ldsI32 _ a i | .stsN32 _ a i => spTrap t a i 4
  | .ldsI64 _ a i | .stsN64 _ a i => spTrap t a i 8
  | _ => none

/-- The traps of vector slot B (R229). -/
def vectorTrap (t : Timed) : Instr → Option Trap
  | .vext o | .vins o => indexTrap t o o.ty.count
  | .bstrd o | .scsel o => indexTrap t o 128
  | _ => none

/-- The traps of the copy slot (R195, R267, R295, R319, R364, R384). -/
def copyTrap (s : State) : Instr → Option Trap
  | .tld o => tileTrap s o true .rd false none
  | .tst o => tileTrap s o true .wr false none
  | .tldm o => tileTrap s o (tldmSelf s o) .rd false none
  | .tldbp o => tileTrap s o true .rd false (some (bpK o.ext, bpStride o.ext))
  | .strem o | .stremo o => tileTrap s o true .wr true none
  | .wcopy o => wcopyTrap s.timed o
  | .wfill o => wfillTrap s.timed o
  | .wdecl o => wdeclTrap s.timed o
  | .dset o => dsetTrap s.timed o
  | .vld o | .vst o | .vstm o => moveTrap s.timed o
  | .vldb o => bcastTrap s.timed o
  | .phreg o => vxTrap s.timed o true false 16
  | .phdrop o | .pharr o | .phwait o => phTrap s.timed o
  | .pharm o => pharmTrap s.timed s.un o
  | .phrd o => vxTrap s.timed o true false 64
  | .swld o | .swst o | .aadd o | .amin o | .amax o | .aand o | .aor o | .axor o | .axchg o | .acas o =>
    vxTrap s.timed o false (vxWide o) 16
  | .afaddF32 o => vxTrap s.timed o false false 16
  | .gbag o | .grows o => gbagTrap s.timed o false
  | .gbagw o => gbagTrap s.timed o true
  | .gpref o => gprefTrap s.timed o
  | .gstat o | .gskrd o => gqueryTrap s.timed o rowOperandBad 16
  | .gcntrd o => gqueryTrap s.timed o counterOperandBad 64
  | .gcntclr o => if counterOperandBad (s.timed.sreg o.sa) then trap 0x43 (s.timed.sreg o.sa) else none
  | .lopen o => lopenTrap s o
  | .lpush o => lpushTrap s o (s.timed.sreg o.sa).toNat (s.timed.sreg o.sa)
  | .lpushs o => lpushTrap s o 1 (s.timed.sreg o.sa)
  | .lclose o | .labort o => lcloseTrap s o
  | .lapply o | .lstep o => lhTrap s.timed o
  | .lquery o | .lspill o => lqueryTrap s.timed o 16
  | .lstat o => lqueryTrap s.timed o 64
  | .xa2a o | .xbkt o => collectiveTrap s.timed o false
  | .xpool o => collectiveTrap s.timed o true
  | .pcnt o => xwinTrap s.timed o 64
  | .xstat o => xstatTrap s.timed o
  | .tbarr o => if 2 ^ 32 ≤ (s.timed.sreg o.sa).toNat then trap 0x4B (s.timed.sreg o.sa) else none
  | .tstat o => trustTrap s.timed o 6
  | .tlog o => trustTrap s.timed o 10
  | .tepoch o =>
    if windowFits s.timed (cfW o) (s.timed.sreg o.sb).toNat 16 then none else trap 0x4A ((cfW o).setWidth 64)
  | _ => none

/-- A trap with the slot that raises it. -/
abbrev SlotTrap := BitVec 4 × Trap

/-- A slot's own trap, and after it an uncorrectable error that it reads (R397). -/
def slotTrap (marks : List MarkSite) (n : BitVec 4) (own : Instr → Option Trap) (reads : Instr → List MarkSite) :
    Option Instr → Option SlotTrap
  | none => none
  | some i => (((own i).or (if marks.isEmpty then none else markTrap marks (reads i))).map fun k => (n, k))

/-- Item 7 of R138, in the order of R164. -/
def State.slotTraps (s : State) (b : Bundle) : Option SlotTrap :=
  let t := s.timed
  let m := s.core.marks
  (slotTrap m 0 (branchTrap t) readsBranch b.br).or <|
  (slotTrap m 1 (scalarTrap t) (readsScalar t) b.sA).or <|
  (slotTrap m 2 (scalarTrap t) (readsScalar t) b.sB).or <|
  (slotTrap m 3 (fun _ => none) (readsVectorA t) b.vA).or <|
  (slotTrap m 4 (vectorTrap t) (readsVectorB t) b.vB).or <|
  (slotTrap m 5 (fun _ => none) readsMatrix b.mx).or <|
  (slotTrap m 6 (fun _ => none) readsMatrix b.tr).or <|
  slotTrap m 7 (copyTrap s) (readsCopy s) b.cp

/-- The bundle comes from an entry of the loop buffer that holds an uncorrectable error (R397). -/
def Core.bufferTrap (c : Core) : Option Trap :=
  if c.timed.seq.loop.replays && c.marks.contains (.loopBuffer c.timed.seq.loop.pos) then trap 0x53 5 else none

/-- Items 4 to 7 of R138. Where a 65th body bundle is itself a control transfer or a LOOP, the detail is the transfer's (log entry
60, DESIGN CHOICE). -/
def State.bundleTrap (s : State) (b : Bundle) : Option SlotTrap :=
  let t := s.timed
  let first := (((b.br.bind fun i => controlTrap t i).or (bodyTrap t.seq.loop)).or (syncTrap t b.sync)).or s.core.bufferTrap
  (first.map fun k => (0, k)).or (s.slotTraps b)

/-! ### Freeze causes (R130) -/

/-- The engine whose queue a copy-slot instruction enters (R127); none for the vector moves and XCAN. -/
def engineOf : Instr → Option Engine
  | .vld _ | .vst _ | .vldb _ | .vstm _ | .xcan _ => none
  | .phreg _ | .phdrop _ | .pharr _ | .phwait _ | .pharm _ | .phrd _ | .swld _ | .swst _ | .aadd _ | .amin _ | .amax _
  | .aand _ | .aor _ | .axor _ | .axchg _ | .acas _ | .afaddF32 _ => some .vertex
  | .lopen _ | .lpush _ | .lpushs _ | .lclose _ | .labort _ | .lapply _ | .lstep _ | .lquery _ | .lstat _ | .lspill _ =>
    some .lattice
  | .xsend _ | .xa2a _ | .xbkt _ | .xpool _ | .xstat _ => some .exchange
  | .tld _ | .tst _ | .tldm _ | .tldbp _ | .pref _ | .strem _ | .stremo _ | .wcopy _ | .wfill _ | .wdecl _ | .wfree _
  | .dset _ | .fence _ _ _ | .bclose _ | .bwait _ | .gbag _ | .gbagw _ | .grows _ | .gpref _ | .gstat _ | .gcntrd _
  | .gcntclr _ | .gskrd _ | .pcnt _ | .pwait _ | .tbarr _ | .tstat _ | .tepoch _ | .tlog _ => some .copy
  | _ => none

/-- Closing the open batch would make a 17th outstanding (R186). -/
def Untimed.closesFull (u : Untimed) : Bool := u.openNonEmpty && decide (16 ≤ u.closedCount)

/-- The commands that join the open batch at their issue (R186). -/
def joinsBatch : Instr → Bool
  | .tld _ | .tst _ | .tldm _ | .tldbp _ | .pref _ | .wcopy _ | .wfill _ | .fence _ _ _ | .strem _ | .stremo _ => true
  | _ => false

/-- An END in a bundle with the copy-slot instruction `cp` would close a 17th: the open batch holds a command, or takes this one
in before END closes it (R186, R188). -/
def Untimed.endFull (u : Untimed) (cp : Option Instr) : Bool := u.closesFull || (cp.any joinsBatch && decide (16 ≤ u.closedCount))

/-- Cause 2: the queue is full, a 17th closed batch (R186), or more batches outstanding than BWAIT names (R188). That a BWAIT and
an END which would close a 17th are held as a BCLOSE is: log entry 60, DESIGN CHOICE. -/
def queueHolds (u : Untimed) (i : Instr) : Bool :=
  (match engineOf i with
    | none => false
    | some e => !u.room e) ||
  match i with
  | .bclose _ => decide (16 ≤ u.closedCount)
  | .bwait n => decide (n.toNat < u.outstanding) || u.closesFull
  | _ => false

/-- A command that translates its first page at issue (R92, R93). -/
def walksFirst : Instr → Option CaOp
  | .tld o | .tst o | .tldm o | .tldbp o | .pref o => some o
  | _ => none

/-- Cause 3: the first page of the bundle's copy command is not translated. The answer is its virtual address, its segment
and whether the access writes; none once a prefetch's walk has ended without a page. -/
def State.firstPage (s : State) (i : Instr) : Option (Nat × BitVec 6 × Bool) :=
  match walksFirst i with
  | none => none
  | some o =>
    let t := s.timed
    let c := newCmd t s.un .copy i o.cls (t.sreg o.sa) 0 (t.win o.w) none (t.descr o.d)
    if t.seq.walked then none
    else match s.nextAccess s.focus.val c with
    | .page va => some (va, capIdx c.a, isWriteTile i)
    | .finished => none
    | .piece _ => none

/-- E of the bundle (R174). -/
def bundleConflict (t : Timed) (b : Bundle) : Nat := extraCycles (chunksOf t b.sA ++ chunksOf t b.sB ++ chunksOf t b.cp)

/-- Cause 5: there is no room in the region of the push's stream, and the stream has not failed (R332); for a region of another
module a free value (log entry 45, DESIGN CHOICE). -/
def State.pushHeld (s : State) (i : Instr) : Bool :=
  let held := fun (o : CfOp) (n : Nat) => match s.slotOf (lpSlot o) with
    | none => false
    | some x =>
      let h := x.handle
      if lhMod h ≠ s.myMod.toNat then (Config.freeBits s.free).getLsbD 4094
      else decide (Store.get 0 (s.unitOf (lhUnit h)).gens (lhRegion h) = lhGen h) &&
        s.pushWaits (lhUnit h) (lhRegion h) (s.pushOf i o (min 1024 n) x) && (findNum x.uid (s.unitOf (lhUnit h)).dead).isNone
  match i with
  | .lpush o => held o (s.timed.sreg o.sa).toNat
  | .lpushs o => held o 1
  | _ => false

/-- The first freeze cause that holds, 0 when none does (R130). -/
def State.freezeCause (s : State) (b : Bundle) : Nat :=
  let t := s.timed
  if !syncPasses t b.sync then 1
  else if (b.cp.any fun i => queueHolds s.un i) || (b.fin && s.un.endFull b.cp) then 2
  else if b.cp.any fun i => (s.firstPage i).isSome then 3
  else if t.seq.conflict < bundleConflict t b then 4
  else if b.cp.any s.pushHeld then 5
  else if 0 < t.seq.idle then 6
  else 0

/-! ### The verdict on the head of issue -/

/-- What becomes of the head of issue in a cycle of the focused core: nothing while no task runs; a fault of the copy engine
is taken, or a trap; the freeze line is asserted for a cause; the bundle issues. -/
inductive Verdict where
  | idle
  | late (f : LateFault)
  | trap (slot : BitVec 4) (k : Trap)
  | hold (cause : Nat)
  | skip
  | issue (b : Bundle) (w : BundleBits)
deriving DecidableEq, Repr

/-- R138: traps in their order, then the freeze causes. A later-page fault is taken at this boundary (R92, R388). -/
def State.verdict (s : State) : Verdict :=
  let c := s.core
  match c.task with
  | none => .idle
  | some k =>
    if k.phase ≠ .running then .idle
    else match k.late with
      | some f => .late f
      | none =>
        if c.timed.seq.loop.skip then .skip
        else match c.headBits, c.head with
          | .ok w, .ok b => match s.bundleTrap b with
            | some x => .trap x.1 x.2
            | none => if s.freezeCause b = 0 then .issue b w else .hold (s.freezeCause b)
          | .error x, _ => .trap 0 x
          | _, .error x => .trap 0 x

/-! ### Issue (R114, R115) -/

/-- The issuing slot, for the results that the slot puts in flight (R168). -/
def State.inSlot (s : State) (n : SlotNo) : State :=
  s.setTimed { s.timed with seq := { s.timed.seq with issuing := n } }

/-- One slot of a bundle. -/
def runSlot (n : SlotNo) (f : Instr → State → Out) (x : Option Instr) (s : State) : Out :=
  match x with
  | none => .next s
  | some i => f i (s.inSlot n)

/-- The slots of a bundle, the sync slot first. The branch slot's effect on the sequencer shows to no other slot of its
bundle (R114). -/
def runSlots (b : Bundle) (s : State) : Out :=
  andThen (runSlot 0 slotSync b.sync s) fun s0 =>
  andThen (runSlot 0 slotBranch b.br s0) fun s1 =>
  let was := s0.timed.seq
  let new := s1.timed.seq
  andThen (runSlot 1 slotScalar b.sA (s1.setTimed { s1.timed with seq := was })) fun s2 =>
  andThen (runSlot 2 slotScalar b.sB s2) fun s3 =>
  andThen (runSlot 3 slotVectorA b.vA s3) fun s4 =>
  andThen (runSlot 4 slotVectorB b.vB s4) fun s5 =>
  andThen (runSlot 5 slotArray b.mx s5) fun s6 =>
  andThen (runSlot 6 slotArray b.tr s6) fun s7 =>
  andThen (runSlot 7 slotCopy b.cp s7) fun s8 => .next (s8.setTimed { s8.timed with seq := new })

/-- The loop buffer's marks that a bundle ends: all of them, where it begins a nest; its own entry's, where the first pass captures it. -/
def Core.freshBuffer (c : Core) (was : LoopState) (b : Bundle) : Core :=
  let nest := match b.br with
    | some (.loop _ _) => true
    | _ => false
  c.unmark fun m => match m with
    | .loopBuffer k => nest || (was.active && !was.lenKnown && k == was.pos)
    | .scalar _ | .vector _ | .mask _ | .accRow _ | .array | .scratch _ => false

/-- A bundle issues: its slots, then END (R115) or the step to the next bundle. -/
def State.issue (s : State) (b : Bundle) (w : BundleBits) : Out :=
  let was := s.timed.seq
  let next := s.core.after was.pc
  andThen (runSlots b s) fun s1 =>
    let s2 := s1.setCore (s1.core.freshBuffer was.loop b)
    let s3 := s2.setTimed { s2.timed with seq := { s2.timed.seq with conflict := 0, walked := false, issuing := 0 } }
    if b.fin then execEndTask s3
    else .next ((s3.setTimed { s3.timed with seq := s3.timed.seq.advance was next w b.lbe }).fetchAhead next)

/-- A cycle under cause 4 (R130, R174). -/
def Timed.conflictCycle (t : Timed) : Timed := { t with seq := { t.seq with conflict := t.seq.conflict + 1 } }

/-- HEAD_OF_ISSUE (R130): the bundle at the head of issue traps, is held with the freeze line asserted, or issues. -/
def execHeadOfIssue (s : State) : Out :=
  match s.verdict with
  | .idle => .next s
  | .skip => .next s
  | .late f => .next (s.takeLate s.focus.val f)
  | .trap slot k => .next (s.takeTrap slot k)
  | .hold cause => if cause = 4 then s.timedNext Timed.conflictCycle else .next (if cause = 5 then s.drew else s)
  | .issue b w => s.issue b w

/-! ### The walk for a first page (R92) -/

/-- The state as seen with its focus on core `n`. -/
def State.at (s : State) (n : Nat) : State := if h : n < 96 then { s with focus := ⟨n, h⟩ } else s

/-- The walk of the focused core for an access waits (R347). -/
def State.walkWaits (s : State) (va : Nat) (si : BitVec 6) : Bool :=
  (s.core.task.bind fun k => k.seg si).any fun e => s.walkHeld (dieOf s.focus.val) e (va - segBase e)

/-- Core `n` waits for a walk that may be made: the bundle at its head of issue is held under cause 3. -/
def State.walkDue (s : State) (n : Nat) : Option (Nat × BitVec 6 × Bool) :=
  let x := s.at n
  if n < 96 ∧ x.verdict = .hold 3 then
    match x.core.head with
    | .ok b => (b.cp.bind fun i => x.firstPage i).filter fun p => !(x.walkWaits p.1 p.2.1)
    | .error _ => none
  else none

/-- The walk for an access of the task on core `n`, and what it comes to. -/
def State.walkFor (s : State) (n va : Nat) (si : BitVec 6) (write : Bool) : Except WalkFault TlbEntry :=
  match (s.coreAt n).task.bind fun k => k.seg si with
  | none => .error .invalid
  | some e => walk s e si (va - segBase e) write

/-- The state once that walk has read its entries (R91, R333). -/
def State.walkRead (s : State) (n va : Nat) (si : BitVec 6) (write : Bool) : State :=
  match (s.coreAt n).task.bind fun k => k.seg si with
  | none => s
  | some e => s.walked e si (va - segBase e) write

/-- The copy command at the head of issue of core `n` is a prefetch. -/
def State.headPref (s : State) (n : Nat) : Bool := match (s.coreAt n).head with
  | .ok b => b.cp.any isPref
  | .error _ => false

/-- The walk for a prefetch has found no page: the bundle is free to issue, and the page is skipped (R92). -/
def Core.walkedOut (c : Core) : Core := { c with timed := { c.timed with seq := { c.timed.seq with walked := true } } }

/-! ### REPLAY (R391) -/

/-- The segment of a held access: that of the command it stopped, or of the bundle at the head of issue. -/
def State.heldSeg (s : State) (n : Nat) (h : Hold) : Option (BitVec 6) :=
  match h.cmd with
  | some q => (s.cmd? n q).map fun c => capIdx c.a
  | none =>
    let x := s.at n
    match x.core.head with
    | .ok b => (b.cp.bind walksFirst).map fun o => capIdx (x.timed.sreg o.sa)
    | .error _ => none

/-- The core leaves FAULTHOLD with its access translated: the bundle issues, or the stopped command goes on. -/
def State.releaseHold (s : State) (n : Nat) (k : Task) (h : Hold) (x : TlbEntry) : State :=
  let s1 := s.onCore n fun c => { c with
    un := c.un.cache x
    task := some { k with phase := if h.fromDraining then .draining else .running, hold := none } }
  match h.cmd with
  | none => s1
  | some q => s1.onCmd n q fun c => { c with stop := .run }

/-- The PC that the held fault records. -/
def Core.heldPc (c : Core) (k : Task) (h : Hold) : BitVec 18 := if h.fromDraining then k.endPc else c.timed.seq.pc

/-- The walker reads the entries again for a held access (R391). -/
def State.replay (s : State) (n : Nat) (k : Task) (h : Hold) : State :=
  let pc := (s.coreAt n).heldPc k h
  let si := (s.heldSeg n h).getD 0
  let s1 := s.walkRead n h.va si h.write
  match s.walkFor n h.va si h.write with
  | .ok x => s1.releaseHold n k h x
  | .error (.fatal code detail) =>
    (s1.failStopped n h.cmd h.va).fatalFault n pc code detail (h.replays + 1) (s.reachedOf n h.cmd) h.va
  | .error .invalid =>
    if h.replays < 3 then
      let h1 := { h with replays := h.replays + 1 }
      (s1.onCore n fun c => { c with task := some { k with hold := some h1 } }).logPageFault n h1
    else (s1.failStopped n h.cmd h.va).fatalFault n pc 0x52 4 4 (s.reachedOf n h.cmd) h.va

/-- The walk of a REPLAY waits (R347). -/
def State.replayHeld (s : State) (n : Nat) (h : Hold) : Bool := (s.at n).walkWaits h.va ((s.heldSeg n h).getD 0)

/-- A REPLAY of the task held on core `n` (R391): while the fault's entry waits for room the task stays in FAULTHOLD (R389), and the
REPLAY is acted on when the entry has been written (log entry 39, DEDUCED), and its walk is not held. -/
def State.askReplay (s : State) (n : Nat) (k : Task) (h : Hold) : State :=
  if s.entryWaits n || s.replayHeld n h then
    s.onCore n fun c => { c with task := some { k with hold := some { h with asked := h.asked + 1 } } }
  else s.replay n k h

/-- A REPLAY of the task on core `n` that waited, for the fault's entry or for its walk, is acted on. -/
def State.answerAsked (s : State) (n : Nat) : State :=
  match (s.coreAt n).task with
  | none => s
  | some k => match k.hold with
    | none => s
    | some h =>
      if h.asked = 0 || k.phase != .faultHold || s.entryWaits n || s.replayHeld n h then s
      else s.replay n k { h with asked := h.asked - 1 }

/-- TLB_WALK_COMPLETE (R92): the translation is cached and the freeze released; an invalid entry enters FAULTHOLD, the bundle
not issued; anything else fails the task (R388). A prefetch never faults.
In FAULTHOLD it is the walk of a REPLAY that waited. -/
def execTlbWalkComplete (core : Nat) (s : State) : Out :=
  match s.walkDue core with
  | none => .next (s.answerAsked core)
  | some (va, si, write) =>
    let s1 := s.walkRead core va si write
    match s.walkFor core va si write with
    | .ok x => .next (s1.onUn core fun u => u.cache x)
    | .error f =>
      if s.headPref core then .next (s1.onCore core Core.walkedOut)
      else match f with
        | .invalid => .next (s1.enterHold core none va write)
        | .fatal code detail => .next (s1.fatalFault core (s.coreAt core).timed.seq.pc code detail 0 0 va)

/-- REPLAY (R41, R391). -/
def execReplay (die : Nat) (id : BitVec 32) (s : State) : Out :=
  s.command die fun s =>
    let c := bits id.toNat 3 0
    let n := 12 * die + c
    if 11 < c then s.dcuRes die 2
    else match (s.coreAt n).task with
      | none => s.dcuRes die 3
      | some k => match k.hold with
        | none => s.dcuRes die 3
        | some h => if k.phase = .faultHold then (s.askReplay n k h).dcuRes die 0 else s.dcuRes die 3

end Sys2Proof.Machine
end

