-- ==== Sys2Proof/Machine/Image.lean ====
section
/-!
DEFINITION. The context image of a save slot (R56, R57, R167, R168, R178, R199, R251): the number that its fixed parts are,
byte 0 lowest, as a save writes it.
-/

namespace Sys2Proof.Machine

/-! ### Numbers made of fields -/

/-- `n` bytes at byte offset `o`. -/
structure Field where
  off : Nat
  len : Nat
  val : Nat
deriving DecidableEq, Repr

/-- The number whose bytes the fields give; every other byte 0. -/
def packFields (l : List Field) : Nat := l.foldl (fun x f => x ||| (f.val % 2 ^ (8 * f.len)) <<< (8 * f.off)) 0

/-- `n` bytes at byte offset `o` of a number. -/
def bytesOf (x o n : Nat) : Nat := x >>> (8 * o) % 2 ^ (8 * n)

/-- Fields moved up by `o` bytes. -/
def shiftFields (o : Nat) (l : List Field) : List Field := l.map fun f => { f with off := o + f.off }

/-- `n` fields of `len` bytes from `off` on. -/
def arrayFields (off len n : Nat) (f : Nat → Nat) : List Field := (List.range n).map fun i => ⟨off + len * i, len, f i⟩

/-! ### The header (R57) -/

def winMap (t : Timed) : Nat := (List.range 32).foldl (fun m i => m + if (t.win (BitVec.ofNat 5 i)).isSome then 2 ^ i else 0) 0

def headerFields (core : Nat) (c : Core) (k : Task) (why : EvictReason) : List Field :=
  [⟨0x00, 4, k.taskIdx.toNat⟩, ⟨0x04, 4, k.cardIdx.toNat⟩, ⟨0x08, 8, (cardImageId k.card).toNat⟩, ⟨0x10, 4, winMap c.timed⟩,
   ⟨0x14, 1, why.toNat⟩, ⟨0x15, 1, core⟩, ⟨0x16, 1, k.lcluster.toNat⟩, ⟨0x18, 8, k.cycles⟩]

/-! ### The control area (R167) -/

def FlagState.code : FlagState → Nat
  | .clear => 0
  | .set => 1
  | .error => 2

/-- A flag as it is saved: CLEAR while a closed batch with it is outstanding (R198), but an ERROR stays, which only the core's flag
clear leaves (R23, R24; log entry 68, DEDUCED). -/
def Core.savedFlag (c : Core) (f : BitVec 5) : FlagState :=
  if (c.un.batches.any fun b => !b.isOpen && b.flag == some f) && c.timed.flag f != .error then .clear else c.timed.flag f

def flagsWord (c : Core) : Nat :=
  (List.range 32).foldl (fun m i => m + (c.savedFlag (BitVec.ofNat 5 i)).code * 2 ^ (2 * i)) 0

/-- LOOPST: bytes 0x0A80 to 0x0AF7 of the control area, here from 0 on. POS is kept modulo 64 (log entry 60, DESIGN CHOICE: six bits
cannot hold the 64 of a body whose 65th bundle is at the head of issue). -/
def loopFields (l : LoopState) : List Field :=
  [⟨0x00, 8, l.active.toNat + 2 * l.lenKnown.toNat + 4 * l.depthM1.toNat + 2 ^ 5 * l.lenM1 + 2 ^ 11 * (l.pos % 64) +
      2 ^ 17 * l.skip.toNat⟩,
   ⟨0x08, 8, l.start.toNat % 2 ^ 17⟩, ⟨0x10, 8, l.after.toNat % 2 ^ 17⟩] ++
  (arrayFields 0x18 8 6 fun i => (l.bounds.toList.getD i 0).toNat) ++
  (arrayFields 0x48 8 6 fun i => (l.cnt.toList.getD i 0).toNat)

/-- A window's declaration (R178). -/
def winWords : Option Window → Nat
  | none => 0
  | some w => w.base.toNat + 2 ^ 23 + 2 ^ 24 * w.skew.toNat + 2 ^ 64 * (w.tr.toNat + 2 ^ 16 * w.tc.toNat + 2 ^ 32 * w.ew.toNat)

def controlFields (c : Core) : List Field :=
  let t := c.timed
  (arrayFields 0x0000 8 64 fun i => (t.sreg (BitVec.ofNat 6 i)).toNat) ++
  (arrayFields 0x0200 128 16 fun i => (t.mreg (BitVec.ofNat 4 i)).toNat) ++
  [⟨0x0A00, 8, flagsWord c⟩, ⟨0x0A08, 8, t.seq.pc.toNat % 2 ^ 17⟩, ⟨0x0A10, 8, t.seq.btarget.toNat + 2 ^ 18 * t.seq.bdelay⟩,
   ⟨0x0A18, 8, t.seq.idle⟩, ⟨0x0A20, 8, t.sp.shape.toNat⟩, ⟨0x0A28, 8, t.sp.fpctl.toNat⟩, ⟨0x0A30, 8, t.sp.fpstat.toNat⟩,
   ⟨0x0A38, 8, t.sp.tcycle.toNat⟩, ⟨0x0A40, 8, t.sp.markv.toNat⟩, ⟨0x0A48, 8, t.seq.rstack.length⟩,
   ⟨0x0A50, 8, t.sp.apxv.toNat⟩, ⟨0x0A58, 8, t.sp.apxi.toNat⟩, ⟨0x0A60, 8, t.sp.apxb.toNat⟩] ++
  shiftFields 0x0A80 (loopFields t.seq.loop) ++ [⟨0x0AF8, 8, t.seq.loop.passes⟩] ++
  (arrayFields 0x0B00 8 32 fun i => (t.seq.rstack.reverse.getD i 0).toNat) ++
  (arrayFields 0x0C00 4 128 fun i => (t.bst i).toNat) ++
  (arrayFields 0x0E00 128 16 fun i => (t.descr (BitVec.ofNat 4 i)).toNat) ++
  (arrayFields 0x1600 32 32 fun i => winWords (t.win (BitVec.ofNat 5 i)))

/-! ### CPSTATE (R198, R199) -/

/-- The commands of a queue that a save keeps: those with a part still to do that can go on from it. -/
def Cmd.kept (c : Cmd) : Bool := match c.eng with
  | .copy => isTile c.ins || match c.ins with
    | .fence _ _ _ | .wcopy _ | .wfill _ => true
    | _ => false
  | .vertex | .lattice | .exchange | .none => false

/-- The batches with their record numbers: the closed ones in order from 0, the open one 16. -/
def numberBatches (l : List Batch) : List (Nat × Batch) :=
  ((l.filter fun b => !b.isOpen).zipIdx.map fun x => (x.2, x.1)) ++ (l.filter (·.isOpen)).map fun b => (16, b)

/-- A batch record; the open batch has one when it holds a command. -/
def batchWord (b : Batch) : Nat :=
  if b.isOpen && decide (b.count = 0) then 0
  else (b.flag.map (·.toNat)).getD 0 + 2 ^ 5 * b.flag.isSome.toNat + 2 ^ 6 + 2 ^ 7 * b.failed.isSome.toNat +
    (match b.failed with
      | none => 0
      | some (_, i) => 2 ^ 8 * i.op.toNat + 2 ^ 32 * (i.reached.toNat % 2 ^ 32))

/-- EXT, or CFN bits 39:19. -/
def extOf (c : Cmd) : Nat := match c.ins with
  | .fence _ _ _ => bits (encodeCopy c.ins).toNat 39 19
  | _ => bits (encodeCopy c.ins).toNat 20 0

/-- W of a command of format CA. -/
def caW (i : Instr) : Nat := match i with
  | .tld o | .tst o | .tldm o | .tldbp o | .pref o | .strem o | .stremo o | .wcopy o | .wfill o => o.w.toNat
  | _ => 0

/-- An entry of the copy queue, for batch record `b`. -/
def entryFields (c : Cmd) (b : Nat) : List Field :=
  [⟨0x00, 8, (opOf c.ins).toNat + 2 ^ 8 * c.cls.toNat + 2 ^ 12 * caW c.ins + 2 ^ 17 * b + 2 ^ 22 * extOf c⟩,
   ⟨0x08, 8, c.a.toNat⟩] ++
  (arrayFields 0x10 2 4 fun k => runIndex c.img c.cnt c.run k) ++
  [⟨0x18, 2, runIndex c.img c.cnt c.run 4⟩, ⟨0x1A, 2, runIndex c.img c.cnt c.run 5⟩, ⟨0x1C, 2, c.boff⟩,
   ⟨0x20, 112, c.img.toNat⟩]

def copyFields (u : Untimed) : List Field :=
  let kept := u.queue.filter Cmd.kept
  let bs := numberBatches u.batches
  let recOf := fun (c : Cmd) => ((bs.find? fun x => some x.2.id == c.batch).map (·.1)).getD 0
  [⟨0x000, 8, kept.length⟩] ++ (bs.map fun x => ⟨0x008 + 8 * x.1, 8, batchWord x.2⟩) ++
  (kept.zipIdx.flatMap fun x => shiftFields (0x100 + 160 * x.2) (entryFields x.1 (recOf x.1)))

/-! ### The array state (R251) -/

def pushFields (p : Push) : List Field :=
  [⟨0x000, 8, p.remain + 2 ^ 8 * p.ovw.toNat + 2 ^ 9 * p.int.toNat + 2 ^ 16 * p.row.toNat⟩, ⟨0x040, 512, p.sums.toNat⟩,
   ⟨0x240, 16, p.flin.toNat⟩, ⟨0x250, 16, p.en.toNat⟩]

def drainFields (d : Drain) : List Field :=
  [⟨0x00, 8, d.remain + 2 ^ 8 * d.valid.toNat + 2 ^ 9 * d.argMax.toNat + 2 ^ 10 * d.int.toNat⟩, ⟨0x08, 8, d.value.toNat⟩,
   ⟨0x10, 8, d.index.toNat⟩]

def arrayStateFields (t : Timed) : List Field :=
  let x := t.arr
  [⟨0x00000, 8, x.wcnt.toNat + 2 ^ 8 * x.metric.toNat + 2 ^ 10 * x.mt.toNat + 2 ^ 12 * x.argMax.toNat⟩,
   ⟨0x00008, 8, x.pushes.length + 2 ^ 16 * x.drains.length⟩, ⟨0x00040, 16, x.cen.toNat⟩, ⟨0x00100, 192, t.regs.accov.toNat⟩,
   ⟨0x01000, 32768, x.active.toNat⟩, ⟨0x09000, 32768, x.shadow.toNat⟩] ++
  (x.pushes.zipIdx.flatMap fun p => shiftFields (0x11000 + 640 * p.2) (pushFields p.1)) ++
  (x.drains.zipIdx.flatMap fun d => shiftFields (0x30000 + 64 * d.2) (drainFields d.1))

/-! ### Snapshot records (R132, R168) -/

/-- The BSTAT update of a record, merged entry by entry. -/
def bsuWord (l : List BstUpd) (b : Nat) : Nat :=
  let mine := l.filter fun u => u.entry == b
  let fl := min 65535 ((mine.map (·.flushes)).foldl (· + ·) 0)
  let es := mine.filterMap (·.exp)
  fl + 2 ^ 16 * es.foldl max 0 + 2 ^ 24 * (!es.isEmpty).toNat

/-- The first and the last byte that a stripe part writes. -/
def partSpan (p : StripePart) : Nat × Nat :=
  let set := (List.range 4096).filter fun i => p.mask.getLsbD (8 * i)
  (set.headD 0, set.getLastD 0)

/-- DKIND, DNUM, SADDR, the value and its bytes of one record's destination. BSTCLR's clear has no number in R168;
log entry 17, DESIGN CHOICE. -/
def recordParts (r : Result) : List (Nat × Nat × Nat × Nat × Nat × Nat) :=
  match r with
  | .scalar x v => [(1, x.toNat, 0, 8, v.toNat, 0)]
  | .vector x v => [(2, x.toNat, 0, 4096, v.toNat, 0)]
  | .mask x v => [(3, x.toNat, 0, 128, v.toNat, 0)]
  | .special n v => [(4, n.toNat, 0, 8, v.toNat, 0)]
  | .accRow x v => [(5, x.toNat, 0, 512, v.toNat, 0)]
  | .apex n v => [(6, n.toNat, 0, 8, v.toNat, 0)]
  | .bstClear f k => [(4, 0xFFF, 0, 8, f + 2 ^ 32 * k, 0)]
  | .scratch ps => ps.map fun p =>
      let s := partSpan p
      let n := s.2 - s.1 + 1
      (7, 0, 4096 * p.stripe + s.1, n, p.data.toNat >>> (8 * s.1),
        (List.range n).foldl (fun m i => m + if p.mask.getLsbD (8 * (s.1 + i)) then 2 ^ i else 0) 0)
  | .arrayMode _ _ _ | .arrayCen _ | .shadowClear | .accZero _ | .accovClear _ | .none => []

/-- The bytes of a record with its padding. -/
def recordLen (kind len : Nat) (bsu : Bool) : Nat :=
  (64 + len + (if kind = 7 then (len + 7) / 8 else 0) + (if bsu then 512 else 0) + 63) / 64 * 64

/-- One record: its length and its bytes. -/
def recordOf (p : Pend) (x : Nat × Nat × Nat × Nat × Nat × Nat) : Nat × Nat :=
  let (kind, num, addr, len, val, mask) := x
  let bsu := !p.bst.isEmpty
  let mlen := if kind = 7 then (len + 7) / 8 else 0
  (recordLen kind len bsu, packFields (
    [⟨0x00, 8, kind + 2 ^ 8 * p.remain + 2 ^ 16 * num + 2 ^ 28 * p.slot.toNat + 2 ^ 32 * bsu.toNat + 2 ^ 33 * p.fps.toNat⟩,
     ⟨0x08, 8, addr⟩, ⟨0x10, 8, len⟩, ⟨0x40, len, val⟩, ⟨0x40 + len, mlen, mask⟩] ++
    if bsu then arrayFields (0x40 + len + mlen) 4 128 (bsuWord p.bst) else []))

/-- A record put among those before it: in rising order of REMAIN, after its equals. -/
def insertPend (p : Pend) : List Pend → List Pend
  | [] => [p]
  | q :: l => if q.remain ≤ p.remain then q :: insertPend p l else p :: q :: l

/-- Results in flight in the order of the area. -/
def sortPends (l : List Pend) : List Pend := l.foldl (fun s p => insertPend p s) []

def snapshotFields (t : Timed) : List Field :=
  let recs := (sortPends t.inFlight).flatMap fun p => (recordParts p.res).map (recordOf p)
  let total := (recs.map (·.1)).foldl (· + ·) 0
  [⟨0x00, 8, recs.length⟩, ⟨0x08, 8, total⟩] ++
  (recs.foldl (fun (x : Nat × List Field) r => (x.1 + r.1, x.2 ++ [⟨x.1, r.1, r.2⟩])) (0x40, [])).2

/-! ### The fixed parts (R56) -/

/-- The bytes of a slot before the scratchpad. -/
def fixedLen : Nat := 0x1E5000

def imageFields (core : Nat) (c : Core) (k : Task) (why : EvictReason) : List Field :=
  headerFields core c k why ++ shiftFields 0x1000 (controlFields c) ++ shiftFields 0x2A00 (copyFields c.un) ++
  (arrayFields 0x5000 4096 160 fun i => (c.timed.vreg (BitVec.ofNat 8 i)).toNat) ++
  (arrayFields 0xA5000 512 1536 fun i => (c.timed.row (BitVec.ofNat 12 i)).toNat) ++
  shiftFields 0x165000 (arrayStateFields c.timed) ++ shiftFields 0x1A5000 (snapshotFields c.timed)

/-- Granules of `n` bytes at offset `o` of the slot. -/
def slotGranules (o n : Nat) : List Nat := (List.range (n / 32)).map fun i => o / 32 + i

/-- The bytes of a granule of the scratchpad as places. -/
def granuleSites (g : Nat) : List MarkSite := (List.range 32).map fun i => .scratch (32 * g + i)

/-- The granules of a slot that hold a marked place (R397): the loop buffer is not saved, and of the scratchpad only declared
windows. -/
def markGranules : MarkSite → List Nat
  | .scalar r => slotGranules (0x1000 + 8 * r / 32 * 32) 32
  | .vector r => slotGranules (0x5000 + 4096 * r) 4096
  | .mask r => slotGranules (0x1200 + 128 * r) 128
  | .accRow r => slotGranules (0xA5000 + 512 * r) 512
  | .array => slotGranules 0x166000 65536
  | .loopBuffer _ => []
  | .scratch a => [0x1E5000 / 32 + a / 32]

end Sys2Proof.Machine
end

