-- ==== Sys2Proof/Machine/Launch.lean ====
section
/-!
DEFINITION. The load of a task (R30, R50, R54, R84, R86, R107-R109): the segment table, the image and the code overlay, and
a launch that fails; and how a task leaves its core.
-/

namespace Sys2Proof.Machine

/-! ### A task leaves its core (R22, R47, R49) -/

/-- A core with no task, nothing queued and no translation cached (R91). -/
def Core.released (c : Core) : Core :=
  { c with task := none, un := { Untimed.reset with nseq := c.un.nseq }, acquires := [], fails := .replicate 32 none }

/-- The task of core `n` has ended: its card counts it with `f`, its die reports its pinned cycles (R47), its open streams and
its waits are to be discarded (R280, R325), and the core is free. -/
def State.endTask (s : State) (n : Nat) (k : Task) (f : Card → Card) : State :=
  let s1 := s.onRegion k.rcb fun r =>
    { r with cards := onCard k.cardIdx (fun c => f { c with running := c.running - 1 }) r.cards }
  let s2 := s1.reportPinned (dieOf n)
  let s3 := s2.onCore n Core.released
  { s3 with orphans := s3.orphans ++ [(k.ref, k.streams.toList.filterMap id)] }

/-! ### The segment table (R84, R86) -/

/-- Entry `i` of the bytes of a table. -/
def segOf (v i : Nat) : Seg := BitVec.ofNat 256 (v >>> (256 * i))

/-- The segment table of a card as the DCU copies it; none when it is invalid. -/
def State.loadSegs (s : State) (card : BitVec 1024) : State × Option (List Seg) :=
  let a := cardSegtab card
  let n := cardSegs card
  if a % 32 ≠ 0 ∨ !s.onModule a (32 * n) then (s, none)
  else
    let x := s.dcuRead a (32 * n)
    let segs := (List.range n).map (segOf x.2.1)
    if x.2.2 || (List.range n).any fun i => segInvalid s.myMod.toNat s.xchg.rackMap i (segOf x.2.1 i) then (x.1, none)
    else (x.1, some segs)

/-! ### The dictionary (R107, R109) -/

/-- What the DCU logs when the header or the code segment is at fault. -/
def headerFault : Nat := 0xFFFF

/-- The header's fields are as R109 wants them. `w k` is its word k. -/
def headerBad (w : Nat → Nat) : Bool :=
  decide (bits (w 0) 31 0 ≠ 0x31534749) || decide (bits (w 0) 47 32 ≠ 1) || decide (w 0 >>> 48 ≠ 0) ||
  decide (w 1 >>> 14 ≠ 0) || decide (bits (w 1) 13 0 = 0) || decide (8192 < bits (w 1) 13 0) ||
  decide (w 2 >>> 32 ≠ 0) || decide (bits (w 2) 31 0 % 64 ≠ 0) || (List.range 5).any fun k => decide (w (3 + k) ≠ 0)

/-- Entry `i` of the bytes of a dictionary. -/
def entryOf (v i : Nat) : BundleBits := BitVec.ofNat 384 (v >>> (384 * i))

/-- The first invalid entry of a dictionary of `n` entries at `a` whose bytes are `v`: one that is no valid bundle, that is
poisoned, whose read from state `before` consumes the poison of a target (R395), or entry 0 when it is not all zero. -/
def State.badEntry (s before : State) (a v n : Nat) : Option Nat :=
  (List.range n).find? fun i =>
    s.poisonAt (a + 48 * i) 48 || (before.touch (a + 48 * i) 48).2 || !(bundleValid (entryOf v i)) || (decide (i = 0) && entryOf v i != 0)

/-- The dictionary of a task: its entries, or the index that the fault log records. -/
def State.loadDict (s : State) (card : BitVec 1024) : State × Except Nat (Nat × Store BundleBits) :=
  let a := cardImage card
  if a % 64 ≠ 0 ∨ !s.onModule a 64 then (s, .error headerFault)
  else
    let h := s.dcuRead a 64
    let w := fun k => h.2.1 >>> (64 * k) % 2 ^ 64
    let n := bits (w 1) 13 0
    let d := a + bits (w 2) 31 0
    if h.2.2 || headerBad w || !(h.1.onModule d (48 * n)) then (h.1, .error headerFault)
    else
      let x := h.1.dcuRead d (48 * n)
      match x.1.badEntry h.1 d x.2.1 n with
      | some i => (x.1, .error i)
      | none => (x.1, .ok (n, (List.range n).foldl (fun t i => Store.set 0 t i (entryOf x.2.1 i)) []))

/-! ### The code overlay (R108, R396) -/

/-- One sector of the code segment put into the overlay from halfword `p` on, up to halfword `len`. A sector that cannot be
reached, like a poisoned granule, leaves its halfwords marked. -/
def State.loadSector (sector len : Nat) (x : State × Image) (p : Nat) : State × Image :=
  let put := fun (im : Image) (data : BitVec 2048) (bad : Nat → Bool) =>
    (List.range (min 128 (len - p))).foldl (fun (im : Image) j =>
      { im with
        overlay := Store.set 0 im.overlay (p + j) (data.extractLsb' (16 * j) 16)
        badHalf := if bad j then im.badHalf ++ [p + j] else im.badHalf }) im
  if x.1.mayCross (256 * sector) then
    let f := x.1.fetchSector sector
    (f.1, put x.2 f.2.data fun j => f.2.abandoned || f.2.poison.getLsbD (j / 16))
  else (x.1, put x.2 0 fun _ => true)

/-- The whole code segment copied into the overlay. -/
def State.loadOverlay (s : State) (e : Seg) (im : Image) : State × Image :=
  let len := segLen e / 2
  (List.range ((len + 127) / 128)).foldl
    (fun x i => State.loadSector (segBase e / 256 + i) len x (128 * i)) (s, { im with overlay := [], badHalf := [] })

/-- Segment 0's LENGTH is odd or above 256 KiB (R109). -/
def codeBad (e : Seg) : Bool := decide (segLen e % 2 ≠ 0) || decide (262144 < segLen e)

/-- The image of a core once the task's is loaded, or the index that the fault log records. A matching tag skips the load and
its checks (R50). Where a dictionary entry is invalid and segment 0's LENGTH is bad too, the entry's index is logged (log entry
60, DESIGN CHOICE: R109 names an index for each fault alone). -/
def State.loadImage (s : State) (n : Nat) (card : BitVec 1024) (e : Seg) : State × Except Nat Image :=
  let im := (s.coreAt n).image
  let len := min (segLen e / 2) 131072
  if cardImageId card ≠ 0 ∧ im.tag = cardImageId card then (s, .ok { im with overlayLen := len })
  else
    let x := s.loadDict card
    match x.2 with
    | .error i => (x.1, .error i)
    | .ok d =>
      if codeBad e then (x.1, .error headerFault)
      else
        let y := x.1.loadOverlay e im
        (y.1, .ok { y.2 with tag := cardImageId card, dictCount := d.1, dict := d.2, badDict := [], overlayLen := len })

/-! ### A launch that fails (R43, R54, R109) -/

/-- The save slot of a resumed task is free again. -/
def State.freeSlot (s : State) (k : Task) : State := match k.resume with
  | none => s
  | some j => s.onRegion k.rcb fun r => { r with saveUsed := r.saveUsed.filter fun x => x != j }

/-- The card ends with STATUS `status`; the DCU logs `detail` (KIND 3). -/
def State.launchFails (s : State) (n : Nat) (k : Task) (status : BitVec 8) (detail : Nat) : State :=
  let i : FaultInfo := { kind := 3, code := 0, slot := 0, replays := 0, detail := BitVec.ofNat 64 detail, reached := 0, faddr := 0 }
  let s1 := s.logFault (dieOf n) (faultRec n (s.coreAt n) k (s.coreAt n).timed.seq.pc i)
  let s2 := (s1.regionFail k.rcb k.cardIdx k.taskIdx.toNat 0 1).freeSlot k
  s2.endTask n k fun c => { c with launchFail := if c.launchFail = 0 then status else c.launchFail }

/-! ### The start of a task (R30) -/

/-- The registers at the first bundle of a task: the arguments in s0 to s7, every mask all ones, ACCOV 0 (R235); the vector
registers, the accumulator rows and the scratchpad as they were left. -/
def Regs.first (r : Regs) (card : BitVec 1024) : Regs :=
  { r with s := Vector.ofFn fun i => if i.val < 8 then cardArg card i.val else 0
           m := .replicate 16 (BitVec.allOnes 1024)
           accov := 0 }

/-- The entry halfword (R30, R40): one beyond every overlay faults when its bundle would issue (R111). -/
def entryPc (card : BitVec 1024) : BitVec 18 := BitVec.ofNat 18 (min (cardEntry card) (2 ^ 18 - 1))

/-- The task of core `n` is launched; one that resumes is still LOADING until its context is restored. -/
def Core.loaded (c : Core) (k : Task) (segs : List Seg) (im : Image) : Core :=
  match k.resume with
  | some _ => { c with image := im, task := some { k with segs := segs } }
  | none => { c with
      image := im
      task := some { k with segs := segs, phase := .running }
      timed := { c.timed with
        regs := c.timed.regs.first k.card
        seq := { c.timed.seq with pc := entryPc k.card } } }

/-- The load of core `n` has yet to be made. -/
def State.loadDue (s : State) (n : Nat) : Option Task := match (s.coreAt n).task with
  | none => none
  | some k => if k.phase = .loading ∧ k.segs = [] then some k else none

/-- A load of the image would cross while crossings are held (R379): its bytes, or the code segment's, stand on another module. -/
def State.loadHeld (s : State) (card : BitVec 1024) (segs : List Seg) : Bool :=
  s.dcuHeld (cardImage card) 64 || s.dcuHeld (segBase (segs.headD 0)) (segLen (segs.headD 0))

/-- DICTIONARY_LOAD_COMPLETE (R109): the segment table first, then the image; the task starts, or the card fails. A failed
validation clears the core's tag (R50). -/
def execDictionaryLoadComplete (core : Nat) (s : State) : Out :=
  match s.loadDue core with
  | none => .next s
  | some k =>
    let x := s.loadSegs k.card
    match x.2 with
    | none => .next (x.1.launchFails core k 3 0)
    | some segs =>
      let y := x.1.loadImage core k.card (segs.headD 0)
      if s.loadHeld k.card segs then .next s
      else match y.2 with
      | .error i =>
        .next ((y.1.onCore core fun c => { c with image := { c.image with tag := 0 } }).launchFails core k 2 i)
      | .ok im => .next (y.1.onCore core fun c => c.loaded k segs im)

end Sys2Proof.Machine
end

