-- ==== Sys2Proof/Machine/Context.lean ====
section
/-!
DEFINITION. Eviction and resume (R52-R57, R169-R171, R198-R200, R252): the boundary at which an eviction takes effect, the
save, its end, and the restore.
-/

namespace Sys2Proof.Machine

/-! ### The boundary (R52, R130) -/

/-- The verdict on the head of issue lets an eviction take effect before it: no trap, and no hold that ends otherwise. -/
def evictableAt (c : Core) : Verdict → Bool
  | .issue _ _ => true
  | .hold cause => decide (cause ≠ 3 ∧ cause ≠ 4)
  | .skip => c.skipTrap.isNone
  | .idle | .late _ | .trap _ _ => false

/-- EVICTION_BOUNDARY is due on core `n` (R52, R54): the boundary that ends the cycle of the choice, so that an END or a trap of
that cycle comes first (R55). A task in FAULTHOLD stays there while its entry waits for room (R389). -/
def State.boundaryAt (s : State) (n : Nat) : Option Task :=
  match (s.coreAt n).task with
  | none => none
  | some k =>
    if k.evict.isNone || decide (s.wall ≤ k.evictAt) then none
    else match k.phase with
      | .running => if evictableAt (s.coreAt n) (s.at n).verdict then some k else none
      | .faultHold => if (k.hold.any fun h => h.fromDraining) || s.entryWaits n then none else some k
      | .loading | .draining | .evicting | .failed => none

/-- A fatal fault of another command that waits for this boundary (R388). -/
def Task.lateFatal (k : Task) : Option LateFault := k.late.bind fun f => match f.fault with
  | .fatal _ _ => some f
  | .invalid => none

/-- EVICTION_BOUNDARY (R52, R132): the core is frozen, what is in flight stays latched, and EVICT is answered (R41). A fatal
fault that waits for the boundary is taken instead. -/
def execEvictionBoundary (core : Nat) (s : State) : Out :=
  match s.boundaryAt core with
  | none => .next s
  | some k => match k.lateFatal with
    | some f => .next (s.takeLate core f)
    | none =>
      .next ((s.onCore core fun c => { c with
        task := some { k with phase := .evicting, hold := none, late := none } }).evictEnds core 0)

/-! ### The save (R52, R169, R198) -/

/-- All that is left of a TLDBP stopped by a page fault is planes of the run that it stopped in, read and waiting for the others. -/
def Cmd.planesWait (c : Cmd) : Bool :=
  c.stop.isFault && (bpOf c.ins).isSome && c.reqs.all fun r => r.stage == .done && r.run == c.run

/-- Everything that a save waits for is done, and every command that could complete has. -/
def State.saveReady (s : State) (n : Nat) : Option Task :=
  let u := s.unAt n
  match (s.coreAt n).task with
  | none => none
  | some k =>
    if k.phase = .evicting ∧ k.saveSlot = none ∧ u.released.isEmpty ∧ (u.arms.toList.all fun a => a.isNone) ∧
        (u.queue.all fun c => !(c.eng == .vertex) && !(c.eng == .lattice) && (c.kept || !c.awaited) &&
          (c.reqs.isEmpty || c.planesWait) && (passesThrough c.ins || !(s.endDue n c)))
    then some k else none

/-- The lowest free save slot of a region. -/
def Region.freeSlot (r : Region) : Option Nat := (List.range r.saveSlots).find? fun k => !(r.saveUsed.contains k)

/-- The passage acquires that stand in the queue take their action now (log entry 18, DEDUCED). -/
def State.takeAcquires (s : State) (n : Nat) : State :=
  (s.unAt n).queue.foldl (fun s c => match c.eng, c.ins with
    | .none, .fence _ sc k => s.fenceAct n 0xFFFF sc.toNat k.toNat
    | _, _ => s) s

/-- A TLDBP stopped within a run starts that run again after its resume: the planes it has read are not saved (R199; log entry 61,
DESIGN CHOICE). -/
def Cmd.rewound (c : Cmd) : Cmd := if c.planesWait then { c with boff := 0, reqs := [] } else c

/-- A command stopped by a page fault that has lost bytes fails its batch now: CPSTATE keeps no count of them; nor does it keep the
planes of an unfinished run. -/
def Untimed.keepLosses (u : Untimed) : Untimed :=
  let v := u.queue.foldl (fun u c => if c.prog.act = 0 ∨ !(isTile c.ins) then u
    else u.failBatch c ⟨opOf c.ins, BitVec.ofNat 64 (c.prog.act - 1), 0⟩) u
  { v with queue := v.queue.map Cmd.rewound }

/-- The place in CPSTATE of a command of a core's queue by its number. -/
def Untimed.savedAt (u : Untimed) (q : Nat) : Option Nat :=
  ((u.queue.filter Cmd.kept).zipIdx.find? fun x => x.1.seq == q).map (·.2)

/-- The saved commands that an exchange command must wait for (R26, R100), by their places in CPSTATE. -/
def Untimed.savedBefore (u : Untimed) (c : Cmd) : List Nat :=
  if insOrdered c.ins then
    ((u.queue.filter Cmd.kept).zipIdx.filter fun x => x.1.precedes c.seq c.cls false).map (·.2)
  else []

/-- The exchange commands of a saved task go on without it (R361). -/
def State.castOff (s : State) (n : Nat) (k : Task) : State :=
  let u := s.unAt n
  let mine := u.queue.filter fun c => c.eng == .exchange
  { s with adrift := (s.adrift.map fun a => if a.who = k.ref then { a with after := a.after.filterMap u.savedAt } else a) ++
      mine.map fun c => ⟨n, k.ref, k.segs, c, u.savedBefore c⟩ }

/-- After a resume on core `n`, before its queue is restored: the saved commands that its exchange commands wait for, by their new
numbers. -/
def State.takeUp (s : State) (n : Nat) (k : Task) : State :=
  { s with adrift := s.adrift.map fun a =>
      if a.who = k.ref then { a with after := a.after.map fun j => (s.unAt n).nseq + j } else a }

/-- The bytes of every declared window written to the slot at `base`. -/
def State.saveWindows (s : State) (t : Timed) (base : Nat) : State :=
  t.wins.toList.foldl (fun s w => match w with
    | none => s
    | some x => s.dcuWrite (base + 0x1E5000 + x.base.toNat) x.storage (t.sbytes x.base.toNat x.storage)) s

/-- A granule of the scratchpad lies in a declared window. -/
def Timed.granuleSaved (t : Timed) (g : Nat) : Bool :=
  t.wins.toList.any fun w => match w with
    | none => false
    | some x => decide (x.base.toNat ≤ 32 * g) && decide (32 * g < x.base.toNat + x.storage)

/-- The granules of the slot at `base` that the marks of a core poison (R397). -/
def Core.markedGranules (c : Core) (base : Nat) : List Nat :=
  (c.marks.filter fun m => match m with
    | .scratch a => c.timed.granuleSaved (a / 32)
    | .scalar _ | .vector _ | .mask _ | .accRow _ | .array | .loopBuffer _ => true).flatMap fun m =>
      (markGranules m).map fun g => base / 32 + g

/-- Granules poisoned. -/
def State.addPoison (s : State) (l : List Nat) : State :=
  { s with poison := s.poison ++ (l.dedup.filter fun g => !(s.poison.contains g)) }

/-- The context image of core `n` written to the slot at `base`. -/
def State.writeImage (s : State) (n : Nat) (k : Task) (why : EvictReason) (base : Nat) : State :=
  let c := s.coreAt n
  let s1 := s.dcuWrite base fixedLen (packFields (imageFields n c k why))
  (s1.saveWindows c.timed base).addPoison (c.markedGranules base)

/-- CONTEXT_SAVE (R169): the image goes to the lowest free save slot; the copy queue is in it now. -/
def execContextSave (core : Nat) (s : State) : Out :=
  match s.saveReady core with
  | none => .next s
  | some k =>
    match (s.region? k.rcb).bind fun r => r.freeSlot.map fun j => (r, j) with
    | none => .next s
    | some (r, j) =>
      let s1 := ((s.takeAcquires core).castOff core k).onUn core Untimed.keepLosses
      let s2 := (s1.landStopped core).writeImage core k (k.evict.getD 0) (r.slotBase j)
      let s3 := s2.onRegion k.rcb fun r => { r with saveUsed := r.saveUsed ++ [j] }
      .next (s3.onCore core fun c => { c with
        task := some { k with saveSlot := some j, cycles := 0 }
        un := { c.un with queue := [] } })

/-! ### The end of a save (R54, R55, R280) -/

/-- What the DCU keeps of an evicted task beside its slot. -/
def evictedOf (c : Core) (k : Task) (n j : Nat) : Evicted :=
  { slot := j, cardIdx := k.cardIdx, taskIdx := k.taskIdx, die := dieOf n, streams := k.streams, acquires := c.acquires,
    fails := c.fails, flagless := c.un.flagless, remoteFail := c.un.remoteFail.isSome, cycles := k.cycles,
    reported := k.reported, late := k.late }

/-- The save of core `n` is under way. -/
def State.saving (s : State) (n : Nat) : Option (Task × Nat) := match (s.coreAt n).task with
  | none => none
  | some k => if k.phase = .evicting then k.saveSlot.map fun j => (k, j) else none

/-- The task's card is ended: an evicted task of it is discarded, and a CANCEL has kept it from running (R43, R54, R55). -/
def State.discardStopped (s : State) (k : Task) : State :=
  match s.region? k.rcb with
  | none => s
  | some r =>
    if r.cards.any fun c => c.idx == k.cardIdx && (c.stop || r.below c.idx) then
      (s.onRegion k.rcb fun r => { r with cards := onCard k.cardIdx (fun c => { c with kept := true }) r.cards }).discard k.rcb
        fun e => e.cardIdx == k.cardIdx && e.taskIdx == k.taskIdx
    else s

/-- SAVE_COMPLETE (R54): the task is EVICTED, what was held for it reaches its slot, and the core is free. -/
def execSaveComplete (core : Nat) (s : State) : Out :=
  match s.saving core with
  | none => .next s
  | some (k, j) =>
    let e := evictedOf (s.coreAt core) k core j
    let s1 := s.onRegion k.rcb fun r => { r with
      cards := onCard k.cardIdx (fun c => { c with running := c.running - 1 }) r.cards
      evicted := r.evicted ++ [e] }
    let s2 := s1.onCore core Core.released
    let s3 := k.notes.foldl (fun s x => s.noteEvicted k.ref x) s2
    .next ((s3.discardStopped k).onRegion k.rcb Region.settle)

/-! ### The restore (R170, R200, R252) -/

def FlagState.ofCode (x : Nat) : FlagState := if x = 0 then .clear else if x = 1 then .set else .error

/-- A window's declaration from its 32 bytes. -/
def winOf (v : Nat) : Option Window :=
  if bit v 23 then
    some { base := BitVec.ofNat 23 v, skew := bit v 24, tr := BitVec.ofNat 13 (v >>> 64), tc := BitVec.ofNat 13 (v >>> 80),
           ew := BitVec.ofNat 2 (v >>> 96) }
  else none

/-- The passes that a nest has completed when its counters stand at `cnt` (R160): l0 is the innermost. -/
def passesOf (bounds cnt : Vector (BitVec 32) 6) : Nat :=
  (List.finRange 6).foldr (fun j n => (cnt.get j).toNat + (bounds.get j).toNat * n) 0

/-- The loop state from its bytes, the buffer still empty. PASSES is written for diagnosis and ignored here (R167): the passes
completed are those that the counters have counted. -/
def loopOf (x : Nat) : LoopState :=
  let w := bytesOf x 0x00 8
  let bounds : Vector (BitVec 32) 6 := Vector.ofFn fun i => BitVec.ofNat 32 (bytesOf x (0x18 + 8 * i.val) 8)
  let cnt : Vector (BitVec 32) 6 := Vector.ofFn fun i => BitVec.ofNat 32 (bytesOf x (0x48 + 8 * i.val) 8)
  { active := bit w 0, lenKnown := bit w 1, depthM1 := BitVec.ofNat 3 (bits w 4 2), lenM1 := bits w 10 5, pos := bits w 16 11,
    skip := bit w 17, start := BitVec.ofNat 18 (bytesOf x 0x08 8 % 2 ^ 17), after := BitVec.ofNat 18 (bytesOf x 0x10 8 % 2 ^ 17),
    bounds := bounds, cnt := cnt, passes := passesOf bounds cnt, buf := [] }

/-- The loop buffer filled again from the overlay: `n` bundles from `p` on; it ends early at one that cannot be fetched. -/
def Core.refill (c : Core) : Nat → BitVec 18 → List (BitVec 18 × BundleBits)
  | 0, _ => []
  | n + 1, p => match c.fetch p with
    | .error _ => []
    | .ok w => (p, w) :: Core.refill c n (c.after p)

/-- How many bundles of the body the buffer had captured. -/
def LoopState.captured (l : LoopState) : Nat := if !l.active then 0 else if l.lenKnown then l.lenM1 + 1 else l.pos

/-- A snapshot record from its bytes (R168). -/
def pendOf (v : Nat) : Pend × Nat :=
  let w := bytesOf v 0 8
  let kind := bits w 7 0
  let num := bits w 27 16
  let bsu := bit w 32
  let len := bits (bytesOf v 0x10 8) 12 0
  let val := bytesOf v 0x40 len
  let mlen := if kind = 7 then (len + 7) / 8 else 0
  let mask := bytesOf v (0x40 + len) mlen
  let addr := bytesOf v 0x08 8 % 2 ^ 23
  let ones := (List.range len).foldl (fun m i => m + if mask.testBit i then 255 <<< (8 * i) else 0) 0
  let res : Result := match kind with
    | 1 => .scalar (BitVec.ofNat 6 num) (BitVec.ofNat 64 val)
    | 2 => .vector (BitVec.ofNat 8 num) (BitVec.ofNat 32768 val)
    | 3 => .mask (BitVec.ofNat 4 num) (BitVec.ofNat 1024 val)
    | 4 => if num = 0xFFF then .bstClear (val % 2 ^ 32) (val >>> 32) else .special (BitVec.ofNat 12 num) (BitVec.ofNat 64 val)
    | 5 => .accRow (BitVec.ofNat 12 num) (BitVec.ofNat 4096 val)
    | 6 => .apex (BitVec.ofNat 2 num) (BitVec.ofNat 32 val)
    | 7 => .scratch [{ stripe := addr / 4096, mask := BitVec.ofNat 32768 (ones <<< (8 * (addr % 4096))),
                       data := BitVec.ofNat 32768 (val <<< (8 * (addr % 4096))) }]
    | _ => .none
  let bst := if bsu then (List.range 128).filterMap fun b =>
      let x := bytesOf v (0x40 + len + mlen + 4 * b) 4
      if x = 0 then none else some { entry := b, flushes := bits x 15 0, exp := if bit x 24 then some (bits x 23 16) else none }
    else []
  (⟨bits w 15 8, BitVec.ofNat 3 (bits w 30 28), res, BitVec.ofNat 5 (bits w 37 33), bst⟩, recordLen kind len bsu)

/-- `n` records from the bytes that follow the area's header. -/
def pendsOf : Nat → Nat → List Pend
  | 0, _ => []
  | n + 1, v => let x := pendOf v; x.1 :: pendsOf n (v >>> (8 * x.2))

def pushOfBytes (v : Nat) : Push :=
  let w := bytesOf v 0 8
  { remain := bits w 7 0, ovw := bit w 8, int := bit w 9, row := BitVec.ofNat 12 (bits w 27 16),
    sums := BitVec.ofNat 4096 (bytesOf v 0x40 512), flin := BitVec.ofNat 128 (bytesOf v 0x240 16),
    en := BitVec.ofNat 128 (bytesOf v 0x250 16) }

def drainOfBytes (v : Nat) : Drain :=
  let w := bytesOf v 0 8
  { remain := bits w 7 0, valid := bit w 8, argMax := bit w 9, int := bit w 10, value := BitVec.ofNat 32 (bytesOf v 0x08 8),
    index := BitVec.ofNat 16 (bytesOf v 0x10 8) }

/-- The array from its bytes (R251). -/
def arrayOf (x : Nat) : ArrayState :=
  let w := bytesOf x 0 8
  let n := bytesOf x 8 8
  { active := BitVec.ofNat 262144 (bytesOf x 0x1000 32768), shadow := BitVec.ofNat 262144 (bytesOf x 0x9000 32768),
    wcnt := BitVec.ofNat 7 (bits w 6 0), metric := BitVec.ofNat 2 (bits w 9 8), mt := BitVec.ofNat 2 (bits w 11 10),
    argMax := bit w 12, cen := BitVec.ofNat 128 (bytesOf x 0x40 16)
    pushes := (List.range (bits n 7 0)).map fun j => pushOfBytes (bytesOf x (0x11000 + 640 * j) 640)
    drains := (List.range (bits n 23 16)).map fun j => drainOfBytes (bytesOf x (0x30000 + 64 * j) 64) }

/-- A store of `n` entries of `len` bytes. -/
def storeOf {w : Nat} (x off len n : Nat) : Store (BitVec w) :=
  (List.range n).foldl (fun t i => Store.set 0 t i (BitVec.ofNat w (bytesOf x (off + len * i) len))) []

/-- The timed domain from the fixed parts of an image; the scratchpad is left as the core holds it (R171). The cycles that a bundle
has spent on a bank conflict are not in the image, and it spends them again (log entry 60, DESIGN CHOICE). -/
def Timed.restored (t : Timed) (img : Nat) : Timed :=
  let c := bytesOf img 0x1000 0x4000
  let fl := bytesOf c 0x0A00 8
  let br := bytesOf c 0x0A10 8
  let depth := bits (bytesOf c 0x0A48 8) 5 0
  let snap := bytesOf img 0x1A5000 0x40000
  { regs := {
      s := Vector.ofFn fun i => BitVec.ofNat 64 (bytesOf c (8 * i.val) 8)
      v := storeOf img 0x5000 4096 160
      m := Vector.ofFn fun i => BitVec.ofNat 1024 (bytesOf c (0x200 + 128 * i.val) 128)
      acc := storeOf img 0xA5000 512 1536
      accov := BitVec.ofNat 1536 (bytesOf img 0x165100 192)
      scratch := t.regs.scratch }
    seq := { Seq.reset with
      pc := BitVec.ofNat 18 (bytesOf c 0x0A08 8 % 2 ^ 17)
      btarget := BitVec.ofNat 18 br
      bdelay := bits br 19 18
      idle := bits (bytesOf c 0x0A18 8) 17 0
      rstack := ((List.range depth).map fun j => BitVec.ofNat 18 (bytesOf c (0x0B00 + 8 * j) 8)).reverse
      loop := loopOf (bytesOf c 0x0A80 0x80) }
    sp := {
      shape := BitVec.ofNat 64 (bytesOf c 0x0A20 8)
      fpctl := BitVec.ofNat 64 (bytesOf c 0x0A28 8)
      fpstat := BitVec.ofNat 64 (bytesOf c 0x0A30 8)
      tcycle := BitVec.ofNat 64 (bytesOf c 0x0A38 8)
      markv := BitVec.ofNat 64 (bytesOf c 0x0A40 8)
      apxv := BitVec.ofNat 32 (bytesOf c 0x0A50 8)
      apxi := BitVec.ofNat 16 (bytesOf c 0x0A58 8)
      apxb := BitVec.ofNat 16 (bytesOf c 0x0A60 8)
      bstat := storeOf c 0x0C00 4 128 }
    arr := arrayOf (bytesOf img 0x165000 0x40000)
    inFlight := pendsOf (bytesOf snap 0 4) (snap >>> 512)
    flags := Vector.ofFn fun i => FlagState.ofCode (fl >>> (2 * i.val) % 4)
    wins := Vector.ofFn fun i => winOf (bytesOf c (0x1600 + 32 * i.val) 32)
    desc := Vector.ofFn fun i => BitVec.ofNat 1024 (bytesOf c (0x0E00 + 128 * i.val) 128) }

/-- The instruction of a copy entry, from its OP, CLS, W and EXT. -/
def insOf (w : Nat) : Option Instr :=
  let op := bits w 7 0
  let word := if op = 0x18 then op * 2 ^ 40 + bits w 42 22 * 2 ^ 19
    else op * 2 ^ 40 + bits w 11 8 * 2 ^ 36 + bits w 16 12 * 2 ^ 25 + bits w 42 22
  readCopy (BitVec.ofNat 48 word)

/-- The counters that give a command its captured indices: those of the dimensions that a counter indexes (R199). -/
def countersOf (img : BitVec 1024) (idx : Nat → Nat) : Vector (BitVec 32) 6 :=
  Vector.ofFn fun j => BitVec.ofNat 32 ((((List.range (dNdim img)).find? fun k => dLsrc img k = j.val + 1).map idx).getD 0)

/-- The run number of captured indices. -/
def runOf (img : BitVec 1024) (idx : Nat → Nat) : Nat :=
  (List.range 6).foldl (fun (x : Nat × Nat) k =>
    (x.1 + (if dLsrc img k ≠ 0 ∧ k < dNdim img then 0 else idx k * x.2), x.2 * dIters img k)) (0, 1) |>.1

/-- A command from its entry of CPSTATE, numbered `q`. -/
def cmdOf (t : Timed) (v q : Nat) : Option Cmd :=
  let w := bytesOf v 0 8
  match insOf w with
  | none => none
  | some i =>
    let img : BitVec 1024 := BitVec.ofNat 1024 (bytesOf v 0x20 112)
    let idx := fun k => bytesOf v (0x10 + 2 * k) 2
    let win := match i with
      | .fence _ _ _ => none
      | _ => t.win (BitVec.ofNat 5 (bits w 16 12))
    let win2 := match i with
      | .wcopy o => t.win (o.ext.setWidth 5)
      | _ => none
    some { seq := q, eng := .copy, ins := i, cls := BitVec.ofNat 4 (bits w 11 8), a := BitVec.ofNat 64 (bytesOf v 8 8), b := 0,
           win := win, win2 := win2, img := img, cnt := countersOf img idx, regs := [], batch := some (bits w 21 17),
           run := runOf img idx, boff := bits (bytesOf v 0x1C 2) 12 0, nreq := 0, reqs := [], stop := .run, uid := 0,
           prog := .start }

/-- A batch from its record, numbered `b`; the open one exists whatever its record says. -/
def batchOf (v b : Nat) : Option Batch :=
  let failed := if bit v 7 then some (0, (⟨BitVec.ofNat 8 (v >>> 8), BitVec.ofNat 64 (bits v 63 32), 0⟩ : FailInfo)) else none
  if b = 16 then some ⟨16, true, none, (bit v 6).toNat, failed⟩
  else if bit v 6 then some ⟨b, false, if bit v 5 then some (BitVec.ofNat 5 v) else none, 1, failed⟩
  else none

/-- The copy queue and its batches from CPSTATE (R199, R200). -/
def Untimed.restored (u : Untimed) (t : Timed) (img : Nat) : Untimed :=
  let c := bytesOf img 0x2A00 0x1000
  let n := bits (bytesOf c 0 8) 4 0
  { u with
    nseq := u.nseq + n
    queue := (List.range n).filterMap fun j => cmdOf t (bytesOf c (0x100 + 160 * j) 160) (u.nseq + j)
    batches := (List.range 17).filterMap fun b => batchOf (bytesOf c (0x008 + 8 * b) 8) b
    nbatch := 17 }

/-- The marks that poisoned granules of the slot at `base` restore (R397). -/
def State.marksAt (s : State) (t : Timed) (base : Nat) : List MarkSite :=
  let bad := fun (m : MarkSite) => (markGranules m).any fun g => s.poison.contains (base / 32 + g)
  ((List.range 64).map MarkSite.scalar ++ (List.range 160).map MarkSite.vector ++ (List.range 16).map MarkSite.mask ++
    (List.range 1536).map MarkSite.accRow ++ [MarkSite.array]).filter bad ++
  ((s.poison.filter fun g => decide (base / 32 + 0x1E5000 / 32 ≤ g) && decide (g < base / 32 + 0x9E5000 / 32)).flatMap
    fun g => granuleSites (g - base / 32 - 0x1E5000 / 32)).filter fun m => match m with
      | .scratch a => t.granuleSaved (a / 32)
      | .scalar _ | .vector _ | .mask _ | .accRow _ | .array | .loopBuffer _ => false

/-- The bytes of every declared window read back from the slot at `base`. -/
def State.loadWindows (s : State) (base : Nat) (t : Timed) : State × Timed :=
  t.wins.toList.foldl (fun (x : State × Timed) w => match w with
    | none => x
    | some v =>
      let y := x.1.dcuRead (base + 0x1E5000 + v.base.toNat) v.storage
      (y.1, x.2.setSbytes v.base.toNat v.storage y.2.1)) (s, t)

/-- CONTEXT_RESTORE is due: the image is loaded (R170 step 1). -/
def State.restoreDue (s : State) (n : Nat) : Option (Task × Nat × Nat) := match (s.coreAt n).task with
  | none => none
  | some k => if k.phase = .loading ∧ k.segs ≠ [] then
      k.resume.bind fun j => (s.region? k.rcb).map fun r => (k, j, r.slotBase j)
    else none

/-- The core with everything restored, the loop buffer filled again, and what was held for the task applied (R280). -/
def Core.resumed (c : Core) (k : Task) (img : Nat) (t : Timed) (marks : List MarkSite) : Core :=
  let c1 := { c with
    timed := t
    un := c.un.restored t img
    marks := marks ++ (c.marks.filter fun (m : MarkSite) => match m with
      | .scratch a => !t.granuleSaved (a / 32)
      | .scalar _ | .vector _ | .mask _ | .accRow _ | .array | .loopBuffer _ => false)
    task := some { k with
      phase := .running
      resume := none
      notes := []
      lcluster := BitVec.ofNat 2 (bytesOf img 0x16 1)
      cycles := bytesOf img 0x18 8 + k.cycles } }
  let l := t.seq.loop
  let c2 := { c1 with
    timed := { t with seq := { t.seq with loop := { l with buf := c1.refill l.captured l.start } } } }
  k.notes.foldl Core.report c2

/-- CONTEXT_RESTORE (R170): every saved area is restored, the save slot is free (R53), and the task runs. -/
def execContextRestore (core : Nat) (s : State) : Out :=
  match s.restoreDue core with
  | none => .next s
  | some (k, _, base) =>
    let x := s.dcuRead base fixedLen
    let t := (x.1.coreAt core).timed.restored x.2.1
    let y := x.1.loadWindows base t
    let marks := y.1.marksAt t base
    .next (((y.1.freeSlot k).takeUp core k).onCore core fun c => c.resumed k x.2.1 y.2 marks)

end Sys2Proof.Machine
end

