-- ==== Sys2Proof/Machine/Ring.lean ====
section
/-!
DEFINITION. The stations of the rings (R298, R342, R343): slots that arrive, those that are refused twice and answered with a NACK,
the back-off before they are sent again, and what the sixteenth NACK makes of the command of each engine.
-/

namespace Sys2Proof.Machine

/-! ### What travels -/

/-- The unit of a die that is not core `n`'s lies behind another station of the ring. -/
def behind (n die : Nat) : Bool := dieOf n != die

/-- Bytes at an address that core `n`'s die does not home: an access to them by that die travels. -/
def State.farKey (s : State) (n key : Nat) : Bool := !(s.ownStack (dieOf n) key)

/-- The lists of a gather command lie in part at homes other than its die's own stack. -/
def State.listsFar (s : State) (n : Nat) (c : Cmd) : Bool :=
  [gOffCap c.img, gIdxCap c.img, gWCap c.img].any fun cap =>
    match (s.coreAt n).task.bind fun k => k.seg (capIdx cap) with
    | none => false
    | some e => (s.listPlace n e (capIdx cap) (capOffs cap)).2.any (s.farKey n)

/-- A bag's bucket has been sent to a holder behind a ring. -/
def State.bucketFar (s : State) (n : Nat) (c : Cmd) (bag shard : Nat) : Bool :=
  let d := c.gatherTable s
  !(s.bucketDue c bag shard).isEmpty && (s.shardAway c.prog d shard).getD (behind n (shPbc d shard))

/-- A query of GSTAT and its like goes to a PBC behind the ring. -/
def State.queryFar (s : State) (n : Nat) (c : Cmd) : Bool := match c.ins with
  | .gstat _ | .gskrd _ =>
    let d := s.table (bits c.a.toNat 41 32)
    (s.holderAway c.prog d (bits c.a.toNat 31 0)).getD (behind n (shPbc d (shardOf d (bits c.a.toNat 31 0))))
  | .gcntrd _ | .gcntclr _ => behind n (bits c.a.toNat 18 16)
  | _ => false

/-- A copy-slot command of a PBC has sent access `k`. -/
def State.pbcTravels (s : State) (n : Nat) (c : Cmd) (k : Nat) : Bool :=
  if (queryFields c.ins).isSome then k == 0 && s.queryFar n c && !s.trust.holds
  else if (gatherFields c.ins).isNone then false
  else if k = 0 then !c.prog.accepted && s.clear n c.seq c.cls false && s.gatherAllowed n c && s.listsFar n c
  else s.bucketFar n c ((k - 1) / 64) ((k - 1) % 64)

/-- An XSEND's next block may set out: it is neither refused nor held. -/
def State.xsendCrossing (s : State) (n : Nat) (x : XCmd) (o : CfOp) : Bool :=
  match xsendPlace x.segs x.cmd.b .rd (xsendBytes o), xsendPlace x.segs x.cmd.a .wr (xsendBytes o) with
  | some src, some dst =>
    let a := src + 256 * x.cmd.run
    let b := dst + 256 * x.cmd.run
    !(s.xsendRefused x.cmd.prog a b) && !(s.xsendHeld x.cmd.prog (dieOf n) a b)
  | _, _ => false

/-- An exchange command has sent access `k`: a block of an XSEND that it reads or writes elsewhere, or a piece for another die or
module of the rack ring. -/
def State.xTravels (s : State) (n : Nat) (x : XCmd) (k : Nat) : Bool := match x.cmd.ins with
  | .xsend o =>
    k == 0 && x.cmd.prog.part.isEmpty && s.xclear n x.cmd && (s.xsendCrossing n x o) &&
      ((xsendPlace x.segs x.cmd.b .rd (xsendBytes o)).any (s.farKey n) || (xsendPlace x.segs x.cmd.a .wr (xsendBytes o)).any (s.farKey n))
  | _ => match x.cmd.prog.blocks.find? fun b => b.rank == k / 2 ^ 32 with
    | none => false
    | some b => s.pieceDue x.cmd b (k % 2 ^ 32) &&
        if s.rankHere b.entry then behind n (rkCore b.entry / 12) else rkRoute b.entry == 1 && s.mayReach (rkMod b.entry)

/-- The walker reads entries behind the ring for a command's page (R342). -/
def State.walkTravels (s : State) (n : Nat) (c : Cmd) : Bool := match s.translateDue n c with
  | none => false
  | some (_, e, va) => (walkKeys e va 4 s 1 (segRoot e)).any (s.farKey n)

/-- Access `k` of a command that is no sector request is on a ring, and its destination station may refuse it (R342, R343). -/
def State.travels (s : State) (n : Nat) (c : Cmd) (k : Nat) : Bool :=
  !c.prog.backoff.contains k && c.prog.parked.isNone && match c.eng with
    | .vertex => k == 0 && s.vxDue n c &&
        if hMod c.a = s.myMod.toNat then behind n (hDie c.a) else s.mayReach (hMod c.a)
    | .lattice => k == 0 && s.latticeDue n c && (!insOrdered c.ins || s.clear n c.seq c.cls false) &&
        if lhMod c.lhandle = s.myMod.toNat then behind n (lhUnit c.lhandle % 8) else s.mayReach (lhMod c.lhandle)
    | .exchange => (s.xcmd? n c.seq).any fun x => s.xTravels n x k
    | .copy | .none => if k = walkAccess then s.walkTravels n c else s.pbcTravels n c k

/-! ### The sixteenth NACK (R343) -/

/-- A Lattice command that its instance does not answer (R324): its stream fails, a push goes with it, and an LABORT ends its stream
all the same (R323). -/
def State.latticeLost (s : State) (n : Nat) (c : Cmd) : State :=
  let here := decide (lhMod c.lhandle = s.myMod.toNat)
  let u := lhUnit c.lhandle
  let r := lhRegion c.lhandle
  let got := s.streamPairs c.lhandle c.uid
  let lost := if here then s.onUnit u fun x => x.failStream r c.uid else s.setAway { s.awayOf c.uid with failed := true }
  match c.ins with
  | .lpush _ | .lpushs _ => lost.dropCmd n c.seq
  | .lclose o => (lost.abortStream c.lhandle c.uid).cmdFailed n c.seq o.f (opOf c.ins) got 0
  | .labort o => (lost.abortStream c.lhandle c.uid).cmdDone n c.seq o.f none
  | .lopen o =>
    (if here then s.onUnit u fun x => x.failOpen r c.uid false else s.setAway ⟨c.uid, 0, true⟩).cmdFailed n c.seq o.f (opOf c.ins) 0 0
  | .lapply o | .lstep o | .lquery o | .lspill o | .lstat o => s.cmdFailed n c.seq o.f (opOf c.ins) 0 0
  | _ => s

/-- The scope of the release that a command of Vertex makes at its issue (R264). -/
def State.vxScope (s : State) (c : Cmd) : Nat :=
  if hMod c.a ≠ s.myMod.toNat then (if releases c.ins then 4 else 0)
  else match (s.readObj (hDie c.a) (hObj c.a)).2 with
    | some (.phaser p) => p.releaseScope c.ins (bits c.b.toNat 5 0)
    | some (.sync _) | some .free | none => 0

/-- What becomes of a command whose access `k` has been given up, as its own chapter lays down: R196, R278, R299, R301, R324, R362. -/
def State.gaveUp (s : State) (n : Nat) (c : Cmd) (k : Nat) : State := match c.eng with
  | .vertex => (vxFields c.ins).elim s fun o => s.releaseThen n c (s.vxScope c) (BitVec.allOnes 1024) fun s => s.vxFail n c o.f
  | .lattice => s.latticeLost n c
  | .exchange => match s.xcmd? n c.seq with
    | none => s
    | some x => match c.ins with
      | .xsend _ => s.xfailed n x c.run 0
      | _ => (s.onXcmd n c.seq fun c => c.gotPiece (k / 2 ^ 32) (k % 2 ^ 32) false).endCollective n c.seq
  | .copy | .none => match queryFields c.ins, gatherFields c.ins with
    | some o, _ => s.cmdFailed n c.seq o.f (opOf c.ins) 0 0
    | none, some o =>
      if k = 0 then s.cmdFailed n c.seq o.f (opOf c.ins) 0 0
      else s.bucketLost n c ((k - 1) / 64) ((k - 1) % 64) (s.bucketDue c ((k - 1) / 64) ((k - 1) % 64)).length
    | none, none => if k = walkAccess then s.onCmd n c.seq fun c => c.cut c.nreq c.run 0 else s

/-- The lane to module `m` of the rack ring, with the member that names it; none to this module. -/
def State.moduleLane (s : State) (m : Nat) : List (Nat × Nat) :=
  if m = s.myMod.toNat then [] else ((s.trust.memberFor false m).map fun i => (i, s.rackPath m 0)).toList

/-- The lane to the holder of a shard. -/
def State.shardLane (s : State) (d : Table) (k : Nat) : List (Nat × Nat) :=
  if shPeerF d k then ((s.trust.memberFor true (shPeer d k)).map fun i => (i, 5)).toList else s.moduleLane (shMod d k)

/-- The lanes to the homes of the lists of a gather command. -/
def State.listLanes (s : State) (n : Nat) (c : Cmd) : List (Nat × Nat) :=
  [gOffCap c.img, gIdxCap c.img, gWCap c.img].flatMap fun cap =>
    match (s.coreAt n).task.bind fun k => k.seg (capIdx cap) with
    | none => []
    | some e => ((s.listPlace n e (capIdx cap) (capOffs cap)).2.bind s.laneOf).toList

/-- The lanes to the homes of the blocks that an XSEND has come to. -/
def XCmd.lanes (x : XCmd) (s : State) (o : CfOp) : List (Nat × Nat) :=
  (((xsendPlace x.segs x.cmd.b .rd (xsendBytes o)).bind fun a => s.laneOf (a + 256 * x.cmd.run)).toList) ++
    ((xsendPlace x.segs x.cmd.a .wr (xsendBytes o)).bind fun b => s.laneOf (b + 256 * x.cmd.run)).toList

/-- The lanes, each with the member at its end, that access `k` of a command crosses on; none if it stays on this module. -/
def State.awayLanes (s : State) (n : Nat) (c : Cmd) (k : Nat) : List (Nat × Nat) :=
  match c.eng with
  | .vertex => s.moduleLane (hMod c.a)
  | .lattice => s.moduleLane (lhMod c.lhandle)
  | .exchange => match s.xcmd? n c.seq with
    | none => []
    | some x => match x.cmd.ins with
      | .xsend o => x.lanes s o
      | _ => match x.cmd.prog.blocks.find? fun b => b.rank == k / 2 ^ 32 with
        | some b => if rkRoute b.entry = 1 then s.moduleLane (rkMod b.entry) else []
        | none => []
  | .copy | .none => match c.ins with
    | .gstat _ | .gskrd _ =>
      let d := s.table (bits c.a.toNat 41 32)
      s.shardLane d (shardOf d (bits c.a.toNat 31 0))
    | .gbag _ | .gbagw _ | .grows _ | .gpref _ =>
      if k = 0 then s.listLanes n c else s.shardLane (c.gatherTable s) ((k - 1) % 64)
    | _ => []

/-- Access `k` of a command receives a NACK: the refused slot has used a sequence if it crossed (R375); the access backs off, or after
its sixteenth NACK fails. -/
def State.nacked (s : State) (n : Nat) (c : Cmd) (k : Nat) : State :=
  let s1 := (s.awayLanes n c k).head?.elim s fun l => s.onTrust fun t => t.sealOn l.1 l.2
  if 15 ≤ Store.get 0 c.prog.nacks k then s1.gaveUp n c k
  else s1.onXcmd n c.seq fun c =>
    { c with prog := { c.prog with nacks := Store.set 0 c.prog.nacks k (Store.get 0 c.prog.nacks k + 1), backoff := c.prog.backoff ++ [k] } }

/-- The command with a sequence number, in a queue of its core or adrift. -/
def State.anyCmd? (s : State) (n q : Nat) : Option Cmd := match s.cmd? n q with
  | some c => some c
  | none => (s.xcmd? n q).map fun x => x.cmd

/-- The arrival of a released arm that PHARM `q` bound on core `n` and that travels now. -/
def State.armOut (s : State) (n q : Nat) : Option Arm :=
  (s.unAt n).released.find? fun a => a.seq == q && a.ok && !a.backoff && s.armFree n a && s.armFar n a

/-- The arrival of an arm receives a NACK: it backs off, or after its sixteenth fails as R278 lays down. -/
def State.armNacked (s : State) (n : Nat) (a : Arm) : State :=
  let s1 := (s.moduleLane (hMod a.handle)).head?.elim s fun l => s.onTrust fun t => t.sealOn l.1 l.2
  if 15 ≤ a.nacks then
    (s1.onUn n fun u => u.onArm a.seq fun _ => none).reportAt n ⟨a.flag, false, none, some ⟨0x24, 0, 0⟩⟩
  else s1.onUn n fun u => u.onArm a.seq fun x => some { x with nacks := x.nacks + 1, backoff := true }

/-- STATION_SLOT_RECEIVE (R343, R377): a sector request of the copy engine, an access of another engine that is refused, or a sealed
slot. An access of another engine that is taken in goes on as its own row says. -/
def execStationSlotReceive (x : SlotArrival) (s : State) : Out :=
  match x with
  | .own core seq req nack =>
    match s.anyCmd? core seq with
    | none => .next (if nack then (s.armOut core seq).elim s fun a => s.armNacked core a else s)
    | some c =>
      if nack && (c.req? req).isNone && s.travels core c req then .next (s.nacked core c req)
      else .next (s.slotArrives core seq req nack)
  | .sealed member lane seqNo epochBit tagOk body =>
    if lane < 4 then s.openSealed member lane seqNo epochBit tagOk body else .next s

/-- NACK_BACKOFF_EXPIRY (R343): the source sends the access again, on the same path, unless its crossing is refused by now
(R367, R375). -/
def execNackBackoffExpiry (core seq req : Nat) (s : State) : Out :=
  match (s.cmd? core seq).bind fun c => c.req? req with
  | none =>
    .next ((s.onUn core fun u => u.onArm seq fun a => some { a with backoff := false }).onXcmd core seq fun c =>
      { c with prog := { c.prog with backoff := c.prog.backoff.filter fun k => k != req } })
  | some r =>
    if r.stage != .backoff then .next s
    else if !(((s.cmd? core seq).map Cmd.prog).any fun x => s.mayLeave x r.key (r.path.map fun p => p.val)) then
      .next (s.failAt core seq r 0)
    else .next ((s.onCmd core seq fun c => c.onReq req fun r => { r with stage := .ring }).crossOn r.key (r.path.map fun p => p.val))

end Sys2Proof.Machine
end

