-- ==== Sys2Proof/Machine/Trust.lean ====
section
/-!
DEFINITION. The trust engine (R366-R370, R378-R386): its host commands, barriers, evictions and the drop log, and the
trust commands of cores.
-/

namespace Sys2Proof.Machine

/-! ### Sets of members (R378) -/

/-- The members that `p` picks, as a bitmap. -/
def Trust.those (t : Trust) (p : Nat → Member → Bool) : BitVec 64 :=
  (List.range 64).foldl (fun b m => if p m (t.member m) then b ||| BitVec.twoPow 64 m else b) 0

def Trust.isSelf (t : Trust) (m : Nat) : Bool := m == t.self.toNat

/-- MSTATE of an entry that will be ACTIVE after a pass. -/
def MState.stays : MState → Bool := MState.holdsNext

/-- MSTATE of an entry that departs at a pass. -/
def MState.departs : MState → Bool
  | .leaving => true | .evicted => true | .none => false | .attesting => false | .pending => false | .active => false

/-- Some entry other than the module's own will be ACTIVE after the pass. -/
def Trust.anyStays (t : Trust) : Bool := (List.range 64).any fun m => !t.isSelf m && (t.member m).mstate.stays

def Trust.memberSet (t : Trust) : BitVec 64 :=
  t.those fun m x => if t.isSelf m then t.anyStays else x.mstate.stays
def Trust.departing (t : Trust) : BitVec 64 := t.those fun m x => !t.isSelf m && x.mstate.departs
def Trust.arrivalSet (t : Trust) : BitVec 64 := t.those fun m x => t.isSelf m || x.mstate.stays || x.mstate == .leaving

/-! ### Results -/

def State.trustRes (s : State) (r : BitVec 4) : State := s.onTrust fun t => { t with res := r }
def State.setMstate (s : State) (m : Nat) (x : MState) : State :=
  s.onTrust fun t => t.setMember m { t.member m with mstate := x }

/-- The step of a member's exchange at which no answer is awaited. -/
def noStep : Nat := 10

/-- The session with a member ends, and its keys are destroyed (R369). -/
def State.closeSession (s : State) (m : Nat) : State :=
  { s with spdm := s.spdm.map fun y =>
      if (s.trust.member m).names y.who.isPeer y.who.num then { y with session := false, finished := false } else y }

/-- A member's entry returns to NONE (R369). -/
def State.leaves (s : State) (m : Nat) : State :=
  (s.onTrust fun t => t.setMember m { t.member m with mstate := .none, steps := noStep }).closeSession m

/-- A check of a session that the member opened fails: RES 4 (R369). -/
def State.checkFails (s : State) (m : Nat) : State := (s.leaves m).trustRes 4

/-! ### Waits of TBARR (R385) -/

/-- EPOCH has reached a target. -/
def epochReached (epoch target : BitVec 32) : Bool := decide ((epoch - target).toNat < 2 ^ 31)

/-- The waits that a pass answers: SET where the target is reached, ERROR where the module has become ALONE first. -/
def State.answerEpochs (s : State) : State :=
  let t := s.trust
  let alone := t.dstate == .alone
  let hit := fun (w : EpochWait) => epochReached t.epoch w.target
  let s1 := s.onTrust fun t => { t with waits := t.waits.filter fun w => !(hit w || alone) }
  t.waits.foldl (fun s w =>
    if hit w then s.report w.who ⟨w.flag, true, some 4, none⟩
    else if alone then s.report w.who ⟨w.flag, false, none, some ⟨0x58, 0, 0⟩⟩ else s) s1

/-! ### Barriers (R378-R381) -/

/-- A request that has left its core and is not yet answered: neither taking its window bytes nor in the RDC's hands. -/
def ReqStage.out : ReqStage → Bool
  | .ring | .backoff | .home | .held => true
  | .window | .rdc | .done => false

/-- A request of a core's command that has left for another module and is not yet answered. -/
def State.awayReq (s : State) (r : Req) : Bool := s.isRemoteKey r.key && r.stage.out

/-- A command of core `n` has a crossing out that is not yet acknowledged: a sector request, or an access that backs off after a
NACK (R343). -/
def State.cmdOut (s : State) (n : Nat) (c : Cmd) : Bool :=
  c.reqs.any s.awayReq || c.prog.backoff.any fun k => !(s.awayLanes n c k).isEmpty

/-- A crossing already sent is not yet acknowledged (R379). -/
def State.crossingOut (s : State) : Bool :=
  ((List.range 96).any fun n => (s.unAt n).queue.any (s.cmdOut n)) || s.adrift.any fun a => s.cmdOut a.core a.cmd

/-- What is in progress once a barrier has ended: an ATTEST goes on. -/
def TrustBusy.afterBarrier : TrustBusy → Option TrustBusy
  | .barrier => none
  | .attest m => some (.attest m)

/-- The barrier ends with a disagreement (R380); an ATTEST in progress goes on (log entry 46, DEDUCED). -/
def State.disagree (s : State) : State :=
  s.onTrust fun t => { t with dstate := .active, busy := t.busy.bind TrustBusy.afterBarrier, res := 5, arrivals := [], released := false }

/-- The entries after a pass (R369). -/
def Trust.passMembers (t : Trust) : Trust :=
  (List.range 64).foldl (fun x m =>
    let e := t.member m
    let gone := !t.isSelf m && e.mstate.departs
    let next := if t.isSelf m then (if t.anyStays then MState.active else .none)
      else if e.mstate.stays then .active else if gone then .none else e.mstate
    x.setMember m { e with mstate := next, steps := if gone then noStep else e.steps }) t

/-- The sessions with departing members end (R369). -/
def State.closeDeparting (s : State) : State :=
  ((List.range 64).filter fun m => s.trust.departing.getLsbD m).foldl State.closeSession s

/-- The sectors of a die's RDC homed on a departing member are invalidated; the dirty ones dropped, with KIND 2. -/
def State.invalidateDeparting (s : State) (die : Nat) : State :=
  let d := s.trust.departing
  ((s.rdcOf die).filter fun x => match s.memberOf (256 * x.1) with
    | none => false
    | some m => d.getLsbD m).foldl (fun s x =>
      (if x.2.dirty = 0 then s else s.dropSector (256 * x.1) die 2).setSector die x.1 .invalid) s

/-- BARRIER_PASS: keys, epoch, entries, sectors and held crossings change in one step (R380). -/
def State.pass (s : State) : State :=
  let s1 := ((List.range 8).foldl (fun s d => s.invalidateDeparting d) s).closeDeparting
  let s2 := s1.onTrust fun t =>
    { t.passMembers with
        epoch := t.epoch + 1, dstate := if t.anyStays then .active else .alone, arrivals := [],
        released := false, sendSeq := [], laneIn := t.laneNext, laneNext := []
        busy := t.busy.bind TrustBusy.afterBarrier
        res := if t.busy = some .barrier then 0 else t.res }
  s2.answerEpochs

/-- The arrivals received from the other members of the arrival set, against this module's own sets. -/
def Trust.agreed (t : Trust) : Bool :=
  (List.range 64).all fun m => t.isSelf m || !(t.arrivalSet.getLsbD m) || t.arrivals.any fun a => a.member == m

def Trust.disagreed (t : Trust) : Bool :=
  t.arrivals.any fun a => t.arrivalSet.getLsbD a.member &&
    (a.epoch != t.epoch + 1 || a.members != t.memberSet || a.departing != t.departing)

/-- A barrier looked at: a disagreement ends it; a module that has arrived passes once every other member has. -/
def State.barrierCheck (s : State) : State :=
  if !s.trust.holds then s
  else if s.trust.disagreed then s.disagree
  else if s.trust.dstate == .arrived && s.trust.agreed then s.pass
  else s

/-- A barrier armed, or armed again (R379, R380). -/
def State.arm (s : State) (again : Bool) : State :=
  (s.onTrust fun t => { t with dstate := .holding, released := false, arrivals := if again then [] else t.arrivals }).barrierCheck

/-- BARRIER_ARRIVE: while HOLDING, every die's RDC makes its domain release; once every crossing sent is answered, the
module arrives (R379). -/
def execBarrierArrive (s : State) : Out :=
  if s.trust.dstate ≠ .holding then .next s
  else
    let s1 := if s.trust.released then s
      else ((List.range 8).foldl (fun s d => s.release d true) s).onTrust fun t => { t with released := true }
    if s1.crossingOut then .next s1
    else .next (s1.onTrust fun t => { t with dstate := .arrived }).barrierCheck

/-- BARRIER_ARRIVAL (R380): an arrival from a member inside its session. -/
def execBarrierArrival (member : Nat) (epoch : BitVec 32) (members departing : BitVec 64) (s : State) : Out :=
  let x := s.trust.member member
  if s.trust.isSelf member || !(x.mstate.stays || x.mstate == .leaving) then .next s
  else .next (s.onTrust fun t =>
    { t with arrivals := (t.arrivals.filter fun a => a.member != member) ++ [⟨member, epoch, members, departing⟩] }).barrierCheck

/-! ### Evictions (R381) -/

/-- The location is homed on a member. -/
def State.homedOn (s : State) (m : Nat) (key : Nat) : Bool := s.memberOf key == some m

/-- Access `k` of command `q` of core `n`, which backs off, fails if it crosses to member `m`. -/
def State.failBackoff (s : State) (m n q k : Nat) : State :=
  match s.anyCmd? n q with
  | none => s
  | some c =>
    if (s.awayLanes n c k).any fun l => l.1 == m then
      (s.gaveUp n c k).onXcmd n q fun c => { c with prog := { c.prog with backoff := c.prog.backoff.filter fun j => j != k } }
    else s

/-- The crossings of a command of core `n` to a member that have been sent and are unacknowledged fail; the sector writes among them
are dropped. -/
def State.failCrossings (s : State) (m n : Nat) (c : Cmd) : State :=
  match c.reqs.filter fun r => s.homedOn m r.key && r.stage.out with
  | [] => c.prog.backoff.foldl (fun s k => s.failBackoff m n c.seq k) s
  | r :: l =>
    let s1 := if isRemote c.ins then (r :: l).foldl (fun s r => s.dropSector r.key (dieOf n) 1) s else s
    s1.failAt n c.seq r 0

/-- A member becomes EVICTED: crossings to it are refused from now on, those unacknowledged fail, and a barrier is armed. -/
def State.evictMember (s : State) (m : Nat) : State :=
  let s1 := (List.range 96).foldl (fun s n => (s.unAt n).queue.foldl (fun s c => s.failCrossings m n c) s) s
  let s2 := s.adrift.foldl (fun s a => s.failCrossings m a.core a.cmd) s1
  (s2.setMstate m .evicted).arm s.trust.holds

/-- EVICT of the host (R370). -/
def execTrustEvict (member : Nat) (s : State) : Out :=
  let t := s.trust
  let x := t.member member
  if t.busy.isSome then .next s
  else if !x.valid then .next (s.trustRes 2)
  else if t.isSelf member || !x.mstate.crosses then .next (s.trustRes 3)
  else .next ((s.trustRes 0).evictMember member)

/-- EVICTION_NOTICE: from a member, about another. -/
def execEvictionNotice (source member : Nat) (s : State) : Out :=
  let t := s.trust
  let y := (t.member source).mstate
  if !(y.stays || y == .leaving) || t.isSelf member || !(t.member member).mstate.crosses then .next s
  else .next (s.evictMember member)

/-! ### Other host commands (R370) -/

/-- The digests of a reference image (R374): five records; none where a record is not of its form. -/
def referenceDigests (v : Nat) : List (BitVec 384) :=
  let recs := (List.range 5).map fun i => v >>> (512 * i) % 2 ^ 512
  if ((List.range 5).all fun i => (recs.getD i 0) % 256 == i + 1 && (recs.getD i 0) / 2 ^ 392 == 0)
  then recs.map fun r => BitVec.ofNat 384 (r / 256) else []

/-- ATTEST: the engine starts the exchange as requester. -/
def execAttest (member : Nat) (s : State) : Out :=
  let t := s.trust
  let x := t.member member
  if t.busy.isSome then .next s
  else if !x.valid then .next (s.trustRes 2)
  else if t.isSelf member || x.mstate != .none || !(t.member t.self.toNat).valid then .next (s.trustRes 3)
  else if !(s.imageOk t.cmdAddr 320) then .next (s.trustRes 4)
  else
    let r := s.homeReadLong 3 t.cmdAddr.toNat 320
    if r.2.2 then .next (r.1.trustRes 4)
    else .next (r.1.onTrust fun t => { t with busy := some (.attest member) }.setMember member
      { x with mstate := .attesting, refs := referenceDigests r.2.1, steps := 0 })

/-- REMOVE. -/
def execRemove (member : Nat) (s : State) : Out :=
  let t := s.trust
  let x := t.member member
  if t.busy.isSome then .next s
  else if !x.valid then .next (s.trustRes 2)
  else if t.isSelf member then .next (s.trustRes 3)
  else match x.mstate with
    | .pending => .next ((s.leaves member).trustRes 0)
    | .active => .next ((s.setMstate member .leaving).trustRes 0)
    | .none => .next (s.trustRes 3)
    | .attesting => .next (s.trustRes 3)
    | .leaving => .next (s.trustRes 3)
    | .evicted => .next (s.trustRes 3)

/-- BARRIER. -/
def execBarrier (s : State) : Out :=
  let t := s.trust
  let pending := (List.range 64).any fun m => (t.member m).mstate == .pending
  if t.busy.isSome then .next s
  else if t.dstate == .active || (t.dstate == .alone && pending) then
    .next ((s.onTrust fun t => { t with busy := some .barrier }).arm false)
  else .next (s.trustRes 3)

/-- LOGCLR. -/
def execLogclr (s : State) : Out :=
  if s.trust.busy.isSome then .next s
  else if s.trust.holds then .next (s.trustRes 3)
  else .next (s.onTrust fun t => { t with dropLog := [], res := 0 })

/-- TRUST_BAD_COMMAND. -/
def execTrustBadCommand (op : BitVec 4) (s : State) : Out :=
  if s.trust.busy.isSome ∨ (1 ≤ op.toNat ∧ op.toNat ≤ 5) then .next s else .next (s.trustRes 1)

/-- SELF_WRITE (R368). -/
def execSelfWrite (v : Word) (s : State) : Out :=
  if s.trust.dstate = .alone then .next (s.onTrust fun t => { t with self := v.setWidth 6 }) else .next s

/-- MEMBER_ENTRY_WRITE (R368): ignored unless MSTATE is NONE. -/
def execMemberEntryWrite (i : Nat) (v : Word) (s : State) : Out :=
  let x := s.trust.member i
  if x.mstate ≠ .none then .next s
  else .next (s.onTrust fun t => t.setMember i
    { x with valid := v.getLsbD 0, isPeer := v.getLsbD 1, mod := v.extractLsb' 2 4, peer := v.extractLsb' 6 12 })

/-- REATTESTATION_TIMER (R374): the measurements of an ACTIVE member that an ATTEST here has checked are asked for again. -/
def execReattestationTimer (member : Nat) (s : State) : Out :=
  let x := s.trust.member member
  if s.trust.attestPeriod = 0 ∨ s.trust.isSelf member = true ∨ x.mstate ≠ .active ∨ x.refs = [] then .next s
  else .next (s.onTrust fun t => t.setMember member { x with steps := 7 })

/-! ### Trust commands of cores (R385, R386) -/

/-- MSTATE as R368 numbers it. -/
def MState.code : MState → Nat
  | .none => 0 | .attesting => 1 | .pending => 2 | .active => 3 | .leaving => 4 | .evicted => 5

/-- DSTATE as R368 numbers it. -/
def DState.code : DState → Nat
  | .alone => 0 | .active => 1 | .holding => 2 | .arrived => 3

/-- TEPOCH's 16 bytes. -/
def Trust.epochBytes (t : Trust) : Nat :=
  t.epoch.toNat + t.dstate.code * 2 ^ 32 + t.self.toNat * 2 ^ 40 + (t.those fun _ x => x.mstate.crosses).toNat * 2 ^ 64

/-- TSTAT's 16 bytes. -/
def Trust.statBytes (t : Trust) (m : Nat) : Nat :=
  let x := t.member m
  x.mstate.code + (x.valid.toNat + 2 * x.isPeer.toNat) * 2 ^ 8 + x.mod.toNat * 2 ^ 16 + x.peer.toNat * 2 ^ 32 +
    x.mauth * 2 ^ 64

/-- TLOG's 16 bytes. -/
def Trust.logBytes (t : Trust) (k : Nat) : Nat := (t.dropLog.getD k 0).toNat

/-- The wait of a TBARR whose release is made: answered at once, or kept by the trust engine (R385). -/
def State.tbarrWait (s : State) (n : Nat) (c : Cmd) (o : CfOp) : State :=
  let target : BitVec 32 := c.a.setWidth 32
  if epochReached s.trust.epoch target then s.cmdDone n c.seq o.f (some 4)
  else match s.refAt n with
    | none => s.dropCmd n c.seq
    | some w => (s.dropCmd n c.seq).onTrust fun t => { t with waits := t.waits ++ [⟨w, o.f, target⟩] }

/-- A TBARR's release, sector by sector, and then its wait. -/
def State.tbarr (s : State) (n : Nat) (c : Cmd) (o : CfOp) (words : BitVec 1024) : State :=
  s.releaseThen n c 4 words fun s => s.tbarrWait n c o

/-- A TBARR's release may go on: what precedes it has performed, and no crossing of it is held (R379, R385). -/
def State.tbarrDue (s : State) (n seq : Nat) : Bool := s.settled n seq 0xFFFF && !s.releaseHeld (dieOf n)

/-- TRUST_COMMAND_ACT. `words`: which words of a result land now (R25), or the sector that a TBARR's release visits (R98). -/
def execTrustCommandAct (core : Nat) (w : CmdWords 1024) (s : State) : Out :=
  match s.cmd? core w.seq with
  | none => .next s
  | some c => match c.ins with
    | .tepoch o => .next (s.cmdResult core c o.f c.b.toNat 16 s.trust.epochBytes w.words)
    | .tstat o => .next (s.cmdResult core c o.f c.b.toNat 16 (s.trust.statBytes c.a.toNat) w.words)
    | .tlog o => .next (s.cmdResult core c o.f c.b.toNat 16 (s.trust.logBytes c.a.toNat) w.words)
    | .tbarr o => if s.tbarrDue core w.seq then .next (s.tbarr core c o w.words) else .next s
    | _ => .next s

end Sys2Proof.Machine
end

