-- ==== Sys2Proof/Machine/Retire.lean ====
section
/-!
DEFINITION. The ends of tasks and cards (R22, R43, R44, R49, R165, R280, R325): a drained core is freed, a card's completion
record is written, and what ended tasks leave behind is discarded.
-/

namespace Sys2Proof.Machine

/-! ### A task ends (R49, R165, R325) -/

/-- The four engine queues of a core are empty (R22): nothing queued, no closed batch, no arm outstanding (R265). -/
def Untimed.drained (u : Untimed) : Bool :=
  u.queue.isEmpty && (u.batches.all fun b => b.isOpen) && (u.arms.toList.all fun a => a.isNone) && u.released.isEmpty

/-- No result, push or drain is in flight: what was in flight at END has landed (R115). -/
def Timed.settled (t : Timed) : Bool := t.inFlight.isEmpty && t.arr.pushes.isEmpty && t.arr.drains.isEmpty

/-- TASK_DRAIN_COMPLETE is due on core `n`. -/
def State.drainDue (s : State) (n : Nat) : Option Task := match (s.coreAt n).task with
  | none => none
  | some k =>
    if (k.phase = .failed ∨ (k.phase = .draining ∧ (s.coreAt n).timed.settled)) ∧ k.late = none ∧ (s.unAt n).drained ∧
        (s.adrift.all fun a => a.who != k.ref) then some k
    else none

/-- The lowest stream slot that is OPEN. -/
def Task.openSlot (k : Task) : Option (Nat × StreamSlot) :=
  (k.streams.toList.zipIdx.filterMap fun x => x.1.map fun y => (x.2, y)).head?

/-- Why a DRAINING task is FAILED, if it is (R49, R325): a failure of an engine or of a batch without a flag, else a stream
left open. -/
def State.drainFailure (s : State) (n : Nat) (k : Task) : Option FaultInfo :=
  match (s.unAt n).flagless with
  | some f => some { kind := 2, code := f.op, slot := 0, replays := 0, detail := 0, reached := f.reached, faddr := f.faddr }
  | none => k.openSlot.map fun x =>
    { kind := 2, code := 0x40, slot := 0, replays := 0, detail := BitVec.ofNat 64 x.1,
      reached := BitVec.ofNat 64 (s.streamPairs x.2.handle x.2.uid), faddr := 0 }

/-- TASK_DRAIN_COMPLETE (R49): the core is freed; a DRAINING task is DONE or FAILED, a FAILED one has been since its trap. -/
def execTaskDrainComplete (core : Nat) (s : State) : Out :=
  match s.drainDue core with
  | none => .next s
  | some k =>
    if k.phase = .failed then .next (s.endTask core k id)
    else match s.drainFailure core k with
      | none => .next (s.endTask core k fun c => { c with done := c.done + 1 })
      | some i =>
        let s1 := s.logFault (dieOf core) (faultRec core (s.coreAt core) k k.endPc i)
        .next ((s1.regionFail k.rcb k.cardIdx k.taskIdx.toNat i.reached 0).endTask core k id)

/-! ### Completion records (R43, R44) -/

/-- STATUS of a card (R43). A launch failure comes before a failed task and a CANCEL of the same card (log entry 59, DESIGN CHOICE:
R43 ranks TASK_FAULT over CANCELLED alone). -/
def Card.status (c : Card) : Nat :=
  if !c.valid then 1 else if c.launchFail ≠ 0 then c.launchFail.toNat else if c.failed.isSome then 4
  else if c.kept then 5 else 0

/-- The 32 bytes of a record. -/
def Card.record (c : Card) (phase : Bool) : Nat :=
  cardTag c.raw + (c.status + 2 ^ 8 * phase.toNat + 2 ^ 32 * (c.failed.getD 0xFFFFFFFF)) <<< 64 +
    (c.done % 2 ^ 32 + 2 ^ 32 * (c.reached.toNat % 2 ^ 32)) <<< 128 + (c.cycles % 2 ^ 64) <<< 192

/-- The dies on which tasks of a card ran (R106). -/
def Card.diesRun (c : Card) : List Nat := (List.range 8).filter c.dies.getLsbD

/-- An exchange command of a task of card `j` goes on after the task was evicted, or discarded (R361). -/
def State.cardAdrift (s : State) (a : Nat) (j : BitVec 32) : Bool := s.adrift.any fun x => x.who.rcb == a && x.who.cardIdx == j

/-- The record of card `j` of a region is due and not held (R44): its tasks' accesses have all been made (R106); while crossings are
held (R379), one whose release would cross waits. -/
def State.recordReady (s : State) (a j : Nat) : Option (Region × Card) :=
  match s.region? a with
  | none => none
  | some r => match recordDue r r.cards j true with
    | none => none
    | some c => if r.cqFull || s.cardAdrift a c.idx || c.diesRun.any s.releaseHeld then none else some (r, c)

/-- The region after the record of card `c`. -/
def Region.recorded (r : Region) (c : Card) : Region :=
  let i := (r.cqTail.toNat + 1) % 2 ^ r.cqLog2
  ({ r with
      cqTail := r.cqTail + 1
      cqPhase := if i = 0 then !r.cqPhase else r.cqPhase
      cards := r.cards.filter fun x => x.idx != c.idx } : Region).settle

/-- An interrupt vector raised to the host; 0 raises none. -/
def State.interrupt (s : State) (v : BitVec 16) : State := if v = 0 then s else { s with irqs := s.irqs ++ [v] }

/-- COMPLETION_RECORD (R43, R44, R106): on every die that ran a task of the card the release of the card's writes, the
record, the D fields, the interrupt. -/
def execCompletionRecord (die slot card : Nat) (s : State) : Out :=
  let a := ((s.dcu die).slot slot).rcb
  match s.recordReady a card with
  | none => .next s
  | some (r, c) =>
    let at' := r.cqBase + 32 * (r.cqTail.toNat % 2 ^ r.cqLog2)
    if s.dcuHeld at' 32 || s.dcuHeld a 256 || c.diesRun.any s.releaseHeld then .next s
    else
      let s1 := c.diesRun.foldl (fun s d => s.release d true) s
      let s2 := s1.dcuWrite at' 32 (c.record r.cqPhase)
      let s3 := (s2.onRegion a fun r => r.recorded c).writeD a
      .next (s3.interrupt (BitVec.ofNat 16 r.irq))

/-! ### What ended tasks leave behind (R280, R325) -/

/-- The open streams and the held waits of a task that has ended are discarded. -/
def State.forget (s : State) (x : TaskRef × List StreamSlot) : State :=
  let s1 := x.2.foldl (fun s y => s.abortStream y.handle y.uid) s
  { s1 with
    vertex := s1.vertex.map fun v => { v with waits := v.waits.filter fun w => w.who != some x.1 }
    trust := { s1.trust with waits := s1.trust.waits.filter fun w => w.who != x.1 } }

/-- After every step: what ended tasks left behind goes, what a barrier held back is done (R379), BUSY falls, unneeded RCBs are let
go, a choice of a victim for a region where nothing waits is withdrawn (R46), and a cache that has grown beyond its size replaces
sectors (R9). -/
def State.sweep (s : State) : State :=
  let s1 := s.orphans.foldl State.forget { s with orphans := [] }
  s1.actDelayed.tidy.withdrawIdle.trimCaches

end Sys2Proof.Machine
end

