-- ==== Sys2Proof/Machine/FaultLog.lean ====
section
/-!
DEFINITION. The fault log of a die control unit (R389, R390): its entries, and the host's writes of its registers.
-/

namespace Sys2Proof.Machine

/-- The 256 bytes of an entry (R390). -/
def entryFieldsOf (r : FaultRec) : List Field :=
  [⟨0x00, 8, r.info.code.toNat + 2 ^ 8 * r.info.kind.toNat + 2 ^ 11 * r.info.slot.toNat + 2 ^ 16 * r.info.replays.toNat +
      2 ^ 40 * r.core⟩,
   ⟨0x08, 8, r.info.detail.toNat⟩,
   ⟨0x10, 4, r.regionId.toNat⟩, ⟨0x14, 4, r.cardSeq.toNat⟩,
   ⟨0x18, 8, r.taskIdx.toNat + 2 ^ 32 * (r.pc.toNat % 2 ^ 17)⟩,
   ⟨0x20, 8, r.info.reached.toNat⟩, ⟨0x28, 8, r.info.faddr.toNat⟩,
   ⟨0x30, 8, r.branch.toNat⟩, ⟨0x38, 8, r.markv.toNat⟩, ⟨0x40, 8, r.tcycle.toNat⟩] ++
  shiftFields 0x48 (loopFields r.loop)

/-- One more entry not written; the count saturates. -/
def FaultLog.lose (f : FaultLog) : FaultLog :=
  { f with lost := if f.lost = 0xFFFFFFFF then f.lost else f.lost + 1 }

/-- The first entry that need not wait, and the others in their order. -/
def FaultLog.pick (f : FaultLog) : List FaultRec → Option (FaultRec × List FaultRec)
  | [] => none
  | r :: l =>
    if f.waits r then (f.pick l).map fun x => (x.1, r :: x.2)
    else some (r, l)

def State.onLog (s : State) (die : Nat) (f : FaultLog → FaultLog) : State :=
  s.onDcu die fun d => { d with flog := f d.flog }

/-- FAULT_LOG_ENTRY (R389): the next entry is written to its home, then FLOG_TAIL advances, then the interrupt follows; or it
is dropped and counted. A REPLAY that waited for it is acted on now. -/
def execFaultLogEntry (die : Nat) (s : State) : Out :=
  let f := (s.dcu die).flog
  match f.pick f.queue with
  | none => .next s
  | some (r, rest) =>
    let held := fun (s : State) => if r.info.kind = 1 then s.answerAsked r.core else s
    if !f.en || f.full then .next (held (s.onLog die fun f => { f.lose with queue := rest }))
    else
      let s1 := s.dcuWrite (f.base.toNat + 256 * (f.tail.toNat % 2 ^ f.log2.toNat)) 256 (packFields (entryFieldsOf r))
      let s2 := s1.onLog die fun f => { f with tail := f.tail + 1, queue := rest }
      .next (held (s2.interrupt f.irq))

/-- The address lies in HBM4 stack `die` of this module. -/
def State.inStack (s : State) (die a : Nat) : Bool := s.home a == .hbm die

/-- FLOG_BASE_WRITE (R389): ignored while entries are unread, and unless aligned and homed in the DCU's own stack. -/
def execFlogBaseWrite (die : Nat) (v : Word) (s : State) : Out :=
  let f := (s.dcu die).flog
  let a := bits v.toNat 51 0
  if f.tail ≠ f.head ∨ a % 256 ≠ 0 ∨ !s.inStack die a then .next s
  else .next (s.onLog die fun f => { f with base := BitVec.ofNat 52 a })

/-- FLOG_LOG2_WRITE (R389): 17 to 31 store 16. -/
def execFlogLog2Write (die : Nat) (v : Word) (s : State) : Out :=
  let f := (s.dcu die).flog
  if f.tail ≠ f.head then .next s
  else .next (s.onLog die fun f => { f with log2 := BitVec.ofNat 5 (min 16 (bits v.toNat 4 0)) })

/-- FLOG_EN_WRITE (R389): a write that sets it while FLOG_BASE is not homed in the DCU's own stack is ignored. -/
def execFlogEnWrite (die : Nat) (v : Word) (s : State) : Out :=
  let on := bit v.toNat 0
  if on ∧ !s.inStack die (s.dcu die).flog.base.toNat then .next s
  else .next (s.onLog die fun f => { f with en := on })

/-- FLOG_HEAD_WRITE (R389). -/
def execFlogHeadWrite (die : Nat) (v : Word) (s : State) : Out :=
  .next (s.onLog die fun f => { f with head := v.setWidth 32 })

end Sys2Proof.Machine
end

