-- ==== Sys2Proof/Machine/Health.lean ====
section
/-!
DEFINITION. The health of the module (R392-R394, R397, R400, R401): errors that arise in memory and in SRAM, the patrol
scrubber, and the control of power.
-/

namespace Sys2Proof.Machine

/-! ### Memory errors (R392-R394) -/

/-- The granule lies in this module's HBM4 or LPDDR-6. -/
def State.granuleHere (s : State) (g : Nat) : Bool := s.onModule (32 * g) 32

/-- The memory unit of a granule (R94). -/
def granuleUnit (g : Nat) : Nat := 32 * g / 2 ^ 44 % 16

/-- CECOUNT of a memory unit gains 1; it saturates (R400). -/
def State.countCorrected (s : State) (u : Nat) : State :=
  { s with ctl := { s.ctl with ceCount := s.ctl.ceCount.setIfInBounds u (satAdd48 (s.ctl.ceCount.toList.getD u 0) 1) } }

/-- What the finding of an error in a granule of memory does: corrected and counted, or poisoned with a health entry. A granule
that is poisoned holds the reserved pattern, which is no new error. -/
def State.granuleFound (s : State) (g kind : Nat) : ScrubFinding → State
  | .clean => s
  | .correctable => if s.poison.contains g then s else s.countCorrected (granuleUnit g)
  | .uncorrectable =>
    if s.poison.contains g then s else (s.addPoison [g]).health kind (granuleUnit g) 0 (32 * g) 0

/-- PATROL_SCRUB (R393): stopped by a SCRUB_PERIOD of 0. -/
def execPatrolScrub (granule : Nat) (e : ScrubFinding) (s : State) : Out :=
  if s.ctl.sstate ≠ .ready ∨ s.ctl.scrubPeriod = 0 ∨ !s.granuleHere granule then .next s
  else .next (s.granuleFound granule 3 e)

/-- An uncorrectable error in a sector of an RDC (R394): a clean sector is invalidated, a dirty one has the granule poisoned. -/
def State.rdcError (s : State) (die sector g : Nat) : State :=
  let x := s.sector die sector
  if x.dirty = 0 then s.setSector die sector .invalid
  else (s.setSector die sector { x with poison := x.poison ||| BitVec.twoPow 8 (g % 8) }).health 5 die 0
    (256 * sector + 32 * (g % 8)) 0

/-- An uncorrectable error in a sector of an L2 (R394). -/
def State.l2Error (s : State) (die sector g : Nat) (dirty : Bool) : State :=
  let key := 256 * sector + 32 * (g % 8)
  if s.home key != .hbm die then s
  else if dirty then (s.addPoison [key / 32]).health 5 die 0 key 0
  else { s with l2 := s.l2.setIfInBounds die (Store.set false (s.l2.toList.getD die []) sector false) }

/-- The places of a core's timed-domain state that an error marks, by the kinds of R388: of the scratchpad the 32 bytes of a granule. -/
def sitesOf (kind n : Nat) : List MarkSite := match kind with
  | 0 => [.scalar (n % 64)]
  | 1 => [.vector (n % 160)]
  | 2 => [.mask (n % 16)]
  | 3 => [.accRow (n % 1536)]
  | 4 => [.array]
  | 5 => [.loopBuffer (n % 64)]
  | _ => granuleSites (n % 262144)

/-- An uncorrectable error arises. -/
def State.errorArises (s : State) : MemErrorSite → State
  | .dram g e => if s.granuleHere g then s.granuleFound g 4 e else s
  | .rdc die sector g _ => s.rdcError die sector g
  | .l2 die sector g dirty _ => s.l2Error die sector g dirty
  | .dictionary core i _ => s.onCore core fun c =>
      if c.image.badDict.contains i then c else { c with image := { c.image with badDict := c.image.badDict ++ [i] } }
  | .timedState core kind n _ => s.onCore core fun c =>
      { c with marks := c.marks ++ (sitesOf kind n).filter fun m => !(c.marks.contains m) }
  | .vertexRecord die obj _ =>
    s.onVx die fun v => if v.bad.contains obj || v.moved.contains obj then v else { v with bad := v.bad ++ [obj] }
  | .tableCopy t _ => if s.badTables.contains t || !s.tableValid t then s else { s with badTables := s.badTables ++ [t] }
  | .bin u r k _ => s.onUnit u fun x =>
      if x.bad.contains (r, k) || !((x.region? r).any fun g => g.bins.any fun b => b.key == k) then x
      else { x with bad := x.bad ++ [(r, k)] }
  | .streamBin u r q k _ => s.onUnit u fun x =>
      if x.badOpen.contains (q, k) || !((x.region? r).any fun g => g.streams.any fun st => st.uid == q && st.bins.any fun b => b.key == k)
      then x else { x with badOpen := x.badOpen ++ [(q, k)] }

/-- The code corrects the error. -/
def errorCorrected : MemErrorSite → Bool
  | .dram _ _ => false
  | .rdc _ _ _ c | .l2 _ _ _ _ c | .dictionary _ _ c | .timedState _ _ _ c | .vertexRecord _ _ c | .tableCopy _ c
  | .bin _ _ _ c | .streamBin _ _ _ _ c => c

/-- MEMORY_ERROR (R392-R394, R397): in memory it is found in the step in which it arises, as by a demand read; in SRAM an error
that the code corrects has no effect. -/
def execMemoryError (x : MemErrorSite) (s : State) : Out :=
  if s.ctl.sstate ≠ .ready ∨ errorCorrected x then .next s else .next (s.errorArises x)

/-! ### Power and temperature (R400, R401) -/

/-- Something of a reading trips the module: the sensor or rail, and its value. -/
def Control.tripping (c : Control) (x : SensorReadings) : Option (Nat × Nat) :=
  match x.temps.toList.zipIdx.find? fun y => decide (c.tTrip.toNat ≤ y.1.toNat) with
  | some y => some (y.2, y.1.toNat)
  | none => ((x.volts.toList.zipIdx.find? fun y =>
      let floor := c.vTrip.toList.getD y.2 0
      decide (floor ≠ 0 ∧ y.1.toNat < floor.toNat))).map fun y => (y.2, y.1.toNat)

/-- A rail stands below its nonzero VLOW. -/
def Control.railLow (c : Control) (v : Vector (BitVec 16) 18) (i : Nat) : Bool :=
  let floor := c.vLow.toList.getD i 0
  decide (floor ≠ 0) && decide ((v.toList.getD i 0).toNat < floor.toNat)

/-- PWRSTEP rises: a temperature, the power or a rail calls for it. -/
def Control.mustSlow (c : Control) : Bool :=
  (c.temps.toList.any fun t => decide (c.tThrot.toNat ≤ t.toNat)) || decide (c.pwrCap.toNat < c.pwrNow.toNat) ||
    (List.range 18).any (c.railLow c.volts)

/-- PWRSTEP falls: every temperature, the power and every rail allow it. -/
def Control.mayQuicken (c : Control) : Bool :=
  (c.temps.toList.all fun t => decide (t.toNat + 80 < c.tThrot.toNat)) && decide (c.pwrNow.toNat + 100 < c.pwrCap.toNat) &&
    (List.range 18).all fun i => !(c.railLow c.volts i)

/-- The next PWRSTEP. -/
def Control.nextStep (c : Control) : Nat :=
  let n := c.pwrStep.toNat
  if c.mustSlow then min 8 (n + 1) else if c.mayQuicken then n - 1 else n

/-- The readings taken in. -/
def Control.read (c : Control) (x : SensorReadings) : Control :=
  { c with temps := x.temps, volts := x.volts, pwrNow := x.power, rosc := x.rosc }

/-- An oscillator has moved more than 10 % from the value of the last cold start. -/
def drifted (cold now : BitVec 32) : Bool :=
  decide (cold.toNat < 10 * (now.toNat - cold.toNat)) || decide (cold.toNat < 10 * (cold.toNat - now.toNat))

/-- The health entries of a reading, `old` being the readings before it: TWARN crossed upward, a rail fallen below VLOW, an
oscillator drifted. -/
def State.readingEntries (s : State) (old : Control) : State :=
  let c := s.ctl
  let warm := (List.range 25).filter fun i =>
    decide ((old.temps.toList.getD i 0).toNat < c.tWarn.toNat) && decide (c.tWarn.toNat ≤ (c.temps.toList.getD i 0).toNat)
  let low := (List.range 18).filter fun i => c.railLow c.volts i && !(old.railLow old.volts i)
  let off := (List.range 17).filter fun i =>
    let cold := c.roscCold.toList.getD i 0
    c.measured && drifted cold (c.rosc.toList.getD i 0) && !(drifted cold (old.rosc.toList.getD i 0))
  let s1 := warm.foldl (fun s i => s.health 7 i 0 0 (c.temps.toList.getD i 0).toNat) s
  let s2 := low.foldl (fun s i => s.health 9 i 0 0 (c.volts.toList.getD i 0).toNat) s1
  off.foldl (fun s i => s.health 10 i 0 0 (c.rosc.toList.getD i 0).toNat) s2

/-- What is left when everything outside the controller is lost (R401, R403): the memory of the host and of peers, what the
host has been told, and the model's own counters; `ctl` is the controller's block. -/
def State.lost (s : State) (ctl : Control) : State :=
  { State.reset with
    mem := s.mem.filter fun x => decide (2 ^ 52 ≤ x.1)
    poison := s.poison.filter fun g => decide (2 ^ 47 ≤ g)
    myMod := s.myMod
    xchg := .reset s.myMod
    ctl := ctl
    irqs := s.irqs
    agenda := s.agenda
    norder := s.norder
    nuid := s.nuid
    free := s.free }

/-- The module trips (R401): HASHM keeps its values, which only supply applied resets (R203). -/
def State.trip (s : State) (unit value : Nat) : State :=
  let s1 := s.health 11 unit 0 0 value
  { s1.lost { s1.ctl with sstate := .tripped, cold := false } with
    hbm := s.hbm.map fun h => { Hbm.reset with hashM := h.hashM } }

/-- PWRSTEP follows a reading, and a change of it is logged (R401). -/
def State.stepPower (s : State) : State :=
  let n := s.ctl.nextStep
  let s1 : State := { s with ctl := { s.ctl with pwrStep := BitVec.ofNat 4 n } }
  if n = s.ctl.pwrStep.toNat then s1 else s1.health 8 0 0 0 n

/-- POWER_CONTROL_TICK (R401). -/
def execPowerControlTick (x : SensorReadings) (s : State) : Out :=
  let old := s.ctl
  let s1 := (({ s with ctl := old.read x } : State).readingEntries old).stepPower
  if s.ctl.sstate = .tripped then .next s1
  else match old.tripping x with
    | some (u, v) => .next (s1.trip u v)
    | none => .next s1

/-- MODULE_TRIP (R401). -/
def execModuleTrip (x : SensorReadings) (s : State) : Out :=
  if s.ctl.sstate = .tripped then .next s
  else match s.ctl.tripping x with
    | none => .next s
    | some (u, v) => .next ((({ s with ctl := s.ctl.read x } : State).readingEntries s.ctl).trip u v)

/-- PWRCAP_WRITE (R400): above 2,400 stores 2,400. -/
def execPwrcapWrite (v : Word) (s : State) : Out :=
  .next { s with ctl := { s.ctl with pwrCap := BitVec.ofNat 12 (min 2400 (bits v.toNat 11 0)) } }

end Sys2Proof.Machine
end

