-- ==== Sys2Proof/Machine/Start.lean ====
section
/-!
DEFINITION. Starts, power and the masks of the HBM4 interleave (R203, R204, R400, R403, R404): what a start abandons, what
it clears, and where each byte of a stack stands once its masks have changed.
-/

namespace Sys2Proof.Machine

/-! ### The masks (R203, R204) -/

/-- A value that HASHM `i` refuses: bits 9:0 not all zero, bit 10 + i clear, or another of bits 15:10 set. -/
def hashRefused (i : Nat) (v : Nat) : Bool :=
  decide (bits v 9 0 ≠ 0) || decide (bits v 15 10 ≠ 2 ^ i)

/-- HASHM_WRITE. -/
def execHashmWrite (stack i : Nat) (v : Word) (s : State) : Out :=
  if 6 ≤ i then .next s
  else if hashRefused i v.toNat then .next (s.onHbm stack fun h => { h with hashErr := true })
  else .next (s.onHbm stack fun h => { h with hashM := h.hashM.setIfInBounds i (v.setWidth 44) })

/-- CNTCLR: every PCREQ becomes 0. -/
def execCntclr (stack : Nat) (s : State) : Out := .next (s.onHbm stack fun h => { h with pcreq := [] })

/-- The bits 15:10 in which the maps of two sets of masks differ at a local address: the parity of the address bits that the
two masks do not share. -/
def hashShift (old new : Vector (BitVec 44) 6) (a : Nat) : Nat :=
  (List.range 6).foldl (fun p i =>
    p + parity44 (a / 2 ^ 16 * 2 ^ 16 &&& ((old.toList.getD i 0) ^^^ (new.toList.getD i 0)).toNat) * 2 ^ (10 + i)) 0

/-- The address at which a byte of this module's memory reads after a start in which the module's number becomes `pos` and
HASHA the values of HASHM. -/
def State.movedAddr (s : State) (pos a : Nat) : Nat :=
  let u := a / 2 ^ 44 % 16
  let l := a % 2 ^ 44
  let l1 := if h : u < 8 then
      let x := s.hbm.get ⟨u, h⟩
      l ^^^ hashShift x.hashA x.hashM l
    else l
  pos * 2 ^ 48 + u * 2 ^ 44 + l1

/-- Memory as it reads after a warm start. -/
def State.movedMem (s : State) (pos : Nat) : Memory :=
  s.mem.foldl (fun (m : Memory) x => m.setByte (if x.1 < 2 ^ 52 then s.movedAddr pos x.1 else x.1) x.2) []

/-- The poisoned granules after a warm start. -/
def State.movedPoison (s : State) (pos : Nat) : List Nat :=
  s.poison.map fun g => if g < 2 ^ 47 then s.movedAddr pos (32 * g) / 32 else g

/-! ### Steps of a start (R403) -/

/-- The rack ring as the module finds it with its own number `pos` (R404). -/
def State.rackAt (s : State) (pos : BitVec 4) : Exchange :=
  { Exchange.reset pos with
    rackMap := putBit (putBit s.xchg.rackMap s.myMod.toNat false) pos.toNat true }

/-- Steps 4 to 6: every array, cache and register block at its reset value but the controller's and HASHM; memory is given. -/
def State.restarted (s : State) (pos : BitVec 4) (mem : Memory) (poison : List Nat) (ctl : Control) : State :=
  { s.lost { ctl with sstate := .ready, sres := 0 } with
    mem := mem
    poison := poison
    myMod := pos
    xchg := s.rackAt pos
    hbm := s.hbm.map fun h => { Hbm.reset with hashM := h.hashM, hashA := h.hashM } }

/-- A start that ends in FAILED: the work is abandoned and the registers reset; memory, and what the caches hold of it, stay. -/
def State.startFails (s : State) (r : BitVec 4) : State :=
  { s.lost { s.ctl with sstate := .failed, sres := r } with
    mem := s.mem
    poison := s.poison
    rdc := s.rdc
    l2 := s.l2
    xchg := s.rackAt s.myMod
    hbm := s.hbm.map fun h => { Hbm.reset with hashM := h.hashM, hashA := h.hashA } }

/-- COLD_START (R403). -/
def execColdStart (x : StartChecks) (s : State) : Out :=
  if s.ctl.sstate = .starting then .next s
  else if !x.fwOk then .next (s.startFails 3)
  else if !x.trainOk then .next (s.startFails 4)
  else .next (s.restarted x.position (s.mem.filter fun c => decide (2 ^ 52 ≤ c.1)) (s.poison.filter fun g => decide (2 ^ 47 ≤ g))
    { s.ctl with roscCold := s.ctl.rosc, cold := true, measured := true })

/-- One dirty sector of an RDC at a warm start (step 3): written back when this module homes it, else dropped with a health
entry. -/
def State.saveSector (s : State) (die : Nat) (x : Nat × RdcSector) : State :=
  if x.2.dirty = 0 then s
  else if s.sectorIn false x.1 then s.writeHome x.1 x.2
  else s.health 12 die 0 (256 * x.1) 0

/-- Step 3 of a warm start. -/
def State.saveCaches (s : State) : State :=
  (List.range 8).foldl (fun s d => (s.rdcOf d).foldl (fun s x => s.saveSector d x) s) s

/-- WARM_START (R403). -/
def execWarmStart (x : StartChecks) (s : State) : Out :=
  if s.ctl.sstate = .starting then .next s
  else if !s.ctl.cold then .next { s with ctl := { s.ctl with sres := 2 } }
  else if !x.fwOk then .next (s.startFails 5)
  else
    let s1 := ({ s with ctl := { s.ctl with sstate := .starting } } : State).saveCaches
    .next (s1.restarted x.position (s1.movedMem x.position.toNat) (s1.movedPoison x.position.toNat) s1.ctl)

/-- START_OP_INVALID (R400): 0 and 3 give SRES 1. -/
def execStartOpInvalid (op : BitVec 2) (s : State) : Out :=
  if s.ctl.sstate = .starting ∨ op = 1 ∨ op = 2 then .next s else .next { s with ctl := { s.ctl with sres := 1 } }

/-- SUPPLY_LOSS (R13, R403): no part of the module keeps state. -/
def execSupplyLoss (s : State) : Out := .next (s.lost .reset)

/-- POWER_ON (R403): every register at its reset value; a cold start has to follow. -/
def execPowerOn (s : State) : Out := .next (s.lost Control.reset)

end Sys2Proof.Machine
end

