-- ==== Sys2Proof/Machine/Registers.lean ====
section
/-!
DEFINITION. A host write to a register of the module's register window (R37, R203, R257, R287, R310, R354, R368, R389, R400):
which register an offset names, and what the write does. Read-only and unlisted offsets ignore it.
-/

namespace Sys2Proof.Machine

/-- The `n` bits from bit `l` on of a value written. -/
def fieldOf (v : Word) (l n : Nat) : BitVec n := v.extractLsb' l n

/-! ### Commands that a write starts -/

/-- CMD_OP of a DCU (R41). -/
def dcuOp (n : Nat) (v : Word) (s : State) : Out :=
  let id : BitVec 32 := fieldOf v 16 32
  match bits v.toNat 7 0 with
  | 1 => execEvict n id s
  | 2 => execCancel n id s
  | 3 => execEnable n id s
  | 4 => execFlushImage n s
  | 5 => execReplay n id s
  | op => execDcuBadCommand n (BitVec.ofNat 8 op) s

/-- CMD_OP of a Vertex (R258). -/
def vertexOp (n : Nat) (v : Word) (s : State) : Out :=
  let obj := bits v.toNat 19 0
  match bits v.toNat 27 24 with
  | 1 => execInitSync n obj s
  | 2 => execInitPhaser n obj s
  | 3 => execFreeObject n obj s
  | 4 => execReadObject n obj s
  | 5 => execBreakPhaser n obj s
  | op => execVertexBadCommand n (BitVec.ofNat 4 op) obj s

/-- CMD_OP of a PBC (R289). -/
def pbcOp (n : Nat) (v : Word) (s : State) : Out :=
  let t := bits v.toNat 25 16
  match bits v.toNat 7 0 with
  | 1 => execTload n t s
  | 2 => execTdrop n t s
  | 3 => execTread n t s
  | 4 => execHotload n t s
  | 5 => execHotflush n t s
  | 6 => execSkclr n (t % 16) s
  | op => execPbcBadCommand n (BitVec.ofNat 8 op) s

/-- CMD_OP of a Lattice instance (R311). -/
def latticeOp (u : Nat) (v : Word) (s : State) : Out :=
  let r := bits v.toNat 9 0
  match bits v.toNat 19 16 with
  | 1 => execRinit u r s
  | 2 => execRfree u r s
  | 3 => execRread u r s
  | 4 => execRflush u r s
  | 5 => execRabort u r s
  | op => execLatticeBadCommand u (BitVec.ofNat 4 op) r s

/-- CMD_OP of the trust engine (R370). -/
def trustOp (v : Word) (s : State) : Out :=
  let m := bits v.toNat 13 8
  match bits v.toNat 3 0 with
  | 1 => execAttest m s
  | 2 => execRemove m s
  | 3 => execBarrier s
  | 4 => execTrustEvict m s
  | 5 => execLogclr s
  | op => execTrustBadCommand (BitVec.ofNat 4 op) s

/-! ### One block after another -/

/-- A DCU's block (R37, R389). -/
def writeDcu (n off : Nat) (v : Word) (s : State) : Out :=
  let set := fun (f : Dcu → Dcu) => Host.Outcome.next (s.onDcu n f)
  if 0x1000 ≤ off ∧ off < 0x3000 then
    (if v.getLsbD 63 then execBind n ((off - 0x1000) / 8) (fieldOf v 0 52) s else execUnbind n ⟨(off - 0x1000) / 8, fieldOf v 0 52⟩ s)
  else if 0x8000 ≤ off ∧ off < 0xA000 then execDoorbell n ((off - 0x8000) / 8) (fieldOf v 0 32) (fieldOf v 32 32) s
  else match off with
    | 0x0000 => set fun d => { d with dispatchEn := v.getLsbD 0 }
    | 0x0008 => execPeriodWrite n (fieldOf v 0 32) s
    | 0x0010 => set fun d => { d with cmdArg := v }
    | 0x0018 => dcuOp n v s
    | 0xA000 => execFlogBaseWrite n v s
    | 0xA008 => execFlogLog2Write n v s
    | 0xA018 => execFlogHeadWrite n v s
    | 0xA028 => set fun d => { d with flog := { d.flog with irq := fieldOf v 0 16 } }
    | 0xA038 => execFlogEnWrite n v s
    | _ => .next s

/-- A stack's block (R203). HASHERR is cleared by writing 1. -/
def writeHbm (n off : Nat) (v : Word) (s : State) : Out :=
  if off < 0x30 then execHashmWrite n (off / 8) v s
  else if off = 0x80 then
    let s1 := s.onHbm n fun h => { h with hashErr := h.hashErr && !v.getLsbD 0 }
    if v.getLsbD 1 then execCntclr n s1 else .next s1
  else .next s

/-- The host command in progress at a Vertex acts and ends (R258), with CMD_ADDR as it stood at its start. -/
def runVertexCommand (n : Nat) (s : State) : Out :=
  match (s.vxOf n).busy with
  | none => .next s
  | some v =>
    andThen (vertexOp n v (s.onVx n fun u => { u with busy := none, cmdAddr := u.cmdAt })) fun t =>
      .next (t.onVx n fun u => { u with cmdAddr := (s.vxOf n).cmdAddr })

/-- The host command in progress at a Lattice instance acts and ends (R311), with CMD_ADDR as it stood at its start. -/
def runLatticeCommand (u : Nat) (s : State) : Out :=
  match (s.unitOf u).busy with
  | none => .next s
  | some v =>
    andThen (latticeOp u v (s.onUnit u fun x => { x with busy := none, cmdAddr := x.cmdAt })) fun t =>
      .next (t.onUnit u fun x => { x with cmdAddr := (s.unitOf u).cmdAddr })

/-- A Vertex's block (R257). CFG_ERR is cleared by writing 1; a CMD_OP starts its command, unless one is in progress. -/
def writeVertex (n off : Nat) (v : Word) (s : State) : Out :=
  match off with
  | 0x000 => execOvfBaseWrite n v s
  | 0x008 => execObjCountWrite n v s
  | 0x010 => .next (s.onVx n fun u => { u with cmdAddr := fieldOf v 0 52 })
  | 0x018 => .next (s.onVx n fun u => if u.busy.isSome then u else { u with busy := some v, cmdAt := u.cmdAddr })
  | 0x020 => .next (s.onVx n fun u => { u with cfgErr := u.cfgErr && !v.getLsbD 16 })
  | _ => .next s

/-- A write of the word that holds HOT_SLOTS and SLOTLOG2: both fields, tested together (R287). -/
def writeHotWord (n : Nat) (v : Word) (s : State) : Out :=
  let l := bits v.toNat 27 24
  if l < 6 ∨ 13 < l then .next (s.onPbc n fun p => { p with cfgErr := true })
  else s.hotWrite n (s.pbcOf n).hotBase (fieldOf v 0 20) (BitVec.ofNat 4 l)

/-- A PBC's block (R287). -/
def writePbc (n off : Nat) (v : Word) (s : State) : Out :=
  if 0x100 ≤ off ∧ off < 0x200 then
    (if (off - 0x100) % 16 = 0 then
      .next (s.onPbc n fun p => { p with
        thresh := put16 p.thresh ((off - 0x100) / 16) (fieldOf v 0 16)
        halve := put16 p.halve ((off - 0x100) / 16) (fieldOf v 16 32) })
    else .next s)
  else match off with
    | 0x000 => execHotBaseWrite n v s
    | 0x008 => writeHotWord n v s
    | 0x010 => execMigLimitWrite n v s
    | 0x018 => .next (s.onPbc n fun p => { p with cmdAddr := fieldOf v 0 52 })
    | 0x020 => .next (s.onPbc n fun p => { p with cmdArg := v })
    | 0x028 => pbcOp n v s
    | 0x030 => .next (s.onPbc n fun p => { p with cfgErr := p.cfgErr && !v.getLsbD 8 })
    | _ => .next s

/-- A Lattice instance's block (R310). -/
def writeLattice (u off : Nat) (v : Word) (s : State) : Out :=
  match off with
  | 0x000 => .next (s.onUnit u fun x => { x with cmdAddr := fieldOf v 0 52 })
  | 0x008 => .next (s.onUnit u fun x => if x.busy.isSome then x else { x with busy := some v, cmdAt := x.cmdAddr })
  | _ => .next s

/-- The exchange engine's tables (R354). -/
def writeExchange (off : Nat) (v : Word) (s : State) : Out :=
  if 0x8000 ≤ off ∧ off < 0x8200 then execNrankWrite ((off - 0x8000) / 8) v s
  else if 0x10000 ≤ off ∧ off < 0x18000 then
    .next (s.onXchg fun x => { x with ranks := Store.set 0 x.ranks ((off - 0x10000) / 8) (fieldOf v 0 26) })
  else if 0x20000 ≤ off ∧ off < 0x30000 ∧ off % 16 = 0 then
    let i := (off - 0x20000) / 16
    .next (s.onXchg fun x => x.onPeer i fun p => { p with faddr := fieldOf v 0 48, pvalid := v.getLsbD 63 })
  else .next s

/-- The trust engine's block (R368). -/
def writeTrust (off : Nat) (v : Word) (s : State) : Out :=
  if 0x100 ≤ off ∧ off < 0x500 then
    (if off % 16 = 0 then execMemberEntryWrite ((off - 0x100) / 16) v s else .next s)
  else match off with
    | 0x010 => execSelfWrite v s
    | 0x018 => .next (s.onTrust fun t => { t with attestPeriod := fieldOf v 0 32 })
    | 0x020 => .next (s.onTrust fun t => { t with cmdAddr := fieldOf v 0 52 })
    | 0x028 => trustOp v s
    | _ => .next s

/-- The management controller's block (R400), START_OP apart: the write of it that starts the module comes with what the start
finds (COLD_START, WARM_START). -/
def writeControl (off : Nat) (v : Word) (s : State) : Out :=
  let set := fun (f : Control → Control) => Host.Outcome.next ({ s with ctl := f s.ctl } : State)
  if 0x200 ≤ off ∧ off < 0x290 then
    let i := (off - 0x200) / 8
    set fun c => { c with vLow := c.vLow.setIfInBounds i (fieldOf v 16 16), vTrip := c.vTrip.setIfInBounds i (fieldOf v 32 16) }
  else match off with
    | 0x000 => execStartOpInvalid (fieldOf v 0 2) s
    | 0x010 => set fun c => { c with fwAddr := v }
    | 0x018 => set fun c => { c with hlogBase := v }
    | 0x020 => set fun c => { c with hlogLog2 := BitVec.ofNat 5 (min 16 (bits v.toNat 4 0)) }
    | 0x030 => set fun c => { c with hlogHead := fieldOf v 0 32 }
    | 0x040 => set fun c => { c with scrubPeriod := fieldOf v 0 32 }
    | 0x050 => execPwrcapWrite v s
    | 0x060 => set fun c => { c with tThrot := fieldOf v 0 16, tTrip := fieldOf v 16 16, tWarn := fieldOf v 32 16 }
    | _ => .next s

/-- REGISTER_WRITE: an aligned 64-bit write at an offset of the register window. -/
def execRegisterWrite (off : Nat) (v : Word) (s : State) : Out :=
  if off % 8 ≠ 0 then .next s
  else
    let n := off / 0x10000 % 16
    match off / 0x100000 with
    | 1 => if n < 8 then writeDcu n (off % 0x10000) v s else .next s
    | 2 => if off % 0x100000 / 0x1000 < 8 then writeHbm (off % 0x100000 / 0x1000) (off % 0x1000) v s else .next s
    | 3 => if n < 8 then writeVertex n (off % 0x10000) v s else .next s
    | 4 => if n < 8 then writePbc n (off % 0x10000) v s else .next s
    | 5 => writeLattice n (off % 0x10000) v s
    | 6 => writeExchange (off % 0x100000) v s
    | 7 => writeTrust (off % 0x100000) v s
    | 8 => writeControl (off % 0x100000) v s
    | _ => .next s

end Sys2Proof.Machine
end

