-- ==== Sys2Proof/Machine/Spdm.lean ====
section
/-!
DEFINITION. SPDM 1.3 as the trust engine speaks it (R370-R374): the requests it answers, and the responses to its own.
What the cryptography finds is given with each message.
-/

namespace Sys2Proof.Machine

/-! ### As responder -/

/-- The connection of a requester. -/
def State.conn (s : State) (w : Requester) : Spdm :=
  (s.spdm.find? fun x => x.who == w).getD ⟨w, 0, false, false, 0, 0, false⟩

/-- The connection of a requester changed. -/
def State.putConn (s : State) (x : Spdm) : State := { s with spdm := (s.spdm.filter fun y => y.who != x.who) ++ [x] }

/-- The engine answers any module of its rack ring and any PVALID peer (R370). -/
def State.answers (s : State) (w : Requester) : Bool := if w.isPeer then (s.peer w.num).pvalid else s.inRack w.num

/-- A request that the engine answers, if the connection has got as far as `stage`: version, capabilities and algorithms come in this
order in SPDM 1.3, which R371 names (log entry 72, PRESUMED). -/
def State.onConn (s : State) (w : Requester) (stage : Nat) (f : Spdm → Spdm) : Out :=
  let x := s.conn w
  if s.answers w && decide (stage ≤ x.stage) then .next (s.putConn (f x)) else .next s

/-- The member entry that a requester matches. -/
def State.entryOf (s : State) (w : Requester) : Option Nat := s.trust.memberFor w.isPeer w.num

/-- GET_VERSION (R371): a connection starts over. -/
def execGetVersion (w : Requester) (s : State) : Out := s.onConn w 0 fun x => { x with stage := 1 }
/-- GET_CAPABILITIES. -/
def execGetCapabilities (w : Requester) (s : State) : Out := s.onConn w 1 fun x => { x with stage := 2 }
/-- NEGOTIATE_ALGORITHMS (R372): any set but the one supported is refused. -/
def execNegotiateAlgorithms (w : Requester) (set : Algorithms) (s : State) : Out :=
  s.onConn w 2 fun x => if set = .negotiated then { x with stage := 3 } else x
/-- GET_DIGESTS: answered from the two certificate slots. -/
def execGetDigests (w : Requester) (s : State) : Out := s.onConn w 3 id
/-- GET_CERTIFICATE (R373): slots 0 and 1. -/
def execGetCertificate (w : Requester) (slot : Nat) (s : State) : Out := if 1 < slot then .next s else s.onConn w 3 id
/-- CHALLENGE (R371). -/
def execChallenge (w : Requester) (slot : Nat) (s : State) : Out := if 1 < slot then .next s else s.onConn w 3 id
/-- GET_MEASUREMENTS (R374). -/
def execGetMeasurements (w : Requester) (s : State) : Out := s.onConn w 3 id

/-- KEY_EXCHANGE (R370, R374): a session with a requester that matches a VALID entry in NONE, other than the module's own,
takes that entry to ATTESTING, or where its secrets fail back to NONE with RES 4 (R369); any other is ended. Where that ends an exchange
that its FINISH had not closed, the entry's check has failed. -/
def execKeyExchange (w : Requester) (ok : Bool) (s : State) : Out :=
  let x := s.conn w
  if !s.answers w || decide (x.stage < 3) then .next s
  else match s.entryOf w with
    | none => .next (s.putConn { x with session := false, finished := false })
    | some m =>
      if !s.trust.isSelf m && (s.trust.member m).mstate == .none then
        let s1 := (s.putConn { x with session := true, finished := false }).setMstate m .attesting
        .next (if ok then s1 else s1.checkFails m)
      else
        let s1 := s.putConn { x with session := false, finished := false }
        .next (if x.session && !x.finished && (s.trust.member m).mstate == .attesting then s1.checkFails m else s1)

/-- FINISH: the entry becomes PENDING where every check of R373 passes, or NONE if one fails (R369). -/
def execFinish (w : Requester) (found : Proofs) (s : State) : Out :=
  let x := s.conn w
  match s.entryOf w with
  | none => .next s
  | some m =>
    if !x.session || x.finished || (s.trust.member m).mstate != .attesting then .next s
    else if found.ok then .next ((s.putConn { x with finished := true }).setMstate m .pending)
    else .next (s.checkFails m)

/-- KEY_UPDATE, in session. -/
def execKeyUpdate (w : Requester) (s : State) : Out :=
  let x := s.conn w
  if x.session && x.finished then .next (s.putConn { x with keyUpdates := x.keyUpdates + 1 }) else .next s
/-- HEARTBEAT, in session: it changes nothing. -/
def execHeartbeat (_w : Requester) (s : State) : Out := .next s
/-- END_SESSION: an exchange not finished fails its check. -/
def execEndSession (w : Requester) (s : State) : Out :=
  let x := s.conn w
  if !x.session then .next s
  else
    let s1 := s.putConn { x with session := false, finished := false }
    match s.entryOf w with
    | none => .next s1
    | some m => if (s.trust.member m).mstate = .attesting ∧ x.finished = false then .next (s1.checkFails m) else .next s1

/-- CHUNK_SEND: the chunks of a message come in order, numbered from 0 (SPDM 1.3; log entry 72, PRESUMED). -/
def execChunkSend (w : Requester) (chunk : Nat) (last : Bool) (s : State) : Out :=
  s.onConn w 2 fun x =>
    if chunk = (if x.chunking then x.nextChunk else 0) then
      { x with chunking := !last, nextChunk := if last then 0 else chunk + 1 } else x
/-- CHUNK_GET: the answer's chunk is sent; nothing else changes. -/
def execChunkGet (w : Requester) (_chunk : Nat) (s : State) : Out := s.onConn w 2 id
/-- SLH_DSA_SIGNATURE_REQUEST (R373). -/
def execSlhDsaSignatureRequest (w : Requester) (s : State) : Out := s.onConn w 3 id
/-- UNSUPPORTED_REQUEST (R371): ERROR(UnsupportedRequest), and nothing changes. -/
def execUnsupportedRequest (_w : Requester) (_code : BitVec 8) (s : State) : Out := .next s

/-! ### As requester -/

/-- The step of the exchange that a response answers, and whether its checks pass (R371-R374). The steps: version,
capabilities, algorithms, digests, the two certificate chains, CHALLENGE, measurements, KEY_EXCHANGE, FINISH; `noStep` where none is
awaited. -/
def answerStep (refs : List (BitVec 384)) (step : Nat) : SpdmAnswer → Option Bool
  | .version ok => if step = 0 then some ok else none
  | .capabilities ok => if step = 1 then some ok else none
  | .algorithms set => if step = 2 then some (decide (set = .negotiated)) else none
  | .digests => if step = 3 then some true else none
  | .certificate slot chainOk same => if step = 4 + slot ∧ slot < 2 then some (chainOk && same) else none
  | .challenge rsaOk slhOk => if step = 6 then some (rsaOk && slhOk) else none
  | .measurements l rsaOk slhOk => if step = 7 then some (rsaOk && slhOk && l == refs && l.length == 5) else none
  | .keyExchange secretsOk rsaOk slhOk => if step = 8 then some (secretsOk && rsaOk && slhOk) else none
  | .finish ok => if step = 9 then some ok else none
  | .error => some false

/-- An ATTEST ends: BUSY clears (R370), and no answer is awaited any more. -/
def State.attestEnds (s : State) (m : Nat) (x : MState) (r : BitVec 4) : State :=
  let s1 := if x = .none then s.leaves m else s.setMstate m x
  s1.onTrust fun t =>
    let t1 := t.setMember m { t.member m with steps := noStep }
    if t1.busy = some (.attest m) then { t1 with busy := none, res := r } else t1

/-- SPDM_RESPONSE (R369, R371-R374): a step of an ATTEST passes or fails; the answer to a re-attestation confirms the member
or evicts it. A response to a step not asked for is ignored. -/
def execSpdmResponse (member : Nat) (r : SpdmAnswer) (s : State) : Out :=
  let x := s.trust.member member
  match answerStep x.refs x.steps r with
  | none => .next s
  | some ok =>
    if x.mstate = .attesting ∧ s.trust.busy = some (.attest member) then
      if !ok then .next (s.attestEnds member .none 4)
      else
        let s1 := s.onTrust fun t => t.setMember member { x with steps := x.steps + 1 }
        if x.steps = 9 then .next (s1.attestEnds member .pending 0) else .next s1
    else if x.mstate.crosses && x.steps == 7 && !s.trust.isSelf member then
      if ok then .next (s.onTrust fun t => t.setMember member { x with steps := noStep }) else .next (s.evictMember member)
    else .next s

end Sys2Proof.Machine
end

