-- ==== Sys2Proof/Machine/Cycle.lean ====
section
/-!
DEFINITION. What happens next: a cycle of one core (R20, R128-R131), the passing of a cycle of the module (R35), the steps that
its engines may take, and what reaches it from outside.
-/

namespace Sys2Proof.Machine

/-! ### A cycle of a core -/

/-- TCYCLE counts a timed cycle (R152). -/
def Timed.countCycle (t : Timed) : Timed := { t with sp := { t.sp with tcycle := t.sp.tcycle + 1 } }

/-- The end of a timed cycle: the drains combine, the pushes accumulate, the results land. -/
def State.endOfCycle (s : State) : Out :=
  andThen (execDrainCombine s) fun s1 =>
  andThen (execAccumulateLanding s1) fun s2 =>
  andThen (execResultLanding s2) fun s3 => .next (s3.setTimed s3.timed.countCycle)

/-- A cycle of a core whose task is RUNNING: an eviction takes effect at the boundary, or the head of issue issues and the timed
domain advances, or it is held and only the IDLE count does. -/
def State.runCycle (s : State) : Out :=
  if (s.boundaryAt s.focus.val).isSome then execEvictionBoundary s.focus.val s
  else match s.verdict with
    | .issue b w => andThen (s.issue b w) State.endOfCycle
    | .skip => andThen (execLoopSkip s) State.endOfCycle
    | .idle | .late _ | .trap _ _ | .hold _ => andThen (execHeadOfIssue s) execIdleExpiry

/-- A cycle of a core while its freeze line is held between bundles (R52, R92): only the IDLE count falls, and it stops from the
boundary of an eviction on, which saves the count that was left there (R163, R172). -/
def State.frozenCycle (s : State) (k : Task) : Out :=
  if (s.boundaryAt s.focus.val).isSome then execEvictionBoundary s.focus.val s
  else if k.phase = .evicting then .next s
  else execIdleExpiry s

/-- The closed batches of a core in which every command has completed or stopped (R187). -/
def Untimed.closedDue (u : Untimed) : List Nat := (u.batches.filter fun b => !b.isOpen && !(u.pendingOf b.id)).map (·.id)

/-- What a core does in a cycle by the phase of its task. -/
def State.phaseCycle (s : State) (k : Task) : Out :=
  match k.phase with
  | .running => s.runCycle
  | .draining => s.endOfCycle
  | .faultHold | .evicting => s.frozenCycle k
  | .loading | .failed => .next s

/-- One cycle of the focused core: a cycle charged to its region (R35), and what its phase lets it do; a closed batch whose commands
have all completed or stopped before it completes in it, and at no other time (R187, R188). -/
def State.coreCycle (s : State) : Out :=
  match s.core.task with
  | none => .next s
  | some k =>
    (s.un.closedDue).foldl (fun o b => andThen o (execBatchComplete s.focus.val b))
      ((s.charge s.focus.val).phaseCycle k)

/-- BPCYC of every instance that asserts back-pressure counts one more cycle (R310). -/
def State.countPressed (s : State) : State :=
  (List.range 16).foldl (fun s u =>
    if s.unitPressed u then s.onUnit u fun x => { x with bpcyc := satAdd48 x.bpcyc 1 } else s) s

/-- The turn of the next core; after the last one a cycle of the module has passed. -/
def State.nextFocus (s : State) : State :=
  if h : s.focus.val + 1 < 96 then { s with focus := ⟨s.focus.val + 1, h⟩ }
  else { s with focus := 0, wall := s.wall + 1 }.countPressed

/-- The focused core's cycle, and the turn of the next. -/
def State.turn (s : State) : Out := andThen s.coreCycle fun s1 => .next s1.nextFocus

/-! ### Steps that may happen at any time -/

/-- A step that a part of the module outside the cores' timed domains takes: one constructor for each of the table's rows that
the module does of itself at a moment of its own, under its name, and the host commands that a Vertex and a Lattice unit hold
(R257, R309). -/
inductive DeviceStep where
  | budgetPeriodBoundary
  | pinnedChargeReport (die : Nat)
  | armComplete (core arm : Nat)
  | stationSlotReceive (core seq req : Nat) (nack : Bool)
  | nackBackoffExpiry (core seq req : Nat)
  | homeAccess (core seq req : Nat) (words : BitVec 64)
  | stremoRelease (core seq req : Nat)
  | sectorResponse (core seq req : Nat) (words : BitVec 1024)
  | exchangeDelivery (core seq rank off n : Nat) (words : BitVec 1024)
  | partialCombine (core seq bag : Nat) (words : BitVec 1024) (status : BitVec 8)
  | shardLookup (core seq bag shard : Nat)
  | copyPageTranslation (core seq : Nat)
  | sectorRequestIssue (core seq : Nat) (words : BitVec 64)
  | copyCommandComplete (core seq blk : Nat) (words : BitVec 1024)
  | gatherAccept (core seq blk : Nat) (words : BitVec 1024)
  | pbcQueryAnswer (core seq : Nat) (words : BitVec 1024)
  | trustCommandAct (core seq : Nat) (words : BitVec 1024)
  | vertexOperation (core seq : Nat) (words : BitVec 1024)
  | pairIntake (core seq : Nat)
  | streamCommit (core seq : Nat)
  | latticeRegionCommand (core seq : Nat) (words : BitVec 1024)
  | collectiveAccept (core seq blk : Nat) (words : BitVec 1024)
  | dictionaryLoadComplete (core : Nat)
  | contextRestore (core : Nat)
  | tlbWalkComplete (core : Nat)
  | taskDrainComplete (core : Nat)
  | contextSave (core : Nat)
  | saveComplete (core : Nat)
  | jobCardRead (die slot : Nat)
  | completionRecord (die slot card : Nat)
  | dispatchDecision (die : Nat)
  | faultLogEntry (die : Nat)
  | rdcReplacement (die sector : Nat) (words : BitVec 64)
  | vertexRecordMove (die obj : Nat)
  | migrationInSwitch (pbc slot : Nat)
  | migrationTimeout (pbc slot : Nat)
  | demotionSwitch (pbc slot : Nat)
  | earlyApply (unit region key : Nat)
  | binSpillMove (unit region key : Nat) (toSpill : Bool)
  | barrierArrive
  | vertexCommand (die : Nat)
  | latticeCommand (unit : Nat)
deriving DecidableEq, Repr

/-- What a step does: the meaning of its row. -/
def DeviceStep.run (x : DeviceStep) (s : State) : Out :=
  match x with
  | .budgetPeriodBoundary => execBudgetPeriodBoundary s
  | .pinnedChargeReport die => execPinnedChargeReport die s
  | .armComplete core arm => execArmComplete core arm s
  | .stationSlotReceive core seq req nack => execStationSlotReceive (.own core seq req nack) s
  | .nackBackoffExpiry core seq req => execNackBackoffExpiry core seq req s
  | .homeAccess core seq req words => execHomeAccess (.core core seq req words) s
  | .stremoRelease core seq req => execStremoRelease core seq req s
  | .sectorResponse core seq req words => execSectorResponse core seq req words s
  | .exchangeDelivery core seq rank off n words => execExchangeDelivery (.own core seq rank off n words) s
  | .partialCombine core seq bag words status => execPartialCombine core seq ⟨bag, words, status⟩ s
  | .shardLookup core seq bag shard => execShardLookup core seq bag shard s
  | .copyPageTranslation core seq => execCopyPageTranslation core seq s
  | .sectorRequestIssue core seq words => execSectorRequestIssue core ⟨seq, words⟩ s
  | .copyCommandComplete core seq blk words => execCopyCommandComplete core ⟨seq, blk, words⟩ s
  | .gatherAccept core seq blk words => execGatherAccept core ⟨seq, blk, words⟩ s
  | .pbcQueryAnswer core seq words => execPbcQueryAnswer core ⟨seq, words⟩ s
  | .trustCommandAct core seq words => execTrustCommandAct core ⟨seq, words⟩ s
  | .vertexOperation core seq words => execVertexOperation core ⟨seq, words⟩ s
  | .pairIntake core seq => execPairIntake core seq s
  | .streamCommit core seq => execStreamCommit core seq s
  | .latticeRegionCommand core seq words => execLatticeRegionCommand core ⟨seq, words⟩ s
  | .collectiveAccept core seq blk words => execCollectiveAccept core ⟨seq, blk, words⟩ s
  | .dictionaryLoadComplete core => execDictionaryLoadComplete core s
  | .contextRestore core => execContextRestore core s
  | .tlbWalkComplete core => execTlbWalkComplete core s
  | .taskDrainComplete core => execTaskDrainComplete core s
  | .contextSave core => execContextSave core s
  | .saveComplete core => execSaveComplete core s
  | .jobCardRead die slot => execJobCardRead die slot s
  | .completionRecord die slot card => execCompletionRecord die slot card s
  | .dispatchDecision die => execDispatchDecision die s
  | .faultLogEntry die => execFaultLogEntry die s
  | .rdcReplacement die sector words => execRdcReplacement die ⟨sector, words⟩ s
  | .vertexRecordMove die obj => execVertexRecordMove die obj s
  | .migrationInSwitch pbc slot => execMigrationInSwitch pbc slot s
  | .migrationTimeout pbc slot => execMigrationTimeout pbc slot s
  | .demotionSwitch pbc slot => execDemotionSwitch pbc slot s
  | .earlyApply unit region key => execEarlyApply unit region key s
  | .binSpillMove unit region key toSpill => execBinSpillMove unit region key toSpill s
  | .barrierArrive => execBarrierArrive s
  | .vertexCommand die => runVertexCommand die s
  | .latticeCommand unit => runLatticeCommand unit s

/-- Which words an engine moves in a step that may move any of them (R25, R95), and which sector or block it turns to: free values. -/
structure Grain where
  words : BitVec 1024
  blk : Nat

/-- The grain that a free value gives (log entry 3, DESIGN CHOICE). -/
def State.grain (s : State) : Grain :=
  ⟨(Config.freeBits s.free).extractLsb' 3072 1024, ((Config.freeBits s.free).extractLsb' 3000 32).toNat⟩

/-- A step that moves every word, and the same with the words of a grain. -/
def Grain.steps (g : Grain) (f : BitVec 1024 → DeviceStep) : List DeviceStep := [f (BitVec.allOnes 1024), f g.words]

/-- The steps that a sector request may take (R185, R343, R350). -/
def Grain.reqSteps (g : Grain) (n q : Nat) (r : Req) : List DeviceStep :=
  match r.stage with
  | .window => []
  | .ring => [.stationSlotReceive n q r.id false, .stationSlotReceive n q r.id true]
  | .backoff => [.nackBackoffExpiry n q r.id]
  | .rdc | .home => g.steps fun w => .homeAccess n q r.id (w.setWidth 64)
  | .held => [.stremoRelease n q r.id]
  | .done => g.steps fun w => .sectorResponse n q r.id w

/-- The steps that the pieces of a collective may take (R359). -/
def Grain.blockSteps (g : Grain) (n q : Nat) (b : XBlock) : List DeviceStep :=
  (List.range ((b.len + 255) / 256)).flatMap fun p =>
    .stationSlotReceive n q (pieceKey b.rank p) true :: g.steps fun w => .exchangeDelivery n q b.rank (256 * p) 256 w

/-- The steps that the bags of a gather command may take (R297). -/
def Grain.gatherSteps (g : Grain) (n : Nat) (c : Cmd) (x : GatherProg) : List DeviceStep :=
  (List.range x.bags.length).flatMap fun b =>
    [.partialCombine n c.seq b (BitVec.allOnes 1024) (BitVec.allOnes 8), .partialCombine n c.seq b g.words (BitVec.ofNat 8 g.blk)] ++
      ((x.bags[b]?.map fun y => y.shards x.desc).getD []).flatMap fun k =>
        [.shardLookup n c.seq b k, .stationSlotReceive n c.seq (bucketKey b k) true]

/-- The steps of the engine that a command is for. -/
def Grain.engineSteps (g : Grain) (n q : Nat) : Engine → List DeviceStep
  | .copy | .none =>
    [.copyPageTranslation n q, .copyCommandComplete n q 0 (BitVec.allOnes 1024), .copyCommandComplete n q g.blk g.words,
     .gatherAccept n q 0 (BitVec.allOnes 1024), .gatherAccept n q g.blk g.words] ++
      (g.steps fun w => .sectorRequestIssue n q (w.setWidth 64)) ++
      (g.steps fun w => .pbcQueryAnswer n q w) ++ (g.steps fun w => .trustCommandAct n q w)
  | .vertex => g.steps fun w => .vertexOperation n q w
  | .lattice => [.pairIntake n q, .streamCommit n q] ++ (g.steps fun w => .latticeRegionCommand n q w)
  | .exchange => [.collectiveAccept n q 0 (BitVec.allOnes 1024), .collectiveAccept n q g.blk g.words]

/-- The steps that a queued command may take: its engine's, the refusal of its access by a station and the end of a back-off (R343),
and those of its parts. -/
def State.cmdSteps (s : State) (g : Grain) (n : Nat) (c : Cmd) : List DeviceStep :=
  g.engineSteps n c.seq c.eng ++
  ([0, walkAccess].filter (s.travels n c)).map (fun k => .stationSlotReceive n c.seq k true) ++
  c.prog.backoff.map (fun k => .nackBackoffExpiry n c.seq k) ++ c.reqs.flatMap (g.reqSteps n c.seq) ++ c.prog.blocks.flatMap (g.blockSteps n c.seq) ++
  (match c.prog.gather with
    | none => []
    | some x => g.gatherSteps n c x)

/-- An arm slot that has counted its bytes (R272), or a released arm whose arrival does not travel. -/
def State.dueArm (s : State) : Option DeviceStep :=
  (List.range 96).findSome? fun n =>
    ((List.range (4 + (s.unAt n).released.length)).find? fun i =>
      (s.armDue n i).any fun a => decide (i < 4) || !(s.armFar n a)).map fun i => .armComplete n i

/-- The steps of the arrivals of core `n`'s released arms that travel: taken in, refused, or sent again (R343). -/
def State.armSteps (s : State) (n : Nat) : List DeviceStep :=
  ((List.range (s.unAt n).released.length).flatMap fun i =>
    match s.armDue n (4 + i) with
    | some a => if s.armFar n a then [.armComplete n (4 + i), .stationSlotReceive n a.seq 0 true] else []
    | none => []) ++ ((s.unAt n).released.filter fun a => a.backoff).map fun a => .nackBackoffExpiry n a.seq 0

/-- The steps outside the timed domain that a core's task and queues may take. -/
def State.coreSteps (s : State) (g : Grain) (n : Nat) : List DeviceStep :=
  let c := s.coreAt n
  match c.task with
  | none => []
  | some k =>
    (match k.phase with
      | .loading => [.dictionaryLoadComplete n, .contextRestore n]
      | .running => if (s.walkDue n).isSome then [.tlbWalkComplete n] else []
      | .draining | .failed => if (s.drainDue n).isSome then [.taskDrainComplete n] else []
      | .evicting => [.contextSave n, .saveComplete n]
      | .faultHold => if k.hold.any fun h => h.asked != 0 then [.tlbWalkComplete n] else []) ++
    c.un.queue.flatMap (s.cmdSteps g n) ++ s.armSteps n

/-- The steps of a die's DCU and RDC, and of its Vertex with the host command that it holds. -/
def State.dieSteps (s : State) (g : Grain) (d : Nat) : List DeviceStep :=
  let u := s.dcu d
  (u.slots.flatMap fun x => .jobCardRead d x.1 ::
    (match s.region? x.2.rcb with
      | none => []
      | some r => r.cards.map fun c => .completionRecord d x.1 c.idx.toNat)) ++
  (if s.regions.isEmpty then [] else [.dispatchDecision d]) ++
  (if u.flog.queue.isEmpty then [] else [.faultLogEntry d]) ++
  (s.rdcOf d).flatMap (fun x => g.steps fun w => .rdcReplacement d x.1 (w.setWidth 64)) ++
  ((s.vxOf d).objs.map fun x => .vertexRecordMove d x.1) ++ if (s.vxOf d).busy.isSome then [.vertexCommand d] else []

/-- The steps of a PBC's hot rows (R305). -/
def State.pbcSteps (s : State) (p : Nat) : List DeviceStep :=
  (s.pbcOf p).hot.flatMap fun x => match x.st with
    | .migIn => [.migrationInSwitch p x.slot, .migrationTimeout p x.slot]
    | .migOut => [.demotionSwitch p x.slot]
    | .resident => []

/-- The steps of a Lattice instance's own choice (R331), and of the host command that it holds. -/
def State.unitSteps (s : State) (u : Nat) : List DeviceStep :=
  ((s.unitOf u).regions.flatMap fun x =>
    (x.2.bins.flatMap fun b => [.earlyApply u x.1 b.key, .binSpillMove u x.1 b.key (!b.spilled)]) ++
      (x.2.streams.flatMap fun t => t.bins.map fun b => .binSpillMove u x.1 b.key (!b.spilled))) ++
    if (s.unitOf u).busy.isSome then [.latticeCommand u] else []

/-- Every step that a part of the module may take now beside the cycles of the cores. One that is not due changes nothing. -/
def State.mayHappen (s : State) : List DeviceStep :=
  let g := s.grain
  (List.range 96).flatMap (s.coreSteps g) ++ (List.range 8).flatMap (s.dieSteps g) ++ (List.range 8).flatMap s.pbcSteps ++
    (List.range 16).flatMap s.unitSteps ++ s.adrift.flatMap (fun a => s.cmdSteps g a.core a.cmd) ++
    (if s.trust.dstate = .holding then [.barrierArrive] else [])

/-- A promotion that has been in MIG_IN for MIG_LIMIT cycles (R305). -/
def State.dueTimeout (s : State) : Option DeviceStep :=
  (List.range 8).findSome? fun p =>
    ((s.pbcOf p).hot.find? fun x => ((s.pbcOf p).inSlot x.slot .migIn).any (s.migTooLong p)).map fun x => .migrationTimeout p x.slot

/-- What comes before everything else: a period boundary and the reports of pinned cycles fall in their own cycle (R35, R47), an arm
slot that has counted its bytes arrives (R272), and a promotion that has taken too long is abandoned (R305). -/
def State.urgent (s : State) : Option DeviceStep :=
  if s.boundaryDue then some .budgetPeriodBoundary
  else match (List.range 8).find? s.pinnedDue with
    | some d => some (.pinnedChargeReport d)
    | none => match s.dueArm with
      | some x => some x
      | none => s.dueTimeout

/-! ### What reaches the module from outside -/

/-- The inputs of the management controller (R400, R401), which alone answers once the module has tripped. -/
def ofController : Instr → Bool
  | .coldStart _ | .warmStart _ | .startOpInvalid _ | .powerOn | .supplyLoss | .powerControlTick _ | .moduleTrip _
  | .pwrcapWrite _ => true
  | .registerWrite off _ => decide (off / 0x100000 = 8)
  | _ => false

/-- The module takes an input in: every one, but only those of the controller once it has tripped (R401). -/
def State.takes (s : State) (i : Instr) : Bool := s.ctl.sstate != .tripped || ofController i

/-! ### The choice -/

/-- What the next step is: an input from outside, a step that cannot wait, one that may happen, or a cycle of the focused core.
Which of these last comes first is a free value (log entry 3, DESIGN CHOICE); `drawn` says that one was drawn for it. -/
inductive Choice where
  | input (i : Instr) (rest : List Instr)
  | now (x : DeviceStep)
  | pick (x : DeviceStep)
  | cycle (drawn : Bool)
deriving DecidableEq, Repr

/-- The choice between the cycle and what may happen beside it. -/
def State.pickOf (s : State) (l : List DeviceStep) : Choice :=
  if l.isEmpty then .cycle false
  else match l[(Config.freeBits s.free).toNat % (l.length + 1)]? with
    | some x => .pick x
    | none => .cycle true

/-- The choice in a state. -/
def State.choice (s : State) : Choice :=
  match s.agenda with
  | i :: l => .input i l
  | [] => match s.urgent with
    | some x => .now x
    | none => s.pickOf s.mayHappen

/-- What a choice comes to; `run` is the meaning of an input. -/
def State.act (s : State) (run : Instr → State → Out) : Choice → Out
  | .input i rest =>
    if s.takes i then run i { s with agenda := rest } else .next { s with agenda := rest }
  | .now x => x.run s
  | .pick x => x.run s.drew
  | .cycle drawn => (if drawn then s.drew else s).turn

/-- One step: what the choice comes to, and what follows of itself. -/
def State.advance (s : State) (run : Instr → State → Out) : Out :=
  andThen (s.act run s.choice) fun s1 => .next s1.sweep

/-! ### A word placed for the next step -/

/-- The bundle of a word of the table's numbering: the instruction that the decoder reads, in its slot; a word that it refuses
stands in the slot of its width as it is. -/
def wordBundle (nbits w : Nat) : BundleBits :=
  match decodeTableWord nbits w with
  | some i => encodeBundle (Bundle.single i)
  | none =>
    let at' := if nbits ≤ 32 then 80 else if nbits ≤ 40 then 8 else if nbits ≤ 48 then 336 else 144
    BitVec.ofNat 384 (w % 2 ^ nbits) <<< at'

/-- The halfwords of a literal of a bundle. -/
def literalHalves (b : BundleBits) : List (BitVec 16) :=
  0xFFFF :: (List.range 24).map fun i => b.extractLsb' (16 * i) 16

/-- Halfwords put into an overlay from `p` on. -/
def putHalves (o : Store (BitVec 16)) (p : Nat) : List (BitVec 16) → Store (BitVec 16)
  | [] => o
  | h :: l => putHalves (Store.set 0 o p h) (p + 1) l

/-- A task that runs. -/
def Task.plain : Task :=
  { rcb := 0, cardIdx := 0, taskIdx := 0, regionId := 0, card := 0, segs := [], phase := .running, lcluster := 0, cycles := 0,
    order := 0, resume := none, evict := none, evictFor := 0, evictAt := 0, saveSlot := none, hold := none, late := none,
    endPc := 0, streams := .replicate 4 none, notes := [], reported := [] }

/-- A core whose head of issue is a literal of `b`: a task RUNNING on it, no loop body, no delay slot, no IDLE count. -/
def Core.placed (c : Core) (b : BundleBits) : Core :=
  { c with
    task := some { c.task.getD .plain with phase := .running, evict := none, hold := none, late := none }
    image := { c.image with
      overlayLen := 131072
      overlay := putHalves c.image.overlay c.timed.seq.pc.toNat (literalHalves b)
      badHalf := []
      badDict := [] }
    timed := { c.timed with seq := { c.timed.seq with bdelay := 0, idle := 0, conflict := 0, walked := false, loop := .idle } } }

/-- A bundle at the head of issue of the focused core, with no input waiting. -/
def State.placed (s : State) (b : BundleBits) : State := { s.setCore (s.core.placed b) with agenda := [] }

end Sys2Proof.Machine
end

