-- ==== Sys2Proof/Machine/Dispatch.lean ====
section
/-! DEFINITION. One arm per step of the part: the one match from an instruction or event to its meaning. -/

namespace Sys2Proof.Machine

def exec (i : Instr) (s : State) : Host.Outcome State Fault Refusal :=
  match i with
  | .headOfIssue => Sys2Proof.Machine.execHeadOfIssue s
  | .resultLanding => Sys2Proof.Machine.execResultLanding s
  | .accumulateLanding => Sys2Proof.Machine.execAccumulateLanding s
  | .drainCombine => Sys2Proof.Machine.execDrainCombine s
  | .idleExpiry => Sys2Proof.Machine.execIdleExpiry s
  | .loopSkip => Sys2Proof.Machine.execLoopSkip s
  | .wait mask => Sys2Proof.Machine.execWait mask s
  | .waitAny mask => Sys2Proof.Machine.execWaitAny mask s
  | .fclr mask => Sys2Proof.Machine.execFclr mask s
  | .waitC mask => Sys2Proof.Machine.execWaitC mask s
  | .endTask => Sys2Proof.Machine.execEndTask s
  | .jmp t => Sys2Proof.Machine.execJmp t s
  | .beqz a t => Sys2Proof.Machine.execBeqz a t s
  | .bnez a t => Sys2Proof.Machine.execBnez a t s
  | .bltz a t => Sys2Proof.Machine.execBltz a t s
  | .bgez a t => Sys2Proof.Machine.execBgez a t s
  | .jmpr a => Sys2Proof.Machine.execJmpr a s
  | .bmt m t => Sys2Proof.Machine.execBmt m t s
  | .bmf m t => Sys2Proof.Machine.execBmf m t s
  | .call t => Sys2Proof.Machine.execCall t s
  | .callr a => Sys2Proof.Machine.execCallr a s
  | .ret => Sys2Proof.Machine.execRet s
  | .rspush a => Sys2Proof.Machine.execRspush a s
  | .rspop d => Sys2Proof.Machine.execRspop d s
  | .loop a p => Sys2Proof.Machine.execLoop a p s
  | .trapi im => Sys2Proof.Machine.execTrapi im s
  | .abort im => Sys2Proof.Machine.execAbort im s
  | .idle im => Sys2Proof.Machine.execIdle im s
  | .mark im => Sys2Proof.Machine.execMark im s
  | .add d a b => Sys2Proof.Machine.execAdd d a b s
  | .sub d a b => Sys2Proof.Machine.execSub d a b s
  | .and d a b => Sys2Proof.Machine.execAnd d a b s
  | .or d a b => Sys2Proof.Machine.execOr d a b s
  | .xor d a b => Sys2Proof.Machine.execXor d a b s
  | .shl d a b => Sys2Proof.Machine.execShl d a b s
  | .shr d a b => Sys2Proof.Machine.execShr d a b s
  | .asr d a b => Sys2Proof.Machine.execAsr d a b s
  | .cmpltI64 d a b => Sys2Proof.Machine.execCmpltI64 d a b s
  | .cmpltN64 d a b => Sys2Proof.Machine.execCmpltN64 d a b s
  | .cmpeq d a b => Sys2Proof.Machine.execCmpeq d a b s
  | .minI64 d a b => Sys2Proof.Machine.execMinI64 d a b s
  | .maxI64 d a b => Sys2Proof.Machine.execMaxI64 d a b s
  | .minN64 d a b => Sys2Proof.Machine.execMinN64 d a b s
  | .maxN64 d a b => Sys2Proof.Machine.execMaxN64 d a b s
  | .addi d a im => Sys2Proof.Machine.execAddi d a im s
  | .andi d a im => Sys2Proof.Machine.execAndi d a im s
  | .ori d a im => Sys2Proof.Machine.execOri d a im s
  | .xori d a im => Sys2Proof.Machine.execXori d a im s
  | .shli d a im => Sys2Proof.Machine.execShli d a im s
  | .shri d a im => Sys2Proof.Machine.execShri d a im s
  | .asri d a im => Sys2Proof.Machine.execAsri d a im s
  | .cmplti d a im => Sys2Proof.Machine.execCmplti d a im s
  | .seth d q im => Sys2Proof.Machine.execSeth d q im s
  | .puth d q im => Sys2Proof.Machine.execPuth d q im s
  | .mul d a b => Sys2Proof.Machine.execMul d a b s
  | .mulhI64 d a b => Sys2Proof.Machine.execMulhI64 d a b s
  | .mulhN64 d a b => Sys2Proof.Machine.execMulhN64 d a b s
  | .divI64 d a b => Sys2Proof.Machine.execDivI64 d a b s
  | .divN64 d a b => Sys2Proof.Machine.execDivN64 d a b s
  | .remI64 d a b => Sys2Proof.Machine.execRemI64 d a b s
  | .remN64 d a b => Sys2Proof.Machine.execRemN64 d a b s
  | .capadd d a b => Sys2Proof.Machine.execCapadd d a b s
  | .capaddi d a im => Sys2Proof.Machine.execCapaddi d a im s
  | .capmk d a k => Sys2Proof.Machine.execCapmk d a k s
  | .capseg d a => Sys2Proof.Machine.execCapseg d a s
  | .capoff d a => Sys2Proof.Machine.execCapoff d a s
  | .faddF32 d a b => Sys2Proof.Machine.execFaddF32 d a b s
  | .fsubF32 d a b => Sys2Proof.Machine.execFsubF32 d a b s
  | .fmulF32 d a b => Sys2Proof.Machine.execFmulF32 d a b s
  | .fmaF32 d a b => Sys2Proof.Machine.execFmaF32 d a b s
  | .fminF32 d a b => Sys2Proof.Machine.execFminF32 d a b s
  | .fmaxF32 d a b => Sys2Proof.Machine.execFmaxF32 d a b s
  | .fcmpltF32 d a b => Sys2Proof.Machine.execFcmpltF32 d a b s
  | .fcmpeqF32 d a b => Sys2Proof.Machine.execFcmpeqF32 d a b s
  | .cvtF32I64 d a => Sys2Proof.Machine.execCvtF32I64 d a s
  | .cvtI64F32 d a => Sys2Proof.Machine.execCvtI64F32 d a s
  | .ldsN8 d a im => Sys2Proof.Machine.execLdsN8 d a im s
  | .ldsI8 d a im => Sys2Proof.Machine.execLdsI8 d a im s
  | .ldsN16 d a im => Sys2Proof.Machine.execLdsN16 d a im s
  | .ldsI16 d a im => Sys2Proof.Machine.execLdsI16 d a im s
  | .ldsN32 d a im => Sys2Proof.Machine.execLdsN32 d a im s
  | .ldsI32 d a im => Sys2Proof.Machine.execLdsI32 d a im s
  | .ldsI64 d a im => Sys2Proof.Machine.execLdsI64 d a im s
  | .stsN8 b a im => Sys2Proof.Machine.execStsN8 b a im s
  | .stsN16 b a im => Sys2Proof.Machine.execStsN16 b a im s
  | .stsN32 b a im => Sys2Proof.Machine.execStsN32 b a im s
  | .stsN64 b a im => Sys2Proof.Machine.execStsN64 b a im s
  | .mfsr d r => Sys2Proof.Machine.execMfsr d r s
  | .mtsr a r => Sys2Proof.Machine.execMtsr a r s
  | .shape d a w => Sys2Proof.Machine.execShape d a w s
  | .vadd o => Sys2Proof.Machine.execVadd o s
  | .vsub o => Sys2Proof.Machine.execVsub o s
  | .vmul o => Sys2Proof.Machine.execVmul o s
  | .vmulh o => Sys2Proof.Machine.execVmulh o s
  | .vadds o => Sys2Proof.Machine.execVadds o s
  | .vsubs o => Sys2Proof.Machine.execVsubs o s
  | .vmin o => Sys2Proof.Machine.execVmin o s
  | .vmax o => Sys2Proof.Machine.execVmax o s
  | .vabs o => Sys2Proof.Machine.execVabs o s
  | .vneg o => Sys2Proof.Machine.execVneg o s
  | .vand o => Sys2Proof.Machine.execVand o s
  | .vor o => Sys2Proof.Machine.execVor o s
  | .vxor o => Sys2Proof.Machine.execVxor o s
  | .vandn o => Sys2Proof.Machine.execVandn o s
  | .vfma o => Sys2Proof.Machine.execVfma o s
  | .vfms o => Sys2Proof.Machine.execVfms o s
  | .vfnma o => Sys2Proof.Machine.execVfnma o s
  | .vmac o => Sys2Proof.Machine.execVmac o s
  | .vrsum o => Sys2Proof.Machine.execVrsum o s
  | .vrmin o => Sys2Proof.Machine.execVrmin o s
  | .vrmax o => Sys2Proof.Machine.execVrmax o s
  | .vrand o => Sys2Proof.Machine.execVrand o s
  | .vror o => Sys2Proof.Machine.execVror o s
  | .vscale o => Sys2Proof.Machine.execVscale o s
  | .vbcast o => Sys2Proof.Machine.execVbcast o s
  | .vmov o => Sys2Proof.Machine.execVmov o s
  | .viota o => Sys2Proof.Machine.execViota o s
  | .vmovi o => Sys2Proof.Machine.execVmovi o s
  | .vcmpeq o => Sys2Proof.Machine.execVcmpeq o s
  | .vcmpne o => Sys2Proof.Machine.execVcmpne o s
  | .vcmplt o => Sys2Proof.Machine.execVcmplt o s
  | .vcmple o => Sys2Proof.Machine.execVcmple o s
  | .vsel o => Sys2Proof.Machine.execVsel o s
  | .vshl o => Sys2Proof.Machine.execVshl o s
  | .vshr o => Sys2Proof.Machine.execVshr o s
  | .vasr o => Sys2Proof.Machine.execVasr o s
  | .vfshl o => Sys2Proof.Machine.execVfshl o s
  | .vfshr o => Sys2Proof.Machine.execVfshr o s
  | .vlut3 o => Sys2Proof.Machine.execVlut3 o s
  | .vpopc o => Sys2Proof.Machine.execVpopc o s
  | .vperm o => Sys2Proof.Machine.execVperm o s
  | .vrot o => Sys2Proof.Machine.execVrot o s
  | .vzip o => Sys2Proof.Machine.execVzip o s
  | .vunzip o => Sys2Proof.Machine.execVunzip o s
  | .vcvt o => Sys2Proof.Machine.execVcvt o s
  | .vcvtw o => Sys2Proof.Machine.execVcvtw o s
  | .vcvts o => Sys2Proof.Machine.execVcvts o s
  | .vunpk4 o => Sys2Proof.Machine.execVunpk4 o s
  | .mand o => Sys2Proof.Machine.execMand o s
  | .mor o => Sys2Proof.Machine.execMor o s
  | .mxor o => Sys2Proof.Machine.execMxor o s
  | .mnot o => Sys2Proof.Machine.execMnot o s
  | .mpopc o => Sys2Proof.Machine.execMpopc o s
  | .vext o => Sys2Proof.Machine.execVext o s
  | .vins o => Sys2Proof.Machine.execVins o s
  | .bstrd o => Sys2Proof.Machine.execBstrd o s
  | .bstclr o => Sys2Proof.Machine.execBstclr o s
  | .scsel o => Sys2Proof.Machine.execScsel o s
  | .xposeN32 d a k => Sys2Proof.Machine.execXposeN32 d a k s
  | .xposeN16 d a k => Sys2Proof.Machine.execXposeN16 d a k s
  | .xposeN8 d a k => Sys2Proof.Machine.execXposeN8 d a k s
  | .xposeb d a k => Sys2Proof.Machine.execXposeb d a k s
  | .mmode m t dir => Sys2Proof.Machine.execMmode m t dir s
  | .mcen a => Sys2Proof.Machine.execMcen a s
  | .mwsh v sr => Sys2Proof.Machine.execMwsh v sr s
  | .mpusha v sr row => Sys2Proof.Machine.execMpusha v sr row s
  | .mpushw v sr row => Sys2Proof.Machine.execMpushw v sr row s
  | .mdrain row => Sys2Proof.Machine.execMdrain row s
  | .maccrd v sr row => Sys2Proof.Machine.execMaccrd v sr row s
  | .maccwr v sr row => Sys2Proof.Machine.execMaccwr v sr row s
  | .maccz row => Sys2Proof.Machine.execMaccz row s
  | .maccov d row => Sys2Proof.Machine.execMaccov d row s
  | .apxrst => Sys2Proof.Machine.execApxrst s
  | .apxwr a sel => Sys2Proof.Machine.execApxwr a sel s
  | .apxrd d sel => Sys2Proof.Machine.execApxrd d sel s
  | .mwclr => Sys2Proof.Machine.execMwclr s
  | .tld o => Sys2Proof.Machine.execTld o s
  | .tst o => Sys2Proof.Machine.execTst o s
  | .tldm o => Sys2Proof.Machine.execTldm o s
  | .tldbp o => Sys2Proof.Machine.execTldbp o s
  | .pref o => Sys2Proof.Machine.execPref o s
  | .strem o => Sys2Proof.Machine.execStrem o s
  | .stremo o => Sys2Proof.Machine.execStremo o s
  | .wcopy o => Sys2Proof.Machine.execWcopy o s
  | .wfill o => Sys2Proof.Machine.execWfill o s
  | .wdecl o => Sys2Proof.Machine.execWdecl o s
  | .wfree o => Sys2Proof.Machine.execWfree o s
  | .dset o => Sys2Proof.Machine.execDset o s
  | .vld o => Sys2Proof.Machine.execVld o s
  | .vst o => Sys2Proof.Machine.execVst o s
  | .vldb o => Sys2Proof.Machine.execVldb o s
  | .vstm o => Sys2Proof.Machine.execVstm o s
  | .fence mask scope kind => Sys2Proof.Machine.execFence mask scope kind s
  | .bclose f => Sys2Proof.Machine.execBclose f s
  | .bwait n => Sys2Proof.Machine.execBwait n s
  | .phreg o => Sys2Proof.Machine.execPhreg o s
  | .phdrop o => Sys2Proof.Machine.execPhdrop o s
  | .pharr o => Sys2Proof.Machine.execPharr o s
  | .phwait o => Sys2Proof.Machine.execPhwait o s
  | .pharm o => Sys2Proof.Machine.execPharm o s
  | .phrd o => Sys2Proof.Machine.execPhrd o s
  | .swld o => Sys2Proof.Machine.execSwld o s
  | .swst o => Sys2Proof.Machine.execSwst o s
  | .aadd o => Sys2Proof.Machine.execAadd o s
  | .amin o => Sys2Proof.Machine.execAmin o s
  | .amax o => Sys2Proof.Machine.execAmax o s
  | .aand o => Sys2Proof.Machine.execAand o s
  | .aor o => Sys2Proof.Machine.execAor o s
  | .axor o => Sys2Proof.Machine.execAxor o s
  | .axchg o => Sys2Proof.Machine.execAxchg o s
  | .acas o => Sys2Proof.Machine.execAcas o s
  | .afaddF32 o => Sys2Proof.Machine.execAfaddF32 o s
  | .gbag o => Sys2Proof.Machine.execGbag o s
  | .gbagw o => Sys2Proof.Machine.execGbagw o s
  | .grows o => Sys2Proof.Machine.execGrows o s
  | .gpref o => Sys2Proof.Machine.execGpref o s
  | .gstat o => Sys2Proof.Machine.execGstat o s
  | .gcntrd o => Sys2Proof.Machine.execGcntrd o s
  | .gcntclr o => Sys2Proof.Machine.execGcntclr o s
  | .gskrd o => Sys2Proof.Machine.execGskrd o s
  | .lopen o => Sys2Proof.Machine.execLopen o s
  | .lpush o => Sys2Proof.Machine.execLpush o s
  | .lpushs o => Sys2Proof.Machine.execLpushs o s
  | .lclose o => Sys2Proof.Machine.execLclose o s
  | .labort o => Sys2Proof.Machine.execLabort o s
  | .lapply o => Sys2Proof.Machine.execLapply o s
  | .lstep o => Sys2Proof.Machine.execLstep o s
  | .lquery o => Sys2Proof.Machine.execLquery o s
  | .lstat o => Sys2Proof.Machine.execLstat o s
  | .lspill o => Sys2Proof.Machine.execLspill o s
  | .xsend o => Sys2Proof.Machine.execXsend o s
  | .xa2a o => Sys2Proof.Machine.execXa2a o s
  | .xbkt o => Sys2Proof.Machine.execXbkt o s
  | .xpool o => Sys2Proof.Machine.execXpool o s
  | .pcnt o => Sys2Proof.Machine.execPcnt o s
  | .pwait o => Sys2Proof.Machine.execPwait o s
  | .xstat o => Sys2Proof.Machine.execXstat o s
  | .xcan o => Sys2Proof.Machine.execXcan o s
  | .tbarr o => Sys2Proof.Machine.execTbarr o s
  | .tstat o => Sys2Proof.Machine.execTstat o s
  | .tepoch o => Sys2Proof.Machine.execTepoch o s
  | .tlog o => Sys2Proof.Machine.execTlog o s
  | .doorbell die slot tail region => Sys2Proof.Machine.execDoorbell die slot tail region s
  | .bind die slot addr => Sys2Proof.Machine.execBind die slot addr s
  | .unbind die w => Sys2Proof.Machine.execUnbind die w s
  | .periodWrite die v => Sys2Proof.Machine.execPeriodWrite die v s
  | .evict die id => Sys2Proof.Machine.execEvict die id s
  | .cancel die id => Sys2Proof.Machine.execCancel die id s
  | .enable die id => Sys2Proof.Machine.execEnable die id s
  | .flushImage die => Sys2Proof.Machine.execFlushImage die s
  | .replay die id => Sys2Proof.Machine.execReplay die id s
  | .dcuBadCommand die op => Sys2Proof.Machine.execDcuBadCommand die op s
  | .jobCardRead die slot => Sys2Proof.Machine.execJobCardRead die slot s
  | .dispatchDecision die => Sys2Proof.Machine.execDispatchDecision die s
  | .budgetPeriodBoundary => Sys2Proof.Machine.execBudgetPeriodBoundary s
  | .pinnedChargeReport die => Sys2Proof.Machine.execPinnedChargeReport die s
  | .dictionaryLoadComplete core => Sys2Proof.Machine.execDictionaryLoadComplete core s
  | .contextRestore core => Sys2Proof.Machine.execContextRestore core s
  | .evictionBoundary core => Sys2Proof.Machine.execEvictionBoundary core s
  | .contextSave core => Sys2Proof.Machine.execContextSave core s
  | .saveComplete core => Sys2Proof.Machine.execSaveComplete core s
  | .taskDrainComplete core => Sys2Proof.Machine.execTaskDrainComplete core s
  | .completionRecord die slot card => Sys2Proof.Machine.execCompletionRecord die slot card s
  | .faultLogEntry die => Sys2Proof.Machine.execFaultLogEntry die s
  | .flogBaseWrite die v => Sys2Proof.Machine.execFlogBaseWrite die v s
  | .flogLog2Write die v => Sys2Proof.Machine.execFlogLog2Write die v s
  | .flogEnWrite die v => Sys2Proof.Machine.execFlogEnWrite die v s
  | .flogHeadWrite die v => Sys2Proof.Machine.execFlogHeadWrite die v s
  | .tlbWalkComplete core => Sys2Proof.Machine.execTlbWalkComplete core s
  | .copyPageTranslation core seq => Sys2Proof.Machine.execCopyPageTranslation core seq s
  | .sectorRequestIssue core w => Sys2Proof.Machine.execSectorRequestIssue core w s
  | .sectorResponse core seq req words => Sys2Proof.Machine.execSectorResponse core seq req words s
  | .copyCommandComplete core w => Sys2Proof.Machine.execCopyCommandComplete core w s
  | .batchComplete core batch => Sys2Proof.Machine.execBatchComplete core batch s
  | .rdcReplacement die x => Sys2Proof.Machine.execRdcReplacement die x s
  | .homeAccess a => Sys2Proof.Machine.execHomeAccess a s
  | .hashmWrite stack im v => Sys2Proof.Machine.execHashmWrite stack im v s
  | .cntclr stack => Sys2Proof.Machine.execCntclr stack s
  | .initSync die obj => Sys2Proof.Machine.execInitSync die obj s
  | .initPhaser die obj => Sys2Proof.Machine.execInitPhaser die obj s
  | .freeObject die obj => Sys2Proof.Machine.execFreeObject die obj s
  | .readObject die obj => Sys2Proof.Machine.execReadObject die obj s
  | .breakPhaser die obj => Sys2Proof.Machine.execBreakPhaser die obj s
  | .vertexBadCommand die op obj => Sys2Proof.Machine.execVertexBadCommand die op obj s
  | .ovfBaseWrite die v => Sys2Proof.Machine.execOvfBaseWrite die v s
  | .objCountWrite die v => Sys2Proof.Machine.execObjCountWrite die v s
  | .vertexOperation core w => Sys2Proof.Machine.execVertexOperation core w s
  | .armComplete core arm => Sys2Proof.Machine.execArmComplete core arm s
  | .vertexRecordMove die obj => Sys2Proof.Machine.execVertexRecordMove die obj s
  | .tload pbc table => Sys2Proof.Machine.execTload pbc table s
  | .tdrop pbc table => Sys2Proof.Machine.execTdrop pbc table s
  | .tread pbc table => Sys2Proof.Machine.execTread pbc table s
  | .hotload pbc table => Sys2Proof.Machine.execHotload pbc table s
  | .hotflush pbc table => Sys2Proof.Machine.execHotflush pbc table s
  | .skclr pbc group => Sys2Proof.Machine.execSkclr pbc group s
  | .pbcBadCommand pbc op => Sys2Proof.Machine.execPbcBadCommand pbc op s
  | .hotBaseWrite pbc v => Sys2Proof.Machine.execHotBaseWrite pbc v s
  | .hotSlotsWrite pbc v => Sys2Proof.Machine.execHotSlotsWrite pbc v s
  | .slotlog2Write pbc v => Sys2Proof.Machine.execSlotlog2Write pbc v s
  | .migLimitWrite pbc v => Sys2Proof.Machine.execMigLimitWrite pbc v s
  | .gatherAccept core w => Sys2Proof.Machine.execGatherAccept core w s
  | .shardLookup core seq bag shard => Sys2Proof.Machine.execShardLookup core seq bag shard s
  | .partialCombine core seq w => Sys2Proof.Machine.execPartialCombine core seq w s
  | .migrationInSwitch pbc slot => Sys2Proof.Machine.execMigrationInSwitch pbc slot s
  | .migrationTimeout pbc slot => Sys2Proof.Machine.execMigrationTimeout pbc slot s
  | .demotionSwitch pbc slot => Sys2Proof.Machine.execDemotionSwitch pbc slot s
  | .rinit unit region => Sys2Proof.Machine.execRinit unit region s
  | .rfree unit region => Sys2Proof.Machine.execRfree unit region s
  | .rread unit region => Sys2Proof.Machine.execRread unit region s
  | .rflush unit region => Sys2Proof.Machine.execRflush unit region s
  | .rabort unit region => Sys2Proof.Machine.execRabort unit region s
  | .latticeBadCommand unit op region => Sys2Proof.Machine.execLatticeBadCommand unit op region s
  | .pairIntake core seq => Sys2Proof.Machine.execPairIntake core seq s
  | .streamCommit core seq => Sys2Proof.Machine.execStreamCommit core seq s
  | .earlyApply unit region key => Sys2Proof.Machine.execEarlyApply unit region key s
  | .binSpillMove unit region key toSpill => Sys2Proof.Machine.execBinSpillMove unit region key toSpill s
  | .stationSlotReceive x => Sys2Proof.Machine.execStationSlotReceive x s
  | .nackBackoffExpiry core seq req => Sys2Proof.Machine.execNackBackoffExpiry core seq req s
  | .rackModuleJoin m => Sys2Proof.Machine.execRackModuleJoin m s
  | .rackModuleLoss m => Sys2Proof.Machine.execRackModuleLoss m s
  | .stremoRelease core seq req => Sys2Proof.Machine.execStremoRelease core seq req s
  | .exchangeDelivery x => Sys2Proof.Machine.execExchangeDelivery x s
  | .uetPacketReceive p => Sys2Proof.Machine.execUetPacketReceive p s
  | .uetRetransmit peer core w => Sys2Proof.Machine.execUetRetransmit peer core w s
  | .portLinkChange port up => Sys2Proof.Machine.execPortLinkChange port up s
  | .nrankWrite g v => Sys2Proof.Machine.execNrankWrite g v s
  | .attest member => Sys2Proof.Machine.execAttest member s
  | .remove member => Sys2Proof.Machine.execRemove member s
  | .barrier => Sys2Proof.Machine.execBarrier s
  | .trustEvict member => Sys2Proof.Machine.execTrustEvict member s
  | .logclr => Sys2Proof.Machine.execLogclr s
  | .trustBadCommand op => Sys2Proof.Machine.execTrustBadCommand op s
  | .selfWrite v => Sys2Proof.Machine.execSelfWrite v s
  | .memberEntryWrite im v => Sys2Proof.Machine.execMemberEntryWrite im v s
  | .getVersion w => Sys2Proof.Machine.execGetVersion w s
  | .getCapabilities w => Sys2Proof.Machine.execGetCapabilities w s
  | .negotiateAlgorithms w set => Sys2Proof.Machine.execNegotiateAlgorithms w set s
  | .getDigests w => Sys2Proof.Machine.execGetDigests w s
  | .getCertificate w slot => Sys2Proof.Machine.execGetCertificate w slot s
  | .challenge w slot => Sys2Proof.Machine.execChallenge w slot s
  | .getMeasurements w => Sys2Proof.Machine.execGetMeasurements w s
  | .keyExchange w ok => Sys2Proof.Machine.execKeyExchange w ok s
  | .finish w found => Sys2Proof.Machine.execFinish w found s
  | .keyUpdate w => Sys2Proof.Machine.execKeyUpdate w s
  | .heartbeat w => Sys2Proof.Machine.execHeartbeat w s
  | .endSession w => Sys2Proof.Machine.execEndSession w s
  | .chunkSend w chunk last => Sys2Proof.Machine.execChunkSend w chunk last s
  | .chunkGet w chunk => Sys2Proof.Machine.execChunkGet w chunk s
  | .slhDsaSignatureRequest w => Sys2Proof.Machine.execSlhDsaSignatureRequest w s
  | .barrierArrival member epoch members departing => Sys2Proof.Machine.execBarrierArrival member epoch members departing s
  | .evictionNotice source member => Sys2Proof.Machine.execEvictionNotice source member s
  | .unsupportedRequest w code => Sys2Proof.Machine.execUnsupportedRequest w code s
  | .spdmResponse member r => Sys2Proof.Machine.execSpdmResponse member r s
  | .reattestationTimer member => Sys2Proof.Machine.execReattestationTimer member s
  | .barrierArrive => Sys2Proof.Machine.execBarrierArrive s
  | .coldStart x => Sys2Proof.Machine.execColdStart x s
  | .warmStart x => Sys2Proof.Machine.execWarmStart x s
  | .startOpInvalid op => Sys2Proof.Machine.execStartOpInvalid op s
  | .powerOn => Sys2Proof.Machine.execPowerOn s
  | .supplyLoss => Sys2Proof.Machine.execSupplyLoss s
  | .powerControlTick x => Sys2Proof.Machine.execPowerControlTick x s
  | .moduleTrip x => Sys2Proof.Machine.execModuleTrip x s
  | .patrolScrub granule e => Sys2Proof.Machine.execPatrolScrub granule e s
  | .pwrcapWrite v => Sys2Proof.Machine.execPwrcapWrite v s
  | .registerWrite off v => Sys2Proof.Machine.execRegisterWrite off v s
  | .latticeRegionCommand core w => Sys2Proof.Machine.execLatticeRegionCommand core w s
  | .pbcQueryAnswer core w => Sys2Proof.Machine.execPbcQueryAnswer core w s
  | .trustCommandAct core w => Sys2Proof.Machine.execTrustCommandAct core w s
  | .collectiveAccept core w => Sys2Proof.Machine.execCollectiveAccept core w s
  | .memoryError x => Sys2Proof.Machine.execMemoryError x s

end Sys2Proof.Machine
end

