-- ==== Sys2Proof/Machine/Step.lean ====
section
/-!
DEFINITION. The step of the module, and a word placed where the next step fetches it.
-/

namespace Sys2Proof.Machine

/-- One step of the module. -/
def step (s : State) : Host.Outcome State Fault Refusal := s.advance exec

/-- The state with the instruction of a word of the table's numbering at the head of issue of the focused core (log entry 5, DEDUCED). -/
def State.withFetchWord (s : State) (nbits w : Nat) : State := s.placed (wordBundle nbits w)

end Sys2Proof.Machine
end

