-- ==== Sys2Proof/Safety.lean ====
section
/-!
DEFINITION. What counts as a safe run: an outcome that goes on, and the facts about a state that every step is to keep.
-/

namespace Sys2Proof.Machine

/-- The outcome is a next state. -/
def goesOn (o : Out) : Prop := ∃ t, o = .next t

/-- Memory is in its canonical form: addresses rise strictly, and no byte is listed that an unlisted one reads as. -/
def State.memOk (s : State) : Prop := s.mem.wf = true

/-- The registers whose writes the spec bounds hold a value within their bounds: PERIOD (R37), PWRCAP (R400). -/
def State.boundedRegisters (s : State) : Prop := 14000 ≤ s.period.toNat ∧ s.ctl.pwrCap.toNat ≤ 2400

/-- `t` differs from `s` in the focused core alone: memory, the caches, the engines, the DCUs, the regions, every register of the
module and every other core are as in `s`. -/
def State.onlyCoreOf (s t : State) : Prop :=
  t = { s with cores := t.cores } ∧ ∀ n, n ≠ s.focus → t.cores.get n = s.cores.get n

/-- The flags after a command that names `f` has issued: `f` is CLEAR unless it is ERROR (R23), every other flag as it was. -/
def Timed.claimed (t u : Timed) (f : Option (BitVec 5)) : Prop :=
  u = { t with flags := u.flags } ∧
    ∀ g, u.flag g = if f = some g ∧ t.flag g ≠ .error then .clear else t.flag g

/-- From `s` to `t`, command `c` has entered the focused core's queues as the last in program order, claiming flag `f`, and has
joined the open batch where `joins` says so (R23, R127, R186); nothing else but the passage flags has changed. -/
def State.entersQueue (s t : State) (f : Option (BitVec 5)) (c : Cmd) (joins : Bool) : Prop :=
  s.onlyCoreOf t ∧ s.timed.claimed t.timed f ∧
    t.un = { s.un with
      nseq := s.un.nseq + 1
      queue := s.un.queue ++ [c]
      batches := if joins then s.un.batches.map fun b => if b.isOpen then { b with count := b.count + 1 } else b
                 else s.un.batches } ∧
    c.seq = s.un.nseq ∧ c.batch = (if joins then s.un.openBatch else none) ∧
    t.core.task = s.core.task ∧ t.core.image = s.core.image ∧ t.core.fails = s.core.fails ∧ t.core.marks = s.core.marks

/-- A run of `n` steps of which none stops. -/
def runsOn : Nat → State → Prop
  | 0, _ => True
  | n + 1, s => ∃ t, step s = .next t ∧ runsOn n t

end Sys2Proof.Machine
end

