-- ==== Sys2Proof/Certificates/Slice0/Obligations.lean ====
section
/-!
DEFINITION. The statements for the provers, from the numbered rules of spec/: what each instruction does where it completes,
its frame, where it traps, and what every step keeps.
-/

open Sys2Proof Sys2Proof.Machine

/-- O1 (tier 1). R144, R147: what each register-to-register integer instruction puts in flight to sd, and nothing else changes. R145, R146: the immediate instructions, SETH and PUTH. R148: the capability instructions. -/
def Obligations.IntegerAndCapabilityResults : Prop :=
  (∀ (s : State) (d a b : BitVec 6),
    let x := s.timed.sreg a
    let y := s.timed.sreg b
    let n := y.toNat % 64
    let gives := fun (i : Instr) (lat : Nat) (v : Word) => exec i s = .next (s.setTimed (s.timed.pendS lat d v))
    gives (.add d a b) 1 (x + y) ∧
    gives (.sub d a b) 1 (x - y) ∧
    gives (.and d a b) 1 (x &&& y) ∧
    gives (.or d a b) 1 (x ||| y) ∧
    gives (.xor d a b) 1 (x ^^^ y) ∧
    gives (.shl d a b) 1 (x <<< n) ∧
    gives (.shr d a b) 1 (x >>> n) ∧
    gives (.asr d a b) 1 (x.sshiftRight n) ∧
    gives (.cmpltI64 d a b) 1 (if x.toInt < y.toInt then 1 else 0) ∧
    gives (.cmpltN64 d a b) 1 (if x.toNat < y.toNat then 1 else 0) ∧
    gives (.cmpeq d a b) 1 (if x = y then 1 else 0) ∧
    gives (.minI64 d a b) 1 (if x.toInt ≤ y.toInt then x else y) ∧
    gives (.maxI64 d a b) 1 (if y.toInt ≤ x.toInt then x else y) ∧
    gives (.minN64 d a b) 1 (if x.toNat ≤ y.toNat then x else y) ∧
    gives (.maxN64 d a b) 1 (if y.toNat ≤ x.toNat then x else y) ∧
    gives (.mul d a b) 3 (x * y) ∧
    gives (.mulhI64 d a b) 3 (BitVec.ofInt 64 (x.toInt * y.toInt / 2 ^ 64)) ∧
    gives (.mulhN64 d a b) 3 (BitVec.ofNat 64 (x.toNat * y.toNat / 2 ^ 64)) ∧
    gives (.divI64 d a b) 12 (if y = 0 then BitVec.allOnes 64 else BitVec.ofInt 64 (x.toInt.tdiv y.toInt)) ∧
    gives (.divN64 d a b) 12 (if y = 0 then BitVec.allOnes 64 else BitVec.ofNat 64 (x.toNat / y.toNat)) ∧
    gives (.remI64 d a b) 12 (if y = 0 then x else BitVec.ofInt 64 (x.toInt.tmod y.toInt)) ∧
    gives (.remN64 d a b) 12 (if y = 0 then x else BitVec.ofNat 64 (x.toNat % y.toNat))) ∧
  (∀ (s : State) (d a : BitVec 6) (i : BitVec 12) (sh : BitVec 6) (q : BitVec 2) (w : BitVec 16),
    let x := s.timed.sreg a
    let im : Word := i.signExtend 64
    let gives := fun (j : Instr) (v : Word) => exec j s = .next (s.setTimed (s.timed.pendS 1 d v))
    gives (.addi d a i) (x + im) ∧
    gives (.andi d a i) (x &&& im) ∧
    gives (.ori d a i) (x ||| im) ∧
    gives (.xori d a i) (x ^^^ im) ∧
    gives (.shli d a sh) (x <<< sh.toNat) ∧
    gives (.shri d a sh) (x >>> sh.toNat) ∧
    gives (.asri d a sh) (x.sshiftRight sh.toNat) ∧
    gives (.cmplti d a i) (if x.toInt < im.toInt then 1 else 0) ∧
    gives (.seth d q w) (w.setWidth 64 <<< (16 * q.toNat)) ∧
    gives (.puth d q w) ((s.timed.sreg d &&& ~~~((0xFFFF : Word) <<< (16 * q.toNat))) ||| (w.setWidth 64 <<< (16 * q.toNat)))) ∧
  (∀ (s : State) (d a b g : BitVec 6) (i : BitVec 12),
    let x := s.timed.sreg a
    let y := s.timed.sreg b
    let gives := fun (j : Instr) (v : Word) => exec j s = .next (s.setTimed (s.timed.pendS 1 d v))
    let withOffset := fun (n : Nat) => BitVec.ofNat 64 (x.toNat / 2 ^ 58 * 2 ^ 58 + n % 2 ^ 58)
    gives (.capadd d a b) (withOffset (x.toNat + y.toNat)) ∧
    gives (.capaddi d a i) (withOffset (x.toNat + (i.signExtend 64 : Word).toNat)) ∧
    gives (.capmk d a g) (BitVec.ofNat 64 (g.toNat * 2 ^ 58 + x.toNat % 2 ^ 58)) ∧
    gives (.capseg d a) (BitVec.ofNat 64 (x.toNat / 2 ^ 58)) ∧
    gives (.capoff d a) (BitVec.ofNat 64 (x.toNat % 2 ^ 58)))

/-- O2 (tier 2). R149: the scalar FP32 instructions, over the exact arithmetic of `FVal` and the one rounding of `roundTo`. That an exact zero result is not tiny is the model's reading (log entry 42, DEDUCED). R149, row CVT.i64.f32. That it raises the flags of R66 is the model's reading (log entry 42, DEDUCED). -/
def Obligations.ScalarFp32Results : Prop :=
  (∀ (s : State) (d a b : BitVec 6),
    let t := s.timed
    let x := lowF32 (t.sreg a)
    let y := lowF32 (t.sreg b)
    let z := lowF32 (t.sreg d)
    let gives := fun (i : Instr) (v : Word) (f : BitVec 5) => exec i s = .next (s.setTimed (t.pendFps 4 (.scalar d v) f))
    let rounded := fun (e : FVal) => roundTo fp32 (t.sp.fpctl.getLsbD 1) e
    let low := fun (v : FVal) => (toF32 v).setWidth 64
    let arith := fun (i : Instr) (e : FVal) (nan : Bool) => gives i (low (rounded e).val) (fpsOf nan (rounded e))
    arith (.faddF32 d a b) (x.add y) (x.isNan || y.isNan) ∧
    arith (.fsubF32 d a b) (x.sub y) (x.isNan || y.isNan) ∧
    arith (.fmulF32 d a b) (x.mul y) (x.isNan || y.isNan) ∧
    arith (.fmaF32 d a b) ((x.mul y).add z) (x.isNan || y.isNan || z.isNan) ∧
    gives (.fminF32 d a b) (low (x.minOp y)) 0 ∧
    gives (.fmaxF32 d a b) (low (x.maxOp y)) 0 ∧
    gives (.fcmpltF32 d a b) (if x.lt y then 1 else 0) (if x.isNan || y.isNan then 1 else 0) ∧
    gives (.fcmpeqF32 d a b) (if x.eqv y then 1 else 0) 0 ∧
    gives (.cvtF32I64 d a) (low (rounded (ofInt (t.sreg a).toInt)).val) (if (rounded (ofInt (t.sreg a).toInt)).inexact then 16 else 0) ∧
    gives (.cvtI64F32 d a) (cvtToI64 (t.sp.fpctl.getLsbD 1) x).1 (cvtToI64 (t.sp.fpctl.getLsbD 1) x).2) ∧
  (∀ (s : State) (d a : BitVec 6),
    let rtz := s.timed.sp.fpctl.getLsbD 1
    let gives := fun (v : Word) (f : BitVec 5) => exec (.cvtI64F32 d a) s = .next (s.setTimed (s.timed.pendFps 4 (.scalar d v) f))
    match lowF32 (s.timed.sreg a) with
    | .nan => gives 0 5
    | .inf neg => gives (if neg then 0x8000000000000000 else 0x7FFFFFFFFFFFFFFF) 5
    | .num neg m e =>
      let r := roundInt rtz neg m e
      (-2 ^ 63 ≤ r.1 → r.1 ≤ 2 ^ 63 - 1 → ∃ v : Word, v.toInt = r.1 ∧ gives v (if r.2 then 16 else 0)) ∧
      (r.1 < -2 ^ 63 → gives 0x8000000000000000 5) ∧
      (2 ^ 63 - 1 < r.1 → gives 0x7FFFFFFFFFFFFFFF 5))

/-- O3 (tier 2). R150, with the checks of R151 passed: the loads and stores, the address computed as the meaning computes it. R151: the range check first, then the alignment check; `slot` is the number of the slot that issues. -/
def Obligations.ScratchpadInstructions : Prop :=
  (∀ (s : State) (d a b : BitVec 6) (i : BitVec 12),
    let t := s.timed
    let A := (t.sreg a + i.signExtend 64).toNat
    let fits := fun (n : Nat) => A + n ≤ 8388608 ∧ A % n = 0
    let loads := fun (j : Instr) (n : Nat) (v : Word) => fits n → exec j s = .next (s.setTimed (t.pendS 4 d v))
    let stores := fun (j : Instr) (n : Nat) =>
      fits n → exec j s = .next (s.setTimed (t.pend 2 (.scratch [storePart A n (t.sreg b).toNat])))
    let at' := fun (n : Nat) => t.sread A n
    loads (.ldsN8 d a i) 1 (BitVec.ofNat 64 (at' 1)) ∧
    loads (.ldsI8 d a i) 1 ((BitVec.ofNat 8 (at' 1)).signExtend 64) ∧
    loads (.ldsN16 d a i) 2 (BitVec.ofNat 64 (at' 2)) ∧
    loads (.ldsI16 d a i) 2 ((BitVec.ofNat 16 (at' 2)).signExtend 64) ∧
    loads (.ldsN32 d a i) 4 (BitVec.ofNat 64 (at' 4)) ∧
    loads (.ldsI32 d a i) 4 ((BitVec.ofNat 32 (at' 4)).signExtend 64) ∧
    loads (.ldsI64 d a i) 8 (BitVec.ofNat 64 (at' 8)) ∧
    stores (.stsN8 b a i) 1 ∧ stores (.stsN16 b a i) 2 ∧ stores (.stsN32 b a i) 4 ∧ stores (.stsN64 b a i) 8) ∧
  (∀ (s : State) (d a b : BitVec 6) (i : BitVec 12),
    let t := s.timed
    let A := (t.sreg a + i.signExtend 64).toNat
    let slot : BitVec 4 := t.seq.issuing.setWidth 4
    let beyond := fun (j : Instr) (n : Nat) => 8388608 < A + n → exec j s = .next (s.takeTrap slot ⟨0x0B, BitVec.ofNat 64 A⟩)
    let traps := fun (j : Instr) (n : Nat) => beyond j n ∧
      (A + n ≤ 8388608 → A % n ≠ 0 → exec j s = .next (s.takeTrap slot ⟨0x0C, BitVec.ofNat 64 A⟩))
    beyond (.ldsN8 d a i) 1 ∧ beyond (.ldsI8 d a i) 1 ∧ beyond (.stsN8 b a i) 1 ∧
    traps (.ldsN16 d a i) 2 ∧ traps (.ldsI16 d a i) 2 ∧ traps (.ldsN32 d a i) 4 ∧ traps (.ldsI32 d a i) 4 ∧
    traps (.ldsI64 d a i) 8 ∧ traps (.stsN16 b a i) 2 ∧ traps (.stsN32 b a i) 4 ∧ traps (.stsN64 b a i) 8)

/-- O4 (tier 2). R150, R1: the bytes from A on, little-endian, and the frame of the landing. R150, R1: byte k of what a load reads is the scratchpad byte A + k. -/
def Obligations.ScratchpadBytes : Prop :=
  (∀ (t : Timed) (A n : Nat) (v : Word) (slot : SlotNo),
    A % 4096 + n ≤ 4096 → n ≤ 8 →
    let u := (⟨0, slot, .scratch [storePart A n v.toNat], 0, []⟩ : Pend).land t
    (∀ x, u.sbyte x = if A ≤ x ∧ x < A + n then BitVec.ofNat 8 (v.toNat / 256 ^ (x - A)) else t.sbyte x) ∧
    u.regs.s = t.regs.s ∧ u.regs.v = t.regs.v ∧ u.regs.m = t.regs.m ∧ u.regs.acc = t.regs.acc ∧ u.sp = t.sp ∧
    u.seq = t.seq ∧ u.flags = t.flags ∧ u.wins = t.wins ∧ u.desc = t.desc ∧ u.arr = t.arr) ∧
  (∀ (t : Timed) (A n : Nat), A % 4096 + n ≤ 4096 →
    t.sread A n < 256 ^ n ∧ ∀ k, k < n → BitVec.ofNat 8 (t.sread A n / 256 ^ k) = t.sbyte (A + k))

/-- O5 (tier 2). R152, R153: what MFSR reads by number, on a core with a task, and what MTSR puts in flight. R153, R65, R68: the landing of a special register write. -/
def Obligations.SpecialRegisters : Prop :=
  (∀ (s : State) (k : Task) (d a : BitVec 6) (r : BitVec 12),
    s.core.task = some k →
    let t := s.timed
    let reads := fun (n : BitVec 12) (v : Word) => exec (.mfsr d n) s = .next (s.setTimed (t.pendS 1 d v))
    let ix := k.taskIdx.toNat
    let sx := bits (recWord k.card 4) 15 0
    let sy := bits (recWord k.card 4) 31 16
    let sz := bits (recWord k.card 4) 47 32
    reads 0x000 (BitVec.ofNat 64 (ix % sx)) ∧
    reads 0x001 (BitVec.ofNat 64 (ix / sx % sy)) ∧
    reads 0x002 (BitVec.ofNat 64 (ix / (sx * sy))) ∧
    reads 0x003 (BitVec.ofNat 64 sx) ∧ reads 0x004 (BitVec.ofNat 64 sy) ∧ reads 0x005 (BitVec.ofNat 64 sz) ∧
    reads 0x006 (k.taskIdx.setWidth 64) ∧
    reads 0x007 (k.regionId.setWidth 64) ∧
    reads 0x008 (k.cardIdx.setWidth 64) ∧
    reads 0x009 (BitVec.ofNat 64 s.focus.val) ∧
    reads 0x00A (if s.preq then 1 else 0) ∧
    reads 0x010 t.sp.fpctl ∧ reads 0x011 t.sp.fpstat ∧ reads 0x012 t.sp.shape ∧
    reads 0x013 (BitVec.ofNat 64 t.seq.rstack.length) ∧
    reads 0x014 t.sp.tcycle ∧ reads 0x015 t.sp.markv ∧ reads 0x016 (t.seq.pc.setWidth 64) ∧
    (∀ j : Fin 6, reads (0x018 + BitVec.ofNat 12 j.val) ((t.seq.loop.cnt.get j).setWidth 64)) ∧
    exec (.mtsr a r) s = .next (s.setTimed (t.pend 1 (.special r (t.sreg a))))) ∧
  (∀ (t : Timed) (v : Word) (slot : SlotNo),
    let p := fun (n : BitVec 12) => (⟨0, slot, .special n v, 0, []⟩ : Pend)
    ((p 0x010).land ((p 0x010).landClear t)).sp = { t.sp with fpctl := v &&& 3 } ∧
    ((p 0x015).land ((p 0x015).landClear t)).sp = { t.sp with markv := v } ∧
    ((p 0x011).land ((p 0x011).landClear t)).sp = { t.sp with fpstat := t.sp.fpstat &&& ~~~v })

/-- O6 (tier 2). R154: SHAPE and its grant. -/
def Obligations.ShapeGrant : Prop :=
  ∀ (s : State) (d a : BitVec 6) (ew : BitVec 2),
    let x := s.timed.sreg a
    ∃ g : Word,
      exec (.shape d a ew) s = .next (s.setTimed ((s.timed.pendS 1 d g).pend 1 (.special 0x012 g))) ∧
      (ew.toNat ≤ 2 →
        let within := fun (n most : Nat) => if n = 0 ∨ most < n then most else n
        let cmax := 4096 / 2 ^ ew.toNat
        g.toNat = ew.toNat * 2 ^ 48 + within (x.toNat / 2 ^ 32 % 8192) cmax * 2 ^ 32 +
          within (x.toNat / 2 ^ 16 % 8192) 128 * 2 ^ 16 + within (x.toNat % 8192) 1024)

/-- O7 (tier 2). R156-R158 where no trap of R134, R137 or R158 applies. Which bundle is the fourth after a transfer not taken is the model's reading (log entry 44, DEDUCED). R134, R137, R157-R159: where the branch slot traps, and with what detail. -/
def Obligations.ControlTransfers : Prop :=
  (∀ (s : State) (a : BitVec 6) (x : BitVec 18),
    s.timed.seq.bdelay = 0 → s.timed.seq.loop.active = false →
    let t := s.timed
    let four := s.core.fourth t.seq.pc
    let goes := fun (i : Instr) (u : Timed) (target : BitVec 18) =>
      exec i s = .next (s.setTimed { u with seq := { u.seq with btarget := target, bdelay := 3 } })
    let pushed : Timed := { t with seq := { t.seq with rstack := four :: t.seq.rstack } }
    goes (.jmp x) t x ∧
    goes (.beqz a x) t (if t.sreg a = 0 then x else four) ∧
    goes (.bnez a x) t (if t.sreg a = 0 then four else x) ∧
    goes (.bltz a x) t (if (t.sreg a).toInt < 0 then x else four) ∧
    goes (.bgez a x) t (if (t.sreg a).toInt < 0 then four else x) ∧
    goes (.jmpr a) t ((t.sreg a).setWidth 18) ∧
    (t.seq.rstack.length < 32 →
      goes (.call x) pushed x ∧ goes (.callr a) pushed ((t.sreg a).setWidth 18)) ∧
    (∀ y l, t.seq.rstack = y :: l → goes .ret { t with seq := { t.seq with rstack := l } } y)) ∧
  (∀ (s : State) (a d : BitVec 6) (m : BitVec 4) (x : BitVec 18) (p : BitVec 3),
    let t := s.timed
    let traps := fun (i : Instr) (code : BitVec 8) (detail : Word) => exec i s = .next (s.takeTrap 0 ⟨code, detail⟩)
    let transfers : List Instr :=
      [.jmp x, .beqz a x, .bnez a x, .bltz a x, .bgez a x, .jmpr a, .bmt m x, .bmf m x, .call x, .callr a, .ret]
    (t.seq.bdelay ≠ 0 → (∀ i ∈ transfers, traps i 0x05 0) ∧ traps (.loop a p) 0x05 0) ∧
    (t.seq.bdelay = 0 → t.seq.loop.active = true → (∀ i ∈ transfers, traps i 0x06 0) ∧ traps (.loop a p) 0x06 1) ∧
    (t.seq.bdelay = 0 → t.seq.loop.active = false →
      (32 ≤ t.seq.rstack.length → traps (.call x) 0x09 0 ∧ traps (.callr a) 0x09 0) ∧
      (t.seq.rstack = [] → traps .ret 0x0A 0)) ∧
    (32 ≤ t.seq.rstack.length → traps (.rspush a) 0x09 0) ∧
    (t.seq.rstack = [] → traps (.rspop d) 0x0A 0))

/-- O8 (tier 2). R157, with the three delay slots of R134 and the bundle after a transfer not taken of R156: that this is the fourth in sequence is the model's reading (log entry 44, DEDUCED). -/
def Obligations.MaskBranches : Prop :=
  ∀ (s : State) (m : BitVec 4) (x : BitVec 18),
    let t := s.timed
    let goes := fun (i : Instr) (target : BitVec 18) =>
      exec i s = .next (s.setTimed { t with seq := { t.seq with btarget := target, bdelay := 3 } })
    let four := s.core.fourth t.seq.pc
    let mixed := fun (i : Instr) => exec i s = .next (s.takeTrap 0 ⟨0x08, m.setWidth 64⟩)
    t.seq.bdelay = 0 → t.seq.loop.active = false → 0 < t.vl → t.vl ≤ 1024 →
      ((∀ n, n < t.vl → (t.mreg m).getLsbD n = true) → goes (.bmt m x) x ∧ goes (.bmf m x) four) ∧
      ((∀ n, n < t.vl → (t.mreg m).getLsbD n = false) → goes (.bmt m x) four ∧ goes (.bmf m x) x) ∧
      ((∃ n, n < t.vl ∧ (t.mreg m).getLsbD n = true) → (∃ n, n < t.vl ∧ (t.mreg m).getLsbD n = false) →
        mixed (.bmt m x) ∧ mixed (.bmf m x))

/-- O9 (tier 1). R159-R163: the other instructions of the branch slot that complete. That the bounds above the depth of the nest are 0 is the model's choice (log entry 60, DESIGN CHOICE). -/
def Obligations.SequencerInstructions : Prop :=
  ∀ (s : State) (a d : BitVec 6) (p : BitVec 3) (im : BitVec 18),
    let t := s.timed
    (t.seq.rstack.length < 32 →
      exec (.rspush a) s = .next (s.setTimed { t with seq := { t.seq with rstack := (t.sreg a).setWidth 18 :: t.seq.rstack } })) ∧
    (∀ y l, t.seq.rstack = y :: l →
      exec (.rspop d) s = .next (s.setTimed (({ t with seq := { t.seq with rstack := l } } : Timed).pendS 1 d (y.setWidth 64)))) ∧
    (t.seq.bdelay = 0 → t.seq.loop.active = false → p.toNat ≤ 5 →
      ∃ l : LoopState,
        exec (.loop a p) s = .next (s.setTimed { t with seq := { t.seq with loop := l } }) ∧
        (∀ j : Fin 6, l.cnt.get j = 0 ∧
          l.bounds.get j = if j.val ≤ p.toNat then (t.sreg (a + BitVec.ofNat 6 j.val)).setWidth 32 else 0) ∧
        l.depthM1 = p ∧ l.start = s.core.after t.seq.pc ∧
        (l.active = true ↔ ∀ j : Fin 6, j.val ≤ p.toNat → l.bounds.get j ≠ 0) ∧ l.skip = !l.active) ∧
    exec (.idle im) s = .next (s.setTimed { t with seq := { t.seq with idle := im.toNat } }) ∧
    exec (.mark im) s = .next (s.setTimed (t.pend 1 (.special 0x015 (im.setWidth 64))))

/-- O10 (tier 2). R163, R165, R166: TRAPI and ABORT on a core with a task. R115, R49: END. Results in flight are kept. -/
def Obligations.TaskEndings : Prop :=
  (∀ (s : State) (k : Task) (im : BitVec 18), s.core.task = some k →
    ∀ (i : Instr) (code : BitVec 8), (i = .trapi im ∧ code = 0x0D) ∨ (i = .abort im ∧ code = 0x0E) →
    ∃ u, exec i s = .next u ∧
      u.core.timed = { s.timed with inFlight := [], arr := { s.timed.arr with pushes := [], drains := [] } } ∧
      (∃ k', u.core.task = some k' ∧ k'.phase = .failed) ∧
      (∃ r : FaultRec, (u.dcu (dieOf s.focus.val)).flog.queue = (s.dcu (dieOf s.focus.val)).flog.queue ++ [r] ∧
        r.info.code = code ∧ r.info.detail = im.setWidth 64 ∧ r.info.slot = 0 ∧ r.info.kind = 0 ∧
        r.pc = s.timed.seq.pc ∧ r.taskIdx = k.taskIdx ∧ r.markv = s.timed.sp.markv ∧ r.tcycle = s.timed.sp.tcycle)) ∧
  (∀ (s : State) (k : Task), s.core.task = some k →
    ∃ u k', exec .endTask s = .next u ∧ u.core.task = some k' ∧
      k' = { k with phase := .draining, endPc := s.timed.seq.pc, evict := none } ∧
      u.timed = { s.timed with seq := { s.timed.seq with bdelay := 0, loop := .idle } } ∧
      u.un.queue = s.un.queue ∧ u.mem = s.mem ∧ u.regions = s.regions)

/-- O11 (tier 2). R117: the four modes, flag by flag; a wait that is not met holds the bundle under freeze cause 1 (R130), and one that is met makes the acquire of a passage (R102). R117, R164: the flag-error trap and its detail. -/
def Obligations.SyncSlot : Prop :=
  ((∀ (s : State) (mask : BitVec 32),
    let f := s.timed.flag
    let named := fun (n : BitVec 5) => mask.getLsbD n.toNat = true
    let noError := ∀ n, named n → f n ≠ .error
    let seen := s.core.acquires.filter fun x => mask.getLsbD x.1.toNat && f x.1 == .set
    let observes := fun (u : State) =>
      u.core.acquires = (s.core.acquires.filter fun x => !(mask.getLsbD x.1.toNat && f x.1 == .set)) ∧
      u.un.queue.take s.un.queue.length = s.un.queue ∧
      (u.un.queue.drop s.un.queue.length).map (·.ins) = seen.map (fun x => .fence 0xFFFF x.2 2)
    let clears := fun (u : State) => (∀ n, named n → u.timed.flag n = .clear) ∧ ∀ n, ¬ named n → u.timed.flag n = f n
    let keeps := fun (u : State) => u.timed = s.timed
    (noError → (∀ n, named n → f n = .set) → ∃ u, exec (.wait mask) s = .next u ∧ keeps u ∧ observes u) ∧
    (noError → (∃ n, named n ∧ f n = .set) → ∃ u, exec (.waitAny mask) s = .next u ∧ keeps u ∧ observes u) ∧
    (noError → (∀ n, named n → f n = .set) → ∃ u, exec (.waitC mask) s = .next u ∧ clears u ∧ observes u) ∧
    (∃ u, exec (.fclr mask) s = .next u ∧ clears u ∧ u.un = s.un ∧ u.core.acquires = s.core.acquires) ∧
    (noError → (∃ n, named n ∧ f n ≠ .set) → exec (.wait mask) s = .next s ∧ exec (.waitC mask) s = .next s) ∧
    (noError → (∀ n, named n → f n ≠ .set) → exec (.waitAny mask) s = .next s)) ∧
  ∀ (s : State) (mask : BitVec 32) (b : Bundle),
    let some' := ∃ n : BitVec 5, mask.getLsbD n.toNat = true ∧ s.timed.flag n = .set
    let all := ∀ n : BitVec 5, mask.getLsbD n.toNat = true → s.timed.flag n = .set
    let passes := ((b.sync = some (.wait mask) ∨ b.sync = some (.waitC mask)) ∧ all) ∨ (b.sync = some (.waitAny mask) ∧ some') ∨
      b.sync = some (.fclr mask) ∨ b.sync = none
    let waits := ((b.sync = some (.wait mask) ∨ b.sync = some (.waitC mask)) ∧ ¬ all) ∨ (b.sync = some (.waitAny mask) ∧ ¬ some')
    (waits → syncPasses s.timed b.sync = false ∧ s.freezeCause b = 1) ∧
    (passes → syncPasses s.timed b.sync = true ∧ s.freezeCause b ≠ 1) ∧
    ∀ (k : Task) (w : BundleBits), s.core.task = some k → k.phase = .running → k.late = none → s.timed.seq.loop.skip = false →
      s.core.headBits = .ok w → s.core.head = .ok b → s.bundleTrap b = none →
        (waits → s.verdict = .hold 1) ∧
        (passes → s.verdict ≠ .hold 1) ∧
        (passes → (b.cp.any fun i => queueHolds s.un i) = false → (b.fin = true → s.un.endFull b.cp = false) →
          (∀ i, b.cp = some i → s.firstPage i = none ∧ s.pushHeld i = false) → bundleConflict s.timed b ≤ s.timed.seq.conflict →
          s.timed.seq.idle = 0 → s.verdict = .issue b w)) ∧
  (∀ (s : State) (mask : BitVec 32) (n : BitVec 5),
    mask.getLsbD n.toNat = true → s.timed.flag n = .error →
    (∀ k : BitVec 5, k.toNat < n.toNat → mask.getLsbD k.toNat = true → s.timed.flag k ≠ .error) →
    ∀ i ∈ ([.wait mask, .waitAny mask, .waitC mask] : List Instr),
      exec i s = .next (s.takeTrap 0 ⟨0x07, n.setWidth 64⟩))

/-- O12 (tier 2). R37, R203, R257, R287, R310, R354, R368, R389, R400: the offsets of the register window (R16). The model's choices among its clauses: an offset that is no multiple of 8 changes nothing, START_OP 1 and 2 act through COLD_START and WARM_START alone (log entry 27), HLOG_LOG2 above 16 stores 16 (log entry 23), a Vertex or Lattice command acts in one step while BUSY is 1 (log entry 47), and RES keeps its value until a command ends (log entry 11, DEDUCED). -/
def Obligations.RegisterWrites : Prop :=
  ∀ (s : State) (n u : Nat) (v : Word) (k : Nat), n < 8 → u < 16 →
    let write := fun (off : Nat) => exec (.registerWrite off v) s
    let sets := fun (off : Nat) (t : State) => write off = .next t
    let dcu := 0x100000 + n * 0x10000
    let hbm := 0x200000 + n * 0x1000
    let vx := 0x300000 + n * 0x10000
    let pbc := 0x400000 + n * 0x10000
    let lat := 0x500000 + u * 0x10000
    let low := fun (hi lo : Nat) => bits v.toNat hi lo
    let runsVx := fun (i : Instr) => (s.vxOf n).busy = some v → runVertexCommand n s =
      andThen (exec i (s.onVx n fun x => { x with busy := none, cmdAddr := x.cmdAt })) fun t =>
        .next (t.onVx n fun x => { x with cmdAddr := (s.vxOf n).cmdAddr })
    let runsLat := fun (i : Instr) => (s.unitOf u).busy = some v → runLatticeCommand u s =
      andThen (exec i (s.onUnit u fun x => { x with busy := none, cmdAddr := x.cmdAt })) fun t =>
        .next (t.onUnit u fun x => { x with cmdAddr := (s.unitOf u).cmdAddr })
    (∀ off, off % 8 ≠ 0 → sets off s) ∧
    (∀ off ∈ [dcu + 0x20, dcu + 0xA010, dcu + 0xA020, hbm + 0x100, vx + 0x28, pbc + 0x38, lat + 0x10, lat + 0x18, lat + 0x20,
      lat + 0x28, 0x600000, 0x600008, 0x600010, 0x700000, 0x700008, 0x700030, 0x700038, 0x700040, 0x700048, 0x701000, 0x800008,
      0x800028, 0x800038, 0x800048, 0x800058, 0x800100, 0x800300, 0x800388, 0x800400], sets off s) ∧
    (low 7 0 = 1 → write (dcu + 0x18) = exec (.evict n (v.extractLsb' 16 32)) s) ∧
    (low 7 0 = 2 → write (dcu + 0x18) = exec (.cancel n (v.extractLsb' 16 32)) s) ∧
    (low 7 0 = 3 → write (dcu + 0x18) = exec (.enable n (v.extractLsb' 16 32)) s) ∧
    (low 7 0 = 4 → write (dcu + 0x18) = exec (.flushImage n) s) ∧
    (low 7 0 = 5 → write (dcu + 0x18) = exec (.replay n (v.extractLsb' 16 32)) s) ∧
    (k < 1024 → v.getLsbD 63 = true → write (dcu + 0x1000 + 8 * k) = exec (.bind n k (v.setWidth 52)) s) ∧
    (k < 1024 → v.getLsbD 63 = false → write (dcu + 0x1000 + 8 * k) = exec (.unbind n ⟨k, v.setWidth 52⟩) s) ∧
    (k < 1024 → write (dcu + 0x8000 + 8 * k) = exec (.doorbell n k (v.setWidth 32) (v.extractLsb' 32 32)) s) ∧
    sets dcu (s.onDcu n fun d => { d with dispatchEn := v.getLsbD 0 }) ∧
    sets (dcu + 0x10) (s.onDcu n fun d => { d with cmdArg := v }) ∧
    write (dcu + 0x8) = exec (.periodWrite n (v.setWidth 32)) s ∧
    write (dcu + 0xA000) = exec (.flogBaseWrite n v) s ∧ write (dcu + 0xA008) = exec (.flogLog2Write n v) s ∧
    write (dcu + 0xA018) = exec (.flogHeadWrite n v) s ∧ write (dcu + 0xA038) = exec (.flogEnWrite n v) s ∧
    sets (dcu + 0xA028) (s.onDcu n fun d => { d with flog := { d.flog with irq := v.setWidth 16 } }) ∧
    (k < 6 → write (hbm + 8 * k) = exec (.hashmWrite n k v) s) ∧
    (let seen := s.onHbm n fun h => { h with hashErr := h.hashErr && !v.getLsbD 0 }
     (v.getLsbD 1 = false → sets (hbm + 0x80) seen) ∧ (v.getLsbD 1 = true → write (hbm + 0x80) = exec (.cntclr n) seen)) ∧
    write vx = exec (.ovfBaseWrite n v) s ∧ write (vx + 0x8) = exec (.objCountWrite n v) s ∧
    sets (vx + 0x10) (s.onVx n fun x => { x with cmdAddr := v.setWidth 52 }) ∧
    sets (vx + 0x20) (s.onVx n fun x => { x with cfgErr := x.cfgErr && !v.getLsbD 16 }) ∧
    sets (vx + 0x18) (s.onVx n fun x => if x.busy.isSome then x else { x with busy := some v, cmdAt := x.cmdAddr }) ∧
    (low 27 24 = 1 → runsVx (.initSync n (low 19 0))) ∧
    (low 27 24 = 2 → runsVx (.initPhaser n (low 19 0))) ∧
    (low 27 24 = 3 → runsVx (.freeObject n (low 19 0))) ∧
    (low 27 24 = 4 → runsVx (.readObject n (low 19 0))) ∧
    (low 27 24 = 5 → runsVx (.breakPhaser n (low 19 0))) ∧
    write pbc = exec (.hotBaseWrite n v) s ∧ write (pbc + 0x10) = exec (.migLimitWrite n v) s ∧
    (let p := s.pbcOf n
     let l := low 27 24
     let refused := l < 6 ∨ 13 < l ∨ p.used ≠ 0 ∨ (low 19 0 ≠ 0 ∧ (p.hotBase.toNat % 65536 ≠ 0 ∨
       p.hotBase.toNat / 2 ^ 44 ≠ s.myMod.toNat * 16 + n ∨ 2 ^ 36 < p.hotBase.toNat % 2 ^ 44 + low 19 0 * 2 ^ l))
     (refused → sets (pbc + 0x8) (s.onPbc n fun p => { p with cfgErr := true })) ∧
     (¬ refused → sets (pbc + 0x8) (s.onPbc n fun p =>
       { p with hotSlots := BitVec.ofNat 20 (low 19 0), slotLog2 := BitVec.ofNat 4 l }))) ∧
    sets (pbc + 0x18) (s.onPbc n fun p => { p with cmdAddr := v.setWidth 52 }) ∧
    sets (pbc + 0x20) (s.onPbc n fun p => { p with cmdArg := v }) ∧
    sets (pbc + 0x30) (s.onPbc n fun p => { p with cfgErr := p.cfgErr && !v.getLsbD 8 }) ∧
    (k < 16 → ∃ t, write (pbc + 0x100 + 16 * k) = .next t ∧ t = { s with pbc := t.pbc } ∧
      at16 (t.pbcOf n).thresh k = v.setWidth 16 ∧ at16 (t.pbcOf n).halve k = v.extractLsb' 16 32) ∧
    (low 7 0 = 1 → write (pbc + 0x28) = exec (.tload n (low 25 16)) s) ∧
    (low 7 0 = 2 → write (pbc + 0x28) = exec (.tdrop n (low 25 16)) s) ∧
    (low 7 0 = 3 → write (pbc + 0x28) = exec (.tread n (low 25 16)) s) ∧
    (low 7 0 = 4 → write (pbc + 0x28) = exec (.hotload n (low 25 16)) s) ∧
    (low 7 0 = 5 → write (pbc + 0x28) = exec (.hotflush n (low 25 16)) s) ∧
    (low 7 0 = 6 → write (pbc + 0x28) = exec (.skclr n (low 19 16)) s) ∧
    sets lat (s.onUnit u fun x => { x with cmdAddr := v.setWidth 52 }) ∧
    sets (lat + 0x8) (s.onUnit u fun x => if x.busy.isSome then x else { x with busy := some v, cmdAt := x.cmdAddr }) ∧
    (low 19 16 = 1 → runsLat (.rinit u (low 9 0))) ∧
    (low 19 16 = 2 → runsLat (.rfree u (low 9 0))) ∧
    (low 19 16 = 3 → runsLat (.rread u (low 9 0))) ∧
    (low 19 16 = 4 → runsLat (.rflush u (low 9 0))) ∧
    (low 19 16 = 5 → runsLat (.rabort u (low 9 0))) ∧
    (k < 64 → write (0x608000 + 8 * k) = exec (.nrankWrite k v) s) ∧
    (k < 4096 → ∃ t, write (0x610000 + 8 * k) = .next t ∧ t.xchg.rank (k / 64) (k % 64) = low 25 0 ∧
      t = { s with xchg := { s.xchg with ranks := t.xchg.ranks } }) ∧
    (k < 4096 → ∃ t, write (0x620000 + 16 * k) = .next t ∧ t = { s with xchg := { s.xchg with peers := t.xchg.peers } } ∧
      t.peer k = { s.peer k with faddr := v.setWidth 48, pvalid := v.getLsbD 63 }) ∧
    write 0x700010 = exec (.selfWrite v) s ∧
    sets 0x700018 { s with trust := { s.trust with attestPeriod := v.setWidth 32 } } ∧
    sets 0x700020 { s with trust := { s.trust with cmdAddr := v.setWidth 52 } } ∧
    (k < 64 → write (0x700100 + 16 * k) = exec (.memberEntryWrite k v) s) ∧
    (low 3 0 = 1 → write 0x700028 = exec (.attest (low 13 8)) s) ∧
    (low 3 0 = 2 → write 0x700028 = exec (.remove (low 13 8)) s) ∧
    (low 3 0 = 3 → write 0x700028 = exec .barrier s) ∧
    (low 3 0 = 4 → write 0x700028 = exec (.trustEvict (low 13 8)) s) ∧
    (low 3 0 = 5 → write 0x700028 = exec .logclr s) ∧
    sets 0x800010 { s with ctl := { s.ctl with fwAddr := v } } ∧
    sets 0x800018 { s with ctl := { s.ctl with hlogBase := v } } ∧
    write 0x800000 = exec (.startOpInvalid (v.setWidth 2)) s ∧
    (low 1 0 = 1 ∨ low 1 0 = 2 → sets 0x800000 s) ∧
    sets 0x800020 { s with ctl := { s.ctl with hlogLog2 := BitVec.ofNat 5 (min 16 (low 4 0)) } } ∧
    (k < 18 → ∃ t, write (0x800200 + 8 * k) = .next t ∧
      t = { s with ctl := { s.ctl with vLow := t.ctl.vLow, vTrip := t.ctl.vTrip } } ∧
      ∀ j : Fin 18, t.ctl.vLow.get j = (if j.val = k then v.extractLsb' 16 16 else s.ctl.vLow.get j) ∧
        t.ctl.vTrip.get j = (if j.val = k then v.extractLsb' 32 16 else s.ctl.vTrip.get j)) ∧
    sets 0x800030 { s with ctl := { s.ctl with hlogHead := v.setWidth 32 } } ∧
    sets 0x800040 { s with ctl := { s.ctl with scrubPeriod := v.setWidth 32 } } ∧
    write 0x800050 = exec (.pwrcapWrite v) s ∧
    sets 0x800060 { s with ctl := { s.ctl with
      tThrot := v.setWidth 16, tTrip := v.extractLsb' 16 16, tWarn := v.extractLsb' 32 16 } }

/-- O13 (tier 2). R368-R370, R378-R381, R385, R386. That a disagreement leaves BUSY to an ATTEST in progress is the model's reading (log entry 46, DEDUCED), and that RES keeps its value while BUSY is 1 too (log entry 11, DEDUCED). `agreed` and `disagreed` compare the arrivals with the own sets; `crossingOut` says that a crossing is unanswered. The model's choices: a TBARR on a module that is ALONE waits like any other (log entry 40), the own commands of a core are found by their numbers in one list (log entry 34), and all the words of a result may land in one step (log entry 3). -/
def Obligations.TrustEngine : Prop :=
  (∀ (s : State) (m : Nat) (op : BitVec 4) (v : Word), m < 64 →
    let t := s.trust
    let x := t.member m
    let own := t.self.toNat
    let runs := fun (i : Instr) (p : State → Prop) => ∃ t, exec i s = .next t ∧ p t
    let answers := fun (i : Instr) (r : BitVec 4) => exec i s = .next { s with trust := { t with res := r } }
    let state := fun (u : State) (k : Nat) => (u.trust.member k).mstate
    let others := fun (u : State) => ∀ k, k < 64 → k ≠ m → u.trust.member k = t.member k
    (t.busy.isSome = true → ∀ i ∈ ([.attest m, .remove m, .barrier, .trustEvict m, .logclr, .trustBadCommand op] : List Instr),
      exec i s = .next s) ∧
    (t.busy = none →
      (op = 0 ∨ 6 ≤ op.toNat → answers (.trustBadCommand op) 1) ∧
      (x.valid = false → ∀ i ∈ ([.attest m, .remove m, .trustEvict m] : List Instr), answers i 2) ∧
      (x.valid = true → m = own → ∀ i ∈ ([.attest m, .remove m, .trustEvict m] : List Instr), answers i 3) ∧
      (x.valid = true → m ≠ own →
        (x.mstate ≠ .none ∨ (t.member own).valid = false → answers (.attest m) 3) ∧
        (x.mstate = .none → (t.member own).valid = true →
          (s.imageOk t.cmdAddr 320 = false → answers (.attest m) 4) ∧
          (s.imageOk t.cmdAddr 320 = true →
            let r := s.homeReadLong 3 t.cmdAddr.toNat 320
            (r.2.2 = true → runs (.attest m) fun u => u.trust.res = 4 ∧ state u m = .none ∧ u.trust.busy = none ∧ u.cores = s.cores) ∧
            (r.2.2 = false → runs (.attest m) fun u => u.trust.busy = some (.attest m) ∧ state u m = .attesting ∧
              (u.trust.member m).steps = 0 ∧ others u ∧ u.cores = s.cores))) ∧
        (x.mstate = .pending → runs (.remove m) fun u => u = { s with trust := u.trust, spdm := u.spdm } ∧ state u m = .none ∧
          u.trust.res = 0 ∧ others u ∧ ∀ y, y ∈ u.spdm → x.names y.who.isPeer y.who.num = true → y.session = false) ∧
        (x.mstate = .active → runs (.remove m) fun u => u = { s with trust := u.trust } ∧ state u m = .leaving ∧ u.trust.res = 0 ∧ others u) ∧
        (x.mstate ≠ .pending → x.mstate ≠ .active → answers (.remove m) 3) ∧
        (x.mstate ≠ .active → x.mstate ≠ .leaving → answers (.trustEvict m) 3) ∧
        (x.mstate = .active ∨ x.mstate = .leaving → t.arrivals = [] → runs (.trustEvict m) fun u =>
          state u m = .evicted ∧ u.trust.res = 0 ∧ u.trust.dstate = .holding ∧ u.trust.released = false ∧ u.trust.epoch = t.epoch ∧
          others u)) ∧
      (t.dstate = .active ∨ (t.dstate = .alone ∧ ∃ k, k < 64 ∧ (t.member k).mstate = .pending) → t.arrivals = [] →
        runs .barrier fun u => u = { s with trust := { t with busy := some .barrier, dstate := .holding, released := false } }) ∧
      (t.dstate ≠ .active → (t.dstate = .alone → ∀ k, k < 64 → (t.member k).mstate ≠ .pending) → answers .barrier 3) ∧
      (t.dstate = .holding ∨ t.dstate = .arrived → answers .logclr 3) ∧
      (t.dstate = .alone ∨ t.dstate = .active → exec .logclr s = .next { s with trust := { t with dropLog := [], res := 0 } })) ∧
    (t.dstate = .alone → exec (.selfWrite v) s = .next { s with trust := { t with self := v.setWidth 6 } }) ∧
    (t.dstate ≠ .alone → exec (.selfWrite v) s = .next s) ∧
    (x.mstate ≠ .none → exec (.memberEntryWrite m v) s = .next s) ∧
    (x.mstate = .none → runs (.memberEntryWrite m v) fun u => u = { s with trust := { t with members := u.trust.members } } ∧
      u.trust.member m = { x with valid := v.getLsbD 0, isPeer := v.getLsbD 1, mod := v.extractLsb' 2 4, peer := v.extractLsb' 6 12 } ∧
      others u)) ∧
  (∀ (s : State),
    let t := s.trust
    let runs := fun (i : Instr) (p : State → Prop) => ∃ t, exec i s = .next t ∧ p t
    let stays := fun (k : Nat) => k ≠ t.self.toNat ∧ ((t.member k).mstate = .active ∨ (t.member k).mstate = .pending)
    let goesOn := ∃ k, k < 64 ∧ stays k
    let answers := fun (u : State) => ∀ x, x ∈ t.waits →
      let now := fun (y : EpochWait) => (t.epoch + 1 - y.target).toNat < 2 ^ 31
      (¬ now x → goesOn → x ∈ u.trust.waits) ∧
      (now x ∨ ¬ goesOn → x ∉ u.trust.waits) ∧
      ∀ n k, s.coreOf x.who = some n → (s.coreAt n).task = some k → k.moving = false →
        (now x → (∀ y, y ∈ t.waits → y.who = x.who → y.flag = x.flag → now y) →
          (u.timedAt n).flag x.flag = (if (s.timedAt n).flag x.flag = .error then .error else .set)) ∧
        (¬ now x → ¬ goesOn → (u.timedAt n).flag x.flag = .error)
    let passed := fun (u : State) => answers u ∧ u.trust.epoch = t.epoch + 1 ∧ u.trust.sendSeq = [] ∧ u.trust.arrivals = [] ∧
      u.trust.laneIn = t.laneNext ∧ u.trust.laneNext = [] ∧
      (goesOn → u.trust.dstate = .active ∧ (u.trust.member t.self.toNat).mstate = .active) ∧
      (¬ goesOn → u.trust.dstate = .alone ∧ (u.trust.member t.self.toNat).mstate = .none) ∧
      (t.busy = some .barrier → u.trust.busy = none ∧ u.trust.res = 0) ∧
      ∀ k, k < 64 → k ≠ t.self.toNat →
        (stays k → (u.trust.member k).mstate = .active) ∧
        ((t.member k).mstate = .leaving ∨ (t.member k).mstate = .evicted → (u.trust.member k).mstate = .none) ∧
        ((t.member k).mstate = .none ∨ (t.member k).mstate = .attesting → u.trust.member k = t.member k)
    passed s.pass ∧
    (t.dstate ≠ .holding → exec .barrierArrive s = .next s) ∧
    (t.dstate = .holding → t.released = true →
      (s.crossingOut = true → exec .barrierArrive s = .next s) ∧
      (s.crossingOut = false → t.disagreed = false → t.agreed = false →
        exec .barrierArrive s = .next { s with trust := { t with dstate := .arrived } }) ∧
      (s.crossingOut = false → t.disagreed = false → t.agreed = true → runs .barrierArrive passed) ∧
      (s.crossingOut = false → t.disagreed = true → runs .barrierArrive fun u =>
        u = { s with trust := u.trust } ∧ u.trust.res = 5 ∧ u.trust.epoch = t.epoch ∧ u.trust.members = t.members ∧
        u.trust.busy = (if t.busy = some .barrier then none else t.busy) ∧ u.trust.laneIn = t.laneIn ∧ u.trust.dstate = .active)) ∧
    (t.dstate = .holding → t.released = false → runs .barrierArrive fun u =>
      (u.trust.released = true ∨ u.trust.dstate ≠ .holding) ∧ ∀ d m, d < 8 → (u.sector d m).dirty = 0)) ∧
  ∀ (s : State) (n q : Nat) (c : Cmd), n < 96 → s.cmd? n q = some c → c.prog.parked = none →
    let runs := fun (p : State → Prop) => ∃ t, exec (.trustCommandAct n ⟨q, BitVec.allOnes 1024⟩) s = .next t ∧ p t
    let isSet := fun (t : State) (f : BitVec 5) => t.cmd? n q = none ∧
      (t.timedAt n).flag f = (if (s.timedAt n).flag f = .error then .error else .set)
    let shows := fun (t : State) (v : Nat) => ∀ w, c.win = some w → 1 ≤ w.rbu → w.rbu ≤ 4096 → 1 ≤ w.tr.toNat →
      w.tr.toNat ≤ 128 → c.b.toNat + 16 ≤ w.size → ∀ i, i < 16 →
        (t.timedAt n).sbyte (w.byteAddr (c.b.toNat + i)) = BitVec.ofNat 8 (v >>> (8 * i))
    let gives := fun (f : BitVec 5) (v : Nat) => runs fun t => isSet t f ∧ t.mem = s.mem ∧ t.trust = s.trust ∧ shows t v
    let x := s.trust.member c.a.toNat
    let crossing := s.trust.those fun _ y => y.mstate == .active || y.mstate == .leaving
    (∀ o, c.ins = .tepoch o → gives o.f (s.trust.epoch.toNat +
      (match s.trust.dstate with | .alone => 0 | .active => 1 | .holding => 2 | .arrived => 3) * 2 ^ 32 +
      s.trust.self.toNat * 2 ^ 40 + crossing.toNat * 2 ^ 64)) ∧
    (∀ o, c.ins = .tstat o → gives o.f (
      (match x.mstate with | .none => 0 | .attesting => 1 | .pending => 2 | .active => 3 | .leaving => 4 | .evicted => 5) +
      x.valid.toNat * 2 ^ 8 + x.isPeer.toNat * 2 ^ 9 + x.mod.toNat * 2 ^ 16 + x.peer.toNat * 2 ^ 32 + x.mauth * 2 ^ 64)) ∧
    (∀ o, c.ins = .tlog o → gives o.f ((s.trust.dropLog[c.a.toNat]?.map (·.toNat)).getD 0)) ∧
    ∀ o, c.ins = .tbarr o →
      let ready := s.settled n q 0xFFFF = true ∧ s.releaseHeld (n / 12) = false
      let reached := (s.trust.epoch - c.a.setWidth 32).toNat < 2 ^ 31
      (¬ ready → ∀ words, exec (.trustCommandAct n ⟨q, words⟩) s = .next s) ∧
      let clean := fun (t : State) => ∀ m, (t.sector (n / 12) m).dirty = 0
      (ready → reached → runs fun t => isSet t o.f ∧ (c.prog.left = none → clean t)) ∧
      ∀ k, ready → ¬ reached → (s.coreAt n).task = some k → runs fun t => t.cmd? n q = none ∧ (c.prog.left = none → clean t) ∧
        t.timedAt n = s.timedAt n ∧ (⟨k.ref, o.f, c.a.setWidth 32⟩ : EpochWait) ∈ t.trust.waits

/-- O14 (tier 2). R369-R374, R380, R381. What the cryptography finds is given with a message; `answerStep` gives the step that an answer belongs to, and whether its check passes. The order of version, capabilities and algorithms and the numbering of chunks are those of SPDM 1.3, which R371 names (log entry 72, PRESUMED). That whether a signature, a chain or a secret is good comes with the message is the model's choice (log entry 41), and so is that a member without reference digests is not measured again (log entry 40). -/
def Obligations.AttestationMessages : Prop :=
  (∀ (s : State) (m k : Nat) (e : BitVec 32) (a b : BitVec 64), m < 64 → k < 64 →
    let t := s.trust
    let runs := fun (i : Instr) (p : State → Prop) => ∃ t, exec i s = .next t ∧ p t
    let known := (t.member m).mstate = .pending ∨ (t.member m).mstate = .active ∨ (t.member m).mstate = .leaving
    (m = t.self.toNat ∨ ¬ known → exec (.barrierArrival m e a b) s = .next s) ∧
    (m ≠ t.self.toNat → known → t.dstate = .alone ∨ t.dstate = .active → runs (.barrierArrival m e a b) fun u =>
      u = { s with trust := { t with arrivals := u.trust.arrivals } } ∧ (⟨m, e, a, b⟩ : Arrival) ∈ u.trust.arrivals ∧
      ∀ x, x ∈ u.trust.arrivals ↔ x = ⟨m, e, a, b⟩ ∨ (x ∈ t.arrivals ∧ x.member ≠ m)) ∧
    (let may := known ∧ k ≠ t.self.toNat ∧ ((t.member k).mstate = .active ∨ (t.member k).mstate = .leaving)
     (¬ may → exec (.evictionNotice m k) s = .next s) ∧
     (may → t.arrivals = [] → runs (.evictionNotice m k) fun u => (u.trust.member k).mstate = .evicted ∧
       u.trust.dstate = .holding ∧ u.trust.epoch = t.epoch)) ∧
    (let x := t.member m
     let again := t.attestPeriod ≠ 0 ∧ m ≠ t.self.toNat ∧ x.mstate = .active ∧ x.refs ≠ []
     (¬ again → exec (.reattestationTimer m) s = .next s) ∧
     (again → runs (.reattestationTimer m) fun u => u = { s with trust := { t with members := u.trust.members } } ∧
       u.trust.member m = { x with steps := 7 }))) ∧
  (∀ (s : State) (w : Requester) (slot chunk : Nat) (ok last : Bool) (code : BitVec 8) (set : Algorithms) (found : Proofs),
    let x := s.conn w
    let hears := s.answers w
    let runs := fun (i : Instr) (p : State → Prop) => ∃ t, exec i s = .next t ∧ p t
    let becomes := fun (i : Instr) (y : Spdm) => runs i fun t => t = { s with spdm := t.spdm } ∧ t.conn w = y ∧
      ∀ z, z ≠ w → t.conn z = s.conn z
    (hears = false → ∀ i ∈ ([.getVersion w, .getCapabilities w, .negotiateAlgorithms w set, .getDigests w, .getCertificate w slot,
      .challenge w slot, .getMeasurements w, .keyExchange w ok, .chunkSend w chunk last, .chunkGet w chunk,
      .slhDsaSignatureRequest w] : List Instr), exec i s = .next s) ∧
    exec (.heartbeat w) s = .next s ∧ exec (.unsupportedRequest w code) s = .next s ∧
    (hears = true →
      becomes (.getVersion w) { x with stage := 1 } ∧
      (x.stage = 0 → exec (.getCapabilities w) s = .next s) ∧
      (1 ≤ x.stage → becomes (.getCapabilities w) { x with stage := 2 }) ∧
      (x.stage < 2 → exec (.negotiateAlgorithms w set) s = .next s) ∧
      (2 ≤ x.stage → becomes (.negotiateAlgorithms w set)
        (if set = ⟨.sha384, .rsaPss3072, .ecdheP384MlKem1024, .aes256Gcm, .hkdfSha384⟩ then { x with stage := 3 } else x)) ∧
      (x.stage < 3 ∨ 1 < slot → exec (.getCertificate w slot) s = .next s ∧ exec (.challenge w slot) s = .next s) ∧
      (3 ≤ x.stage → ∀ i ∈ ([.getDigests w, .getMeasurements w, .slhDsaSignatureRequest w] : List Instr), becomes i x) ∧
      (3 ≤ x.stage → slot < 2 → becomes (.getCertificate w slot) x ∧ becomes (.challenge w slot) x) ∧
      (2 ≤ x.stage → becomes (.chunkGet w chunk) x ∧
        (chunk = (if x.chunking then x.nextChunk else 0) → becomes (.chunkSend w chunk last)
          { x with chunking := !last, nextChunk := if last then 0 else chunk + 1 }) ∧
        (chunk ≠ (if x.chunking then x.nextChunk else 0) → becomes (.chunkSend w chunk last) x)) ∧
      (3 ≤ x.stage →
        (s.entryOf w = none → becomes (.keyExchange w ok) { x with session := false, finished := false }) ∧
        ∀ m, s.entryOf w = some m →
          let may := m ≠ s.trust.self.toNat ∧ (s.trust.member m).mstate = .none
          (may → runs (.keyExchange w false) fun t => t.conn w = { x with session := false, finished := false } ∧
            (t.trust.member m).mstate = .none ∧ t.trust.res = 4) ∧
          (may → runs (.keyExchange w true) fun t => t.conn w = { x with session := true, finished := false } ∧
            (t.trust.member m).mstate = .attesting ∧ ∀ k, k < 64 → k ≠ m → t.trust.member k = s.trust.member k) ∧
          let open' := x.session = true ∧ x.finished = false ∧ (s.trust.member m).mstate = .attesting
          (¬ may → ¬ open' → becomes (.keyExchange w ok) { x with session := false, finished := false }) ∧
          (¬ may → open' → runs (.keyExchange w ok) fun t => t.conn w = { x with session := false, finished := false } ∧
            (t.trust.member m).mstate = .none ∧ t.trust.res = 4))) ∧
    (x.session = true → x.finished = true → becomes (.keyUpdate w) { x with keyUpdates := x.keyUpdates + 1 }) ∧
    (x.session = false ∨ x.finished = false → exec (.keyUpdate w) s = .next s) ∧
    (x.session = false → exec (.endSession w) s = .next s) ∧
    (x.session = true → runs (.endSession w) fun t => t.conn w = { x with session := false, finished := false } ∧
      ∀ m, s.entryOf w = some m →
        ((s.trust.member m).mstate = .attesting → x.finished = false → (t.trust.member m).mstate = .none ∧ t.trust.res = 4) ∧
        ((s.trust.member m).mstate ≠ .attesting ∨ x.finished = true → t.trust = s.trust)) ∧
    ∀ m, s.entryOf w = some m →
      let may := x.session = true ∧ x.finished = false ∧ (s.trust.member m).mstate = .attesting
      let passes := found.chains = true ∧ found.oneIdentity = true ∧ found.rsa = true ∧ found.slh = true
      (¬ may → exec (.finish w found) s = .next s) ∧
      (may → passes → runs (.finish w found) fun t => t.conn w = { x with finished := true } ∧ (t.trust.member m).mstate = .pending) ∧
      (may → ¬ passes → runs (.finish w found) fun t => t.conn w = { x with session := false } ∧
        (t.trust.member m).mstate = .none ∧ t.trust.res = 4)) ∧
  ∀ (s : State) (m : Nat) (r : SpdmAnswer), m < 64 →
    let t := s.trust
    let x := t.member m
    let runs := fun (p : State → Prop) => ∃ u, exec (.spdmResponse m r) s = .next u ∧ p u
    (answerStep x.refs x.steps r = none → exec (.spdmResponse m r) s = .next s) ∧
    (x.mstate = .attesting → t.busy = some (.attest m) →
      (answerStep x.refs x.steps r = some false → runs fun u => (u.trust.member m).mstate = .none ∧ u.trust.busy = none ∧
        u.trust.res = 4) ∧
      (answerStep x.refs x.steps r = some true → x.steps ≠ 9 → runs fun u => u.trust.member m = { x with steps := x.steps + 1 } ∧
        u.trust.busy = some (.attest m)) ∧
      (answerStep x.refs x.steps r = some true → x.steps = 9 → runs fun u => (u.trust.member m).mstate = .pending ∧
        u.trust.busy = none ∧ u.trust.res = 0)) ∧
    (x.mstate = .active ∨ x.mstate = .leaving → x.steps = 7 → m ≠ t.self.toNat →
      (answerStep x.refs x.steps r = some true → runs fun u => u.trust.member m = { x with steps := 10 } ∧ u.trust.epoch = t.epoch) ∧
      (answerStep x.refs x.steps r = some false → t.arrivals = [] → runs fun u => (u.trust.member m).mstate = .evicted ∧
        u.trust.dstate = .holding)) ∧
    (∀ l a b, x.steps = 7 → answerStep x.refs 7 (.measurements l a b) =
      some (decide (a = true ∧ b = true ∧ l = x.refs ∧ l.length = 5))) ∧
    (∀ set, answerStep x.refs 2 (.algorithms set) =
      some (decide (set = ⟨.sha384, .rsaPss3072, .ecdheP384MlKem1024, .aes256Gcm, .hkdfSha384⟩))) ∧
    ∀ a b d, answerStep x.refs 8 (.keyExchange a b d) = some (decide (a = true ∧ b = true ∧ d = true))

/-- O15 (tier 2). R203, R204, R400-R404. The model's choices: a start takes one step (log entry 19), a failed start leaves memory (log entry 20), a trip keeps what log entry 21 names, a warm start moves bytes as log entry 22 says, health entries of a reading are as log entry 25 has them, what no rule gives a reset value stands in every core as State.reset names it (log entry 2, DESIGN CHOICE), and memory that a trip or a loss of supply has lost reads 0 (log entry 6, DESIGN CHOICE). -/
def Obligations.StartsAndPower : Prop :=
  (∀ (s : State) (x : StartChecks) (op : BitVec 2),
    let runs := fun (i : Instr) (p : State → Prop) => ∃ t, exec i s = .next t ∧ p t
    let busy := s.ctl.sstate = .starting
    let fails := fun (i : Instr) (r : BitVec 4) => runs i fun t => t.ctl.sstate = .failed ∧ t.ctl.sres = r ∧ t.mem = s.mem
    let fresh := fun (t : State) => t.ctl.sstate = .ready ∧ t.ctl.sres = 0 ∧ t.cores = State.reset.cores ∧ t.regions = [] ∧
      t.dcus = State.reset.dcus ∧ t.rdc = State.reset.rdc ∧ t.vertex = State.reset.vertex ∧ t.pbc = State.reset.pbc ∧
      t.lattice = State.reset.lattice ∧ t.tables = [] ∧ t.trust = State.reset.trust ∧ t.myMod = x.position ∧
      t.inRack x.position.toNat = true ∧
      (∀ n : Fin 8, (t.hbm.get n).hashM = (s.hbm.get n).hashM ∧ (t.hbm.get n).hashA = (s.hbm.get n).hashM) ∧
      t.ctl.hlogBase = s.ctl.hlogBase ∧ t.ctl.pwrCap = s.ctl.pwrCap
    (busy → exec (.coldStart x) s = .next s ∧ exec (.warmStart x) s = .next s ∧ exec (.startOpInvalid op) s = .next s) ∧
    (¬ busy →
      (x.fwOk = false → fails (.coldStart x) 3) ∧
      (x.fwOk = true → x.trainOk = false → fails (.coldStart x) 4) ∧
      (x.fwOk = true → x.trainOk = true → runs (.coldStart x) fun t => fresh t ∧ t.ctl.cold = true ∧
        (∀ a, a < 2 ^ 52 → t.mem.byte a = 0) ∧ (∀ a, 2 ^ 52 ≤ a → Memory.wf s.mem = true → t.mem.byte a = s.mem.byte a) ∧
        (∀ g, g < 2 ^ 47 → g ∉ t.poison)) ∧
      (s.ctl.cold = false → exec (.warmStart x) s = .next { s with ctl := { s.ctl with sres := 2 } }) ∧
      (s.ctl.cold = true → x.fwOk = false → fails (.warmStart x) 5) ∧
      (s.ctl.cold = true → x.fwOk = true → runs (.warmStart x) fun t => fresh t ∧ t.ctl.cold = true ∧
        (x.position = s.myMod → (∀ n : Fin 8, (s.hbm.get n).hashM = (s.hbm.get n).hashA) →
          (∀ n, n < 8 → ∀ e, e ∈ s.rdcOf n → e.2.dirty = 0) → Memory.wf s.mem = true →
          (∀ e, e ∈ s.mem → e.1 < 2 ^ 52 → e.1 / 2 ^ 48 = s.myMod.toNat) → ∀ a, a / 2 ^ 48 = s.myMod.toNat →
            t.mem.byte a = s.mem.byte a)) ∧
      (op = 0 ∨ op = 3 → exec (.startOpInvalid op) s = .next { s with ctl := { s.ctl with sres := 1 } }))) ∧
  ∀ (s : State) (x : SensorReadings) (v : Word),
    let runs := fun (i : Instr) (p : State → Prop) => ∃ t, exec i s = .next t ∧ p t
    let gone := fun (t : State) => t.cores = State.reset.cores ∧ t.regions = [] ∧ t.trust = State.reset.trust ∧
      t.lattice = State.reset.lattice ∧ ∀ a, a < 2 ^ 52 → t.mem.byte a = 0
    let keepsMasks := fun (t : State) => ∀ n : Fin 8, (t.hbm.get n).hashM = (s.hbm.get n).hashM
    let c := s.ctl
    let hot := ∃ i : Fin 25, c.tTrip.toNat ≤ (x.temps.get i).toNat
    let dead := ∃ i : Fin 18, c.vTrip.get i ≠ 0 ∧ (x.volts.get i).toNat < (c.vTrip.get i).toNat
    let slow := (∃ i : Fin 25, c.tThrot.toNat ≤ (x.temps.get i).toNat) ∨ c.pwrCap.toNat < x.power.toNat ∨
      ∃ i : Fin 18, c.vLow.get i ≠ 0 ∧ (x.volts.get i).toNat < (c.vLow.get i).toNat
    let quick := (∀ i : Fin 25, (x.temps.get i).toNat + 80 < c.tThrot.toNat) ∧ x.power.toNat + 100 < c.pwrCap.toNat ∧
      ∀ i : Fin 18, c.vLow.get i = 0 ∨ (c.vLow.get i).toNat ≤ (x.volts.get i).toNat
    let reads := fun (t : State) => t.ctl.temps = x.temps ∧ t.ctl.volts = x.volts ∧ t.ctl.pwrNow = x.power ∧ t.ctl.rosc = x.rosc
    (∀ i ∈ ([.powerOn, .supplyLoss] : List Instr), runs i fun t => gone t ∧ t.ctl = State.reset.ctl) ∧
    let steps := fun (t : State) => c.pwrStep.toNat ≤ 8 →
      t.ctl.pwrStep.toNat = (if slow then min 8 (c.pwrStep.toNat + 1) else if quick then c.pwrStep.toNat - 1 else c.pwrStep.toNat)
    (runs (.powerControlTick x) fun t => reads t ∧ steps t) ∧
    (c.sstate = .tripped → exec (.moduleTrip x) s = .next s ∧ runs (.powerControlTick x) fun t =>
      t = { s with ctl := t.ctl, mem := t.mem } ∧ reads t ∧ t.ctl.sstate = .tripped) ∧
    (c.sstate ≠ .tripped →
      (hot ∨ dead → ∀ i ∈ ([.powerControlTick x, .moduleTrip x] : List Instr), runs i fun t => gone t ∧ keepsMasks t ∧ reads t ∧
        t.ctl.sstate = .tripped ∧ t.ctl.cold = false) ∧
      (¬ (hot ∨ dead) → exec (.moduleTrip x) s = .next s ∧ (runs (.powerControlTick x) fun t =>
        steps t ∧ reads t ∧ t.ctl.sstate = c.sstate ∧ t.cores = s.cores ∧ t.trust = s.trust))) ∧
    exec (.pwrcapWrite v) s = .next { s with ctl := { c with pwrCap := BitVec.ofNat 12 (min 2400 (v.toNat % 4096)) } }

/-- O16 (tier 1). R110, R113-R115, R130, R138, R161. `State.charge` is the cycle charged to the region (R35), `endOfCycle` what lands, `sweep` what follows of itself. Which core takes its cycle, what a step draws, what a core without a head of issue does, and the order of a bundle's traps are the model's choices (log entries 8, 44, 45 and 55), as is a bundle held because it would close a seventeenth batch (60). -/
def Obligations.StepRunsDecodedInstruction : Prop :=
  (∀ (c : Core) (w : BundleBits),
    let p := c.timed.seq.pc.toNat
    let half := fun (k : Nat) => Store.get 0 c.image.overlay k
    c.timed.seq.loop.replays = false → c.image.badHalf = [] →
    (half p = 0xFFFF → p + 25 ≤ c.image.overlayLen → (∀ i, i < 24 → half (p + 1 + i) = w.extractLsb' (16 * i) 16) →
      bundleValid w = true → c.headBits = .ok w) ∧
    ((half p).toNat < c.image.dictCount → (half p).toNat < 0x2000 → p < c.image.overlayLen → c.image.badDict = [] →
      c.headBits = .ok (Store.get 0 c.image.dict (half p).toNat))) ∧
  (∀ (w : BundleBits) (b : Bundle) (s : State), decodeBundle w = .ok b →
    let run := fun (n : SlotNo) (x : Option Instr) (s : State) => match x with
      | none => (.next s : Out)
      | some i => exec i (s.inSlot n)
    runSlots b s =
      andThen (run 0 b.sync s) fun s0 =>
      andThen (run 0 b.br s0) fun s1 =>
      andThen (run 1 b.sA (s1.setTimed { s1.timed with seq := s0.timed.seq })) fun s2 =>
      andThen (run 2 b.sB s2) fun s3 =>
      andThen (run 3 b.vA s3) fun s4 =>
      andThen (run 4 b.vB s4) fun s5 =>
      andThen (run 5 b.mx s5) fun s6 =>
      andThen (run 6 b.tr s6) fun s7 =>
      andThen (run 7 b.cp s7) fun s8 => .next (s8.setTimed { s8.timed with seq := s1.timed.seq })) ∧
  (∀ (s : State) (k : Task) (b : Bundle) (w : BundleBits) (drawn : Bool), s.choice = .cycle drawn →
    let u := if drawn then s.drew else s
    let c := u.charge u.focus.val
    u.core.task = some k → k.phase = .running → u.un.closedDue = [] → c.boundaryAt c.focus.val = none →
    c.verdict = .issue b w →
      c.core.headBits = .ok w ∧ decodeBundle w = .ok b ∧
      step s = andThen (andThen (c.issue b w) State.endOfCycle) fun t => .next t.nextFocus.sweep) ∧
  ∀ (s : State) (b : Bundle) (w : BundleBits),
    let q := s.timed.seq
    let runs := fun (i : Instr) (p : State → Prop) => ∃ t, exec i s = .next t ∧ p t
    s.issue b w = (andThen (runSlots b s) fun t =>
      let t1 := t.setCore (t.core.freshBuffer q.loop b)
      let t2 := t1.setTimed { t1.timed with seq := { t1.timed.seq with conflict := 0, walked := false, issuing := 0 } }
      if b.fin then exec .endTask t2
      else .next ((t2.setTimed { t2.timed with
        seq := t2.timed.seq.advance q (s.core.after q.pc) w b.lbe }).fetchAhead (s.core.after q.pc))) ∧
    (s.verdict = .issue b w → exec .headOfIssue s = s.issue b w ∧ runs .headOfIssue fun _ => True) ∧
    (∀ n x, s.verdict = .trap n x → exec .headOfIssue s = .next (s.takeTrap n x)) ∧
    (∀ cause, s.verdict = .hold cause → exec .headOfIssue s = .next (if cause = 4 then
      s.setTimed { s.timed with seq := { q with conflict := q.conflict + 1 } } else if cause = 5 then s.drew else s)) ∧
    (q.loop.skip = false → exec .loopSkip s = .next s) ∧
    (∀ x, q.loop.skip = true → s.core.skipTrap = some x → exec .loopSkip s = .next (s.takeTrap 0 x)) ∧
    (q.loop.skip = true → s.core.skipTrap = none → s.core.headBits = .ok w → runs .loopSkip fun t =>
      t.un = s.un ∧ t.core.task = s.core.task ∧ t.timed = { s.timed with seq := { q with
        pc := s.core.after q.pc, loop := if bitAt w 1 then .idle else { q.loop with pos := q.loop.pos + 1 } } })

/-- O17 (tier 1). R113, R116-R126. The words are those of the examples in the chapters; the transpose and the sync words are written out from R124 and R117. -/
def Obligations.WordsDecode : Prop :=
  decodeTableWord 32 0x44244010 = some (.ldsN32 9 4 16) ∧
  decodeTableWord 32 0x19500003 = some (.seth 20 0 3) ∧
  decodeTableWord 32 0x50180018 = some (.mfsr 6 0x18) ∧
  decodeTableWord 32 0x20207500 = some (.mul 8 7 20) ∧
  decodeTableWord 40 0x0000003001 = some (.wait 0x30) ∧
  decodeTableWord 64 0x0103010200030000 = some (.vadd ⟨3, 1, 2, 0, 0, false, .f32, false, 0⟩) ∧
  decodeTableWord 64 0x0301040700024000 = some (.vmul ⟨1, 4, 7, 0, 0, false, .i32, true, 0⟩) ∧
  decodeTableWord 64 0x0B0B0203040180E8 = some (.vlut3 ⟨11, 2, 3, 4, 0, false, .n16, false, 0xE8⟩) ∧
  decodeTableWord 48 0x03110600000F = some (.tldm ⟨1, 4, 3, 0, 15⟩) ∧
  decodeTableWord 48 0x10000C600000 = some (.vld ⟨0, 1, true, 6, 0⟩) ∧
  decodeTableWord 48 0x190008000000 = some (.bclose 1) ∧
  decodeTableWord 48 0x240102D00003 = some (.pharm ⟨0, 2, 1, 26, 3⟩) ∧
  decodeTableWord 48 0x3810A8000000 = some (.gbag ⟨1, 1, 20, 0, 0⟩) ∧
  decodeTableWord 48 0x41000A000201 = some (.lpush ⟨0, 0, 5, 0, 0x201⟩) ∧
  decodeTableWord 48 0x540281F80000 = some (.pcnt ⟨0, 5, 0, 63, 0⟩) ∧
  decodeTableWord 48 0x580086000000 = some (.tbarr ⟨0, 1, 3, 0, 0⟩) ∧
  slotOf .branch readBranch 0x0324001E = .ok (some (.bnez 9 30)) ∧
  slotOf .branch readBranch 0x10508000 = .ok (some (.loop 20 1)) ∧
  slotOf .matrix readMatrix 0x05015005 = .ok (some (.mpushw 1 5 5)) ∧
  slotOf .matrix readMatrix 0x0E290000 = .ok (some (.apxrd 10 1)) ∧
  slotOf .transpose readTranspose 0x02280800 = .ok (some (.xposeN16 40 8 0)) ∧
  slotOf .scalar readScalar 0 = .ok none ∧ slotOf .copy readCopy 0 = .ok none ∧
  slotOf .scalar readScalar 0x10000000 = .error (.reserved .scalar) ∧
  slotOf .branch readBranch 0x06240001 = .error (.reserved .branch) ∧
  slotOf .transpose readTranspose 0x02280820 = .error (.badField .transpose) ∧
  slotOf .vectorA readVectorA 0x04030102000B0000 = .error (.badField .vectorA)

/-- O18 (tier 3). R113-R126: no bit of an encoding is dropped. `encodeSync`, `encodeBranch` and the others are the encoders of the slots. -/
def Obligations.EncodeDecode : Prop :=
  (∀ i : Instr, i.wf = true →
    (i.slot? = some .sync → slotOf .sync readSync (encodeSync i) = .ok (some i)) ∧
    (i.slot? = some .branch → slotOf .branch readBranch (encodeBranch i) = .ok (some i)) ∧
    (i.slot? = some .scalar → slotOf .scalar readScalar (encodeScalar i) = .ok (some i)) ∧
    (i.slot? = some .vectorA → slotOf .vectorA readVectorA (encodeVectorA i) = .ok (some i)) ∧
    (i.slot? = some .vectorB → slotOf .vectorB readVectorB (encodeVectorB i) = .ok (some i)) ∧
    (i.slot? = some .matrix → slotOf .matrix readMatrix (encodeMatrix i) = .ok (some i)) ∧
    (i.slot? = some .transpose → slotOf .transpose readTranspose (encodeTranspose i) = .ok (some i)) ∧
    (i.slot? = some .copy → slotOf .copy readCopy (encodeCopy i) = .ok (some i))) ∧
  (∀ b : Bundle,
    let holds := fun (x : Option Instr) (s : Slot) => ∀ i, x = some i → i.wf = true ∧ i.slot? = some s
    holds b.sync .sync → holds b.br .branch → holds b.sA .scalar → holds b.sB .scalar → holds b.vA .vectorA →
    holds b.vB .vectorB → holds b.mx .matrix → holds b.tr .transpose → holds b.cp .copy →
      decodeBundle (encodeBundle b) = .ok b) ∧
  ∀ (nbits w : Nat) (i : Instr), decodeTableWord nbits w = some i →
    i.wf = true ∧ decodeBundle (wordBundle nbits w) = .ok (Bundle.single i)

/-- O19 (tier 3). Memory is one list in one form (log entry 6), whichever of the 360 meanings the step runs. -/
def Obligations.MemoryStaysCanonical : Prop :=
  ∀ s t : State, s.memOk → step s = .next t → t.memOk

/-- O20 (tier 2). R37: a write below 14,000 stores 14,000; R400: a write above 2,400 stores 2,400. -/
def Obligations.BoundedRegistersStay : Prop :=
  ∀ s t : State, s.boundedRegisters → step s = .next t → t.boundedRegisters

/-- O21 (tier 2). R94. Every instruction has its effect in every state; the one fault is that of an address that does not exist. That fault is the model's choice (log entry 54, DEDUCED). -/
def Obligations.StepGoesOn : Prop :=
  (∀ (i : Instr) (s : State), goesOn (exec i s) ∨ ∃ a, exec i s = .fault (.noSuchAddress a)) ∧
  (∀ s : State, goesOn (step s) ∨ ∃ a, step s = .fault (.noSuchAddress a)) ∧
  (∀ s : State, s.agenda = [] → goesOn (step s)) ∧
  ∀ (s : State) (key n : Nat) (wr copy : Bool) (v : BitVec 2048), s.outsideMissing key n = true →
    exec (.homeAccess (.outside key n wr copy v)) s = .fault (.noSuchAddress key)

/-- O22 (tier 1). The reset columns of R37, R203, R287, R310, R354, R368 and R400. What the manual gives no value for is the model's choice (log entries 1, 2, 6 and 7). -/
def Obligations.ResetState : Prop :=
  let s := State.reset
  s.memOk ∧ s.mem = [] ∧ s.boundedRegisters ∧ s.ctl.sstate = .reset ∧ s.ctl.sres = 0 ∧ s.ctl.scrubPeriod = 86400 ∧
  s.ctl.pwrCap = 2400 ∧ s.ctl.pwrStep = 0 ∧ s.ctl.tThrot = 1520 ∧ s.ctl.tTrip = 1760 ∧ s.ctl.tWarn = 1440 ∧
  s.period = 1400000 ∧ s.regions = [] ∧ s.poison = [] ∧ s.tables = [] ∧ s.trust.dstate = .alone ∧ s.trust.epoch = 0 ∧
  s.trust.busy = none ∧ s.agenda = [] ∧
  (∀ n : Fin 96, (s.cores.get n).task = none ∧ (s.cores.get n).un.queue = []) ∧
  (∀ n : Fin 8, (s.dcus.get n).dispatchEn = false ∧ (s.dcus.get n).busy = false ∧ (s.dcus.get n).slots = [] ∧
    (s.pbc.get n).slotLog2 = 6 ∧ (s.pbc.get n).migLimit = 1400000 ∧ (s.pbc.get n).busy = none ∧ (s.pbc.get n).hotSlots = 0 ∧
    (∀ g : Fin 16, (s.pbc.get n).halve.get g = 65536 ∧ (s.pbc.get n).thresh.get g = 0) ∧
    (s.vertex.get n).objCount = 0 ∧ (s.rdc.get n) = [] ∧
    ∀ i : Fin 6, ((s.hbm.get n).hashM.get i).toNat = 0x10400 * 2 ^ i.val) ∧
  (∀ u : Fin 16, (s.lattice.get u).regions = [] ∧ (s.lattice.get u).gens = []) ∧
  ∀ m : Fin 64, (s.trust.members.get m).valid = false ∧ (s.trust.members.get m).mstate = .none

/-- O23 (tier 2). R128: when a result of latency `L` is seen; RESULT_LANDING is one landing of the focused core. When a mark ends is the model's reading of R397 (log entry 16, DEDUCED). R129, R207, R70: the destination of a landing, kind by kind, and its frame. A clear takes effect before the values of its cycle (`landClear`). R68, R153: FPSTAT at a landing, after the clears of the same cycle. -/
def Obligations.ResultsLand : Prop :=
  ((∀ s : State, ∃ l, exec .resultLanding s = .next ((s.setCore { s.core with marks := l }).setTimed s.timed.landDue) ∧
    ∀ m, m ∈ l ↔ m ∈ s.core.marks ∧ ∀ p, p ∈ s.timed.due → p.res.covers m = false) ∧
  ∀ (t : Timed) (L : Nat) (d : BitVec 6) (v : Word), t.inFlight = [] → 0 < L →
    let after := fun n => Nat.repeat Timed.landDue n (t.pendS L d v)
    (∀ n, n < L → ∀ r, (after n).sreg r = t.sreg r) ∧
    (∀ n, L ≤ n → ∀ r, (after n).sreg r = if r = d then v else t.sreg r)) ∧
  (∀ (t : Timed) (p : Pend),
    let u := p.landValue t
    u.seq = t.seq ∧ u.flags = t.flags ∧ u.wins = t.wins ∧ u.desc = t.desc ∧ u.inFlight = t.inFlight ∧
    (∀ d v, p.res = .scalar d v →
      (∀ r, u.sreg r = if r = d then v else t.sreg r) ∧ u = { t with regs := { t.regs with s := u.regs.s } } ∧
      (∀ r, u.vreg r = t.vreg r) ∧ (∀ r, u.mreg r = t.mreg r) ∧ (∀ r, u.row r = t.row r) ∧ u.sp = t.sp ∧ u.arr = t.arr) ∧
    (∀ d v, p.res = .vector d v →
      (∀ r, u.vreg r = if r = d then v else t.vreg r) ∧ u = { t with regs := { t.regs with v := u.regs.v } } ∧
      (∀ r, u.sreg r = t.sreg r) ∧ (∀ r, u.mreg r = t.mreg r) ∧ (∀ r, u.row r = t.row r) ∧ u.sp = t.sp ∧ u.arr = t.arr) ∧
    (∀ d v, p.res = .mask d v →
      (∀ r, u.mreg r = if r = d then v else t.mreg r) ∧ u = { t with regs := { t.regs with m := u.regs.m } } ∧
      (∀ r, u.sreg r = t.sreg r) ∧ (∀ r, u.vreg r = t.vreg r) ∧ (∀ r, u.row r = t.row r) ∧ u.sp = t.sp ∧ u.arr = t.arr) ∧
    (∀ d v, p.res = .accRow d v →
      (∀ r, u.row r = if r = d then v else t.row r) ∧ u = { t with regs := { t.regs with acc := u.regs.acc } } ∧
      (∀ r, u.sreg r = t.sreg r) ∧ (∀ r, u.vreg r = t.vreg r) ∧ (∀ r, u.mreg r = t.mreg r) ∧ u.sp = t.sp ∧ u.arr = t.arr) ∧
    (∀ d, p.res = .accZero d → u = { t with regs := { t.regs with acc := u.regs.acc, accov := u.regs.accov } } ∧
      (∀ r, u.row r = if r = d then 0 else t.row r) ∧
      ∀ r : BitVec 12, r.toNat < 1536 → u.rowOv r = if r = d then false else t.rowOv r) ∧
    (∀ n v, p.res = .special n v → u = { t with sp :=
      if n = 0x010 then { t.sp with fpctl := v &&& 3 } else if n = 0x012 then { t.sp with shape := v }
      else if n = 0x015 then { t.sp with markv := v } else t.sp }) ∧
    (∀ n v, p.res = .apex n v → u = { t with sp :=
      if n = 0 then { t.sp with apxv := v } else if n = 1 then { t.sp with apxi := v.setWidth 16 }
      else if n = 2 then { t.sp with apxb := v.setWidth 16 } else t.sp }) ∧
    (∀ m y d, p.res = .arrayMode m y d → u = { t with arr := { t.arr with metric := m, mt := y, argMax := d } }) ∧
    (∀ v, p.res = .arrayCen v → u = { t with arr := { t.arr with cen := v } }) ∧
    (p.res = .shadowClear → u = { t with arr := { t.arr with shadow := 0, wcnt := 0 } }) ∧
    (∀ l, p.res = .scratch l → u = { t with regs := { t.regs with scratch := u.regs.scratch } } ∧
      ∀ x, let on := fun (q : StripePart) => q.stripe = x / 4096 ∧ q.mask.extractLsb' (8 * (x % 4096)) 8 ≠ 0
        ((∀ q, q ∈ l → ¬ on q) → u.sbyte x = t.sbyte x) ∧
        ∀ q k, l = k ++ [q] → q.stripe = x / 4096 → q.mask.extractLsb' (8 * (x % 4096)) 8 = BitVec.allOnes 8 →
          u.sbyte x = q.data.extractLsb' (8 * (x % 4096)) 8) ∧
    (p.res = .none ∨ (∃ r, p.res = .accovClear r) ∨ (∃ a b, p.res = .bstClear a b) → u = t) ∧
    (let c := p.landClear t
     (∀ d, p.res = .accovClear d → c = { t with regs := { t.regs with accov := c.regs.accov } } ∧
       ∀ r : BitVec 12, r.toNat < 1536 → c.rowOv r = if r = d then false else t.rowOv r) ∧
     (∀ a b, p.res = .bstClear a b → c = { t with sp := { t.sp with bstat := c.sp.bstat } } ∧
       ∀ x, x ∈ c.sp.bstat ↔ x ∈ t.sp.bstat ∧ ¬ (a ≤ x.1 ∧ x.1 < a + b)) ∧
     (∀ v, p.res = .special 0x011 v → c = { t with sp := { t.sp with fpstat := t.sp.fpstat &&& ~~~v } }) ∧
     ((∀ d, p.res ≠ .accovClear d) → (∀ a b, p.res ≠ .bstClear a b) → (∀ v, p.res ≠ .special 0x011 v) → c = t)) ∧
    let w := p.land t
    w = { u with sp := { u.sp with fpstat := u.sp.fpstat ||| p.fps.setWidth 64, bstat := w.sp.bstat } } ∧
    ∀ e : Nat, let mine := p.bst.filter fun x => x.entry = e
      (mine = [] → w.bst e = u.bst e) ∧
      (mine ≠ [] → (∀ x, x ∈ mine → ∀ y, x.exp = some y → y ≤ 255) →
        (w.bst e).toNat = min 65535 ((u.bst e).toNat % 65536 + (mine.map (·.flushes)).sum) +
          65536 * (mine.filterMap (·.exp)).foldl max ((u.bst e).toNat / 65536 % 256))) ∧
  (∀ (t : Timed) (p q : Pend) (v : Word) (k : Nat), k < 5 →
    p.res = .special 0x011 v → (∀ n w, q.res ≠ .special n w) →
    let u := q.land (p.land (q.landClear (p.landClear t)))
    u.sp.fpstat.getLsbD k = ((t.sp.fpstat.getLsbD k && !v.getLsbD k) || p.fps.getLsbD k || q.fps.getLsbD k))

/-- O24 (tier 1). R210-R212, R214, R215: vector slot A but for its reductions. `a`, `b`, `c` are the elements of va, operand b (R208) and vc. R213: the five reductions. That VRSUM folds its elements without a first +0, and that an exact zero is not tiny, are the model's readings (log entry 42, DEDUCED). R205-R207: enabled elements take the result, every other element keeps the value of vd at issue. -/
def Obligations.VectorArithmeticAndReductions : Prop :=
  (∀ (s : State) (o : VOp),
    let t := s.timed
    let ty := o.ty
    let w := ty.width
    let rtz := t.sp.fpctl.getLsbD 0
    let a := fun i => elem (t.vreg o.va) w i
    let b := fun i => if o.sbf then (t.sreg (o.vb.setWidth 6)).toNat % 2 ^ w else elem (t.vreg o.vb) w i
    let ia := fun i => intOf ty (a i)
    let ib := fun i => intOf ty (b i)
    let fa := fun i => valIn ty (a i)
    let fb := fun i => valIn ty (b i)
    let fc := fun i => valIn ty (elem (t.vreg o.vc) w i)
    let gives := fun (i : Instr) (w : Nat) (f : Nat → Nat) =>
      exec i s = .next (s.setTimed (t.pend 2 (.vector o.vd (t.vecOut o w f))))
    let floats := fun (i : Instr) (f : Nat → EOut) => exec i s = .next (s.setTimed (t.pendFloats 4 o ty f))
    let wrap := fun (f : Nat → Int) => fun n => (f n % (2 ^ w : Nat)).toNat
    let sat := fun (f : Nat → Int) => fun n => satTy ty (f n)
    let rnd := fun (e : Nat → FVal) (fl : Nat → Bool) => fun n => roundElem ty rtz (e n) (fl n)
    let two := fun n => (fa n).2 || (fb n).2
    let three := fun n => (fa n).2 || (fb n).2 || (fc n).2
    (ty.isFloat = false →
      gives (.vadd o) w (wrap fun n => ia n + ib n) ∧ gives (.vsub o) w (wrap fun n => ia n - ib n) ∧
      gives (.vmul o) w (wrap fun n => ia n * ib n) ∧
      gives (.vmin o) w (wrap fun n => min (ia n) (ib n)) ∧ gives (.vmax o) w (wrap fun n => max (ia n) (ib n)) ∧
      gives (.vabs o) w (wrap fun n => |ia n|) ∧ gives (.vneg o) w (wrap fun n => -(ia n))) ∧
    (ty.isFloat = true →
      floats (.vadd o) (rnd (fun n => (fa n).1.add (fb n).1) two) ∧
      floats (.vsub o) (rnd (fun n => (fa n).1.sub (fb n).1) two) ∧
      floats (.vmul o) (rnd (fun n => (fa n).1.mul (fb n).1) two) ∧
      floats (.vmin o) (fun n => exactElem ty ((fa n).1.minOp (fb n).1) (two n)) ∧
      floats (.vmax o) (fun n => exactElem ty ((fa n).1.maxOp (fb n).1) (two n)) ∧
      floats (.vabs o) (fun n => exactElem ty (fa n).1.abs (fa n).2) ∧
      floats (.vneg o) (fun n => exactElem ty (fa n).1.neg (fa n).2)) ∧
    gives (.vmulh o) w (wrap fun n => ia n * ib n / 2 ^ w) ∧
    gives (.vadds o) w (sat fun n => ia n + ib n) ∧ gives (.vsubs o) w (sat fun n => ia n - ib n) ∧
    gives (.vand o) w (fun n => a n &&& b n) ∧ gives (.vor o) w (fun n => a n ||| b n) ∧
    gives (.vxor o) w (fun n => a n ^^^ b n) ∧ gives (.vandn o) w (fun n => a n &&& (b n ^^^ (2 ^ w - 1))) ∧
    floats (.vfma o) (rnd (fun n => ((fa n).1.mul (fb n).1).add (fc n).1) three) ∧
    floats (.vfms o) (rnd (fun n => ((fa n).1.mul (fb n).1).sub (fc n).1) three) ∧
    floats (.vfnma o) (rnd (fun n => (fc n).1.sub ((fa n).1.mul (fb n).1)) three) ∧
    gives (.vmac o) 32 (fun n => (((elem (t.vreg o.vd) 32 n : Int) + laneDot t o n (32 / w)) % 2 ^ 32).toNat) ∧
    exec (.vscale o) s = .next (s.setTimed (t.pendFloats 4 o (scaleTy ty) fun i =>
      let x := valIn ty (elem (t.vreg o.va) (scaleTy ty).width i)
      let z := valIn (scaleTy ty) (elem (t.vreg o.vc) (scaleTy ty).width i)
      roundElem (scaleTy ty) rtz ((x.1.scale (t.scaleExp o (i / 32))).add z.1) (x.2 || z.2))) ∧
    gives (.vbcast o) w (fun _ => if o.sbf then (t.sreg (o.vb.setWidth 6)).toNat % 2 ^ w else a o.imm.toNat) ∧
    gives (.vmov o) w a ∧
    gives (.viota o) w (wrap fun n => (if o.sbf then ((t.sreg (o.vb.setWidth 6)).toNat : Int) else 0) + n * o.imm.toInt) ∧
    gives (.vmovi o) w (wrap fun _ => o.imm.toInt)) ∧
  (∀ (s : State) (o : VOp),
    let t := s.timed
    let ty := o.ty
    let w := ty.width
    let a := fun i => elem (t.vreg o.va) w i
    let on := t.enabled o w
    let n := t.active w
    let top : Int := if ty.isSigned then 2 ^ (w - 1) - 1 else 2 ^ w - 1
    let bot : Int := if ty.isSigned then -(2 ^ (w - 1)) else 0
    let gives := fun (i : Instr) (v : Word) => exec i s = .next (s.setTimed (t.pendS 6 o.sd v))
    let fold := fun (f : Int → Int → Int) (init : Int) => BitVec.ofInt 64 (foldEn on (fun r i => f r (intOf ty (a i))) init n)
    let pick := fun (f : FVal → FVal → FVal) => foldEn on
      (fun (r : Option FVal) i => match r with
        | none => some (valIn ty (a i)).1
        | some y => some (f y (valIn ty (a i)).1)) none n
    let floats := fun (i : Instr) (v : FVal) =>
      exec i s = .next (s.setTimed (t.pendBst 6 (.scalar o.sd ((toF32 v).setWidth 64)) (reduceBst t o)))
    (ty.isFloat = false → gives (.vrsum o) (fold (fun x y => x + y) 0) ∧
      gives (.vrmin o) (fold (fun x y => if x ≤ y then x else y) top) ∧
      gives (.vrmax o) (fold (fun x y => if y ≤ x then x else y) bot)) ∧
    (ty.isFloat = true →
      floats (.vrsum o) (sumOut (t.sp.fpctl.getLsbD 0) (pick FVal.add)) ∧
      floats (.vrmin o) ((pick FVal.minOp).getD (.inf false)) ∧ floats (.vrmax o) ((pick FVal.maxOp).getD (.inf true))) ∧
    gives (.vrand o) (BitVec.ofNat 64 (foldEn on (fun r i => r &&& a i) (2 ^ w - 1) n)) ∧
    gives (.vror o) (BitVec.ofNat 64 (foldEn on (fun r i => r ||| a i) 0 n))) ∧
  (∀ (t : Timed) (o : VOp) (w : Nat) (f : Nat → Nat) (i : Nat),
    w = 8 ∨ w = 16 ∨ w = 32 → t.vl ≤ 1024 → i < 32768 / w →
    elem (t.vecOut o w f) w i =
      if i < t.vl * 32 / w ∧ (o.msk = false ∨ (t.mreg (o.ma + BitVec.ofNat 4 (i % (32 / w)))).getLsbD (i / (32 / w)) = true)
      then f i % 2 ^ w else elem (t.vreg o.vd) w i)

/-- O25 (tier 1). R217-R224: vector slot B but for compares, masks, single elements and statistics. That a conversion to a narrower integer saturates is the model's reading (log entry 42, DEDUCED). -/
def Obligations.VectorBResults : Prop :=
  ∀ (s : State) (o : VOp),
    let t := s.timed
    let ty := o.ty
    let w := ty.width
    let a := fun i => elem (t.vreg o.va) w i
    let b := fun i => if o.sbf then (t.sreg (o.vb.setWidth 6)).toNat % 2 ^ w else elem (t.vreg o.vb) w i
    let n := fun i => if o.immf then bits o.imm.toNat 4 0 else b i % w
    let m := fun i => if o.immf then bits o.imm.toNat 4 0 else elem (t.vreg o.vc) w i % w
    let cat := fun i => if i < ty.count then a i else elem (t.vreg o.vb) w (i - ty.count)
    let zip := fun i => if i % 2 = 0 then a (i / 2) else elem (t.vreg o.vb) w (i / 2)
    let gives := fun (i : Instr) (lat : Nat) (f : Nat → Nat) =>
      exec i s = .next (s.setTimed (t.pend lat (.vector o.vd (t.vecOut o w f))))
    let both := fun (i : Instr) (f g : Nat → Nat) =>
      exec i s = .next (s.setTimed ((t.pend 4 (.vector o.vd (allElems w f))).pend 4 (.vector (o.vd + 1) (allElems w g))))
    gives (.vsel o) 2 (fun i => if t.maskBit o.ma w i then a i else b i) ∧
    gives (.vshl o) 2 (fun i => a i * 2 ^ n i % 2 ^ w) ∧
    gives (.vshr o) 2 (fun i => a i / 2 ^ n i) ∧
    gives (.vasr o) 2 (fun i => (signedElem w (a i) / 2 ^ n i % (2 ^ w : Nat)).toNat) ∧
    gives (.vfshl o) 2 (fun i => (a i * 2 ^ w + b i) * 2 ^ m i / 2 ^ w % 2 ^ w) ∧
    gives (.vfshr o) 2 (fun i => (b i * 2 ^ w + a i) / 2 ^ m i % 2 ^ w) ∧
    gives (.vlut3 o) 2 (fun i => lut3 w (o.imm.toNat % 256) (a i) (b i) (elem (t.vreg o.vc) w i)) ∧
    gives (.vpopc o) 2 (fun i => popcount (a i) w) ∧
    gives (.vperm o) 4 (fun i => a (elem (t.vreg o.vb) w i % ty.count)) ∧
    gives (.vrot o) 4 (fun i =>
      a (((i : Int) + (if o.sbf then (t.sreg (o.vb.setWidth 6)).toInt else o.imm.toInt)) % (t.active w : Int)).toNat) ∧
    both (.vzip o) zip (fun i => zip (i + ty.count)) ∧
    both (.vunzip o) (fun i => cat (2 * i)) (fun i => cat (2 * i + 1)) ∧
    (∀ ts, o.ts? = some ts → ∀ i ∈ ([.vcvt o, .vcvtw o, .vcvts o, .vunpk4 o] : List Instr),
      ∃ v l, exec i s = .next (s.setTimed (t.pendBst 3 (.vector o.vd v) l)))

/-- O26 (tier 2). R220: bit `k` of the result. R224: pair `i` of a conversion, element by element. That a conversion to a narrower integer saturates is the model's reading (log entry 42, DEDUCED). -/
def Obligations.TableAndConvertedElements : Prop :=
  (∀ (w table a b c k : Nat), k < w → a < 2 ^ w → b < 2 ^ w → c < 2 ^ w →
    (lut3 w table a b c).testBit k =
      table.testBit (4 * (a.testBit k).toNat + 2 * (b.testBit k).toNat + (c.testBit k).toNat)) ∧
  (∀ (s : State) (o : VOp) (ts : ElemTy) (j : Nat), o.ts? = some ts → s.timed.vl ≤ 1024 →
    let t := s.timed
    let wd := o.ty.width
    let ws := ts.width
    let n := 32768 / max wd ws
    (if wd < ws then (o.part + 1) * n ≤ 32768 / wd else if ws < wd then (o.part + 1) * n ≤ 32768 / ws else o.part = 0) →
    4 < wd → j < 32768 / wd →
    let first := if wd < ws then o.part * n else 0
    let src := if ws < wd then j + o.part * n else j - first
    let on := first ≤ j ∧ j - first < n ∧ j - first < t.vl * 32 / max wd ws ∧ t.enabled o (max wd ws) (j - first) = true
    let x := elem (t.vreg o.va) ws src
    ∀ (i : Instr) (y : Nat),
      (i = .vcvt o ∧ y = (convElem o.ty ts (t.sp.fpctl.getLsbD 0) 0 x).bits) ∨
      (i = .vcvtw o ∧ y = x % 2 ^ wd) ∨
      (i = .vcvts o ∧ y = (convElem o.ty ts (t.sp.fpctl.getLsbD 0) (t.scaleExp o (src / 32)) x).bits) ∨
      (i = .vunpk4 o ∧ ws = 4 ∧ y = (intOf ts x % (2 ^ wd : Nat)).toNat) →
      ∃ v l, exec i s = .next (s.setTimed (t.pendBst 3 (.vector o.vd v) l)) ∧
        elem v wd j = if on then y % 2 ^ wd else elem (t.vreg o.vd) wd j)

/-- O27 (tier 2). R216: the compares, mask by mask and bit by bit. -/
def Obligations.Compares : Prop :=
  ∀ (s : State) (o : VOp),
    let t := s.timed
    let ty := o.ty
    let w := ty.width
    let g := 32 / w
    let a := fun i => elem (t.vreg o.va) w i
    let b := fun i => t.opB o w i
    let compares := fun (i : Instr) (rel : Nat → Bool) =>
      ∃ (m : Nat → MReg) (l : Nat → List BstUpd),
        exec i s = .next (s.setTimed { t with inFlight := t.inFlight ++ (List.range g).map fun j =>
          ⟨2, t.seq.issuing, .mask (o.vd.setWidth 4 + BitVec.ofNat 4 j) (m j), 0, l j⟩ }) ∧
        ∀ j n, j < g → n < 1024 →
          (m j).getLsbD n = if n < t.vl ∧ t.enabled o w (g * n + j) = true then rel (g * n + j)
            else (t.mreg (o.vd.setWidth 4 + BitVec.ofNat 4 j)).getLsbD n
    let fa := fun i => (valIn ty (a i)).1
    let fb := fun i => (valIn ty (b i)).1
    (ty.isFloat = false →
      compares (.vcmpeq o) (fun i => decide (intOf ty (a i) = intOf ty (b i))) ∧
      compares (.vcmpne o) (fun i => decide (intOf ty (a i) ≠ intOf ty (b i))) ∧
      compares (.vcmplt o) (fun i => decide (intOf ty (a i) < intOf ty (b i))) ∧
      compares (.vcmple o) (fun i => decide (intOf ty (a i) ≤ intOf ty (b i)))) ∧
    (ty.isFloat = true →
      compares (.vcmpeq o) (fun i => (fa i).eqv (fb i)) ∧ compares (.vcmpne o) (fun i => !(fa i).eqv (fb i)) ∧
      compares (.vcmplt o) (fun i => (fa i).lt (fb i)) ∧
      compares (.vcmple o) (fun i => (fa i).lt (fb i) || (fa i).eqv (fb i))) ∧
    (∀ x y : FVal, x.isNan = true ∨ y.isNan = true → x.eqv y = false ∧ x.lt y = false) ∧
    (∀ (neg : Bool) (e e' : Int), (FVal.num neg 0 e).eqv (FVal.num (!neg) 0 e') = true ∧ (FVal.num neg 0 e).lt (FVal.num (!neg) 0 e') = false) ∧
    (∀ (op : BitVec 8) (bits : BundleBits), 1 ≤ op.toNat → op.toNat ≤ 4 → bits.extractLsb' 208 64 = VOp.word op o →
      (ty ∈ ([.f8, .i4, .n4] : List ElemTy) ∨ o.vd.toNat % g ≠ 0) → ∀ x, decodeBundle bits ≠ .ok x)

/-- O28 (tier 2). R225-R228, the scalar index or block within its range. R229: the one trap of the vector slots. -/
def Obligations.MasksElementsStatistics : Prop :=
  (∀ (s : State) (o : VOp),
    let t := s.timed
    let w := o.ty.width
    let x := t.mreg (o.va.setWidth 4)
    let y := t.mreg (o.vb.setWidth 4)
    let old := t.mreg (o.vd.setWidth 4)
    let low : MReg := BitVec.ofNat 1024 (2 ^ t.vl - 1)
    let idx := if o.sbf then (t.sreg (o.vb.setWidth 6)).toNat else o.imm.toNat
    let gives := fun (i : Instr) (r : Result) => exec i s = .next (s.setTimed (t.pend 2 r))
    let masks := fun (i : Instr) (v : MReg) => gives i (.mask (o.vd.setWidth 4) ((old &&& ~~~low) ||| (v &&& low)))
    masks (.mand o) (x &&& y) ∧ masks (.mor o) (x ||| y) ∧ masks (.mxor o) (x ^^^ y) ∧ masks (.mnot o) (~~~x) ∧
    gives (.mpopc o) (.scalar o.sd (BitVec.ofNat 64 (popcount x.toNat t.vl))) ∧
    (o.sbf = false ∨ idx < o.ty.count →
      gives (.vext o) (.scalar o.sd
        (if o.ty.isInt && o.ty.isSigned then BitVec.ofInt 64 (signedElem w (elem (t.vreg o.va) w idx))
         else BitVec.ofNat 64 (elem (t.vreg o.va) w idx))) ∧
      gives (.vins o) (.vector o.vd (setElem (t.vreg o.vd) w idx (t.sreg (o.va.setWidth 6)).toNat))) ∧
    (o.sbf = false ∨ idx < 128 →
      gives (.bstrd o) (.scalar o.sd ((t.bst idx).setWidth 64)) ∧
      gives (.scsel o) (.scalar o.sd (scaleWord (scaleSelect
        (t.bst (if o.sbf then idx else o.imm.toNat / 16 % 128))
        (if o.imm.toNat % 4 = 0 then 8 else if o.imm.toNat % 4 = 1 then 6 else if o.imm.toNat % 4 = 2 then 14 else 127)
        (o.imm.toNat / 4 % 4) ((t.sreg (o.va.setWidth 6)).toNat % 65536))))) ∧
    gives (.bstclr o) (.bstClear (o.imm.toNat % 128) (o.imm.toNat / 128 % 128 + 1))) ∧
  (∀ (s : State) (o : VOp), o.sbf = true →
    let x := s.timed.sreg (o.vb.setWidth 6)
    let traps := fun (i : Instr) => exec i s = .next (s.takeTrap 4 ⟨0x10, BitVec.ofNat 64 (x.toNat % 2 ^ 32)⟩)
    (o.ty.count ≤ x.toNat → traps (.vext o) ∧ traps (.vins o)) ∧
    (128 ≤ x.toNat → traps (.bstrd o) ∧ traps (.scsel o)))

/-- O29 (tier 2). R230: the four transpose instructions. -/
def Obligations.TransposedElements : Prop :=
  ∀ (s : State) (d a : BitVec 8) (blk : BitVec 4) (i : Instr) (w : Nat),
    (i = .xposeN32 d a blk ∧ w = 32) ∨ (i = .xposeN16 d a blk ∧ w = 16) ∨ (i = .xposeN8 d a blk ∧ w = 8) ∨
      (i = .xposeb d a blk ∧ w = 1) →
    ((if w = 1 then True else blk.toNat < 32 / w) →
    ∃ v : VReg, exec i s = .next (s.setTimed (s.timed.pend 8 (.vector d v))) ∧
      ∀ k r c, k < 32 / w → r < 32 → c < 32 →
        elem v w (1024 * k + 32 * r + c) = elem (s.timed.vreg a) w (1024 * (k ^^^ blk.toNat) + 32 * c + r)) ∧
    ∀ bits : BundleBits, bits.extractLsb' 304 32 =
        (if w = 32 then 0x01#8 else if w = 16 then 0x02#8 else if w = 8 then 0x03#8 else 0x04#8) ++ d ++ a ++ blk ++ 0#4 →
      ¬ (if w = 1 then True else blk.toNat < 32 / w) → ∀ x, decodeBundle bits ≠ .ok x

/-- O30 (tier 1). R237-R248: the matrix slot at issue; `rank` is ORD of R246. -/
def Obligations.MatrixInstructions : Prop :=
  ∀ (s : State) (d a : BitVec 6) (ma : BitVec 4) (v : BitVec 8) (sr : BitVec 4) (row : BitVec 12) (m y sel : BitVec 2)
    (dir : Bool),
    let t := s.timed
    let sub : BitVec 2048 := (t.vreg v).extractLsb' (2048 * sr.toNat) 2048
    let gives := fun (i : Instr) (lat : Nat) (r : Result) => exec i s = .next (s.setTimed (t.pend lat r))
    let sums := fun n => columnSum t.arr.metric t.arr.mt sub t.arr.active n
    let pushes := fun (i : Instr) (ovw : Bool) =>
      ∃ p : Push, exec i s = .next (s.setTimed { t with arr := { t.arr with pushes := t.arr.pushes ++ [p] } }) ∧
        p.remain = 136 ∧ p.ovw = ovw ∧ p.row = row ∧ p.en = t.arr.cen ∧
        (p.int = true ↔ t.arr.mt = 1 ∨ t.arr.mt = 2) ∧
        ∀ n, n < 128 → (colOf p.sums n).toNat = (sums n).1 % 2 ^ 32 ∧ p.flin.getLsbD n = (sums n).2
    gives (.mmode m y dir) 1 (.arrayMode m y dir) ∧
    gives (.mcen ma) 1 (.arrayCen ((t.mreg ma).setWidth 128)) ∧
    exec (.mwsh v sr) s = .next (s.setTimed { t with arr := t.arr.shift sub }) ∧
    gives .mwclr 1 .shadowClear ∧
    pushes (.mpusha v sr row) false ∧ pushes (.mpushw v sr row) true ∧
    (∃ x : Drain, exec (.mdrain row) s = .next (s.setTimed { t with arr := { t.arr with drains := t.arr.drains ++ [x] } }) ∧
      let fl := t.arr.mt = 0 ∨ t.arr.mt = 3
      let col := fun n => colOf (t.row row) n
      let rank := fun n => if fl then (if (col n).msb then -(((col n).toNat % 2 ^ 31 : Nat) : Int) - 1 else ((col n).toNat : Int)) else (col n).toInt
      let cand := fun n => n < 128 ∧ t.arr.cen.getLsbD n = true ∧ t.sp.apxb.toNat + n ≤ 65534 ∧ ¬ (fl ∧ (ofF32 (col n)).isNan = true)
      x.remain = 144 ∧ x.argMax = t.arr.argMax ∧ (x.int = true ↔ ¬ fl) ∧ (x.valid = true ↔ ∃ n, cand n) ∧
      (x.valid = true → ∃ n, cand n ∧ x.value = col n ∧ x.index.toNat = t.sp.apxb.toNat + n ∧ ∀ k, cand k →
        (if t.arr.argMax then rank k ≤ rank n else rank n ≤ rank k) ∧ (rank k = rank n → n ≤ k))) ∧
    (t.inFlight = [] → (t.pend 1 (.arrayMode m y dir)).landDue.arr = { t.arr with metric := m, mt := y, argMax := dir }) ∧
    (t.inFlight = [] → ∀ n, n < 128 →
      (t.pend 1 (.arrayCen ((t.mreg ma).setWidth 128))).landDue.arr.cen.getLsbD n = (t.mreg ma).getLsbD n) ∧
    gives (.maccwr v sr row) 3 (.accRow row ((t.vreg v).extractLsb' (2048 * sr.toNat) 4096)) ∧
    (sr.toNat ≤ 14 → ∃ x : VReg, gives (.maccrd v sr row) 6 (.vector v x) ∧
      ∀ n, n < 1024 → elem x 32 n =
        if 64 * sr.toNat ≤ n ∧ n < 64 * sr.toNat + 128 then (colOf (t.row row) (n - 64 * sr.toNat)).toNat
        else elem (t.vreg v) 32 n) ∧
    gives (.maccz row) 1 (.accZero row) ∧
    exec (.maccov d row) s =
      .next (s.setTimed ((t.pendS 2 d (if t.rowOv row then 1 else 0)).pend 1 (.accovClear row))) ∧
    exec .apxrst s = .next (s.setTimed ((t.pend 1 (.apex 0 0)).pend 1 (.apex 1 0xFFFF))) ∧
    gives (.apxwr a sel) 1 (.apex sel ((t.sreg a).setWidth 32)) ∧
    gives (.apxrd d sel) 2 (.scalar d
      (if sel = 0 then t.sp.apxv.setWidth 64 else if sel = 1 then t.sp.apxi.setWidth 64 else t.sp.apxb.setWidth 64))

/-- O31 (tier 2). R240: MWSH on the array, row by row. R242: the landing of a push, column by column, with its frame. R239, R131, R163: the beats of a cycle. When a mark ends is the model's reading of R397 (log entry 16, DEDUCED). R246, R247: the combination of a drain with the running state; in a cycle the drains combine before the results land (`State.endOfCycle`). -/
def Obligations.MatrixEffects : Prop :=
  (∀ (x : ArrayState) (row : BitVec 2048),
    let y := x.shift row
    let rowOf := fun (w : BitVec 262144) (i : Nat) => w.extractLsb' (2048 * i) 2048
    (∀ i, i < 127 → rowOf y.shadow i = rowOf x.shadow (i + 1)) ∧ rowOf y.shadow 127 = row ∧
    (x.wcnt = 127 → y.active = y.shadow ∧ y.wcnt = 0) ∧
    (x.wcnt ≠ 127 → y.active = x.active ∧ y.wcnt = x.wcnt + 1) ∧
    y.metric = x.metric ∧ y.mt = x.mt ∧ y.argMax = x.argMax ∧ y.cen = x.cen ∧ y.pushes = x.pushes ∧ y.drains = x.drains) ∧
  (∀ (p : Push) (t : Timed), p.row.toNat < 1536 →
    let u := p.land t
    let old := fun n => colOf (t.row p.row) n
    let sum := fun n => colOf p.sums n
    let wraps := fun n => (old n).toInt + (sum n).toInt < -2 ^ 31 ∨ 2 ^ 31 - 1 < (old n).toInt + (sum n).toInt
    (∀ n, n < 128 → colOf (u.row p.row) n =
      if p.en.getLsbD n = false then old n
      else if p.ovw then sum n
      else if p.int then old n + sum n
      else toF32 (arrayRound ((flushIn fp32 (ofF32 (old n))).1.add (ofF32 (sum n)))).1) ∧
    (u.rowOv p.row = true ↔
      p.ovw = false ∧ (t.rowOv p.row = true ∨ (p.int = true ∧ ∃ n, n < 128 ∧ p.en.getLsbD n = true ∧ wraps n))) ∧
    (∀ r, r ≠ p.row → u.row r = t.row r ∧ (r.toNat < 1536 → u.rowOv r = t.rowOv r)) ∧
    (∀ r, u.sreg r = t.sreg r) ∧ (∀ r, u.vreg r = t.vreg r) ∧ (∀ r, u.mreg r = t.mreg r) ∧
    u.regs.scratch = t.regs.scratch ∧ u.seq = t.seq ∧ u.flags = t.flags) ∧
  (∀ s : State,
    (∃ (u : Timed) (l : List MarkSite), exec .accumulateLanding s = .next ((s.setCore { s.core with marks := l }).setTimed u) ∧
      (∀ m, m ∈ l ↔ m ∈ s.core.marks ∧ ∀ p, p ∈ s.timed.arr.pushes → p.remain ≤ 1 → p.covers m = false) ∧
      u.arr.pushes = (s.timed.arr.pushes.filter fun p => !decide (p.remain ≤ 1)).map (fun p => { p with remain := p.remain - 1 }) ∧
      u.arr.drains = s.timed.arr.drains ∧ u.inFlight = s.timed.inFlight ∧ u.seq = s.timed.seq ∧ u.flags = s.timed.flags ∧
      u.regs.s = s.timed.regs.s ∧ u.regs.v = s.timed.regs.v ∧ u.regs.m = s.timed.regs.m) ∧
    (∃ u : Timed, exec .drainCombine s = .next (s.setTimed u) ∧
      u.arr.drains = (s.timed.arr.drains.filter fun p => !decide (p.remain ≤ 1)).map (fun p => { p with remain := p.remain - 1 }) ∧
      u.arr.pushes = s.timed.arr.pushes ∧ u.inFlight = s.timed.inFlight ∧ u.seq = s.timed.seq ∧ u.flags = s.timed.flags ∧
      u.regs = s.timed.regs) ∧
    exec .idleExpiry s =
      .next (s.setTimed { s.timed with seq := { s.timed.seq with idle := s.timed.seq.idle - 1 } })) ∧
  (∀ (x : Drain) (t : Timed),
    let u := x.land t
    let took := u.sp.apxv = x.value ∧ u.sp.apxi = x.index
    (x.valid = false → u = t) ∧
    (x.valid = true → t.sp.apxi = 0xFFFF → took) ∧
    (x.valid = true → x.int = true → t.sp.apxi ≠ 0xFFFF →
      (if x.argMax then t.sp.apxv.toInt < x.value.toInt else x.value.toInt < t.sp.apxv.toInt) → took) ∧
    (x.valid = true → x.int = true → x.value = t.sp.apxv → x.index.toNat < t.sp.apxi.toNat → took) ∧
    (x.int = true → t.sp.apxi ≠ 0xFFFF →
      (if x.argMax then x.value.toInt < t.sp.apxv.toInt else t.sp.apxv.toInt < x.value.toInt) → u = t) ∧
    (x.valid = true → x.int = false → (ofF32 t.sp.apxv).isNan = true → took) ∧
    let rank := fun (b : BitVec 32) => if b.msb then -((b.toNat % 2 ^ 31 : Nat) : Int) - 1 else (b.toNat : Int)
    (x.valid = true → x.int = false → (ofF32 t.sp.apxv).isNan = false → t.sp.apxi ≠ 0xFFFF →
      (if (if x.argMax then rank t.sp.apxv < rank x.value else rank x.value < rank t.sp.apxv) ∨
          (x.value = t.sp.apxv ∧ x.index.toNat < t.sp.apxi.toNat) then took else u = t)) ∧
    (x.valid = true → x.int = true → t.sp.apxi ≠ 0xFFFF → x.value = t.sp.apxv → t.sp.apxi.toNat ≤ x.index.toNat → u = t) ∧
    (∀ (sel : BitVec 2) (v : BitVec 32) (p : Pend), t.arr.drains = [x] → x.remain = 1 → t.inFlight = [p] → p.remain = 1 →
      p.res = .apex sel v →
      let w := t.combine.landDue
      w.sp.apxv = (if sel = 0 then v else u.sp.apxv) ∧ w.sp.apxi = (if sel = 1 then v.setWidth 16 else u.sp.apxi)) ∧
    u.regs = t.regs ∧ u.arr = t.arr ∧ u.sp.apxb = t.sp.apxb ∧ u.sp.fpstat = t.sp.fpstat)

/-- O32 (tier 2). R179-R181: the moves where no check of R181 fails, the address computed as the meaning computes it. R181: the three checks in their order. R179, R180: lane `n` of a load from the scratchpad. -/
def Obligations.VectorMovesOfTheCopySlot : Prop :=
  (∀ (s : State) (o : CvOp) (w : Window),
    let t := s.timed
    let row := bits (t.sreg o.sa).toNat 15 0
    let chunk := bits (t.sreg o.sa).toNat 21 16
    t.win o.w = some w →
    let fits := if o.am then row + 64 ≤ w.sr ∧ chunk < w.nc else row % w.g = 0 ∧ row + w.g ≤ w.sr
    let at' := moveAddr w o.am row chunk
    (fits → exec (.vld o) s = .next (s.setTimed (t.pend 6 (.vector o.v (loadReg t at' (t.vreg o.v)))))) ∧
    (row < w.sr → exec (.vldb o) s = .next (s.setTimed (t.pend 6 (.vector o.v (loadReg t (bcastAddr w row) (t.vreg o.v)))))) ∧
    (fits → exec (.vst o) s =
      .next (s.setTimed (t.pend 3 (.scratch (storeParts (fun n => decide (n < t.vl) && true) at' (t.vreg o.v) 64))))) ∧
    (fits → exec (.vstm o) s = .next (s.setTimed (t.pend 3 (.scratch (storeParts
      (fun n => decide (n < t.vl) && (t.mreg (o.ext.setWidth 4)).getLsbD n) at' (t.vreg o.v) 64)))))) ∧
  (∀ (s : State) (o : CvOp),
    let t := s.timed
    let row := bits (t.sreg o.sa).toNat 15 0
    let chunk := bits (t.sreg o.sa).toNat 21 16
    let traps := fun (i : Instr) (code : BitVec 8) => exec i s = .next (s.takeTrap 7 ⟨code, o.w.setWidth 64⟩)
    let three := fun (code : BitVec 8) => traps (.vld o) code ∧ traps (.vst o) code ∧ traps (.vstm o) code
    (t.win o.w = none → three 0x32 ∧ traps (.vldb o) 0x32) ∧
    ∀ w, t.win o.w = some w →
      (o.am = false → row % w.g ≠ 0 → three 0x34) ∧
      (o.am = false → row % w.g = 0 → w.sr < row + w.g → three 0x33) ∧
      (o.am = true → (w.sr < row + 64 ∨ w.nc ≤ chunk) → three 0x33) ∧
      (w.sr ≤ row → traps (.vldb o) 0x33)) ∧
  (∀ (t : Timed) (at' : Nat → Nat) (old : VReg) (n : Nat), t.vl ≤ 1024 → n < 1024 →
    (∀ k, at' k % 4096 + 64 ≤ 4096) →
    elem (loadReg t at' old) 32 n = if n < t.vl then t.sbytes (at' (n / 16) + 4 * (n % 16)) 4 else elem old 32 n)

/-- O33 (tier 1). R185, R186, R190-R194, R197, R345: what a copy command does at issue. `tileTrap` is the order of checks of R195. -/
def Obligations.TileCommandsEnter : Prop :=
  ∀ (s : State) (o : CaOp) (m : BitVec 16) (sc : BitVec 3) (k : BitVec 2), s.un.count .copy < 24 →
    let t := s.timed
    let enters := fun (i : Instr) (p : Cmd → Prop) =>
      ∃ (u : State) (c : Cmd), exec i s = .next u ∧ s.entersQueue u none c true ∧ c.ins = i ∧ c.eng = .copy ∧
        c.cnt = t.seq.loop.cnt ∧ c.reqs = [] ∧ c.run = 0 ∧ c.boff = 0 ∧ c.stop = .run ∧ p c
    let tile := fun (i : Instr) => enters i fun c =>
      c.cls = o.cls ∧ c.a = t.sreg o.sa ∧ c.win = t.win o.w ∧ c.img = t.descr o.d
    (tileTrap s o true .rd false none = none → tile (.tld o)) ∧
    (tileTrap s o true .wr false none = none → tile (.tst o)) ∧
    (tileTrap s o (o.ext.getLsbD (s.focus.val % 12)) .rd false none = none → tile (.tldm o)) ∧
    (tileTrap s o true .rd false (some (bits o.ext.toNat 3 0, bits o.ext.toNat 20 5 * 256)) = none → tile (.tldbp o)) ∧
    tile (.pref o) ∧
    (tileTrap s o true .wr true none = none → tile (.strem o) ∧ tile (.stremo o)) ∧
    (∀ x y, t.win o.w = some x → t.win (o.ext.setWidth 5) = some y → x.size = y.size →
      enters (.wcopy o) fun c => c.win = some x ∧ c.win2 = some y) ∧
    (∀ x, t.win o.w = some x → enters (.wfill o) fun c => c.win = some x ∧ c.a = t.sreg o.sa) ∧
    enters (.fence m sc k) fun c => c.cls = 0

/-- O34 (tier 2). R195: the order of the checks of TLD, read, and TST, written; R183: an empty footprint passes them all. -/
def Obligations.TileChecks : Prop :=
  ∀ (s : State) (o : CaOp) (i : Instr) (r : Right),
    (i = .tld o ∧ r = .rd) ∨ (i = .tst o ∧ r = .wr) →
    let t := s.timed
    let d := t.descr o.d
    let off := capOffs (t.sreg o.sa)
    let traps := fun (code : BitVec 8) (detail : Word) => exec i s = .next (s.takeTrap 7 ⟨code, detail⟩)
    let aligned := off % 4 = 0 ∧ dRun d % 4 = 0 ∧ dWstart d % 4 = 0 ∧
      ∀ k, k < dNdim d → dWstride d k % 4 = 0 ∧ dMstride d k % 4 = 0
    (runCount d = 0 → tileTrap s o true r false none = none) ∧
    (runCount d ≠ 0 → t.win o.w = none → traps 0x32 (o.w.setWidth 64)) ∧
    ∀ w, t.win o.w = some w →
      let inside := 0 ≤ (dWstart d : Int) + (spanOf d t.seq.loop.cnt dWstride).1 ∧
        (dWstart d : Int) + (spanOf d t.seq.loop.cnt dWstride).2 + dRun d ≤ w.size
      let allowed := segOk s (t.sreg o.sa) r false (byteSpan d t.seq.loop.cnt off none) = true
      (runCount d ≠ 0 → ¬ aligned → traps 0x31 (o.d.setWidth 64)) ∧
      (runCount d ≠ 0 → aligned → ¬ inside → traps 0x33 (o.w.setWidth 64)) ∧
      (runCount d ≠ 0 → aligned → inside → ¬ allowed → traps 0x30 (t.sreg o.sa)) ∧
      (runCount d ≠ 0 → aligned → inside → allowed → tileTrap s o true r false none = none)

/-- O35 (tier 2). R177, R184: the declarations and descriptors of the copy slot, and their traps. That a descriptor keeps zeros above its NDIM is the model's reading of R182 (log entry 44, DEDUCED). R175, R176: ADDR is one to one from the storage rows and row bytes into the storage. -/
def Obligations.WindowsAndDescriptors : Prop :=
  (∀ (s : State) (o : CfOp),
    let t := s.timed
    let a := t.sreg o.sa
    let w : BitVec 5 := o.ext.setWidth 5
    let d : BitVec 4 := o.ext.setWidth 4
    let sh := t.sp.shape
    let decl : Window := ⟨a.setWidth 23, o.ext.getLsbD 5, sh.extractLsb' 16 13, sh.extractLsb' 32 13, sh.extractLsb' 48 2⟩
    let fits := a.toNat % 4096 = 0 ∧ a.toNat + decl.storage ≤ 8388608
    let img : Desc := BitVec.ofNat 1024 (t.sread a.toNat 128)
    let inside := a.toNat % 128 = 0 ∧ a.toNat + 128 ≤ 8388608
    let does := fun (i : Instr) (u : Timed) =>
      ∃ x : State, exec i s = .next x ∧ s.onlyCoreOf x ∧ x.timed = u ∧ x.core.task = s.core.task ∧
        x.un.batches = s.un.batches
    (s.un.count .copy < 24 →
      (fits → does (.wdecl o) { t with wins := t.wins.set w.toNat (some decl) w.isLt }) ∧
      does (.wfree o) { t with wins := t.wins.set w.toNat none w.isLt } ∧
      (inside → descBad img = false →
        does (.dset o) { t with
          desc := t.desc.set d.toNat (BitVec.ofNat 1024 (img.toNat % 2 ^ (128 + 128 * min (dNdim img) 6))) d.isLt })) ∧
    (¬ fits → exec (.wdecl o) s = .next (s.takeTrap 7 ⟨0x36, a⟩)) ∧
    (¬ inside → exec (.dset o) s = .next (s.takeTrap 7 ⟨0x36, a⟩)) ∧
    (inside → descBad img = true → exec (.dset o) s = .next (s.takeTrap 7 ⟨0x35, d.setWidth 64⟩))) ∧
  (∀ (w : Window) (i x j y : Nat), 1 ≤ w.tr.toNat → w.tr.toNat ≤ 128 → 1 ≤ w.rbu → w.rbu ≤ 4096 →
    i < w.sr → x < w.rp → j < w.sr → y < w.rp →
    w.base.toNat ≤ w.addr i x ∧ w.addr i x < w.base.toNat + w.storage ∧
    (w.addr i x = w.addr j y → i = j ∧ x = y))

/-- O36 (tier 2). R186, R188: the batches after BCLOSE and BWAIT, and the bundle held. That a BWAIT which would close a seventeenth batch is held is the model's choice (log entry 60, DESIGN CHOICE). R130 cause 2, R185, R265, R320, R361: no free entry, no effect. -/
def Obligations.BatchControlAndFullQueues : Prop :=
  (∀ (s : State) (f : BitVec 5) (n : BitVec 8),
    let u := s.un
    let closed := (u.batches.filter fun b => !b.isOpen).length
    let after := fun (flag : Option (BitVec 5)) =>
      (u.batches.map fun b => if b.isOpen then { b with isOpen := false, flag := flag } else b) ++ [⟨u.nbatch, true, none, 0, none⟩]
    let kept := fun (x : State) (f : Option (BitVec 5)) => s.onlyCoreOf x ∧ s.timed.claimed x.timed f ∧ x.core.task = s.core.task
    (u.count .copy < 24 → closed < 16 →
      ∃ x, exec (.bclose f) s = .next x ∧ kept x (some f) ∧ x.un.batches = after (some f)) ∧
    let nonEmpty := ∃ b, b ∈ u.batches ∧ b.isOpen = true ∧ 0 < b.count
    (16 ≤ closed → nonEmpty → exec (.bwait n) s = .next s) ∧
    (u.count .copy < 24 → u.outstanding ≤ n.toNat → closed < 16 ∨ ¬ nonEmpty →
      ∃ x, exec (.bwait n) s = .next x ∧ kept x none ∧
        x.un.batches = if (u.batches.any fun b => b.isOpen && decide (0 < b.count)) then after none else u.batches) ∧
    (16 ≤ closed → exec (.bclose f) s = .next s) ∧
    (n.toNat < u.outstanding → exec (.bwait n) s = .next s)) ∧
  (∀ (s : State) (i : Instr) (e : Engine), engineOf i = some e → e.depth ≤ s.un.count e → copyTrap s i = none → exec i s = .next s)

/-- O37 (tier 2). R265-R267, R272: the Vertex commands at issue, with the conditions of R267 written out. When the arm slot of a PHARM counts as free is the model's reading (log entry 35, DEDUCED). R267: checks 1 and 2, and for PHARM check 3. -/
def Obligations.VertexCommandsAtIssue : Prop :=
  (∀ (s : State) (o : CfOp), s.un.count .vertex < 16 →
    let t := s.timed
    let h := t.sreg o.sa
    let l := (t.sreg o.sb).toNat
    let w : BitVec 5 := o.ext.setWidth 5
    let phaser := h.toNat < 2 ^ 39 ∧ h.toNat % 16 = 0
    let word := h.toNat < 2 ^ 39 ∧ (o.ext.getLsbD 5 = true → h.getLsbD 3 = false)
    let holds := fun (n : Nat) => ∃ x, t.win w = some x ∧ l % 16 = 0 ∧ l + n ≤ x.size
    let enters := fun (i : Instr) =>
      ∃ (u : State) (c : Cmd), exec i s = .next u ∧ s.entersQueue u (some o.f) c false ∧ c.ins = i ∧ c.eng = .vertex ∧
        c.a = h ∧ c.b = t.sreg o.sb ∧ c.win = t.win w
    let syncs := fun (i : Instr) =>
      ∃ (u : State) (c : Cmd), exec i s = .next u ∧ s.entersQueue u (some o.f) c false ∧ c.ins = i ∧ c.eng = .vertex ∧
        c.a = h ∧ c.cls = o.cls ∧ ∀ x, t.win w = some x → c.img = BitVec.ofNat 1024 (t.winRead x l 16)
    (phaser → holds 16 → enters (.phreg o)) ∧
    (phaser → enters (.phdrop o) ∧ enters (.pharr o) ∧ enters (.phwait o)) ∧
    (phaser → holds 64 → enters (.phrd o)) ∧
    (word → holds 16 → ∀ i ∈ ([.swld o, .swst o, .aadd o, .amin o, .amax o, .aand o, .aor o, .axor o, .axchg o, .acas o] : List Instr),
      syncs i) ∧
    (h.toNat < 2 ^ 39 → holds 16 → syncs (.afaddF32 o)) ∧
    (∀ x, phaser → t.win w = some x → bits (t.sreg o.sb).toNat 55 32 ≤ x.size →
      (∃ k : Fin 4, s.un.arms.get k = none ∨ ∃ y, s.un.arms.get k = some y ∧ y.w = w) →
      ∃ (u : State) (k : Fin 4) (y : Arm), exec (.pharm o) s = .next u ∧ u.un.arms = s.un.arms.set k.val (some y) k.isLt ∧
        y.flag = o.f ∧ y.handle = h ∧ y.w = w ∧ y.n = bits (t.sreg o.sb).toNat 55 32 ∧ y.c = 0 ∧
        u.un.queue.length = s.un.queue.length + 1 ∧ s.onlyCoreOf u ∧ s.timed.claimed u.timed (some o.f))) ∧
  (∀ (s : State) (o : CfOp),
    let t := s.timed
    let h := t.sreg o.sa
    let l := (t.sreg o.sb).toNat
    let w : BitVec 5 := o.ext.setWidth 5
    let traps := fun (i : Instr) (code : BitVec 8) (detail : Word) => exec i s = .next (s.takeTrap 7 ⟨code, detail⟩)
    let phaser := h.toNat < 2 ^ 39 ∧ h.toNat % 16 = 0
    let word := h.toNat < 2 ^ 39 ∧ (o.ext.getLsbD 5 = true → h.getLsbD 3 = false)
    let holds := fun (n : Nat) => ∃ x, t.win w = some x ∧ l % 16 = 0 ∧ l + n ≤ x.size
    let syncs : List Instr := [.swld o, .swst o, .aadd o, .amin o, .amax o, .aand o, .aor o, .axor o, .axchg o, .acas o]
    (¬ phaser → ∀ i ∈ ([.phreg o, .phdrop o, .pharr o, .phwait o, .pharm o, .phrd o] : List Instr), traps i 0x41 h) ∧
    (¬ word → ∀ i ∈ syncs, traps i 0x41 h) ∧
    (¬ h.toNat < 2 ^ 39 → traps (.afaddF32 o) 0x41 h) ∧
    (phaser → (¬ holds 16 → traps (.phreg o) 0x40 (w.setWidth 64)) ∧ (¬ holds 64 → traps (.phrd o) 0x40 (w.setWidth 64))) ∧
    (word → ¬ holds 16 → ∀ i ∈ syncs, traps i 0x40 (w.setWidth 64)) ∧
    (h.toNat < 2 ^ 39 → ¬ holds 16 → traps (.afaddF32 o) 0x40 (w.setWidth 64)) ∧
    (phaser → t.win w = none → traps (.pharm o) 0x40 (w.setWidth 64)) ∧
    (∀ x, phaser → t.win w = some x →
      (x.size < bits (t.sreg o.sb).toNat 55 32 ∨ ∀ k : Fin 4, ∃ y, s.un.arms.get k = some y ∧ y.w ≠ w) →
      traps (.pharm o) 0x42 (w.setWidth 64)))

/-- O38 (tier 1). R294-R296: the gather commands at issue. `gbagTrap`, `gprefTrap` and `gqueryTrap` are the checks of R295. R317-R322: the Lattice commands at issue. `lopenTrap`, `lpushTrap`, `lcloseTrap`, `lhTrap` and `lqueryTrap` are the checks of R319. R361-R364, R351, R352, R384: the exchange and trust commands at issue. -/
def Obligations.GatherLatticeExchangeCommandsEnter : Prop :=
  (∀ (s : State) (o : CfOp),
    let t := s.timed
    let a := t.sreg o.sa
    let room := s.un.count .copy < 24
    let enters := fun (i : Instr) (p : Cmd → Prop) =>
      ∃ (u : State) (c : Cmd), exec i s = .next u ∧ s.entersQueue u (some o.f) c false ∧ c.ins = i ∧ c.eng = .copy ∧
        c.a = a ∧ c.b = t.sreg o.sb ∧ c.win = t.win (o.ext.setWidth 5) ∧ p c
    let block := fun (c : Cmd) => c.cls = o.cls ∧ c.img = BitVec.ofNat 1024 (t.sread a.toNat 64) ∧
      c.win2 = t.win (o.ext.extractLsb' 5 5)
    let runs := fun (i : Instr) (tr : Option Trap) (p : Cmd → Prop) =>
      (tr = none → room → enters i p) ∧ (∀ k, tr = some k → exec i s = .next (s.takeTrap 7 k))
    let counter := if bits a.toNat 15 10 ≠ 0 ∨ a.toNat / 2 ^ 19 ≠ 0 then some (⟨0x43, a⟩ : Trap) else none
    runs (.gbag o) (gbagTrap t o false) block ∧ runs (.gbagw o) (gbagTrap t o true) block ∧
    runs (.grows o) (gbagTrap t o false) block ∧ runs (.gpref o) (gprefTrap t o) block ∧
    runs (.gstat o) (gqueryTrap t o rowOperandBad 16) (fun _ => True) ∧
    runs (.gskrd o) (gqueryTrap t o rowOperandBad 16) (fun _ => True) ∧
    runs (.gcntrd o) (gqueryTrap t o counterOperandBad 64) (fun _ => True) ∧
    runs (.gcntclr o) counter (fun _ => True)) ∧
  (∀ (s : State) (o : CfOp) (k : Task), s.core.task = some k →
    let t := s.timed
    let a := t.sreg o.sa
    let room := s.un.count .lattice < 16
    let S : Fin 4 := (o.ext.extractLsb' 0 2).toFin
    let P : Fin 4 := (o.ext.extractLsb' 16 2).toFin
    let traps := fun (i : Instr) (tr : Option Trap) => ∀ x, tr = some x → exec i s = .next (s.takeTrap 7 x)
    let adds := fun (u : State) (i : Instr) (p : Cmd → Prop) =>
      exec i s = .next u ∧ ∃ c : Cmd, u.un.queue = s.un.queue ++ [c] ∧ c.ins = i ∧ c.eng = .lattice ∧ p c
    let plain := fun (i : Instr) => ∃ u c, exec i s = .next u ∧ s.entersQueue u (some o.f) c false ∧ c.ins = i ∧
      c.eng = .lattice ∧ c.lhandle = a
    (lopenTrap s o = none → room → ∃ u, adds u (.lopen o) (fun c => c.lhandle = a ∧ c.cls = o.cls) ∧
      ∃ x, u.slotOf S = some x ∧ x.handle = a ∧ x.width = bits (t.sreg o.sb).toNat 10 0 ∧ x.cls = o.cls ∧
        s.timed.claimed u.timed (some o.f) ∧ u.mem = s.mem ∧ u.lattice = s.lattice) ∧
    (∀ (i : Instr) (n : Nat) (x : StreamSlot), (i = .lpush o ∧ n = a.toNat) ∨ (i = .lpushs o ∧ n = 1) →
      lpushTrap s o n a = none → room → s.slotOf P = some x →
      ∃ u c, exec i s = .next u ∧ s.entersQueue u none c false ∧ c.ins = i ∧ c.eng = .lattice ∧ c.lhandle = x.handle ∧
        c.uid = x.uid ∧ c.regs = t.vreg (o.ext.extractLsb' 0 8) ::
          (List.range ((n * x.width + 1023) / 1024)).map fun j => t.vreg (o.ext.extractLsb' 8 8 + BitVec.ofNat 8 j)) ∧
    (∀ x, s.slotOf S = some x → room → ∀ i ∈ ([.lclose o, .labort o] : List Instr),
      ∃ u, adds u i (fun c => c.lhandle = x.handle ∧ c.uid = x.uid ∧ c.cls = x.cls) ∧ u.slotOf S = none ∧
        s.timed.claimed u.timed (some o.f) ∧ u.mem = s.mem ∧ u.lattice = s.lattice) ∧
    (lhTrap t o = none → room → plain (.lapply o) ∧ plain (.lstep o)) ∧
    (lqueryTrap t o 16 = none → room → plain (.lquery o) ∧ plain (.lspill o)) ∧
    (lqueryTrap t o 64 = none → room → plain (.lstat o)) ∧
    traps (.lopen o) (lopenTrap s o) ∧ traps (.lpush o) (lpushTrap s o a.toNat a) ∧ traps (.lpushs o) (lpushTrap s o 1 a) ∧
    traps (.lclose o) (lcloseTrap s o) ∧ traps (.labort o) (lcloseTrap s o) ∧ traps (.lapply o) (lhTrap t o) ∧
    traps (.lstep o) (lhTrap t o) ∧ traps (.lquery o) (lqueryTrap t o 16) ∧ traps (.lspill o) (lqueryTrap t o 16) ∧
    traps (.lstat o) (lqueryTrap t o 64)) ∧
  (∀ (s : State) (o : CfOp),
    let t := s.timed
    let a := t.sreg o.sa
    let runs := fun (i : Instr) (e : Engine) (tr : Option Trap) =>
      (tr = none → s.un.count e < e.depth →
        ∃ u c, exec i s = .next u ∧ s.entersQueue u (some o.f) c false ∧ c.ins = i ∧ c.eng = e) ∧
      (∀ k, tr = some k → exec i s = .next (s.takeTrap 7 k))
    let win := fun (code : BitVec 8) (n : Nat) =>
      if windowFits t (o.ext.setWidth 5) (t.sreg o.sb).toNat n then none
      else some (⟨code, (o.ext.setWidth 5 : BitVec 5).setWidth 64⟩ : Trap)
    let narrow := fun (w : Nat) (code : BitVec 8) (rest : Option Trap) => if a.toNat < 2 ^ w then rest else some ⟨code, a⟩
    runs (.xsend o) .exchange none ∧
    runs (.xa2a o) .exchange (collectiveTrap t o false) ∧ runs (.xbkt o) .exchange (collectiveTrap t o false) ∧
    runs (.xpool o) .exchange (collectiveTrap t o true) ∧
    runs (.xstat o) .exchange (narrow 12 0x48 (win 0x49 16)) ∧
    runs (.pcnt o) .copy (win 0x49 64) ∧ runs (.pwait o) .copy none ∧
    runs (.tbarr o) .copy (narrow 32 0x4B none) ∧ runs (.tstat o) .copy (narrow 6 0x4B (win 0x4A 16)) ∧
    runs (.tlog o) .copy (narrow 10 0x4B (win 0x4A 16)) ∧ runs (.tepoch o) .copy (win 0x4A 16) ∧
    let stopped := fun (i : Instr) => (∃ c ∈ s.un.queue, c.eng = .exchange ∧ c.ins = i) ∨
      ∃ a ∈ s.adrift, s.refAt s.focus.val = some a.who ∧ a.cmd.ins = i
    (∃ u, exec (.xcan o) s = .next u ∧ (∀ c ∈ u.un.queue, c.eng ≠ .exchange) ∧
      (∀ a ∈ u.adrift, s.refAt s.focus.val ≠ some a.who) ∧
      (∀ i, stopped i → u.timed.flag (exchangeFlag i) = .error) ∧
      (t.flag o.f = .error ∨ (∃ i, stopped i ∧ exchangeFlag i = o.f) → u.timed.flag o.f = .error) ∧
      (t.flag o.f ≠ .error → (∀ i, stopped i → exchangeFlag i ≠ o.f) → u.timed.flag o.f = .set) ∧
      u.timed.regs = s.timed.regs ∧ u.mem = s.mem ∧ u.xchg = s.xchg))

/-- O39 (tier 2). R36-R39. `validChain` reads and validates an RCB with its ancestors; `busyAt` says that a region has work left. Which cards count as work left, and the meaning of a refused crossing, are the model's choices (log entries 13, 59 and 64), and so is a BIND put off by a barrier (R379; log entry 70, DESIGN CHOICE). -/
def Obligations.DoorbellSlots : Prop :=
  ∀ (s : State) (die slot : Nat) (addr : BitVec 52) (tail region v : BitVec 32), die < 8 → slot < 1024 →
    let x := (s.dcu die).slot slot
    let a := x.addr.toNat
    let at' := fun (t : State) => (t.dcu die).slot slot
    let yields := fun (i : Instr) (p : State → Prop) => ∃ t, exec i s = .next t ∧ p t
    let counted := fun (t : State) => (t.dcu die).dbIgnored.toNat = min ((s.dcu die).dbIgnored.toNat + 1) (2 ^ 32 - 1)
    let s0 := s.dropBind die slot
    (x.valid = false → x.busy = false → s0.chainHeld 8 addr.toNat = true → yields (.bind die slot addr) fun t =>
      at' t = ⟨addr, false, false, false, 0⟩ ∧ t = { s with dcus := t.dcus, delayed := s0.delayed ++ [.bind die slot addr] }) ∧
    (x.valid = false → x.busy = false → s0.chainHeld 8 addr.toNat = false →
      ((s0.validChain addr.toNat).2 = none → yields (.bind die slot addr) fun t => at' t = ⟨addr, false, false, true, 0⟩) ∧
      ∀ b raw l, (s0.validChain addr.toNat).2 = some ((b, raw) :: l) →
        let kept := ((s.region? addr.toNat).map fun r => r.raw).getD raw
        (bits (recWord kept 1) 44 42 ≠ die → yields (.bind die slot addr) fun t => at' t = ⟨addr, false, false, true, 0⟩) ∧
        (bits (recWord kept 1) 44 42 = die → yields (.bind die slot addr) fun t =>
          at' t = ⟨addr, true, false, false, 0⟩ ∧
          ∃ r, t.region? addr.toNat = some r ∧ r.raw = kept ∧ r.bound = true ∧ r.die = die)) ∧
    (x.busy = true → yields (.bind die slot addr) fun t =>
      at' t = { x with err := true } ∧ t = { s with dcus := t.dcus }) ∧
    (x.valid = true →
      (yields (.unbind die ⟨slot, addr⟩) fun t =>
        at' t = { x with addr := addr, valid := false, busy := s.busyAt a, left := if s.busyAt a then x.addr else 0 } ∧ t = { s with dcus := t.dcus, regions := t.regions, delayed := s0.delayed } ∧
        ((s.setSlot die slot { x with valid := false }).isBound a = false → ∀ r, t.region? a = some r → r.bound = false)) ∧
      ∀ r, s.region? a = some r →
        let ahead := (tail - r.jqHead).toNat
        (region ≠ r.id ∨ 2 ^ r.jqLog2 < ahead → yields (.doorbell die slot tail region) fun t =>
          counted t ∧ t.region? a = some { r with rstate := .qerror } ∧ t = { s with dcus := t.dcus, regions := t.regions }) ∧
        (region = r.id → ahead ≤ 2 ^ r.jqLog2 →
          ((r.jqTail - r.jqHead).toNat < ahead → yields (.doorbell die slot tail region) fun t =>
            t.region? a = some { r with jqTail := tail, rstate := if r.rstate.runs then .active else r.rstate } ∧
            t = { s with regions := t.regions }) ∧
          (ahead ≤ (r.jqTail - r.jqHead).toNat → exec (.doorbell die slot tail region) s = .next s))) ∧
    (x.valid = false → x.busy = false → yields (.unbind die ⟨slot, addr⟩) fun t => at' t = { x with addr := addr }) ∧
    (x.valid = false → yields (.doorbell die slot tail region) fun t => counted t ∧ t = { s with dcus := t.dcus }) ∧
    exec (.periodWrite die v) s = .next { s with period := BitVec.ofNat 32 (max 14000 v.toNat) }

/-- O40 (tier 2). R41, R389, R391. CMD_RES 3 for a core without a task, CMD_ID as a whole field, and a REPLAY that waits for the fault's entry or for its walk are the model's choices (log entries 31, 39 and 59). `regionsNamed` and `treeNamed` are the regions that CANCEL and ENABLE may name; `hostEvictable` is R46 for the host; `walkFor` is the walk of R90. -/
def Obligations.DcuCommands : Prop :=
  ∀ (s : State) (die : Nat) (op : BitVec 8) (id : BitVec 32), die < 8 → (s.dcu die).busy = false →
    let d := s.dcu die
    let n := 12 * die + id.toNat
    let h := 12 * die + id.toNat % 16
    let yields := fun (i : Instr) (p : State → Prop) => ∃ t, exec i s = .next t ∧ p t
    let answers := fun (i : Instr) (r : BitVec 4) => exec i s = .next (s.onDcu die fun d => { d with res := r })
    let done := fun (t : State) => (t.dcu die).res = 0 ∧ (t.dcu die).busy = false
    answers (.dcuBadCommand die op) 1 ∧
    (s.regionsNamed die id = [] → answers (.cancel die id) 2) ∧
    (s.regionsNamed die id ≠ [] → yields (.cancel die id) fun t =>
      done t ∧ t.cores = s.cores ∧ t.mem = s.mem ∧
      ∀ a ∈ s.regionsNamed die id, ∀ r r', s.region? a = some r → t.region? a = some r' →
        let m : BitVec 32 := d.cmdArg.setWidth 32
        r'.mark = (if r.jqHead = m then none else some m) ∧ r'.jqHead = r.jqHead ∧ r'.jqTail = r.jqTail ∧
        (∀ c ∈ r'.cards, belowMark m c.idx = true → c.stop = true) ∧
        (∀ e, e ∈ r'.evicted ↔ e ∈ r.evicted ∧ belowMark m e.cardIdx = false)) ∧
    (s.treeNamed die id = [] → answers (.enable die id) 2) ∧
    (s.treeNamed die id ≠ [] → yields (.enable die id) fun t =>
      done t ∧ t = { s with dcus := t.dcus, regions := t.regions } ∧
      ∀ a ∈ s.treeNamed die id, ∀ r, s.region? a = some r →
        t.region? a = some { r with rstate := if r.rstate.runs then r.rstate else r.activity }) ∧
    (12 ≤ id.toNat → answers (.evict die id) 2) ∧
    (id.toNat < 12 → s.hostEvictable n = false → answers (.evict die id) 3) ∧
    (id.toNat < 12 → s.hostEvictable n = true → yields (.evict die id) fun t =>
      (t.dcu die).busy = true ∧ (t.dcu die).evicting = some n ∧ t = { s with cores := t.cores, dcus := t.dcus } ∧
      ∃ k, (s.coreAt n).task = some k ∧
        t.coreAt n = { s.coreAt n with task := some { k with evict := some 3, evictFor := 0, evictAt := s.wall } }) ∧
    (yields (.flushImage die) fun t =>
      done t ∧ t = { s with cores := t.cores, dcus := t.dcus } ∧
      ∀ k, k < 96 → t.coreAt k = if k / 12 = die ∧ (s.coreAt k).image.tag = d.cmdArg
        then { s.coreAt k with image := { (s.coreAt k).image with tag := 0 } } else s.coreAt k) ∧
    (11 < id.toNat % 16 → answers (.replay die id) 2) ∧
    (id.toNat % 16 ≤ 11 → (∀ k, (s.coreAt h).task = some k → k.hold = none ∨ k.phase ≠ .faultHold) →
      answers (.replay die id) 3) ∧
    ∀ k f, id.toNat % 16 ≤ 11 → (s.coreAt h).task = some k → k.hold = some f → k.phase = .faultHold →
      let found := s.walkFor h f.va ((s.heldSeg h f).getD 0) f.write
      (s.entryWaits h = true ∨ s.replayHeld h f = true → yields (.replay die id) fun t =>
        (t.dcu die).res = 0 ∧ t = { s with cores := t.cores, dcus := t.dcus } ∧
        t.coreAt h = { s.coreAt h with task := some { k with hold := some { f with asked := f.asked + 1 } } }) ∧
      (s.entryWaits h = false → s.replayHeld h f = false →
      (∀ x, found = .ok x → yields (.replay die id) fun t =>
        (t.dcu die).res = 0 ∧ t.mem = (s.walkRead h f.va ((s.heldSeg h f).getD 0) f.write).mem ∧
        (t.coreAt h).task = some { k with phase := if f.fromDraining then .draining else .running, hold := none }) ∧
      (found = .error .invalid → f.replays < 3 → yields (.replay die id) fun t =>
        (t.dcu die).res = 0 ∧ (t.coreAt h).task = some { k with hold := some { f with replays := f.replays + 1 } } ∧
        ∃ e, (t.dcu die).flog.queue = d.flog.queue ++ [e] ∧ e.info.kind = 1 ∧
          e.info.replays = BitVec.ofNat 3 (f.replays + 1) ∧ e.info.faddr = BitVec.ofNat 52 f.va) ∧
      (found = .error .invalid → 3 ≤ f.replays → yields (.replay die id) fun t =>
        (t.dcu die).res = 0 ∧ (∃ q, (t.coreAt h).task = some q ∧ q.phase = .failed) ∧
        ∃ e, (t.dcu die).flog.queue = d.flog.queue ++ [e] ∧ e.info.kind = 0 ∧ e.info.code = 0x52))

/-- O41 (tier 2). R33, R35, R39, R42, R45-R47. That a card read waits while crossings are held is R379 as the model reads it, and that a refused read makes the region QERROR like poison is its choice (log entry 64, DESIGN CHOICE); from which cycle the reports of pinned cycles are counted is another (67). When the next card is read and how many tasks and evictions wait for a region at once are the model's choices (log entries 10, 12, 32, 33 and 59). `decision` is what R45 and R46 come to on a die, `candidates` the eligible regions. -/
def Obligations.CardsBudgetsAndDispatch : Prop :=
  ∀ (s : State) (die slot : Nat), die < 8 →
    let yields := fun (i : Instr) (p : State → Prop) => ∃ t, exec i s = .next t ∧ p t
    (∀ r, ((s.dcu die).slot slot).valid = true → s.region? ((s.dcu die).slot slot).addr.toNat = some r → r.cardDue = true →
      let a := ((s.dcu die).slot slot).addr.toNat
      let at' := r.jqBase + 128 * (r.jqHead.toNat % 2 ^ r.jqLog2)
      let got := s.dcuRead at' 128
      s.dcuHeld at' 128 = false → (got.2.2 = false → yields (.jobCardRead die slot) fun t =>
        t = { got.1 with regions := t.regions } ∧
        ∃ r' c, t.region? a = some r' ∧ r'.jqHead = r.jqHead + 1 ∧ r'.cards = r.cards ++ [c] ∧ r'.jqTail = r.jqTail ∧
          c.idx = r.jqHead ∧ c.raw = BitVec.ofNat 1024 got.2.1 ∧ c.valid = !cardInvalid c.raw ∧ c.next = 0 ∧ c.running = 0) ∧
      (got.2.2 = true → yields (.jobCardRead die slot) fun t =>
        t.region? a = some { r with rstate := .qerror })) ∧
    (∀ r, ((s.dcu die).slot slot).valid = true → s.region? ((s.dcu die).slot slot).addr.toNat = some r → r.cardDue = true →
      s.dcuHeld (r.jqBase + 128 * (r.jqHead.toNat % 2 ^ r.jqLog2)) 128 = true → exec (.jobCardRead die slot) s = .next s) ∧
    (∀ n a prio r c x, s.decision die = .serve n a prio r c x → yields (.dispatchDecision die) fun t =>
      n / 12 = die ∧ (s.coreAt n).task = none ∧ (s.dcu die).dispatched ≠ some s.wall ∧
      (t.dcu die).dispatched = some s.wall ∧ eligible die (s.chain a) = true ∧ prio = effPrio (s.chain a) ∧
      (∀ y ∈ s.candidates die, effPrio y.2 ≤ prio) ∧
      (∃ k, (t.coreAt n).task = some k ∧ k.phase = .loading ∧ k.rcb = a ∧ k.cardIdx = c.idx ∧ k.card = c.raw ∧ k.regionId = r.id) ∧
      (t.coreAt n).timed.regs = (s.coreAt n).timed.regs ∧ (t.coreAt n).image = (s.coreAt n).image ∧
      (t.coreAt n).un.queue = [] ∧ (t.coreAt n).un.tlb = []) ∧
    (∀ n why a, s.decision die = .evict n why a → yields (.dispatchDecision die) fun t =>
      t = { s with cores := t.cores } ∧ (∀ m, m < 96 → m ≠ n → t.coreAt m = s.coreAt m) ∧
      ∃ k, (s.coreAt n).task = some k ∧ k.phase = .running ∧
        t.coreAt n = { s.coreAt n with task := some { k with evict := some why, evictFor := a, evictAt := s.wall } }) ∧
    (s.boundaryDue = true → yields .budgetPeriodBoundary fun t =>
      t.boundary = s.boundary + s.period.toNat ∧ t.period = s.period ∧ t.wall = s.wall ∧
      ∀ a r r', s.region? a = some r → t.region? a = some r' →
        r'.used = if !r.unlimited && decide (r.budget < r.used) then r.used - r.budget else 0) ∧
    (∀ a n, s.pinnedDue die = true → (s.dcu die).pinned = [(a, n)] → yields (.pinnedChargeReport die) fun t =>
      (t.dcu die).pinned = [] ∧ t.cores = s.cores ∧ t.mem = s.mem ∧
      ∀ b r, s.region? b = some r →
        t.region? b = some { r with used := r.used + n * ((poolChain (s.chain a)).filter fun x => x.1 == b).length })

/-- O42 (tier 2). R30, R50, R109, R170, R379. How an entry of a card, an overlay and a bad image are read at their edges is the model's choice (log entries 37, 38 and 60). `loadDue` and `restoreDue` say that the load and the restore have yet to be made; `loadSegs` and `loadImage` read and check the table and the image. -/
def Obligations.LaunchesAndRestores : Prop :=
  ∀ (s : State) (n : Nat), n < 96 →
    let yields := fun (i : Instr) (p : State → Prop) => ∃ t, exec i s = .next t ∧ p t
    (∀ k, s.loadDue n = some k →
      let segs := s.loadSegs k.card
      (segs.2 = none → yields (.dictionaryLoadComplete n) fun t => (t.coreAt n).task = none) ∧
      ∀ l, segs.2 = some l →
        let image := segs.1.loadImage n k.card (l.headD 0)
        (s.loadHeld k.card l = true → exec (.dictionaryLoadComplete n) s = .next s) ∧
        (s.loadHeld k.card l = false →
        (∀ e, image.2 = .error e → yields (.dictionaryLoadComplete n) fun t =>
          (t.coreAt n).task = none ∧ (t.coreAt n).image.tag = 0) ∧
        ∀ im, image.2 = .ok im → yields (.dictionaryLoadComplete n) fun t =>
          let c := t.coreAt n
          let was := (image.1.coreAt n).timed
          c.image = im ∧
          (k.resume ≠ none → c.task = some { k with segs := l } ∧ c.timed = was) ∧
          (k.resume = none →
            c.task = some { k with segs := l, phase := .running } ∧
            c.timed.seq.pc.toNat = min (cardEntry k.card) (2 ^ 18 - 1) ∧
            (∀ r : BitVec 6, c.timed.sreg r = if r.toNat < 8 then cardArg k.card r.toNat else 0) ∧
            (∀ r : BitVec 4, c.timed.mreg r = BitVec.allOnes 1024) ∧
            (∀ r : BitVec 12, c.timed.rowOv r = false) ∧
            (∀ r : BitVec 8, c.timed.vreg r = was.vreg r) ∧ (∀ r : BitVec 12, c.timed.row r = was.row r) ∧
            (∀ a, c.timed.sbyte a = was.sbyte a)))) ∧
    ∀ k j base, s.restoreDue n = some (k, j, base) →
      let img := (s.dcuRead base fixedLen).2.1
      let word := fun (off : Nat) => BitVec.ofNat 64 (bytesOf (bytesOf img 0x1000 0x4000) off 8)
      yields (.contextRestore n) fun t =>
        let c := (t.coreAt n).timed
        (∃ q, (t.coreAt n).task = some q ∧ q.phase = .running ∧ q.resume = none ∧ q.segs = k.segs ∧ q.card = k.card) ∧
        (∀ r, t.region? k.rcb = some r → j ∉ r.saveUsed) ∧
        (∀ r : BitVec 6, c.sreg r = word (8 * r.toNat)) ∧
        (∀ r : BitVec 4, c.mreg r = BitVec.ofNat 1024 (bytesOf (bytesOf img 0x1000 0x4000) (0x200 + 128 * r.toNat) 128)) ∧
        c.sp.shape = word 0x0A20 ∧ c.sp.fpctl = word 0x0A28 ∧ c.sp.tcycle = word 0x0A38 ∧ c.sp.markv = word 0x0A40 ∧
        (t.coreAt n).image = ((s.dcuRead base fixedLen).1.coreAt n).image

/-- O43 (tier 2). R22, R43, R44, R49, R52-R55, R169. When a core counts as drained, what a save waits for and keeps, and the order of STATUS are the model's choices (log entries 9, 18, 31, 36, 37, 59, 61 and 71); so is a record lost where its crossing is refused, beside one that waits while crossings are held (R379; log entry 64, DESIGN CHOICE). `boundaryAt`, `saveReady`, `saving`, `drainDue` and `recordReady` say that each step is due. -/
def Obligations.EvictionsAndEnds : Prop :=
  ∀ (s : State) (n : Nat), n < 96 →
    let yields := fun (i : Instr) (p : State → Prop) => ∃ t, exec i s = .next t ∧ p t
    let c := s.coreAt n
    let free := fun (t : State) => (t.coreAt n).task = none ∧ (t.coreAt n).un.queue = [] ∧ (t.coreAt n).timed = c.timed
    (∀ k, s.boundaryAt n = some k →
      (k.lateFatal = none → yields (.evictionBoundary n) fun t =>
        t.coreAt n = { c with task := some { k with phase := .evicting, hold := none, late := none } } ∧
        t = { s with cores := t.cores, dcus := t.dcus } ∧
        ((s.dcu (n / 12)).evicting = some n →
          (t.dcu (n / 12)).busy = false ∧ (t.dcu (n / 12)).res = 0 ∧ (t.dcu (n / 12)).evicting = none)) ∧
      (k.lateFatal ≠ none → yields (.evictionBoundary n) fun t => ∃ q, (t.coreAt n).task = some q ∧ q.phase = .failed)) ∧
    (∀ k r j, s.saveReady n = some k → s.region? k.rcb = some r → r.freeSlot = some j → yields (.contextSave n) fun t =>
      j < r.saveSlots ∧ j ∉ r.saveUsed ∧ (∀ i, i < j → i ∈ r.saveUsed) ∧
      (t.coreAt n).task = some { k with saveSlot := some j, cycles := 0 } ∧ (t.coreAt n).un.queue = [] ∧
      (let u := (((s.takeAcquires n).castOff n k).onUn n Untimed.keepLosses).landStopped n
       (t.coreAt n).timed = u.timedAt n ∧ t.mem = (u.writeImage n k (k.evict.getD 0) (r.slotBase j)).mem) ∧
      ((∀ x, x ∈ c.un.queue → x.prog.held = []) → (t.coreAt n).timed = c.timed) ∧
      ∃ r', t.region? k.rcb = some r' ∧ r'.saveUsed = r.saveUsed ++ [j]) ∧
    (∀ k j r, s.saving n = some (k, j) → s.region? k.rcb = some r →
      (r.cards.any fun x => x.idx == k.cardIdx && (x.stop || r.below x.idx)) = false → yields (.saveComplete n) fun t =>
        free t ∧ ∃ r' e, t.region? k.rcb = some r' ∧ e ∈ r'.evicted ∧ e.slot = j ∧ e.cardIdx = k.cardIdx ∧
          e.taskIdx = k.taskIdx ∧ e.die = n / 12 ∧ e.cycles = k.cycles) ∧
    (∀ k, s.drainDue n = some k →
      (yields (.taskDrainComplete n) free) ∧
      (k.phase = .draining → s.drainFailure n k = none → yields (.taskDrainComplete n) fun t =>
        ∀ r r', s.region? k.rcb = some r → t.region? k.rcb = some r' → r'.cards = onCard k.cardIdx
          (fun x => { x with running := x.running - 1, done := x.done + 1 }) r.cards) ∧
      (∀ i, k.phase = .draining → s.drainFailure n k = some i → yields (.taskDrainComplete n) fun t =>
        ∃ e, (t.dcu (n / 12)).flog.queue = (s.dcu (n / 12)).flog.queue ++ [e] ∧ e.info = i ∧ e.info.kind = 2 ∧ e.pc = k.endPc)) ∧
    ∀ die slot j r x, die < 8 → s.recordReady ((s.dcu die).slot slot).rcb j = some (r, x) →
      let a := ((s.dcu die).slot slot).rcb
      let at' := r.cqBase + 32 * (r.cqTail.toNat % 2 ^ r.cqLog2)
      (s.dcuHeld at' 32 = true ∨ s.dcuHeld a 256 = true → exec (.completionRecord die slot j) s = .next s) ∧
      (s.dcuHeld at' 32 = false → s.dcuHeld a 256 = false →
      yields (.completionRecord die slot j) fun t =>
        (∃ r', t.region? a = some r' ∧ r'.cqTail = r.cqTail + 1 ∧
          r'.cqPhase = (if (r.cqTail.toNat + 1) % 2 ^ r.cqLog2 = 0 then !r.cqPhase else r.cqPhase) ∧
          r'.cards = r.cards.filter fun y => y.idx != x.idx) ∧
        t.mem = ((((x.diesRun.foldl (fun s d => s.release d true) s).dcuWrite at' 32 (x.record r.cqPhase)).onRegion a
          fun r => r.recorded x).writeD a).mem ∧
        t.irqs = s.irqs ++ (if BitVec.ofNat 16 r.irq = 0 then [] else [BitVec.ofNat 16 r.irq]) ∧ t.cores = s.cores)

/-- O44 (tier 2). R389. `pick` gives the first entry that need not wait; `inStack` says that an address is homed in the own stack. That only KIND 1 waits and holds back no other entry, and that a REPLAY waits for the entry, are the model's choices (log entries 28 and 39). -/
def Obligations.FaultLogOfADie : Prop :=
  ∀ (s : State) (die : Nat) (v : Word), die < 8 →
    let f := (s.dcu die).flog
    let yields := fun (i : Instr) (p : State → Prop) => ∃ t, exec i s = .next t ∧ p t
    let becomes := fun (i : Instr) (g : FaultLog) =>
      yields i fun t => t = { s with dcus := t.dcus } ∧ t.dcu die = { s.dcu die with flog := g }
    (∀ r rest, f.pick f.queue = some (r, rest) →
      (r.info.kind = 1 → ∀ k h, (s.coreAt r.core).task = some k → k.hold = some h → h.asked = 0) →
      (f.en = true → f.full = false → yields (.faultLogEntry die) fun t =>
        t.mem = (s.dcuWrite (f.base.toNat + 256 * (f.tail.toNat % 2 ^ f.log2.toNat)) 256 (packFields (entryFieldsOf r))).mem ∧
        t.dcu die = { s.dcu die with flog := { f with tail := f.tail + 1, queue := rest } } ∧
        t.irqs = s.irqs ++ (if f.irq = 0 then [] else [f.irq]) ∧ t.cores = s.cores ∧ t.regions = s.regions) ∧
      (f.en = false ∨ f.full = true → becomes (.faultLogEntry die)
        { f with lost := BitVec.ofNat 32 (min (f.lost.toNat + 1) (2 ^ 32 - 1)), queue := rest })) ∧
    (∀ r l, f.queue = r :: l → (f.en = false ∨ f.full = false ∨ r.info.kind ≠ 1) → f.pick f.queue = some (r, l)) ∧
    (∀ r q l, f.queue = r :: q :: l → f.en = true → f.full = true → r.info.kind = 1 → q.info.kind ≠ 1 →
      f.pick f.queue = some (q, r :: l)) ∧
    (f.en = true → f.full = true → (∀ r ∈ f.queue, r.info.kind = 1) → exec (.faultLogEntry die) s = .next s) ∧
    (let a := v.toNat % 2 ^ 52
     (f.tail = f.head → a % 256 = 0 → s.inStack die a = true →
        becomes (.flogBaseWrite die v) { f with base := BitVec.ofNat 52 a }) ∧
     (f.tail ≠ f.head ∨ a % 256 ≠ 0 ∨ s.inStack die a = false → exec (.flogBaseWrite die v) s = .next s)) ∧
    (f.tail = f.head → becomes (.flogLog2Write die v) { f with log2 := BitVec.ofNat 5 (min 16 (v.toNat % 32)) }) ∧
    (f.tail ≠ f.head → exec (.flogLog2Write die v) s = .next s) ∧
    (v.getLsbD 0 = true → s.inStack die f.base.toNat = false → exec (.flogEnWrite die v) s = .next s) ∧
    (v.getLsbD 0 = false ∨ s.inStack die f.base.toNat = true →
      becomes (.flogEnWrite die v) { f with en := v.getLsbD 0 }) ∧
    becomes (.flogHeadWrite die v) { f with head := v.setWidth 32 }

/-- O45 (tier 2). R91-R93, R193. That a prefetch whose page is absent issues, and where a fault found in a save is taken, are the model's choices (log entries 43 and 61). `walkDue` and `translateDue` say what access waits for a page; `walkFor` and `walk` are the walk of R89. -/
def Obligations.PagesOfACopyCommand : Prop :=
  ∀ (s : State) (n q : Nat), n < 96 →
    let yields := fun (i : Instr) (p : State → Prop) => ∃ t, exec i s = .next t ∧ p t
    let c := s.coreAt n
    let cached := fun (s : State) (t : State) (x : TlbEntry) =>
      t = { s with cores := t.cores } ∧ t.coreAt n = { c with un := { c.un with tlb := (t.unAt n).tlb } } ∧
        ∀ y, y ∈ (t.unAt n).tlb ↔ y = x ∨ (y ∈ c.un.tlb ∧ ¬ (y.seg = x.seg ∧ y.va = x.va))
    (∀ va si wr, s.walkDue n = some (va, si, wr) →
      let s1 := s.walkRead n va si wr
      s1.cores = s.cores ∧ s1.regions = s.regions ∧
      (∀ x, s.walkFor n va si wr = .ok x → yields (.tlbWalkComplete n) fun t => cached s1 t x) ∧
      (∀ f, s.walkFor n va si wr = .error f → s.headPref n = true → yields (.tlbWalkComplete n) fun t =>
        t = { s1 with cores := t.cores } ∧
        t.coreAt n = { c with timed := { c.timed with seq := { c.timed.seq with walked := true } } }) ∧
      (s.walkFor n va si wr = .error .invalid → s.headPref n = false → yields (.tlbWalkComplete n) fun t =>
        (∃ k h, (t.coreAt n).task = some k ∧ k.phase = .faultHold ∧ k.hold = some h ∧ h.va = va ∧ h.replays = 0 ∧ h.cmd = none) ∧
        (t.coreAt n).timed = c.timed ∧ (t.coreAt n).un = c.un ∧ t.mem = s1.mem ∧
        ∃ e, (t.dcu (n / 12)).flog.queue = (s.dcu (n / 12)).flog.queue ++ [e] ∧ e.info.kind = 1 ∧ e.pc = c.timed.seq.pc ∧
          e.info.faddr = BitVec.ofNat 52 va) ∧
      (∀ code d, s.walkFor n va si wr = .error (.fatal code d) → s.headPref n = false → yields (.tlbWalkComplete n) fun t =>
        (∃ k, (t.coreAt n).task = some k ∧ k.phase = .failed) ∧
        ∃ e, (t.dcu (n / 12)).flog.queue = (s.dcu (n / 12)).flog.queue ++ [e] ∧ e.info.kind = 0 ∧ e.info.code = code ∧
          e.info.detail = d)) ∧
    ∀ m k e va, s.cmd? n q = some m → s.translateDue n m = some (k, e, va) →
      let found := walk s e (capIdx m.a) (va - segBase e) (isWriteTile m.ins)
      let s1 := s.walked e (capIdx m.a) (va - segBase e) (isWriteTile m.ins)
      let late := fun (f : WalkFault) => (some ⟨q, BitVec.ofNat 64 m.run, f, va, isWriteTile m.ins⟩ : Option LateFault)
      let stops := fun (t : State) => (∃ x, t.cmd? n q = some x ∧ x.stop ≠ .run ∧ x.reqs = m.reqs ∧ x.run = m.run) ∧
        t = { s1 with cores := t.cores } ∧ (t.coreAt n).timed = c.timed
      (∀ x, found = .ok x → yields (.copyPageTranslation n q) fun t => cached s1 t x) ∧
      (∀ f, found = .error f → isPref m.ins = true → yields (.copyPageTranslation n q) fun t =>
        t.cmd? n q = some (m.skipPage va) ∧ t = { s1 with cores := t.cores } ∧ (t.coreAt n).timed = c.timed) ∧
      (∀ f, found = .error f → isPref m.ins = false → k.phase = .running → yields (.copyPageTranslation n q) fun t =>
        (t.coreAt n).task = some { k with late := late f } ∧ stops t) ∧
      (∀ f, found = .error f → isPref m.ins = false → k.phase = .evicting → yields (.copyPageTranslation n q) fun t =>
        (t.coreAt n).task = some (if f = .invalid then k else { k with late := late f }) ∧ stops t)

/-- O46 (tier 2). R97, R185, R190, R346, R347, R394. `requestDue` is the piece whose request may be formed; `homeDue` and `answerDue` a request that may perform and an answer that may land; `laterWords` the words that wait for an earlier run. Which words move in a step is a free value (log entries 3 and 51, the model's choice); this says what all of them do. In a window whose rows end in shorter words a word that two requests share is carried as the first of them reads it, and lands when it is whole (log entry 71, DEDUCED). -/
def Obligations.SectorRequests : Prop :=
  ∀ (s : State) (n q : Nat) (c : Cmd) (words : BitVec 64), n < 96 → s.cmd? n q = some c →
    let die := n / 12
    let yields := fun (i : Instr) (p : State → Prop) => ∃ t, exec i s = .next t ∧ p t
    let all := BitVec.allOnes 64
    (∀ p, s.requestDue n c = some p →
      let sec := p.key / 256
      let m := byteMask (p.key % 256) p.n
      let x := s.sector die sec
      let marked := s.winMarked n c.win p.woff.toNat p.n
      let held := (s.carry n c.win p.woff.toNat p.n c.prog.held).1
      let ws := (c.win.map fun w => w.wordsIn p.woff.toNat p.n).getD []
      let own := s.ownStack die p.key
      let adds := fun (w : BitVec 64) (pr : State → Req → Prop) => yields (.sectorRequestIssue n ⟨q, w⟩) fun t =>
        ∃ d r, t.cmd? n q = some d ∧ r ∈ d.reqs ∧ r.id = c.nreq ∧ (∀ y, y.id ≠ c.nreq → (y ∈ d.reqs ↔ y ∈ c.reqs)) ∧
          d.run = (c.advance p.n).run ∧ d.boff = (c.advance p.n).boff ∧
          r.run = p.run ∧ r.woff = p.woff ∧ t.mem = s.mem ∧ t.timedAt n = s.timedAt n ∧ pr t r
      let goesOn := isPref c.ins && !s.prefFills die p.key
      (c.win.any Window.odd = false ∨ c.prog.held = [] → held = s.winReadAt n c.win p.woff.toNat p.n) ∧
      (goesOn = true → yields (.sectorRequestIssue n ⟨q, words⟩) fun t =>
        t.cmd? n q = some (c.advance p.n) ∧ t = { s with cores := t.cores }) ∧
      (goesOn = false → s.accessAllowed n c p.key = false → yields (.sectorRequestIssue n ⟨q, words⟩) fun t =>
        ∃ d, t.cmd? n q = some d ∧ d.stop = .failed p.run 0 ∧ t = { s with cores := t.cores }) ∧
      (goesOn = false → s.accessAllowed n c p.key = true → (∀ w, c.win = some w → 1 ≤ w.rbu) →
        (isPref c.ins = true → adds words fun t r =>
          r.key = p.key ∧ r.bytes = p.n ∧ r.write = false ∧ t.rdc = s.rdc ∧ r.stage = s.firstStage die p.key) ∧
        (∀ o, c.ins = .tld o → adds words fun t r =>
          r.key = p.key ∧ r.bytes = p.n ∧ r.write = false ∧ t.rdc = s.rdc ∧
          r.stage = if own = false ∧ x.serves m = true then .rdc else s.firstStage die p.key) ∧
        (∀ o, c.ins = .tst o → marked = false → adds all fun t r =>
          r.key = p.key ∧ r.bytes = p.n ∧ r.write = true ∧ r.data = BitVec.ofNat 2048 held ∧ t.rdc = s.rdc ∧
          r.stage = if own then .home else .rdc) ∧
        (∀ o, c.ins = .strem o → marked = false → adds all fun t r =>
          r.key = 256 * sec ∧ r.bytes = 256 ∧ r.mask = m ||| x.dirty ∧ t.sector die sec = .invalid ∧
          r.poison = x.poison &&& touchedGranules x.dirty &&& ~~~(fullGranules m) ∧
          r.data = mergeBytes x.data (BitVec.ofNat 2048 (held <<< (8 * (p.key % 256)))) m) ∧
        (isWriteTile c.ins = true → marked = false → (∃ i, i < ws.length ∧ words.getLsbD (i % 64) = false) → adds words fun t r =>
          r.stage = .window ∧ r.did = words ∧ t.rdc = s.rdc) ∧
        (isWriteTile c.ins = true → marked = true → yields (.sectorRequestIssue n ⟨q, words⟩) fun t =>
          ∃ d, t.cmd? n q = some d ∧ d.stop = .failed p.run 0 ∧ t = { s with cores := t.cores }))) ∧
    (∀ rq r, s.homeDue n q rq = some (c, r) → r.stage = .rdc → r.did = 0 → r.bytes ≤ 256 → s.ownStack die r.key = false →
      s.mayLeave c.prog r.key none = true →
      let m := byteMask (r.key % 256) r.bytes
      let x := s.sector die (r.key / 256)
      let y := fun (t : State) => t.sector die (r.key / 256)
      let done := fun (t : State) (pr : Req → Prop) => ∃ d z, t.cmd? n q = some d ∧ z ∈ d.reqs ∧ z.id = rq ∧ z.stage = .done ∧ pr z
      (∀ o, c.ins = .tld o → r.write = false → x.serves m = true → x.poison &&& touchedGranules m = 0 →
        yields (.homeAccess (.core n q rq all)) fun t => t = { s with cores := t.cores } ∧
          done t fun z => z.data = BitVec.ofNat 2048 (x.data.toNat >>> (8 * (r.key % 256)) % 2 ^ (8 * r.bytes))) ∧
      (∀ o, c.ins = .tst o → r.write = true → yields (.homeAccess (.core n q rq all)) fun t => t.mem = s.mem ∧
        if (s.portRefuses r.key).1 then t.rdc = s.rdc ∧ ∃ d, t.cmd? n q = some d ∧ d.stop = .failed r.run 0
        else done t (fun _ => True) ∧ (y t).full = x.full ∧ (y t).dirty = x.dirty ||| m ∧
          (y t).data = mergeBytes x.data (BitVec.ofNat 2048 (r.data.toNat <<< (8 * (r.key % 256)))) m)) ∧
    ∀ rq r, s.answerDue n q rq = some (c, r) →
      (∀ o w, c.ins = .tld o → c.win = some w → r.write = false → r.landed = 0 → r.bytes % 4 = 0 → r.bytes ≤ 256 → 0 ≤ r.woff →
        r.woff.toNat + r.bytes ≤ w.size → 1 ≤ w.rbu → w.rbu ≤ 4096 → 1 ≤ w.tr.toNat → w.tr.toNat ≤ 128 → c.laterWords r = 0 →
        let byte := fun (i : Nat) => r.data.extractLsb' (8 * i) 8
        let stands := fun (t : State) (i : Nat) => (t.timedAt n).sbyte (w.byteAddr (r.woff.toNat + i)) = byte i
        yields (.sectorResponse n q rq (BitVec.allOnes 1024)) fun t =>
          (∃ d, t.cmd? n q = some d ∧ (d.reqs = c.reqs.filter fun y => y.id != rq) ∧
            ∀ i, i < r.bytes → stands t i ∨ w.odd = true ∧ ∃ h, h ∈ d.prog.held ∧ h = ⟨n, r.woff.toNat + i, r.run, byte i⟩) ∧
          t.mem = s.mem) ∧
      (∀ o words, c.ins = .tst o → r.write = true → yields (.sectorResponse n q rq words) fun t =>
        (∃ d, t.cmd? n q = some d ∧ d.reqs = c.reqs.filter fun y => y.id != rq) ∧ t.mem = s.mem ∧ t.timedAt n = s.timedAt n)

/-- O47 (tier 2). R101, R187, R194, R351, R352. The steps named move every word at once; which words move in a step, that an acquire alone writes back what its core wrote, and WCOPY between windows that share bytes (of which nothing is said here) are the model's choices (log entries 3, 51 and 65). `endDue` and `batchDue` say that a command or a batch may end. -/
def Obligations.EndsOfCopyCommands : Prop :=
  ∀ (s : State) (n : Nat), n < 96 →
    let flagAt := fun (t : State) (f : BitVec 5) => (t.timedAt n).flag f
    let isSet := fun (t : State) (f : BitVec 5) => flagAt t f = if flagAt s f = .error then .error else .set
    (∀ q c, s.cmd? n q = some c → s.endDue n c = true →
      let ends := fun (p : State → Prop) =>
        ∀ blk, ∃ t, exec (.copyCommandComplete n ⟨q, blk, BitVec.allOnes 1024⟩) s = .next t ∧ t.cmd? n q = none ∧ p t
      let fine := fun (w : Window) => 1 ≤ w.rbu ∧ w.rbu ≤ 4096 ∧ 1 ≤ w.tr.toNat ∧ w.tr.toNat ≤ 128
      (∀ blk words, isTile c.ins = true ∨ passesThrough c.ins = true → c.prog.held = [] ∨ isWriteTile c.ins = true →
        ∃ t, exec (.copyCommandComplete n ⟨q, blk, words⟩) s = .next t ∧
        t.cmd? n q = none ∧ t = { s with cores := t.cores } ∧ t.timedAt n = s.timedAt n) ∧
      (∀ o w, c.ins = .tld o → c.win = some w → fine w → (∀ h, h ∈ c.prog.held → h.core = n ∧ h.at' < w.size) →
        (c.prog.held.map (·.at')).Nodup → ends fun t => t = { s with cores := t.cores } ∧
          ∀ h, h ∈ c.prog.held → (t.timedAt n).sbyte (w.byteAddr h.at') = h.val) ∧
      (∀ o d w, c.ins = .wcopy o → c.win = some d → c.win2 = some w → fine d → d.size = w.size → c.prog.part = [] →
        s.winMarked n (some w) 0 w.size = false → ends fun t => t.mem = s.mem ∧
          ((∀ l k, l < d.size → k < w.size → d.byteAddr l ≠ w.byteAddr k) →
            ∀ l, l < d.size → (t.timedAt n).sbyte (d.byteAddr l) = (s.timedAt n).sbyte (w.byteAddr l))) ∧
      (∀ o d, c.ins = .wfill o → c.win = some d → c.win2 = none → fine d → c.prog.part = [] → ends fun t =>
        (∀ l, l < d.size → (t.timedAt n).sbyte (d.byteAddr l) = c.a.extractLsb' (8 * (l % d.rbu % 4)) 8) ∧ t.mem = s.mem) ∧
      (∀ m sc k, c.ins = .fence m sc k → c.prog.left = none → ends fun t =>
        (sc.toNat < 3 → t = { s with cores := t.cores }) ∧
        ∀ x, 3 ≤ sc.toNat → s.sectorIn (decide (sc.toNat = 4)) x = true →
          (k = 1 ∨ k = 3 → (t.sector (n / 12) x).dirty = 0) ∧ (k = 2 ∨ k = 3 → (t.sector (n / 12) x).full = false) ∧
          (k = 2 → (s.sector (n / 12) x).wroteIn n m = true → (t.sector (n / 12) x).dirty = 0)) ∧
      (∀ o, c.ins = .pcnt o → c.prog.parked = none → ends fun t => isSet t o.f ∧
        ∀ w, c.win = some w → fine w → c.b.toNat + 64 ≤ w.size → ∀ i, i < 64 →
          (t.timedAt n).sbyte (w.byteAddr (c.b.toNat + i)) = BitVec.ofNat 8 ((s.unAt n).pathCounts >>> (8 * i))) ∧
      (∀ o, c.ins = .pwait o → ends fun t =>
        if (s.unAt n).remoteFail.any (fun x => decide (x < q)) = true then flagAt t o.f = .error else isSet t o.f)) ∧
    ∀ b x, (s.unAt n).batchDue b = some x →
      ∃ t, exec (.batchComplete n b) s = .next t ∧
        (∀ y ∈ (t.unAt n).batches, y.id = b → y.isOpen = true) ∧
        (∀ f, x.flag = some f → (x.failed = none → isSet t f) ∧ (x.failed ≠ none → flagAt t f = .error)) ∧
        (t.timedAt n).regs = (s.timedAt n).regs ∧ (t.unAt n).queue = (s.unAt n).queue ∧ t.mem = s.mem

/-- O48 (tier 2). R97, R203, R94. Every word of an access moves at once here; the grain is the model's choice (log entries 3 and 8), and so is the fault of an access from outside (54). A sector that is not full is PARTIAL where it has dirty bytes and INVALID where it has none. -/
def Obligations.SectorsOfAnRdc : Prop :=
  ∀ (s : State) (die sec key k v : Nat), die < 8 → key / 256 = sec → key % 256 + k ≤ 256 → s.ownStack die key = false →
    let yields := fun (i : Instr) (p : State → Prop) => ∃ t, exec i s = .next t ∧ p t
    let x := s.sector die sec
    let m := byteMask (key % 256) k
    let byte := fun (y : RdcSector) (i : Nat) => y.data.extractLsb' (8 * i) 8
    (let w := (s.dieWrite die key k (2 ^ k - 1) v).1
     let y := w.sector die sec
     y.full = x.full ∧ y.dirty = x.dirty ||| m ∧ w = { s with rdc := w.rdc } ∧
     ∀ i, i < 256 → byte y i = if m.getLsbD i then BitVec.ofNat 8 (v >>> (8 * (i - key % 256))) else byte x i) ∧
    (x.serves m = true → (s.dieRead die key k).1 = s ∧ (s.dieRead die key k).2.1 = x.data.toNat >>> (8 * (key % 256)) % 2 ^ (8 * k)) ∧
    (x.serves m = false →
      let y := (s.dieRead die key k).1.sector die sec
      y.full = true ∧ y.dirty = x.dirty ∧ ∀ i, i < 256 → x.dirty.getLsbD i = true → byte y i = byte x i) ∧
    (s.releaseSector die sec).sector die sec =
      (if x.dirty = 0 then x else if x.full then { x with dirty := 0, who := [] } else .invalid) ∧
    (let y := (s.acquireSector die sec).sector die sec
     y.full = false ∧ y.dirty = x.dirty ∧ ∀ i, i < 256 → byte y i = if x.dirty.getLsbD i then byte x i else 0) ∧
    (s.sectorHeld die sec = false → s.trust.holds = false → yields (.rdcReplacement die ⟨sec, BitVec.allOnes 64⟩) fun t =>
      t.sector die sec = .invalid ∧ (∀ j, j ≠ sec → t.sector die j = s.sector die j) ∧ t.cores = s.cores ∧
      (x.dirty = 0 → t.mem = s.mem)) ∧
    (∀ n q rq c r, n < 96 → s.homeDue n q rq = some (c, r) → (∃ u, s.home r.key = .hbm u ∨ s.home r.key = .lpddr u) →
      isRemote c.ins = false → isPref c.ins = false → r.write = true → r.stage = .home → r.did = 0 → r.bytes ≤ 256 →
      let s1 := s.countSlice r.key
      ((s1.touch r.key r.bytes).2 = false → yields (.homeAccess (.core n q rq (BitVec.allOnes 64))) fun t =>
        (∃ d y, t.cmd? n q = some d ∧ y ∈ d.reqs ∧ y.id = rq ∧ y.stage = .done) ∧
        t.mem = (s1.homeWrite r.key r.bytes (2 ^ r.bytes - 1) r.data.toNat).1.mem) ∧
      ((s1.touch r.key r.bytes).2 = true → yields (.homeAccess (.core n q rq (BitVec.allOnes 64))) fun t =>
        (∃ d a, t.cmd? n q = some d ∧ d.stop = .failed r.run a) ∧ t.mem = (s1.touch r.key r.bytes).1.mem)) ∧
    (∀ data wr copy, (s.outsideMissing key k = true → exec (.homeAccess (.outside key k wr copy data)) s = .fault (.noSuchAddress key)) ∧
      (s.outsideMissing key k = false →
        let s1 := if copy then s.countSlice key else s
        yields (.homeAccess (.outside key k wr copy data)) fun t =>
        t.cores = s.cores ∧ t.dcus = s.dcus ∧ t.vertex = s.vertex ∧ t.pbc = s.pbc ∧ t.trust = s.trust ∧ t.hbm = s1.hbm ∧
        t.mem = if wr then (s1.homeWrite key k (2 ^ k - 1) data.toNat).1.mem else (s1.homeRead key k).1.mem)) ∧
    ∀ (st i : Nat) (h : st < 8) (z : Word),
      let allowed := z.toNat % 1024 = 0 ∧ z.toNat / 1024 % 64 = 2 ^ i
      (∀ hi : i < 6, allowed → yields (.hashmWrite st i z) fun t =>
        t = { s with hbm := t.hbm } ∧
        t.hbm.get ⟨st, h⟩ = { s.hbm.get ⟨st, h⟩ with hashM := (s.hbm.get ⟨st, h⟩).hashM.set i (z.setWidth 44) hi }) ∧
      (i < 6 → ¬ allowed → yields (.hashmWrite st i z) fun t =>
        t = { s with hbm := t.hbm } ∧ t.hbm.get ⟨st, h⟩ = { s.hbm.get ⟨st, h⟩ with hashErr := true }) ∧
      yields (.cntclr st) fun t =>
        t = { s with hbm := t.hbm } ∧ t.hbm.get ⟨st, h⟩ = { s.hbm.get ⟨st, h⟩ with pcreq := [] }

/-- O49 (tier 2). R392-R394, R397. That an uncorrectable error of memory is poisoned in the step in which it arises, as by a demand read, and that the scrubber acts while the module is READY with SCRUB_PERIOD not 0, is the model's choice (log entry 24, DESIGN CHOICE). `place` is where the byte of a location stands (R306). -/
def Obligations.PoisonedGranules : Prop :=
  ∀ (s : State) (g key n mask v : Nat),
    let yields := fun (i : Instr) (p : State → Prop) => ∃ t, exec i s = .next t ∧ p t
    let poisons := fun (t : State) => (∀ h, h ∈ t.poison ↔ h = g ∨ h ∈ s.poison) ∧ t.cores = s.cores
    (s.ctl.sstate = .ready → s.granuleHere g = true →
      yields (.memoryError (.dram g .uncorrectable)) poisons ∧
      (s.ctl.scrubPeriod ≠ 0 → yields (.patrolScrub g .uncorrectable) poisons) ∧
      let u := 32 * g / 2 ^ 44 % 16
      let counts := fun (t : State) => t = { s with ctl := { s.ctl with ceCount := t.ctl.ceCount } } ∧
        ∀ i : Fin 16, (t.ctl.ceCount.get i) =
          if i.val = u then min (2 ^ 48 - 1) ((s.ctl.ceCount.get i) + 1) else (s.ctl.ceCount.get i)
      (g ∉ s.poison → yields (.memoryError (.dram g .correctable)) counts ∧
        (s.ctl.scrubPeriod ≠ 0 → yields (.patrolScrub g .correctable) counts)) ∧
      (g ∈ s.poison → ∀ e, exec (.memoryError (.dram g e)) s = .next s)) ∧
    (s.ctl.scrubPeriod = 0 → ∀ e, exec (.patrolScrub g e) s = .next s) ∧
    (∀ x, s.ctl.sstate ≠ .ready → exec (.memoryError x) s = .next s) ∧
    (s.ctl.sstate = .ready → ∀ (d m b : Nat), d < 8 → b < 8 →
      let x := s.sector d m
      let home := m * 8 + b
      exec (.memoryError (.rdc d m b true)) s = .next s ∧
      (∀ dirty, exec (.memoryError (.l2 d m b dirty true)) s = .next s) ∧
      (x.dirty = 0 → exec (.memoryError (.rdc d m b false)) s = .next (s.setSector d m .invalid)) ∧
      (x.dirty ≠ 0 → yields (.memoryError (.rdc d m b false)) fun t => t.cores = s.cores ∧ t.poison = s.poison ∧
        t.sector d m = { x with poison := (t.sector d m).poison } ∧
        (∀ i, (t.sector d m).poison.getLsbD i = (x.poison.getLsbD i || decide (i = b))) ∧
        ∀ j k, j ≠ d ∨ k ≠ m → t.sector j k = s.sector j k) ∧
      (s.home (32 * home) = .hbm d →
        (yields (.memoryError (.l2 d m b true false)) fun t => t.cores = s.cores ∧ ∀ h, h ∈ t.poison ↔ h = home ∨ h ∈ s.poison) ∧
        yields (.memoryError (.l2 d m b false false)) fun t => t = { s with l2 := t.l2 } ∧
          ∀ (j : Fin 8) k, Store.get false (t.l2.get j) k =
            if j.val = d ∧ k = m then false else Store.get false (s.l2.get j) k)) ∧
    (s.ctl.sstate = .ready → ∀ (c k m : Nat), c < 96 →
      exec (.memoryError (.timedState c k m true)) s = .next s ∧
      let marks := fun (sites : MarkSite → Prop) => yields (.memoryError (.timedState c k m false)) fun t =>
        t = { s with cores := t.cores } ∧ t.coreAt c = { s.coreAt c with marks := (t.coreAt c).marks } ∧
        (∀ x, x ∈ (t.coreAt c).marks ↔ x ∈ (s.coreAt c).marks ∨ sites x) ∧ ∀ j, j < 96 → j ≠ c → t.coreAt j = s.coreAt j
      (k = 0 → m < 64 → marks fun x => x = .scalar m) ∧ (k = 1 → m < 160 → marks fun x => x = .vector m) ∧
      (k = 2 → m < 16 → marks fun x => x = .mask m) ∧ (k = 3 → m < 1536 → marks fun x => x = .accRow m) ∧
      (k = 4 → marks fun x => x = .array) ∧ (k = 5 → m < 64 → marks fun x => x = .loopBuffer m) ∧
      (k = 6 → m < 262144 → marks fun x => ∃ i, i < 32 ∧ x = .scratch (32 * m + i))) ∧
    ((∀ i, i < n → s.place (key + i) = key + i) →
      let t := s.storeAt key n mask v
      let covered := fun (h : Nat) => ∀ i, i < 32 → key ≤ 32 * h + i ∧ 32 * h + i < key + n ∧ mask.testBit (32 * h + i - key) = true
      (∀ h, h ∈ t.poison ↔ h ∈ s.poison ∧ ¬ covered h) ∧
      (∀ a, t.mem.byte a =
        if key ≤ a ∧ a < key + n ∧ mask.testBit (a - key) = true ∧ a / 32 ∉ t.poison
        then BitVec.ofNat 8 (v / 256 ^ (a - key)) else s.mem.byte a) ∧
      (s.poisonAt key n = true ↔ ∃ i, i < n ∧ (key + i) / 32 ∈ s.poison))

/-- O50 (tier 2). R257, R258, R278. RES 4 of a READ of a record in error and RES of an OBJ_COUNT above 1,048,576 are the model's choices (log entries 30 and 48). `imageOk` is the test of CMD_ADDR, `phaserImageBad` that of R260, `ovfBad` that of R257. -/
def Obligations.VertexHostCommands : Prop :=
  ∀ (s : State) (die obj : Nat) (op : BitVec 4) (v : Word), die < 8 →
    let u := s.vxOf die
    let o := u.obj obj
    let a := u.cmdAddr.toNat
    let yields := fun (i : Instr) (p : State → Prop) => ∃ t, exec i s = .next t ∧ p t
    let answers := fun (i : Instr) (r : BitVec 4) =>
      yields i fun t => t = { s with vertex := t.vertex } ∧ t.vxOf die = { u with res := r, genOut := o.gen }
    let done := fun (t : State) (r : BitVec 4) => (t.vxOf die).res = r ∧ (t.vxOf die).genOut = ((t.vxOf die).obj obj).gen
    let cleared := fun (t : State) =>
      (∀ w ∈ (t.vxOf die).waits, w.obj ≠ obj) ∧
      ∀ n k x, n < 96 → (t.unAt n).arms.get k = some x → ¬ (hObj x.handle = obj ∧ hDie x.handle = die ∧ hMod x.handle = s.myMod.toNat)
    let image := s.homeRead a 64
    let rec' : BitVec 512 := BitVec.ofNat 512 image.2.1
    (u.objCount ≤ obj → ∀ i ∈ ([.initSync die obj, .initPhaser die obj, .freeObject die obj, .readObject die obj,
      .breakPhaser die obj] : List Instr), answers i 2) ∧
    (obj < u.objCount → o.kind ≠ .free →
      answers (.initSync die obj) 3 ∧ answers (.initPhaser die obj) 3 ∧
      (s.imageOk u.cmdAddr 64 = false → answers (.readObject die obj) 4) ∧
      (∀ k, s.imageOk u.cmdAddr 64 = true → (s.readObj die obj).2 = some k → yields (.readObject die obj) fun t =>
        done t 0 ∧ t.mem = ((s.readObj die obj).1.homeWrite a 64 (2 ^ 64 - 1) k.toRec.toNat).1.mem ∧
        (t.vxOf die).objs = u.objs) ∧
      (yields (.freeObject die obj) fun t =>
        done t 0 ∧ (t.vxOf die).obj obj = ⟨o.gen + 1, .free⟩ ∧ (∀ m, m ≠ obj → (t.vxOf die).obj m = u.obj m) ∧ cleared t) ∧
      (∀ w, o.kind = .sync w → answers (.breakPhaser die obj) 3) ∧
      ∀ p, (s.readObj die obj).2 = some (.phaser p) → yields (.breakPhaser die obj) fun t =>
        done t 0 ∧ (t.vxOf die).obj obj = ⟨o.gen, .phaser { p with broken := true }⟩ ∧ cleared t) ∧
    (obj < u.objCount → o.kind = .free →
      answers (.freeObject die obj) 3 ∧ answers (.readObject die obj) 3 ∧ answers (.breakPhaser die obj) 3 ∧
      (s.imageOk u.cmdAddr 64 = false → answers (.initSync die obj) 4 ∧ answers (.initPhaser die obj) 4) ∧
      (s.imageOk u.cmdAddr 64 = true →
        (image.2.2 = false →
          (yields (.initSync die obj) fun t => done t 0 ∧ (t.vxOf die).obj obj = ⟨o.gen, .sync rec'⟩ ∧ t.cores = s.cores) ∧
          (phaserImageBad rec' = false → yields (.initPhaser die obj) fun t =>
            done t 0 ∧ (t.vxOf die).obj obj = ⟨o.gen, .phaser (.ofRec rec')⟩ ∧ t.cores = s.cores)) ∧
        (image.2.2 = true → yields (.initSync die obj) fun t => done t 4 ∧ (t.vxOf die).obj obj = o) ∧
        (image.2.2 = true ∨ phaserImageBad rec' = true → yields (.initPhaser die obj) fun t =>
          done t 4 ∧ (t.vxOf die).obj obj = o))) ∧
    (op = 0 ∨ 6 ≤ op.toNat → yields (.vertexBadCommand die op obj) fun t =>
      t = { s with vertex := t.vertex } ∧ t.vxOf die = { u with res := 1 }) ∧
    (let stored := fun (i : Instr) (x : VertexUnit) => yields i fun t => t = { s with vertex := t.vertex } ∧ t.vxOf die = x
     let b : BitVec 52 := v.setWidth 52
     let n := v.toNat % 2 ^ 21
     (u.allFree = true → s.ovfBad die b u.objCount = false → stored (.ovfBaseWrite die v) { u with ovfBase := b }) ∧
     (u.allFree = false ∨ s.ovfBad die b u.objCount = true → stored (.ovfBaseWrite die v) { u with cfgErr := true }) ∧
     (u.allFree = true → n ≤ 1048576 → s.ovfBad die u.ovfBase n = false → stored (.objCountWrite die v) { u with objCount := n }) ∧
     (u.allFree = false ∨ s.ovfBad die u.ovfBase n = true → stored (.objCountWrite die v) { u with cfgErr := true }))

/-- O51 (tier 2). R262-R278. The steps named make a release and a result whole; that they may also go sector by sector and word by word, and the release scope of a handle whose generation or kind does not match, are the model's choices (log entries 3, 35 and 48). `vxDue` and `armDue` say that the command or the arm may be performed; `register`, `dropMember` and `arrive` are R268, R269 and ARRIVE of R262. -/
def Obligations.VertexPerformsCommands : Prop :=
  ∀ (s : State) (n : Nat), n < 96 →
    let yields := fun (i : Instr) (p : State → Prop) => ∃ t, exec i s = .next t ∧ p t
    (∀ q c k, s.cmd? n q = some c → (s.coreAt n).task = some k → s.vxDue n c = true → hMod c.a = s.myMod.toNat →
      c.prog.parked = none → c.prog.left = none →
      let d := hDie c.a
      let o := hObj c.a
      let u := s.vxOf d
      let m := c.b.toNat % 64
      let l := c.b.toNat
      let kind := fun (t : State) => ((t.vxOf d).obj o).kind
      let isSet := fun (t : State) (f : BitVec 5) =>
        (t.timedAt n).flag f = if (s.timedAt n).flag f = .error then .error else .set
      let goes := fun (p : State → Prop) => yields (.vertexOperation n ⟨q, BitVec.allOnes 1024⟩) fun t => t.cmd? n q = none ∧ p t
      let shows := fun (t : State) (k : Nat) (v : Nat) => ∀ w, c.win = some w → 1 ≤ w.rbu → w.rbu ≤ 4096 → 1 ≤ w.tr.toNat →
        w.tr.toNat ≤ 128 → l + k ≤ w.size → ∀ i, i < k → (t.timedAt n).sbyte (w.byteAddr (l + i)) = BitVec.ofNat 8 (v >>> (8 * i))
      let awaits := fun (t : State) (p : Phaser) (ph : BitVec 32) (f : BitVec 5) =>
        hasPassed ph p.phase = true ∨ ⟨o, ph, some k.ref, 0, f, p.scope, opOf c.ins⟩ ∈ (t.vxOf d).waits
      (∀ x, vxFields c.ins = some x → u.objCount ≤ o ∨ (u.obj o).gen ≠ hGen c.a → (∀ y, c.ins ≠ .pharm y) → goes fun t =>
        (t.timedAt n).flag x.f = .error ∧ t.vertex = s.vertex) ∧
      (∀ x p, vxFields c.ins = some x → o < u.objCount → (u.obj o).gen ≠ hGen c.a → (s.readObj d o).2 = some (.phaser p) → goes fun t =>
        3 ≤ (p.releaseScope c.ins m) → ∀ y, s.sectorIn (decide (p.releaseScope c.ins m = 4)) y = true → (t.sector (n / 12) y).dirty = 0) ∧
      (d < 8 → o < u.objCount → (u.obj o).gen = hGen c.a →
        (∀ p x, (s.readObj d o).2 = some (.phaser p) → c.ins = .pharr x → goes fun t =>
          (p.broken = true ∨ inPhaserScope p d n k.lcluster = false → (t.timedAt n).flag x.f = .error ∧ t.vertex = s.vertex) ∧
          ∀ y, 3 ≤ p.scope.toNat → s.sectorIn (decide (p.scope.toNat = 4)) y = true → (t.sector (n / 12) y).dirty = 0) ∧
        (∀ p, (s.readObj d o).2 = some (.phaser p) → p.broken = false → inPhaserScope p d n k.lcluster = true →
          (∀ x p1 j, c.ins = .phreg x → register p (vxMode x) = some (p1, j) → goes fun t =>
            kind t = .phaser p1 ∧ isSet t x.f ∧ shows t 8 j) ∧
          (∀ x p1 ps, c.ins = .phdrop x → dropMember p m = some (p1, ps) → goes fun t =>
            kind t = .phaser p1 ∧ isSet t x.f) ∧
          (∀ x p1 ps ph, c.ins = .pharr x → arrive p m = some (p1, ps, ph) →
            (p.mode m = 0 → goes fun t => kind t = .phaser p1 ∧ isSet t x.f) ∧
            (p.mode m = 2 → goes fun t => kind t = .phaser p1 ∧ awaits t p1 ph x.f)) ∧
          (∀ x, c.ins = .phwait x →
            let w := c.b.toNat / 2 ^ 32 % 64
            (p.reg.getLsbD w = true ∨ p.join.getLsbD w = true) → p.mode w ≠ 0 → goes fun t =>
              kind t = kind s ∧ awaits t p (c.b.setWidth 32) x.f) ∧
          (∀ x, c.ins = .phrd x → goes fun t => kind t = kind s ∧ isSet t x.f ∧ shows t 64 p.toRec.toNat) ∧
          (∀ x a, c.ins = .pharm x → (s.unAt n).armOf q = some a → (s.unAt n).released = [] →
            (p.reg.getLsbD m = true ∨ p.join.getLsbD m = true) → p.mode m = 3 → goes fun t =>
              kind t = kind s ∧ (t.unAt n).armOf q = some { a with ok := true })) ∧
        (∀ w x, (s.readObj d o).2 = some (.sync w) → c.ins = .pharr x → goes fun t =>
          (t.timedAt n).flag x.f = .error ∧ kind t = kind s) ∧
        ∀ w, (s.readObj d o).2 = some (.sync w) →
          let a := c.img.toNat % 2 ^ 64
          let b := c.img.toNat / 2 ^ 64
          let does := fun (x : CfOp) (wide : Bool) (keeps : Bool) (new : Nat → Nat → Nat → Nat → Nat) =>
            let z := if wide then 64 else 32
            let at' := 64 * hWord c.a + if hHalf c.a then 32 else 0
            let old := w.toNat / 2 ^ at' % 2 ^ z
            (wide = true → hHalf c.a = false) → goes fun t =>
              ∃ w', kind t = .sync w' ∧ w'.toNat / 2 ^ at' % 2 ^ z = new z old (a % 2 ^ z) (b % 2 ^ z) ∧
                (∀ i, (i < at' ∨ at' + z ≤ i) → w'.getLsbD i = w.getLsbD i) ∧ isSet t x.f ∧
                (keeps = true → shows t (z / 8) old)
          let lower := fun (x : CfOp) (z a b : Nat) => if vxSigned x then decide (signedElem z a < signedElem z b) else decide (a < b)
          (∀ x, c.ins = .swld x → does x (vxWide x) true fun _ old _ _ => old) ∧
          (∀ x, c.ins = .swst x → does x (vxWide x) false fun _ _ a _ => a) ∧
          (∀ x, c.ins = .aadd x → does x (vxWide x) true fun z old a _ => (old + a) % 2 ^ z) ∧
          (∀ x, c.ins = .amin x → does x (vxWide x) true fun z old a _ => if lower x z a old then a else old) ∧
          (∀ x, c.ins = .amax x → does x (vxWide x) true fun z old a _ => if lower x z old a then a else old) ∧
          (∀ x, c.ins = .aand x → does x (vxWide x) true fun _ old a _ => old &&& a) ∧
          (∀ x, c.ins = .aor x → does x (vxWide x) true fun _ old a _ => old ||| a) ∧
          (∀ x, c.ins = .axor x → does x (vxWide x) true fun _ old a _ => old ^^^ a) ∧
          (∀ x, c.ins = .axchg x → does x (vxWide x) true fun _ _ a _ => a) ∧
          (∀ x, c.ins = .acas x → does x (vxWide x) true fun _ old a b => if old = a then b else old) ∧
          ∀ x, c.ins = .afaddF32 x → does x false true fun _ old a _ =>
            (toF32 (rneF32 ((ofF32 (BitVec.ofNat 32 old)).add (ofF32 (BitVec.ofNat 32 a))))).toNat)) ∧
    (∀ q c k x, s.cmd? n q = some c → (s.coreAt n).task = some k → s.vxDue n c = true → hMod c.a ≠ s.myMod.toNat →
      c.prog.parked = none → c.prog.left = none → vxFields c.ins = some x → yields (.vertexOperation n ⟨q, BitVec.allOnes 1024⟩) fun t =>
        t.cmd? n q = none ∧ (releases c.ins = true → ∀ y, (t.sector (n / 12) y).dirty = 0) ∧
        ((∀ y, c.ins ≠ .pharm y) → t.vertex = s.vertex ∧ (s.mayReach (hMod c.a) = false → (t.timedAt n).flag x.f = .error))) ∧
    (∀ i a k, i < 4 → s.armDue n i = some a → (s.coreAt n).task = some k →
      a.ok = false ∨ s.armFree n a = false ∨ s.armFar n a = true → yields (.armComplete n i) fun t =>
        a ∈ (t.unAt n).released ∧ (∀ j x, (t.unAt n).arms.get j = some x → x.seq ≠ a.seq) ∧ t = { s with cores := t.cores } ∧
        (t.coreAt n).timed = (s.coreAt n).timed) ∧
    (∀ i a k p p1 ps ph, s.armDue n i = some a → (s.coreAt n).task = some k → a.ok = true → hMod a.handle = s.myMod.toNat →
      s.armFar n a = false ∨ 4 ≤ i →
      hDie a.handle < 8 → (s.vxOf (hDie a.handle)).poolRoom = true →
      ((s.vxOf (hDie a.handle)).obj (hObj a.handle)).gen = hGen a.handle →
      (s.readObj (hDie a.handle) (hObj a.handle)).2 = some (.phaser p) → p.broken = false →
      arrive p a.member.toNat = some (p1, ps, ph) → yields (.armComplete n i) fun t =>
        ((t.vxOf (hDie a.handle)).obj (hObj a.handle)).kind = .phaser p1 ∧
        (∀ j x, (t.unAt n).arms.get j = some x → x.seq ≠ a.seq)) ∧
    (∀ i a k, s.armDue n i = some a → (s.coreAt n).task = some k → a.ok = true → hMod a.handle ≠ s.myMod.toNat →
      s.mayReach (hMod a.handle) = false → yields (.armComplete n i) fun t =>
        (t.timedAt n).flag a.flag = .error ∧ t.vertex = s.vertex ∧ ∀ j x, (t.unAt n).arms.get j = some x → x.seq ≠ a.seq) ∧
    ∀ die obj, die < 8 → obj < (s.vxOf die).objCount → ((s.vxOf die).obj obj).kind ≠ .free →
      let u := s.vxOf die
      let counted := fun (t : State) => (t.vxOf die).ovfMoves = min (2 ^ 48 - 1) (u.ovfMoves + 1) ∧ t.cores = s.cores
      (obj ∉ u.moved → obj ∉ u.bad → yields (.vertexRecordMove die obj) fun t =>
        counted t ∧ (t.vxOf die).moved = u.moved ++ [obj] ∧ (t.vxOf die).obj obj = u.obj obj ∧
        t.mem = (s.homeWrite (u.ovfAt obj) 64 (2 ^ 64 - 1) (u.obj obj).kind.toRec.toNat).1.mem) ∧
      (∀ k, obj ∈ u.moved → u.resident < 131072 → (s.readObj die obj).2 = some k → yields (.vertexRecordMove die obj) fun t =>
        counted t ∧ obj ∉ (t.vxOf die).moved ∧ (t.vxOf die).obj obj = ⟨(u.obj obj).gen, k⟩)

/-- O52 (tier 2). R262, R268. Bit m of a field stands for member m. -/
def Obligations.PhaserPassage : Prop :=
  ∀ (p : Phaser) (m mode : Nat), m < 64 → mode < 4 →
    let settled := fun (x : Phaser) => x.signalling = 0 ∨ ∃ i, i < 64 ∧ x.signalling.getLsbD i = true ∧ x.arr.getLsbD i = false
    (∀ i, i < 64 → p.signalling.getLsbD i = (p.reg.getLsbD i && decide (p.mode i ≠ 1))) ∧
    (∀ p1 ps ph, arrive p m = some (p1, ps, ph) →
      settled p1 ∧ ph = (if p.arr.getLsbD m then p.phase + 1 else p.phase) ∧ ps.length ≤ 2 ∧
      (∀ i, i < ps.length → ps[i]? = some (p.phase + BitVec.ofNat 32 i)) ∧ p1.phase = p.phase + BitVec.ofNat 32 ps.length ∧
      p1.modeLo = p.modeLo ∧ p1.modeHi = p.modeHi ∧ p1.scope = p.scope ∧ p1.deliv = p.deliv ∧ p1.broken = p.broken ∧
      (ps = [] → p1.reg = p.reg ∧ p1.join = p.join ∧ p1.leave = p.leave)) ∧
    (arrive p m = none ↔ p.reg.getLsbD m = false ∨ p.mode m = 1 ∨ (p.arr.getLsbD m = true ∧ p.ahead.getLsbD m = true)) ∧
    (∀ p1 j, register p mode = some (p1, j) →
      j < 64 ∧ p.reg.getLsbD j = false ∧ p.join.getLsbD j = false ∧
      (∀ i, i < j → p.reg.getLsbD i = true ∨ p.join.getLsbD i = true) ∧ p1.mode j = mode ∧
      (∀ i, i < 64 → i ≠ j → p1.reg.getLsbD i = p.reg.getLsbD i ∧ p1.join.getLsbD i = p.join.getLsbD i ∧ p1.mode i = p.mode i) ∧
      p1.reg.getLsbD j = decide (p.signalling = 0) ∧ p1.join.getLsbD j = decide (p.signalling ≠ 0)) ∧
    (register p mode = none ↔ (mode = 3 ∧ p.deliv = false) ∨ ∀ i, i < 64 → p.reg.getLsbD i = true ∨ p.join.getLsbD i = true)

/-- O53 (tier 2). R284, R287-R289, R301. That a HOTLOAD of a table dropped while it waits ends with RES 3 is the model's choice (log entry 47), and so is that RES keeps its value while BUSY is 1 (log entry 11, DEDUCED). `imageOk` is the test of CMD_ADDR, `tableBad` that of R284, `tableInUse` that of TDROP, `rowHeld` that of HOTLOAD. A SLOTLOG2 outside 6 to 13 is refused with CFG_ERR (the model's choice, log entry 30). -/
def Obligations.PoolingHostCommands : Prop :=
  ∀ (s : State) (n T : Nat) (op : BitVec 8) (v : Word), n < 8 →
    let p := s.pbcOf n
    let d := s.table T
    let runs := fun (i : Instr) (q : State → Prop) => ∃ t, exec i s = .next t ∧ q t
    let answers := fun (i : Instr) (r : BitVec 4) => runs i fun t => t = { s with pbc := t.pbc } ∧ t.pbcOf n = { p with res := r }
    let counter := fun (s : State) (k i : Nat) => Store.get 0 (s.pbcOf k).counters (8 * T + i)
    let evicted := fun (t : State) (k : Nat) =>
      (∀ x, x ∈ (t.pbcOf k).hot ↔ ∃ y, y ∈ (s.pbcOf k).hot ∧ ¬ (y.table = T ∧ y.st = .migIn) ∧
        x = if y.table = T ∧ y.st = .resident then { y with st := .migOut } else y) ∧
      counter t k 7 = min (2 ^ 48 - 1) (counter s k 7 + ((s.pbcOf k).hot.filter fun y => y.table == T && y.st == .migIn).length)
    let left := fun (k : Nat) => ∃ y, y ∈ (s.pbcOf k).hot ∧ y.table = T ∧ y.st ≠ .migIn
    (∀ b, p.busy = some b → ∀ i ∈ ([.tload n T, .tdrop n T, .tread n T, .hotload n T, .hotflush n T, .skclr n T,
      .pbcBadCommand n op] : List Instr), exec i s = .next s) ∧
    let alone := ∀ k, k < 8 → (s.pbcOf k).busy = none
    (p.busy = none →
      (1024 ≤ T → ∀ i ∈ ([.tload n T, .tdrop n T, .tread n T, .hotload n T, .hotflush n T] : List Instr), answers i 2) ∧
      (T < 1024 → s.tableValid T = false →
        (∀ i ∈ ([.tdrop n T, .tread n T, .hotload n T, .hotflush n T] : List Instr), answers i 2) ∧
        (s.imageOk p.cmdAddr 1088 = false → answers (.tload n T) 4) ∧
        (s.imageOk p.cmdAddr 1088 = true →
          let x := s.homeReadLong 6 p.cmdAddr.toNat 1088
          let e : Table := BitVec.ofNat 8704 x.2.1
          (x.2.2 = true ∨ tableBad x.1 e = true → runs (.tload n T) fun t =>
            t.tables = s.tables ∧ t.pbcOf n = { p with res := 4 } ∧ t.cores = s.cores) ∧
          (x.2.2 = false → tableBad x.1 e = false → runs (.tload n T) fun t =>
            t.table T = e ∧ t.tableValid T = true ∧ (∀ k, k ≠ T → t.table k = s.table k) ∧ (t.pbcOf n).res = 0 ∧
            (t.pbcOf n).busy = none ∧ t.cores = s.cores ∧ T ∉ t.badTables ∧
            ∀ k, k < 8 → (∀ i, i < 8 → counter t k i = 0) ∧ (t.pbcOf k).hot = (s.pbcOf k).hot))) ∧
      (T < 1024 → s.tableValid T = true →
        answers (.tload n T) 3 ∧
        (s.tableInUse T = true → answers (.tdrop n T) 3) ∧
        (s.tableInUse T = false → runs (.tdrop n T) fun t =>
          t = { s with pbc := t.pbc, tables := t.tables } ∧ evicted t n ∧
          ((∃ k, k < 8 ∧ left k) → (t.pbcOf n).busy = some (.drop T)) ∧
          (alone → (∀ k, k < 8 → evicted t k) ∧ ((∃ k, k < 8 ∧ left k) → t.tables = s.tables) ∧
            ((∀ k, k < 8 → ¬ left k) → (t.pbcOf n).busy = none ∧ (t.pbcOf n).res = 0 ∧ t.tableValid T = false ∧
              ∀ k, k ≠ T → t.table k = s.table k))) ∧
        (runs (.hotflush n T) fun t =>
          t = { s with pbc := t.pbc, tables := t.tables } ∧ evicted t n ∧
          (alone → t.tables = s.tables ∧ ∀ k, k < 8 → k ≠ n → t.pbcOf k = s.pbcOf k) ∧
          (left n → (t.pbcOf n).busy = some (.flush T)) ∧ (¬ left n → (t.pbcOf n).busy = none ∧ (t.pbcOf n).res = 0)) ∧
        (s.imageOk p.cmdAddr 1152 = false → answers (.tread n T) 4) ∧
        (s.imageOk p.cmdAddr 1152 = true → runs (.tread n T) fun t =>
          t.pbcOf n = { p with res := 0 } ∧ t.cores = s.cores ∧
          t.mem = (s.homeWriteLong 6 p.cmdAddr.toNat 1152 (d.toNat + p.counterBytes T <<< 8704)).mem) ∧
        (let r := p.cmdArg.toNat % 2 ^ 32
         let may := tHoten d = true ∧ tPitch d ≤ 2 ^ p.slotLog2.toNat ∧ s.rowHeld n d r = true
         (¬ may → answers (.hotload n T) 3) ∧
         (may → runs (.hotload n T) fun t => t = { s with pbc := t.pbc, tables := t.tables } ∧ (alone → t.tables = s.tables) ∧
           (∀ x, p.find T r = some x →
             (x.st = .resident → t.pbcOf n = { p with res := 0 }) ∧
             (x.st = .migIn → t.pbcOf n = { p with busy := some (.load T r true) }) ∧
             (x.st = .migOut → t.pbcOf n = { p with busy := some (.load T r false) })) ∧
           (alone → p.find T r = none →
             let q := p.promote T r s.wall
             (t.pbcOf n).hot = q.1.hot ∧ (q.2 = true → (t.pbcOf n).busy = some (.load T r true)) ∧
             (q.2 = false → (t.pbcOf n).busy = none ∧ (t.pbcOf n).res = 3))))) ∧
      (runs (.skclr n T) fun t => t = { s with pbc := t.pbc } ∧ (t.pbcOf n).res = 0 ∧ (t.pbcOf n).hot = p.hot ∧
        at16 (t.pbcOf n).glookups (T % 16) = 0 ∧
        (∀ k, 262144 * (T % 16) ≤ k → k < 262144 * (T % 16 + 1) → Store.wf 0 p.sketch = true →
          Store.get 0 (t.pbcOf n).sketch k = 0) ∧
        ∀ k, ¬ (262144 * (T % 16) ≤ k ∧ k < 262144 * (T % 16 + 1)) → Store.wf 0 p.sketch = true →
          Store.get 0 (t.pbcOf n).sketch k = Store.get 0 p.sketch k) ∧
      (op = 0 ∨ 7 ≤ op.toNat → answers (.pbcBadCommand n op) 1)) ∧
    (let bad := fun (b : BitVec 52) (k : BitVec 20) (l : BitVec 4) => p.hot ≠ [] ∨ (k ≠ 0 ∧
       (b.toNat % 65536 ≠ 0 ∨ b.toNat / 2 ^ 44 ≠ s.myMod.toNat * 16 + n ∨ 2 ^ 36 < b.toNat % 2 ^ 44 + k.toNat * 2 ^ l.toNat))
     let writes := fun (i : Instr) (b : BitVec 52) (k : BitVec 20) (l : BitVec 4) => runs i fun t =>
       t = { s with pbc := t.pbc } ∧ (bad b k l → t.pbcOf n = { p with cfgErr := true }) ∧
       (¬ bad b k l → t.pbcOf n = { p with hotBase := b, hotSlots := k, slotLog2 := l })
     let z := v.toNat / 2 ^ 24 % 16
     writes (.hotBaseWrite n v) (v.setWidth 52) p.hotSlots p.slotLog2 ∧
     writes (.hotSlotsWrite n v) p.hotBase (v.setWidth 20) p.slotLog2 ∧
     (6 ≤ z → z ≤ 13 → writes (.slotlog2Write n v) p.hotBase p.hotSlots (BitVec.ofNat 4 z)) ∧
     (z < 6 ∨ 13 < z → runs (.slotlog2Write n v) fun t => t = { s with pbc := t.pbc } ∧ t.pbcOf n = { p with cfgErr := true }) ∧
     (runs (.migLimitWrite n v) fun t => t = { s with pbc := t.pbc } ∧
       t.pbcOf n = { p with migLimit := BitVec.ofNat 32 (max 14000 (v.toNat % 2 ^ 32)) })) ∧
    ∀ core q c o, core < 96 → s.cmd? core q = some c → c.prog.parked = none → c.prog.backoff = [] →
      let a := c.a.toNat
      let row := a % 2 ^ 32
      let e := s.table (a / 2 ^ 32 % 1024)
      let k := shardOf e row
      let pr := s.pbcOf (shPbc e k)
      let here := tRows e ≤ row ∨ (shPeerF e k = false ∧ shMod e k = s.myMod.toNat)
      let isSet := fun (t : State) => (t.timedAt core).flag o.f = if (s.timedAt core).flag o.f = .error then .error else .set
      let shows := fun (t : State) (m : Nat) (x : Nat) => ∀ w, c.win = some w → 1 ≤ w.rbu → w.rbu ≤ 4096 → 1 ≤ w.tr.toNat →
        w.tr.toNat ≤ 128 → c.b.toNat + m ≤ w.size → ∀ i, i < m →
          (t.timedAt core).sbyte (w.byteAddr (c.b.toNat + i)) = BitVec.ofNat 8 (x >>> (8 * i))
      let gives := fun (m x : Nat) => runs (.pbcQueryAnswer core ⟨q, BitVec.allOnes 1024⟩) fun t =>
        t.cmd? core q = none ∧ isSet t ∧ t.mem = s.mem ∧ t.pbc = s.pbc ∧ shows t m x
      let errs := runs (.pbcQueryAnswer core ⟨q, BitVec.allOnes 1024⟩) fun t =>
        t.cmd? core q = none ∧ (t.timedAt core).flag o.f = .error ∧ t.mem = s.mem ∧ t.pbc = s.pbc
      (c.ins = .gstat o ∨ c.ins = .gskrd o → s.tableValid (a / 2 ^ 32 % 1024) = false → errs) ∧
      (c.ins = .gcntrd o ∨ c.ins = .gcntclr o → s.tableValid (a % 1024) = false → errs) ∧
      (s.tableValid (a / 2 ^ 32 % 1024) = true → here →
        (c.ins = .gstat o → tRows e ≤ row → gives 16 (2 ^ 79)) ∧
        (c.ins = .gskrd o → tRows e ≤ row → gives 16 0) ∧
        (row < tRows e →
          let place := k + shPbc e k * 2 ^ 8 + shMod e k * 2 ^ 11
          (c.ins = .gstat o → pr.find (a / 2 ^ 32 % 1024) row = none → gives 16 (place * 2 ^ 64)) ∧
          (∀ x, c.ins = .gstat o → pr.find (a / 2 ^ 32 % 1024) row = some x → gives 16
            ((match x.st with | .migIn => 1 | .resident => 2 | .migOut => 3) + x.ref.toNat * 2 ^ 8 + x.slot * 2 ^ 32 +
              place * 2 ^ 64)) ∧
          (c.ins = .gskrd o →
            let z := fun (j : Nat) => (pr.sk (tGroup e) j (a / 2 ^ 32 % 1024) row).toNat
            gives 16 (z 0 + z 1 * 2 ^ 16 + z 2 * 2 ^ 32 + z 3 * 2 ^ 48 + min (min (z 0) (z 1)) (min (z 2) (z 3)) * 2 ^ 64)))) ∧
      (s.tableValid (a % 1024) = true →
        (c.ins = .gcntrd o → gives 64 ((s.pbcOf (a / 2 ^ 16 % 8)).counterBytes (a % 1024))) ∧
        (c.ins = .gcntclr o → runs (.pbcQueryAnswer core ⟨q, BitVec.allOnes 1024⟩) fun t => t.cmd? core q = none ∧ isSet t ∧ t.mem = s.mem ∧
          (∀ j, j ≠ a / 2 ^ 16 % 8 → j < 8 → t.pbcOf j = s.pbcOf j) ∧
          ∀ i, Store.wf 0 (s.pbcOf (a / 2 ^ 16 % 8)).counters = true →
            Store.get 0 (t.pbcOf (a / 2 ^ 16 % 8)).counters i =
              if 8 * (a % 1024) ≤ i ∧ i < 8 * (a % 1024) + 8 then 0
              else Store.get 0 (s.pbcOf (a / 2 ^ 16 % 8)).counters i))

/-- O54 (tier 2). R303-R306, R392. Which copy an access of a row in MIG_OUT reaches, and the slot of a promotion by the sketch where R304 leaves it, are the model's choices (log entry 53). `skAt` gives the place of a row's counter in the sketch table, `rowHasBins` whether a bin of the row remains, `applyOld` applies those of earlier epochs (R336). -/
def Obligations.SketchesAndMigrations : Prop :=
  (∀ (p : Pbc) (d : Table) (T r now : Nat),
    let g := tGroup d
    let q := p.sketchCount d T r now
    let n := at16 p.glookups g + 1
    let halves := at16 p.halve g ≠ 0 ∧ n = at16 p.halve g
    let plus := fun (x : BitVec 16) => if x = 0xFFFF then x else x + 1
    let mine := fun (a : Nat) => ∃ k, k < 4 ∧ a = skAt g k T r
    at16 q.1.glookups g = (if halves then 0 else n) ∧
    (∀ j, j < 16 → j ≠ g → at16 q.1.glookups j = at16 p.glookups j) ∧
    (¬ halves →
      (∀ k, k < 4 → q.1.sk g k T r = plus (p.sk g k T r)) ∧
      ∀ a, ¬ mine a → Store.get 0 q.1.sketch a = Store.get 0 p.sketch a) ∧
    (halves → Store.wf 0 p.sketch = true →
      (∀ k, k < 4 → q.1.sk g k T r = plus (p.sk g k T r) >>> 1) ∧
      (∀ a, ¬ mine a → 262144 * g ≤ a → a < 262144 * (g + 1) → Store.get 0 q.1.sketch a = Store.get 0 p.sketch a >>> 1) ∧
      ∀ a, ¬ (262144 * g ≤ a ∧ a < 262144 * (g + 1)) → Store.get 0 q.1.sketch a = Store.get 0 p.sketch a) ∧
    let may := at16 p.thresh g ≠ 0 ∧ (∀ k, k < 4 → at16 p.thresh g ≤ q.1.sk g k T r) ∧ tHoten d = true ∧
      tPitch d ≤ 2 ^ p.slotLog2.toNat ∧ p.find T r = none
    (may → q.2 = (p.promote T r now).2 ∧ q.1.hot = (p.promote T r now).1.hot ∧ q.1.hand = (p.promote T r now).1.hand ∧
      q.1.counters = (p.promote T r now).1.counters) ∧
    (¬ may → q.2 = false ∧ q.1.hot = p.hot ∧ q.1.hand = p.hand ∧ q.1.counters = p.counters)) ∧
  (∀ (p : Pbc) (T r now : Nat),
    let q := p.promote T r now
    let H := p.hotSlots.toNat
    let free := fun (k : Nat) => k < H ∧ ∀ x, x ∈ p.hot → x.slot ≠ k
    let moving := (p.hot.filter fun x => x.st != .resident).length
    let refused := q.2 = false ∧ q.1.hot = p.hot ∧ q.1.hand = p.hand ∧
      Store.get 0 q.1.counters (8 * T + 7) = min (2 ^ 48 - 1) (Store.get 0 p.counters (8 * T + 7) + 1)
    (∀ k, free k → (∀ j, free j → k ≤ j) →
      (16 ≤ moving → refused) ∧
      (moving < 16 → q.2 = true ∧ q.1.hot = p.hot ++ [⟨T, r, k, .migIn, false, now⟩] ∧ q.1.hand = p.hand ∧
        q.1.counters = p.counters)) ∧
    ((∀ k, ¬ free k) → (H = 0 ∨ 15 ≤ moving → refused) ∧
      (0 < H → moving < 15 → (∀ x, x ∈ p.hot → x.slot < H) → p.hand < H →
        (∀ x y, x ∈ p.hot → y ∈ p.hot → x.st = .resident → y.st = .resident → x.slot = y.slot → x = y) →
        let far := fun (k : Nat) => (k + H - p.hand) % H
        ∀ y, y ∈ p.hot → y.st = .resident → y.ref = false →
          (∀ x, x ∈ p.hot → x.st = .resident → x.ref = false → far y.slot ≤ far x.slot) →
          q.2 = true ∧ q.1.hand = (y.slot + 1) % H ∧ q.1.counters = p.counters ∧
          q.1.hot = (p.hot.map fun x =>
            if x.st ≠ .resident then x
            else if x.slot = y.slot then { x with st := .migOut }
            else if far x.slot < far y.slot then { x with ref := false } else x) ++ [⟨T, r, y.slot, .migIn, false, now⟩]))) ∧
  ∀ (s : State) (n k : Nat) (x : HotRow), n < 8 →
    let p := s.pbcOf n
    let d := s.table x.table
    let s1 := s.applyOld n x.table x.row
    let home := s.rowHome d x.row
    let slot := p.slotAt k
    let copies := fun (t : State) (a b m : Nat) =>
      let n := if b / 32 + m / 32 ∈ s1.poison then m / 32 * 32 else m
      (∀ i, i < n → t.mem.byte (b + i) = s1.mem.byte (a + i)) ∧
      (∀ i, i < b ∨ b + n ≤ i → t.mem.byte i = s1.mem.byte i) ∧
      (∀ i, i < m / 32 → (b / 32 + i ∈ t.poison ↔ a / 32 + i ∈ s1.poison)) ∧
      (m % 32 ≠ 0 → (b / 32 + m / 32 ∈ t.poison ↔ a / 32 + m / 32 ∈ s1.poison ∨ b / 32 + m / 32 ∈ s1.poison)) ∧
      ∀ i, i < b / 32 ∨ b / 32 + (m + 31) / 32 ≤ i → (i ∈ t.poison ↔ i ∈ s1.poison)
    let counts := fun (t : State) (j : Nat) => Store.get 0 (t.pbcOf n).counters (8 * x.table + j) =
      min (2 ^ 48 - 1) (Store.get 0 p.counters (8 * x.table + j) + 1)
    let idle := (∀ j, j < 8 → j ≠ n → (s.pbcOf j).busy = none) ∧ (p.busy = none ∨ p.busy = some (.load x.table x.row true)) ∧
      ∀ y, y ∈ p.hot → y.table = x.table → y.row = x.row → y = x
    let ends := fun (t : State) (r : BitVec 4) => (t.pbcOf n).busy = none ∧
      (t.pbcOf n).res = (if p.busy = none then p.res else r) ∧ t.cores = s.cores
    (p.inSlot k .migIn = none → exec (.migrationInSwitch n k) s = .next s ∧ exec (.migrationTimeout n k) s = .next s) ∧
    (p.inSlot k .migOut = none → exec (.demotionSwitch n k) s = .next s) ∧
    (p.inSlot k .migIn = some x →
      (x.start + p.migLimit.toNat ≤ s.wall → exec (.migrationInSwitch n k) s = .next s) ∧
      (s.wall < x.start + p.migLimit.toNat → (p.inSlot k .migOut).isSome = true ∨ s1.rowHasBins n x.table x.row = true → exec (.migrationInSwitch n k) s = .next s1) ∧
      (s.wall < x.start + p.migLimit.toNat → p.inSlot k .migOut = none → s1.rowHasBins n x.table x.row = false →
        ∃ t, exec (.migrationInSwitch n k) s = .next t ∧ copies t home slot (rowStored d) ∧ counts t 5 ∧ t.cores = s.cores ∧
          (idle → ends t 0 ∧
            (t.pbcOf n).hot = p.hot.map fun y => if y = x then { y with st := .resident, ref := true } else y)) ∧
      (s.wall < x.start + p.migLimit.toNat → exec (.migrationTimeout n k) s = .next s) ∧
      (x.start + p.migLimit.toNat ≤ s.wall →
        ∃ t, exec (.migrationTimeout n k) s = .next t ∧ t.mem = s.mem ∧ t.cores = s.cores ∧
          (x.start < s.wall → x ∉ (t.pbcOf n).hot) ∧
          (idle → counts t 7 ∧ ends t 3 ∧ (t.pbcOf n).hot = p.hot.filter fun y => y != x))) ∧
    (p.inSlot k .migOut = some x →
      (s1.rowHasBins n x.table x.row = true → exec (.demotionSwitch n k) s = .next s1) ∧
      (s1.rowHasBins n x.table x.row = false → ∃ t, exec (.demotionSwitch n k) s = .next t ∧
        (tTrain d = true → copies t slot home (rowStored d)) ∧ (tTrain d = false → t.mem = s1.mem) ∧ counts t 6 ∧ t.cores = s.cores ∧
        (idle → p.busy = none → ends t 0 ∧ (t.pbcOf n).hot = p.hot.filter fun y => y != x)))

/-- O55 (tier 2). R286, R291-R300, R302, R306, R307. `deq` is DEQ of R285 and `poolCombine` POOL_COMBINE of R81. Partials of other modules are free values (log entry 3), and so is which copy a word of a RESIDENT row that is not trainable comes from (R307); that the words of a list, and of a bag, move together here is the model's choice (log entries 3 and 49). -/
def Obligations.GatherCommandsPerform : Prop :=
  (∀ (l m : List FVal) (a : LongAcc), l.Perm m → l.foldl (·.addTerm ·) a = m.foldl (·.addTerm ·) a) ∧
  (∀ (s : State) (d : Table) (T r : Nat),
    let n := shPbc d (shardOf d r)
    let p := s.pbcOf n
    let q := (p.sketchCount d T r s.wall).1
    let u := s.lookupRow d T r
    let hot := (q.find T r).any fun x => x.st != .migIn
    let reads := fun (i : Nat) => Store.get 0 (u.1.pbcOf n).counters (8 * T + i)
    reads 3 = min (2 ^ 48 - 1) (Store.get 0 p.counters (8 * T + 3) + 1) ∧
    reads 4 = (if hot then min (2 ^ 48 - 1) (Store.get 0 p.counters (8 * T + 4) + 1) else Store.get 0 p.counters (8 * T + 4)) ∧
    (u.1.pbcOf n).hot = (q.hot.map fun x =>
      if x.table = T ∧ x.row = r ∧ x.st = .resident then { x with ref := true } else x) ∧
    ((∀ k, k < 16 → (s.unitOf k).regions = []) → tFormat d ≠ 5 →
      let home := s.rowHome d r
      let k := rowStored d
      let key := match q.find T r with
        | none => home
        | some x => if tTrain d = true ∨ x.st = .migIn then home else q.slotAt x.slot
      (u.1.poisonAt key k = true → ∃ a, u.2 = .error a) ∧
      (u.1.poisonAt key k = false → key = home → u.2 = .ok (u.1.bytesAt home k)) ∧
      (u.1.poisonAt key k = false → key ≠ home → ∃ v, u.2 = .ok v ∧ ∀ i, i < (k + 3) / 4 →
        let word := fun (x : Nat) => x / 2 ^ (32 * i) % 2 ^ 32
        word v = word (u.1.bytesAt key k) ∨ u.1.poisonAt home k = false ∧ word v = word (u.1.bytesAt home k)))) ∧
  ∀ (s : State) (n q : Nat) (c : Cmd) (o : CfOp), n < 96 → s.cmd? n q = some c → gatherFields c.ins = some o →
    let T := gTable c.img
    let runs := fun (i : Instr) (q : State → Prop) => ∃ t, exec i s = .next t ∧ q t
    let errs := fun (t : State) => t.cmd? n q = none ∧ (t.timedAt n).flag o.f = .error
    let isSet := fun (t : State) => t.cmd? n q = none ∧
      (t.timedAt n).flag o.f = if (s.timedAt n).flag o.f = .error then .error else .set
    let pref := isGpref c.ins = true
    let full := fun (g : GatherProg) => (∀ x, x ∈ g.landed → x.1 % 4096 ∈ g.written) ∧ ∀ j, j < g.bound →
      (¬ pref → j ∈ g.written) ∧
      (pref → ∀ x r, g.bags[j]? = some x → r ∈ x.rows → shardOf g.desc r.1 < tShards g.desc →
        ∃ p, p ∈ g.parts ∧ p.bag = j ∧ p.shard = shardOf g.desc r.1)
    let waits := fun (t : State) (g : GatherProg) => pref ∧ g.fail = none ∧ t.promosDone T g.promos = false
    let goesOn := fun (t : State) (g : GatherProg) =>
      (¬ full g ∨ waits t g → ∃ e, t.cmd? n q = some e ∧ e.prog.gather = some g) ∧
      (full g → ¬ waits t g → if g.fail = none then isSet t else errs t)
    (∀ w, w.seq = q → c.prog.accepted = true ∨ s.clear n q c.cls false = false → exec (.gatherAccept n w) s = .next s) ∧
    (c.prog.accepted = false → c.prog.backoff = [] → s.clear n q c.cls false = true →
      let d := s.table T
      let all := fun (blk : Nat) => Instr.gatherAccept n ⟨q, blk, BitVec.allOnes 1024⟩
      (∀ w, w.seq = q → s.gatherAllowed n c = false ∨ T ∈ s.badTables → runs (.gatherAccept n w) errs) ∧
      (s.gatherAllowed n c = true → T ∉ s.badTables →
        let single := isGrows c.ins || isGpref c.ins
        (∀ blk words, words ≠ BitVec.allOnes 1024 → runs (.gatherAccept n ⟨q, blk, words⟩) fun t =>
          ∃ e, t.cmd? n q = some e ∧ e.prog.accepted = false ∧ e.prog.gather = c.prog.gather) ∧
        (∀ blk s1 a, single = false → s.listEntry n c 0 0 = (s1, .error a) →
          (a = notYet → exec (all blk) s = .next s) ∧ (a ≠ notYet → runs (all blk) errs)) ∧
        ∀ (blk : Nat) (off v w : Nat → Nat),
        (single = true → ∀ b, off b = b) →
        (single = false → ∀ b, b ≤ gBags c.img → s.listEntry n c 0 b = (s, .ok (off b))) →
        (∀ b, b < gBags c.img → off b ≤ off (b + 1)) →
        (∀ i, off 0 ≤ i → i < off (gBags c.img) → s.listEntry n c 1 i = (s, .ok (v i))) →
        (isGbagw c.ins = true → ∀ i, off 0 ≤ i → i < off (gBags c.img) → s.listEntry n c 2 i = (s, .ok (w i))) →
        (isGbagw c.ins = false → ∀ i, w i = 0) →
        let bag := fun (b : Nat) =>
          let l := List.range' (off b) (off (b + 1) - off b)
          let rows := (l.filter fun i => decide (v i < tRows d)).map fun i => (v i, BitVec.ofNat 32 (w i))
          let lost := (l.filter fun i => decide (tRows d ≤ v i)).length
          if tFaultPolicy d = true ∧ 0 < lost ∧ isGpref c.ins = false then (⟨[], lost, true⟩ : Bag) else ⟨rows, lost, false⟩
        let g : GatherProg := ⟨(List.range (gBags c.img)).map bag, none, [], [], [], [], d⟩
        (runs (all blk) fun t => goesOn t g) ∧
        (¬ full g → exec (all blk) s = .next (s.onCmd n q fun c =>
          { c with prog := { c.prog with accepted := true, gather := some g, part := [], took := [] } })))) ∧
    ∀ g b bag, c.prog.gather = some g → g.bags[bag]? = some b →
      let d := g.desc
      (∀ shard,
        let rows := b.rows.filter fun x => shardOf d x.1 == shard
        let away := s.shardAway c.prog d shard
        let looks := fun (p : State → Prop) => runs (.shardLookup n q bag shard) p
        let lost := s.table T ≠ d ∨ T ∈ s.badTables
        let fails := fun (t : State) (a : Nat) => goesOn t { g with fail := some (bag, BitVec.ofNat 52 a) }
        let adds := fun (t : State) (vals : List (BitVec 32)) (more : List (Nat × Nat)) =>
          goesOn t { g with parts := g.parts ++ [⟨bag, shard, rows.length, vals⟩], promos := g.promos ++ more }
        rows ≠ [] → (g.parts.any fun p => p.bag == bag && p.shard == shard) = false → bucketKey bag shard ∉ c.prog.backoff →
        bag < g.bound → bag ∉ g.written →
        (away = some true → s.trust.holds = true → exec (.shardLookup n q bag shard) s = .next s) ∧
        (away = some true → s.trust.holds = false →
          (pref → looks fun t => adds t [] []) ∧
          (¬ pref → looks fun t => fails t 0 ∨ ∃ vals, vals.length = tWidth d ∧ adds t vals [])) ∧
        (away = some false → (pref → looks fun t => adds t [] []) ∧ (¬ pref → looks fun t => fails t 0)) ∧
        (away = none → lost → looks fun t => fails t 0) ∧
        (away = none → ¬ lost → pref → looks fun t =>
          let counted := s.countRows d T rows
          adds t [] counted.2 ∧ t.pbc = counted.1.pbc ∧ t.mem = s.mem) ∧
        ∀ (states : Nat → State) (bytes : Nat → Nat), away = none → ¬ lost → ¬ pref → states 0 = s →
          let gave := fun (k : Nat) => ∀ i x, i < k → rows[i]? = some x → (states i).lookupRow d T x.1 = (states (i + 1), .ok (bytes i))
          let m := rows.length
          let term := fun (i j : Nat) => match rows[i]? with
            | none => FVal.nan
            | some x => if isGbagw c.ins then rneF32 ((ofF32 x.2).mul (deq d (bytes i) j)) else deq d (bytes i) j
          (∀ k x t1 a, gave k → rows[k]? = some x → (states k).lookupRow d T x.1 = (t1, .error a) → looks fun t =>
            fails t a ∧ t.pbc = t1.pbc ∧ t.mem = t1.mem) ∧
          (gave m → looks fun t => t.pbc = (states m).pbc ∧ t.mem = (states m).mem ∧
            ∃ vals, vals.length = tWidth d ∧ adds t vals [] ∧ ∀ j, j < tWidth d →
              (isGrows c.ins = true ∨ tPool d ≠ 3 → vals[j]? = some (toF32 (rneF32
                ((List.range m).foldl (fun a i => a.addTerm (term i j)) LongAcc.zero).value))) ∧
              (isGrows c.ins = false → tPool d = 3 → vals[j]? = some (toF32
                ((List.range (m - 1)).foldl (fun a i => poolMax a (term (i + 1) j)) (term 0 j)))))) ∧
      (pref → ∀ w, w.bag = bag → runs (.partialCombine n q w) fun t => goesOn t g ∧ t = { s with cores := t.cores }) ∧
      (¬ pref → bag < g.bound → bag ∉ g.written → g.begun bag = false → tWidth d ≤ 1024 →
        (∀ k, k < tShards d → (b.rows.any fun x => shardOf d x.1 == k) = true →
          (g.parts.any fun p => p.bag == bag && p.shard == k) = true) →
        let out := poolCombine (if isGrows c.ins then 0 else tPool d) (tWidth d) (g.partsOf bag)
        let status := out.2 % 2 ^ 32 + min b.invalid (2 ^ 24 - 1) * 2 ^ 32 + b.fault.toNat * 2 ^ 56
        let grew := fun (t : State) (i k : Nat) => Store.get 0 (t.pbcOf (dieOf n)).counters (8 * T + i) =
          min (2 ^ 48 - 1) (Store.get 0 (s.pbcOf (dieOf n)).counters (8 * T + i) + k)
        runs (.partialCombine n q ⟨bag, BitVec.allOnes 1024, BitVec.allOnes 8⟩) fun t =>
          goesOn t { g with written := g.written ++ [bag]
                            landed := Store.set 0 (Store.set 0 g.landed bag 0) (statusKey bag) 0 } ∧
          grew t 2 1 ∧ grew t 0 b.invalid ∧ grew t 1 b.fault.toNat ∧ t.mem = s.mem ∧
          ∀ x y, c.win = some x → c.win2 = some y → 1 ≤ x.rbu → x.rbu ≤ 4096 → 1 ≤ x.tr.toNat → x.tr.toNat ≤ 128 →
            1 ≤ y.rbu → y.rbu ≤ 4096 → 1 ≤ y.tr.toNat → y.tr.toNat ≤ 128 →
            let at' := gOutOff c.img + 4 * tWidth d * bag
            let st := gStOff c.img + 8 * bag
            at' + 4 * tWidth d ≤ x.size → st + 8 ≤ y.size →
            (∀ i, i < 8 → (t.timedAt n).sbyte (y.byteAddr (st + i)) = BitVec.ofNat 8 (status >>> (8 * i))) ∧
            ∀ i, i < 4 * tWidth d → (∀ j, j < 8 → y.byteAddr (st + j) ≠ x.byteAddr (at' + i)) →
              (t.timedAt n).sbyte (x.byteAddr (at' + i)) = BitVec.ofNat 8 (wordsNum out.1 >>> (8 * i)))

/-- O56 (tier 2). R310-R313, R321, R323, R337-R339. That FAILS counts only a failure at a region that stands, and that LAPPLY fails on poison, are the model's readings (log entry 50, DEDUCED). `regionBad` is the test of R313, `latticeDue` says that the command is the first of its core for its region, `regionFor` gives the region that a handle names. -/
def Obligations.LatticeHostAndRegionCommands : Prop :=
  ∀ (s : State) (u r : Nat), u < 16 →
    let x := s.unitOf u
    let runs := fun (i : Instr) (q : State → Prop) => ∃ t, exec i s = .next t ∧ q t
    let gen := if r < 1024 then Store.get 0 x.gens r else x.genOut
    let answers := fun (i : Instr) (res : BitVec 4) => runs i fun t =>
      t = { s with lattice := t.lattice } ∧ t.unitOf u = { x with res := res, genOut := gen }
    let ends := fun (t : State) (res : BitVec 4) (n : BitVec 8) => (t.unitOf u).res = res ∧ (t.unitOf u).genOut = n ∧
      t.cores = s.cores ∧ t.pbc = s.pbc
    let image := s.homeRead x.cmdAddr.toNat 128
    let d : BitVec 1024 := BitVec.ofNat 1024 image.2.1
    (1024 ≤ r → ∀ i ∈ ([.rinit u r, .rfree u r, .rread u r, .rflush u r, .rabort u r] : List Instr), answers i 2) ∧
    (∀ op : BitVec 4, op = 0 ∨ 6 ≤ op.toNat → answers (.latticeBadCommand u op r) 1) ∧
    (r < 1024 → x.region? r = none →
      (∀ i ∈ ([.rfree u r, .rread u r, .rflush u r, .rabort u r] : List Instr), answers i 3) ∧
      (s.imageOk x.cmdAddr 128 = false → answers (.rinit u r) 4) ∧
      (s.imageOk x.cmdAddr 128 = true →
        (image.2.2 = true ∨ image.1.regionBad u d = true → runs (.rinit u r) fun t =>
          ends t 4 gen ∧ (t.unitOf u).region? r = none ∧ t.mem = image.1.mem) ∧
        (image.2.2 = false → image.1.regionBad u d = false → runs (.rinit u r) fun t => ends t 0 gen ∧ t.mem = image.1.mem ∧
          ∃ g, (t.unitOf u).region? r = some g ∧ g.desc = d ∧ g.epoch = BitVec.ofNat 32 (recWord d 7) ∧ g.bins = [] ∧
            g.streams = [] ∧ g.nextSeq = 1 ∧ g.commits = 0 ∧ g.fails = 0 ∧ g.applies = 0 ∧ g.laccSat = false ∧
            g.pitch = bits (recWord d 1) 45 32 ∧
            (bit (recWord d 0) 7 = false → g.rowLo = 0 ∧ g.rowHi = bits (recWord d 1) 31 0 ∧ g.rowBase = bits (recWord d 2) 51 0)))) ∧
    (∀ g, r < 1024 → x.region? r = some g →
      answers (.rinit u r) 3 ∧
      (g.streams ≠ [] → answers (.rfree u r) 3) ∧
      (g.streams = [] → runs (.rfree u r) fun t => ends t 0 (gen + 1) ∧ (t.unitOf u).region? r = none ∧
        Store.get 0 (t.unitOf u).gens r = gen + 1 ∧ (∀ k, k ≠ r → Store.get 0 (t.unitOf u).gens k = Store.get 0 x.gens k) ∧
        t.mem = (s.applyAll u r).1.mem) ∧
      (s.imageOk x.cmdAddr 192 = false → answers (.rread u r) 4) ∧
      (s.imageOk x.cmdAddr 192 = true → runs (.rread u r) fun t => ends t 0 gen ∧
        t.mem = (s.homeWriteLong 2 x.cmdAddr.toNat 192 (g.desc.toNat + s.statusOf u r g * 2 ^ 1024)).mem) ∧
      (runs (.rflush u r) fun t => ends t 0 gen ∧ t.mem = (s.applyAll u r).1.mem ∧
        ∃ e, (t.unitOf u).region? r = some e ∧ e.bins = [] ∧ e.streams = g.streams ∧ e.epoch = g.epoch) ∧
      (runs (.rabort u r) fun t => ends t 0 gen ∧ t.mem = s.mem ∧
        (∃ e, (t.unitOf u).region? r = some e ∧ e.bins = g.bins ∧ e.streams = [] ∧ e.epoch = g.epoch) ∧
        ∀ y, y ∈ g.streams → g.stream? y.uid = some y → (y.uid, y.pairs) ∈ (t.unitOf u).dead)) ∧
    ∀ (n q : Nat) (c : Cmd) (o : CfOp) (k : Nat), n < 96 → s.cmd? n q = some c → regionFields c.ins = some (o, k) → c.prog.parked = none →
      let h := c.lhandle
      let isSet := fun (t : State) => t.cmd? n q = none ∧
        (t.timedAt n).flag o.f = (if (s.timedAt n).flag o.f = .error then .error else .set)
      let errs := fun (t : State) => t.cmd? n q = none ∧ (t.timedAt n).flag o.f = .error
      let words := BitVec.allOnes 1024
      let does := fun (p : State → Prop) => runs (.latticeRegionCommand n ⟨q, words⟩) p
      let region := fun (t : State) => (t.unitOf (lhUnit h)).region? (lhRegion h)
      let shows := fun (t : State) (m v : Nat) => ∀ w, c.win = some w → 1 ≤ w.rbu → w.rbu ≤ 4096 → 1 ≤ w.tr.toNat →
        w.tr.toNat ≤ 128 → lqOff o + m ≤ w.size → ∀ i, i < m →
          (t.timedAt n).sbyte (w.byteAddr (lqOff o + i)) = BitVec.ofNat 8 (v >>> (8 * i))
      (s.latticeDue n c = false → exec (.latticeRegionCommand n ⟨q, words⟩) s = .next s) ∧
      (s.latticeDue n c = true → lhMod h ≠ s.myMod.toNat → s.mayReach (lhMod h) = false →
        (c.ins = .labort o → does isSet) ∧ (c.ins ≠ .labort o → does errs)) ∧
      (s.latticeDue n c = true → lhMod h = s.myMod.toNat →
        (c.ins = .labort o → does fun t => isSet t ∧ t.mem = s.mem ∧
          ∀ g, region s = some g → ∃ e, region t = some e ∧ e.bins = g.bins ∧ e.streams = g.streams.filter fun y => y.uid != c.uid) ∧
        (s.regionFor h = none → c.ins ≠ .labort o → does fun t => errs t ∧ t.mem = s.mem ∧ region t = region s) ∧
        ∀ g, s.regionFor h = some g →
          (let may := loWidth c.b = g.width ∧ s.rowsGranted n (loSeg o) g = true ∧ s.linkStill (lhUnit h) g = true
           c.ins = .lopen o →
             (may → does fun t => isSet t ∧ region t =
               some { g with nextSeq := g.nextSeq + 1, streams := g.streams ++ [⟨c.uid, g.nextSeq, 0, []⟩] }) ∧
             (¬ may → does fun t => errs t ∧ region t = some { g with fails := min (2 ^ 48 - 1) (g.fails + 1) })) ∧
          (c.ins = .lapply o → does fun t => t.mem = (s.applyAll (lhUnit h) (lhRegion h)).1.mem ∧
            ((s.applyAll (lhUnit h) (lhRegion h)).2 = false → isSet t) ∧ ((s.applyAll (lhUnit h) (lhRegion h)).2 = true → errs t) ∧
            ∃ e, region t = some e ∧ e.bins = [] ∧ e.streams = g.streams ∧ e.epoch = g.epoch) ∧
          (c.ins = .lstep o → does fun t => isSet t ∧ t.mem = s.mem ∧ region t = some { g with epoch := g.epoch + 1 }) ∧
          (c.ins = .lquery o ∨ c.ins = .lstat o ∨ c.ins = .lspill o → does fun t => isSet t ∧ t.mem = s.mem ∧ t.lattice = s.lattice) ∧
          (c.ins = .lquery o → does fun t => shows t 16 (
            let key := c.b.toNat % 2 ^ 32
            let l := g.bins.filter fun b => b.key == key
            if key < g.rowLo ∨ g.rowHi ≤ key then 4
            else (if l = [] then 0 else 1) + (if ∃ y, y ∈ g.streams ∧ ∃ b, b ∈ y.bins ∧ b.key = key then 2 else 0) +
              min l.length 255 * 256 + ((l.head?.map fun b => b.epoch.toNat).getD 0) * 2 ^ 32)) ∧
          (c.ins = .lstat o → does fun t => shows t 64 (s.statusOf (lhUnit h) (lhRegion h) g)) ∧
          (c.ins = .lspill o → does fun t => shows t 16 (min (g.usedIn false) (2 ^ 25 - 1) + min (g.usedIn true) (2 ^ 39 - 1) * 2 ^ 25 +
            bits (recWord g.desc 9) 39 0 * 2 ^ 64 + (if s.backPressure (lhUnit h) (lhRegion h) then 2 ^ 127 else 0))))

/-- O57 (tier 2). R322-R327, R331, R333. What near-full space is, how room is reserved, that pairs of one push are taken in together, and the value reached of a failed commit are the model's choices (log entries 50 and 62). `takePair` is the intake of one pair, `Bin.join` two bins of a key together, `linkStill` the test of R315 made again. -/
def Obligations.LatticePairsCommitsApplies : Prop :=
  (∀ (x : LatticeUnit) (r uid key : Nat) (vals : List (BitVec 32)),
    let y := x.takePair r uid key vals
    (key = 2 ^ 32 - 1 → y = x) ∧
    ∀ g st, x.region? r = some g → g.stream? uid = some st → key ≠ 2 ^ 32 - 1 →
      (key < g.rowLo ∨ g.rowHi ≤ key → y.region? r = some { g with
          streams := g.streams.filter fun z => z.uid != uid, fails := min (2 ^ 48 - 1) (g.fails + 1) } ∧
        y.dead = x.dead ++ [(uid, st.pairs)]) ∧
      (g.rowLo ≤ key → key < g.rowHi → ∃ e st', y.region? r = some e ∧ e.stream? uid = some st' ∧ e.bins = g.bins ∧
        e.epoch = g.epoch ∧ e.fails = g.fails ∧ y.dead = x.dead ∧ st'.pairs = st.pairs + 1 ∧ st'.seqNo = st.seqNo ∧
        (∀ b, b ∈ st.bins → b.key ≠ key → b ∈ st'.bins) ∧
        (st.bins.find? (fun b => b.key == key) = none → ∃ b, b ∈ st'.bins ∧ b.key = key ∧ b.count = 1 ∧
          (accOper (rOper g.desc) = true → b.accs = vals.map fun v => LongAcc.zero.addTerm (ofF32 v)) ∧
          (accOper (rOper g.desc) = false → b.vals = vals)) ∧
        ∀ b, st.bins.find? (fun b => b.key == key) = some b → ∃ b', b' ∈ st'.bins ∧ b'.key = key ∧
          b'.count = min (2 ^ 40 - 1) (b.count + 1) ∧
          (accOper (rOper g.desc) = true → b'.accs = List.zipWith (fun a v => a.addTerm (ofF32 v)) b.accs vals) ∧
          (rOper g.desc = 1 → b'.vals = zipF32 FVal.minOp b.vals vals) ∧
          (rOper g.desc = 2 → b'.vals = zipF32 FVal.maxOp b.vals vals) ∧
          (rOper g.desc = 3 → b.last.1 = st.seqNo → b.last.2 < st.pairs → b'.vals = vals))) ∧
  (∀ (s : State) (key n : Nat), 1 ≤ n → key % 256 + n ≤ 256 → (∀ i, i < n → s.place (key + i) = key + i) →
    let t := (s.homeRead key n).1
    ∀ u, u ∈ s.instancesAt key → ((s.unitOf u).regions.map Prod.fst).Nodup →
      ∀ e, e ∈ (t.unitOf u).regions → ∀ b, b ∈ e.2.bins →
        overlaps (key / 256 * 256) 256 (s.keyRow u e.2 b.key) (rRowBytes e.2.desc) = false ∧
        overlaps (key / 256 * 256) 256 (e.2.keyState b.key) (rStateBytes e.2.desc) = false) ∧
  (∀ (s : State) (n q : Nat) (c : Cmd), n < 96 → s.cmd? n q = some c →
    let h := c.lhandle
    let u := lhUnit h
    let r := lhRegion h
    let runs := fun (i : Instr) (p : State → Prop) => ∃ t, exec i s = .next t ∧ p t
    let due := s.latticeDue n c = true ∧ s.clear n q c.cls false = true
    (∀ o, c.ins = .lpush o ∨ c.ins = .lpushs o →
      (¬ due → exec (.pairIntake n q) s = .next s) ∧
      (due → lhMod h = s.myMod.toNat → runs (.pairIntake n q) fun t =>
        let s1 := s.makeRoomFor u r
        (s.nearFull u r = false → s1 = s) ∧
        t = { s1.dropCmd n q with lattice := t.lattice } ∧ (∀ k, k < 16 → k ≠ u → t.unitOf k = s1.unitOf k) ∧
        let vals := fun (i : Nat) => (List.range c.b.toNat).map fun j =>
          let e := i * c.b.toNat + j
          BitVec.ofNat 32 (elem ((c.regs.drop (1 + e / 1024)).headD 0) 32 (e % 1024))
        (c.ins = .lpush o → t.unitOf u = (List.range (min 1024 c.a.toNat)).foldl (fun x i =>
          x.takePair r c.uid (elem (c.regs.headD 0) 32 i) (vals i)) (s1.unitOf u)) ∧
        (c.ins = .lpushs o → t.unitOf u = (s1.unitOf u).takePair r c.uid (c.a.toNat % 2 ^ 32) (vals 0))) ∧
      (due → lhMod h ≠ s.myMod.toNat → s.mayReach (lhMod h) = false → runs (.pairIntake n q) fun t =>
        t = { s.dropCmd n q with away := t.away } ∧ (t.awayOf c.uid).failed = true ∧
        (t.awayOf c.uid).pairs = (s.awayOf c.uid).pairs)) ∧
    ∀ o, c.ins = .lclose o →
      let isSet := fun (t : State) => t.cmd? n q = none ∧
        (t.timedAt n).flag o.f = (if (s.timedAt n).flag o.f = .error then .error else .set)
      let errs := fun (t : State) (k : Nat) => t.cmd? n q = none ∧ (t.timedAt n).flag o.f = .error ∧ t.mem = s.mem ∧
        ((s.timedAt n).flag o.f ≠ .error → (t.coreAt n).fails[o.f.toNat]? = some (some ⟨0x43, BitVec.ofNat 64 k, 0⟩))
      (¬ due → exec (.streamCommit n q) s = .next s) ∧
      (due → lhMod h ≠ s.myMod.toNat → s.mayReach (lhMod h) = false ∨ (s.awayOf c.uid).failed = true →
        runs (.streamCommit n q) fun t => errs t (s.awayOf c.uid).pairs) ∧
      (due → lhMod h = s.myMod.toNat →
        ((s.unitOf u).region? r = none → runs (.streamCommit n q) fun t =>
          errs t ((findNum c.uid (s.unitOf u).dead).getD 0)) ∧
        ∀ g, (s.unitOf u).region? r = some g →
          (g.stream? c.uid = none → runs (.streamCommit n q) fun t =>
            errs t ((findNum c.uid (s.unitOf u).dead).getD 0) ∧ (t.unitOf u).region? r = some g) ∧
          ∀ st, g.stream? c.uid = some st →
            let rest := g.streams.filter fun y => y.uid != c.uid
            (s.linkStill u g = false → runs (.streamCommit n q) fun t => errs t st.pairs ∧
              (t.unitOf u).region? r = some { g with streams := rest, fails := min (2 ^ 48 - 1) (g.fails + 1) }) ∧
            (s.linkStill u g = true → (st.bins.map (·.key)).Nodup → runs (.streamCommit n q) fun t => isSet t ∧ t.mem = s.mem ∧
              ∃ e, (t.unitOf u).region? r = some e ∧ e.streams = rest ∧ e.epoch = g.epoch ∧
                e.commits = min (2 ^ 48 - 1) (g.commits + 1) ∧
                (∀ y, y ∈ g.bins → ¬ (y.epoch = g.epoch ∧ ∃ b, b ∈ st.bins ∧ b.key = y.key) → y ∈ e.bins) ∧
                ∀ b, b ∈ st.bins →
                  (g.bins.find? (fun y => y.key == b.key && y.epoch == g.epoch) = none → { b with epoch := g.epoch } ∈ e.bins) ∧
                  ∀ y, g.bins.find? (fun y => y.key == b.key && y.epoch == g.epoch) = some y →
                    ∃ z, z ∈ e.bins ∧ z.key = b.key ∧ z.epoch = g.epoch ∧ z.count = min (2 ^ 40 - 1) (y.count + b.count) ∧
                      z.accs = List.zipWith LongAcc.merge y.accs b.accs ∧
                      (rOper g.desc = 1 → z.vals = zipF32 FVal.minOp y.vals b.vals) ∧
                      (rOper g.desc = 2 → z.vals = zipF32 FVal.maxOp y.vals b.vals) ∧
                      (rOper g.desc = 3 → z.vals =
                        if y.last.1 < b.last.1 ∨ (y.last.1 = b.last.1 ∧ y.last.2 < b.last.2) then b.vals else y.vals)))) ∧
  ∀ (s : State) (u r key : Nat) (back : Bool) (g : LRegion), u < 16 → (s.unitOf u).region? r = some g →
    let runs := fun (i : Instr) (p : State → Prop) => ∃ t, exec i s = .next t ∧ p t
    let old := fun (b : Bin) => b.key == key && b.epoch != g.epoch
    let moves := fun (b : Bin) => b.key == key && b.spilled != back
    let k := (g.bins.filter moves).length + (g.streams.map fun y => (y.bins.filter moves).length).sum
    let room := if back then bits (recWord g.desc 9) 39 0 - g.usedIn true else 16777216 -
      ((s.unitOf u).sramUsed + s.reservedBeside u r + g.sramFor g.spillRoom (s.reserved u r g))
    let put := fun (l : List Bin) => l.map fun b => if moves b then { b with spilled := back } else b
    let near := (s.unitOf u).regions.any fun x => s.nearFull u x.1
    (near = false ∨ g.bins.filter old = [] → exec (.earlyApply u r key) s = .next s) ∧
    (near = true → g.bins.filter old ≠ [] → runs (.earlyApply u r key) fun t => t.cores = s.cores ∧
      (t.unitOf u).early = min (2 ^ 48 - 1) ((s.unitOf u).early + (g.bins.filter old).length) ∧
      ∃ e, (t.unitOf u).region? r = some e ∧ e.bins = (g.bins.filter fun b => !(if s.targetPoisoned u r g key then b.key == key else old b)) ∧ e.streams = g.streams ∧ e.epoch = g.epoch) ∧
    (room < k * binSize g.width → exec (.binSpillMove u r key back) s = .next s) ∧
    (k * binSize g.width ≤ room → runs (.binSpillMove u r key back) fun t => t = { s with lattice := t.lattice } ∧
      (t.unitOf u).region? r = some { g with bins := put g.bins, streams := g.streams.map fun y => { y with bins := put y.bins } })

/-- O58 (tier 2). R376. `LaneIn.take` notes an accepted sequence; a lane starts the epoch at `LaneIn.reset`. -/
def Obligations.SequenceAcceptance : Prop :=
  ∀ (lane : Nat) (l : List Nat) (n : Nat), lane < 6 →
    let x := l.foldl (fun x k => x.take lane k) LaneIn.reset
    let H : Int := l.foldl (fun h (k : Nat) => max h (k : Int)) (-1)
    (x.accepts lane n = true ↔
      (lane = 4 ∧ (n : Int) = H + 1) ∨
      (lane < 4 ∧ ((n : Int) > H ∨ ((n : Int) ≥ H - 63 ∧ n ∉ l))) ∨
      (lane = 5 ∧ ((n : Int) > H ∨ ((n : Int) ≥ H - 4095 ∧ n ∉ l))))

/-- O59 (tier 2). R343, R350, R375-R377, R404. `LaneIn.accepts` is R376 (stated by itself), `stremoDue` R350, `crossIn` the effect of an accepted crossing, and `travels` says that an access of another engine is on a ring. That the NACKs of a gather command, a collective, a block of XSEND and a push are counted by the access, as the model cuts them, is its choice (log entry 66, DESIGN CHOICE). That a slot which finds the pool full, or no room for its bin, is neither noted nor discarded is the model's choice (log entries 52, DESIGN CHOICE, and 62). -/
def Obligations.StationsAndModules : Prop :=
  (∀ (s : State) (n q rq : Nat) (c : Cmd) (r : Req), n < 96 → s.cmd? n q = some c → c.req? rq = some r →
    let runs := fun (i : Instr) (p : State → Prop) => ∃ t, exec i s = .next t ∧ p t
    let moved := fun (i : Instr) (x : Req) => runs i fun t => t = { s with cores := t.cores } ∧
      ∃ d, t.cmd? n q = some d ∧ d.req? rq = some x ∧ d.reqs.length = c.reqs.length ∧ d.stop = c.stop
    (r.stage ≠ .ring → ∀ b, exec (.stationSlotReceive (.own n q rq b)) s = .next s) ∧
    (r.stage = .ring →
      moved (.stationSlotReceive (.own n q rq false)) { r with stage := if isStremo c.ins then .held else .home } ∧
      (r.tries < 15 → moved (.stationSlotReceive (.own n q rq true)) { r with stage := .backoff, tries := r.tries + 1 }) ∧
      (15 ≤ r.tries → runs (.stationSlotReceive (.own n q rq true)) fun t => t = { s with cores := t.cores } ∧
        ∃ d, t.cmd? n q = some d ∧ d.stop = .failed r.run 0 ∧ ∀ x, x ∈ d.reqs → x.id < rq)) ∧
    (r.stage ≠ .backoff → exec (.nackBackoffExpiry n q rq) s = .next s) ∧
    (r.stage = .backoff →
      let leaves := s.mayLeave c.prog r.key (r.path.map fun p => p.val)
      (leaves = true → runs (.nackBackoffExpiry n q rq) fun t => t = { s with cores := t.cores, trust := t.trust } ∧
        (∃ d, t.cmd? n q = some d ∧ d.req? rq = some { r with stage := .ring }) ∧ (s.laneOf r.key = none → t.trust = s.trust)) ∧
      (leaves = false → runs (.nackBackoffExpiry n q rq) fun t => t = { s with cores := t.cores } ∧
        ∃ d, t.cmd? n q = some d ∧ d.stop = .failed r.run 0)) ∧
    (s.stremoDue n q rq = none → exec (.stremoRelease n q rq) s = .next s) ∧
    (s.stremoDue n q rq = some (c, r) → (∃ u, s.home r.key = .hbm u ∨ s.home r.key = .lpddr u) → isStremo c.ins = true →
      r.write = true → r.did = 0 → r.bytes = 256 → let s1 := s.countSlice r.key
      ((s1.touch r.key 256).2 = false → runs (.stremoRelease n q rq) fun t =>
        (∃ d x, t.cmd? n q = some d ∧ d.req? rq = some x ∧ x.stage = .done) ∧
        t.mem = (s1.homeWrite r.key 256 r.mask.toNat r.data.toNat).1.mem) ∧
      ((s1.touch r.key 256).2 = true → runs (.stremoRelease n q rq) fun t => t.mem = (s1.touch r.key 256).1.mem ∧
        ∃ d a, t.cmd? n q = some d ∧ d.stop = .failed r.run a))) ∧
  (∀ (s : State) (n q k : Nat) (c : Cmd), n < 96 → s.cmd? n q = some c → c.req? k = none →
    let runs := fun (i : Instr) (p : State → Prop) => ∃ t, exec i s = .next t ∧ p t
    let refused := Instr.stationSlotReceive (.own n q k true)
    let had := Store.get 0 c.prog.nacks k
    (s.travels n c k = false → exec refused s = .next s) ∧
    (s.travels n c k = true → had < 15 → runs refused fun t =>
      t = { s with cores := t.cores, trust := t.trust, adrift := t.adrift } ∧
      ∃ d, t.cmd? n q = some d ∧ d = { c with prog := { c.prog with nacks := d.prog.nacks, backoff := c.prog.backoff ++ [k] } } ∧
        Store.get 0 d.prog.nacks k = had + 1) ∧
    (∀ o w, s.travels n c k = true → 15 ≤ had → c.eng = .vertex → vxFields c.ins = some o → (∀ y, c.ins ≠ .pharm y) →
      (s.coreAt n).task = some w → runs refused fun t =>
        t.cmd? n q = none ∧ (t.timedAt n).flag o.f = .error ∧ t.vertex = s.vertex) ∧
    (∀ o, s.travels n c k = true → 15 ≤ had → c.eng = .copy → queryFields c.ins = some o →
      runs refused fun t => t.cmd? n q = none ∧ (t.timedAt n).flag o.f = .error ∧ t.pbc = s.pbc) ∧
    (runs (.nackBackoffExpiry n q k) fun t => t = { s with cores := t.cores, adrift := t.adrift } ∧
      ∃ d, t.cmd? n q = some d ∧ d = { c with prog := { c.prog with backoff := c.prog.backoff.filter (· != k) } })) ∧
  (∀ (s : State) (n q : Nat) (a : Arm), n < 96 → s.anyCmd? n q = none → s.armOut n q = some a →
    let runs := fun (i : Instr) (p : State → Prop) => ∃ t, exec i s = .next t ∧ p t
    (a.nacks < 15 → runs (.stationSlotReceive (.own n q 0 true)) fun t => t = { s with cores := t.cores, trust := t.trust } ∧
      { a with nacks := a.nacks + 1, backoff := true } ∈ (t.unAt n).released) ∧
    (15 ≤ a.nacks → runs (.stationSlotReceive (.own n q 0 true)) fun t =>
      (t.timedAt n).flag a.flag = .error ∧ t.vertex = s.vertex ∧ ∀ x, x ∈ (t.unAt n).released → x.seq ≠ q) ∧
    runs (.nackBackoffExpiry n q 0) fun t => ∀ x, x ∈ (t.unAt n).released → x.seq = q → x.backoff = false) ∧
  (∀ (s : State) (m lane n : Nat) (eb tag : Bool) (body : Crossing),
    let runs := fun (p : State → Prop) => ∃ t, exec (.stationSlotReceive (.sealed m lane n eb tag body)) s = .next t ∧ p t
    let u := s.trust
    let st := (u.member m).mstate
    let later := eb != u.epoch.getLsbD 0
    let held := if later then u.dstate = .arrived ∧ (st = .pending ∨ st = .active) else u.dstate ≠ .alone ∧ (st = .active ∨ st = .leaving)
    let x := u.lane later m lane
    let waits := (∃ d, crossNeedsPool s body = some d ∧ (s.vxOf d).poolRoom = false) ∨ s.noRoomFor body = true
    let good := tag = true ∧ held ∧ x.accepts lane n = true
    (4 ≤ lane → runs fun t => t = s) ∧
    (64 ≤ m → lane < 4 → runs fun t => t = { s with trust := { u with autherr := min (2 ^ 48 - 1) (u.autherr + 1) } }) ∧
    (m < 64 → lane < 4 → waits → good → runs fun t => t = s) ∧
    (m < 64 → lane < 4 → ¬ good → runs fun t => t = { s with trust := t.trust } ∧
      t.trust = { u with autherr := t.trust.autherr, members := t.trust.members } ∧
      t.trust.autherr = min (2 ^ 48 - 1) (u.autherr + 1) ∧
      t.trust.member m = { u.member m with mauth := min (2 ^ 48 - 1) ((u.member m).mauth + 1) } ∧
      ∀ k, k < 64 → k ≠ m → t.trust.member k = u.member k) ∧
    (m < 64 → lane < 4 → ¬ waits → good →
      exec (.stationSlotReceive (.sealed m lane n eb tag body)) s =
        (s.onTrust fun t => t.setLane later m lane (x.take lane n)).crossIn body ∧
      ((∀ key k w cp d, body ≠ .access key k w cp d) → runs fun t => t.trust.lane later m lane = x.take lane n ∧
        t.trust.autherr = u.autherr ∧
        (∀ j die obj, body = .objectLost j die obj → j ≠ s.myMod.toNat → ∀ c i y, c < 96 → (t.unAt c).arms.get i = some y →
          ¬ (hObj y.handle = obj ∧ hDie y.handle = die ∧ hMod y.handle = j)) ∧
        (∀ core w off k d, body = .deliver core w off k d → core < 96 → s.openWin core (BitVec.ofNat 5 w) = none →
          t = { s with trust := t.trust }) ∧
        (∀ core w off k d y, body = .deliver core w off k d → core < 96 → s.openWin core (BitVec.ofNat 5 w) = some y →
          1 ≤ y.rbu → y.rbu ≤ 4096 → 1 ≤ y.tr.toNat → y.tr.toNat ≤ 128 → k % 4 = 0 → k ≤ 256 → off + k ≤ y.size →
          ∀ i, i < k → (t.timedAt core).sbyte (y.byteAddr (off + i)) = d.extractLsb' (8 * i) 8)))) ∧
  ∀ (s : State) (m : Nat), m < 16 →
    let runs := fun (i : Instr) (p : State → Prop) => ∃ t, exec i s = .next t ∧ p t
    let only := fun (t : State) (b : Bool) => t = { s with xchg := { s.xchg with rackMap := t.xchg.rackMap } } ∧
      t.inRack m = b ∧ ∀ k, k ≠ m → t.inRack k = s.inRack k
    (runs (.rackModuleJoin m) fun t => only t true) ∧
    (m ≠ s.myMod.toNat → runs (.rackModuleLoss m) fun t => only t false) ∧
    (m = s.myMod.toNat → exec (.rackModuleLoss m) s = .next s)

/-- O60 (tier 2). R354-R363. `groupOk` is the test of the ranks of a group, `pieceDue` says that the piece may arrive, `openWin` is the window as declared, none where no task has begun. A collective read in one step, a block of XSEND moved in one and a piece landed in one are the cases stated here (R25, R95 leave the order of the words open). That an XSTAT of an evicted task answers into its save slot, and the tries of a packet counted for a packet of a command, are the model's choices (log entries 63, DEDUCED, and 52, DESIGN CHOICE), and so are when REACH becomes 1 (52) and the shared words held back (71, DEDUCED). -/
def Obligations.ExchangeEngine : Prop :=
  (∀ (s : State) (n q : Nat) (c : Cmd) (k : Task), n < 96 → s.cmd? n q = some c → (s.coreAt n).task = some k →
    c.eng = .exchange → s.coreOf k.ref = some n → k.moving = false → c.prog.part = [] → c.prog.parked = none → ∀ blk : Nat,
    let all := BitVec.allOnes 1024
    let runs := fun (i : Instr) (p : State → Prop) => ∃ t, exec i s = .next t ∧ p t
    let f := exchangeFlag c.ins
    let isSet := fun (t : State) => t.cmd? n q = none ∧ (t.timedAt n).flag f = (if (s.timedAt n).flag f = .error then .error else .set)
    let errs := fun (t : State) => t.cmd? n q = none ∧ (t.timedAt n).flag f = .error
    let g := c.img
    let R := s.xchg.rankCount (xGroup g)
    let fine := fun (w : Window) => 1 ≤ w.rbu ∧ w.rbu ≤ 4096 ∧ 1 ≤ w.tr.toNat ∧ w.tr.toNat ≤ 128
    (∀ o, c.ins = .xsend o → c.prog.backoff = [] → (s.adrift.find? fun a => a.core == n && a.cmd.seq == q) = none →
      let src := xsendPlace k.segs c.b .rd (xsendBytes o)
      let dst := xsendPlace k.segs c.a .wr (xsendBytes o)
      (src = none ∨ dst = none → runs (.collectiveAccept n ⟨q, blk, all⟩) errs) ∧
      ∀ a b, src = some a → dst = some b →
        let x := a + 256 * c.run
        let y := b + 256 * c.run
        let die := n / 12
        let r := s.dieReadLong die 3 x 256
        let local' := fun (z : Nat) => ∃ u, s.home z = .hbm u ∨ s.home z = .lpddr u
        (s.clear n q c.cls false = false → exec (.collectiveAccept n ⟨q, blk, all⟩) s = .next s) ∧
        let w := r.1.dieWriteLong die n c.cls 3 y 256 r.2.1
        let refused := s.blockAllowed c.prog x = false ∨ s.blockAllowed c.prog y = false
        let held := s.blockHeld die x = true ∨ s.blockHeld die y = true ∨ (s.trust.holds = true ∧ s.blockCrosses die x = true)
        (s.clear n q c.cls false = true →
          (refused → runs (.collectiveAccept n ⟨q, blk, all⟩) errs) ∧
          (¬ refused → held → exec (.collectiveAccept n ⟨q, blk, all⟩) s = .next s) ∧
          (¬ refused → ¬ held → local' x → local' y →
            (r.2.2 = true ∨ w.2 ≠ none → runs (.collectiveAccept n ⟨q, blk, all⟩) errs) ∧
            (r.2.2 = false → w.2 = none → runs (.collectiveAccept n ⟨q, blk, all⟩) fun t => t.mem = w.1.mem ∧ t.rdc = w.1.rdc ∧
              (c.run + 1 = o.ext.toNat → isSet t) ∧
              (c.run + 1 ≠ o.ext.toNat → ∃ d, t.cmd? n q = some d ∧ d.run = c.run + 1))))) ∧
    (∀ o, c.ins = .xa2a o ∨ c.ins = .xbkt o ∨ c.ins = .xpool o →
      (c.prog.accepted = true → exec (.collectiveAccept n ⟨q, blk, all⟩) s = .next s) ∧
      (c.prog.accepted = false → s.groupOk g = false → runs (.collectiveAccept n ⟨q, blk, all⟩) errs) ∧
      (c.prog.accepted = false → s.groupOk g = true → ∀ w, c.win = some w → fine w →
        (∀ k, s.winMarked n c.win (xSrcOff g) k = false) →
        let size := w.size - xSrcOff g
        let byte := fun (l : Nat) => ((s.timedAt n).sbyte (w.byteAddr (xSrcOff g + l))).toNat
        let count := fun (j : Nat) => byte (4 * j) + 256 * byte (4 * j + 1) + 65536 * byte (4 * j + 2) + 16777216 * byte (4 * j + 3)
        let at' := fun (j : Nat) => 4 * R + 4 * ((List.range j).map count).sum
        let accepts := fun (p : Nat → Nat → Nat) => runs (.collectiveAccept n ⟨q, blk, all⟩) fun t =>
          ∃ d, t.cmd? n q = some d ∧ d.prog.accepted = true ∧ d.prog.blocks.length = R ∧
            ∀ j, j < R → ∃ b, d.prog.blocks[j]? = some b ∧ b.rank = j ∧ b.len = xBlk g ∧ b.got = [] ∧ b.part = [] ∧ b.ok = true ∧
              b.entry = s.xchg.rank (xGroup g) j ∧
              ∀ i, i < xBlk g → b.data >>> (8 * i) % 256 = p j i
        (c.ins ≠ .xbkt o → size < R * xBlk g → runs (.collectiveAccept n ⟨q, blk, all⟩) errs) ∧
        (R * xBlk g ≤ size → c.ins ≠ .xbkt o → xFmt g = false → accepts fun j i => byte (j * xBlk g + i)) ∧
        (R * xBlk g ≤ size → c.ins = .xpool o → xFmt g = true → xBlk g % 4 = 0 → accepts fun j i =>
          ((toBf (roundTo bf16 false (ofF32 (BitVec.ofNat 32 (((List.range 4).map fun z => byte (j * xBlk g + i / 4 * 4 + z) <<< (8 * z)).sum)))).val).toNat
            * 65536) >>> (8 * (i % 4)) % 256) ∧
        (c.ins = .xbkt o → 4 * R ≤ size → (∀ j, j < R → 8 + 4 * count j ≤ xBlk g ∧ at' j + 4 * count j ≤ size) →
          accepts fun j i =>
            if i < 4 then byte (4 * j + i) else if i < 8 then 0
            else if i < 8 + 4 * count j then byte (at' j + (i - 8)) else 255) ∧
        (c.ins = .xbkt o → size < 4 * R ∨ (∃ j, j < R ∧ (xBlk g < 8 + 4 * count j ∨ size < at' j + 4 * count j)) →
          runs (.collectiveAccept n ⟨q, blk, all⟩) errs))) ∧
    (∀ o, c.ins = .xstat o → runs (.collectiveAccept n ⟨q, blk, all⟩) fun t => isSet t ∧ t.mem = s.mem ∧
      ∀ w, c.win = some w → fine w → c.b.toNat + 16 ≤ w.size → ∀ i, i < 16 →
        (t.timedAt n).sbyte (w.byteAddr (c.b.toNat + i)) = BitVec.ofNat 8 (s.xstatBytes c.a.toNat >>> (8 * i))) ∧
    ∀ rank off b, c.prog.blocks.find? (fun b => b.rank == rank) = some b →
      let p := off / 256
      let e := s.xchg.rank (xGroup g) rank
      let m := rkCore e
      let l := xDstOff g + xMyRank g * xBlk g + 256 * p
      let sz := min 256 (b.len - 256 * p)
      let noted := fun (t : State) (ok : Bool) => t.cmd? n q = none ∨
        ∃ d x, t.cmd? n q = some d ∧ x ∈ d.prog.blocks ∧ x.rank = rank ∧ x.got = b.got ++ [p] ∧ x.ok = (b.ok && ok)
      (s.pieceDue c b p = false → ∀ z, exec (.exchangeDelivery (.own n q rank off z all)) s = .next s) ∧
      (s.pieceDue c b p = true → b.entry = e → rkRoute e = 0 → rkValid e = false → ∀ z,
        runs (.exchangeDelivery (.own n q rank off z all)) fun t => noted t false ∧ t.mem = s.mem) ∧
      (s.pieceDue c b p = true → b.entry = e → rkRoute e = 0 → rkValid e = true → Store.get 0 b.part p = 0 → b.len % 4 = 0 → ∀ z,
        (∀ w, s.openWin m (xDstW g) = some w → fine w → l + sz ≤ w.size → w.odd = false ∨ c.prog.held = [] →
          runs (.exchangeDelivery (.own n q rank off z all)) fun t => noted t true ∧ t.mem = s.mem ∧
            ∀ i, i < sz →
              let byte := BitVec.ofNat 8 (b.data >>> (8 * (256 * p + i)))
              (t.timedAt m).sbyte (w.byteAddr (l + i)) = byte ∨
                w.odd = true ∧ ∃ d, t.cmd? n q = some d ∧ (⟨m, l + i, rank, byte⟩ : HeldByte) ∈ d.prog.held) ∧
        (s.openWin m (xDstW g) = none → runs (.exchangeDelivery (.own n q rank off z all)) fun t => noted t false ∧ t.mem = s.mem ∧
          ((t.cmd? n q = none) → (t.timedAt n).flag f = .error)))) ∧
  ∀ (s : State) (core w off k mb lane n : Nat) (eb tag : Bool) (data : BitVec 2048) (x : UetPacket) (g p pkt : Nat) (up : Bool) (v : Word),
    let runs := fun (i : Instr) (p : State → Prop) => ∃ t, exec i s = .next t ∧ p t
    let peer := fun (t : State) (i : Nat) => t.peer i
    (∀ y, (s.trust.receive mb lane n eb tag).2 = true → core < 96 → s.openWin core (BitVec.ofNat 5 w) = some y → 1 ≤ y.rbu →
      y.rbu ≤ 4096 → 1 ≤ y.tr.toNat → y.tr.toNat ≤ 128 → k % 4 = 0 → k ≤ 256 → off + k ≤ y.size →
      runs (.exchangeDelivery (.sealed mb lane n eb tag core w off k data)) fun t => t.mem = s.mem ∧
        t.trust = (s.trust.receive mb lane n eb tag).1 ∧
        ∀ i, i < k → (t.timedAt core).sbyte (y.byteAddr (off + i)) = data.extractLsb' (8 * i) 8) ∧
    ((s.trust.receive mb lane n eb tag).2 = false → runs (.exchangeDelivery (.sealed mb lane n eb tag core w off k data)) fun t =>
      t = { s with trust := (s.trust.receive mb lane n eb tag).1 }) ∧
    (x.peer < 4096 → x.lane ≠ 4 → x.lane ≠ 5 → runs (.uetPacketReceive x) fun t => t = { s with xchg := t.xchg } ∧
      peer t x.peer = { peer s x.peer with dropped := min 65535 ((peer s x.peer).dropped + 1) }) ∧
    (x.peer < 4096 → x.lane = 4 ∨ x.lane = 5 → s.trust.memberFor true x.peer = none → runs (.uetPacketReceive x) fun t =>
      t = { s with trust := { s.trust with autherr := min (2 ^ 48 - 1) (s.trust.autherr + 1) } }) ∧
    (∀ j, x.peer < 4096 → x.lane = 4 ∨ x.lane = 5 → s.trust.memberFor true x.peer = some j →
      let opened := s.trust.receive j x.lane x.seqNo x.epochBit x.tagOk
      (opened.2 = false → runs (.uetPacketReceive x) fun t => t = { s with trust := opened.1 } ∧
        t.trust.autherr = min (2 ^ 48 - 1) (s.trust.autherr + 1) ∧
        (t.trust.member j).mauth = min (2 ^ 48 - 1) ((s.trust.member j).mauth + 1)) ∧
      (opened.2 = true → s.crossingWaits x.body = true → exec (.uetPacketReceive x) s = .next s) ∧
      (opened.2 = true → s.crossingWaits x.body = false →
        let later := x.epochBit != s.trust.epoch.getLsbD 0
        (∀ key i wr cp d, x.body = .access key i wr cp d → s.outsideMissing key i = true →
          exec (.uetPacketReceive x) s = .fault (.noSuchAddress key)) ∧
        ((∀ key i wr cp d, x.body = .access key i wr cp d → s.outsideMissing key i = false) → runs (.uetPacketReceive x) fun t =>
          (t.trust.lane later j x.lane = (s.trust.lane later j x.lane).take x.lane x.seqNo) ∧ t.trust.autherr = s.trust.autherr ∧
          (peer t x.peer).reach = true ∧
          ∃ u, (s.onTrust fun _ => opened.1).crossIn x.body = .next u ∧ t = { u with xchg := t.xchg } ∧
            t.xchg = { u.xchg with peers := t.xchg.peers }))) ∧
    (p < 4096 → (s.xcmd? core k).isSome = true ∨ (s.cmd? core k).isSome = true →
      let tries := Store.get 0 s.xchg.tries (tryKey p core k pkt)
      (tries + 1 < 16 → runs (.uetRetransmit p core ⟨k, pkt⟩) fun t => t = { s with xchg := t.xchg } ∧
        peer t p = { peer s p with retrans := min (2 ^ 48 - 1) ((peer s p).retrans + 1) }) ∧
      (15 ≤ tries → runs (.uetRetransmit p core ⟨k, pkt⟩) fun t =>
        peer t p = { peer s p with retrans := min (2 ^ 48 - 1) ((peer s p).retrans + 1), reach := false })) ∧
    (p < 8 → runs (.portLinkChange p up) fun t => t = { s with xchg := { s.xchg with portUp := t.xchg.portUp } } ∧
      t.xchg.portUp.getLsbD p = up ∧ ∀ j, j ≠ p → t.xchg.portUp.getLsbD j = s.xchg.portUp.getLsbD j) ∧
    (g < 64 → runs (.nrankWrite g v) fun t => t = { s with xchg := { s.xchg with nrank := t.xchg.nrank } } ∧
      t.xchg.rankCount g = (if v.toNat % 128 ≤ 64 then v.toNat % 128 else 0) ∧
      ∀ j, j ≠ g → t.xchg.rankCount j = (if j < 64 then s.xchg.rankCount j else t.xchg.rankCount 0))
end

