-- ==== Sys2Proof/Laws/Store.lean ====
section
/-!
SUPPORT. The laws of sparse tables and of memory: a read after a write, and that every operation keeps the canonical
form. Nothing past this file unfolds `Store.set` or `Store.get`.
-/

namespace Sys2Proof.Machine

variable {α : Type}

@[simp] theorem Store.get_nil (d : α) (k : Nat) : Store.get d [] k = d := rfl

/-- Dropping what stands at or below `k` leaves every later key as it was. -/
theorem Store.get_dropLE (d : α) (l : Store α) (k j : Nat) (h : k < j) :
    Store.get d (Store.dropLE k l) j = Store.get d l j := by
  induction l with
  | nil => rfl
  | cons x l ih =>
    obtain ⟨a, w⟩ := x
    by_cases hk : a ≤ k
    · rw [Store.dropLE, if_pos hk, ih, Store.get, if_neg (by omega), if_neg (by omega)]
    · rw [Store.dropLE, if_neg hk]

/-- Below what is kept there is nothing. -/
theorem Store.get_dropLE_low (d : α) (l : Store α) (k j : Nat) (h : j ≤ k) :
    Store.get d (Store.dropLE k l) j = d := by
  induction l with
  | nil => rfl
  | cons x l ih =>
    obtain ⟨a, w⟩ := x
    by_cases hk : a ≤ k
    · rw [Store.dropLE, if_pos hk, ih]
    · rw [Store.dropLE, if_neg hk, Store.get, if_pos (by omega)]

variable [DecidableEq α]

/-- A read after a write to the same key gives the value written; every other key reads as before. This holds of every
table, canonical or not. -/
theorem Store.get_set (d : α) (l : Store α) (k : Nat) (v : α) (j : Nat) :
    Store.get d (Store.set d l k v) j = if j = k then v else Store.get d l j := by
  induction l with
  | nil => by_cases hv : v = d <;> simp only [Store.set, hv, if_true, if_false, Store.get] <;> split_ifs <;> first | rfl | omega
  | cons x l ih =>
    obtain ⟨a, w⟩ := x
    rcases Nat.lt_trichotomy a k with h1 | rfl | h1
    · simp only [Store.set, if_pos h1, Store.get, ih]
      split_ifs <;> first | rfl | omega
    · by_cases hv : v = d
      · simp only [Store.set, hv, Nat.lt_irrefl, if_false, if_true]
        by_cases hj : j ≤ a
        · rw [Store.get_dropLE_low _ _ _ _ hj]
          simp only [Store.get]
          split_ifs <;> first | rfl | omega
        · rw [Store.get_dropLE _ _ _ _ (by omega), if_neg (by omega), Store.get, if_neg (by omega), if_neg (by omega)]
      · simp only [Store.set, hv, Nat.lt_irrefl, if_false, if_true, Store.get]
        split_ifs <;> first | rfl | omega
    · by_cases hv : v = d <;>
        simp only [Store.set, hv, if_neg (Nat.lt_asymm h1), if_neg (Nat.ne_of_gt h1), if_true, if_false, Store.get] <;>
        split_ifs <;> first | rfl | omega

@[simp] theorem Store.get_set_same (d : α) (l : Store α) (k : Nat) (v : α) : Store.get d (Store.set d l k v) k = v := by
  rw [Store.get_set, if_pos rfl]

theorem Store.get_set_other (d : α) (l : Store α) (k : Nat) (v : α) (j : Nat) (h : j ≠ k) :
    Store.get d (Store.set d l k v) j = Store.get d l j := by
  rw [Store.get_set, if_neg h]

/-- The canonical form, entry by entry. -/
theorem Store.wf_cons (d : α) (a : Nat) (v : α) (l : Store α) :
    Store.wf d ((a, v) :: l) = true ↔ v ≠ d ∧ (∀ x ∈ l, a < x.1) ∧ Store.wf d l = true := by
  induction l generalizing a v with
  | nil => simp [Store.wf]
  | cons y l ih =>
    obtain ⟨b, w⟩ := y
    have h1 : Store.wf d ((a, v) :: (b, w) :: l) = (decide (v ≠ d) && decide (a < b) && Store.wf d ((b, w) :: l)) := rfl
    rw [h1, Bool.and_eq_true, Bool.and_eq_true, decide_eq_true_eq, decide_eq_true_eq, and_assoc]
    refine and_congr_right fun _ => and_congr_left fun hw => ?_
    have hb := ((ih b w).1 hw).2.1
    constructor
    · intro hab x hx
      rcases List.mem_cons.1 hx with rfl | hx
      · exact hab
      · exact Nat.lt_trans hab (hb x hx)
    · intro h; exact h (b, w) (List.mem_cons_self ..)

@[simp] theorem Store.wf_nil (d : α) : Store.wf d [] = true := rfl

omit [DecidableEq α] in
theorem Store.mem_dropLE (k : Nat) (l : Store α) (x : Nat × α) (h : x ∈ Store.dropLE k l) : x ∈ l := by
  induction l with
  | nil => exact h
  | cons y l ih =>
    obtain ⟨a, w⟩ := y
    by_cases hk : a ≤ k
    · rw [Store.dropLE, if_pos hk] at h; exact List.mem_cons_of_mem _ (ih h)
    · rwa [Store.dropLE, if_neg hk] at h

theorem Store.wf_dropLE (d : α) (k : Nat) (l : Store α) (h : Store.wf d l = true) :
    Store.wf d (Store.dropLE k l) = true := by
  induction l with
  | nil => rfl
  | cons y l ih =>
    obtain ⟨a, w⟩ := y
    by_cases hk : a ≤ k
    · rw [Store.dropLE, if_pos hk]; exact ih ((Store.wf_cons ..).1 h).2.2
    · rwa [Store.dropLE, if_neg hk]

/-- The keys that a write lists are those listed before and the one written. -/
theorem Store.mem_set (d : α) (l : Store α) (k : Nat) (v : α) (x : Nat × α) (h : x ∈ Store.set d l k v) :
    x ∈ l ∨ x = (k, v) := by
  induction l with
  | nil =>
    rw [Store.set] at h
    split_ifs at h
    · exact absurd h (by simp)
    · exact .inr (List.mem_singleton.1 h)
  | cons y l ih =>
    obtain ⟨a, w⟩ := y
    rw [Store.set] at h
    split_ifs at h with h1 h2 h3 h4
    · rcases List.mem_cons.1 h with rfl | h
      · exact .inl (List.mem_cons_self ..)
      · exact (ih h).imp_left (List.mem_cons_of_mem _)
    · exact .inl (List.mem_cons_of_mem _ (Store.mem_dropLE _ _ _ h))
    · exact (List.mem_cons.1 h).symm.imp_left (List.mem_cons_of_mem _)
    · exact .inl h
    · exact (List.mem_cons.1 h).symm

/-- A write keeps the canonical form. -/
theorem Store.wf_set (d : α) (l : Store α) (k : Nat) (v : α) (h : Store.wf d l = true) :
    Store.wf d (Store.set d l k v) = true := by
  induction l with
  | nil =>
    rw [Store.set]
    split_ifs with hv
    · rfl
    · simpa [Store.wf] using hv
  | cons y l ih =>
    obtain ⟨a, w⟩ := y
    obtain ⟨hw, hl, hwf⟩ := (Store.wf_cons ..).1 h
    rw [Store.set]
    split_ifs with h1 h2 h3 h4
    · refine (Store.wf_cons ..).2 ⟨hw, fun x hx => ?_, ih hwf⟩
      rcases Store.mem_set _ _ _ _ _ hx with hx | rfl
      · exact hl x hx
      · exact h1
    · exact Store.wf_dropLE _ _ _ hwf
    · exact (Store.wf_cons ..).2 ⟨h3, fun x hx => h2 ▸ hl x hx, hwf⟩
    · exact h
    · refine (Store.wf_cons ..).2 ⟨h4, fun x hx => ?_, h⟩
      rcases List.mem_cons.1 hx with rfl | hx
      · change k < a; omega
      · exact Nat.lt_of_le_of_lt (by omega) (hl x hx)

/-- Leaving entries out keeps the canonical form. -/
theorem Store.wf_filter (d : α) (l : Store α) (p : Nat × α → Bool) (h : Store.wf d l = true) :
    Store.wf d (l.filter p) = true := by
  induction l with
  | nil => rfl
  | cons y l ih =>
    obtain ⟨a, w⟩ := y
    obtain ⟨hw, hl, hwf⟩ := (Store.wf_cons ..).1 h
    rw [List.filter_cons]
    split_ifs
    · exact (Store.wf_cons ..).2 ⟨hw, fun x hx => hl x (List.mem_of_mem_filter hx), ih hwf⟩
    · exact ih hwf

theorem Store.wf_clearRange (d : α) (lo hi : Nat) (l : Store α) (h : Store.wf d l = true) :
    Store.wf d (Store.clearRange lo hi l) = true := Store.wf_filter _ _ _ h

/-- In the canonical form an entry is what its key reads as. -/
theorem Store.get_of_mem (d : α) (l : Store α) (h : Store.wf d l = true) (x : Nat × α) (hx : x ∈ l) :
    Store.get d l x.1 = x.2 := by
  induction l with
  | nil => exact absurd hx (by simp)
  | cons y l ih =>
    obtain ⟨a, w⟩ := y
    obtain ⟨-, hl, hwf⟩ := (Store.wf_cons ..).1 h
    rcases List.mem_cons.1 hx with rfl | hx
    · simp [Store.get]
    · have := hl x hx
      rw [Store.get, if_neg (by omega), if_neg (by omega)]
      exact ih hwf hx

omit [DecidableEq α] in
/-- Below every key listed a table reads as its default. -/
theorem Store.get_below (d : α) (l : Store α) (k : Nat) (h : ∀ x ∈ l, k < x.1) : Store.get d l k = d := by
  cases l with
  | nil => rfl
  | cons y l => rw [Store.get, if_pos (h y (List.mem_cons_self ..))]

/-- Equal tables are equal data: two tables in the canonical form that read alike at every key are the same list. -/
theorem Store.ext_get (d : α) (l m : Store α) (hl : Store.wf d l = true) (hm : Store.wf d m = true)
    (h : ∀ k, Store.get d l k = Store.get d m k) : l = m := by
  induction l generalizing m with
  | nil =>
    cases m with
    | nil => rfl
    | cons y m =>
      obtain ⟨b, w⟩ := y
      have h1 := h b
      rw [Store.get_nil, Store.get_of_mem d _ hm (b, w) (List.mem_cons_self ..)] at h1
      exact absurd h1.symm ((Store.wf_cons ..).1 hm).1
  | cons x l ih =>
    obtain ⟨a, v⟩ := x
    obtain ⟨hv, hal, hl'⟩ := (Store.wf_cons ..).1 hl
    cases m with
    | nil =>
      have h1 := h a
      rw [Store.get_nil, Store.get_of_mem d _ hl (a, v) (List.mem_cons_self ..)] at h1
      exact absurd h1 hv
    | cons y m =>
      obtain ⟨b, w⟩ := y
      obtain ⟨hw, hbm, hm'⟩ := (Store.wf_cons ..).1 hm
      have ha := h a
      have hb := h b
      rw [Store.get_of_mem d _ hl (a, v) (List.mem_cons_self ..)] at ha
      rw [Store.get_of_mem d _ hm (b, w) (List.mem_cons_self ..)] at hb
      have hab : a = b := by
        rcases Nat.lt_trichotomy a b with hlt | heq | hgt
        · rw [Store.get, if_pos hlt] at ha; exact absurd ha hv
        · exact heq
        · rw [Store.get, if_pos hgt] at hb; exact absurd hb.symm hw
      subst hab
      have hvw : v = w := by rw [show v = _ from ha, Store.get, if_neg (Nat.lt_irrefl _), if_pos rfl]
      subst hvw
      rw [ih m hl' hm' fun k => ?_]
      by_cases hk : k ≤ a
      · rw [Store.get_below d l k fun x hx => Nat.lt_of_le_of_lt hk (hal x hx),
          Store.get_below d m k fun x hx => Nat.lt_of_le_of_lt hk (hbm x hx)]
      · have h1 := h k
        rwa [Store.get, if_neg (by omega), if_neg (by omega), Store.get, if_neg (by omega), if_neg (by omega)] at h1

/-! Memory. -/

theorem Memory.byte_setByte (m : Memory) (a : Nat) (b : Byte) (j : Nat) :
    (m.setByte a b).byte j = if j = a then b else m.byte j := Store.get_set ..

@[simp] theorem Memory.byte_setByte_same (m : Memory) (a : Nat) (b : Byte) : (m.setByte a b).byte a = b :=
  Store.get_set_same ..

theorem Memory.wf_setByte (m : Memory) (a : Nat) (b : Byte) (h : m.wf = true) : (m.setByte a b).wf = true :=
  Store.wf_set _ _ _ _ h

theorem Memory.wf_write (m : Memory) (a n v : Nat) (h : m.wf = true) : (m.write a n v).wf = true := by
  induction n generalizing m a v with
  | zero => exact h
  | succ n ih => exact ih _ _ _ (Memory.wf_setByte _ _ _ h)

theorem Memory.wf_writeMasked (m : Memory) (a n mask v : Nat) (h : m.wf = true) :
    (m.writeMasked a n mask v).wf = true := by
  induction n generalizing m a mask v with
  | zero => exact h
  | succ n ih =>
    rw [Memory.writeMasked]
    refine ih _ _ _ _ ?_
    split_ifs
    · exact Memory.wf_setByte _ _ _ h
    · exact h

theorem Memory.wf_filter (m : Memory) (p : Nat × Byte → Bool) (h : m.wf = true) : Memory.wf (m.filter p) = true :=
  Store.wf_filter _ _ _ h

/-- A memory built byte by byte from nothing is in the canonical form. -/
theorem Memory.wf_foldl_setByte {β : Type} (l : List β) (f : β → Nat) (g : β → Byte) (m : Memory) (h : m.wf = true) :
    (l.foldl (fun (m : Memory) x => m.setByte (f x) (g x)) m).wf = true := by
  induction l generalizing m with
  | nil => exact h
  | cons x l ih => exact ih _ (Memory.wf_setByte _ _ _ h)

/-- A write leaves every byte outside its `n` bytes as it was. -/
theorem Memory.byte_write_other (m : Memory) (a n v j : Nat) (h : j < a ∨ a + n ≤ j) :
    (m.write a n v).byte j = m.byte j := by
  induction n generalizing m a v with
  | zero => rfl
  | succ n ih => rw [Memory.write, ih _ _ _ (by omega), Memory.byte_setByte, if_neg (by omega)]

/-- Byte `i` of a write is byte `i` of its number. -/
theorem Memory.byte_write_in (m : Memory) (a n v i : Nat) (h : i < n) :
    (m.write a n v).byte (a + i) = BitVec.ofNat 8 (v / 256 ^ i) := by
  induction n generalizing m a v i with
  | zero => exact absurd h (by omega)
  | succ n ih =>
    rw [Memory.write]
    cases i with
    | zero => rw [Memory.byte_write_other _ _ _ _ _ (.inl (by omega)), Memory.byte_setByte, if_pos (by omega)]; simp
    | succ i =>
      rw [show a + (i + 1) = a + 1 + i by omega, ih _ _ _ _ (by omega), Nat.div_div_eq_div_mul, Nat.pow_succ, Nat.mul_comm]

/-- A masked write leaves every byte outside its `n` bytes as it was. -/
theorem Memory.byte_writeMasked_other (m : Memory) (a n mask v j : Nat) (h : j < a ∨ a + n ≤ j) :
    (m.writeMasked a n mask v).byte j = m.byte j := by
  induction n generalizing m a mask v with
  | zero => rfl
  | succ n ih =>
    rw [Memory.writeMasked, ih _ _ _ _ (by omega)]
    split_ifs
    · rw [Memory.byte_setByte, if_neg (by omega)]
    · rfl

/-- Byte `i` of a masked write is byte `i` of its number where bit `i` of the mask is set, else what it was. -/
theorem Memory.byte_writeMasked_in (m : Memory) (a n mask v i : Nat) (h : i < n) :
    (m.writeMasked a n mask v).byte (a + i) =
      if mask / 2 ^ i % 2 = 1 then BitVec.ofNat 8 (v / 256 ^ i) else m.byte (a + i) := by
  induction n generalizing m a mask v i with
  | zero => exact absurd h (by omega)
  | succ n ih =>
    rw [Memory.writeMasked]
    cases i with
    | zero =>
      rw [Memory.byte_writeMasked_other _ _ _ _ _ _ (.inl (by omega))]
      simp only [Nat.pow_zero, Nat.div_one, Nat.add_zero]
      split_ifs
      · rw [Memory.byte_setByte_same]
      · rfl
    | succ i =>
      rw [show a + (i + 1) = a + 1 + i by omega, ih _ _ _ _ _ (by omega), Nat.div_div_eq_div_mul, Nat.div_div_eq_div_mul,
        Nat.pow_succ', Nat.pow_succ']
      rw [show (if mask % 2 = 1 then m.setByte a (BitVec.ofNat 8 v) else m).byte (a + 1 + i) = m.byte (a + 1 + i) by
        split_ifs
        · rw [Memory.byte_setByte, if_neg (by omega)]
        · rfl]

/-- A read depends on its own bytes alone. -/
theorem Memory.read_congr (m k : Memory) (a n : Nat) (h : ∀ i, i < n → m.byte (a + i) = k.byte (a + i)) :
    m.read a n = k.read a n := by
  induction n generalizing a with
  | zero => rfl
  | succ n ih =>
    rw [Memory.read, Memory.read, ih (a + 1) fun i hi => by
      have := h (i + 1) (by omega)
      rwa [show a + (i + 1) = a + 1 + i by omega] at this]
    rw [show m.byte a = k.byte a from h 0 (by omega)]

theorem Memory.read_write_disjoint (m : Memory) (a n v b k : Nat) (h : b + k ≤ a ∨ a + n ≤ b) :
    (m.write a n v).read b k = m.read b k :=
  Memory.read_congr _ _ _ _ fun i hi => Memory.byte_write_other _ _ _ _ _ (by omega)

theorem Memory.read_write_same (m : Memory) (a n v : Nat) : (m.write a n v).read a n = v % 256 ^ n := by
  induction n generalizing m a v with
  | zero => simp [Memory.read, Nat.mod_one]
  | succ n ih =>
    rw [Memory.read, Memory.write, ih, Memory.byte_write_other _ _ _ _ _ (.inl (by omega)), Memory.byte_setByte_same,
      BitVec.toNat_ofNat, show 256 ^ (n + 1) = 256 * 256 ^ n from Nat.pow_succ', Nat.mod_mul (x := v) (a := 256)]

/-- Memory at reset lists nothing. -/
theorem Memory.wf_nil : Memory.wf [] = true := rfl

end Sys2Proof.Machine
end

