-- ==== Sys2Proof/Laws/State.lean ====
section
/-!
SUPPORT. One lemma per field per update of the state, of the timed domain and of the other records that the shared
operations change, and what each update leaves to be read. No later proof unfolds a record update.
-/

namespace Sys2Proof.Machine

/-! ### Updates of the state: every field they do not touch -/

section
variable (x : State) (c : Core)
@[simp] theorem State.setCore_focus : (x.setCore c).focus = x.focus := rfl
@[simp] theorem State.setCore_dcus : (x.setCore c).dcus = x.dcus := rfl
@[simp] theorem State.setCore_period : (x.setCore c).period = x.period := rfl
@[simp] theorem State.setCore_wall : (x.setCore c).wall = x.wall := rfl
@[simp] theorem State.setCore_boundary : (x.setCore c).boundary = x.boundary := rfl
@[simp] theorem State.setCore_regions : (x.setCore c).regions = x.regions := rfl
@[simp] theorem State.setCore_mem : (x.setCore c).mem = x.mem := rfl
@[simp] theorem State.setCore_poison : (x.setCore c).poison = x.poison := rfl
@[simp] theorem State.setCore_rdc : (x.setCore c).rdc = x.rdc := rfl
@[simp] theorem State.setCore_l2 : (x.setCore c).l2 = x.l2 := rfl
@[simp] theorem State.setCore_hbm : (x.setCore c).hbm = x.hbm := rfl
@[simp] theorem State.setCore_vertex : (x.setCore c).vertex = x.vertex := rfl
@[simp] theorem State.setCore_pbc : (x.setCore c).pbc = x.pbc := rfl
@[simp] theorem State.setCore_tables : (x.setCore c).tables = x.tables := rfl
@[simp] theorem State.setCore_badTables : (x.setCore c).badTables = x.badTables := rfl
@[simp] theorem State.setCore_lattice : (x.setCore c).lattice = x.lattice := rfl
@[simp] theorem State.setCore_myMod : (x.setCore c).myMod = x.myMod := rfl
@[simp] theorem State.setCore_xchg : (x.setCore c).xchg = x.xchg := rfl
@[simp] theorem State.setCore_trust : (x.setCore c).trust = x.trust := rfl
@[simp] theorem State.setCore_spdm : (x.setCore c).spdm = x.spdm := rfl
@[simp] theorem State.setCore_ctl : (x.setCore c).ctl = x.ctl := rfl
@[simp] theorem State.setCore_adrift : (x.setCore c).adrift = x.adrift := rfl
@[simp] theorem State.setCore_away : (x.setCore c).away = x.away := rfl
@[simp] theorem State.setCore_orphans : (x.setCore c).orphans = x.orphans := rfl
@[simp] theorem State.setCore_delayed : (x.setCore c).delayed = x.delayed := rfl
@[simp] theorem State.setCore_irqs : (x.setCore c).irqs = x.irqs := rfl
@[simp] theorem State.setCore_agenda : (x.setCore c).agenda = x.agenda := rfl
@[simp] theorem State.setCore_norder : (x.setCore c).norder = x.norder := rfl
@[simp] theorem State.setCore_nuid : (x.setCore c).nuid = x.nuid := rfl
@[simp] theorem State.setCore_free : (x.setCore c).free = x.free := rfl
end

section
variable (x : State) (t : Timed)
@[simp] theorem State.setTimed_focus : (x.setTimed t).focus = x.focus := rfl
@[simp] theorem State.setTimed_dcus : (x.setTimed t).dcus = x.dcus := rfl
@[simp] theorem State.setTimed_period : (x.setTimed t).period = x.period := rfl
@[simp] theorem State.setTimed_wall : (x.setTimed t).wall = x.wall := rfl
@[simp] theorem State.setTimed_boundary : (x.setTimed t).boundary = x.boundary := rfl
@[simp] theorem State.setTimed_regions : (x.setTimed t).regions = x.regions := rfl
@[simp] theorem State.setTimed_mem : (x.setTimed t).mem = x.mem := rfl
@[simp] theorem State.setTimed_poison : (x.setTimed t).poison = x.poison := rfl
@[simp] theorem State.setTimed_rdc : (x.setTimed t).rdc = x.rdc := rfl
@[simp] theorem State.setTimed_l2 : (x.setTimed t).l2 = x.l2 := rfl
@[simp] theorem State.setTimed_hbm : (x.setTimed t).hbm = x.hbm := rfl
@[simp] theorem State.setTimed_vertex : (x.setTimed t).vertex = x.vertex := rfl
@[simp] theorem State.setTimed_pbc : (x.setTimed t).pbc = x.pbc := rfl
@[simp] theorem State.setTimed_tables : (x.setTimed t).tables = x.tables := rfl
@[simp] theorem State.setTimed_badTables : (x.setTimed t).badTables = x.badTables := rfl
@[simp] theorem State.setTimed_lattice : (x.setTimed t).lattice = x.lattice := rfl
@[simp] theorem State.setTimed_myMod : (x.setTimed t).myMod = x.myMod := rfl
@[simp] theorem State.setTimed_xchg : (x.setTimed t).xchg = x.xchg := rfl
@[simp] theorem State.setTimed_trust : (x.setTimed t).trust = x.trust := rfl
@[simp] theorem State.setTimed_spdm : (x.setTimed t).spdm = x.spdm := rfl
@[simp] theorem State.setTimed_ctl : (x.setTimed t).ctl = x.ctl := rfl
@[simp] theorem State.setTimed_adrift : (x.setTimed t).adrift = x.adrift := rfl
@[simp] theorem State.setTimed_away : (x.setTimed t).away = x.away := rfl
@[simp] theorem State.setTimed_orphans : (x.setTimed t).orphans = x.orphans := rfl
@[simp] theorem State.setTimed_delayed : (x.setTimed t).delayed = x.delayed := rfl
@[simp] theorem State.setTimed_irqs : (x.setTimed t).irqs = x.irqs := rfl
@[simp] theorem State.setTimed_agenda : (x.setTimed t).agenda = x.agenda := rfl
@[simp] theorem State.setTimed_norder : (x.setTimed t).norder = x.norder := rfl
@[simp] theorem State.setTimed_nuid : (x.setTimed t).nuid = x.nuid := rfl
@[simp] theorem State.setTimed_free : (x.setTimed t).free = x.free := rfl
end

section
variable (x : State) (u : Untimed)
@[simp] theorem State.setUn_focus : (x.setUn u).focus = x.focus := rfl
@[simp] theorem State.setUn_dcus : (x.setUn u).dcus = x.dcus := rfl
@[simp] theorem State.setUn_period : (x.setUn u).period = x.period := rfl
@[simp] theorem State.setUn_wall : (x.setUn u).wall = x.wall := rfl
@[simp] theorem State.setUn_boundary : (x.setUn u).boundary = x.boundary := rfl
@[simp] theorem State.setUn_regions : (x.setUn u).regions = x.regions := rfl
@[simp] theorem State.setUn_mem : (x.setUn u).mem = x.mem := rfl
@[simp] theorem State.setUn_poison : (x.setUn u).poison = x.poison := rfl
@[simp] theorem State.setUn_rdc : (x.setUn u).rdc = x.rdc := rfl
@[simp] theorem State.setUn_l2 : (x.setUn u).l2 = x.l2 := rfl
@[simp] theorem State.setUn_hbm : (x.setUn u).hbm = x.hbm := rfl
@[simp] theorem State.setUn_vertex : (x.setUn u).vertex = x.vertex := rfl
@[simp] theorem State.setUn_pbc : (x.setUn u).pbc = x.pbc := rfl
@[simp] theorem State.setUn_tables : (x.setUn u).tables = x.tables := rfl
@[simp] theorem State.setUn_badTables : (x.setUn u).badTables = x.badTables := rfl
@[simp] theorem State.setUn_lattice : (x.setUn u).lattice = x.lattice := rfl
@[simp] theorem State.setUn_myMod : (x.setUn u).myMod = x.myMod := rfl
@[simp] theorem State.setUn_xchg : (x.setUn u).xchg = x.xchg := rfl
@[simp] theorem State.setUn_trust : (x.setUn u).trust = x.trust := rfl
@[simp] theorem State.setUn_spdm : (x.setUn u).spdm = x.spdm := rfl
@[simp] theorem State.setUn_ctl : (x.setUn u).ctl = x.ctl := rfl
@[simp] theorem State.setUn_adrift : (x.setUn u).adrift = x.adrift := rfl
@[simp] theorem State.setUn_away : (x.setUn u).away = x.away := rfl
@[simp] theorem State.setUn_orphans : (x.setUn u).orphans = x.orphans := rfl
@[simp] theorem State.setUn_delayed : (x.setUn u).delayed = x.delayed := rfl
@[simp] theorem State.setUn_irqs : (x.setUn u).irqs = x.irqs := rfl
@[simp] theorem State.setUn_agenda : (x.setUn u).agenda = x.agenda := rfl
@[simp] theorem State.setUn_norder : (x.setUn u).norder = x.norder := rfl
@[simp] theorem State.setUn_nuid : (x.setUn u).nuid = x.nuid := rfl
@[simp] theorem State.setUn_free : (x.setUn u).free = x.free := rfl
end

section
variable (x : State) (n : Nat) (c : Core)
@[simp] theorem State.setCoreAt_focus : (x.setCoreAt n c).focus = x.focus := by unfold State.setCoreAt; split <;> rfl
@[simp] theorem State.setCoreAt_dcus : (x.setCoreAt n c).dcus = x.dcus := by unfold State.setCoreAt; split <;> rfl
@[simp] theorem State.setCoreAt_period : (x.setCoreAt n c).period = x.period := by unfold State.setCoreAt; split <;> rfl
@[simp] theorem State.setCoreAt_wall : (x.setCoreAt n c).wall = x.wall := by unfold State.setCoreAt; split <;> rfl
@[simp] theorem State.setCoreAt_boundary : (x.setCoreAt n c).boundary = x.boundary := by unfold State.setCoreAt; split <;> rfl
@[simp] theorem State.setCoreAt_regions : (x.setCoreAt n c).regions = x.regions := by unfold State.setCoreAt; split <;> rfl
@[simp] theorem State.setCoreAt_mem : (x.setCoreAt n c).mem = x.mem := by unfold State.setCoreAt; split <;> rfl
@[simp] theorem State.setCoreAt_poison : (x.setCoreAt n c).poison = x.poison := by unfold State.setCoreAt; split <;> rfl
@[simp] theorem State.setCoreAt_rdc : (x.setCoreAt n c).rdc = x.rdc := by unfold State.setCoreAt; split <;> rfl
@[simp] theorem State.setCoreAt_l2 : (x.setCoreAt n c).l2 = x.l2 := by unfold State.setCoreAt; split <;> rfl
@[simp] theorem State.setCoreAt_hbm : (x.setCoreAt n c).hbm = x.hbm := by unfold State.setCoreAt; split <;> rfl
@[simp] theorem State.setCoreAt_vertex : (x.setCoreAt n c).vertex = x.vertex := by unfold State.setCoreAt; split <;> rfl
@[simp] theorem State.setCoreAt_pbc : (x.setCoreAt n c).pbc = x.pbc := by unfold State.setCoreAt; split <;> rfl
@[simp] theorem State.setCoreAt_tables : (x.setCoreAt n c).tables = x.tables := by unfold State.setCoreAt; split <;> rfl
@[simp] theorem State.setCoreAt_badTables : (x.setCoreAt n c).badTables = x.badTables := by unfold State.setCoreAt; split <;> rfl
@[simp] theorem State.setCoreAt_lattice : (x.setCoreAt n c).lattice = x.lattice := by unfold State.setCoreAt; split <;> rfl
@[simp] theorem State.setCoreAt_myMod : (x.setCoreAt n c).myMod = x.myMod := by unfold State.setCoreAt; split <;> rfl
@[simp] theorem State.setCoreAt_xchg : (x.setCoreAt n c).xchg = x.xchg := by unfold State.setCoreAt; split <;> rfl
@[simp] theorem State.setCoreAt_trust : (x.setCoreAt n c).trust = x.trust := by unfold State.setCoreAt; split <;> rfl
@[simp] theorem State.setCoreAt_spdm : (x.setCoreAt n c).spdm = x.spdm := by unfold State.setCoreAt; split <;> rfl
@[simp] theorem State.setCoreAt_ctl : (x.setCoreAt n c).ctl = x.ctl := by unfold State.setCoreAt; split <;> rfl
@[simp] theorem State.setCoreAt_adrift : (x.setCoreAt n c).adrift = x.adrift := by unfold State.setCoreAt; split <;> rfl
@[simp] theorem State.setCoreAt_away : (x.setCoreAt n c).away = x.away := by unfold State.setCoreAt; split <;> rfl
@[simp] theorem State.setCoreAt_orphans : (x.setCoreAt n c).orphans = x.orphans := by unfold State.setCoreAt; split <;> rfl
@[simp] theorem State.setCoreAt_delayed : (x.setCoreAt n c).delayed = x.delayed := by unfold State.setCoreAt; split <;> rfl
@[simp] theorem State.setCoreAt_irqs : (x.setCoreAt n c).irqs = x.irqs := by unfold State.setCoreAt; split <;> rfl
@[simp] theorem State.setCoreAt_agenda : (x.setCoreAt n c).agenda = x.agenda := by unfold State.setCoreAt; split <;> rfl
@[simp] theorem State.setCoreAt_norder : (x.setCoreAt n c).norder = x.norder := by unfold State.setCoreAt; split <;> rfl
@[simp] theorem State.setCoreAt_nuid : (x.setCoreAt n c).nuid = x.nuid := by unfold State.setCoreAt; split <;> rfl
@[simp] theorem State.setCoreAt_free : (x.setCoreAt n c).free = x.free := by unfold State.setCoreAt; split <;> rfl
end

section
variable (x : State) (n : Nat) (f : Core → Core)
@[simp] theorem State.onCore_focus : (x.onCore n f).focus = x.focus := State.setCoreAt_focus ..
@[simp] theorem State.onCore_dcus : (x.onCore n f).dcus = x.dcus := State.setCoreAt_dcus ..
@[simp] theorem State.onCore_period : (x.onCore n f).period = x.period := State.setCoreAt_period ..
@[simp] theorem State.onCore_wall : (x.onCore n f).wall = x.wall := State.setCoreAt_wall ..
@[simp] theorem State.onCore_boundary : (x.onCore n f).boundary = x.boundary := State.setCoreAt_boundary ..
@[simp] theorem State.onCore_regions : (x.onCore n f).regions = x.regions := State.setCoreAt_regions ..
@[simp] theorem State.onCore_mem : (x.onCore n f).mem = x.mem := State.setCoreAt_mem ..
@[simp] theorem State.onCore_poison : (x.onCore n f).poison = x.poison := State.setCoreAt_poison ..
@[simp] theorem State.onCore_rdc : (x.onCore n f).rdc = x.rdc := State.setCoreAt_rdc ..
@[simp] theorem State.onCore_l2 : (x.onCore n f).l2 = x.l2 := State.setCoreAt_l2 ..
@[simp] theorem State.onCore_hbm : (x.onCore n f).hbm = x.hbm := State.setCoreAt_hbm ..
@[simp] theorem State.onCore_vertex : (x.onCore n f).vertex = x.vertex := State.setCoreAt_vertex ..
@[simp] theorem State.onCore_pbc : (x.onCore n f).pbc = x.pbc := State.setCoreAt_pbc ..
@[simp] theorem State.onCore_tables : (x.onCore n f).tables = x.tables := State.setCoreAt_tables ..
@[simp] theorem State.onCore_badTables : (x.onCore n f).badTables = x.badTables := State.setCoreAt_badTables ..
@[simp] theorem State.onCore_lattice : (x.onCore n f).lattice = x.lattice := State.setCoreAt_lattice ..
@[simp] theorem State.onCore_myMod : (x.onCore n f).myMod = x.myMod := State.setCoreAt_myMod ..
@[simp] theorem State.onCore_xchg : (x.onCore n f).xchg = x.xchg := State.setCoreAt_xchg ..
@[simp] theorem State.onCore_trust : (x.onCore n f).trust = x.trust := State.setCoreAt_trust ..
@[simp] theorem State.onCore_spdm : (x.onCore n f).spdm = x.spdm := State.setCoreAt_spdm ..
@[simp] theorem State.onCore_ctl : (x.onCore n f).ctl = x.ctl := State.setCoreAt_ctl ..
@[simp] theorem State.onCore_adrift : (x.onCore n f).adrift = x.adrift := State.setCoreAt_adrift ..
@[simp] theorem State.onCore_away : (x.onCore n f).away = x.away := State.setCoreAt_away ..
@[simp] theorem State.onCore_orphans : (x.onCore n f).orphans = x.orphans := State.setCoreAt_orphans ..
@[simp] theorem State.onCore_delayed : (x.onCore n f).delayed = x.delayed := State.setCoreAt_delayed ..
@[simp] theorem State.onCore_irqs : (x.onCore n f).irqs = x.irqs := State.setCoreAt_irqs ..
@[simp] theorem State.onCore_agenda : (x.onCore n f).agenda = x.agenda := State.setCoreAt_agenda ..
@[simp] theorem State.onCore_norder : (x.onCore n f).norder = x.norder := State.setCoreAt_norder ..
@[simp] theorem State.onCore_nuid : (x.onCore n f).nuid = x.nuid := State.setCoreAt_nuid ..
@[simp] theorem State.onCore_free : (x.onCore n f).free = x.free := State.setCoreAt_free ..
end

section
variable (x : State) (n : Nat) (f : Untimed → Untimed)
@[simp] theorem State.onUn_focus : (x.onUn n f).focus = x.focus := State.onCore_focus ..
@[simp] theorem State.onUn_dcus : (x.onUn n f).dcus = x.dcus := State.onCore_dcus ..
@[simp] theorem State.onUn_period : (x.onUn n f).period = x.period := State.onCore_period ..
@[simp] theorem State.onUn_wall : (x.onUn n f).wall = x.wall := State.onCore_wall ..
@[simp] theorem State.onUn_boundary : (x.onUn n f).boundary = x.boundary := State.onCore_boundary ..
@[simp] theorem State.onUn_regions : (x.onUn n f).regions = x.regions := State.onCore_regions ..
@[simp] theorem State.onUn_mem : (x.onUn n f).mem = x.mem := State.onCore_mem ..
@[simp] theorem State.onUn_poison : (x.onUn n f).poison = x.poison := State.onCore_poison ..
@[simp] theorem State.onUn_rdc : (x.onUn n f).rdc = x.rdc := State.onCore_rdc ..
@[simp] theorem State.onUn_l2 : (x.onUn n f).l2 = x.l2 := State.onCore_l2 ..
@[simp] theorem State.onUn_hbm : (x.onUn n f).hbm = x.hbm := State.onCore_hbm ..
@[simp] theorem State.onUn_vertex : (x.onUn n f).vertex = x.vertex := State.onCore_vertex ..
@[simp] theorem State.onUn_pbc : (x.onUn n f).pbc = x.pbc := State.onCore_pbc ..
@[simp] theorem State.onUn_tables : (x.onUn n f).tables = x.tables := State.onCore_tables ..
@[simp] theorem State.onUn_badTables : (x.onUn n f).badTables = x.badTables := State.onCore_badTables ..
@[simp] theorem State.onUn_lattice : (x.onUn n f).lattice = x.lattice := State.onCore_lattice ..
@[simp] theorem State.onUn_myMod : (x.onUn n f).myMod = x.myMod := State.onCore_myMod ..
@[simp] theorem State.onUn_xchg : (x.onUn n f).xchg = x.xchg := State.onCore_xchg ..
@[simp] theorem State.onUn_trust : (x.onUn n f).trust = x.trust := State.onCore_trust ..
@[simp] theorem State.onUn_spdm : (x.onUn n f).spdm = x.spdm := State.onCore_spdm ..
@[simp] theorem State.onUn_ctl : (x.onUn n f).ctl = x.ctl := State.onCore_ctl ..
@[simp] theorem State.onUn_adrift : (x.onUn n f).adrift = x.adrift := State.onCore_adrift ..
@[simp] theorem State.onUn_away : (x.onUn n f).away = x.away := State.onCore_away ..
@[simp] theorem State.onUn_orphans : (x.onUn n f).orphans = x.orphans := State.onCore_orphans ..
@[simp] theorem State.onUn_delayed : (x.onUn n f).delayed = x.delayed := State.onCore_delayed ..
@[simp] theorem State.onUn_irqs : (x.onUn n f).irqs = x.irqs := State.onCore_irqs ..
@[simp] theorem State.onUn_agenda : (x.onUn n f).agenda = x.agenda := State.onCore_agenda ..
@[simp] theorem State.onUn_norder : (x.onUn n f).norder = x.norder := State.onCore_norder ..
@[simp] theorem State.onUn_nuid : (x.onUn n f).nuid = x.nuid := State.onCore_nuid ..
@[simp] theorem State.onUn_free : (x.onUn n f).free = x.free := State.onCore_free ..
end

section
variable (x : State) (n : Nat) (f : Timed → Timed)
@[simp] theorem State.onTimed_focus : (x.onTimed n f).focus = x.focus := State.onCore_focus ..
@[simp] theorem State.onTimed_dcus : (x.onTimed n f).dcus = x.dcus := State.onCore_dcus ..
@[simp] theorem State.onTimed_period : (x.onTimed n f).period = x.period := State.onCore_period ..
@[simp] theorem State.onTimed_wall : (x.onTimed n f).wall = x.wall := State.onCore_wall ..
@[simp] theorem State.onTimed_boundary : (x.onTimed n f).boundary = x.boundary := State.onCore_boundary ..
@[simp] theorem State.onTimed_regions : (x.onTimed n f).regions = x.regions := State.onCore_regions ..
@[simp] theorem State.onTimed_mem : (x.onTimed n f).mem = x.mem := State.onCore_mem ..
@[simp] theorem State.onTimed_poison : (x.onTimed n f).poison = x.poison := State.onCore_poison ..
@[simp] theorem State.onTimed_rdc : (x.onTimed n f).rdc = x.rdc := State.onCore_rdc ..
@[simp] theorem State.onTimed_l2 : (x.onTimed n f).l2 = x.l2 := State.onCore_l2 ..
@[simp] theorem State.onTimed_hbm : (x.onTimed n f).hbm = x.hbm := State.onCore_hbm ..
@[simp] theorem State.onTimed_vertex : (x.onTimed n f).vertex = x.vertex := State.onCore_vertex ..
@[simp] theorem State.onTimed_pbc : (x.onTimed n f).pbc = x.pbc := State.onCore_pbc ..
@[simp] theorem State.onTimed_tables : (x.onTimed n f).tables = x.tables := State.onCore_tables ..
@[simp] theorem State.onTimed_badTables : (x.onTimed n f).badTables = x.badTables := State.onCore_badTables ..
@[simp] theorem State.onTimed_lattice : (x.onTimed n f).lattice = x.lattice := State.onCore_lattice ..
@[simp] theorem State.onTimed_myMod : (x.onTimed n f).myMod = x.myMod := State.onCore_myMod ..
@[simp] theorem State.onTimed_xchg : (x.onTimed n f).xchg = x.xchg := State.onCore_xchg ..
@[simp] theorem State.onTimed_trust : (x.onTimed n f).trust = x.trust := State.onCore_trust ..
@[simp] theorem State.onTimed_spdm : (x.onTimed n f).spdm = x.spdm := State.onCore_spdm ..
@[simp] theorem State.onTimed_ctl : (x.onTimed n f).ctl = x.ctl := State.onCore_ctl ..
@[simp] theorem State.onTimed_adrift : (x.onTimed n f).adrift = x.adrift := State.onCore_adrift ..
@[simp] theorem State.onTimed_away : (x.onTimed n f).away = x.away := State.onCore_away ..
@[simp] theorem State.onTimed_orphans : (x.onTimed n f).orphans = x.orphans := State.onCore_orphans ..
@[simp] theorem State.onTimed_delayed : (x.onTimed n f).delayed = x.delayed := State.onCore_delayed ..
@[simp] theorem State.onTimed_irqs : (x.onTimed n f).irqs = x.irqs := State.onCore_irqs ..
@[simp] theorem State.onTimed_agenda : (x.onTimed n f).agenda = x.agenda := State.onCore_agenda ..
@[simp] theorem State.onTimed_norder : (x.onTimed n f).norder = x.norder := State.onCore_norder ..
@[simp] theorem State.onTimed_nuid : (x.onTimed n f).nuid = x.nuid := State.onCore_nuid ..
@[simp] theorem State.onTimed_free : (x.onTimed n f).free = x.free := State.onCore_free ..
end

section
variable (x : State) (n : Nat) (f : Dcu → Dcu)
@[simp] theorem State.onDcu_cores : (x.onDcu n f).cores = x.cores := by unfold State.onDcu; split <;> rfl
@[simp] theorem State.onDcu_focus : (x.onDcu n f).focus = x.focus := by unfold State.onDcu; split <;> rfl
@[simp] theorem State.onDcu_period : (x.onDcu n f).period = x.period := by unfold State.onDcu; split <;> rfl
@[simp] theorem State.onDcu_wall : (x.onDcu n f).wall = x.wall := by unfold State.onDcu; split <;> rfl
@[simp] theorem State.onDcu_boundary : (x.onDcu n f).boundary = x.boundary := by unfold State.onDcu; split <;> rfl
@[simp] theorem State.onDcu_regions : (x.onDcu n f).regions = x.regions := by unfold State.onDcu; split <;> rfl
@[simp] theorem State.onDcu_mem : (x.onDcu n f).mem = x.mem := by unfold State.onDcu; split <;> rfl
@[simp] theorem State.onDcu_poison : (x.onDcu n f).poison = x.poison := by unfold State.onDcu; split <;> rfl
@[simp] theorem State.onDcu_rdc : (x.onDcu n f).rdc = x.rdc := by unfold State.onDcu; split <;> rfl
@[simp] theorem State.onDcu_l2 : (x.onDcu n f).l2 = x.l2 := by unfold State.onDcu; split <;> rfl
@[simp] theorem State.onDcu_hbm : (x.onDcu n f).hbm = x.hbm := by unfold State.onDcu; split <;> rfl
@[simp] theorem State.onDcu_vertex : (x.onDcu n f).vertex = x.vertex := by unfold State.onDcu; split <;> rfl
@[simp] theorem State.onDcu_pbc : (x.onDcu n f).pbc = x.pbc := by unfold State.onDcu; split <;> rfl
@[simp] theorem State.onDcu_tables : (x.onDcu n f).tables = x.tables := by unfold State.onDcu; split <;> rfl
@[simp] theorem State.onDcu_badTables : (x.onDcu n f).badTables = x.badTables := by unfold State.onDcu; split <;> rfl
@[simp] theorem State.onDcu_lattice : (x.onDcu n f).lattice = x.lattice := by unfold State.onDcu; split <;> rfl
@[simp] theorem State.onDcu_myMod : (x.onDcu n f).myMod = x.myMod := by unfold State.onDcu; split <;> rfl
@[simp] theorem State.onDcu_xchg : (x.onDcu n f).xchg = x.xchg := by unfold State.onDcu; split <;> rfl
@[simp] theorem State.onDcu_trust : (x.onDcu n f).trust = x.trust := by unfold State.onDcu; split <;> rfl
@[simp] theorem State.onDcu_spdm : (x.onDcu n f).spdm = x.spdm := by unfold State.onDcu; split <;> rfl
@[simp] theorem State.onDcu_ctl : (x.onDcu n f).ctl = x.ctl := by unfold State.onDcu; split <;> rfl
@[simp] theorem State.onDcu_adrift : (x.onDcu n f).adrift = x.adrift := by unfold State.onDcu; split <;> rfl
@[simp] theorem State.onDcu_away : (x.onDcu n f).away = x.away := by unfold State.onDcu; split <;> rfl
@[simp] theorem State.onDcu_orphans : (x.onDcu n f).orphans = x.orphans := by unfold State.onDcu; split <;> rfl
@[simp] theorem State.onDcu_delayed : (x.onDcu n f).delayed = x.delayed := by unfold State.onDcu; split <;> rfl
@[simp] theorem State.onDcu_irqs : (x.onDcu n f).irqs = x.irqs := by unfold State.onDcu; split <;> rfl
@[simp] theorem State.onDcu_agenda : (x.onDcu n f).agenda = x.agenda := by unfold State.onDcu; split <;> rfl
@[simp] theorem State.onDcu_norder : (x.onDcu n f).norder = x.norder := by unfold State.onDcu; split <;> rfl
@[simp] theorem State.onDcu_nuid : (x.onDcu n f).nuid = x.nuid := by unfold State.onDcu; split <;> rfl
@[simp] theorem State.onDcu_free : (x.onDcu n f).free = x.free := by unfold State.onDcu; split <;> rfl
end

section
variable (x : State) (n : Nat) (f : LatticeUnit → LatticeUnit)
@[simp] theorem State.onUnit_cores : (x.onUnit n f).cores = x.cores := by unfold State.onUnit; split <;> rfl
@[simp] theorem State.onUnit_focus : (x.onUnit n f).focus = x.focus := by unfold State.onUnit; split <;> rfl
@[simp] theorem State.onUnit_dcus : (x.onUnit n f).dcus = x.dcus := by unfold State.onUnit; split <;> rfl
@[simp] theorem State.onUnit_period : (x.onUnit n f).period = x.period := by unfold State.onUnit; split <;> rfl
@[simp] theorem State.onUnit_wall : (x.onUnit n f).wall = x.wall := by unfold State.onUnit; split <;> rfl
@[simp] theorem State.onUnit_boundary : (x.onUnit n f).boundary = x.boundary := by unfold State.onUnit; split <;> rfl
@[simp] theorem State.onUnit_regions : (x.onUnit n f).regions = x.regions := by unfold State.onUnit; split <;> rfl
@[simp] theorem State.onUnit_mem : (x.onUnit n f).mem = x.mem := by unfold State.onUnit; split <;> rfl
@[simp] theorem State.onUnit_poison : (x.onUnit n f).poison = x.poison := by unfold State.onUnit; split <;> rfl
@[simp] theorem State.onUnit_rdc : (x.onUnit n f).rdc = x.rdc := by unfold State.onUnit; split <;> rfl
@[simp] theorem State.onUnit_l2 : (x.onUnit n f).l2 = x.l2 := by unfold State.onUnit; split <;> rfl
@[simp] theorem State.onUnit_hbm : (x.onUnit n f).hbm = x.hbm := by unfold State.onUnit; split <;> rfl
@[simp] theorem State.onUnit_vertex : (x.onUnit n f).vertex = x.vertex := by unfold State.onUnit; split <;> rfl
@[simp] theorem State.onUnit_pbc : (x.onUnit n f).pbc = x.pbc := by unfold State.onUnit; split <;> rfl
@[simp] theorem State.onUnit_tables : (x.onUnit n f).tables = x.tables := by unfold State.onUnit; split <;> rfl
@[simp] theorem State.onUnit_badTables : (x.onUnit n f).badTables = x.badTables := by unfold State.onUnit; split <;> rfl
@[simp] theorem State.onUnit_myMod : (x.onUnit n f).myMod = x.myMod := by unfold State.onUnit; split <;> rfl
@[simp] theorem State.onUnit_xchg : (x.onUnit n f).xchg = x.xchg := by unfold State.onUnit; split <;> rfl
@[simp] theorem State.onUnit_trust : (x.onUnit n f).trust = x.trust := by unfold State.onUnit; split <;> rfl
@[simp] theorem State.onUnit_spdm : (x.onUnit n f).spdm = x.spdm := by unfold State.onUnit; split <;> rfl
@[simp] theorem State.onUnit_ctl : (x.onUnit n f).ctl = x.ctl := by unfold State.onUnit; split <;> rfl
@[simp] theorem State.onUnit_adrift : (x.onUnit n f).adrift = x.adrift := by unfold State.onUnit; split <;> rfl
@[simp] theorem State.onUnit_away : (x.onUnit n f).away = x.away := by unfold State.onUnit; split <;> rfl
@[simp] theorem State.onUnit_orphans : (x.onUnit n f).orphans = x.orphans := by unfold State.onUnit; split <;> rfl
@[simp] theorem State.onUnit_delayed : (x.onUnit n f).delayed = x.delayed := by unfold State.onUnit; split <;> rfl
@[simp] theorem State.onUnit_irqs : (x.onUnit n f).irqs = x.irqs := by unfold State.onUnit; split <;> rfl
@[simp] theorem State.onUnit_agenda : (x.onUnit n f).agenda = x.agenda := by unfold State.onUnit; split <;> rfl
@[simp] theorem State.onUnit_norder : (x.onUnit n f).norder = x.norder := by unfold State.onUnit; split <;> rfl
@[simp] theorem State.onUnit_nuid : (x.onUnit n f).nuid = x.nuid := by unfold State.onUnit; split <;> rfl
@[simp] theorem State.onUnit_free : (x.onUnit n f).free = x.free := by unfold State.onUnit; split <;> rfl
end

section
variable (x : State) (n : Nat) (f : Hbm → Hbm)
@[simp] theorem State.onHbm_cores : (x.onHbm n f).cores = x.cores := by unfold State.onHbm; split <;> rfl
@[simp] theorem State.onHbm_focus : (x.onHbm n f).focus = x.focus := by unfold State.onHbm; split <;> rfl
@[simp] theorem State.onHbm_dcus : (x.onHbm n f).dcus = x.dcus := by unfold State.onHbm; split <;> rfl
@[simp] theorem State.onHbm_period : (x.onHbm n f).period = x.period := by unfold State.onHbm; split <;> rfl
@[simp] theorem State.onHbm_wall : (x.onHbm n f).wall = x.wall := by unfold State.onHbm; split <;> rfl
@[simp] theorem State.onHbm_boundary : (x.onHbm n f).boundary = x.boundary := by unfold State.onHbm; split <;> rfl
@[simp] theorem State.onHbm_regions : (x.onHbm n f).regions = x.regions := by unfold State.onHbm; split <;> rfl
@[simp] theorem State.onHbm_mem : (x.onHbm n f).mem = x.mem := by unfold State.onHbm; split <;> rfl
@[simp] theorem State.onHbm_poison : (x.onHbm n f).poison = x.poison := by unfold State.onHbm; split <;> rfl
@[simp] theorem State.onHbm_rdc : (x.onHbm n f).rdc = x.rdc := by unfold State.onHbm; split <;> rfl
@[simp] theorem State.onHbm_l2 : (x.onHbm n f).l2 = x.l2 := by unfold State.onHbm; split <;> rfl
@[simp] theorem State.onHbm_vertex : (x.onHbm n f).vertex = x.vertex := by unfold State.onHbm; split <;> rfl
@[simp] theorem State.onHbm_pbc : (x.onHbm n f).pbc = x.pbc := by unfold State.onHbm; split <;> rfl
@[simp] theorem State.onHbm_tables : (x.onHbm n f).tables = x.tables := by unfold State.onHbm; split <;> rfl
@[simp] theorem State.onHbm_badTables : (x.onHbm n f).badTables = x.badTables := by unfold State.onHbm; split <;> rfl
@[simp] theorem State.onHbm_lattice : (x.onHbm n f).lattice = x.lattice := by unfold State.onHbm; split <;> rfl
@[simp] theorem State.onHbm_myMod : (x.onHbm n f).myMod = x.myMod := by unfold State.onHbm; split <;> rfl
@[simp] theorem State.onHbm_xchg : (x.onHbm n f).xchg = x.xchg := by unfold State.onHbm; split <;> rfl
@[simp] theorem State.onHbm_trust : (x.onHbm n f).trust = x.trust := by unfold State.onHbm; split <;> rfl
@[simp] theorem State.onHbm_spdm : (x.onHbm n f).spdm = x.spdm := by unfold State.onHbm; split <;> rfl
@[simp] theorem State.onHbm_ctl : (x.onHbm n f).ctl = x.ctl := by unfold State.onHbm; split <;> rfl
@[simp] theorem State.onHbm_adrift : (x.onHbm n f).adrift = x.adrift := by unfold State.onHbm; split <;> rfl
@[simp] theorem State.onHbm_away : (x.onHbm n f).away = x.away := by unfold State.onHbm; split <;> rfl
@[simp] theorem State.onHbm_orphans : (x.onHbm n f).orphans = x.orphans := by unfold State.onHbm; split <;> rfl
@[simp] theorem State.onHbm_delayed : (x.onHbm n f).delayed = x.delayed := by unfold State.onHbm; split <;> rfl
@[simp] theorem State.onHbm_irqs : (x.onHbm n f).irqs = x.irqs := by unfold State.onHbm; split <;> rfl
@[simp] theorem State.onHbm_agenda : (x.onHbm n f).agenda = x.agenda := by unfold State.onHbm; split <;> rfl
@[simp] theorem State.onHbm_norder : (x.onHbm n f).norder = x.norder := by unfold State.onHbm; split <;> rfl
@[simp] theorem State.onHbm_nuid : (x.onHbm n f).nuid = x.nuid := by unfold State.onHbm; split <;> rfl
@[simp] theorem State.onHbm_free : (x.onHbm n f).free = x.free := by unfold State.onHbm; split <;> rfl
end

section
variable (x : State) (n : Nat) (f : VertexUnit → VertexUnit)
@[simp] theorem State.onVx_cores : (x.onVx n f).cores = x.cores := by unfold State.onVx; split <;> rfl
@[simp] theorem State.onVx_focus : (x.onVx n f).focus = x.focus := by unfold State.onVx; split <;> rfl
@[simp] theorem State.onVx_dcus : (x.onVx n f).dcus = x.dcus := by unfold State.onVx; split <;> rfl
@[simp] theorem State.onVx_period : (x.onVx n f).period = x.period := by unfold State.onVx; split <;> rfl
@[simp] theorem State.onVx_wall : (x.onVx n f).wall = x.wall := by unfold State.onVx; split <;> rfl
@[simp] theorem State.onVx_boundary : (x.onVx n f).boundary = x.boundary := by unfold State.onVx; split <;> rfl
@[simp] theorem State.onVx_regions : (x.onVx n f).regions = x.regions := by unfold State.onVx; split <;> rfl
@[simp] theorem State.onVx_mem : (x.onVx n f).mem = x.mem := by unfold State.onVx; split <;> rfl
@[simp] theorem State.onVx_poison : (x.onVx n f).poison = x.poison := by unfold State.onVx; split <;> rfl
@[simp] theorem State.onVx_rdc : (x.onVx n f).rdc = x.rdc := by unfold State.onVx; split <;> rfl
@[simp] theorem State.onVx_l2 : (x.onVx n f).l2 = x.l2 := by unfold State.onVx; split <;> rfl
@[simp] theorem State.onVx_hbm : (x.onVx n f).hbm = x.hbm := by unfold State.onVx; split <;> rfl
@[simp] theorem State.onVx_pbc : (x.onVx n f).pbc = x.pbc := by unfold State.onVx; split <;> rfl
@[simp] theorem State.onVx_tables : (x.onVx n f).tables = x.tables := by unfold State.onVx; split <;> rfl
@[simp] theorem State.onVx_badTables : (x.onVx n f).badTables = x.badTables := by unfold State.onVx; split <;> rfl
@[simp] theorem State.onVx_lattice : (x.onVx n f).lattice = x.lattice := by unfold State.onVx; split <;> rfl
@[simp] theorem State.onVx_myMod : (x.onVx n f).myMod = x.myMod := by unfold State.onVx; split <;> rfl
@[simp] theorem State.onVx_xchg : (x.onVx n f).xchg = x.xchg := by unfold State.onVx; split <;> rfl
@[simp] theorem State.onVx_trust : (x.onVx n f).trust = x.trust := by unfold State.onVx; split <;> rfl
@[simp] theorem State.onVx_spdm : (x.onVx n f).spdm = x.spdm := by unfold State.onVx; split <;> rfl
@[simp] theorem State.onVx_ctl : (x.onVx n f).ctl = x.ctl := by unfold State.onVx; split <;> rfl
@[simp] theorem State.onVx_adrift : (x.onVx n f).adrift = x.adrift := by unfold State.onVx; split <;> rfl
@[simp] theorem State.onVx_away : (x.onVx n f).away = x.away := by unfold State.onVx; split <;> rfl
@[simp] theorem State.onVx_orphans : (x.onVx n f).orphans = x.orphans := by unfold State.onVx; split <;> rfl
@[simp] theorem State.onVx_delayed : (x.onVx n f).delayed = x.delayed := by unfold State.onVx; split <;> rfl
@[simp] theorem State.onVx_irqs : (x.onVx n f).irqs = x.irqs := by unfold State.onVx; split <;> rfl
@[simp] theorem State.onVx_agenda : (x.onVx n f).agenda = x.agenda := by unfold State.onVx; split <;> rfl
@[simp] theorem State.onVx_norder : (x.onVx n f).norder = x.norder := by unfold State.onVx; split <;> rfl
@[simp] theorem State.onVx_nuid : (x.onVx n f).nuid = x.nuid := by unfold State.onVx; split <;> rfl
@[simp] theorem State.onVx_free : (x.onVx n f).free = x.free := by unfold State.onVx; split <;> rfl
end

section
variable (x : State) (n : Nat) (f : Pbc → Pbc)
@[simp] theorem State.onPbc_cores : (x.onPbc n f).cores = x.cores := by unfold State.onPbc; split <;> rfl
@[simp] theorem State.onPbc_focus : (x.onPbc n f).focus = x.focus := by unfold State.onPbc; split <;> rfl
@[simp] theorem State.onPbc_dcus : (x.onPbc n f).dcus = x.dcus := by unfold State.onPbc; split <;> rfl
@[simp] theorem State.onPbc_period : (x.onPbc n f).period = x.period := by unfold State.onPbc; split <;> rfl
@[simp] theorem State.onPbc_wall : (x.onPbc n f).wall = x.wall := by unfold State.onPbc; split <;> rfl
@[simp] theorem State.onPbc_boundary : (x.onPbc n f).boundary = x.boundary := by unfold State.onPbc; split <;> rfl
@[simp] theorem State.onPbc_regions : (x.onPbc n f).regions = x.regions := by unfold State.onPbc; split <;> rfl
@[simp] theorem State.onPbc_mem : (x.onPbc n f).mem = x.mem := by unfold State.onPbc; split <;> rfl
@[simp] theorem State.onPbc_poison : (x.onPbc n f).poison = x.poison := by unfold State.onPbc; split <;> rfl
@[simp] theorem State.onPbc_rdc : (x.onPbc n f).rdc = x.rdc := by unfold State.onPbc; split <;> rfl
@[simp] theorem State.onPbc_l2 : (x.onPbc n f).l2 = x.l2 := by unfold State.onPbc; split <;> rfl
@[simp] theorem State.onPbc_hbm : (x.onPbc n f).hbm = x.hbm := by unfold State.onPbc; split <;> rfl
@[simp] theorem State.onPbc_vertex : (x.onPbc n f).vertex = x.vertex := by unfold State.onPbc; split <;> rfl
@[simp] theorem State.onPbc_tables : (x.onPbc n f).tables = x.tables := by unfold State.onPbc; split <;> rfl
@[simp] theorem State.onPbc_badTables : (x.onPbc n f).badTables = x.badTables := by unfold State.onPbc; split <;> rfl
@[simp] theorem State.onPbc_lattice : (x.onPbc n f).lattice = x.lattice := by unfold State.onPbc; split <;> rfl
@[simp] theorem State.onPbc_myMod : (x.onPbc n f).myMod = x.myMod := by unfold State.onPbc; split <;> rfl
@[simp] theorem State.onPbc_xchg : (x.onPbc n f).xchg = x.xchg := by unfold State.onPbc; split <;> rfl
@[simp] theorem State.onPbc_trust : (x.onPbc n f).trust = x.trust := by unfold State.onPbc; split <;> rfl
@[simp] theorem State.onPbc_spdm : (x.onPbc n f).spdm = x.spdm := by unfold State.onPbc; split <;> rfl
@[simp] theorem State.onPbc_ctl : (x.onPbc n f).ctl = x.ctl := by unfold State.onPbc; split <;> rfl
@[simp] theorem State.onPbc_adrift : (x.onPbc n f).adrift = x.adrift := by unfold State.onPbc; split <;> rfl
@[simp] theorem State.onPbc_away : (x.onPbc n f).away = x.away := by unfold State.onPbc; split <;> rfl
@[simp] theorem State.onPbc_orphans : (x.onPbc n f).orphans = x.orphans := by unfold State.onPbc; split <;> rfl
@[simp] theorem State.onPbc_delayed : (x.onPbc n f).delayed = x.delayed := by unfold State.onPbc; split <;> rfl
@[simp] theorem State.onPbc_irqs : (x.onPbc n f).irqs = x.irqs := by unfold State.onPbc; split <;> rfl
@[simp] theorem State.onPbc_agenda : (x.onPbc n f).agenda = x.agenda := by unfold State.onPbc; split <;> rfl
@[simp] theorem State.onPbc_norder : (x.onPbc n f).norder = x.norder := by unfold State.onPbc; split <;> rfl
@[simp] theorem State.onPbc_nuid : (x.onPbc n f).nuid = x.nuid := by unfold State.onPbc; split <;> rfl
@[simp] theorem State.onPbc_free : (x.onPbc n f).free = x.free := by unfold State.onPbc; split <;> rfl
end

section
variable (x : State) (f : Trust → Trust)
@[simp] theorem State.onTrust_cores : (x.onTrust f).cores = x.cores := rfl
@[simp] theorem State.onTrust_focus : (x.onTrust f).focus = x.focus := rfl
@[simp] theorem State.onTrust_dcus : (x.onTrust f).dcus = x.dcus := rfl
@[simp] theorem State.onTrust_period : (x.onTrust f).period = x.period := rfl
@[simp] theorem State.onTrust_wall : (x.onTrust f).wall = x.wall := rfl
@[simp] theorem State.onTrust_boundary : (x.onTrust f).boundary = x.boundary := rfl
@[simp] theorem State.onTrust_regions : (x.onTrust f).regions = x.regions := rfl
@[simp] theorem State.onTrust_mem : (x.onTrust f).mem = x.mem := rfl
@[simp] theorem State.onTrust_poison : (x.onTrust f).poison = x.poison := rfl
@[simp] theorem State.onTrust_rdc : (x.onTrust f).rdc = x.rdc := rfl
@[simp] theorem State.onTrust_l2 : (x.onTrust f).l2 = x.l2 := rfl
@[simp] theorem State.onTrust_hbm : (x.onTrust f).hbm = x.hbm := rfl
@[simp] theorem State.onTrust_vertex : (x.onTrust f).vertex = x.vertex := rfl
@[simp] theorem State.onTrust_pbc : (x.onTrust f).pbc = x.pbc := rfl
@[simp] theorem State.onTrust_tables : (x.onTrust f).tables = x.tables := rfl
@[simp] theorem State.onTrust_badTables : (x.onTrust f).badTables = x.badTables := rfl
@[simp] theorem State.onTrust_lattice : (x.onTrust f).lattice = x.lattice := rfl
@[simp] theorem State.onTrust_myMod : (x.onTrust f).myMod = x.myMod := rfl
@[simp] theorem State.onTrust_xchg : (x.onTrust f).xchg = x.xchg := rfl
@[simp] theorem State.onTrust_spdm : (x.onTrust f).spdm = x.spdm := rfl
@[simp] theorem State.onTrust_ctl : (x.onTrust f).ctl = x.ctl := rfl
@[simp] theorem State.onTrust_adrift : (x.onTrust f).adrift = x.adrift := rfl
@[simp] theorem State.onTrust_away : (x.onTrust f).away = x.away := rfl
@[simp] theorem State.onTrust_orphans : (x.onTrust f).orphans = x.orphans := rfl
@[simp] theorem State.onTrust_delayed : (x.onTrust f).delayed = x.delayed := rfl
@[simp] theorem State.onTrust_irqs : (x.onTrust f).irqs = x.irqs := rfl
@[simp] theorem State.onTrust_agenda : (x.onTrust f).agenda = x.agenda := rfl
@[simp] theorem State.onTrust_norder : (x.onTrust f).norder = x.norder := rfl
@[simp] theorem State.onTrust_nuid : (x.onTrust f).nuid = x.nuid := rfl
@[simp] theorem State.onTrust_free : (x.onTrust f).free = x.free := rfl
end

section
variable (x : State) (f : Exchange → Exchange)
@[simp] theorem State.onXchg_cores : (x.onXchg f).cores = x.cores := rfl
@[simp] theorem State.onXchg_focus : (x.onXchg f).focus = x.focus := rfl
@[simp] theorem State.onXchg_dcus : (x.onXchg f).dcus = x.dcus := rfl
@[simp] theorem State.onXchg_period : (x.onXchg f).period = x.period := rfl
@[simp] theorem State.onXchg_wall : (x.onXchg f).wall = x.wall := rfl
@[simp] theorem State.onXchg_boundary : (x.onXchg f).boundary = x.boundary := rfl
@[simp] theorem State.onXchg_regions : (x.onXchg f).regions = x.regions := rfl
@[simp] theorem State.onXchg_mem : (x.onXchg f).mem = x.mem := rfl
@[simp] theorem State.onXchg_poison : (x.onXchg f).poison = x.poison := rfl
@[simp] theorem State.onXchg_rdc : (x.onXchg f).rdc = x.rdc := rfl
@[simp] theorem State.onXchg_l2 : (x.onXchg f).l2 = x.l2 := rfl
@[simp] theorem State.onXchg_hbm : (x.onXchg f).hbm = x.hbm := rfl
@[simp] theorem State.onXchg_vertex : (x.onXchg f).vertex = x.vertex := rfl
@[simp] theorem State.onXchg_pbc : (x.onXchg f).pbc = x.pbc := rfl
@[simp] theorem State.onXchg_tables : (x.onXchg f).tables = x.tables := rfl
@[simp] theorem State.onXchg_badTables : (x.onXchg f).badTables = x.badTables := rfl
@[simp] theorem State.onXchg_lattice : (x.onXchg f).lattice = x.lattice := rfl
@[simp] theorem State.onXchg_myMod : (x.onXchg f).myMod = x.myMod := rfl
@[simp] theorem State.onXchg_trust : (x.onXchg f).trust = x.trust := rfl
@[simp] theorem State.onXchg_spdm : (x.onXchg f).spdm = x.spdm := rfl
@[simp] theorem State.onXchg_ctl : (x.onXchg f).ctl = x.ctl := rfl
@[simp] theorem State.onXchg_adrift : (x.onXchg f).adrift = x.adrift := rfl
@[simp] theorem State.onXchg_away : (x.onXchg f).away = x.away := rfl
@[simp] theorem State.onXchg_orphans : (x.onXchg f).orphans = x.orphans := rfl
@[simp] theorem State.onXchg_delayed : (x.onXchg f).delayed = x.delayed := rfl
@[simp] theorem State.onXchg_irqs : (x.onXchg f).irqs = x.irqs := rfl
@[simp] theorem State.onXchg_agenda : (x.onXchg f).agenda = x.agenda := rfl
@[simp] theorem State.onXchg_norder : (x.onXchg f).norder = x.norder := rfl
@[simp] theorem State.onXchg_nuid : (x.onXchg f).nuid = x.nuid := rfl
@[simp] theorem State.onXchg_free : (x.onXchg f).free = x.free := rfl
end

section
variable (x : State) (a : Nat) (r : Region)
@[simp] theorem State.putRegion_cores : (x.putRegion a r).cores = x.cores := rfl
@[simp] theorem State.putRegion_focus : (x.putRegion a r).focus = x.focus := rfl
@[simp] theorem State.putRegion_dcus : (x.putRegion a r).dcus = x.dcus := rfl
@[simp] theorem State.putRegion_period : (x.putRegion a r).period = x.period := rfl
@[simp] theorem State.putRegion_wall : (x.putRegion a r).wall = x.wall := rfl
@[simp] theorem State.putRegion_boundary : (x.putRegion a r).boundary = x.boundary := rfl
@[simp] theorem State.putRegion_mem : (x.putRegion a r).mem = x.mem := rfl
@[simp] theorem State.putRegion_poison : (x.putRegion a r).poison = x.poison := rfl
@[simp] theorem State.putRegion_rdc : (x.putRegion a r).rdc = x.rdc := rfl
@[simp] theorem State.putRegion_l2 : (x.putRegion a r).l2 = x.l2 := rfl
@[simp] theorem State.putRegion_hbm : (x.putRegion a r).hbm = x.hbm := rfl
@[simp] theorem State.putRegion_vertex : (x.putRegion a r).vertex = x.vertex := rfl
@[simp] theorem State.putRegion_pbc : (x.putRegion a r).pbc = x.pbc := rfl
@[simp] theorem State.putRegion_tables : (x.putRegion a r).tables = x.tables := rfl
@[simp] theorem State.putRegion_badTables : (x.putRegion a r).badTables = x.badTables := rfl
@[simp] theorem State.putRegion_lattice : (x.putRegion a r).lattice = x.lattice := rfl
@[simp] theorem State.putRegion_myMod : (x.putRegion a r).myMod = x.myMod := rfl
@[simp] theorem State.putRegion_xchg : (x.putRegion a r).xchg = x.xchg := rfl
@[simp] theorem State.putRegion_trust : (x.putRegion a r).trust = x.trust := rfl
@[simp] theorem State.putRegion_spdm : (x.putRegion a r).spdm = x.spdm := rfl
@[simp] theorem State.putRegion_ctl : (x.putRegion a r).ctl = x.ctl := rfl
@[simp] theorem State.putRegion_adrift : (x.putRegion a r).adrift = x.adrift := rfl
@[simp] theorem State.putRegion_away : (x.putRegion a r).away = x.away := rfl
@[simp] theorem State.putRegion_orphans : (x.putRegion a r).orphans = x.orphans := rfl
@[simp] theorem State.putRegion_delayed : (x.putRegion a r).delayed = x.delayed := rfl
@[simp] theorem State.putRegion_irqs : (x.putRegion a r).irqs = x.irqs := rfl
@[simp] theorem State.putRegion_agenda : (x.putRegion a r).agenda = x.agenda := rfl
@[simp] theorem State.putRegion_norder : (x.putRegion a r).norder = x.norder := rfl
@[simp] theorem State.putRegion_nuid : (x.putRegion a r).nuid = x.nuid := rfl
@[simp] theorem State.putRegion_free : (x.putRegion a r).free = x.free := rfl
end

section
variable (x : State) (a : Nat) (f : Region → Region)
@[simp] theorem State.onRegion_cores : (x.onRegion a f).cores = x.cores := by unfold State.onRegion; split <;> rfl
@[simp] theorem State.onRegion_focus : (x.onRegion a f).focus = x.focus := by unfold State.onRegion; split <;> rfl
@[simp] theorem State.onRegion_dcus : (x.onRegion a f).dcus = x.dcus := by unfold State.onRegion; split <;> rfl
@[simp] theorem State.onRegion_period : (x.onRegion a f).period = x.period := by unfold State.onRegion; split <;> rfl
@[simp] theorem State.onRegion_wall : (x.onRegion a f).wall = x.wall := by unfold State.onRegion; split <;> rfl
@[simp] theorem State.onRegion_boundary : (x.onRegion a f).boundary = x.boundary := by unfold State.onRegion; split <;> rfl
@[simp] theorem State.onRegion_mem : (x.onRegion a f).mem = x.mem := by unfold State.onRegion; split <;> rfl
@[simp] theorem State.onRegion_poison : (x.onRegion a f).poison = x.poison := by unfold State.onRegion; split <;> rfl
@[simp] theorem State.onRegion_rdc : (x.onRegion a f).rdc = x.rdc := by unfold State.onRegion; split <;> rfl
@[simp] theorem State.onRegion_l2 : (x.onRegion a f).l2 = x.l2 := by unfold State.onRegion; split <;> rfl
@[simp] theorem State.onRegion_hbm : (x.onRegion a f).hbm = x.hbm := by unfold State.onRegion; split <;> rfl
@[simp] theorem State.onRegion_vertex : (x.onRegion a f).vertex = x.vertex := by unfold State.onRegion; split <;> rfl
@[simp] theorem State.onRegion_pbc : (x.onRegion a f).pbc = x.pbc := by unfold State.onRegion; split <;> rfl
@[simp] theorem State.onRegion_tables : (x.onRegion a f).tables = x.tables := by unfold State.onRegion; split <;> rfl
@[simp] theorem State.onRegion_badTables : (x.onRegion a f).badTables = x.badTables := by unfold State.onRegion; split <;> rfl
@[simp] theorem State.onRegion_lattice : (x.onRegion a f).lattice = x.lattice := by unfold State.onRegion; split <;> rfl
@[simp] theorem State.onRegion_myMod : (x.onRegion a f).myMod = x.myMod := by unfold State.onRegion; split <;> rfl
@[simp] theorem State.onRegion_xchg : (x.onRegion a f).xchg = x.xchg := by unfold State.onRegion; split <;> rfl
@[simp] theorem State.onRegion_trust : (x.onRegion a f).trust = x.trust := by unfold State.onRegion; split <;> rfl
@[simp] theorem State.onRegion_spdm : (x.onRegion a f).spdm = x.spdm := by unfold State.onRegion; split <;> rfl
@[simp] theorem State.onRegion_ctl : (x.onRegion a f).ctl = x.ctl := by unfold State.onRegion; split <;> rfl
@[simp] theorem State.onRegion_adrift : (x.onRegion a f).adrift = x.adrift := by unfold State.onRegion; split <;> rfl
@[simp] theorem State.onRegion_away : (x.onRegion a f).away = x.away := by unfold State.onRegion; split <;> rfl
@[simp] theorem State.onRegion_orphans : (x.onRegion a f).orphans = x.orphans := by unfold State.onRegion; split <;> rfl
@[simp] theorem State.onRegion_delayed : (x.onRegion a f).delayed = x.delayed := by unfold State.onRegion; split <;> rfl
@[simp] theorem State.onRegion_irqs : (x.onRegion a f).irqs = x.irqs := by unfold State.onRegion; split <;> rfl
@[simp] theorem State.onRegion_agenda : (x.onRegion a f).agenda = x.agenda := by unfold State.onRegion; split <;> rfl
@[simp] theorem State.onRegion_norder : (x.onRegion a f).norder = x.norder := by unfold State.onRegion; split <;> rfl
@[simp] theorem State.onRegion_nuid : (x.onRegion a f).nuid = x.nuid := by unfold State.onRegion; split <;> rfl
@[simp] theorem State.onRegion_free : (x.onRegion a f).free = x.free := by unfold State.onRegion; split <;> rfl
end

/-! ### Updates of the state: what is read back -/

@[simp] theorem State.core_setCore (s : State) (c : Core) : (s.setCore c).core = c := by
  simp [State.setCore, State.core, Vector.get_eq_getElem]

@[simp] theorem State.timed_setCore (s : State) (c : Core) : (s.setCore c).timed = c.timed := by simp [State.timed]
@[simp] theorem State.un_setCore (s : State) (c : Core) : (s.setCore c).un = c.un := by simp [State.un]
@[simp] theorem State.core_setTimed (s : State) (t : Timed) : (s.setTimed t).core = { s.core with timed := t } := by
  simp [State.setTimed]
@[simp] theorem State.timed_setTimed (s : State) (t : Timed) : (s.setTimed t).timed = t := by simp [State.timed]
@[simp] theorem State.un_setTimed (s : State) (t : Timed) : (s.setTimed t).un = s.un := by simp [State.un]
@[simp] theorem State.core_setUn (s : State) (u : Untimed) : (s.setUn u).core = { s.core with un := u } := by
  simp [State.setUn]
@[simp] theorem State.timed_setUn (s : State) (u : Untimed) : (s.setUn u).timed = s.timed := by simp [State.timed]
@[simp] theorem State.un_setUn (s : State) (u : Untimed) : (s.setUn u).un = u := by simp [State.un]

/-- Two changes of the focused core: the later stands. -/
@[simp] theorem State.setCore_setCore (s : State) (c d : Core) : (s.setCore c).setCore d = s.setCore d := by
  simp [State.setCore]

@[simp] theorem State.setTimed_setTimed (s : State) (t u : Timed) : (s.setTimed t).setTimed u = s.setTimed u := by
  simp [State.setTimed]

/-- Putting back what is there changes nothing. -/
@[simp] theorem State.setCore_core (s : State) : s.setCore s.core = s := by
  simp [State.setCore, State.core, Vector.get]

@[simp] theorem State.setTimed_timed (s : State) : s.setTimed s.timed = s := s.setCore_core

/-- A change of the focused core leaves every other core as it was. -/
theorem State.setCore_get_other (s : State) (c : Core) (n : Fin 96) (h : n ≠ s.focus) :
    (s.setCore c).cores.get n = s.cores.get n := by
  simp only [State.setCore, Vector.get_eq_getElem]
  exact Vector.getElem_set_ne _ _ fun e => h (Fin.ext e.symm)

theorem State.setCore_get_focus (s : State) (c : Core) : (s.setCore c).cores.get s.focus = c := s.core_setCore c

theorem State.coreAt_setCoreAt (s : State) (n : Nat) (c : Core) (h : n < 96) : (s.setCoreAt n c).coreAt n = c := by
  simp [State.setCoreAt, State.coreAt, h, Vector.get_eq_getElem]

theorem State.coreAt_setCoreAt_other (s : State) (n m : Nat) (c : Core) (h : m ≠ n) (hm : m < 96) :
    (s.setCoreAt n c).coreAt m = s.coreAt m := by
  unfold State.setCoreAt
  split
  · simp only [State.coreAt, hm, dif_pos, Vector.get_eq_getElem]
    exact Vector.getElem_set_ne _ _ fun e => h e.symm
  · rfl

theorem State.coreAt_onCore (s : State) (n : Nat) (f : Core → Core) (h : n < 96) :
    (s.onCore n f).coreAt n = f (s.coreAt n) := s.coreAt_setCoreAt n _ h

theorem State.dcu_onDcu (s : State) (n : Nat) (f : Dcu → Dcu) (h : n < 8) : (s.onDcu n f).dcu n = f (s.dcu n) := by
  simp [State.onDcu, State.dcu, h, Vector.get_eq_getElem]

theorem State.dcu_onDcu_other (s : State) (n m : Nat) (f : Dcu → Dcu) (h : m ≠ n) (hm : m < 8) :
    (s.onDcu n f).dcu m = s.dcu m := by
  unfold State.onDcu
  split
  · simp only [State.dcu, hm, dif_pos, Vector.get_eq_getElem]
    exact Vector.getElem_set_ne _ _ fun e => h e.symm
  · rfl

@[simp] theorem State.trust_onTrust (s : State) (f : Trust → Trust) : (s.onTrust f).trust = f s.trust := rfl
@[simp] theorem State.xchg_onXchg (s : State) (f : Exchange → Exchange) : (s.onXchg f).xchg = f s.xchg := rfl

/-! ### Updates of the timed domain: every field they do not touch -/

section
variable (x : Timed) (l : Nat) (r : Result)
@[simp] theorem Timed.pend_regs : (x.pend l r).regs = x.regs := rfl
@[simp] theorem Timed.pend_seq : (x.pend l r).seq = x.seq := rfl
@[simp] theorem Timed.pend_sp : (x.pend l r).sp = x.sp := rfl
@[simp] theorem Timed.pend_arr : (x.pend l r).arr = x.arr := rfl
@[simp] theorem Timed.pend_flags : (x.pend l r).flags = x.flags := rfl
@[simp] theorem Timed.pend_wins : (x.pend l r).wins = x.wins := rfl
@[simp] theorem Timed.pend_desc : (x.pend l r).desc = x.desc := rfl
end

section
variable (x : Timed) (l : Nat) (r : Result) (p : BitVec 5)
@[simp] theorem Timed.pendFps_regs : (x.pendFps l r p).regs = x.regs := rfl
@[simp] theorem Timed.pendFps_seq : (x.pendFps l r p).seq = x.seq := rfl
@[simp] theorem Timed.pendFps_sp : (x.pendFps l r p).sp = x.sp := rfl
@[simp] theorem Timed.pendFps_arr : (x.pendFps l r p).arr = x.arr := rfl
@[simp] theorem Timed.pendFps_flags : (x.pendFps l r p).flags = x.flags := rfl
@[simp] theorem Timed.pendFps_wins : (x.pendFps l r p).wins = x.wins := rfl
@[simp] theorem Timed.pendFps_desc : (x.pendFps l r p).desc = x.desc := rfl
end

section
variable (x : Timed) (l : Nat) (r : Result) (b : List BstUpd)
@[simp] theorem Timed.pendBst_regs : (x.pendBst l r b).regs = x.regs := rfl
@[simp] theorem Timed.pendBst_seq : (x.pendBst l r b).seq = x.seq := rfl
@[simp] theorem Timed.pendBst_sp : (x.pendBst l r b).sp = x.sp := rfl
@[simp] theorem Timed.pendBst_arr : (x.pendBst l r b).arr = x.arr := rfl
@[simp] theorem Timed.pendBst_flags : (x.pendBst l r b).flags = x.flags := rfl
@[simp] theorem Timed.pendBst_wins : (x.pendBst l r b).wins = x.wins := rfl
@[simp] theorem Timed.pendBst_desc : (x.pendBst l r b).desc = x.desc := rfl
end

section
variable (x : Timed) (l : Nat) (d : BitVec 6) (v : Word)
@[simp] theorem Timed.pendS_regs : (x.pendS l d v).regs = x.regs := rfl
@[simp] theorem Timed.pendS_seq : (x.pendS l d v).seq = x.seq := rfl
@[simp] theorem Timed.pendS_sp : (x.pendS l d v).sp = x.sp := rfl
@[simp] theorem Timed.pendS_arr : (x.pendS l d v).arr = x.arr := rfl
@[simp] theorem Timed.pendS_flags : (x.pendS l d v).flags = x.flags := rfl
@[simp] theorem Timed.pendS_wins : (x.pendS l d v).wins = x.wins := rfl
@[simp] theorem Timed.pendS_desc : (x.pendS l d v).desc = x.desc := rfl
end

section
variable (x : Timed) (f : BitVec 5) (v : FlagState)
@[simp] theorem Timed.setFlag_regs : (x.setFlag f v).regs = x.regs := rfl
@[simp] theorem Timed.setFlag_seq : (x.setFlag f v).seq = x.seq := rfl
@[simp] theorem Timed.setFlag_sp : (x.setFlag f v).sp = x.sp := rfl
@[simp] theorem Timed.setFlag_arr : (x.setFlag f v).arr = x.arr := rfl
@[simp] theorem Timed.setFlag_inFlight : (x.setFlag f v).inFlight = x.inFlight := rfl
@[simp] theorem Timed.setFlag_wins : (x.setFlag f v).wins = x.wins := rfl
@[simp] theorem Timed.setFlag_desc : (x.setFlag f v).desc = x.desc := rfl
end

section
variable (x : Timed) (f : BitVec 5)
@[simp] theorem Timed.claimFlag_regs : (x.claimFlag f).regs = x.regs := by unfold Timed.claimFlag; split <;> rfl
@[simp] theorem Timed.claimFlag_seq : (x.claimFlag f).seq = x.seq := by unfold Timed.claimFlag; split <;> rfl
@[simp] theorem Timed.claimFlag_sp : (x.claimFlag f).sp = x.sp := by unfold Timed.claimFlag; split <;> rfl
@[simp] theorem Timed.claimFlag_arr : (x.claimFlag f).arr = x.arr := by unfold Timed.claimFlag; split <;> rfl
@[simp] theorem Timed.claimFlag_inFlight : (x.claimFlag f).inFlight = x.inFlight := by unfold Timed.claimFlag; split <;> rfl
@[simp] theorem Timed.claimFlag_wins : (x.claimFlag f).wins = x.wins := by unfold Timed.claimFlag; split <;> rfl
@[simp] theorem Timed.claimFlag_desc : (x.claimFlag f).desc = x.desc := by unfold Timed.claimFlag; split <;> rfl
end

section
variable (x : Timed) (f : BitVec 5)
@[simp] theorem Timed.doneFlag_regs : (x.doneFlag f).regs = x.regs := by unfold Timed.doneFlag; split <;> rfl
@[simp] theorem Timed.doneFlag_seq : (x.doneFlag f).seq = x.seq := by unfold Timed.doneFlag; split <;> rfl
@[simp] theorem Timed.doneFlag_sp : (x.doneFlag f).sp = x.sp := by unfold Timed.doneFlag; split <;> rfl
@[simp] theorem Timed.doneFlag_arr : (x.doneFlag f).arr = x.arr := by unfold Timed.doneFlag; split <;> rfl
@[simp] theorem Timed.doneFlag_inFlight : (x.doneFlag f).inFlight = x.inFlight := by unfold Timed.doneFlag; split <;> rfl
@[simp] theorem Timed.doneFlag_wins : (x.doneFlag f).wins = x.wins := by unfold Timed.doneFlag; split <;> rfl
@[simp] theorem Timed.doneFlag_desc : (x.doneFlag f).desc = x.desc := by unfold Timed.doneFlag; split <;> rfl
end

section
variable (x : Timed) (w : BitVec 5) (v : Option Window)
@[simp] theorem Timed.setWin_regs : (x.setWin w v).regs = x.regs := rfl
@[simp] theorem Timed.setWin_seq : (x.setWin w v).seq = x.seq := rfl
@[simp] theorem Timed.setWin_sp : (x.setWin w v).sp = x.sp := rfl
@[simp] theorem Timed.setWin_arr : (x.setWin w v).arr = x.arr := rfl
@[simp] theorem Timed.setWin_inFlight : (x.setWin w v).inFlight = x.inFlight := rfl
@[simp] theorem Timed.setWin_flags : (x.setWin w v).flags = x.flags := rfl
@[simp] theorem Timed.setWin_desc : (x.setWin w v).desc = x.desc := rfl
end

section
variable (x : Timed) (r : BitVec 6) (v : Word)
@[simp] theorem Timed.setS_seq : (x.setS r v).seq = x.seq := rfl
@[simp] theorem Timed.setS_sp : (x.setS r v).sp = x.sp := rfl
@[simp] theorem Timed.setS_arr : (x.setS r v).arr = x.arr := rfl
@[simp] theorem Timed.setS_inFlight : (x.setS r v).inFlight = x.inFlight := rfl
@[simp] theorem Timed.setS_flags : (x.setS r v).flags = x.flags := rfl
@[simp] theorem Timed.setS_wins : (x.setS r v).wins = x.wins := rfl
@[simp] theorem Timed.setS_desc : (x.setS r v).desc = x.desc := rfl
end

section
variable (x : Timed) (r : BitVec 8) (v : VReg)
@[simp] theorem Timed.setV_seq : (x.setV r v).seq = x.seq := rfl
@[simp] theorem Timed.setV_sp : (x.setV r v).sp = x.sp := rfl
@[simp] theorem Timed.setV_arr : (x.setV r v).arr = x.arr := rfl
@[simp] theorem Timed.setV_inFlight : (x.setV r v).inFlight = x.inFlight := rfl
@[simp] theorem Timed.setV_flags : (x.setV r v).flags = x.flags := rfl
@[simp] theorem Timed.setV_wins : (x.setV r v).wins = x.wins := rfl
@[simp] theorem Timed.setV_desc : (x.setV r v).desc = x.desc := rfl
end

section
variable (x : Timed) (r : BitVec 4) (v : MReg)
@[simp] theorem Timed.setM_seq : (x.setM r v).seq = x.seq := rfl
@[simp] theorem Timed.setM_sp : (x.setM r v).sp = x.sp := rfl
@[simp] theorem Timed.setM_arr : (x.setM r v).arr = x.arr := rfl
@[simp] theorem Timed.setM_inFlight : (x.setM r v).inFlight = x.inFlight := rfl
@[simp] theorem Timed.setM_flags : (x.setM r v).flags = x.flags := rfl
@[simp] theorem Timed.setM_wins : (x.setM r v).wins = x.wins := rfl
@[simp] theorem Timed.setM_desc : (x.setM r v).desc = x.desc := rfl
end

section
variable (x : Timed) (r : BitVec 12) (v : BitVec 4096)
@[simp] theorem Timed.setRow_seq : (x.setRow r v).seq = x.seq := rfl
@[simp] theorem Timed.setRow_sp : (x.setRow r v).sp = x.sp := rfl
@[simp] theorem Timed.setRow_arr : (x.setRow r v).arr = x.arr := rfl
@[simp] theorem Timed.setRow_inFlight : (x.setRow r v).inFlight = x.inFlight := rfl
@[simp] theorem Timed.setRow_flags : (x.setRow r v).flags = x.flags := rfl
@[simp] theorem Timed.setRow_wins : (x.setRow r v).wins = x.wins := rfl
@[simp] theorem Timed.setRow_desc : (x.setRow r v).desc = x.desc := rfl
end

section
variable (x : Timed) (r : BitVec 12) (v : Bool)
@[simp] theorem Timed.setOv_seq : (x.setOv r v).seq = x.seq := rfl
@[simp] theorem Timed.setOv_sp : (x.setOv r v).sp = x.sp := rfl
@[simp] theorem Timed.setOv_arr : (x.setOv r v).arr = x.arr := rfl
@[simp] theorem Timed.setOv_inFlight : (x.setOv r v).inFlight = x.inFlight := rfl
@[simp] theorem Timed.setOv_flags : (x.setOv r v).flags = x.flags := rfl
@[simp] theorem Timed.setOv_wins : (x.setOv r v).wins = x.wins := rfl
@[simp] theorem Timed.setOv_desc : (x.setOv r v).desc = x.desc := rfl
end

section
variable (x : Timed) (p : StripePart)
@[simp] theorem Timed.writePart_seq : (x.writePart p).seq = x.seq := rfl
@[simp] theorem Timed.writePart_sp : (x.writePart p).sp = x.sp := rfl
@[simp] theorem Timed.writePart_arr : (x.writePart p).arr = x.arr := rfl
@[simp] theorem Timed.writePart_inFlight : (x.writePart p).inFlight = x.inFlight := rfl
@[simp] theorem Timed.writePart_flags : (x.writePart p).flags = x.flags := rfl
@[simp] theorem Timed.writePart_wins : (x.writePart p).wins = x.wins := rfl
@[simp] theorem Timed.writePart_desc : (x.writePart p).desc = x.desc := rfl
end

section
variable (x : Timed) (n : BitVec 12) (v : Word)
@[simp] theorem Timed.setSpecial_regs : (x.setSpecial n v).regs = x.regs := by unfold Timed.setSpecial; split_ifs <;> rfl
@[simp] theorem Timed.setSpecial_seq : (x.setSpecial n v).seq = x.seq := by unfold Timed.setSpecial; split_ifs <;> rfl
@[simp] theorem Timed.setSpecial_arr : (x.setSpecial n v).arr = x.arr := by unfold Timed.setSpecial; split_ifs <;> rfl
@[simp] theorem Timed.setSpecial_inFlight : (x.setSpecial n v).inFlight = x.inFlight := by unfold Timed.setSpecial; split_ifs <;> rfl
@[simp] theorem Timed.setSpecial_flags : (x.setSpecial n v).flags = x.flags := by unfold Timed.setSpecial; split_ifs <;> rfl
@[simp] theorem Timed.setSpecial_wins : (x.setSpecial n v).wins = x.wins := by unfold Timed.setSpecial; split_ifs <;> rfl
@[simp] theorem Timed.setSpecial_desc : (x.setSpecial n v).desc = x.desc := by unfold Timed.setSpecial; split_ifs <;> rfl
end

section
variable (x : Timed) (n : BitVec 2) (v : BitVec 32)
@[simp] theorem Timed.setApex_regs : (x.setApex n v).regs = x.regs := by unfold Timed.setApex; split_ifs <;> rfl
@[simp] theorem Timed.setApex_seq : (x.setApex n v).seq = x.seq := by unfold Timed.setApex; split_ifs <;> rfl
@[simp] theorem Timed.setApex_arr : (x.setApex n v).arr = x.arr := by unfold Timed.setApex; split_ifs <;> rfl
@[simp] theorem Timed.setApex_inFlight : (x.setApex n v).inFlight = x.inFlight := by unfold Timed.setApex; split_ifs <;> rfl
@[simp] theorem Timed.setApex_flags : (x.setApex n v).flags = x.flags := by unfold Timed.setApex; split_ifs <;> rfl
@[simp] theorem Timed.setApex_wins : (x.setApex n v).wins = x.wins := by unfold Timed.setApex; split_ifs <;> rfl
@[simp] theorem Timed.setApex_desc : (x.setApex n v).desc = x.desc := by unfold Timed.setApex; split_ifs <;> rfl
end

section
variable (x : Timed) (p : BitVec 5)
@[simp] theorem Timed.orFps_regs : (x.orFps p).regs = x.regs := rfl
@[simp] theorem Timed.orFps_seq : (x.orFps p).seq = x.seq := rfl
@[simp] theorem Timed.orFps_arr : (x.orFps p).arr = x.arr := rfl
@[simp] theorem Timed.orFps_inFlight : (x.orFps p).inFlight = x.inFlight := rfl
@[simp] theorem Timed.orFps_flags : (x.orFps p).flags = x.flags := rfl
@[simp] theorem Timed.orFps_wins : (x.orFps p).wins = x.wins := rfl
@[simp] theorem Timed.orFps_desc : (x.orFps p).desc = x.desc := rfl
end

section
variable (x : Timed) (a n : Nat)
@[simp] theorem Timed.clearBst_regs : (x.clearBst a n).regs = x.regs := rfl
@[simp] theorem Timed.clearBst_seq : (x.clearBst a n).seq = x.seq := rfl
@[simp] theorem Timed.clearBst_arr : (x.clearBst a n).arr = x.arr := rfl
@[simp] theorem Timed.clearBst_inFlight : (x.clearBst a n).inFlight = x.inFlight := rfl
@[simp] theorem Timed.clearBst_flags : (x.clearBst a n).flags = x.flags := rfl
@[simp] theorem Timed.clearBst_wins : (x.clearBst a n).wins = x.wins := rfl
@[simp] theorem Timed.clearBst_desc : (x.clearBst a n).desc = x.desc := rfl
end

section
variable (x : Timed) (a : BitVec 18)
@[simp] theorem Timed.transfer_regs : (x.transfer a).regs = x.regs := rfl
@[simp] theorem Timed.transfer_sp : (x.transfer a).sp = x.sp := rfl
@[simp] theorem Timed.transfer_arr : (x.transfer a).arr = x.arr := rfl
@[simp] theorem Timed.transfer_inFlight : (x.transfer a).inFlight = x.inFlight := rfl
@[simp] theorem Timed.transfer_flags : (x.transfer a).flags = x.flags := rfl
@[simp] theorem Timed.transfer_wins : (x.transfer a).wins = x.wins := rfl
@[simp] theorem Timed.transfer_desc : (x.transfer a).desc = x.desc := rfl
end

section
variable (x : Timed) (a : BitVec 18)
@[simp] theorem Timed.rpush_regs : (x.rpush a).regs = x.regs := rfl
@[simp] theorem Timed.rpush_sp : (x.rpush a).sp = x.sp := rfl
@[simp] theorem Timed.rpush_arr : (x.rpush a).arr = x.arr := rfl
@[simp] theorem Timed.rpush_inFlight : (x.rpush a).inFlight = x.inFlight := rfl
@[simp] theorem Timed.rpush_flags : (x.rpush a).flags = x.flags := rfl
@[simp] theorem Timed.rpush_wins : (x.rpush a).wins = x.wins := rfl
@[simp] theorem Timed.rpush_desc : (x.rpush a).desc = x.desc := rfl
end

section
variable (x : Timed) 
@[simp] theorem Timed.rdrop_regs : (x.rdrop ).regs = x.regs := rfl
@[simp] theorem Timed.rdrop_sp : (x.rdrop ).sp = x.sp := rfl
@[simp] theorem Timed.rdrop_arr : (x.rdrop ).arr = x.arr := rfl
@[simp] theorem Timed.rdrop_inFlight : (x.rdrop ).inFlight = x.inFlight := rfl
@[simp] theorem Timed.rdrop_flags : (x.rdrop ).flags = x.flags := rfl
@[simp] theorem Timed.rdrop_wins : (x.rdrop ).wins = x.wins := rfl
@[simp] theorem Timed.rdrop_desc : (x.rdrop ).desc = x.desc := rfl
end

theorem Timed.sreg_setS (t : Timed) (r q : BitVec 6) (v : Word) :
    (t.setS r v).sreg q = if q = r then v else t.sreg q := by
  by_cases h : q = r
  · subst h; simp [Timed.setS, Timed.sreg, Vector.get_eq_getElem]
  · rw [if_neg h]
    simp only [Timed.setS, Timed.sreg, Vector.get_eq_getElem]
    exact Vector.getElem_set_ne _ _ fun e => h (BitVec.eq_of_toNat_eq e.symm)

theorem Timed.mreg_setM (t : Timed) (r q : BitVec 4) (v : MReg) :
    (t.setM r v).mreg q = if q = r then v else t.mreg q := by
  by_cases h : q = r
  · subst h; simp [Timed.setM, Timed.mreg, Vector.get_eq_getElem]
  · rw [if_neg h]
    simp only [Timed.setM, Timed.mreg, Vector.get_eq_getElem]
    exact Vector.getElem_set_ne _ _ fun e => h (BitVec.eq_of_toNat_eq e.symm)

theorem Timed.flag_setFlag (t : Timed) (f g : BitVec 5) (x : FlagState) :
    (t.setFlag f x).flag g = if g = f then x else t.flag g := by
  by_cases h : g = f
  · subst h; simp [Timed.setFlag, Timed.flag, Vector.get_eq_getElem]
  · rw [if_neg h]
    simp only [Timed.setFlag, Timed.flag, Vector.get_eq_getElem]
    exact Vector.getElem_set_ne _ _ fun e => h (BitVec.eq_of_toNat_eq e.symm)

theorem Timed.win_setWin (t : Timed) (w x : BitVec 5) (v : Option Window) :
    (t.setWin w v).win x = if x = w then v else t.win x := by
  by_cases h : x = w
  · subst h; simp [Timed.setWin, Timed.win, Vector.get_eq_getElem]
  · rw [if_neg h]
    simp only [Timed.setWin, Timed.win, Vector.get_eq_getElem]
    exact Vector.getElem_set_ne _ _ fun e => h (BitVec.eq_of_toNat_eq e.symm)

theorem Timed.vreg_setV (t : Timed) (r q : BitVec 8) (v : VReg) :
    (t.setV r v).vreg q = if q = r then v else t.vreg q := by
  rw [Timed.vreg, Timed.setV, Store.get_set]
  exact if_congr ⟨fun h => BitVec.eq_of_toNat_eq h, fun h => by rw [h]⟩ rfl rfl

theorem Timed.row_setRow (t : Timed) (r q : BitVec 12) (v : BitVec 4096) :
    (t.setRow r v).row q = if q = r then v else t.row q := by
  rw [Timed.row, Timed.setRow, Store.get_set]
  exact if_congr ⟨fun h => BitVec.eq_of_toNat_eq h, fun h => by rw [h]⟩ rfl rfl

theorem Timed.stripe_writePart (t : Timed) (p : StripePart) (k : Nat) :
    (t.writePart p).stripe k = if k = p.stripe then mergeStripe (t.stripe p.stripe) p.mask p.data else t.stripe k := by
  rw [Timed.stripe, Timed.writePart, Store.get_set]
  rfl

/-- The flags after a command that names `f` issues (R23). -/
theorem Timed.flag_claimFlag (t : Timed) (f g : BitVec 5) :
    (t.claimFlag f).flag g = if g = f ∧ t.flag g ≠ .error then .clear else t.flag g := by
  unfold Timed.claimFlag
  split
  · rename_i h
    rw [if_neg]
    rintro ⟨rfl, h'⟩; exact h' h
  · rename_i h
    rw [Timed.flag_setFlag]
    by_cases hg : g = f
    · subst hg; rw [if_pos rfl, if_pos ⟨rfl, h⟩]
    · rw [if_neg hg, if_neg fun x => hg x.1]

end Sys2Proof.Machine
end

