-- ==== Sys2Proof/Laws/Home.lean ====
section
/-!
SUPPORT. What an access to a home can do, said once: it changes memory and keeps its canonical form, poison, the bins of
the Lattice, and the tail and the count of lost entries of the health log, and nothing else.
-/

namespace Sys2Proof.Machine

/-- `t` comes from `s` by accesses to homes: memory stays canonical, and only what such accesses change has changed. -/
def State.byHome (s t : State) : Prop :=
  t = { s with mem := t.mem, poison := t.poison, lattice := t.lattice,
               ctl := { s.ctl with hlogTail := t.ctl.hlogTail, hlogLost := t.ctl.hlogLost } } ∧
    (s.mem.wf = true → t.mem.wf = true)

theorem State.byHome_refl (s : State) : s.byHome s := ⟨rfl, id⟩

theorem State.byHome_trans {s t u : State} (h : s.byHome t) (k : t.byHome u) : s.byHome u := by
  refine ⟨?_, k.2 ∘ h.2⟩
  have h1 := h.1
  have k1 := k.1
  rw [h1] at k1
  exact k1

theorem State.byHome_cores {s t : State} (h : s.byHome t) : t.cores = s.cores := by rw [h.1]

theorem State.byHome_period {s t : State} (h : s.byHome t) : t.period = s.period := by rw [h.1]

/-- PWRCAP and every other register of the controller but two of the health log stay (R402). -/
theorem State.byHome_ctl {s t : State} (h : s.byHome t) :
    t.ctl = { s.ctl with hlogTail := t.ctl.hlogTail, hlogLost := t.ctl.hlogLost } := by
  conv_lhs => rw [h.1]

theorem State.byHome_memOk {s t : State} (h : s.byHome t) (hs : s.memOk) : t.memOk := h.2 hs

/-- Accesses to homes keep the bounds of R37 and R400. -/
theorem State.byHome_bounded {s t : State} (h : s.byHome t) (hs : s.boundedRegisters) : t.boundedRegisters := by
  have hp := State.byHome_period h
  have hc := State.byHome_ctl h
  unfold State.boundedRegisters
  rw [hp, hc]
  exact hs

theorem State.byHome_log (s : State) (m : Memory) (a b : BitVec 32) (h : s.mem.wf = true → m.wf = true) :
    s.byHome { s with mem := m, ctl := { s.ctl with hlogTail := a, hlogLost := b } } := ⟨rfl, h⟩

theorem State.health_byHome (s : State) (k u c a d : Nat) : s.byHome (s.health k u c a d) := by
  unfold State.health
  extract_lets ctl at' v
  split
  · exact State.byHome_log s _ _ _ fun h => Memory.wf_write _ _ _ _ h
  · exact State.byHome_log s _ _ _ id

theorem State.onUnit_byHome (s : State) (u : Nat) (f : LatticeUnit → LatticeUnit) : s.byHome (s.onUnit u f) := by
  unfold State.onUnit
  split
  · exact ⟨rfl, id⟩
  · exact s.byHome_refl

theorem State.writeBytes_byHome (s : State) (key n mask v : Nat) : s.byHome (s.writeBytes key n mask v) := by
  induction n generalizing s key mask v with
  | zero => exact s.byHome_refl
  | succ n ih =>
    refine State.byHome_trans ?_ (ih _ _ _ _)
    split
    · exact ⟨rfl, fun h => Memory.wf_setByte _ _ _ h⟩
    · exact s.byHome_refl

theorem State.storeAt_byHome (s : State) (key n mask v : Nat) : s.byHome (s.storeAt key n mask v) :=
  State.byHome_trans (t := { s with poison := s.poison.filter fun g => !(s.covers key n mask g) }) ⟨rfl, id⟩
    (State.writeBytes_byHome ..)

theorem State.addPoison_byHome (s : State) (l : List Nat) : s.byHome (s.addPoison l) := ⟨rfl, id⟩

theorem State.copyBytes_byHome (s : State) (a b n : Nat) : s.byHome (s.copyBytes a b n) :=
  ⟨rfl, fun h => Memory.wf_write _ _ _ _ h⟩

theorem State.writeTarget_byHome (s : State) (u : Nat) (g : LRegion) (k : Nat) (t : Target) :
    s.byHome (s.writeTarget u g k t) := by
  unfold State.writeTarget
  simp only []
  split
  · exact State.storeAt_byHome ..
  · exact State.byHome_trans (State.storeAt_byHome ..) (State.storeAt_byHome ..)

theorem State.applyWhere_byHome (s : State) (u r k : Nat) (p : LRegion → Bin → Bool) :
    s.byHome (s.applyWhere u r k p).1 := by
  unfold State.applyWhere
  split
  · exact s.byHome_refl
  · simp only []
    split
    · exact s.byHome_refl
    · split
      · exact State.byHome_trans (State.onUnit_byHome ..) (State.health_byHome ..)
      · exact State.byHome_trans (State.onUnit_byHome ..) (State.writeTarget_byHome ..)

theorem State.applyKey_byHome (s : State) (u r k : Nat) : s.byHome (s.applyKey u r k).1 := State.applyWhere_byHome ..

theorem State.applyKeys_byHome (s : State) (u r : Nat) (l : List Nat) : s.byHome (s.applyKeys u r l).1 := by
  induction l generalizing s with
  | nil => exact s.byHome_refl
  | cons k l ih => exact State.byHome_trans (State.applyKey_byHome ..) (ih _)

theorem State.applyAll_byHome (s : State) (u r : Nat) : s.byHome (s.applyAll u r).1 := by
  unfold State.applyAll
  split
  · exact s.byHome_refl
  · exact State.applyKeys_byHome ..

theorem State.applyIn_byHome (s : State) (u x : Nat) (l : List (Nat × LRegion)) : s.byHome (s.applyIn u x l).1 := by
  induction l generalizing s with
  | nil => exact s.byHome_refl
  | cons g l ih => exact State.byHome_trans (State.applyKeys_byHome ..) (ih _)

theorem State.applyUnits_byHome (s : State) (x : Nat) (l : List Nat) : s.byHome (s.applyUnits x l).1 := by
  induction l generalizing s with
  | nil => exact s.byHome_refl
  | cons u l ih => exact State.byHome_trans (State.applyIn_byHome ..) (ih _)

theorem State.touchAll_byHome (s : State) (us l : List Nat) : s.byHome (s.touchAll us l).1 := by
  induction l generalizing s with
  | nil => exact s.byHome_refl
  | cons x l ih => exact State.byHome_trans (State.applyUnits_byHome ..) (ih _)

theorem State.touch_byHome (s : State) (key n : Nat) : s.byHome (s.touch key n).1 := State.touchAll_byHome ..

theorem State.homeRead_byHome (s : State) (key n : Nat) : s.byHome (s.homeRead key n).1 := State.touch_byHome ..

theorem State.homeWrite_byHome (s : State) (key n mask v : Nat) : s.byHome (s.homeWrite key n mask v).1 := by
  unfold State.homeWrite
  split
  · exact s.byHome_refl
  · exact State.byHome_trans (State.touch_byHome ..) (State.storeAt_byHome ..)

theorem State.homeReadLong_byHome (s : State) (fuel key n : Nat) : s.byHome (s.homeReadLong fuel key n).1 := by
  induction fuel generalizing s key n with
  | zero => exact s.byHome_refl
  | succ k ih =>
    unfold State.homeReadLong
    split
    · exact s.byHome_refl
    · exact State.byHome_trans (State.homeRead_byHome ..) (ih _ _ _)

theorem State.homeWriteLong_byHome (s : State) (fuel key n v : Nat) : s.byHome (s.homeWriteLong fuel key n v) := by
  induction fuel generalizing s key n v with
  | zero => exact s.byHome_refl
  | succ k ih =>
    unfold State.homeWriteLong
    split
    · exact s.byHome_refl
    · exact State.byHome_trans (State.homeWrite_byHome ..) (ih _ _ _ _)

/-! ### The other places where memory is written -/

/-- A notification goes into a save slot by accesses to its home. -/
theorem State.noteInSlot_byHome (s : State) (base : Nat) (x : Note) : s.byHome (s.noteInSlot base x) :=
  State.byHome_trans (State.homeRead_byHome ..) (State.homeWrite_byHome ..)

/-- A page walk reads its entries at their homes. -/
theorem walkFrom_byHome (e : Seg) (si : BitVec 6) (va : Nat) (write : Bool) (fuel : Nat) (s : State) (level tab : Nat) :
    s.byHome (walkFrom e si va write fuel s level tab).1 := by
  induction fuel generalizing s level tab with
  | zero => exact s.byHome_refl
  | succ k ih =>
    have hx := State.homeRead_byHome s (tab + 8 * levelIndex level va) 8
    rw [walkFrom]
    generalize s.homeRead (tab + 8 * levelIndex level va) 8 = x at hx
    split_ifs
    · exact hx
    · exact hx
    · exact hx
    · exact hx
    · exact hx
    · exact State.byHome_trans hx (ih ..)

/-- The walk for a pageable segment's offset. -/
theorem State.walked_byHome (s : State) (e : Seg) (si : BitVec 6) (off : Nat) (write : Bool) : s.byHome (s.walked e si off write) := by
  unfold State.walked
  exact walkFrom_byHome e si (segBase e + off) write 4 s 1 (segRoot e)

/-- What is left of memory after a loss of state is canonical where memory was. -/
theorem State.lost_memOk (s : State) (c : Control) (h : s.memOk) : (s.lost c).memOk := Memory.wf_filter _ _ h

/-- Memory as it stands after the interleave has changed is canonical, whatever it was before. -/
theorem State.movedMem_wf (s : State) (pos : Nat) : (s.movedMem pos).wf = true :=
  Memory.wf_foldl_setByte _ _ _ _ Memory.wf_nil

/-- A crossing is sealed: only the trust engine's sequences change. -/
@[simp] theorem State.crossOn_mem (s : State) (key : Nat) (p : Option Nat) : (s.crossOn key p).mem = s.mem := by
  unfold State.crossOn
  split <;> rfl

/-- An access through the DCU's port keeps memory canonical. -/
theorem State.dcuWrite_memOk (s : State) (a n v : Nat) (h : s.memOk) : (s.dcuWrite a n v).memOk := by
  unfold State.dcuWrite
  split
  · exact State.byHome_memOk (State.homeWriteLong_byHome ..) h
  · split
    · exact (congrArg (Memory.wf · = true) (State.crossOn_mem ..)).mpr h
    · exact h

/-- Memory at reset lists nothing and is canonical. -/
theorem State.reset_memOk : State.reset.memOk := rfl

/-- Where a byte stands depends on the module's number, the hot-row directories and the tables alone. -/
theorem State.place_congr (s t : State) (hm : t.myMod = s.myMod) (hp : t.pbc = s.pbc) (ht : t.tables = s.tables)
    (key : Nat) : t.place key = s.place key := by
  have hr : ∀ (p : Pbc) (l : List HotRow), redirectIn t p key l = redirectIn s p key l := by
    intro p l
    induction l with
    | nil => rfl
    | cons x l ih => simp only [redirectIn, State.table, State.rowHome, hm, ht, ih]; rfl
  simp only [State.place, State.home, State.pbcOf, hm, hp, hr]

/-- The bytes of a masked write land where they stand: a byte no part of the write stands at reads as before. -/
theorem State.writeBytes_byte_other (s : State) (key n mask v a : Nat) (h : ∀ i, i < n → s.place (key + i) ≠ a) :
    (s.writeBytes key n mask v).mem.byte a = s.mem.byte a := by
  induction n generalizing s key mask v with
  | zero => rfl
  | succ n ih =>
    have h0 : s.place key ≠ a := h 0 (by omega)
    have h1 : ∀ i, i < n → s.place (key + 1 + i) ≠ a := fun i hi => by
      have := h (i + 1) (by omega)
      rwa [show key + (i + 1) = key + 1 + i by omega] at this
    rw [State.writeBytes]
    by_cases hb : mask % 2 = 1
    · rw [if_pos hb, ih]
      · exact (Memory.byte_setByte ..).trans (if_neg h0.symm)
      · intro i hi
        have e := State.place_congr s { s with mem := s.mem.setByte (s.place key) (BitVec.ofNat 8 v) } rfl rfl rfl
          (key + 1 + i)
        exact fun x => h1 i hi (e ▸ x)
    · rw [if_neg hb]
      exact ih _ _ _ _ h1

/-- A store at a home changes no byte that none of its bytes stands at. -/
theorem State.storeAt_byte_other (s : State) (key n mask v a : Nat) (h : ∀ i, i < n → s.place (key + i) ≠ a) :
    (s.storeAt key n mask v).mem.byte a = s.mem.byte a :=
  State.writeBytes_byte_other _ _ _ _ _ _ fun i hi => by
    have e := State.place_congr s { s with poison := s.poison.filter fun g => !(s.covers key n mask g) } rfl rfl rfl
      (key + i)
    exact fun x => h i hi (e ▸ x)

end Sys2Proof.Machine
end

