-- ==== Sys2Proof/Machine/IgsasForms.lean ====
section
/-!
DEFINITION. The assembly language igsas up to one bundle (R6-R8, R139): source words, operands, and the assembly form of every
slot instruction, as a place in its slot's field for each operand. What the fields come to is read back by the decoder, so
whatever R116 reserves is refused.
-/

namespace Sys2Proof.Machine

/-! ### Words of a line -/

/-- What a line is made of (R7, R139). -/
inductive AsmTok where
  | word (w : String)
  | comma
  | colon
  | plus
  | minus
  | bars
deriving DecidableEq, Repr

/-- A character of a word: of a number, name, mnemonic with its suffix, or directive. -/
def asmWordChar (c : Char) : Bool := c.isAlphanum || c == '_' || c == '.'

/-- The word read so far, last character first, is a decimal number that ends in its exponent letter, so that a sign belongs
to it (R139). -/
def asmExponent : List Char → Bool
  | e :: l => (e == 'e' || e == 'E') && !l.isEmpty && l.all fun c => c.isDigit || c == '.'
  | [] => false

/-- A word read so far, last character first, put before what follows. -/
def asmEndWord (acc : List Char) (l : List AsmTok) : List AsmTok :=
  if acc.isEmpty then l else .word (String.ofList acc.reverse) :: l

/-- The words of a line, without its comment; none for a character that no line holds. -/
def asmLex : List Char → List Char → Option (List AsmTok)
  | acc, [] => some (asmEndWord acc [])
  | acc, '/' :: '/' :: _ => some (asmEndWord acc [])
  | acc, '|' :: '|' :: l => (asmLex [] l).map fun t => asmEndWord acc (.bars :: t)
  | acc, c :: l =>
    if asmWordChar c || ((c == '+' || c == '-') && asmExponent acc) then asmLex (c :: acc) l
    else if c.isWhitespace then (asmLex [] l).map (asmEndWord acc)
    else
      match (if c == ',' then some AsmTok.comma else if c == ':' then some .colon else if c == '+' then some .plus
        else if c == '-' then some .minus else none) with
      | some t => (asmLex [] l).map fun x => asmEndWord acc (t :: x)
      | none => none

/-- The words of a line. -/
def asmLine (s : String) : Option (List AsmTok) := asmLex [] s.toList

/-- A list cut at each `x`. -/
def asmCut (x : AsmTok) : List AsmTok → List (List AsmTok)
  | [] => [[]]
  | t :: l =>
    match asmCut x l with
    | [] => [[]]
    | y :: r => if t = x then [] :: y :: r else (t :: y) :: r

/-- The operands of a mnemonic or directive. -/
def asmOperands (l : List AsmTok) : List (List AsmTok) := if l.isEmpty then [] else asmCut .comma l

/-! ### Numbers and names -/

/-- The value of a digit below `base`. -/
def asmDigit (base : Nat) (c : Char) : Option Nat :=
  let n := c.toNat
  let v := if 48 ≤ n ∧ n ≤ 57 then n - 48 else if 97 ≤ n ∧ n ≤ 102 then n - 87 else if 65 ≤ n ∧ n ≤ 70 then n - 55 else 99
  if v < base then some v else none

/-- The value of digits. -/
def asmDigits (base : Nat) : Nat → List Char → Option Nat
  | acc, [] => some acc
  | acc, c :: l =>
    match asmDigit base c with
    | some v => asmDigits base (acc * base + v) l
    | none => none

/-- An unsigned integer in decimal, 0x or 0b form (R139). -/
def asmNat : List Char → Option Nat
  | '0' :: 'x' :: c :: l => asmDigits 16 0 (c :: l)
  | '0' :: 'b' :: c :: l => asmDigits 2 0 (c :: l)
  | c :: l => asmDigits 10 0 (c :: l)
  | [] => none

/-- An identifier: a label, or a name of a window, a segment or a task. -/
def asmName (w : String) : Bool :=
  match w.toList with
  | [] => false
  | c :: l => (c.isAlpha || c == '_') && l.all fun x => x.isAlphanum || x == '_'

/-- A register name of R8: a letter and a number below `n`, as the table prints it. -/
def asmReg (letter : Char) (n : Nat) (w : String) : Option Nat :=
  match w.toList with
  | [] => none
  | c :: l =>
    if c ≠ letter then none
    else
      match l with
      | [] => none
      | '0' :: _ :: _ => none
      | d :: r =>
        match asmDigits 10 0 (d :: r) with
        | some v => if v < n then some v else none
        | none => none

/-- What operands may name: labels and windows. `early` says that labels are still being placed, so that their values may yet
change and no value is held to its range. -/
structure AsmEnv where
  labels : List (String × Int)
  wins : List (String × Nat)
  early : Bool
deriving DecidableEq, Repr

/-- An integer or a label. -/
def AsmEnv.term (e : AsmEnv) (w : String) : Option Int :=
  match asmNat w.toList with
  | some v => some v
  | none => e.labels.lookup w

/-- The rest of a sum of integers and labels. -/
def AsmEnv.sum (e : AsmEnv) : Int → List AsmTok → Option Int
  | acc, [] => some acc
  | acc, .plus :: .word w :: l => (e.term w).bind fun v => e.sum (acc + v) l
  | acc, .minus :: .word w :: l => (e.term w).bind fun v => e.sum (acc - v) l
  | acc, .plus :: .minus :: .word w :: l => (asmNat w.toList).bind fun v => e.sum (acc - v) l
  | acc, .minus :: .minus :: .word w :: l => (asmNat w.toList).bind fun v => e.sum (acc + v) l
  | _, _ => none

/-- Sums and differences of integers and labels (R139). -/
def AsmEnv.value (e : AsmEnv) : List AsmTok → Option Int
  | .word w :: l => (e.term w).bind fun v => e.sum v l
  | .minus :: .word w :: l => (asmNat w.toList).bind fun v => e.sum (-(v : Int)) l
  | _ => none

/-! ### Operands -/

/-- An operand of a form and where its bits stand in the field: a register of each kind, a number from `least` to `most` that is
a multiple of `step` and is stored as its multiple less `less`, a keyword, an element type. -/
inductive AsmOpd where
  | s (lo : Nat)
  | v (lo : Nat)
  | m (lo : Nat)
  | f (lo : Nat)
  | d (lo : Nat)
  | w (lo : Nat)
  | num (lo width : Nat) (least most : Int) (step less : Nat)
  | key (lo : Nat) (words : List (String × Nat))
  | ty (lo : Nat)
deriving DecidableEq, Repr

/-- Element types by their suffixes (R121). -/
def asmTypes : List (String × Nat) :=
  [(".i8", 0), (".n8", 1), (".i16", 2), (".n16", 3), (".i32", 4), (".n32", 5), (".f32", 6), (".bf", 7), (".f8", 8), (".i4", 9),
   (".n4", 10)]

/-- The one word of an operand. -/
def asmWord : List AsmTok → Option String
  | [.word w] => some w
  | _ => none

/-- A register operand. -/
def asmRegOpd (letter : Char) (n lo : Nat) (l : List AsmTok) : Option Nat :=
  ((asmWord l).bind (asmReg letter n)).map (· <<< lo)

/-- The bits of an operand, in their place; none where the operand is not of this kind or out of range (R139). -/
def AsmOpd.read (e : AsmEnv) (l : List AsmTok) : AsmOpd → Option Nat
  | .s lo => asmRegOpd 's' 64 lo l
  | .v lo => asmRegOpd 'v' 160 lo l
  | .m lo => asmRegOpd 'm' 16 lo l
  | .f lo => asmRegOpd 'f' 32 lo l
  | .d lo => asmRegOpd 'd' 16 lo l
  | .w lo => (asmWord l).bind fun x => ((e.wins.lookup x).orElse fun _ => asmReg 'w' 32 x).map (· <<< lo)
  | .num lo width least most step less =>
    (e.value l).bind fun v0 =>
      let v := if e.early && (v0 < least || most < v0 || v0 % step ≠ 0) then least else v0
      if v < least ∨ most < v ∨ v % step ≠ 0 then none
      else some (((v / step - less) % (2 ^ width : Nat)).toNat <<< lo)
  | .key lo words => (asmWord l).bind fun x => (words.lookup x).map (· <<< lo)
  | .ty lo => (asmWord l).bind fun x => (asmTypes.lookup x).map (· <<< lo)

/-- One form of a mnemonic: whether a mask register may follow as the last operand (R206), fixed bits, and the operands. -/
structure AsmForm where
  mask : Bool
  bits : Nat
  ops : List AsmOpd
deriving DecidableEq, Repr

/-- The bits of operands read in order. -/
def asmReadOps (e : AsmEnv) : List AsmOpd → List (List AsmTok) → Option Nat
  | [], [] => some 0
  | o :: os, l :: ls => (o.read e l).bind fun a => (asmReadOps e os ls).map (a ||| ·)
  | _, _ => none

/-- The bits of a form; with a mask register MSK is 1 and MA its number (R206). -/
def AsmForm.read (e : AsmEnv) (x : AsmForm) (l : List (List AsmTok)) : Option Nat :=
  match asmReadOps e x.ops l with
  | some b => some (x.bits ||| b)
  | none => if x.mask then (asmReadOps e (x.ops ++ [.m 20]) l).map (x.bits ||| 0x80000 ||| ·) else none

/-- A mnemonic: its name, its opcode in its slot, the suffixes it takes with what each puts into the field, and its forms. -/
structure AsmOp where
  name : String
  op : Nat
  sufs : List (String × Nat)
  forms : List AsmForm
deriving DecidableEq, Repr

/-- A mnemonic without a suffix of its own, in one form. -/
def asm1 (name : String) (op : Nat) (ops : List AsmOpd) : AsmOp := ⟨name, op, [], [⟨false, 0, ops⟩]⟩

/-! ### The forms of each slot -/

def asmU (lo width : Nat) : AsmOpd := .num lo width 0 (2 ^ width - 1) 1 0
def asmTo (lo width : Nat) (most : Int) : AsmOpd := .num lo width 0 most 1 0
def asmI12 : AsmOpd := .num 0 12 (-2048) 2047 1 0
def asmI14 : AsmOpd := .num 0 14 (-8192) 8191 1 0

/-- R119, R156-R163. -/
def asmBranch : List AsmOp :=
  let t := asmU 0 18
  [asm1 "JMP" 1 [t], asm1 "BEQZ" 2 [.s 18, t], asm1 "BNEZ" 3 [.s 18, t], asm1 "BLTZ" 4 [.s 18, t], asm1 "BGEZ" 5 [.s 18, t],
   asm1 "JMPR" 6 [.s 18], asm1 "BMT" 7 [.m 20, t], asm1 "BMF" 8 [.m 20, t], asm1 "CALL" 9 [t], asm1 "CALLR" 0xA [.s 18],
   asm1 "RET" 0xB [], asm1 "RSPUSH" 0xC [.s 18], asm1 "RSPOP" 0xD [.s 18], asm1 "LOOP" 0x10 [.s 18, .num 15 3 1 6 1 1],
   asm1 "TRAPI" 0x30 [t], asm1 "ABORT" 0x31 [t], asm1 "IDLE" 0x32 [t], asm1 "MARK" 0x33 [t]]

/-- The special registers of R152. -/
def asmSpecials : List (String × Nat) :=
  [("TILEX", 0), ("TILEY", 1), ("TILEZ", 2), ("SPANX", 3), ("SPANY", 4), ("SPANZ", 5), ("TASKIDX", 6), ("REGIONID", 7),
   ("CARDSEQ", 8), ("COREID", 9), ("PREQ", 0xA), ("FPCTL", 0x10), ("FPSTAT", 0x11), ("SHAPE", 0x12), ("RSDEPTH", 0x13),
   ("TCYCLE", 0x14), ("MARKV", 0x15), ("PCV", 0x16), ("l0", 0x18), ("l1", 0x19), ("l2", 0x1A), ("l3", 0x1B), ("l4", 0x1C),
   ("l5", 0x1D)]

/-- Formats SR and SI of R120. -/
def asmSr (x : String × Nat) : AsmOp := asm1 x.1 x.2 [.s 18, .s 12, .s 6]
def asmSi (x : String × Nat) : AsmOp := asm1 x.1 x.2 [.s 18, .s 12, asmI12]
def asmSh (x : String × Nat) : AsmOp := asm1 x.1 x.2 [.s 18, .s 12, asmU 0 6]
def asmUn (x : String × Nat) : AsmOp := asm1 x.1 x.2 [.s 18, .s 12]
def asmSts (x : String × Nat) : AsmOp := asm1 x.1 x.2 [.s 12, asmI12, .s 18]

/-- R120, R144-R154. -/
def asmScalar : List AsmOp :=
  [("ADD", 1), ("SUB", 2), ("AND", 3), ("OR", 4), ("XOR", 5), ("SHL", 6), ("SHR", 7), ("ASR", 8), ("CMPLT.i64", 9),
   ("CMPLT.n64", 0xA), ("CMPEQ", 0xB), ("MIN.i64", 0xC), ("MAX.i64", 0xD), ("MIN.n64", 0xE), ("MAX.n64", 0xF), ("MUL", 0x20),
   ("MULH.i64", 0x21), ("MULH.n64", 0x22), ("DIV.i64", 0x23), ("DIV.n64", 0x24), ("REM.i64", 0x25), ("REM.n64", 0x26),
   ("CAPADD", 0x28), ("FADD.f32", 0x30), ("FSUB.f32", 0x31), ("FMUL.f32", 0x32), ("FMA.f32", 0x33), ("FMIN.f32", 0x34),
   ("FMAX.f32", 0x35), ("FCMPLT.f32", 0x36), ("FCMPEQ.f32", 0x37)].map asmSr ++
  [("ADDI", 0x11), ("ANDI", 0x12), ("ORI", 0x13), ("XORI", 0x14), ("CMPLTI", 0x18), ("CAPADDI", 0x29), ("LDS.n8", 0x40),
   ("LDS.i8", 0x41), ("LDS.n16", 0x42), ("LDS.i16", 0x43), ("LDS.n32", 0x44), ("LDS.i32", 0x45), ("LDS.i64", 0x46)].map asmSi ++
  [("SHLI", 0x15), ("SHRI", 0x16), ("ASRI", 0x17), ("CAPMK", 0x2A)].map asmSh ++
  [("CAPSEG", 0x2B), ("CAPOFF", 0x2C), ("CVT.f32.i64", 0x38), ("CVT.i64.f32", 0x39)].map asmUn ++
  [("STS.n8", 0x48), ("STS.n16", 0x49), ("STS.n32", 0x4A), ("STS.n64", 0x4B)].map asmSts ++
  [asm1 "SETH" 0x19 [.s 18, asmU 16 2, asmU 0 16], asm1 "PUTH" 0x1A [.s 18, asmU 16 2, asmU 0 16],
   asm1 "MFSR" 0x50 [.s 18, .key 0 asmSpecials], asm1 "MTSR" 0x51 [.key 0 asmSpecials, .s 18],
   asm1 "SHAPE" 0x52 [.s 18, .s 12, asmTo 0 2 2]]

/-- The type suffix of a vector instruction (R121). -/
def asmTySufs : List (String × Nat) := asmTypes.map fun x => (x.1, x.2 * 0x8000)

/-- Operand b: a vector register, or a scalar one with SBF 1 (R208); `x` comes before it and `y` after. -/
def asmWithB (mask : Bool) (bits : Nat) (x y : List AsmOpd) : List AsmForm :=
  [⟨mask, bits, x ++ [.v 32] ++ y⟩, ⟨mask, bits ||| 0x4000, x ++ [.s 32] ++ y⟩]

/-- The common forms of the vector slots. -/
def asmVBin (x : String × Nat) : AsmOp := ⟨x.1, x.2, asmTySufs, asmWithB true 0 [.v 48, .v 40] []⟩
def asmVTri (x : String × Nat) : AsmOp := ⟨x.1, x.2, asmTySufs, asmWithB true 0 [.v 48, .v 40] [.v 24]⟩
def asmVUn (x : String × Nat) : AsmOp := ⟨x.1, x.2, asmTySufs, [⟨true, 0, [.v 48, .v 40]⟩]⟩
def asmVRed (x : String × Nat) : AsmOp := ⟨x.1, x.2, asmTySufs, [⟨true, 0, [.s 48, .v 40]⟩]⟩
def asmVCmp (x : String × Nat) : AsmOp := ⟨x.1, x.2, asmTySufs, asmWithB true 0 [.m 48, .v 40] []⟩
def asmVShift (x : String × Nat) : AsmOp :=
  ⟨x.1, x.2, asmTySufs, asmWithB true 0 [.v 48, .v 40] [] ++ [⟨true, 0x2000, [.v 48, .v 40, asmU 0 5]⟩]⟩
def asmVFunnel (x : String × Nat) : AsmOp :=
  ⟨x.1, x.2, asmTySufs, asmWithB true 0 [.v 48, .v 40] [.v 24] ++ asmWithB true 0x2000 [.v 48, .v 40] [asmU 0 5]⟩
def asmVConv (x : String × Nat) : AsmOp := ⟨x.1, x.2, asmTySufs, [⟨true, 0, [.v 48, .v 40, .ty 0, asmU 4 2]⟩]⟩
def asmVZip (x : String × Nat) : AsmOp := ⟨x.1, x.2, asmTySufs, [⟨false, 0, [.v 48, .v 40, .v 32]⟩]⟩

/-- R122, R210-R215. -/
def asmVectorA : List AsmOp :=
  [("VADD", 1), ("VSUB", 2), ("VMUL", 3), ("VMULH", 4), ("VADDS", 5), ("VSUBS", 6), ("VMIN", 7), ("VMAX", 8), ("VAND", 0xB),
   ("VOR", 0xC), ("VXOR", 0xD), ("VANDN", 0xE), ("VMAC", 0x13)].map asmVBin ++
  [("VABS", 9), ("VNEG", 0xA), ("VMOV", 0x29)].map asmVUn ++
  [("VFMA", 0x10), ("VFMS", 0x11), ("VFNMA", 0x12), ("VSCALE", 0x20)].map asmVTri ++
  [("VRSUM", 0x18), ("VRMIN", 0x19), ("VRMAX", 0x1A), ("VRAND", 0x1B), ("VROR", 0x1C)].map asmVRed ++
  [⟨"VBCAST", 0x28, asmTySufs, [⟨true, 0, [.v 48, .v 40, asmU 0 14]⟩, ⟨true, 0x4000, [.v 48, .s 32]⟩]⟩,
   ⟨"VIOTA", 0x2A, asmTySufs, [⟨true, 0, [.v 48, asmI14]⟩, ⟨true, 0x4000, [.v 48, .s 32, asmI14]⟩]⟩,
   ⟨"VMOVI", 0x2B, asmTySufs, [⟨true, 0, [.v 48, asmI14]⟩]⟩]

/-- R123, R216-R228. -/
def asmVectorB : List AsmOp :=
  [("VCMPEQ", 1), ("VCMPNE", 2), ("VCMPLT", 3), ("VCMPLE", 4)].map asmVCmp ++
  [("VSHL", 6), ("VSHR", 7), ("VASR", 8)].map asmVShift ++ [("VFSHL", 9), ("VFSHR", 0xA)].map asmVFunnel ++
  [("VCVT", 0x18), ("VCVTW", 0x19), ("VUNPK4", 0x1B)].map asmVConv ++ [("VZIP", 0x12), ("VUNZIP", 0x13)].map asmVZip ++
  [asmVUn ("VPOPC", 0xC),
   ⟨"VSEL", 5, asmTySufs, asmWithB false 0 [.v 48, .m 20, .v 40] []⟩,
   ⟨"VLUT3", 0xB, asmTySufs, asmWithB true 0 [.v 48, .v 40] [.v 24, asmU 0 8]⟩,
   ⟨"VPERM", 0x10, asmTySufs, [⟨true, 0, [.v 48, .v 40, .v 32]⟩]⟩,
   ⟨"VROT", 0x11, asmTySufs, [⟨true, 0, [.v 48, .v 40, asmI14]⟩, ⟨true, 0x4000, [.v 48, .v 40, .s 32]⟩]⟩,
   ⟨"VCVTS", 0x1A, asmTySufs, asmWithB true 0 [.v 48, .v 40] [.ty 0, asmU 4 2]⟩,
   asm1 "MAND" 0x20 [.m 48, .m 40, .m 32], asm1 "MOR" 0x21 [.m 48, .m 40, .m 32], asm1 "MXOR" 0x22 [.m 48, .m 40, .m 32],
   asm1 "MNOT" 0x23 [.m 48, .m 40], asm1 "MPOPC" 0x24 [.s 48, .m 40],
   ⟨"VEXT", 0x28, asmTySufs, [⟨false, 0, [.s 48, .v 40, asmU 0 14]⟩, ⟨false, 0x4000, [.s 48, .v 40, .s 32]⟩]⟩,
   ⟨"VINS", 0x29, asmTySufs, [⟨false, 0, [.v 48, .s 40, asmU 0 14]⟩, ⟨false, 0x4000, [.v 48, .s 40, .s 32]⟩]⟩,
   ⟨"BSTRD", 0x2C, [], [⟨false, 0, [.s 48, asmU 0 7]⟩, ⟨false, 0x4000, [.s 48, .s 32]⟩]⟩,
   asm1 "BSTCLR" 0x2D [asmU 0 7, .num 7 7 1 128 1 1],
   ⟨"SCSEL", 0x2E, [], [⟨false, 0, [.s 48, .s 40, asmU 4 7, asmU 0 2, asmU 2 2]⟩,
     ⟨false, 0x4000, [.s 48, .s 40, .s 32, asmU 0 2, asmU 2 2]⟩]⟩]

/-- R124, R230. -/
def asmTranspose : List AsmOp :=
  let o := [AsmOpd.v 16, .v 8, asmU 4 4]
  [asm1 "XPOSE.n32" 1 o, asm1 "XPOSE.n16" 2 o, asm1 "XPOSE.n8" 3 o, asm1 "XPOSEB" 4 o]

/-- R125, R237-R248. -/
def asmMatrix : List AsmOp :=
  let sub := asmU 12 4
  let row := asmTo 0 12 1535
  let sel := AsmOpd.key 16 [("APXV", 0), ("APXI", 1), ("APXB", 2)]
  [⟨"MMODE", 1, [(".bf", 0), (".i8", 0x100000), (".n8", 0x200000), (".f8", 0x300000)],
     [⟨false, 0, [.key 22 [("PROD", 0), ("ABSD", 1), ("SQD", 2)], .key 19 [("MIN", 0), ("MAX", 1)]]⟩]⟩,
   asm1 "MCEN" 2 [.m 20], asm1 "MWSH" 3 [.v 16, sub], asm1 "MPUSHA" 4 [.v 16, sub, row], asm1 "MPUSHW" 5 [.v 16, sub, row],
   asm1 "MDRAIN" 6 [row], asm1 "MACCRD" 8 [.v 16, sub, row], asm1 "MACCWR" 9 [row, .v 16, sub], asm1 "MACCZ" 0xA [row],
   ⟨"MACCOV", 0xB, [], [⟨false, 0x30000, [.s 18, row]⟩]⟩, asm1 "APXRST" 0xC [], asm1 "APXWR" 0xD [.s 18, sel],
   asm1 "APXRD" 0xE [.s 18, sel], asm1 "MWCLR" 0xF []]

/-- Formats of the copy slot (R126): the ordering class, and the fields of CA and CF. -/
def asmCls : AsmOpd := asmU 36 4
def asmCaW : AsmOpd := .w 25
def asmCaS : AsmOpd := .s 30
def asmCaD : AsmOpd := .d 21
def asmF : AsmOpd := .f 31
def asmA : AsmOpd := .s 25
def asmB : AsmOpd := .s 19

/-- R126, R177-R197, R345. -/
def asmCopy : List AsmOp :=
  let am := AsmOpd.key 26 [("ROW", 0), ("COL", 1)]
  [asm1 "TLD" 1 [asmCaW, asmCaS, asmCaD, asmCls], asm1 "TST" 2 [asmCaS, asmCaW, asmCaD, asmCls],
   asm1 "TLDM" 3 [asmCaW, asmCaS, asmCaD, asmCls, asmU 0 12],
   asm1 "TLDBP" 4 [asmCaW, asmCaS, asmCaD, asmCls, .num 0 4 2 8 1 0, .key 4 [("ZERO", 0), ("MID", 1)],
     .num 5 16 256 (65535 * 256) 256 0],
   asm1 "PREF" 5 [asmCaS, asmCaD, asmCls], asm1 "STREM" 6 [asmCaS, asmCaW, asmCaD, asmCls],
   asm1 "STREMO" 7 [asmCaS, asmCaW, asmCaD, asmCls],
   asm1 "WCOPY" 8 [asmCaW, .w 0], asm1 "WFILL" 9 [asmCaW, asmCaS],
   asm1 "WDECL" 0xA [.w 0, asmA, .key 5 [("PLAIN", 0), ("SKEW", 1)]], asm1 "WFREE" 0xB [.w 0], asm1 "DSET" 0xC [.d 0, asmA],
   asm1 "VLD" 0x10 [.v 32, .w 27, .s 20, am], asm1 "VST" 0x11 [.w 27, .s 20, .v 32, am],
   asm1 "VLDB" 0x12 [.v 32, .w 27, .s 20], asm1 "VSTM" 0x13 [.w 27, .s 20, .v 32, .m 0, am],
   asm1 "FENCE" 0x18 [.key 19 [("REL", 1), ("ACQ", 2), ("AR", 3)], asmU 24 16,
     .key 21 [("CORE", 0), ("CLUSTER", 1), ("DIE", 2), ("MODULE", 3), ("DOMAIN", 4)]],
   asm1 "BCLOSE" 0x19 [.f 27], asm1 "BWAIT" 0x1A [asmU 32 8]]

/-- R266. -/
def asmVertex : List AsmOp :=
  let n := [(".n32", 0), (".n64", 0x20)]
  let a := [⟨false, 0, [asmF, AsmOpd.w 0, asmB, asmA, asmCls]⟩]
  [asm1 "PHREG" 0x20 [asmF, asmA, .w 0, asmB, .key 7 [("SIG", 0), ("WAIT", 1), ("SW", 2), ("RECV", 3)]],
   asm1 "PHDROP" 0x21 [asmF, asmA, asmB], asm1 "PHARR" 0x22 [asmF, asmA, asmB], asm1 "PHWAIT" 0x23 [asmF, asmA, asmB],
   asm1 "PHARM" 0x24 [asmF, asmA, .w 0, asmB], asm1 "PHRD" 0x25 [asmF, asmA, .w 0, asmB], ⟨"SWLD", 0x26, n, a⟩,
   ⟨"SWST", 0x27, n, [⟨false, 0, [asmF, asmA, .w 0, asmB, asmCls]⟩]⟩] ++
  [("AADD", 0x28), ("AAND", 0x2B), ("AOR", 0x2C), ("AXOR", 0x2D), ("AXCHG", 0x2E), ("ACAS", 0x2F)].map (fun x => ⟨x.1, x.2, n, a⟩) ++
  [("AMIN", 0x29), ("AMAX", 0x2A)].map (fun x => ⟨x.1, x.2, n ++ [(".i32", 0x40), (".i64", 0x60)], a⟩) ++
  [⟨"AFADD.f32", 0x30, [], a⟩]

/-- R294, R318, R351, R352, R355, R383. -/
def asmEngines : List AsmOp :=
  let ask := [asmF, AsmOpd.w 0, asmB, asmA]
  let bag := [asmF, AsmOpd.w 0, .w 5, asmA, asmCls]
  let at' := AsmOpd.num 5 14 0 262128 16 0
  [asm1 "GBAG" 0x38 bag, asm1 "GBAGW" 0x39 bag, asm1 "GROWS" 0x3A bag, asm1 "GPREF" 0x3B [asmF, asmA, asmCls],
   asm1 "GSTAT" 0x3C ask, asm1 "GCNTRD" 0x3D ask, asm1 "GCNTCLR" 0x3E [asmF, asmA], asm1 "GSKRD" 0x3F ask,
   asm1 "LOPEN" 0x40 [asmF, asmU 0 2, asmA, asmB, asmU 2 6, asmCls], asm1 "LPUSH" 0x41 [asmU 16 2, .v 0, .v 8, asmA],
   asm1 "LPUSHS" 0x42 [asmU 16 2, asmA, .v 8], asm1 "LCLOSE" 0x43 [asmF, asmU 0 2], asm1 "LABORT" 0x44 [asmF, asmU 0 2],
   asm1 "LAPPLY" 0x45 [asmF, asmA], asm1 "LSTEP" 0x46 [asmF, asmA], asm1 "LQUERY" 0x47 [asmF, .w 0, at', asmA, asmB],
   asm1 "LSTAT" 0x48 [asmF, .w 0, at', asmA], asm1 "LSPILL" 0x49 [asmF, .w 0, at', asmA],
   asm1 "XSEND" 0x50 [asmF, asmA, asmB, .num 0 19 256 (524287 * 256) 256 0, asmCls], asm1 "XA2A" 0x51 [asmF, .w 0, asmA],
   asm1 "XBKT" 0x52 [asmF, .w 0, asmA], asm1 "XPOOL" 0x53 [asmF, .w 0, asmA], asm1 "PCNT" 0x54 [asmF, .w 0, asmB],
   asm1 "PWAIT" 0x55 [asmF], asm1 "XSTAT" 0x56 ask, asm1 "XCAN" 0x57 [asmF], asm1 "TBARR" 0x58 [asmF, asmA],
   asm1 "TSTAT" 0x59 ask, asm1 "TEPOCH" 0x5A [asmF, .w 0, asmB], asm1 "TLOG" 0x5B ask]

/-- The mnemonics of the slots, with the bits of a field above its opcode. -/
def asmSlots : List (Slot × Nat × List AsmOp) :=
  [(.branch, 24, asmBranch), (.scalar, 24, asmScalar), (.vectorA, 56, asmVectorA), (.vectorB, 56, asmVectorB),
   (.transpose, 24, asmTranspose), (.matrix, 24, asmMatrix), (.copy, 40, asmCopy ++ asmVertex ++ asmEngines)]

/-! ### Instructions -/

/-- The suffix bits of a mnemonic as written; none where the word is not this mnemonic. -/
def AsmOp.suffix (o : AsmOp) (w : String) : Option Nat :=
  if o.sufs.isEmpty then (if w = o.name then some 0 else none)
  else (o.sufs.find? fun x => w = o.name ++ x.1).map (·.2)

/-- A field read by its slot's decoder (R116). -/
def asmField (x : Slot) (w : Nat) : Option Instr :=
  match x with
  | .sync => firstOk [slotOf .sync readSync (BitVec.ofNat 40 w)]
  | .branch => firstOk [slotOf .branch readBranch (BitVec.ofNat 32 w)]
  | .scalar => firstOk [slotOf .scalar readScalar (BitVec.ofNat 32 w)]
  | .vectorA => firstOk [slotOf .vectorA readVectorA (BitVec.ofNat 64 w)]
  | .vectorB => firstOk [slotOf .vectorB readVectorB (BitVec.ofNat 64 w)]
  | .matrix => firstOk [slotOf .matrix readMatrix (BitVec.ofNat 32 w)]
  | .transpose => firstOk [slotOf .transpose readTranspose (BitVec.ofNat 32 w)]
  | .copy => firstOk [slotOf .copy readCopy (BitVec.ofNat 48 w)]

/-- The instruction of a mnemonic and its operands, in a slot's table. -/
def asmIn (e : AsmEnv) (w : String) (l : List (List AsmTok)) (x : Slot × Nat × List AsmOp) : Option Instr :=
  x.2.2.findSome? fun o => (o.suffix w).bind fun sfx =>
    o.forms.findSome? fun f => (f.read e l).bind fun b => asmField x.1 (o.op <<< x.2.1 ||| sfx ||| b)

/-- The modes of the sync slot (R117). -/
def asmSync : List (String × Nat) := [("WAIT", 1), ("WAITANY", 2), ("FCLR", 3), ("WAITC", 4)]

/-- The mask of a list of flags. -/
def asmFlags : List (List AsmTok) → Option Nat
  | [] => some 0
  | l :: ls => ((asmWord l).bind (asmReg 'f' 32)).bind fun n => (asmFlags ls).map (2 ^ n ||| ·)

/-- An instruction as written. -/
def asmInstr (e : AsmEnv) (w : String) (l : List (List AsmTok)) : Option Instr :=
  match asmSync.lookup w with
  | some mode => (asmFlags l).bind fun m => asmField .sync (mode ||| m <<< 8)
  | none => asmSlots.findSome? (asmIn e w l)

/-! ### Bundles -/

/-- An instruction put into its slot: scalar instructions fill slot A and then slot B; none where the slot is taken (R6). -/
def asmPut (b : Bundle) (i : Instr) : Option Bundle :=
  match i.slot? with
  | some .sync => if b.sync.isSome then none else some { b with sync := some i }
  | some .branch => if b.br.isSome then none else some { b with br := some i }
  | some .scalar =>
    if b.sA.isNone then some { b with sA := some i } else if b.sB.isNone then some { b with sB := some i } else none
  | some .vectorA => if b.vA.isSome then none else some { b with vA := some i }
  | some .vectorB => if b.vB.isSome then none else some { b with vB := some i }
  | some .matrix => if b.mx.isSome then none else some { b with mx := some i }
  | some .transpose => if b.tr.isSome then none else some { b with tr := some i }
  | some .copy => if b.cp.isSome then none else some { b with cp := some i }
  | none => none

/-- One part of a bundle: END and LBE set header bits, each at most once (R6, R139). NOP takes no slot; beside other parts, for
which R139 does not give it, it adds nothing (log entry 57, DESIGN CHOICE). An instruction that its operands refuse is left out
while labels are being placed: it is an error of the last placing, whose labels stand. -/
def asmPart (e : AsmEnv) (b : Bundle) : List AsmTok → Option Bundle
  | .word w :: l =>
    if l.isEmpty && w == "END" then (if b.fin then none else some { b with fin := true })
    else if l.isEmpty && w == "LBE" then (if b.lbe then none else some { b with lbe := true })
    else if l.isEmpty && w == "NOP" then some b
    else ((asmInstr e w (asmOperands l)).bind (asmPut b)).orElse fun _ => if e.early then some b else none
  | _ => none

/-- The bundle of a list of parts. -/
def asmBundle (e : AsmEnv) : Bundle → List (List AsmTok) → Option Bundle
  | b, [] => some b
  | b, p :: ps => (asmPart e b p).bind fun x => asmBundle e x ps

end Sys2Proof.Machine
end

