-- ==== Sys2Proof/Machine/Igsas.lean ====
section
/-!
DEFINITION. igsas from source lines to load files (R62, R63, R84, R107, R139-R142, R407), and what the host loader does with a
load file's sections (R142).
-/

namespace Sys2Proof.Machine

/-! ### Values of `.const` (R407) -/

/-- The element formats of `.const`. -/
inductive AsmElem where
  | int (width : Nat) (signed : Bool)
  | f32
  | bf
  | f8
  | bp
deriving DecidableEq, Repr

def asmElems : List (String × AsmElem) :=
  [(".i4", .int 4 true), (".i8", .int 8 true), (".i16", .int 16 true), (".i32", .int 32 true), (".i64", .int 64 true),
   (".n4", .int 4 false), (".n8", .int 8 false), (".n16", .int 16 false), (".n32", .int 32 false), (".n64", .int 64 false),
   (".f32", .f32), (".bf", .bf), (".f8", .f8), (".bp", .bp)]

/-- The exponent of a literal: an optional sign and digits. -/
def asmExp : List Char → Option Int
  | '-' :: c :: l => (asmDigits 10 0 (c :: l)).map fun v => -(v : Int)
  | '+' :: c :: l => (asmDigits 10 0 (c :: l)).map fun v => (v : Int)
  | c :: l => (asmDigits 10 0 (c :: l)).map fun v => (v : Int)
  | [] => none

/-- The digits after the point: the digits so far as a number, and how many stand after the point. -/
def asmFrac (m k : Nat) : List Char → Option (Nat × Int)
  | [] => some (m, -(k : Int))
  | c :: l =>
    if c == 'e' || c == 'E' then (asmExp l).map fun e => (m, e - k)
    else (asmDigit 10 c).bind fun d => asmFrac (10 * m + d) (k + 1) l

/-- A floating-point literal without its sign, as a number times a power of ten (R139). -/
def asmLiteral (m : Nat) : List Char → Option (Nat × Int)
  | [] => none
  | c :: l =>
    if c == '.' then asmFrac m 0 l
    else if c == 'e' || c == 'E' then (asmExp l).map fun e => (m, e)
    else (asmDigit 10 c).bind fun d => asmLiteral (10 * m + d) l

/-- The exact value of a number as written; the digits of a quotient past every rounding are kept as one. -/
def asmDecimal (neg : Bool) (m : Nat) (e : Int) : FVal :=
  if 0 ≤ e then .num neg (m * 10 ^ e.toNat) 0 else quotient (.num neg m 0) (10 ^ (-e).toNat)

/-- A number: a literal that begins with a digit, or an integer. A decimal point may end a literal's digits and may not begin them,
which R139 leaves open (log entry 57, DESIGN CHOICE). -/
def asmNumber (e : AsmEnv) (l : List AsmTok) : Option FVal :=
  let lit := fun (neg : Bool) (w : String) =>
    match w.toList with
    | c :: r => if c.isDigit then (asmLiteral 0 (c :: r)).map fun x => asmDecimal neg x.1 x.2 else none
    | [] => none
  match e.value l with
  | some v => some (ofInt v)
  | none =>
    match l with
    | [.word w] => lit false w
    | [.minus, .word w] => lit true w
    | _ => none

/-- The bytes of a number, least significant first (R1). -/
def asmLe : Nat → Nat → List Byte
  | 0, _ => []
  | n + 1, v => BitVec.ofNat 8 v :: asmLe n (v / 256)

/-- Nibbles in pairs, the first of a pair in bits 3:0 (R62); an odd one is completed with zero (R407). -/
def asmNibbles : List Nat → List Byte
  | [] => []
  | [a] => [BitVec.ofNat 8 a]
  | a :: b :: l => BitVec.ofNat 8 (a + 16 * b) :: asmNibbles l

/-- An integer element; none where the value does not fit its format, which is not asked while labels are being placed. -/
def asmInt (early : Bool) (width : Nat) (signed : Bool) (v : Int) : Option Nat :=
  let lo : Int := if signed then -(2 ^ (width - 1) : Nat) else 0
  let hi : Int := (2 ^ (if signed then width - 1 else width) : Nat)
  if early || decide (lo ≤ v ∧ v < hi) then some (v % (2 ^ width : Nat)).toNat else none

/-- A floating element, converted by RNE; none where its magnitude passes the largest finite value. -/
def asmFloat (early : Bool) (x : AsmElem) (v : FVal) : Option (List Byte) :=
  match x with
  | .f32 => let r := roundTo fp32 false v; if r.overflow && !early then none else some (asmLe 4 (toF32 r.val).toNat)
  | .bf => let r := roundTo bf16 false v; if r.overflow && !early then none else some (asmLe 2 (toBf r.val).toNat)
  | .f8 => let r := roundE4m3 false v; if r.overflow && !early then none else some [toE4m3 r.val]
  | .int _ _ | .bp => none

/-- The planes of a BPN tensor (R63): PSTRIDE is N/8 rounded up to a multiple of 256. -/
def asmPlanes (vals : List Nat) : List Byte :=
  let stride := ((vals.length + 7) / 8 + 255) / 256 * 256
  (List.range 8).flatMap fun p => (List.range stride).map fun j =>
    BitVec.ofNat 8 (((List.range 8).map fun b => if (vals.getD (8 * j + b) 0).testBit (7 - p) then 2 ^ b else 0).sum)

/-- All of a list's results, or none. -/
def asmAll {α β : Type} (f : α → Option β) : List α → Option (List β)
  | [] => some []
  | a :: l => (f a).bind fun b => (asmAll f l).map (b :: ·)

/-- The bytes that `.const` emits. -/
def asmConst (e : AsmEnv) (x : AsmElem) (vals : List (List AsmTok)) : Option (List Byte) :=
  match x with
  | .int 4 g => (asmAll (fun l => (e.value l).bind (asmInt e.early 4 g)) vals).map asmNibbles
  | .int w g => (asmAll (fun l => (e.value l).bind fun v => (asmInt e.early w g v).map (asmLe (w / 8))) vals).map List.flatten
  | .bp => (asmAll (fun l => (e.value l).bind (asmInt e.early 8 true)) vals).map asmPlanes
  | .f32 | .bf | .f8 => (asmAll (fun l => (asmNumber e l).bind (asmFloat e.early x)) vals).map List.flatten

/-! ### Source lines (R139) -/

/-- What a source holds, in order: labels, directives, bundles by their parts. -/
inductive AsmItem where
  | label (w : String)
  | directive (w : String) (ops : List (List AsmTok))
  | bundle (parts : List (List AsmTok))
deriving DecidableEq, Repr

/-- The parts of a line of a bundle, and whether the bundle goes on in the next line. -/
def asmParts (l : List AsmTok) : Option (List (List AsmTok) × Bool) :=
  let p := asmCut .bars l
  let more := p.getLast? == some [] && decide (1 < p.length)
  let q := if more then p.dropLast else p
  if q.any List.isEmpty then none else some (q, more)

/-- The items of source lines. `open'` holds the parts of a bundle whose last line ended in `||`. -/
def asmItems (open' : List (List AsmTok)) : List String → Option (List AsmItem)
  | [] => if open'.isEmpty then some [] else none
  | s :: rest =>
    (asmLine s).bind fun toks =>
      let lab : List AsmItem × List AsmTok :=
        match toks with
        | .word w :: .colon :: l => ([.label w], l)
        | l => ([], l)
      if lab.1.any (fun x => match x with | .label w => !asmName w | _ => false) then none
      else if !open'.isEmpty && !lab.1.isEmpty then none
      else
        match lab.2 with
        | [] => (asmItems open' rest).map (lab.1 ++ ·)
        | .word w :: l =>
          if w.startsWith "." then
            if open'.isEmpty then (asmItems [] rest).map fun x => lab.1 ++ .directive w (asmOperands l) :: x else none
          else
            (asmParts lab.2).bind fun p =>
              let parts := open' ++ p.1
              if p.2 then (asmItems parts rest).map (lab.1 ++ ·)
              else (asmItems [] rest).map fun x => lab.1 ++ .bundle parts :: x
        | _ => none

/-! ### Placing (R140, R141) -/

/-- A segment as `.segment` gives it; `rights` holds the bits of R84's word 0x10. -/
structure AsmSeg where
  idx : Nat
  name : String
  kind : Nat
  base : Nat
  length : Nat
  rights : Nat
deriving DecidableEq, Repr

/-- An image while it is placed: windows bound, the encoding of `.dict`, the dictionary and the code stream (latest first), the
segment that items go to, the bytes of each segment, labels, those that wait for the next bundle or item, and tasks. -/
structure AsmImage where
  wins : List (String × Nat)
  auto : Bool
  dict : List BundleBits
  code : List (BitVec 16)
  hw : Nat
  cur : Option Nat
  inTask : Bool
  data : List (Nat × List Byte)
  labels : List (String × Int)
  waiting : List String
  tasks : List String
deriving DecidableEq, Repr

/-- The start of an image (R140). -/
def AsmImage.start : AsmImage := ⟨[], true, [], [], 0, none, false, [], [], [], []⟩

/-- Where the next bundle or item comes to stand. -/
def AsmImage.here (x : AsmImage) : Int :=
  match x.cur with
  | none => x.hw
  | some i => ((x.data.lookup i).getD []).length

/-- The labels that wait take this place (R7, R141), also where no bundle or item follows them there: the spec gives such a label no
value (log entry 57, DESIGN CHOICE). -/
def AsmImage.settle (x : AsmImage) : AsmImage :=
  { x with labels := x.labels ++ x.waiting.map fun w => (w, x.here), waiting := [] }

/-- A label; none where a label or a task of the image has the name, of which the spec says nothing (log entry 57, DESIGN
CHOICE). -/
def AsmImage.addLabel (x : AsmImage) (w : String) : Option AsmImage :=
  if x.waiting.contains w || (x.labels.lookup w).isSome then none else some { x with waiting := x.waiting ++ [w] }

/-- Halfwords added to the code stream. -/
def AsmImage.emit (x : AsmImage) (l : List (BitVec 16)) : AsmImage :=
  { x with code := l.reverse ++ x.code, hw := x.hw + l.length }

/-- Bytes added to the segment in use. -/
def AsmImage.place (x : AsmImage) (i : Nat) (l : List Byte) : AsmImage :=
  { x with data := (i, ((x.data.lookup i).getD []) ++ l) :: x.data.filter fun d => d.1 ≠ i }

/-- The place of an encoding in a list, latest first, whose oldest stands at 1. -/
def asmIndex (b : BundleBits) : List BundleBits → Option Nat
  | [] => none
  | c :: l => if c = b then some (l.length + 1) else asmIndex b l

/-- A literal bundle: the escape and its 24 halfwords (R110). -/
def asmLiteralBundle (b : BundleBits) : List (BitVec 16) := 0xFFFF :: (List.range 24).map fun i => b.extractLsb' (16 * i) 16

/-- A bundle emitted by its index, or as a literal (R141). -/
def AsmImage.emitBundle (x : AsmImage) (b : BundleBits) : AsmImage :=
  if b = 0 then x.emit [0]
  else if !x.auto then x.emit (asmLiteralBundle b)
  else
    match asmIndex b x.dict with
    | some i => x.emit [BitVec.ofNat 16 i]
    | none =>
      if x.dict.length < 8191 then { x with dict := b :: x.dict }.emit [BitVec.ofNat 16 (x.dict.length + 1)]
      else x.emit (asmLiteralBundle b)

/-- The bits of a `+`-joined list of rights (R84, R140). -/
def asmRights : List AsmTok → Option Nat
  | [.word w] => asmRight w
  | .word w :: .plus :: l => (asmRight w).bind fun a => (asmRights l).map (a ||| ·)
  | _ => none
where
  /-- The bit of one right. -/
  asmRight (w : String) : Option Nat := [("RD", 1), ("WR", 2), ("UPD", 8), ("PAGEABLE", 0x400)].lookup w

/-- An integer operand of a directive, from `lo` to `hi`; while labels are being placed it is not held to its range. -/
def asmArg (e : AsmEnv) (lo hi : Nat) (l : List AsmTok) : Option Nat :=
  (e.value l).bind fun v => if e.early || decide ((lo : Int) ≤ v ∧ v ≤ hi) then some v.toNat else none

/-- The segment of a `.segment`. -/
def asmSegment (e : AsmEnv) (ops : List (List AsmTok)) : Option AsmSeg :=
  match ops with
  | [i, [.word name], [.word kind], base, length, rights] =>
    (asmArg e 0 63 i).bind fun i => ([("GLOBAL", 0), ("HOST", 1), ("PEER", 2)].lookup kind).bind fun k =>
      (asmArg e 0 (2 ^ 52 - 1) base).bind fun b => (asmArg e 0 (2 ^ 58 - 1) length).bind fun n =>
        (asmRights rights).bind fun r => if asmName name then some ⟨i, name, k, b, n, r⟩ else none
  | _ => none

/-- The segments of an image, each index and each name once. -/
def asmSegments (e : AsmEnv) : List AsmItem → Option (List AsmSeg)
  | [] => some []
  | .directive w ops :: l =>
    if w == ".segment" then
      (asmSegment e ops).bind fun g => (asmSegments e l).bind fun gs =>
        if !e.early && gs.any fun h => h.idx == g.idx || h.name == g.name then none else some (g :: gs)
    else asmSegments e l
  | _ :: l => asmSegments e l

/-- A power of two from 1 to 4096. -/
def asmPow2 (n : Nat) : Bool := ((List.range 13).map fun k => 2 ^ k).contains n

/-- `.align` (R140). -/
def AsmImage.align (x : AsmImage) (n : Nat) : AsmImage :=
  match x.cur with
  | none => x.emit (List.replicate ((n - x.hw % n) % n) 0)
  | some i =>
    let y := x.settle
    y.place i (List.replicate ((n - (y.here.toNat) % n) % n) 0)

/-- A directive other than `.image` (R140); `gs` are the segments of the image. A second `.window` of one name in an image is refused,
a window's name is known from its `.window` line on, and a `.const` after a task body is refused until the next `.data`: the spec
says none of these (log entry 57, DESIGN CHOICE). -/
def AsmImage.directive (x : AsmImage) (gs : List AsmSeg) (e : AsmEnv) (w : String) (ops : List (List AsmTok)) : Option AsmImage :=
  match w, ops with
  | ".segment", _ => some x
  | ".window", [[.word name], [.word r]] =>
    if asmName name && (x.wins.lookup name).isNone then
      (asmReg 'w' 32 r).map fun n => { x with wins := (name, n) :: x.wins }
    else none
  | ".dict", [[.word m]] =>
    if m = "AUTO" then some { x with auto := true } else if m = "LITERAL" then some { x with auto := false } else none
  | ".task", [[.word name]] =>
    if x.inTask || !asmName name then none
    else ({ (if x.cur.isSome then x.settle else x) with cur := none, inTask := true, tasks := x.tasks ++ [name] }).addLabel name
  | ".endtask", [] => if x.inTask then some { x with inTask := false } else none
  | ".align", [n] => (asmArg e 1 4096 n).bind fun n => if asmPow2 n then some (x.align n) else if e.early then some x else none
  | ".data", [[.word name]] =>
    if x.inTask then none
    else (gs.find? fun g => g.name == name).map fun g =>
      { (x.settle.place g.idx []) with cur := some g.idx }
  | ".const", [.word sfx] :: v :: vs =>
    match x.cur, asmElems.lookup sfx with
    | some i, some t => (asmConst e t (v :: vs)).map fun b => x.settle.place i b
    | _, _ => none
  | _, _ => none

/-- An item placed. `before` holds the labels of the placing before this one. -/
def AsmImage.item (x : AsmImage) (gs : List AsmSeg) (before : List (String × Int)) (early : Bool) : AsmItem → Option AsmImage
  | .label w => x.addLabel w
  | .directive w ops => x.directive gs ⟨before, x.wins, early⟩ w ops
  | .bundle parts =>
    if x.inTask && x.cur.isNone then
      (asmBundle ⟨before, x.wins, early⟩ Bundle.nop parts).map fun b => x.settle.emitBundle (encodeBundle b)
    else none

/-- The items of an image placed in order. -/
def AsmImage.items (gs : List AsmSeg) (before : List (String × Int)) (early : Bool) : AsmImage → List AsmItem → Option AsmImage
  | x, [] => some x.settle
  | x, i :: l => (x.item gs before early i).bind fun y => AsmImage.items gs before early y l

/-- One placing of an image's items, with the segments that it has. -/
def asmPass (l : List AsmItem) (before : List (String × Int)) (early : Bool) : Option (List AsmSeg × AsmImage) :=
  (asmSegments ⟨before, [], early⟩ l).bind fun gs => (AsmImage.items gs before early .start l).map fun x => (gs, x)

/-- The labels that items bind, in order, not yet placed. -/
def asmNames : List AsmItem → List (String × Int)
  | [] => []
  | .label w :: l => (w, 0) :: asmNames l
  | .directive w ops :: l =>
    match ops with
    | [[.word name]] => if w == ".task" then (name, 0) :: asmNames l else asmNames l
    | _ => asmNames l
  | .bundle _ :: l => asmNames l

/-- Placing repeated until every label stands where the placing before had it, and then once more with every operand held to its
range, which leaves every label where it stands; a bundle's size can depend on the labels it names only through the dictionary
(R141). -/
def asmPlace (l : List AsmItem) : Nat → List (String × Int) → Option (List AsmSeg × AsmImage)
  | 0, _ => none
  | fuel + 1, before =>
    (asmPass l before true).bind fun x =>
      if x.2.labels = before then (asmPass l before false).filter fun y => y.2.labels = before else asmPlace l fuel x.2.labels

/-! ### Load files (R142) -/

/-- A section of a load file: its record's kind, segment, entry and name, and its bytes. -/
structure LoadSection where
  kind : Nat
  seg : Nat
  entry : Nat
  name : List Byte
  bytes : List Byte
deriving DecidableEq, Repr

/-- A load file. -/
structure LoadFile where
  imageId : Nat
  sections : List LoadSection
deriving DecidableEq, Repr

/-- Bytes filled up with zeros to `n`. -/
def padTo (n : Nat) (l : List Byte) : List Byte := l ++ List.replicate (n - l.length) 0

/-- The image: the header of R107 and the dictionary, entry 0 the all-NOP bundle. -/
def imageSection (dict : List BundleBits) : List Byte :=
  asmLe 4 0x31534749 ++ asmLe 4 1 ++ asmLe 8 (dict.length + 1) ++ asmLe 8 64 ++ List.replicate 40 0 ++ List.replicate 48 0 ++
    dict.reverse.flatMap fun b => asmLe 48 b.toNat

/-- An entry of the segment table (R84): index 0 receives EX; an index that no `.segment` names is zero. -/
def segmentEntry (gs : List AsmSeg) (i : Nat) : List Byte :=
  match gs.find? fun g => g.idx == i with
  | none => List.replicate 32 0
  | some g => asmLe 8 g.base ++ asmLe 8 g.length ++ asmLe 8 (g.rights + (if i = 0 then 4 else 0) + 256 * g.kind) ++ asmLe 8 0

/-- The name of a task in its record. -/
def taskName (w : String) : List Byte := padTo 12 ((w.toList.take 12).map fun c => BitVec.ofNat 8 c.toNat)

/-- The load file of a placed image; none where R142 has igsas report an error, or a task is not ended. -/
def loadFileOf (id : Nat) (gs : List AsmSeg) (x : AsmImage) : Option LoadFile :=
  let len := fun (i : Nat) => ((gs.find? fun g => g.idx == i).map (·.length)).getD 0
  if x.inTask || !(gs.any fun g => g.idx == 0) || decide (len 0 % 2 ≠ 0) || decide (262144 < len 0) || decide (len 0 < 2 * x.hw) ||
      x.data.any (fun d => decide (len d.1 < d.2.length)) then none
  else
    let top := gs.foldl (fun n g => max n g.idx) 0
    some ⟨id,
      [⟨0, 0, 0, padTo 12 [], imageSection x.dict⟩,
       ⟨1, 0, 0, padTo 12 [], padTo (len 0) (x.code.reverse.flatMap fun h => asmLe 2 h.toNat)⟩,
       ⟨2, 0, 0, padTo 12 [], (List.range (top + 1)).flatMap (segmentEntry gs)⟩] ++
      ((List.range 64).filterMap fun i => (x.data.lookup i).map fun b => ⟨3, i, 0, padTo 12 [], b⟩) ++
      x.tasks.map fun w => ⟨4, 0, ((x.labels.lookup w).getD 0).toNat, taskName w, []⟩⟩

/-- The items of each `.image` with its operand; none where something stands before the first. -/
def asmImages : List AsmItem → Option (List (List AsmTok × List AsmItem))
  | [] => some []
  | .directive ".image" ops :: l =>
    match ops with
    | [n] => asmRest n [] l
    | _ => none
  | _ :: _ => none
where
  /-- The rest of the image with operand `n`, whose items so far are `acc`, latest first, and the images after it. -/
  asmRest (n : List AsmTok) (acc : List AsmItem) : List AsmItem → Option (List (List AsmTok × List AsmItem))
  | [] => some [(n, acc.reverse)]
  | i :: l =>
    match i with
    | .directive w ops =>
      if w == ".image" then
        match ops with
        | [m] => (asmRest m [] l).map ((n, acc.reverse) :: ·)
        | _ => none
      else asmRest n (i :: acc) l
    | _ => asmRest n (i :: acc) l

/-- The load file of one image, its IMAGE_ID nonzero. -/
def asmImage (m : List AsmTok × List AsmItem) : Option LoadFile :=
  (asmPlace m.2 (m.2.length + 2) (asmNames m.2)).bind fun x =>
    (asmArg ⟨x.2.labels, [], false⟩ 1 (2 ^ 64 - 1) m.1).bind fun id => loadFileOf id x.1 x.2

/-- igsas: the load files of a source, one for each image; none at an assembly error (R6, R7, R139-R142). -/
def igsas (lines : List String) : Option (List LoadFile) :=
  (asmItems [] lines).bind fun items => (asmImages items).bind (asmAll asmImage)

/-- The records and the sections' bytes, each section from a multiple of 64 bytes on; `off` is where the next one may start. -/
def LoadFile.lay : Nat → List LoadSection → List Byte × List Byte
  | _, [] => ([], [])
  | off, x :: l =>
    let task := decide (x.kind = 4)
    let padded := padTo ((x.bytes.length + 63) / 64 * 64) x.bytes
    let r := LoadFile.lay (if task then off else off + padded.length) l
    (asmLe 1 x.kind ++ asmLe 1 x.seg ++ asmLe 2 0 ++ asmLe 4 (if task then 0 else off) ++
        asmLe 8 (if task then 0 else x.bytes.length) ++ asmLe 4 x.entry ++ x.name ++ r.1,
      (if task then [] else padded) ++ r.2)

/-- The bytes of a load file (R142). -/
def LoadFile.bytes (x : LoadFile) : List Byte :=
  let n := x.sections.length
  let first := (64 + 32 * n + 63) / 64 * 64
  let r := LoadFile.lay first x.sections
  padTo 64 (asmLe 4 0x4C534749 ++ asmLe 2 1 ++ asmLe 2 n ++ asmLe 8 x.imageId) ++ padTo (first - 64) r.1 ++ r.2

/-! ### The host loader (R142) -/

/-- A list of bytes as a number, the first lowest. -/
def asmBytes (l : List Byte) : Nat := l.foldr (fun b n => b.toNat + 256 * n) 0

/-- Bytes the host writes at a location, sector by sector (`fuel` sectors at most). -/
def State.hostPut (s : State) : Nat → Nat → List Byte → State
  | 0, _, _ => s
  | fuel + 1, key, l =>
    if l.isEmpty then s
    else
      let c := l.take (256 - key % 256)
      (s.homeWrite key c.length (2 ^ c.length - 1) (asmBytes c)).1.hostPut fuel (key + c.length) (l.drop c.length)

/-- Bytes the host writes through an entry of a segment table, from offset `off` on: where it lies, for a pageable segment
through its mapping. A byte whose page is not mapped is not written. -/
def State.segPut (s : State) (g : Seg) (i : Nat) : Nat → Nat → List Byte → State
  | 0, _, _ => s
  | fuel + 1, off, l =>
    if l.isEmpty then s
    else
      let c := l.take 256
      let tlb := match walk s g (BitVec.ofNat 6 i) off true with
        | .ok t => [t]
        | .error _ => []
      let s1 := match placeOf g (BitVec.ofNat 6 i) tlb off true with
        | some key => s.hostPut 2 key c
        | none => s
      s1.segPut g i fuel (off + 256) (l.drop 256)

/-- One section put into memory. The code and the data go by the entry that the segment table in memory holds, which the host
may have completed (HOME_MOD, HOME_UNIT, PEER, PT_ROOT). -/
def State.putSection (s : State) (image segtab : Nat) (x : LoadSection) : State :=
  let entry := fun (i : Nat) => segOf (s.mem.read segtab (32 * (i + 1))) i
  match x.kind with
  | 0 => s.hostPut (x.bytes.length / 256 + 2) image x.bytes
  | 1 => s.segPut (entry 0) 0 (x.bytes.length / 256 + 2) 0 x.bytes
  | 2 => s.hostPut (x.bytes.length / 256 + 2) segtab x.bytes
  | 3 => s.segPut (entry x.seg) x.seg (x.bytes.length / 256 + 2) 0 x.bytes
  | _ => s

/-- The host loader before the host completes the segment table: the table, then the image and the code (R142). -/
def State.load (s : State) (image segtab : Nat) (x : LoadFile) : State :=
  let s1 := (x.sections.filter fun y => y.kind == 2).foldl (State.putSection · image segtab) s
  (x.sections.filter fun y => y.kind == 0 || y.kind == 1).foldl (State.putSection · image segtab) s1

/-- The host loader after that: the data of the segments. -/
def State.loadData (s : State) (image segtab : Nat) (x : LoadFile) : State :=
  (x.sections.filter fun y => y.kind == 3).foldl (State.putSection · image segtab) s

end Sys2Proof.Machine
end

