-- ==== Sys2Proof/Laws/Igsas.lean ====
section
/-!
SUPPORT. The host loader of R142 acts by accesses to homes alone: memory stays canonical, and no core, unit or register but what
such accesses change is touched.
-/

namespace Sys2Proof.Machine

theorem State.hostPut_byHome (s : State) (fuel key : Nat) (l : List Byte) : s.byHome (s.hostPut fuel key l) := by
  induction fuel generalizing s key l with
  | zero => exact s.byHome_refl
  | succ k ih =>
    unfold State.hostPut
    split
    · exact s.byHome_refl
    · exact State.byHome_trans (State.homeWrite_byHome ..) (ih _ _ _)

theorem State.segPut_byHome (s : State) (g : Seg) (i fuel off : Nat) (l : List Byte) : s.byHome (s.segPut g i fuel off l) := by
  induction fuel generalizing s off l with
  | zero => exact s.byHome_refl
  | succ k ih =>
    unfold State.segPut
    split
    · exact s.byHome_refl
    · refine State.byHome_trans ?_ (ih _ _ _)
      split
      · exact State.hostPut_byHome ..
      · exact s.byHome_refl

theorem State.putSection_byHome (s : State) (image segtab : Nat) (x : LoadSection) : s.byHome (s.putSection image segtab x) := by
  unfold State.putSection
  split
  · exact State.hostPut_byHome ..
  · exact State.segPut_byHome ..
  · exact State.hostPut_byHome ..
  · exact State.segPut_byHome ..
  · exact s.byHome_refl

theorem State.putSections_byHome (s : State) (image segtab : Nat) (l : List LoadSection) :
    s.byHome (l.foldl (State.putSection · image segtab) s) := by
  induction l generalizing s with
  | nil => exact s.byHome_refl
  | cons x l ih => exact State.byHome_trans (State.putSection_byHome ..) (ih _)

/-- The image, the code and the segment table. -/
theorem State.load_byHome (s : State) (image segtab : Nat) (x : LoadFile) : s.byHome (s.load image segtab x) :=
  State.byHome_trans (State.putSections_byHome ..) (State.putSections_byHome ..)

/-- The data of the segments. -/
theorem State.loadData_byHome (s : State) (image segtab : Nat) (x : LoadFile) : s.byHome (s.loadData image segtab x) :=
  State.putSections_byHome ..

end Sys2Proof.Machine
end

