-- ==== Sys2Proof/Laws/Ops.lean ====
section
/-!
SUPPORT. The shared operations of the meanings, each with one lemma that says everything it can do: the step of the
timed domain, the step that may trap, taking a trap, and a command's entry into its queue.
-/

namespace Sys2Proof.Machine

/-! ### The focused core alone -/

theorem State.onlyCoreOf_refl (s : State) : s.onlyCoreOf s := ⟨rfl, fun _ _ => rfl⟩

theorem State.onlyCoreOf_setCore (s : State) (c : Core) : s.onlyCoreOf (s.setCore c) :=
  ⟨rfl, fun n h => s.setCore_get_other c n h⟩

theorem State.onlyCoreOf_trans {s t u : State} (h : s.onlyCoreOf t) (k : t.onlyCoreOf u) : s.onlyCoreOf u := by
  have hf : t.focus = s.focus := by rw [h.1]
  refine ⟨?_, fun n hn => (k.2 n (hf ▸ hn)).trans (h.2 n hn)⟩
  have k1 := k.1
  rw [h.1] at k1
  exact k1

/-- A change of the focused core leaves memory, the controller and PERIOD as they were. -/
theorem State.onlyCoreOf_frame {s t : State} (h : s.onlyCoreOf t) :
    t.mem = s.mem ∧ t.ctl = s.ctl ∧ t.period = s.period ∧ t.focus = s.focus := by
  rw [h.1]; simp

theorem State.onlyCoreOf_memOk {s t : State} (h : s.onlyCoreOf t) (hs : s.memOk) : t.memOk := by
  rw [State.memOk, (State.onlyCoreOf_frame h).1]; exact hs

theorem State.onlyCoreOf_bounded {s t : State} (h : s.onlyCoreOf t) (hs : s.boundedRegisters) : t.boundedRegisters := by
  rw [State.boundedRegisters, (State.onlyCoreOf_frame h).2.1, (State.onlyCoreOf_frame h).2.2.1]; exact hs

/-! ### A step of the timed domain -/

/-- `timedNext` always goes on, and changes the focused core's timed domain alone. -/
theorem State.timedNext_eq (s t : State) (f : Timed → Timed) :
    s.timedNext f = .next t ↔ t = s.setTimed (f s.timed) := by
  rw [State.timedNext, Host.Outcome.next.injEq]; exact eq_comm

theorem State.timedNext_spec (s t : State) (f : Timed → Timed) (h : s.timedNext f = .next t) :
    s.onlyCoreOf t ∧ t.timed = f s.timed ∧ t.un = s.un := by
  obtain rfl := (State.timedNext_eq ..).1 h
  exact ⟨s.onlyCoreOf_setCore _, by simp, by simp⟩

/-! ### A step that may trap -/

/-- `trapOr` always goes on: with the trap taken, or with the effect on the timed domain. -/
theorem State.trapOr_spec (s t : State) (slot : BitVec 4) (tr : Option Trap) (f : Timed → Timed) :
    s.trapOr slot tr f = .next t ↔
      (∃ k, tr = some k ∧ t = s.takeTrap slot k) ∨ (tr = none ∧ t = s.setTimed (f s.timed)) := by
  cases tr with
  | none =>
    rw [State.trapOr, State.timedNext_eq]
    constructor
    · intro h; exact .inr ⟨rfl, h⟩
    · rintro (⟨_, h, _⟩ | ⟨_, h⟩)
      · exact absurd h (by simp)
      · exact h
  | some k =>
    rw [State.trapOr, Host.Outcome.next.injEq]
    constructor
    · intro h; exact .inl ⟨k, rfl, h.symm⟩
    · rintro (⟨_, h, rfl⟩ | ⟨h, _⟩)
      · cases h; rfl
      · exact absurd h (by simp)

theorem State.trapOr_goesOn (s : State) (slot : BitVec 4) (tr : Option Trap) (f : Timed → Timed) :
    goesOn (s.trapOr slot tr f) := by
  cases tr <;> exact ⟨_, rfl⟩

/-! ### Failing a task (R165, R34) -/

/-- What the failure of a task can change: cores, DCUs, regions, and the streams left to be discarded. -/
def State.failsOnly (s t : State) : Prop := 
  t = { s with cores := t.cores, dcus := t.dcus, regions := t.regions, orphans := t.orphans }

theorem State.failsOnly_refl (s : State) : s.failsOnly s := rfl

theorem State.failsOnly_trans {s t u : State} (h : s.failsOnly t) (k : t.failsOnly u) : s.failsOnly u := by
  unfold State.failsOnly at h k ⊢
  rw [h] at k
  exact k

theorem State.onDcu_failsOnly (s : State) (n : Nat) (f : Dcu → Dcu) : s.failsOnly (s.onDcu n f) := by
  unfold State.onDcu; split <;> rfl

theorem State.setCoreAt_failsOnly (s : State) (n : Nat) (c : Core) : s.failsOnly (s.setCoreAt n c) := by
  unfold State.setCoreAt; split <;> rfl

theorem State.onRegion_failsOnly (s : State) (a : Nat) (f : Region → Region) : s.failsOnly (s.onRegion a f) := by
  unfold State.onRegion; split <;> rfl

theorem State.discard_failsOnly (s : State) (a : Nat) (p : Evicted → Bool) : s.failsOnly (s.discard a p) := by
  unfold State.discard
  split <;> rfl

theorem State.regionFail_failsOnly (s : State) (a : Nat) (j : BitVec 32) (t : Nat) (r : Word) (l : Nat) :
    s.failsOnly (s.regionFail a j t r l) := by
  unfold State.regionFail
  simp only []
  split
  · split
    · split
      · exact State.onRegion_failsOnly ..
      · exact State.failsOnly_trans (State.onRegion_failsOnly ..)
          (State.failsOnly_trans (State.discard_failsOnly ..) (State.onRegion_failsOnly ..))
    · split
      · exact State.failsOnly_trans (State.onRegion_failsOnly ..) (State.onRegion_failsOnly ..)
      · exact State.failsOnly_trans (State.failsOnly_trans (State.onRegion_failsOnly ..)
          (State.failsOnly_trans (State.discard_failsOnly ..) (State.onRegion_failsOnly ..))) (State.onRegion_failsOnly ..)
  · split
    · exact State.onRegion_failsOnly ..
    · exact State.failsOnly_trans (State.onRegion_failsOnly ..)
        (State.failsOnly_trans (State.discard_failsOnly ..) (State.onRegion_failsOnly ..))

theorem State.failCore_failsOnly (s : State) (n : Nat) (pc : BitVec 18) (i : FaultInfo) (l : Nat) :
    s.failsOnly (s.failCore n pc i l) := by
  unfold State.failCore
  simp only []
  split
  · exact s.failsOnly_refl
  · refine State.failsOnly_trans ?_ (State.regionFail_failsOnly ..)
    refine State.failsOnly_trans ?_ (State.onDcu_failsOnly ..)
    exact State.failsOnly_trans (State.onDcu_failsOnly ..) (State.setCoreAt_failsOnly ..)

/-- Taking a trap (R165) changes the core, the DCU's fault log and the region: memory, the engines, every other
register of the module stay as they were. -/
theorem State.takeTrap_failsOnly (s : State) (slot : BitVec 4) (k : Trap) : s.failsOnly (s.takeTrap slot k) := by
  unfold State.takeTrap
  simp only []
  split
  · rfl
  · exact State.failCore_failsOnly ..

theorem State.failsOnly_memOk {s t : State} (h : s.failsOnly t) (hs : s.memOk) : t.memOk := by
  have e : t.mem = s.mem := by rw [h]
  rw [State.memOk, e]; exact hs

theorem State.failsOnly_bounded {s t : State} (h : s.failsOnly t) (hs : s.boundedRegisters) : t.boundedRegisters := by
  have e : t.period = s.period ∧ t.ctl = s.ctl := by rw [h]; exact ⟨rfl, rfl⟩
  rw [State.boundedRegisters, e.1, e.2]; exact hs

/-! ### Commands enter their queues (R127) -/

/-- With room, the command joins the queue and the open batch as R186 says; without, nothing changes. -/
theorem State.enqueue_room (s : State) (c : Cmd) (j : Bool) (h : s.un.room c.eng = true) :
    s.enqueue c j = s.setUn (s.un.push c j) := if_pos h

theorem State.enqueue_full (s : State) (c : Cmd) (j : Bool) (h : s.un.room c.eng = false) : s.enqueue c j = s := by
  rw [State.enqueue, if_neg]; rw [h]; exact Bool.false_ne_true

theorem State.onlyCoreOf_enqueue (s : State) (c : Cmd) (j : Bool) : s.onlyCoreOf (s.enqueue c j) := by
  unfold State.enqueue
  split
  · exact s.onlyCoreOf_setCore _
  · exact s.onlyCoreOf_refl

@[simp] theorem Core.claim_un (c : Core) (f : BitVec 5) : (c.claim f).un = c.un := by
  unfold Core.claim; split <;> rfl
@[simp] theorem Core.claim_task (c : Core) (f : BitVec 5) : (c.claim f).task = c.task := by
  unfold Core.claim; split <;> rfl
@[simp] theorem Core.claim_image (c : Core) (f : BitVec 5) : (c.claim f).image = c.image := by
  unfold Core.claim; split <;> rfl
@[simp] theorem Core.claim_marks (c : Core) (f : BitVec 5) : (c.claim f).marks = c.marks := by
  unfold Core.claim; split <;> rfl
@[simp] theorem Core.claim_fails (c : Core) (f : BitVec 5) : (c.claim f).fails = c.fails := by
  unfold Core.claim; split <;> rfl

/-- What a claim does to the timed domain: the flag alone (R23). -/
theorem Core.claim_timed (c : Core) (f : BitVec 5) : (c.claim f).timed = c.timed.claimFlag f := by
  unfold Core.claim Timed.claimFlag
  split <;> rfl

/-- A command that names a flag, at issue: the trap; with a full queue nothing; else the claim and the entry. -/
theorem issueFlagged_spec (tr : Option Trap) (f : BitVec 5) (c : Cmd) (s t : State) :
    issueFlagged tr f c s = .next t ↔
      (∃ k, tr = some k ∧ t = s.takeTrap 7 k) ∨
      (tr = none ∧ s.un.room c.eng = false ∧ t = s) ∨
      (tr = none ∧ s.un.room c.eng = true ∧ t = (s.setCore (s.core.claim f)).setUn (s.un.push c false)) := by
  have hu : (s.setCore (s.core.claim f)).un = s.un := by rw [State.un_setCore, Core.claim_un]; rfl
  cases tr with
  | some k =>
    rw [issueFlagged, Host.Outcome.next.injEq]
    constructor
    · intro h; exact .inl ⟨k, rfl, h.symm⟩
    · rintro (⟨_, h, rfl⟩ | ⟨h, _⟩ | ⟨h, _⟩)
      · cases h; rfl
      · exact absurd h (by simp)
      · exact absurd h (by simp)
  | none =>
    cases hr : s.un.room c.eng with
    | true =>
      simp only [issueFlagged, hr, if_true, Host.Outcome.next.injEq]
      rw [State.enqueue_room _ _ _ (by rw [hu]; exact hr), hu]
      simp [eq_comm]
    | false =>
      simp only [issueFlagged, hr, Bool.false_eq_true, if_false, Host.Outcome.next.injEq]
      simp [eq_comm]

theorem issueFlagged_goesOn (tr : Option Trap) (f : BitVec 5) (c : Cmd) (s : State) :
    goesOn (issueFlagged tr f c s) := by
  unfold issueFlagged
  split
  · exact ⟨_, rfl⟩
  · split <;> exact ⟨_, rfl⟩

/-- The queue after a push: the command last, in its batch, and program order one further (R23, R186). -/
theorem Untimed.push_spec (u : Untimed) (c : Cmd) (j : Bool) :
    (u.push c j).queue = u.queue ++ [{ c with batch := if j then u.openBatch else none }] ∧
      (u.push c j).nseq = u.nseq + 1 ∧ (u.push c j).tlb = u.tlb ∧ (u.push c j).arms = u.arms ∧
      (u.push c j).nbatch = u.nbatch ∧ (u.push c j).sent = u.sent ∧ (u.push c j).done = u.done :=
  ⟨rfl, rfl, rfl, rfl, rfl, rfl, rfl⟩

/-! ### One outcome after another -/

theorem andThen_next (o : Out) (f : State → Out) (t : State) :
    andThen o f = .next t ↔ ∃ u, o = .next u ∧ f u = .next t := by
  cases o <;> simp [andThen]

@[simp] theorem andThen_of_next (s : State) (f : State → Out) : andThen (.next s) f = f s := rfl

/-- Landing keeps flags, windows and descriptors as they were. -/
theorem Timed.applyBst_frame (t : Timed) (l : List BstUpd) :
    (t.applyBst l).regs = t.regs ∧ (t.applyBst l).seq = t.seq ∧ (t.applyBst l).arr = t.arr ∧
      (t.applyBst l).inFlight = t.inFlight ∧ (t.applyBst l).flags = t.flags ∧ (t.applyBst l).wins = t.wins ∧
      (t.applyBst l).desc = t.desc := by
  induction l generalizing t with
  | nil => exact ⟨rfl, rfl, rfl, rfl, rfl, rfl, rfl⟩
  | cons u l ih => exact ih _

end Sys2Proof.Machine
end

