-- ==== Sys2Proof/Tests/Slice0.lean ====
section
/-!
SUPPORT. The model's own tests: ill-formed terms that the check refuses, words of every instruction written out from the
tables of the spec, worked examples of the spec, and, for each statement with hypotheses, states and operands that meet
them. Expected values are the spec's or worked out from it by hand.
-/

namespace Sys2Proof.Tests

set_option Elab.async false

open Sys2Proof Sys2Proof.Machine

/-! ### Ill-formed terms (R116 and the encoding rule of each chapter) -/

/-- VADD with one field out of its rule at a time: registers, scalar operand b, unused fields, mask groups, type. -/
def badVectorFields : List Instr := [
  .vadd ⟨160, 0, 0, 0, 0, false, .i16, false, 0⟩, .vadd ⟨0, 160, 0, 0, 0, false, .i16, false, 0⟩,
  .vadd ⟨0, 0, 160, 0, 0, false, .i16, false, 0⟩, .vadd ⟨0, 0, 64, 0, 0, false, .i16, true, 0⟩,
  .vadd ⟨0, 0, 0, 1, 0, false, .i16, false, 0⟩, .vadd ⟨0, 0, 0, 0, 0, false, .i16, false, 1⟩,
  .vadd ⟨0, 0, 0, 0, 1, true, .i16, false, 0⟩, .vadd ⟨0, 0, 0, 0, 2, false, .i16, false, 0⟩,
  .vadd ⟨0, 0, 0, 0, 0, false, .i4, false, 0⟩, .vmulh ⟨0, 0, 0, 0, 0, false, .f32, false, 0⟩,
  .vabs ⟨0, 0, 0, 0, 0, false, .n16, false, 0⟩, .vneg ⟨0, 0, 1, 0, 0, false, .i16, false, 0⟩,
  .vfma ⟨0, 0, 0, 160, 0, false, .f32, false, 0⟩, .vfma ⟨0, 0, 0, 0, 0, false, .i32, false, 0⟩,
  .vmac ⟨0, 0, 0, 0, 0, false, .f32, false, 0⟩, .vrsum ⟨64, 0, 0, 0, 0, false, .i16, false, 0⟩,
  .vrand ⟨0, 0, 0, 0, 0, false, .bf, false, 0⟩, .vscale ⟨0, 0, 0, 0, 0, false, .i16, false, 0⟩,
  .vbcast ⟨0, 1, 0, 0, 0, false, .i16, true, 0⟩, .vbcast ⟨0, 0, 0, 0, 0, false, .i16, false, 2048⟩,
  .vmov ⟨0, 0, 0, 0, 0, false, .n4, false, 0⟩, .viota ⟨0, 1, 0, 0, 0, false, .i16, false, 0⟩,
  .vmovi ⟨0, 0, 0, 0, 0, false, .f32, false, 0⟩, .vcmpeq ⟨1, 0, 0, 0, 0, false, .i16, false, 0⟩,
  .vcmplt ⟨16, 0, 0, 0, 0, false, .i16, false, 0⟩, .vsel ⟨0, 0, 0, 0, 0, true, .i16, false, 0⟩,
  .vsel ⟨0, 0, 0, 0, 1, false, .i16, false, 0⟩, .vshl ⟨0, 0, 0, 0, 0, false, .i16, false, 0x2010⟩,
  .vshr ⟨0, 0, 1, 0, 0, false, .i16, false, 0x2001⟩, .vasr ⟨0, 0, 0, 0, 0, false, .i16, false, 0x2020⟩,
  .vfshl ⟨0, 0, 0, 1, 0, false, .i16, false, 0x2001⟩, .vfshr ⟨0, 0, 0, 160, 0, false, .i16, false, 0⟩,
  .vlut3 ⟨0, 0, 0, 0, 0, false, .i16, false, 256⟩, .vperm ⟨0, 0, 0, 0, 0, false, .i16, true, 0⟩,
  .vrot ⟨0, 0, 0, 0, 0, false, .i16, true, 1⟩, .vzip ⟨159, 0, 0, 0, 0, false, .i16, false, 0⟩,
  .vunzip ⟨0, 0, 0, 0, 0, true, .i16, false, 0⟩, .vcvt ⟨0, 0, 0, 0, 0, false, .f32, false, 6⟩,
  .vcvt ⟨0, 0, 0, 0, 0, false, .f32, false, 11⟩, .vcvt ⟨0, 0, 0, 0, 0, false, .f32, false, 0x22⟩,
  .vcvtw ⟨0, 0, 0, 0, 0, false, .i16, false, 2⟩, .vcvts ⟨0, 0, 0, 0, 0, false, .f32, false, 6⟩,
  .vunpk4 ⟨0, 0, 0, 0, 0, false, .i8, false, 2⟩, .mand ⟨16, 0, 0, 0, 0, false, .i8, false, 0⟩,
  .mnot ⟨0, 0, 1, 0, 0, false, .i8, false, 0⟩, .mpopc ⟨0, 0, 0, 0, 0, false, .i16, false, 0⟩,
  .vext ⟨0, 0, 0, 0, 0, false, .i16, false, 2048⟩, .vins ⟨0, 64, 0, 0, 0, false, .i16, false, 0⟩,
  .bstrd ⟨0, 0, 0, 0, 0, false, .i8, false, 128⟩, .bstclr ⟨0, 0, 0, 0, 0, false, .i8, false, 0x3FFF⟩,
  .scsel ⟨0, 0, 0, 0, 0, false, .i8, false, 0x800⟩, .scsel ⟨0, 0, 0, 0, 0, false, .i8, true, 0x10⟩]

theorem test_refuses_vector_fields : badVectorFields.all (fun i => !i.wf) = true := by decide

/-- The other slots, and the events of a core, die, object or number that the part has not. -/
theorem test_refuses_fields : ([
  .wait 0, .waitAny 0, .waitC 0, .fclr 0, .loop 63 1, .loop 0 6, .mfsr 0 0x00B, .mfsr 0 0x017, .mtsr 0 0x012, .mtsr 0 0x014,
  .shape 0 0 3, .xposeN32 0 0 1, .xposeN16 0 0 2, .xposeN8 0 0 4, .xposeb 160 0 0, .mmode 3 0 false, .mwsh 160 0,
  .mpusha 0 0 1536, .mdrain 1536, .maccrd 0 1 0, .maccwr 160 0 0, .maccz 1536, .maccov 0 1536, .apxwr 0 3, .apxrd 0 3,
  .tld ⟨0, 0, 0, 0, 1⟩, .tldm ⟨0, 0, 0, 0, 0⟩, .tldm ⟨0, 0, 0, 0, 0x1000⟩, .tldbp ⟨0, 0, 0, 0, 0x21⟩, .tldbp ⟨0, 0, 0, 0, 0x29⟩,
  .tldbp ⟨0, 0, 0, 0, 8⟩, .pref ⟨0, 0, 1, 0, 0⟩, .wcopy ⟨1, 0, 0, 0, 0⟩, .wcopy ⟨0, 0, 0, 0, 32⟩, .wfill ⟨0, 0, 0, 0, 1⟩,
  .wdecl ⟨0, 1, 0, 0, 0⟩, .wdecl ⟨0, 0, 0, 0, 64⟩, .wfree ⟨0, 0, 1, 0, 0⟩, .dset ⟨0, 0, 0, 0, 16⟩, .vld ⟨160, 0, false, 0, 0⟩,
  .vldb ⟨0, 0, true, 0, 0⟩, .vstm ⟨0, 0, false, 0, 16⟩, .fence 0 5 1, .fence 0 0 0, .phreg ⟨1, 0, 0, 0, 0⟩, .phreg ⟨0, 0, 0, 0, 0x20⟩,
  .phdrop ⟨0, 0, 0, 0, 1⟩, .pharm ⟨0, 0, 0, 0, 32⟩, .swld ⟨0, 0, 0, 0, 64⟩, .amin ⟨0, 0, 0, 0, 128⟩, .afaddF32 ⟨0, 0, 0, 0, 32⟩,
  .gbag ⟨0, 0, 0, 1, 0⟩, .grows ⟨0, 0, 0, 0, 1024⟩, .gpref ⟨0, 0, 0, 0, 1⟩, .gstat ⟨1, 0, 0, 0, 0⟩, .gcntclr ⟨0, 0, 0, 1, 0⟩,
  .lopen ⟨0, 0, 0, 0, 256⟩, .lpush ⟨0, 0, 0, 0, 160⟩, .lpush ⟨0, 0, 0, 0, 0x40000⟩, .lpushs ⟨0, 0, 0, 0, 1⟩, .lclose ⟨0, 0, 0, 0, 4⟩,
  .lapply ⟨0, 0, 0, 0, 1⟩, .lquery ⟨1, 0, 0, 0, 0⟩, .xsend ⟨0, 0, 0, 0, 0⟩, .xpool ⟨0, 0, 0, 0, 32⟩, .pwait ⟨0, 0, 1, 0, 0⟩,
  .xcan ⟨0, 0, 0, 0, 1⟩, .tbarr ⟨0, 0, 0, 0, 1⟩, .tlog ⟨0, 0, 0, 0, 32⟩, .doorbell 8 0 0 0, .doorbell 0 1024 0 0,
  .periodWrite 8 0, .dictionaryLoadComplete 96, .cntclr 8, .hashmWrite 8 0 0, .hashmWrite 0 64 0] : List Instr).all (fun i => !i.wf) = true := by decide

/-! ### Every instruction's word, from the tables of R117 and R119-R126 -/

/-- The word reads as the instruction, and the instruction is written as the word. -/
def reads {n : Nat} (dec : BitVec n → Except DecodeError (Option Instr)) (enc : Instr → BitVec n) (p : BitVec n × Instr) : Bool :=
  (match dec p.1 with
    | .ok (some i) => decide (i = p.2)
    | .ok none => false
    | .error _ => false) && enc p.2 == p.1

def wordsSync : List (BitVec 40 × Instr) := [
  (0x8000000101, .wait 0x80000001), (0x8000000102, .waitAny 0x80000001), (0x8000000103, .fclr 0x80000001),
  (0x8000000104, .waitC 0x80000001)]
theorem test_decodes_wordsSync : wordsSync.all (reads (slotOf .sync readSync) encodeSync) = true := by decide

def wordsBranch : List (BitVec 32 × Instr) := [
  (0x0102ABCD, .jmp 0x2abcd), (0x0286ABCD, .beqz 33 0x2abcd), (0x0386ABCD, .bnez 33 0x2abcd),
  (0x0486ABCD, .bltz 33 0x2abcd), (0x0586ABCD, .bgez 33 0x2abcd), (0x06840000, .jmpr 33),
  (0x0792ABCD, .bmt 9 0x2abcd), (0x0892ABCD, .bmf 9 0x2abcd), (0x0902ABCD, .call 0x2abcd), (0x0A840000, .callr 33),
  (0x0B000000, .ret), (0x0C840000, .rspush 33), (0x0D840000, .rspop 33), (0x10868000, .loop 33 5),
  (0x3002ABCD, .trapi 0x2abcd), (0x3102ABCD, .abort 0x2abcd), (0x3202ABCD, .idle 0x2abcd),
  (0x3302ABCD, .mark 0x2abcd)]
theorem test_decodes_wordsBranch : wordsBranch.all (reads (slotOf .branch readBranch) encodeBranch) = true := by decide

def wordsScalar0 : List (BitVec 32 × Instr) := [
  (0x01845BC0, .add 33 5 47), (0x02845BC0, .sub 33 5 47), (0x03845BC0, .and 33 5 47), (0x04845BC0, .or 33 5 47),
  (0x05845BC0, .xor 33 5 47), (0x06845BC0, .shl 33 5 47), (0x07845BC0, .shr 33 5 47), (0x08845BC0, .asr 33 5 47),
  (0x09845BC0, .cmpltI64 33 5 47), (0x0A845BC0, .cmpltN64 33 5 47), (0x0B845BC0, .cmpeq 33 5 47),
  (0x0C845BC0, .minI64 33 5 47), (0x0D845BC0, .maxI64 33 5 47), (0x0E845BC0, .minN64 33 5 47),
  (0x0F845BC0, .maxN64 33 5 47), (0x11845ABC, .addi 33 5 0xabc), (0x12845ABC, .andi 33 5 0xabc),
  (0x13845ABC, .ori 33 5 0xabc), (0x14845ABC, .xori 33 5 0xabc), (0x1584502C, .shli 33 5 0x2c),
  (0x1684502C, .shri 33 5 0x2c), (0x1784502C, .asri 33 5 0x2c), (0x18845ABC, .cmplti 33 5 0xabc),
  (0x1986BEEF, .seth 33 2 0xBEEF)]
theorem test_decodes_wordsScalar0 : wordsScalar0.all (reads (slotOf .scalar readScalar) encodeScalar) = true := by decide

def wordsScalar1 : List (BitVec 32 × Instr) := [
  (0x1A86BEEF, .puth 33 2 0xBEEF), (0x20845BC0, .mul 33 5 47), (0x21845BC0, .mulhI64 33 5 47),
  (0x22845BC0, .mulhN64 33 5 47), (0x23845BC0, .divI64 33 5 47), (0x24845BC0, .divN64 33 5 47),
  (0x25845BC0, .remI64 33 5 47), (0x26845BC0, .remN64 33 5 47), (0x28845BC0, .capadd 33 5 47),
  (0x29845ABC, .capaddi 33 5 0xabc), (0x2A84502C, .capmk 33 5 0x2c), (0x2B845000, .capseg 33 5),
  (0x2C845000, .capoff 33 5), (0x30845BC0, .faddF32 33 5 47), (0x31845BC0, .fsubF32 33 5 47),
  (0x32845BC0, .fmulF32 33 5 47), (0x33845BC0, .fmaF32 33 5 47), (0x34845BC0, .fminF32 33 5 47),
  (0x35845BC0, .fmaxF32 33 5 47), (0x36845BC0, .fcmpltF32 33 5 47), (0x37845BC0, .fcmpeqF32 33 5 47),
  (0x38845000, .cvtF32I64 33 5), (0x39845000, .cvtI64F32 33 5), (0x40845ABC, .ldsN8 33 5 0xabc)]
theorem test_decodes_wordsScalar1 : wordsScalar1.all (reads (slotOf .scalar readScalar) encodeScalar) = true := by decide

def wordsScalar2 : List (BitVec 32 × Instr) := [
  (0x41845ABC, .ldsI8 33 5 0xabc), (0x42845ABC, .ldsN16 33 5 0xabc), (0x43845ABC, .ldsI16 33 5 0xabc),
  (0x44845ABC, .ldsN32 33 5 0xabc), (0x45845ABC, .ldsI32 33 5 0xabc), (0x46845ABC, .ldsI64 33 5 0xabc),
  (0x48845ABC, .stsN8 33 5 0xabc), (0x49845ABC, .stsN16 33 5 0xabc), (0x4A845ABC, .stsN32 33 5 0xabc),
  (0x4B845ABC, .stsN64 33 5 0xabc), (0x50840016, .mfsr 33 0x016), (0x51840015, .mtsr 33 0x015),
  (0x52845002, .shape 33 5 2)]
theorem test_decodes_wordsScalar2 : wordsScalar2.all (reads (slotOf .scalar readScalar) encodeScalar) = true := by decide

def wordsVectorA0 : List (BitVec 64 × Instr) := [
  (0x019F824D00690000, .vadd ⟨159, 130, 77, 0, 6, true, .i16, false, 0x0⟩),
  (0x029F824D00690000, .vsub ⟨159, 130, 77, 0, 6, true, .i16, false, 0x0⟩),
  (0x039F824D00690000, .vmul ⟨159, 130, 77, 0, 6, true, .i16, false, 0x0⟩),
  (0x049F824D00690000, .vmulh ⟨159, 130, 77, 0, 6, true, .i16, false, 0x0⟩),
  (0x059F824D00690000, .vadds ⟨159, 130, 77, 0, 6, true, .i16, false, 0x0⟩),
  (0x069F824D00690000, .vsubs ⟨159, 130, 77, 0, 6, true, .i16, false, 0x0⟩),
  (0x079F824D00690000, .vmin ⟨159, 130, 77, 0, 6, true, .i16, false, 0x0⟩),
  (0x089F824D00690000, .vmax ⟨159, 130, 77, 0, 6, true, .i16, false, 0x0⟩),
  (0x099F820000690000, .vabs ⟨159, 130, 0, 0, 6, true, .i16, false, 0x0⟩),
  (0x0A9F820000690000, .vneg ⟨159, 130, 0, 0, 6, true, .i16, false, 0x0⟩),
  (0x0B9F823F0000C000, .vand ⟨159, 130, 63, 0, 0, false, .n8, true, 0x0⟩),
  (0x0C9F823F0000C000, .vor ⟨159, 130, 63, 0, 0, false, .n8, true, 0x0⟩),
  (0x0D9F823F0000C000, .vxor ⟨159, 130, 63, 0, 0, false, .n8, true, 0x0⟩),
  (0x0E9F823F0000C000, .vandn ⟨159, 130, 63, 0, 0, false, .n8, true, 0x0⟩),
  (0x109F824D63038000, .vfma ⟨159, 130, 77, 99, 0, false, .bf, false, 0x0⟩),
  (0x119F824D63038000, .vfms ⟨159, 130, 77, 99, 0, false, .bf, false, 0x0⟩),
  (0x129F824D63038000, .vfnma ⟨159, 130, 77, 99, 0, false, .bf, false, 0x0⟩),
  (0x139F824D00F80000, .vmac ⟨159, 130, 77, 0, 15, true, .i8, false, 0x0⟩),
  (0x183F820000028000, .vrsum ⟨63, 130, 0, 0, 0, false, .n32, false, 0x0⟩),
  (0x193F820000028000, .vrmin ⟨63, 130, 0, 0, 0, false, .n32, false, 0x0⟩),
  (0x1A3F820000028000, .vrmax ⟨63, 130, 0, 0, 0, false, .n32, false, 0x0⟩),
  (0x1B3F820000028000, .vrand ⟨63, 130, 0, 0, 0, false, .n32, false, 0x0⟩),
  (0x1C3F820000028000, .vror ⟨63, 130, 0, 0, 0, false, .n32, false, 0x0⟩),
  (0x209F824D63030000, .vscale ⟨159, 130, 77, 99, 0, false, .f32, false, 0x0⟩)]
theorem test_decodes_wordsVectorA0 : wordsVectorA0.all (reads (slotOf .vectorA readVectorA) encodeVectorA) = true := by decide

def wordsVectorA1 : List (BitVec 64 × Instr) := [
  (0x289F003F00044000, .vbcast ⟨159, 0, 63, 0, 0, false, .f8, true, 0x0⟩),
  (0x299F820000038000, .vmov ⟨159, 130, 0, 0, 0, false, .bf, false, 0x0⟩),
  (0x2A9F003F00017FFF, .viota ⟨159, 0, 63, 0, 0, false, .i16, true, 0x3fff⟩),
  (0x2B9F000000012001, .vmovi ⟨159, 0, 0, 0, 0, false, .i16, false, 0x2001⟩)]
theorem test_decodes_wordsVectorA1 : wordsVectorA1.all (reads (slotOf .vectorA readVectorA) encodeVectorA) = true := by decide

def wordsVectorB0 : List (BitVec 64 × Instr) := [
  (0x010E824D00010000, .vcmpeq ⟨14, 130, 77, 0, 0, false, .i16, false, 0x0⟩),
  (0x020E824D00010000, .vcmpne ⟨14, 130, 77, 0, 0, false, .i16, false, 0x0⟩),
  (0x030E824D00010000, .vcmplt ⟨14, 130, 77, 0, 0, false, .i16, false, 0x0⟩),
  (0x040E824D00010000, .vcmple ⟨14, 130, 77, 0, 0, false, .i16, false, 0x0⟩),
  (0x059F824D00610000, .vsel ⟨159, 130, 77, 0, 6, false, .i16, false, 0x0⟩),
  (0x069F82000001200F, .vshl ⟨159, 130, 0, 0, 0, false, .i16, false, 0x200f⟩),
  (0x079F82000001200F, .vshr ⟨159, 130, 0, 0, 0, false, .i16, false, 0x200f⟩),
  (0x089F82000001200F, .vasr ⟨159, 130, 0, 0, 0, false, .i16, false, 0x200f⟩),
  (0x099F824D63010000, .vfshl ⟨159, 130, 77, 99, 0, false, .i16, false, 0x0⟩),
  (0x0A9F824D63010000, .vfshr ⟨159, 130, 77, 99, 0, false, .i16, false, 0x0⟩),
  (0x0B9F824D630100E8, .vlut3 ⟨159, 130, 77, 99, 0, false, .i16, false, 0xe8⟩),
  (0x0C9F820000010000, .vpopc ⟨159, 130, 0, 0, 0, false, .i16, false, 0x0⟩),
  (0x109F824D00010000, .vperm ⟨159, 130, 77, 0, 0, false, .i16, false, 0x0⟩),
  (0x119F820000013FFF, .vrot ⟨159, 130, 0, 0, 0, false, .i16, false, 0x3fff⟩),
  (0x129E824D00010000, .vzip ⟨158, 130, 77, 0, 0, false, .i16, false, 0x0⟩),
  (0x139E824D00010000, .vunzip ⟨158, 130, 77, 0, 0, false, .i16, false, 0x0⟩),
  (0x189F820000030012, .vcvt ⟨159, 130, 0, 0, 0, false, .f32, false, 0x12⟩),
  (0x199F820000000034, .vcvtw ⟨159, 130, 0, 0, 0, false, .i8, false, 0x34⟩),
  (0x1A9F823F0003C016, .vcvts ⟨159, 130, 63, 0, 0, false, .bf, true, 0x16⟩),
  (0x1B9F82000000001A, .vunpk4 ⟨159, 130, 0, 0, 0, false, .i8, false, 0x1a⟩),
  (0x200F090600000000, .mand ⟨15, 9, 6, 0, 0, false, .i8, false, 0x0⟩),
  (0x210F090600000000, .mor ⟨15, 9, 6, 0, 0, false, .i8, false, 0x0⟩),
  (0x220F090600000000, .mxor ⟨15, 9, 6, 0, 0, false, .i8, false, 0x0⟩),
  (0x230F090000000000, .mnot ⟨15, 9, 0, 0, 0, false, .i8, false, 0x0⟩)]
theorem test_decodes_wordsVectorB0 : wordsVectorB0.all (reads (slotOf .vectorB readVectorB) encodeVectorB) = true := by decide

def wordsVectorB1 : List (BitVec 64 × Instr) := [
  (0x243F090000000000, .mpopc ⟨63, 9, 0, 0, 0, false, .i8, false, 0x0⟩),
  (0x283F8200000107FF, .vext ⟨63, 130, 0, 0, 0, false, .i16, false, 0x7ff⟩),
  (0x299F2100000107FF, .vins ⟨159, 33, 0, 0, 0, false, .i16, false, 0x7ff⟩),
  (0x2C3F00000000007F, .bstrd ⟨63, 0, 0, 0, 0, false, .i8, false, 0x7f⟩),
  (0x2D00000000003F01, .bstclr ⟨0, 0, 0, 0, 0, false, .i8, false, 0x3f01⟩),
  (0x2E3F2100000007FF, .scsel ⟨63, 33, 0, 0, 0, false, .i8, false, 0x7ff⟩)]
theorem test_decodes_wordsVectorB1 : wordsVectorB1.all (reads (slotOf .vectorB readVectorB) encodeVectorB) = true := by decide

def wordsTranspose : List (BitVec 32 × Instr) := [
  (0x019F8200, .xposeN32 159 130 0), (0x029F8210, .xposeN16 159 130 1), (0x039F8230, .xposeN8 159 130 3),
  (0x049F82F0, .xposeb 159 130 15)]
theorem test_decodes_wordsTranspose : wordsTranspose.all (reads (slotOf .transpose readTranspose) encodeTranspose) = true := by decide

def wordsMatrix : List (BitVec 32 × Instr) := [
  (0x01980000, .mmode 2 1 true), (0x02900000, .mcen 9), (0x039F9000, .mwsh 159 9), (0x049F95FF, .mpusha 159 9 1535),
  (0x059F95FF, .mpushw 159 9 1535), (0x060005FF, .mdrain 1535), (0x089FE5FF, .maccrd 159 14 1535),
  (0x099FE5FF, .maccwr 159 14 1535), (0x0A0005FF, .maccz 1535), (0x0B8705FF, .maccov 33 1535), (0x0C000000, .apxrst),
  (0x0D860000, .apxwr 33 2), (0x0E860000, .apxrd 33 2), (0x0F000000, .mwclr)]
theorem test_decodes_wordsMatrix : wordsMatrix.all (reads (slotOf .matrix readMatrix) encodeMatrix) = true := by decide

def wordsCopy0 : List (BitVec 48 × Instr) := [
  (0x019866E00000, .tld ⟨9, 33, 19, 7, 0x0⟩), (0x029866E00000, .tst ⟨9, 33, 19, 7, 0x0⟩),
  (0x039866E00FFF, .tldm ⟨9, 33, 19, 7, 0xfff⟩), (0x049866E00028, .tldbp ⟨9, 33, 19, 7, 0x28⟩),
  (0x059840E00000, .pref ⟨9, 33, 0, 7, 0x0⟩), (0x069866E00000, .strem ⟨9, 33, 19, 7, 0x0⟩),
  (0x079866E00000, .stremo ⟨9, 33, 19, 7, 0x0⟩), (0x08002600001F, .wcopy ⟨0, 0, 19, 0, 0x1f⟩),
  (0x090866000000, .wfill ⟨0, 33, 19, 0, 0x0⟩), (0x0A004200003F, .wdecl ⟨0, 0, 33, 0, 0x3f⟩),
  (0x0B000000001F, .wfree ⟨0, 0, 0, 0, 0x1f⟩), (0x0C004200000F, .dset ⟨0, 0, 33, 0, 0xf⟩),
  (0x109F9E100000, .vld ⟨159, 19, true, 33, 0x0⟩), (0x119F9E100000, .vst ⟨159, 19, true, 33, 0x0⟩),
  (0x129F9A100000, .vldb ⟨159, 19, false, 33, 0x0⟩), (0x139F9E10000F, .vstm ⟨159, 19, true, 33, 0xf⟩),
  (0x18BEEF980000, .fence 0xBEEF 4 3), (0x190098000000, .bclose 19), (0x1AC800000000, .bwait 200),
  (0x2009C378019F, .phreg ⟨0, 19, 33, 47, 0x19f⟩), (0x2109C3780000, .phdrop ⟨0, 19, 33, 47, 0x0⟩),
  (0x2209C3780000, .pharr ⟨0, 19, 33, 47, 0x0⟩), (0x2309C3780000, .phwait ⟨0, 19, 33, 47, 0x0⟩),
  (0x2409C378001F, .pharm ⟨0, 19, 33, 47, 0x1f⟩)]
theorem test_decodes_wordsCopy0 : wordsCopy0.all (reads (slotOf .copy readCopy) encodeCopy) = true := by decide

def wordsCopy1 : List (BitVec 48 × Instr) := [
  (0x2509C378001F, .phrd ⟨0, 19, 33, 47, 0x1f⟩), (0x2699C378003F, .swld ⟨9, 19, 33, 47, 0x3f⟩),
  (0x2799C378003F, .swst ⟨9, 19, 33, 47, 0x3f⟩), (0x2899C378003F, .aadd ⟨9, 19, 33, 47, 0x3f⟩),
  (0x2999C378007F, .amin ⟨9, 19, 33, 47, 0x7f⟩), (0x2A99C378007F, .amax ⟨9, 19, 33, 47, 0x7f⟩),
  (0x2B99C378003F, .aand ⟨9, 19, 33, 47, 0x3f⟩), (0x2C99C378003F, .aor ⟨9, 19, 33, 47, 0x3f⟩),
  (0x2D99C378003F, .axor ⟨9, 19, 33, 47, 0x3f⟩), (0x2E99C378003F, .axchg ⟨9, 19, 33, 47, 0x3f⟩),
  (0x2F99C378003F, .acas ⟨9, 19, 33, 47, 0x3f⟩), (0x3099C378001F, .afaddF32 ⟨9, 19, 33, 47, 0x1f⟩),
  (0x3899C20003FF, .gbag ⟨9, 19, 33, 0, 0x3ff⟩), (0x3999C20003FF, .gbagw ⟨9, 19, 33, 0, 0x3ff⟩),
  (0x3A99C20003FF, .grows ⟨9, 19, 33, 0, 0x3ff⟩), (0x3B99C2000000, .gpref ⟨9, 19, 33, 0, 0x0⟩),
  (0x3C09C378001F, .gstat ⟨0, 19, 33, 47, 0x1f⟩), (0x3D09C378001F, .gcntrd ⟨0, 19, 33, 47, 0x1f⟩),
  (0x3E09C2000000, .gcntclr ⟨0, 19, 33, 0, 0x0⟩), (0x3F09C378001F, .gskrd ⟨0, 19, 33, 47, 0x1f⟩),
  (0x4099C37800FF, .lopen ⟨9, 19, 33, 47, 0xff⟩), (0x41004203829F, .lpush ⟨0, 0, 33, 0, 0x3829f⟩),
  (0x420042038200, .lpushs ⟨0, 0, 33, 0, 0x38200⟩), (0x430980000003, .lclose ⟨0, 19, 0, 0, 0x3⟩)]
theorem test_decodes_wordsCopy1 : wordsCopy1.all (reads (slotOf .copy readCopy) encodeCopy) = true := by decide

def wordsCopy2 : List (BitVec 48 × Instr) := [
  (0x440980000003, .labort ⟨0, 19, 0, 0, 0x3⟩), (0x4509C2000000, .lapply ⟨0, 19, 33, 0, 0x0⟩),
  (0x4609C2000000, .lstep ⟨0, 19, 33, 0, 0x0⟩), (0x4709C37FFFFF, .lquery ⟨0, 19, 33, 47, 0x7ffff⟩),
  (0x4809C207FFFF, .lstat ⟨0, 19, 33, 0, 0x7ffff⟩), (0x4909C207FFFF, .lspill ⟨0, 19, 33, 0, 0x7ffff⟩),
  (0x5099C37FFFFF, .xsend ⟨9, 19, 33, 47, 0x7ffff⟩), (0x5109C200001F, .xa2a ⟨0, 19, 33, 0, 0x1f⟩),
  (0x5209C200001F, .xbkt ⟨0, 19, 33, 0, 0x1f⟩), (0x5309C200001F, .xpool ⟨0, 19, 33, 0, 0x1f⟩),
  (0x54098178001F, .pcnt ⟨0, 19, 0, 47, 0x1f⟩), (0x550980000000, .pwait ⟨0, 19, 0, 0, 0x0⟩),
  (0x5609C378001F, .xstat ⟨0, 19, 33, 47, 0x1f⟩), (0x570980000000, .xcan ⟨0, 19, 0, 0, 0x0⟩),
  (0x5809C2000000, .tbarr ⟨0, 19, 33, 0, 0x0⟩), (0x5909C378001F, .tstat ⟨0, 19, 33, 47, 0x1f⟩),
  (0x5A098178001F, .tepoch ⟨0, 19, 0, 47, 0x1f⟩), (0x5B09C378001F, .tlog ⟨0, 19, 33, 47, 0x1f⟩)]
theorem test_decodes_wordsCopy2 : wordsCopy2.all (reads (slotOf .copy readCopy) encodeCopy) = true := by decide

/-! ### Worked examples of the spec -/

/-- The bundle of "A bundle in bits": LDS.n32 s9, s4, 16 with VADD.f32 v3, v1, v2 and WAIT f2. -/
theorem test_bundle_in_bits : decodeBundle (BitVec.ofNat 384 (0x40100040100 % 2 ^ 16 + 0x0004 * 2 ^ 16 + 0x4010 * 2 ^ 80 +
      0x4424 * 2 ^ 96 + 0x0003 * 2 ^ 160 + 0x0102 * 2 ^ 176 + 0x0103 * 2 ^ 192)) =
    .ok { Bundle.nop with
      sync := some (.wait 4)
      sA := some (.ldsN32 9 4 16)
      vA := some (.vadd ⟨3, 1, 2, 0, 0, false, .f32, false, 0⟩) } := by decide +kernel

/-- The words of the loop nest at the end of the scalar chapter, with END and LBE in the header. -/
theorem test_loop_nest_bundles :
    decodeBundle (BitVec.ofNat 384 (0x19500003 * 2 ^ 80 + 0x19540002 * 2 ^ 112)) =
      .ok { Bundle.nop with sA := some (.seth 20 0 3), sB := some (.seth 21 0 2) } ∧
    decodeBundle (BitVec.ofNat 384 (0x01145240 * 2 ^ 80 + 2)) =
      .ok { Bundle.nop with lbe := true, sA := some (.add 5 5 9) } ∧
    decodeBundle 1 = .ok { Bundle.nop with fin := true } ∧
    decodeBundle 4 = .error .headerReserved := by decide +kernel

/-- The word has been placed as the next instruction and issued: what the timed domain of core 0 then is. -/
def ran (nbits w : Nat) (f : Timed → Timed) : Option Timed :=
  let s := State.reset.setTimed (f State.reset.timed)
  match step (s.withFetchWord nbits w) with
  | .next t => some (t.coreAt 0).timed
  | .fault _ => none
  | .refused _ => none

/-- R155: the three requests of the example. -/
theorem test_shape_grants : [(0x0000090000000300, 1), (0x0000004000200020, 0), (0xFFFF000000000801, 2)].map
      (fun x => ((ran 32 (0x52000000 + 5 * 2 ^ 12 + 6 * 2 ^ 18 + x.2) fun t => t.setS 5 (BitVec.ofNat 64 x.1)).map
        fun t => (t.sp.shape.toNat, (t.sreg 6).toNat))) =
    [some (0x0001080000800300, 0x0001080000800300), some (0x0000004000200020, 0x0000004000200020),
      some (0x0002040000800400, 0x0002040000800400)] := by decide +kernel

/-- R71: the block of the example, with ftol 4 and 3. -/
theorem test_scale_select : scaleSelect (BitVec.ofNat 32 (133 * 2 ^ 16 + 3)) 8 1 4 = (1, false) ∧
    scaleSelect (BitVec.ofNat 32 (133 * 2 ^ 16 + 3)) 8 1 3 = (1, true) := by decide +kernel

/-- SETH s20, 0, 3 of the loop nest: s20 is 3 one cycle on, and the pc moves past the 25 halfwords of the literal. -/
theorem test_seth_step : (ran 32 0x19500003 id).map (fun t => (t.sreg 20, t.seq.pc)) = some (3, 25) := by decide +kernel

/-- MUL s8, s7, s20 has latency 3 (R128): after its own cycle it is still in flight. -/
theorem test_mul_step : (ran 32 0x20207500 fun t => (t.setS 7 5).setS 20 7).map
    (fun t => (t.sreg 8, t.inFlight.map fun p => (p.remain, p.res))) = some (0, [(2, .scalar 8 35)]) := by decide +kernel

/-- R134: a taken BNEZ has three delay slots before its target. -/
theorem test_bnez_step : (ran 32 0x0324001E fun t => t.setS 9 1).map (fun t => (t.seq.btarget, t.seq.bdelay, t.seq.pc)) =
    some (30, 3, 25) := by decide +kernel

/-- LDS.n32 s9, s4, 16 reads little-endian (R1, R150) and lands at +4. -/
theorem test_lds_step : (ran 32 0x44244010 fun t => (t.setS 4 48).setSbytes 64 4 0xDDCCBBAA).map
    (fun t => t.inFlight.map fun p => (p.remain, p.res)) = some [(3, .scalar 9 0xDDCCBBAA)] := by decide +kernel

/-- R115: END begins the drain. -/
theorem test_end_drains : (match exec .endTask (State.reset.placed 1) with
    | .next t => t.core.task.map (·.phase)
    | .fault _ => none
    | .refused _ => none) = some .draining := by decide +kernel

/-! ### States that meet the hypotheses of the statements

Each theorem `test_meets_<name>` shows, for the statement of that name, states and operands for the hypotheses of each of
its clauses, at the ends of their ranges where they have ends. -/

/-- Core 0 at reset with a task RUNNING on it. -/
def base : State := State.reset.placed 0

/-- `base` with its timed domain changed. -/
def tm (f : Timed → Timed) : State := base.setTimed (f base.timed)

/-- `base` with its sequencer changed. -/
def sq (f : Seq → Seq) : State := tm fun t => { t with seq := f t.seq }

/-- `base` with scalar registers written. -/
def sr (l : List (BitVec 6 × Word)) : State := tm fun t => l.foldl (fun t x => t.setS x.1 x.2) t

/-- CVT.i64.f32: a NaN, both infinities, 1.5, and values outside the range on either side. -/
theorem test_meets_ScalarFp32Results :
    lowF32 ((sr [(5, 0x7FC00000)]).timed.sreg 5) = .nan ∧ lowF32 ((sr [(5, 0x7F800000)]).timed.sreg 5) = .inf false ∧
    (match lowF32 ((sr [(5, 0x3FC00000)]).timed.sreg 5) with
      | .num neg m e => decide ((roundInt false neg m e).1 = 2) | .nan => false | .inf _ => false) = true ∧
    (match lowF32 ((sr [(5, 0x5F000000)]).timed.sreg 5) with
      | .num neg m e => decide (2 ^ 63 - 1 < (roundInt false neg m e).1) | .nan => false | .inf _ => false) = true ∧
    (match lowF32 ((sr [(5, 0xDF000001)]).timed.sreg 5) with
      | .num neg m e => decide ((roundInt false neg m e).1 < -2 ^ 63) | .nan => false | .inf _ => false) = true := by
  decide +kernel

/-- The last address that fits, the first that does not, and a misaligned one, for 1, 2, 4 and 8 bytes. -/
theorem test_meets_ScratchpadInstructions : [1, 2, 4, 8].all (fun n =>
    let A := fun (v : Nat) => ((sr [(5, BitVec.ofNat 64 v)]).timed.sreg 5 + (0 : BitVec 12).signExtend 64).toNat
    decide (A (8388608 - n) + n ≤ 8388608 ∧ A (8388608 - n) % n = 0) && decide (8388608 < A (8388608 - n + 1) + n) &&
      (n == 1 || decide (A 1 + n ≤ 8388608 ∧ A 1 % n ≠ 0))) = true := by decide +kernel

theorem test_meets_ScratchpadBytes : (4088 % 4096 + 8 ≤ 4096 ∧ 8 ≤ 8) ∧ 4096 % 4096 + 4096 ≤ 4096 := by decide

theorem test_meets_SpecialRegisters : base.core.task.isSome = true := by decide +kernel

theorem test_meets_ShapeGrant : (0 : BitVec 2).toNat ≤ 2 ∧ (2 : BitVec 2).toNat ≤ 2 := by decide

/-- No transfer pending and room on the return stack; a delay slot; a loop body; a full and an empty return stack. -/
theorem test_meets_ControlTransfers :
    (base.timed.seq.bdelay = 0 ∧ base.timed.seq.loop.active = false ∧ base.timed.seq.rstack.length < 32) ∧
    (base.timed.seq.rstack = []) ∧
    ((sq fun q => { q with rstack := List.replicate 31 0 }).timed.seq.rstack.length < 32) ∧
    ((sq fun q => { q with rstack := [7] }).timed.seq.rstack = 7 :: []) ∧
    ((sq fun q => { q with bdelay := 3 }).timed.seq.bdelay ≠ 0) ∧
    ((sq fun q => { q with loop := { q.loop with active := true } }).timed.seq.loop.active = true ∧
      (sq fun q => { q with loop := { q.loop with active := true } }).timed.seq.bdelay = 0) ∧
    32 ≤ (sq fun q => { q with rstack := List.replicate 32 0 }).timed.seq.rstack.length := by decide +kernel

/-- m0 all ones after reset, m1 cleared, m2 with lane 0 alone set; VL 1 and VL 1024. -/
theorem test_meets_MaskBranches :
    let s := tm fun t => { (t.setM 1 0).setM 2 1 with sp := { t.sp with shape := 2 } }
    (s.timed.seq.bdelay = 0 ∧ s.timed.seq.loop.active = false ∧ 0 < s.timed.vl ∧ s.timed.vl ≤ 1024) ∧
    (∀ n, n < s.timed.vl → (s.timed.mreg 0).getLsbD n = true) ∧ (∀ n, n < s.timed.vl → (s.timed.mreg 1).getLsbD n = false) ∧
    ((s.timed.mreg 2).getLsbD 0 = true ∧ (s.timed.mreg 2).getLsbD 1 = false) ∧ base.timed.vl = 1024 := by decide +kernel

theorem test_meets_SequencerInstructions : base.timed.seq.rstack.length < 32 ∧
    ((sq fun q => { q with rstack := [7] }).timed.seq.rstack = 7 :: []) ∧
    base.timed.seq.bdelay = 0 ∧ base.timed.seq.loop.active = false ∧ (5 : BitVec 3).toNat ≤ 5 := by decide +kernel

theorem test_meets_TaskEndings : base.core.task.isSome = true := by decide +kernel

/-- Flag 0 SET, flag 1 CLEAR, flag 2 ERROR. -/
theorem test_meets_SyncSlot :
    let s := tm fun t => ((t.setFlag 0 .set).setFlag 1 .clear).setFlag 2 .error
    let named := fun (mask : BitVec 32) (n : BitVec 5) => mask.getLsbD n.toNat = true
    ((∀ n, named 1 n → s.timed.flag n ≠ .error) ∧ (∀ n, named 1 n → s.timed.flag n = .set)) ∧
    ((∀ n, named 3 n → s.timed.flag n ≠ .error) ∧ named 3 0 ∧ s.timed.flag 0 = .set ∧ named 3 1 ∧ s.timed.flag 1 ≠ .set) ∧
    ((∀ n, named 2 n → s.timed.flag n ≠ .error) ∧ (∀ n, named 2 n → s.timed.flag n ≠ .set)) ∧
    (named 5 2 ∧ s.timed.flag 2 = .error ∧ ∀ k : BitVec 5, k.toNat < 2 → named 5 k → s.timed.flag k ≠ .error) := by
  decide +kernel

/-- A bundle that is a wait of mask 1 or 3 alone at the head of issue, flag 0 SET and flag 1 CLEAR: one that holds and one that passes. -/
theorem test_meets_SyncSlot_issue :
    let b := fun (i : Instr) => { Bundle.nop with sync := some i }
    let s := fun (i : Instr) =>
      let x := State.reset.placed (encodeBundle (b i))
      x.setTimed ((x.timed.setFlag 0 .set).setFlag 1 .clear)
    let ready := fun (i : Instr) =>
      ((s i).core.task.any fun k => decide (k.phase = .running) && decide (k.late = none)) && !(s i).timed.seq.loop.skip &&
        (match (s i).core.headBits with
          | .ok w => w == encodeBundle (b i)
          | .error _ => false) &&
        (match (s i).core.head with
          | .ok x => x == b i
          | .error _ => false) && decide ((s i).bundleTrap (b i) = none) && decide ((s i).timed.seq.idle = 0) &&
        decide (bundleConflict (s i).timed (b i) ≤ (s i).timed.seq.conflict)
    ([.wait 1, .wait 3, .waitAny 1, .waitAny 2, .waitC 1, .waitC 3, .fclr 3] : List Instr).all ready = true ∧
    (s (.wait 3)).verdict = .hold 1 ∧ (s (.waitC 3)).verdict = .hold 1 ∧ (s (.waitAny 2)).verdict = .hold 1 ∧
    ([.wait 1, .waitAny 1, .waitC 1] : List Instr).all (fun i => (s i).verdict == .issue (b i) (encodeBundle (b i))) = true := by
  decide +kernel

/-- The lowest and the highest number of each block of registers, and the values of each command field. -/
theorem test_meets_RegisterWrites : (7 < 8 ∧ 15 < 16) ∧ 7 % 8 ≠ 0 ∧
    ([1, 2, 3, 4, 5, 6].all fun k => bits (BitVec.ofNat 64 k).toNat 7 0 == k) = true ∧
    ([1, 2, 3, 4, 5].all fun k => bits (BitVec.ofNat 64 (k * 2 ^ 24)).toNat 27 24 == k &&
      bits (BitVec.ofNat 64 (k * 2 ^ 16)).toNat 19 16 == k && bits (BitVec.ofNat 64 k).toNat 3 0 == k) = true ∧
    (BitVec.ofNat 64 (2 ^ 63)).getLsbD 63 = true ∧ (0 : Word).getLsbD 63 = false ∧
    ((2 : Word).getLsbD 0 = false ∧ (2 : Word).getLsbD 1 = true) ∧
    ((base.onVx 7 fun x => { x with busy := some 1 }).vxOf 7).busy = some 1 ∧ (base.vxOf 7).busy = none ∧ (base.unitOf 15).busy = none ∧
    (let p := (base.onPbc 7 fun p => { p with hotBase := BitVec.ofNat 52 (7 * 2 ^ 44) }).pbcOf 7
     p.used = 0 ∧ p.hotBase.toNat % 65536 = 0 ∧ p.hotBase.toNat / 2 ^ 44 = base.myMod.toNat * 16 + 7 ∧
       p.hotBase.toNat % 2 ^ 44 + bits (2 ^ 20 - 1 + 13 * 2 ^ 24) 19 0 * 2 ^ 13 ≤ 2 ^ 36 ∧ bits (2 ^ 20 - 1 + 13 * 2 ^ 24) 27 24 = 13 ∧
       bits (5 * 2 ^ 24) 27 24 < 6 ∧ 13 < bits (14 * 2 ^ 24) 27 24) ∧
    ((base.onUnit 15 fun x => { x with busy := some 1 }).unitOf 15).busy = some 1 ∧
    (bits (1 : Word).toNat 1 0 = 1 ∧ bits (2 : Word).toNat 1 0 = 2 ∧ 17 < 18) := by decide +kernel

/-- A result of latency 1 and of latency 12 in an empty pipe. -/
theorem test_meets_ResultsLand : base.timed.inFlight = [] ∧ 0 < 1 ∧ (0 < 12) ∧
    (⟨0, 0, .special 0x011 31, 0, []⟩ : Pend).res = .special 0x011 31 ∧
    (∀ n w, (⟨0, 0, .scalar 3 1, 1, []⟩ : Pend).res ≠ .special n w) :=
  ⟨by decide +kernel, by decide, by decide, rfl, fun _ _ h => by cases h⟩

theorem test_meets_VectorArithmeticAndReductions :
    ElemTy.isFloat .i16 = false ∧ ElemTy.isFloat .bf = true ∧ base.timed.vl ≤ 1024 ∧ 4095 < 32768 / 8 ∧ 1023 < 32768 / 32 := by
  decide +kernel

theorem test_meets_VectorBResults :
    (⟨3, 5, 0, 0, 0, false, .f32, false, 2⟩ : VOp).ts? = some .i16 := by decide +kernel

/-- VCVT.f32 from i16, its second half; VCVTW.i8 from i32, its last quarter; VCVTS.bf from f32; VUNPK4.n8 from n4. -/
theorem test_meets_TableAndConvertedElements :
    let n := fun (o : VOp) (ts : ElemTy) => 32768 / max o.ty.width ts.width
    let part := fun (o : VOp) (ts : ElemTy) => decide (o.ts? = some ts) && decide (4 < o.ty.width) &&
      decide (if o.ty.width < ts.width then (o.part + 1) * n o ts ≤ 32768 / o.ty.width
        else if ts.width < o.ty.width then (o.part + 1) * n o ts ≤ 32768 / ts.width else o.part = 0)
    base.timed.vl ≤ 1024 ∧ 31 < 32 ∧ part ⟨3, 5, 0, 0, 0, false, .f32, false, 0x12⟩ .i16 = true ∧
    part ⟨3, 5, 0, 0, 0, false, .i8, false, 0x34⟩ .i32 = true ∧ part ⟨3, 5, 7, 0, 0, false, .bf, false, 0x16⟩ .f32 = true ∧
    part ⟨3, 5, 0, 0, 0, false, .n8, false, 0x1A⟩ .n4 = true ∧ ElemTy.width .n4 = 4 := by decide +kernel

theorem test_meets_Compares : ElemTy.isFloat .n8 = false ∧ ElemTy.isFloat .f32 = true ∧ FVal.isNan .nan = true ∧
    0 < 32 / ElemTy.width .n8 ∧ 3 < 32 / ElemTy.width .n8 := by decide

/-- A scalar index at the last element and block, and one past each. -/
theorem test_meets_MasksElementsStatistics :
    let o : VOp := ⟨3, 5, 7, 0, 0, false, .i16, true, 0⟩
    let idx := fun (v : Nat) => ((sr [(7, BitVec.ofNat 64 v)]).timed.sreg (o.vb.setWidth 6)).toNat
    o.sbf = true ∧ idx 2047 < o.ty.count ∧ idx 127 < 128 ∧ o.ty.count ≤ idx 2048 ∧ 128 ≤ idx 128 := by decide +kernel

theorem test_meets_TransposedElements : (0 : BitVec 4).toNat < 32 / 32 ∧ (1 : BitVec 4).toNat < 32 / 16 ∧
    (3 : BitVec 4).toNat < 32 / 8 := by decide

/-- Sub-rows at the ends; nothing in flight; a drain with a candidate in column 127, whose index is the last one. -/
theorem test_meets_MatrixInstructions : (0 : BitVec 4).toNat ≤ 14 ∧ (14 : BitVec 4).toNat ≤ 14 ∧ base.timed.inFlight = [] ∧ 127 < 128 ∧
    (let t := (tm fun t => { t with sp := { t.sp with apxb := 65407 } }).timed
     t.arr.cen.getLsbD 127 = true ∧ t.sp.apxb.toNat + 127 ≤ 65534 ∧ (ofF32 (colOf (t.row 0) 127)).isNan = false) := by decide +kernel

/-- WCNT at 127 and below; a push to the last row; drains that are taken and drains that are not. -/
theorem test_meets_MatrixEffects :
    ({ ArrayState.reset with wcnt := 127 } : ArrayState).wcnt = 127 ∧ ArrayState.reset.wcnt ≠ 127 ∧
    (1535 : BitVec 12).toNat < 1536 ∧
    (let apex := fun (v : BitVec 32) (i : BitVec 16) => (tm fun t => { t with sp := { t.sp with apxv := v, apxi := i } }).timed
     let high : Drain := ⟨0, true, true, true, 5, 2⟩
     let low : Drain := ⟨0, true, false, true, 5, 2⟩
     let float : Drain := ⟨0, true, true, false, 5, 2⟩
     (apex 0 0xFFFF).sp.apxi = 0xFFFF ∧
     ((apex 4 7).sp.apxi ≠ 0xFFFF ∧ (apex 4 7).sp.apxv.toInt < high.value.toInt ∧ low.value.toInt < (apex 6 7).sp.apxv.toInt) ∧
     (high.value = (apex 5 7).sp.apxv ∧ high.index.toNat < (apex 5 7).sp.apxi.toNat) ∧
     (high.value.toInt < (apex 6 7).sp.apxv.toInt ∧ (apex 4 7).sp.apxv.toInt < low.value.toInt) ∧
     (float.int = false ∧ (ofF32 (apex 0x7FC00000 7).sp.apxv).isNan = true) ∧
     ((ofF32 (apex 4 7).sp.apxv).isNan = false ∧ (apex 4 7).sp.apxi ≠ 0xFFFF) ∧
     (let d : Drain := { high with remain := 1 }
      let p : Pend := ⟨1, 0, .apex 1 9, 0, []⟩
      let t := (tm fun t => { t with arr := { t.arr with drains := [d] }, inFlight := [p] }).timed
      t.arr.drains = [d] ∧ d.remain = 1 ∧ t.inFlight = [p] ∧ p.remain = 1 ∧ p.res = .apex 1 9)) := by decide +kernel

/-- Window 3: 128 rows of 1024 words, skewed, at 0. -/
def w3 : Window := ⟨0, true, 128, 1024, 2⟩

/-- A move of a column group that fits and one that does not; of a row; an undeclared window. -/
theorem test_meets_VectorMovesOfTheCopySlot :
    let s := fun (v : Nat) => tm fun t => (t.setWin 3 (some w3)).setS 5 (BitVec.ofNat 64 v)
    let row := fun (v : Nat) => bits ((s v).timed.sreg 5).toNat 15 0
    let chunk := fun (v : Nat) => bits ((s v).timed.sreg 5).toNat 21 16
    (s 0).timed.win 3 = some w3 ∧ (s 0).timed.win 4 = none ∧
    (row 64 + 64 ≤ w3.sr ∧ chunk (64 + (w3.nc - 1) * 2 ^ 16) < w3.nc) ∧ (w3.sr < row 65 + 64 ∨ w3.nc ≤ chunk (63 * 2 ^ 16)) ∧
    (row (w3.sr - w3.g) % w3.g = 0 ∧ row (w3.sr - w3.g) + w3.g ≤ w3.sr) ∧ row (w3.sr - 1) < w3.sr ∧
    (row w3.sr % w3.g = 0 ∧ w3.sr < row w3.sr + w3.g ∧ w3.sr ≤ row w3.sr) ∧
    ((⟨0, false, 128, 512, 2⟩ : Window).g = 2 ∧ 1 % (⟨0, false, 128, 512, 2⟩ : Window).g ≠ 0) ∧ (base.timed.vl ≤ 1024 ∧ 1023 < 1024) ∧ 4032 % 4096 + 64 ≤ 4096 := by
  decide +kernel

/-- 64-bit words as one number, the first lowest. -/
def words (l : List Nat) : Nat := (l.mapIdx fun i x => x * 2 ^ (64 * i)).sum

/-- Segment 1: 4096 bytes at the start of HBM4 stack 3 of module 0, readable, writable and updatable; segment 0 alike. -/
def seg1 : BitVec 256 := BitVec.ofNat 256 (words [3 * 2 ^ 44, 4096, 11, 0])

/-- A capability of segment 1 at offset `off`. -/
def cap1 (off : Nat) : Word := BitVec.ofNat 64 (2 ^ 58 + off)

/-- Descriptor: `n` runs of `run` bytes, `ws` bytes apart in the window from `start` on and `ms` apart in memory. -/
def desc1 (run n start ws ms : Nat) : BitVec 1024 := BitVec.ofNat 1024 (words [run + 2 ^ 16, start, n + ws * 2 ^ 32, ms])

/-- Window 3 declared, descriptor 2 as given, s5 a capability of segment 1, core 0's task with segments 0 and 1. -/
def tile (d : BitVec 1024) (off : Nat) : State :=
  let s := tm fun t => ((t.setWin 3 (some w3)).setWin 4 (some w3)).setS 5 (cap1 off)
  let t := { s.timed with desc := s.timed.desc.set 2 d }
  let s := s.setTimed t
  s.setCore { s.core with task := s.core.task.map fun k => { k with segs := [seg1, seg1] } }

theorem test_meets_TileCommandsEnter :
    let o : CaOp := ⟨1, 5, 3, 2, 0⟩
    let s := tile (desc1 256 4 0 256 256) 0
    let p := tile (desc1 256 4 0 256 256) 3072
    s.un.count .copy < 24 ∧ tileTrap s o true .rd false none = none ∧ tileTrap p o true .wr false none = none ∧
    tileTrap s { o with ext := 1 } (({ o with ext := 1 } : CaOp).ext.getLsbD (s.focus.val % 12)) .rd false none = none ∧
    tileTrap s { o with ext := 2 } (({ o with ext := 2 } : CaOp).ext.getLsbD (s.focus.val % 12)) .rd false none = none ∧
    tileTrap s { o with ext := 0x28 } true .rd false (some (8, 256)) = none ∧
    tileTrap s o true .wr true none = none ∧
    (s.timed.win 3 = some w3 ∧ s.timed.win 4 = some w3) := by decide +kernel

/-- Undeclared; empty; misaligned; one byte outside the window; one byte outside the segment; allowed to the last byte. -/
theorem test_meets_TileChecks :
    let inside := fun (s : State) => decide (0 ≤ (dWstart (s.timed.descr 2) : Int) + (spanOf (s.timed.descr 2) s.timed.seq.loop.cnt dWstride).1) &&
      decide ((dWstart (s.timed.descr 2) : Int) + (spanOf (s.timed.descr 2) s.timed.seq.loop.cnt dWstride).2 + dRun (s.timed.descr 2) ≤ w3.size)
    let aligned := fun (s : State) => decide (capOffs (s.timed.sreg 5) % 4 = 0 ∧ dRun (s.timed.descr 2) % 4 = 0 ∧
      dWstart (s.timed.descr 2) % 4 = 0 ∧ ∀ k, k < dNdim (s.timed.descr 2) →
        dWstride (s.timed.descr 2) k % 4 = 0 ∧ dMstride (s.timed.descr 2) k % 4 = 0)
    let allowed := fun (s : State) => segOk s (s.timed.sreg 5) .rd false
      (byteSpan (s.timed.descr 2) s.timed.seq.loop.cnt (capOffs (s.timed.sreg 5)) none)
    let runs := fun (s : State) => runCount (s.timed.descr 2)
    ((tile (desc1 256 4 0 256 256) 0).timed.win 5 = none ∧ runs (tile (desc1 256 4 0 256 256) 0) ≠ 0) ∧ runs (tile (desc1 0 4 0 256 256) 0) = 0 ∧
    (runs (tile (desc1 256 4 0 256 256) 2) ≠ 0 ∧ aligned (tile (desc1 256 4 0 256 256) 2) = false) ∧
    (aligned (tile (desc1 256 4 (w3.size - 1020) 256 256) 0) = true ∧ inside (tile (desc1 256 4 (w3.size - 1020) 256 256) 0) = false) ∧
    (inside (tile (desc1 256 4 (w3.size - 1024) 256 256) 3076) = true ∧ allowed (tile (desc1 256 4 (w3.size - 1024) 256 256) 3076) = false) ∧
    (aligned (tile (desc1 256 4 (w3.size - 1024) 256 256) 3072) = true ∧ inside (tile (desc1 256 4 (w3.size - 1024) 256 256) 3072) = true ∧
      allowed (tile (desc1 256 4 (w3.size - 1024) 256 256) 3072) = true) := by decide +kernel

/-- WDECL at the last address that fits and one page on; DSET of a good image, of a bad one, and from a bad address. -/
theorem test_meets_WindowsAndDescriptors :
    let decl := fun (v : Nat) => windowOf base.timed.sp.shape (BitVec.ofNat 23 v) true
    let img := fun (d : Nat) => BitVec.ofNat 1024 ((tm fun t => t.setSbytes 128 24 d).timed.sread 128 128)
    base.un.count .copy < 24 ∧
    ((8388608 - 524288) % 4096 = 0 ∧ 8388608 - 524288 + (decl (8388608 - 524288)).storage ≤ 8388608) ∧
    ¬ ((8388608 - 520192) % 4096 = 0 ∧ 8388608 - 520192 + (decl (8388608 - 520192)).storage ≤ 8388608) ∧
    ((8388608 - 128) % 128 = 0 ∧ 8388608 - 128 + 128 ≤ 8388608) ∧ ¬ (64 % 128 = 0 ∧ 64 + 128 ≤ 8388608) ∧
    descBad (img (words [256 + 2 ^ 16, 0, 4 + 256 * 2 ^ 32])) = false ∧ descBad (img (words [256 + 7 * 2 ^ 16, 0, 4])) = true ∧
    (1 ≤ w3.tr.toNat ∧ w3.tr.toNat ≤ 128 ∧ 1 ≤ w3.rbu ∧ w3.rbu ≤ 4096 ∧ 0 < w3.sr ∧ w3.rp - 1 < w3.rp ∧ w3.sr - 1 < w3.sr) := by
  decide +kernel

/-- A batch number `n`, closed or open, with `k` commands. -/
def batch (n : Nat) (isOpen : Bool) (k : Nat) : Batch := ⟨n, isOpen, none, k, none⟩

/-- A command of an engine in the queue of core 0. -/
def queued (e : Engine) (i : Instr) : Cmd := newCmd base.timed base.un e i 0 0 0 none none 0

/-- No, fifteen and sixteen closed batches; few enough and too many outstanding; each queue full. -/
theorem test_meets_BatchControlAndFullQueues :
    let s := fun (n : Nat) => base.setUn { base.un with
      batches := (List.range n).map (fun i => batch i false 1) ++ [batch n true 1] }
    let closed := fun (n : Nat) => ((s n).un.batches.filter fun b => !b.isOpen).length
    let full := fun (e : Engine) (i : Instr) => base.setUn { base.un with queue := List.replicate e.depth (queued e i) }
    base.un.count .copy < 24 ∧ closed 0 < 16 ∧ closed 15 < 16 ∧ 16 ≤ closed 16 ∧
    ((s 2).un.outstanding ≤ 3 ∧ 1 < (s 2).un.outstanding) ∧ (∃ b, b ∈ (s 16).un.batches ∧ b.isOpen = true ∧ 0 < b.count) ∧
    ¬ (∃ b, b ∈ base.un.batches ∧ b.isOpen = true ∧ 0 < b.count) ∧
    ([(Engine.copy, Instr.pwait ⟨0, 1, 0, 0, 0⟩), (.vertex, .phdrop ⟨0, 1, 0, 0, 0⟩), (.lattice, .lapply ⟨0, 1, 0, 0, 0⟩),
      (.exchange, .xsend ⟨0, 1, 0, 0, 1⟩)].all fun x => decide (engineOf x.2 = some x.1) &&
        decide (x.1.depth ≤ (full x.1 x.2).un.count x.1) && decide (copyTrap (full x.1 x.2) x.2 = none)) = true := by decide +kernel

/-- Window 7: one row of 64 bytes at 0x1000. -/
def w7 : Window := ⟨0x1000, false, 1, 16, 2⟩

/-- s5 and s6 as given, window 7 declared. -/
def two (a b : Nat) : State := tm fun t => ((t.setWin 7 (some w7)).setS 5 (BitVec.ofNat 64 a)).setS 6 (BitVec.ofNat 64 b)

/-- Handles at the last object and beyond it, odd words, windows that hold 16 and 64 bytes and that do not. -/
theorem test_meets_VertexCommandsAtIssue :
    let h := fun (v : Nat) => ((two v 0).timed.sreg 5).toNat
    let l := fun (v : Nat) => ((two 0 v).timed.sreg 6).toNat
    let count := fun (v : Nat) => bits ((two 0 v).timed.sreg 6).toNat 55 32
    let arm : Arm := ⟨0, 0, 0, 0, 4, 0, 0, true, 0, false⟩
    base.un.count .vertex < 16 ∧ (two 0 0).timed.win 7 = some w7 ∧ base.timed.win 7 = none ∧
    (h (2 ^ 39 - 16) < 2 ^ 39 ∧ h (2 ^ 39 - 16) % 16 = 0) ∧ ¬ (h (2 ^ 39) < 2 ^ 39) ∧ ¬ (h 8 % 16 = 0) ∧
    (((0x27 : BitVec 19).getLsbD 5 = true → ((two 7 0).timed.sreg 5).getLsbD 3 = false)) ∧
    ((0x27 : BitVec 19).getLsbD 5 = true ∧ ((two 8 0).timed.sreg 5).getLsbD 3 = true) ∧
    (l 48 % 16 = 0 ∧ l 48 + 16 ≤ w7.size) ∧ (l 0 % 16 = 0 ∧ l 0 + 64 ≤ w7.size) ∧ ¬ (l 16 + 64 ≤ w7.size) ∧ ¬ (l 8 % 16 = 0) ∧
    (count (64 * 2 ^ 32) ≤ w7.size ∧ w7.size < count (65 * 2 ^ 32)) ∧ base.un.arms.get 0 = none ∧
    (let s := base.setUn { base.un with arms := .replicate 4 (some arm) }
     ∀ k : Fin 4, s.un.arms.get k = some arm ∧ arm.w ≠ 7) := by decide +kernel

/-- A control block in the scratchpad at 0x2000, named by s5; s6 as given; windows 7 and 3 declared. -/
def block (v b : Nat) : State := tm fun t =>
  ((((t.setWin 7 (some w7)).setWin 3 (some w3)).setS 5 0x2000).setS 6 (BitVec.ofNat 64 b)).writePart (storePart 0x2000 64 v)

/-- Good and bad control blocks, operands, windows, stream slots and handles; stream slot 1 OPEN. -/
theorem test_meets_GatherLatticeExchangeCommandsEnter :
    let gcb := words [5 + 2 * 2 ^ 16 + 4 * 2 ^ 48, 0, 0, 0, 0]
    let g := block gcb 0
    let bag : CfOp := ⟨0, 1, 5, 0, 3 + 7 * 32⟩
    let q : CfOp := ⟨0, 1, 5, 6, 7⟩
    let open' := fun (s : State) => s.setCore { s.core with
      task := s.core.task.map fun k => { k with streams := k.streams.set 1 (some ⟨0, 4, 0, 9⟩) } }
    let xcb := words [7 * 2 ^ 24, 0, 0, 64]
    (g.un.count .copy < 24 ∧ g.un.count .lattice < 16 ∧ g.un.count .exchange < 16 ∧ g.core.task.isSome = true) ∧
    (gbagTrap g.timed bag false = none ∧ gbagTrap g.timed bag true = none ∧ gprefTrap g.timed bag = none) ∧
    ((gbagTrap (block 0 0).timed bag false).isSome = true ∧ (gprefTrap (block 0 0).timed bag).isSome = true ∧
      (gbagTrap g.timed { bag with ext := 4 } false).isSome = true) ∧
    (gqueryTrap (two (2 ^ 42 - 1) 48).timed q rowOperandBad 16 = none ∧ (gqueryTrap (two (2 ^ 42) 48).timed q rowOperandBad 16).isSome = true ∧
      gqueryTrap (two 0x703FF 0).timed q counterOperandBad 64 = none ∧
      (gqueryTrap (two 0x400 0).timed q counterOperandBad 64).isSome = true ∧ counterOperandBad 0x400 = true ∧
      counterOperandBad 0x703FF = false) ∧
    (lopenTrap (two 0 1024) { q with ext := 0 } = none ∧ (lopenTrap (two 0 1025) { q with ext := 0 }).isSome = true ∧
      (lopenTrap (open' (two 0 4)) { q with ext := 1 }).isSome = true) ∧
    ((open' (two 3 0)).slotOf 1 = some ⟨0, 4, 0, 9⟩ ∧ lpushTrap (open' (two 1024 0)) { q with ext := 0x10000 } 1024 1024 = none ∧
      (lpushTrap (open' (two 1025 0)) { q with ext := 0x10000 } 1025 1025).isSome = true ∧
      (lpushTrap (two 3 0) { q with ext := 0x10000 } 3 3).isSome = true ∧
      lcloseTrap (open' (two 3 0)) { q with ext := 1 } = none ∧ (lcloseTrap (two 3 0) { q with ext := 1 }).isSome = true) ∧
    (lhTrap (two (2 ^ 26 - 1) 0).timed q = none ∧ (lhTrap (two (2 ^ 26) 0).timed q).isSome = true ∧
      lqueryTrap (two 0 0).timed q 16 = none ∧ lqueryTrap (two 0 0).timed q 64 = none ∧
      (lqueryTrap (two 0 0).timed { q with ext := 7 + 32 } 64).isSome = true) ∧
    (collectiveTrap (block xcb 0).timed q false = none ∧ collectiveTrap (block xcb 0).timed q true = none ∧
      (collectiveTrap (block 0 0).timed q false).isSome = true) ∧
    (windowFits (two 0 0).timed 7 0 64 = true ∧ windowFits (two 0 0).timed 7 16 64 = false) := by decide +kernel

/-- A well-formed instruction of each slot, and a bundle with all of them. -/
theorem test_meets_EncodeDecode :
    let b : Bundle := { Bundle.nop with
      sync := some (.wait 0xFFFFFFFF), br := some (.bnez 63 0x1FFFF), sA := some (.ldsN32 63 63 0xFFF), sB := some (.seth 63 3 0xFFFF),
      vA := some (.vadd ⟨159, 159, 159, 0, 15, true, .f32, false, 0⟩), vB := some (.vlut3 ⟨159, 159, 159, 159, 14, true, .n16, false, 0xFF⟩),
      mx := some (.mpushw 3 159 31), tr := some (.xposeN16 159 159 1), cp := some (.tldm ⟨15, 63, 31, 15, 0xFFF⟩) }
    let has := fun (x : Option Instr) (s : Slot) => x.any fun i => i.wf && i.slot? == some s
    (has b.br .branch && has b.sA .scalar && has b.sB .scalar && has b.vA .vectorA && has b.vB .vectorB && has b.mx .matrix && has b.tr .transpose && has b.cp .copy && has b.sync .sync) = true ∧
    (decodeTableWord 32 0x44244010).isSome = true := by decide +kernel

/-! ### The trust engine, SPDM, starts and power -/

/-- The module's own entry (0) and member 63, KIND 0 modules 0 and 1, in the states given; DSTATE as given. -/
def trustIn (own other : MState) (d : DState) : State :=
  State.reset.onTrust fun t =>
    { (t.setMember 0 { Member.reset with valid := true, mstate := own }).setMember 63
        { Member.reset with valid := true, mod := 1, mstate := other } with dstate := d }

/-- The trust engine's other fields changed. -/
def trustWith (s : State) (f : Trust → Trust) : State := s.onTrust f

/-- A command of the copy slot in the queue of core 0, captured with s5 = `a`, s6 = `b` and window 7. -/
def slotted (s : State) (i : Instr) (a b : Nat) : State :=
  s.setUn { s.un with
    queue := [newCmd s.timed s.un ((engineOf i).getD .copy) i 0 (BitVec.ofNat 64 a) (BitVec.ofNat 64 b) (some w7) none 0]
    nseq := 2 }

theorem test_meets_TrustEngine :
    let t := fun (s : State) => s.trust
    -- one command outstanding, and none
    (t (trustWith State.reset fun t => { t with busy := some .barrier })).busy.isSome = true ∧ State.reset.trust.busy = none ∧
    -- entries: not VALID, VALID and the own one, VALID and another
    (State.reset.trust.member 63).valid = false ∧ ((t (trustIn .none .none .alone)).member 0).valid = true ∧
    ((t (trustIn .none .none .alone)).member 63).valid = true ∧ 63 ≠ (t (trustIn .none .none .alone)).self.toNat ∧
    -- ATTEST: a digest image that may be read, one that may not, one that holds poison
    (trustIn .none .none .alone).imageOk 0 320 = true ∧ (trustIn .none .none .alone).imageOk 32 320 = false ∧
    ((trustIn .none .none .alone).homeReadLong 3 0 320).2.2 = false ∧
    (({ trustIn .none .none .alone with poison := [9] } : State).homeReadLong 3 0 320).2.2 = true ∧
    -- the own state and the states that the clauses name
    ((t (trustIn .none .pending .alone)).member 63).mstate = .pending ∧ ((t (trustIn .active .active .active)).member 63).mstate = .active ∧
    ((t (trustIn .active .leaving .active)).member 63).mstate = .leaving ∧ (t (trustIn .active .active .active)).arrivals = [] ∧
    (t (trustIn .active .active .holding)).dstate = .holding ∧ (t (trustIn .active .active .arrived)).dstate = .arrived ∧
    -- an arrival at a barrier: crossings answered and not, agreement, disagreement, neither
    (let h := trustIn .active .pending .holding
     let r := trustWith h fun t => { t with released := true }
     let a := fun (e : BitVec 32) => trustWith r fun t =>
       { t with arrivals := [⟨63, e, t.memberSet, t.departing⟩] }
     (t r).released = true ∧ (t h).released = false ∧ r.crossingOut = false ∧
     ((t r).disagreed = false ∧ (t r).agreed = false) ∧ ((t (a 1)).disagreed = false ∧ (t (a 1)).agreed = true) ∧
     (t (a 2)).disagreed = true) ∧
    -- a member set that goes on after the pass, and one that does not
    ((∃ k, k < 64 ∧ k ≠ (t (trustIn .active .active .holding)).self.toNat ∧ ((t (trustIn .active .active .holding)).member k).mstate = .active) ∧
      ∀ k, k < 64 → ((t (trustIn .active .leaving .holding)).member k).mstate ≠ .pending) := by
  decide +kernel

/-- A request of a core's command that is away, and the four trust commands of a core ready, waiting, reached and not. -/
theorem test_meets_TrustEngine_commands :
    let away : Req := ⟨0, 2 ^ 48, 256, 0, 0, 0, 0, false, 0, 0, 0, .ring, 0, 0, none⟩
    let out := base.setUn { base.un with queue := [{ queued .copy (.tld ⟨0, 0, 0, 0, 0⟩) with reqs := [away] }] }
    let s := fun (i : Instr) (a : Nat) => slotted (two 0 0) i a 48
    out.crossingOut = true ∧
    ([.tepoch ⟨0, 1, 0, 6, 7⟩, .tstat ⟨0, 1, 5, 6, 7⟩, .tlog ⟨0, 1, 5, 6, 7⟩, .tbarr ⟨0, 1, 5, 0, 0⟩].all fun i =>
      ((s i 63).cmd? 0 1).isSome) = true ∧
    ((s (.tepoch ⟨0, 1, 0, 6, 7⟩) 0).cmd? 0 1).any (fun c => c.win == some w7 && decide (c.b.toNat + 16 ≤ w7.size) && decide (c.prog.parked = none)) = true ∧
    (s (.tbarr ⟨0, 1, 5, 0, 0⟩) 0).settled 0 1 0xFFFF = true ∧ base.releaseHeld 0 = false ∧
    ((base.trust.epoch - 0).toNat < 2 ^ 31 ∧ ¬ (base.trust.epoch - 1).toNat < 2 ^ 31) ∧
    ((base.coreAt 0).task.isSome = true ∧
      ((s (.tbarr ⟨0, 1, 5, 0, 0⟩) 0).setUn { (s (.tbarr ⟨0, 1, 5, 0, 0⟩) 0).un with
        queue := { queued .copy (.tst ⟨0, 0, 0, 0, 0⟩) with seq := 0 } :: (s (.tbarr ⟨0, 1, 5, 0, 0⟩) 0).un.queue }).settled 0 1 0xFFFF = false) := by
  decide +kernel

theorem test_meets_AttestationMessages :
    let digests : List (BitVec 384) := [1, 2, 3, 4, 5]
    let m := fun (st : MState) (d : DState) (steps : Nat) => trustWith (trustIn .active st d) fun t =>
      { t.setMember 63 { t.member 63 with refs := digests, steps := steps } with attestPeriod := 1, busy := some (.attest 63) }
    let x := fun (st : MState) => ((m st .active 7).trust.member 63).mstate
    -- barrier messages and notices, from a member known and unknown, of a member that may be evicted
    ((m .none .active 0).trust.member 63).mstate = .none ∧ x .pending = .pending ∧ x .leaving = .leaving ∧
    ((m .active .alone 7).trust.dstate = .alone ∧ (m .active .active 7).trust.dstate = .active ∧ (m .active .active 7).trust.arrivals = []) ∧
    -- the timer of R370
    ((m .active .active 7).trust.attestPeriod ≠ 0 ∧ ((m .active .active 7).trust.member 63).refs ≠ [] ∧
      State.reset.trust.attestPeriod = 0) ∧
    -- SPDM: requesters that are answered and not; each stage; entries; sessions open and finished
    (let w : Requester := ⟨false, 1⟩
     let rack := fun (own other : MState) => { trustIn own other .alone with xchg := { State.reset.xchg with rackMap := 3 } }
     let at' := fun (stage : Nat) (session finished chunking : Bool) (st : MState) =>
       (rack .none st).putConn ⟨w, stage, session, finished, 0, 2, chunking⟩
     State.reset.answers w = false ∧ (rack .none .none).answers w = true ∧
     ((List.range 4).all fun k => ((at' k false false false .none).conn w).stage == k) = true ∧
     ((at' 2 false false true .none).conn w).nextChunk = 2 ∧
     (State.reset.entryOf w = none ∧ (rack .none .none).entryOf w = some 63 ∧ ((rack .none .none).trust.member 63).mstate = .none) ∧
     (((at' 3 true true false .pending).conn w).session = true ∧ ((at' 3 true true false .pending).conn w).finished = true) ∧
     (((at' 3 true false false .attesting).conn w).finished = false ∧ ((at' 3 true false false .attesting).trust.member 63).mstate = .attesting) ∧
     ((at' 3 false false false .none).conn w).session = false) ∧
    -- answers to the own requests: each step, right and wrong
    (answerStep digests 0 (.capabilities true) = none ∧ answerStep digests 0 (.version false) = some false ∧
      answerStep digests 0 (.version true) = some true ∧ answerStep digests 9 (.finish true) = some true ∧
      ((m .attesting .active 9).trust.member 63).steps = 9 ∧ (m .attesting .active 9).trust.busy = some (.attest 63) ∧
      answerStep digests 7 (.measurements digests true true) = some true ∧ answerStep digests 7 .error = some false ∧
      answerStep digests 2 (.algorithms ⟨.sha384, .rsaPss3072, .ecdheP384MlKem1024, .aes256Gcm, .other 1⟩) = some false ∧
      answerStep digests 8 (.keyExchange true true false) = some false ∧ (⟨true, true, true, false⟩ : Proofs).ok = false ∧
      (⟨true, true, true, true⟩ : Proofs).ok = true ∧
      ((m .active .active 7).trust.member 63).steps = 7) := by decide +kernel

/-- A controller in a state, cold or not. -/
def controller (st : SState) (cold : Bool) : State := { State.reset with ctl := { Control.reset with sstate := st, cold := cold } }

/-- Readings: every sensor at `temp`, every rail at `volt`. -/
def readings (temp : BitVec 16) (volt : BitVec 16) (power : BitVec 12) : SensorReadings :=
  ⟨.replicate 25 temp, .replicate 18 volt, power, .replicate 17 0⟩

theorem test_meets_StartsAndPower :
    ((controller .starting false).ctl.sstate = .starting ∧ State.reset.ctl.sstate ≠ .starting) ∧
    (let x : StartChecks := ⟨false, true, 0⟩
     let y : StartChecks := ⟨true, false, 0⟩
     let z : StartChecks := ⟨true, true, 15⟩
     x.fwOk = false ∧ (y.fwOk = true ∧ y.trainOk = false) ∧ (z.fwOk = true ∧ z.trainOk = true)) ∧
    ((controller .failed false).ctl.cold = false ∧ (controller .ready true).ctl.cold = true ∧ (controller .ready true).ctl.sstate ≠ .starting) ∧
    -- what a warm start at the same rack position keeps
    ((⟨true, true, 0⟩ : StartChecks).position = State.reset.myMod ∧
      (∀ n : Fin 8, (State.reset.hbm.get n).hashM = (State.reset.hbm.get n).hashA) ∧ Memory.wf State.reset.mem = true ∧
      State.reset.mem = [] ∧ (List.range 8).all (fun n => (State.reset.rdcOf n).isEmpty) = true) ∧
    (controller .tripped true).ctl.sstate = .tripped ∧
    -- trip, throttle and neither, at the thresholds
    ((readings 1760 0 0).temps.get 24 = 1760 ∧ (Control.reset.tTrip).toNat ≤ 1760 ∧ ¬ Control.reset.tTrip.toNat ≤ 1759) ∧
    (let c : Control := { Control.reset with vTrip := .replicate 18 600, vLow := .replicate 18 700 }
     c.vTrip.get 17 ≠ 0 ∧ ((readings 0 599 0).volts.get 17).toNat < (c.vTrip.get 17).toNat ∧
       ((readings 0 699 0).volts.get 0).toNat < (c.vLow.get 0).toNat ∧ ¬ ((readings 0 700 0).volts.get 0).toNat < (c.vLow.get 0).toNat) ∧
    (Control.reset.tThrot.toNat ≤ ((readings 1520 0 0).temps.get 0).toNat ∧ Control.reset.pwrCap.toNat < (readings 0 0 2401).power.toNat) ∧
    ((∀ i : Fin 25, ((readings 1439 0 0).temps.get i).toNat + 80 < Control.reset.tThrot.toNat) ∧
      (readings 0 0 2299).power.toNat + 100 < Control.reset.pwrCap.toNat ∧ ∀ i : Fin 18, Control.reset.vLow.get i = 0) ∧
    Control.reset.pwrStep.toNat ≤ 8 := by decide +kernel

/-! ### The step -/

theorem test_meets_StepRunsDecodedInstruction :
    -- a literal and a dictionary entry
    (let c := base.core
     c.timed.seq.loop.replays = false ∧ c.image.badHalf = [] ∧ Store.get 0 c.image.overlay 0 = 0xFFFF ∧ 0 + 25 ≤ c.image.overlayLen ∧
       bundleValid 0 = true) ∧
    (let c := { base.core with image := { base.core.image with overlay := [], dictCount := 1, dict := [] } }
     (Store.get 0 c.image.overlay c.timed.seq.pc.toNat).toNat < c.image.dictCount ∧ 0 < c.image.overlayLen ∧ c.image.badDict = []) ∧
    -- a bundle decodes; core 0 issues it in this cycle
    decodeBundle 0 = .ok Bundle.nop ∧ base.choice = .cycle false ∧
    (let c := base.charge base.focus.val
     (c.core.task.any fun k => k.phase == .running) = true ∧ c.un.closedDue = [] ∧ c.boundaryAt c.focus.val = none ∧
       c.verdict = .issue Bundle.nop 0) ∧
    -- a trap, a hold, and a pass of a loop that is skipped
    (State.reset.placed 4).verdict = .trap 0 ⟨0x04, 0⟩ ∧
    (State.reset.withFetchWord 40 0x3001).verdict = .hold 1 ∧
    base.timed.seq.loop.skip = false ∧
    (let s := sq fun q => { q with loop := { q.loop with active := true, skip := true, lenKnown := true, lenM1 := 0 } }
     s.timed.seq.loop.skip = true ∧ s.core.skipTrap = none) := by decide +kernel

theorem test_meets_MemoryStaysCanonical : State.reset.memOk ∧ ∃ t, step State.reset = .next t := by
  have h : (match step State.reset with
    | .next _ => true
    | .fault _ => false
    | .refused _ => false) = true := by decide +kernel
  refine ⟨by unfold State.memOk; decide +kernel, ?_⟩
  match hs : step State.reset with
  | .next t => exact ⟨t, rfl⟩
  | .fault f => rw [hs] at h; cases h
  | .refused r => rw [hs] at h; cases h

theorem test_meets_BoundedRegistersStay : State.reset.boundedRegisters := by unfold State.boundedRegisters; decide +kernel

theorem test_meets_StepGoesOn : State.reset.agenda = [] ∧ State.reset.outsideMissing (2 ^ 36) 1 = true ∧
    State.reset.outsideMissing (2 ^ 36 - 1) 1 = false := by decide +kernel

/-! ### Regions, dispatch, faults and the copy engine -/

/-- An RCB: region 7, enabled, placed on die 0, budget unlimited, queues of four entries, two save slots, vector 5. -/
def rcbRaw : BitVec 2048 := BitVec.ofNat 2048 (words [0, 7 + 2 ^ 38, 0xFFFFFFFFFF, 0x10000 + 2 * 2 ^ 52, 0x20000 + 2 * 2 ^ 52, 0,
  0x100000 + 2 * 2 ^ 52, 5])

/-- A card of two tasks. -/
def cardRaw : BitVec 1024 := BitVec.ofNat 1024 (words [1, 0x40000, 0, 0x30000, 2 + 2 ^ 16 + 2 ^ 32, 0, 9, 11])

/-- A card taken at index 0, `next` tasks dispatched, `running` of them running. -/
def taken (next running : Nat) : Card := ⟨0, cardRaw, true, next, running, next - running, false, false, none, 0, 0, 0, 0⟩

/-- The region of `rcbRaw`, bound, with one card taken and one in its queue. -/
def region7 : Region := { regionOf rcbRaw 0 with bound := true, jqHead := 1, jqTail := 2, rstate := .active, cards := [taken 1 1] }

/-- The task of core 0: the first of that card. -/
def task7 : Task := { Task.plain with rcb := 0x1000, regionId := 7, card := cardRaw, segs := [seg1, seg1] }

/-- Doorbell slot 1023 of die 0 binds a region at 0x1000, the module is READY and dispatches; core 0 as `base` with a task of the
region. -/
def bound (r : Region) (k : Option Task) : State :=
  let s := (State.reset.putRegion 0x1000 r).setSlot 0 1023 ⟨0x1000, true, false, false, 0⟩
  let s := (s.onDcu 0 fun d => { d with dispatchEn := true }).setCore { base.core with task := k }
  { s with ctl := { s.ctl with sstate := .ready } }

/-- `s` as a module of a domain with module 1, while crossings are held. -/
def holds (s : State) : State :=
  { s with trust := (trustIn .active .active .holding).trust, xchg := { s.xchg with rackMap := 3 } }

theorem test_meets_DoorbellSlots :
    let x := fun (s : State) => (s.dcu 0).slot 1023
    let s := bound region7 (some task7)
    ((x State.reset).valid = false ∧ (x State.reset).busy = false) ∧
    ((State.reset.validChain 0x1001).2 = none ∧ (State.reset.validChain 0x1000).2 = some [(0x1000, 0)] ∧
      (bits (recWord (0 : BitVec 2048) 1) 44 42 = 0 ∧ bits (recWord (0 : BitVec 2048) 1) 44 42 ≠ 7)) ∧
    (x (State.reset.setSlot 0 1023 ⟨0, false, true, false, 0⟩)).busy = true ∧
    ((x s).valid = true ∧ s.region? 0x1000 = some region7) ∧
    ((8 : BitVec 32) ≠ region7.id ∧ (7 : BitVec 32) = region7.id) ∧
    (2 ^ region7.jqLog2 < (6 - region7.jqHead).toNat ∧ (5 - region7.jqHead).toNat ≤ 2 ^ region7.jqLog2) ∧
    ((region7.jqTail - region7.jqHead).toNat < (3 - region7.jqHead).toNat ∧
      (2 - region7.jqHead).toNat ≤ (region7.jqTail - region7.jqHead).toNat) ∧
    (s.setSlot 0 1023 ⟨0x1000, false, false, false, 0⟩).isBound 0x1000 = false := by decide +kernel

/-- A pageable segment: 1 MiB, readable and writable, its root table at 0x80000. -/
def paged : BitVec 256 := BitVec.ofNat 256 (words [0, 2 ^ 20, 3 + 2 ^ 10, 0x80000])

/-- Memory with a level 1 entry that names a table, and a level 2 leaf there: readable, or writable too. -/
def tables (leaf : Nat) : Memory := Memory.write (Memory.write [] 0x80000 8 0x81001) 0x81000 8 leaf

/-- Core 0's task with segment 1 pageable. -/
def pagedTask : Task := { task7 with segs := [seg1, paged] }

/-- A task in FAULTHOLD at address 0 of segment 1 for a command of number 0, `n` replays answered. -/
def holding (n : Nat) (m : Memory) : State :=
  let s := bound region7 (some { pagedTask with phase := .faultHold, hold := some ⟨some 0, 0, false, n, false, 0⟩ })
  { s.setUn { s.un with queue := [{ queued .copy (.tld ⟨1, 5, 3, 2, 0⟩) with seq := 0, a := cap1 0 }] } with mem := m }

theorem test_meets_DcuCommands :
    let s := bound region7 (some task7)
    let found := fun (s : State) => s.walkFor 0 0 ((s.heldSeg 0 ⟨some 0, 0, false, 0, false, 0⟩).getD 0) false
    (s.dcu 0).busy = false ∧
    (s.regionsNamed 0 8 = [] ∧ s.regionsNamed 0 7 = [0x1000]) ∧ (s.treeNamed 0 8 = [] ∧ s.treeNamed 0 7 = [0x1000]) ∧
    (12 ≤ (12 : BitVec 32).toNat ∧ (11 : BitVec 32).toNat < 12) ∧ (s.hostEvictable 11 = false ∧ s.hostEvictable 0 = true) ∧
    (11 < (12 : BitVec 32).toNat % 16 ∧ (27 : BitVec 32).toNat % 16 ≤ 11) ∧
    (s.core.task.any fun k => k.hold.isNone) = true ∧
    ((holding 0 []).core.task.any fun k => k.hold.isSome && k.phase == .faultHold) = true ∧
    -- no entry of the task waits for room; one does
    ((holding 0 []).entryWaits 0 = false ∧
      ((holding 0 []).onDcu 0 fun d => { d with flog := { d.flog with en := true, tail := BitVec.ofNat 32 (2 ^ d.flog.log2.toNat), queue := [⟨⟨1, 0x52, 7, 0, 0, 0, 0⟩, 0, 7, 0, 0, 0, 0, 0, 0, .idle⟩] } }).entryWaits 0 = true) ∧
    (found (holding 0 (tables 7)) = .ok ⟨1, 0, 2 ^ 30, 0, true⟩ ∧ found (holding 2 []) = .error .invalid ∧
      found (holding 3 []) = .error .invalid ∧ 2 < 3 ∧ 3 ≤ 3) := by decide +kernel

theorem test_meets_CardsBudgetsAndDispatch :
    let fresh := bound { region7 with cards := [] } none
    let ready := bound region7 none
    -- a card to be read, at its home and poisoned
    ((fresh.dcu 0).slot 1023).valid = true ∧ { region7 with cards := [] }.cardDue = true ∧
    (fresh.dcuRead (0x10000 + 128) 128).2.2 = false ∧ (({ fresh with poison := [0x10080 / 32] } : State).dcuRead 0x10080 128).2.2 = true ∧
    -- its read held back at a barrier, and not
    (fresh.dcuHeld (0x10000 + 128) 128 = false ∧ (holds fresh).dcuHeld (2 ^ 48) 128 = true) ∧
    -- a task to be launched, and one to be evicted for a region that waits
    (match ready.decision 0 with
      | .serve n a prio _ _ _ => decide (n = 0 ∧ a = 0x1000 ∧ prio = 0)
      | .nothing => false
      | .evict _ _ _ => false) = true ∧
    -- a period that is over; a pinned charge
    ({ ready with wall := 1400000 } : State).boundaryDue = true ∧
    (let p := { ready.onDcu 0 fun d => { d with pinned := [(0x1000, 3)] } with wall := 14000 }
     p.pinnedDue 0 = true ∧ (p.dcu 0).pinned = [(0x1000, 3)]) := by decide +kernel

/-- Every core of die 0 runs a task of the region; a region of higher priority, with PREEMPT, waits. -/
theorem test_meets_CardsBudgetsAndDispatch_eviction :
    let high : Region := { regionOf (BitVec.ofNat 2048 (words [0, 8 + 2 ^ 38 + 2 ^ 32 + 2 ^ 39, 0xFFFFFFFFFF, 0x10000, 0x20000])) 0 with
      bound := true, rstate := .active, cards := [taken 0 0] }
    let s := (List.range 12).foldl (fun s n => s.onCore n fun c => { c with task := some { task7 with order := n } })
      ((bound region7 none).putRegion 0x2000 high)
    (match s.decision 0 with
      | .evict n why a => decide (n = 11 ∧ why = 2 ∧ a = 0x2000)
      | .nothing => false
      | .serve _ _ _ _ _ _ => false) = true := by decide +kernel

/-- A segment of 4096 bytes at `a`, readable, writable and updatable. -/
def segAt (a : Nat) : BitVec 256 := BitVec.ofNat 256 (words [a, 4096, 11, 0])

/-- A code segment of 64 bytes, and the memory with a segment table that holds it at 0x30000, an image header at 0x40000 and one
dictionary entry of zeros at 0x40040. -/
def code : BitVec 256 := BitVec.ofNat 256 (words [0x50000, 64, 5, 0])
def imageMem (s0 : BitVec 256) : Memory :=
  Memory.write (Memory.write [] 0x30000 32 s0.toNat) 0x40000 64 (words [0x31534749 + 2 ^ 32, 1, 64])

theorem test_meets_LaunchesAndRestores :
    let s := fun (m : Memory) (r : Option Nat) => { bound region7 (some { task7 with segs := [], phase := .loading, resume := r }) with mem := m }
    let k := fun (r : Option Nat) => { task7 with segs := [], phase := .loading, resume := r }
    let segs := fun (m : Memory) => ((s m none).loadSegs cardRaw).2
    let image := fun (m : Memory) => match ((s m none).loadSegs cardRaw).1.loadImage 0 cardRaw code with
      | (_, .ok im) => decide (im.dictCount = 1 ∧ im.overlayLen = 32)
      | (_, .error _) => false
    (s [] none).loadDue 0 = some (k none) ∧ (s [] (some 1)).loadDue 0 = some (k (some 1)) ∧
    (segs [] = none ∧ segs (imageMem code) = some [code]) ∧ (s (imageMem code) none).loadHeld cardRaw [code] = false ∧
    (holds (s (imageMem code) none)).loadHeld cardRaw [segAt (2 ^ 48)] = true ∧ image (imageMem code) = true ∧ image (Memory.write [] 0x30000 32 code.toNat) = false ∧
    ((bound region7 (some { task7 with phase := .loading, resume := some 1 })).restoreDue 0 =
      some ({ task7 with phase := .loading, resume := some 1 }, 1, 0xB00000)) := by decide +kernel

theorem test_meets_EvictionsAndEnds :
    let s := fun (k : Task) => { bound region7 (some k) with wall := 1 }
    let asked : Task := { task7 with evict := some 3 }
    let fatal : LateFault := ⟨0, 2, .fatal 0x50 1, 0, false⟩
    -- the boundary, with a fatal fault waiting in FAULTHOLD and without one
    ((s asked).boundaryAt 0 = some asked ∧ asked.lateFatal = none) ∧
    (let q : Task := { asked with phase := .faultHold, hold := some ⟨some 0, 0, false, 0, false, 0⟩, late := some fatal }
     (s q).boundaryAt 0 = some q ∧ q.lateFatal = some fatal) ∧
    -- the save: it is due, a slot is free, and it is under way
    (let q : Task := { asked with phase := .evicting }
     (s q).saveReady 0 = some q ∧ { region7 with saveUsed := [0] }.freeSlot = some 1 ∧
       (s { q with saveSlot := some 1 }).saving 0 = some ({ q with saveSlot := some 1 }, 1) ∧
       (region7.cards.any fun x => x.idx == q.cardIdx && (x.stop || region7.below x.idx)) = false) ∧
    -- the drain: without a failure, with one, and after a trap
    (let q : Task := { task7 with phase := .draining }
     let o : Task := { q with streams := q.streams.set 3 (some ⟨0, 4, 0, 9⟩) }
     (s q).drainDue 0 = some q ∧ (s q).drainFailure 0 q = none ∧ ((s o).drainFailure 0 o).isSome = true ∧
       (s { task7 with phase := .failed }).drainDue 0 = some { task7 with phase := .failed }) ∧
    -- a record that is due: every task of its card has ended
    ((bound { region7 with cards := [taken 2 0] } none).recordReady 0x1000 0).isSome = true ∧
    ((bound region7 none).dcuHeld 0x20000 32 = false ∧ (holds (bound region7 none)).dcuHeld (2 ^ 48) 32 = true) := by decide +kernel

/-- A fault-log entry of KIND `k`. -/
def entry (k : BitVec 3) : FaultRec :=
  ⟨⟨k, 0x52, 7, 0, 0, 0, 0⟩, 0, 7, 0, 0, 0, 0, 0, 0, .idle⟩

theorem test_meets_FaultLogOfADie :
    let f : FaultLog := { FaultLog.reset with base := 0x60000, log2 := 1, queue := [entry 1, entry 0] }
    let on : FaultLog := { f with en := true }
    let full : FaultLog := { on with tail := 2 }
    (f.pick f.queue = some (entry 1, [entry 0]) ∧ f.en = false) ∧ (on.pick on.queue = some (entry 1, [entry 0]) ∧ on.full = false) ∧
    (full.full = true ∧ full.pick full.queue = some (entry 0, [entry 1]) ∧ (entry 1).info.kind = 1 ∧ (entry 0).info.kind ≠ 1) ∧
    (full.pick [entry 1] = none) ∧ ((entry 1).core = 0 ∧ (base.coreAt 0).task.any (fun k => k.hold.isNone) = true) ∧
    (f.tail = f.head ∧ full.tail ≠ full.head) ∧
    (0x60000 % 256 = 0 ∧ State.reset.inStack 0 0x60000 = true ∧ 0x60080 % 256 ≠ 0 ∧ State.reset.inStack 0 (2 ^ 44) = false ∧
      State.reset.inStack 0 f.base.toNat = true) := by decide +kernel

/-- A TLD of core 0 in its queue as issued with window 3, a descriptor of 4 runs of 256 bytes, and s5. -/
def tiled (i : Instr) (a : Nat) : Cmd :=
  { newCmd base.timed base.un .copy i 0 (cap1 a) 0 (some w3) none (desc1 256 4 0 256 256) with batch := some 0 }

/-- That command, in a state with segment 1 as given. -/
def copying (c : Cmd) (e : BitVec 256) : State :=
  let s := bound region7 (some { task7 with segs := [seg1, e] })
  s.setUn { s.un with queue := [c], nseq := c.seq + 1 }

theorem test_meets_PagesOfACopyCommand :
    let o : CaOp := ⟨1, 5, 3, 2, 0⟩
    let fetchOf := fun (i : Instr) (m : Memory) =>
      let s := tile (desc1 256 4 0 256 256) 0
      let s := s.setCore { s.core with task := some pagedTask }
      ({ s with mem := m } : State).placed (encodeBundle { Bundle.nop with cp := some i })
    let fetch := fetchOf (.tld o)
    let s := fun (i : Instr) (m : Memory) => { copying (tiled i 0) paged with mem := m }
    -- the head of issue waits for a walk that gives a page, no page, and a fault
    (fetch []).walkDue 0 = some (0, 1, false) ∧
    ((fetch (tables 3)).walkFor 0 0 1 false = .ok ⟨1, 0, 2 ^ 30, 0, false⟩ ∧ (fetch []).walkFor 0 0 1 false = .error .invalid ∧
      (fetch (Memory.write [] 0x80000 8 3)).walkFor 0 0 1 false = .error (.fatal 0x50 1)) ∧
    (fetch []).headPref 0 = false ∧ ((fetchOf (.pref { o with w := 0 }) []).walkDue 0 = some (0, 1, false) ∧ (fetchOf (.pref { o with w := 0 }) []).headPref 0 = true) ∧
    -- a command whose next page is not translated: a load, and a prefetch
    ((s (.tld o) []).translateDue 0 (tiled (.tld o) 0) = some (pagedTask, paged, 0) ∧
      (s (.pref o) []).translateDue 0 (tiled (.pref o) 0) = some (pagedTask, paged, 0) ∧ pagedTask.phase = .running) ∧
    (walk (s (.tld o) (tables 7)) paged 1 0 false = .ok ⟨1, 0, 2 ^ 30, 0, true⟩ ∧
      walk (s (.tst o) (tables 3)) paged 1 0 true = .error (.fatal 0x51 0)) ∧
    (isPref (.pref o) = true ∧ isPref (.tld o) = false) ∧
    (let k := { pagedTask with phase := .evicting }
     let x := s (.tld o) []
     let y := x.setUn { x.un with queue := x.un.queue ++ [{ queued .copy (.gbag ⟨0, 1, 5, 0, 3⟩) with seq := 2 }] }
     ((y.setCore { y.core with task := some k }).translateDue 0 (tiled (.tld o) 0)).any fun y => y.1 == k) = true := by decide +kernel

theorem test_meets_SectorRequests :
    let o : CaOp := ⟨1, 5, 3, 2, 0⟩
    let due := fun (i : Instr) (a : Nat) (e : BitVec 256) => (copying (tiled i a) e).requestDue 0 (tiled i a)
    let s := fun (i : Instr) (e : BitVec 256) => copying (tiled i 0) e
    let here := 3 * 2 ^ 44
    let held : RdcSector := { RdcSector.invalid with full := true }
    -- a request is due: at the own stack, elsewhere, across to a module that may not be reached; a sector held and not
    (due (.tld o) 0 (segAt 0) = some ⟨0, 256, 0, 0, 0⟩ ∧ due (.tld o) 3072 seg1 = some ⟨here + 3072, 256, 0, 0, 0⟩ ∧
      due (.tst o) 4 seg1 = some ⟨here + 4, 252, 0, 0, 0⟩ ∧ (due (.tst o) 0 (segAt 0)).isSome = true ∧
      (due (.strem o) 0 seg1).isSome = true ∧ (due (.tld o) 0 (segAt (2 ^ 48))).isSome = true) ∧
    ((s (.tld o) (segAt 0)).ownStack 0 0 = true ∧ (s (.tld o) seg1).ownStack 0 here = false) ∧
    ((s (.tld o) (segAt (2 ^ 48))).mayCross (2 ^ 48) = false ∧ (s (.tld o) seg1).mayCross here = true) ∧
    (((s (.tld o) seg1).sector 0 (here / 256)).serves (byteMask 0 256) = false ∧ held.serves (byteMask 0 256) = true ∧
      held.poison &&& touchedGranules (byteMask 0 256) = 0) ∧
    (s (.tst o) seg1).winMarked 0 (some w3) 0 256 = false ∧
    (let x := s (.tst o) seg1
     (x.setCore { x.core with marks := [.scratch 0] }).winMarked 0 (some w3) 0 256 = true) ∧ fullPiece 1 256 = false ∧
    isWriteTile (.tst o) = true ∧ ((s (.pref o) (segAt (2 ^ 48))).requestDue 0 (tiled (.pref o) 0)).isSome = true ∧
    -- a request that the RDC serves
    (let r : Req := ⟨5, here, 256, 0, 0, 0, 0, false, 0, 0, 0, .rdc, 0, 0, none⟩
     let c := fun (i : Instr) (w : Bool) => { tiled i 0 with reqs := [{ r with write := w }] }
     let x := fun (i : Instr) (w : Bool) => (copying (c i w) seg1).setSector 0 (here / 256) held
     (x (.tld o) false).homeDue 0 1 5 = some (c (.tld o) false, r) ∧ ((x (.tst o) true).homeDue 0 1 5).isSome = true ∧
       ((x (.tld o) false).sector 0 (here / 256)).serves (byteMask 0 256) = true ∧ (x (.tld o) false).mayCross here = true) ∧
    -- an answer that may land whole, and the acknowledgement of a write
    (let r : Req := ⟨5, here, 256, w3.size - 256, 0, 0, 0, false, 0, 0, 0, .done, 0, 0, none⟩
     let c := fun (i : Instr) (w : Bool) => { tiled i 0 with reqs := [{ r with write := w }] }
     ((copying (c (.tld o) false) seg1).answerDue 0 1 5).isSome = true ∧ ((copying (c (.tst o) true) seg1).answerDue 0 1 5).isSome = true ∧
       (c (.tld o) false).laterWords r = 0 ∧ 0 ≤ r.woff ∧ r.woff.toNat + r.bytes ≤ w3.size ∧ r.bytes % 4 = 0 ∧ r.bytes ≤ 256) := by decide +kernel

theorem test_meets_EndsOfCopyCommands :
    let o : CaOp := ⟨1, 5, 3, 2, 0⟩
    let one := fun (c : Cmd) => (copying c seg1).endDue 0 c
    let two' : Cmd := { queued .copy (.wcopy o) with win := some w3, win2 := some w3 }
    one { tiled (.tld o) 0 with run := 4 } = true ∧ one { tiled (.tld o) 0 with stop := .failed 2 0 } = true ∧
    one (queued .copy (.bclose 1)) = true ∧ one two' = true ∧ one (queued .copy (.wfill o)) = true ∧
    one (queued .copy (.fence 0xFFFF 4 3)) = true ∧ one (queued .copy (.fence 1 0 1)) = true ∧ one (queued .copy (.pcnt ⟨0, 1, 0, 6, 7⟩)) = true ∧
    one (queued .copy (.pwait ⟨0, 1, 0, 0, 0⟩)) = true ∧
    (two'.prog.part = [] ∧ two'.prog.parked = none ∧ two'.prog.left = none ∧ (queued .copy (.wfill o)).win2 = none ∧
      (copying two' seg1).sectorIn true 0 = true ∧ (copying two' seg1).sectorIn false (3 * 2 ^ 36) = true) ∧
    (let far : Window := { w7 with base := 0x100000 }
     (List.range 64).all fun l => (List.range 64).all fun k => decide (far.byteAddr l ≠ w7.byteAddr k)) = true ∧
    (w3.size = w3.size ∧ (copying two' seg1).winMarked 0 (some w3) 0 w3.size = false ∧ 0 + 64 ≤ w7.size) ∧
    ((copying two' seg1).unAt 0).remoteFail = none ∧
    ({ base.un with remoteFail := some 0 }.remoteFail.any fun x => decide (x < 1)) = true ∧
    (let u := fun (f : Option (Nat × FailInfo)) => { base.un with batches := [⟨0, false, some 1, 1, f⟩, batch 1 true 0] }
     (u none).batchDue 0 = some ⟨0, false, some 1, 1, none⟩ ∧
       (u (some (1, ⟨0x43, 0, 0⟩))).batchDue 0 = some ⟨0, false, some 1, 1, some (1, ⟨0x43, 0, 0⟩)⟩) := by decide +kernel

theorem test_meets_SectorsOfAnRdc :
    let here := 3 * 2 ^ 44
    let held : RdcSector := { RdcSector.invalid with full := true }
    let r : Req := ⟨5, here, 256, 0, 0, 0, 0, true, 0, 0, 0, .home, 0, 0, none⟩
    let c := { tiled (.tst ⟨1, 5, 3, 2, 0⟩) 0 with reqs := [r] }
    (here + 255) / 256 = here / 256 ∧ (here + 255) % 256 + 1 ≤ 256 ∧ State.reset.ownStack 7 here = false ∧
    (held.serves (byteMask 255 1) = true ∧ RdcSector.invalid.serves (byteMask 255 1) = false) ∧
    (State.reset.sectorHeld 7 (here / 256) = false ∧ State.reset.trust.holds = false) ∧
    ((copying c seg1).homeDue 0 1 5 = some (c, r) ∧ ((copying c seg1).touch here 256).2 = false ∧ isPref c.ins = false ∧ State.reset.home here = .hbm 3 ∧ State.reset.home (15 * 2 ^ 44) = .lpddr 7 ∧
      isRemote c.ins = false) ∧
    (State.reset.outsideMissing (here + 2 ^ 36 - 1) 1 = false ∧ State.reset.outsideMissing (here + 2 ^ 36) 1 = true) ∧
    ((0x10400 : Word).toNat % 1024 = 0 ∧ (0x10400 : Word).toNat / 1024 % 64 = 2 ^ 0) ∧
    ((0x8000 : Word).toNat / 1024 % 64 = 2 ^ 5) ∧ ¬ ((0x10401 : Word).toNat % 1024 = 0) := by decide +kernel

theorem test_meets_PoisonedGranules :
    let s := (bound region7 none)
    s.ctl.sstate = .ready ∧ (s.granuleHere (2 ^ 31 - 1) = true ∧ s.granuleHere (2 ^ 31) = false) ∧ s.ctl.scrubPeriod ≠ 0 ∧
    (List.range 64).all (fun i => s.place (0x100 + i) == 0x100 + i) = true := by decide +kernel

/-! ### Vertex and the pooling buffers -/

/-- A phaser of scope 4 (machine-wide) with the members of `reg`, all SW, DELIV set. -/
def sw (reg : BitVec 64) : Phaser :=
  { phase := 5, scope := 4, deliv := true, broken := false, cluster := 0, resv := 0, reg := reg, arr := 0, ahead := 0, modeLo := 0,
    modeHi := reg, join := 0, leave := 0 }

/-- Vertex of die 0 with `n` objects, and a kind and generation given to the last. -/
def vertexOf (n : Nat) (k : ObjKind) : VertexUnit := { VertexUnit.reset.setObj (n - 1) ⟨3, k⟩ with objCount := n }

/-- `bound` with that Vertex, memory and poison. -/
def vertexed (u : VertexUnit) : State := (bound region7 (some task7)).onVx 0 fun _ => u

theorem test_meets_VertexHostCommands :
    let N := 1048576
    let s := fun (k : ObjKind) => vertexed (vertexOf N k)
    let u := fun (k : ObjKind) => (s k).vxOf 0
    let good := (Phaser.toRec (sw 1)).toNat
    ((u .free).objCount ≤ N ∧ N - 1 < (u .free).objCount) ∧
    (((u (.sync 0)).obj (N - 1)).kind = .sync 0 ∧ ((u .free).obj (N - 1)).kind = .free) ∧
    ((s .free).imageOk 0 64 = true ∧ (s .free).imageOk 32 64 = false) ∧
    ((s (.sync 7)).readObj 0 (N - 1)).2 = some (.sync 7) ∧ ((s (.phaser (sw 1))).readObj 0 (N - 1)).2 = some (.phaser (sw 1)) ∧
    (((s .free).homeRead 0 64).2.2 = false ∧ (({ s .free with poison := [1] } : State).homeRead 0 64).2.2 = true) ∧
    (phaserImageBad (BitVec.ofNat 512 good) = false ∧ phaserImageBad 0 = true) ∧
    ((0 : BitVec 4) = 0 ∧ 6 ≤ (6 : BitVec 4).toNat) ∧
    ((u .free).allFree = true ∧ (u (.sync 0)).allFree = false) ∧
    ((s .free).ovfBad 0 (BitVec.ofNat 52 (2 ^ 36 - 64 * N)) N = false ∧ (s .free).ovfBad 0 (BitVec.ofNat 52 (2 ^ 36 - 64 * N + 65536)) N = true ∧
      (s .free).ovfBad 7 0 N = true ∧ (s .free).ovfBad 0 1 0 = false) := by decide +kernel

/-- A Vertex command of core 0 on object 15 of die 0, generation 3, with operand b. -/
def onObject (k : ObjKind) (i : Instr) (b : Nat) : State × Cmd :=
  let c := { newCmd base.timed base.un .vertex i 0 (BitVec.ofNat 64 (15 * 16 + 3 * 2 ^ 24)) (BitVec.ofNat 64 b) (some w7) none 0 with cls := 0 }
  let s := vertexed (vertexOf 16 k)
  (s.setUn { s.un with queue := [c], nseq := 2 }, c)

theorem test_meets_VertexPerformsCommands :
    let o : CfOp := ⟨0, 1, 5, 6, 7⟩
    let due := fun (x : State × Cmd) => x.1.vxDue 0 x.2 && (x.1.cmd? 0 1 == some x.2) && decide (hMod x.2.a = x.1.myMod.toNat) &&
      decide (hDie x.2.a < 8) && decide (x.2.prog.parked = none) && decide (x.2.prog.left = none) && decide (hObj x.2.a < (x.1.vxOf 0).objCount) && decide (((x.1.vxOf 0).obj 15).gen = hGen x.2.a)
    let ph := fun (p : Phaser) (i : Instr) (b : Nat) => due (onObject (.phaser p) i b)
    let p63 := sw (2 ^ 63)
    let sig : Phaser := { p63 with modeHi := 0 }
    let recv : Phaser := { p63 with modeLo := 2 ^ 63 }
    -- an object beyond OBJ_COUNT or of another generation; a sync object under a phaser command
    (let x := onObject .free (.phrd o) 0
     x.1.vxDue 0 x.2 = true ∧ ((x.1.vxOf 0).obj 15).gen = 3 ∧
       (vertexed (vertexOf 15 .free)).vxOf 0 = vertexOf 15 .free ∧ (vertexOf 15 .free).objCount ≤ 15) ∧
    (due (onObject (.sync 0) (.pharr o) 63) = true) ∧
    -- each phaser command on a phaser whose only member is 63, or with no member
    (ph (sw 0) (.phreg { o with ext := 7 + 2 * 2 ^ 7 }) 0 = true ∧ register (sw 0) 2 = some ({ sw 1 with reg := 1 }, 0)) ∧
    (ph p63 (.phdrop o) 63 = true ∧ (dropMember p63 63).isSome = true) ∧
    (ph sig (.pharr o) 63 = true ∧ (arrive sig 63).isSome = true ∧ sig.mode 63 = 0) ∧
    (ph p63 (.pharr o) 63 = true ∧ (arrive p63 63).isSome = true ∧ p63.mode 63 = 2) ∧
    (ph p63 (.phwait o) (5 + 63 * 2 ^ 32) = true ∧ p63.reg.getLsbD 63 = true ∧ p63.mode 63 ≠ 0 ∧ 5 + 63 * 2 ^ 32 < 2 ^ 64) ∧
    (ph p63 (.phrd o) 0 = true) ∧
    (let x := onObject (.phaser recv) (.pharm o) 63
     due x = true ∧ recv.mode 63 = 3 ∧
       (let a : Arm := ⟨1, 1, x.2.a, 63, 7, 16, 0, false, 0, false⟩
        ((x.1.setUn { x.1.un with arms := x.1.un.arms.set 3 (some a) }).unAt 0).armOf 1 = some a)) ∧
    (inPhaserScope p63 0 0 0 = true ∧ p63.broken = false) ∧
    -- every command on words, 32 and 64 bits wide
    ([Instr.swld o, .swst o, .aadd o, .amin o, .amax o, .aand o, .aor o, .axor o, .axchg o, .acas o, .afaddF32 o].all fun i =>
      due (onObject (.sync 7) i 0)) = true ∧
    (vxWide o = false ∧ vxWide { o with ext := 32 } = true ∧ hHalf (15 * 16 + 3 * 2 ^ 24 : Word) = false) ∧
    -- an arm whose bytes have come, checked; a record that moves, and one that comes back
    (let a : Arm := ⟨1, 1, BitVec.ofNat 64 (15 * 16 + 3 * 2 ^ 24), 63, 7, 16, 16, true, 0, false⟩
     let s := (vertexed (vertexOf 16 (.phaser recv))).setUn { base.un with arms := base.un.arms.set 3 (some a) }
     s.armDue 0 3 = some a ∧ (s.vxOf 0).poolRoom = true ∧ (s.readObj 0 15).2 = some (.phaser recv) ∧ (arrive recv 63).isSome = true) ∧
    (let a : Arm := ⟨1, 1, BitVec.ofNat 64 (15 * 16 + 3 * 2 ^ 24 + 2 ^ 35), 63, 7, 16, 16, true, 0, false⟩
     let s := (vertexed (vertexOf 16 (.phaser recv))).setUn { base.un with arms := base.un.arms.set 3 (some a) }
     s.armDue 0 3 = some a ∧ hMod a.handle ≠ s.myMod.toNat ∧ s.mayReach (hMod a.handle) = false) ∧
    (let u := vertexOf 16 (.sync 7)
     let s := vertexed { u with moved := [15] }
     15 < u.objCount ∧ 15 ∉ u.moved ∧ 15 ∉ u.bad ∧ (s.vxOf 0).resident < 131072 ∧ (s.readObj 0 15).2 = some (.sync 0)) := by
  decide +kernel

theorem test_meets_PhaserPassage :
    (arrive (sw 3) 0).isSome = true ∧ (arrive { sw 3 with arr := 1 } 0).isSome = true ∧ arrive (sw 3) 63 = none ∧
    (register (sw 3) 3).isSome = true ∧ (register (sw 0) 0).isSome = true ∧ register { sw 3 with deliv := false } 3 = none ∧
    register (sw (BitVec.allOnes 64)) 0 = none := by decide +kernel

/-- A table of 8 rows of 4 FP32 elements, pitch 32, HOTEN and TRAIN, whose one shard is at PBC 0 of module 0. -/
def tableRaw : Table := BitVec.ofNat 8704 (words [0x1800, 4 + 32 * 2 ^ 16 + 8 * 2 ^ 32, 3 * 2 ^ 44, 0, 0, 0, 0, 0, 0, 0])

/-- Table 1023 VALID; PBC 0 with four slots of 64 bytes at the start of stack 0 and the rows given. -/
def tabled (hot : List HotRow) (b : Option PbcBusy) : State :=
  let s := { bound region7 (some task7) with tables := [(1023, tableRaw)] }
  s.onPbc 0 fun p => { p with hotSlots := 4, hot := hot, busy := b }

def rowIn (row slot : Nat) (st : RowState) : HotRow := ⟨1023, row, slot, st, false, 0⟩

theorem test_meets_PoolingHostCommands :
    let s := tabled [] none
    let put := { s with mem := Memory.write [] 0 1088 tableRaw.toNat }
    ((tabled [] (some (.drop 5))).pbcOf 0).busy = some (.drop 5) ∧ (∀ k, k < 8 → (s.pbcOf k).busy = none) ∧
    (s.tableValid 1023 = true ∧ s.tableValid 1022 = false) ∧
    (s.imageOk 0 1088 = true ∧ s.imageOk 32 1088 = false ∧ s.imageOk 0 1152 = true ∧ s.imageOk 32 1152 = false) ∧
    ((put.homeReadLong 6 0 1088).2.2 = false ∧ tableBad put (BitVec.ofNat 8704 (put.homeReadLong 6 0 1088).2.1) = false ∧
      tableBad put (BitVec.ofNat 8704 (s.homeReadLong 6 0 1088).2.1) = true) ∧
    (s.tableInUse 1023 = false ∧
      (s.setUn { s.un with queue := [queued .copy (.gcntrd ⟨0, 1, 5, 6, 7⟩)] }).tableInUse 0 = true ∧
      ((s.setUn { s.un with queue := [{ queued .copy (.gcntrd ⟨0, 1, 5, 6, 7⟩) with a := 1023 }] }).tableInUse 1023 = true)) ∧
    -- rows that hold a TDROP or HOTFLUSH back, and rows that do not
    (((tabled [rowIn 7 3 .resident] none).pbcOf 0).hot = [rowIn 7 3 .resident] ∧ (rowIn 7 3 .resident).st ≠ .migIn) ∧
    -- HOTLOAD: the row at each stage, and a row not held here
    (tHoten tableRaw = true ∧ tPitch tableRaw ≤ 2 ^ (s.pbcOf 0).slotLog2.toNat ∧ s.rowHeld 0 tableRaw 7 = true ∧ s.rowHeld 0 tableRaw 8 = false ∧
      s.rowHeld 1 tableRaw 7 = false) ∧
    ([RowState.migIn, .resident, .migOut].all fun st => ((tabled [rowIn 7 3 st] none).pbcOf 0).find 1023 7 == some (rowIn 7 3 st)) = true ∧
    ((s.pbcOf 0).find 1023 7 = none ∧ ((s.pbcOf 0).promote 1023 7 0).2 = true ∧ ((s.pbcOf 1).promote 1023 7 0).2 = false) ∧
    Store.wf 0 (s.pbcOf 0).sketch = true ∧
    -- the hot-row area that may be written, and one that may not
    ((2 ^ 36 - 4 * 64) % 65536 ≠ 0 ∧ ((2 ^ 36 - 65536) % 65536 = 0 ∧ (2 ^ 36 - 65536) / 2 ^ 44 = s.myMod.toNat * 16 + 0 ∧
      ¬ (2 ^ 36 < (2 ^ 36 - 65536) % 2 ^ 44 + 1024 * 2 ^ 6) ∧ 2 ^ 36 < (2 ^ 36 - 65536) % 2 ^ 44 + 1025 * 2 ^ 6)) ∧
    -- queries of core 0: of a row, beyond the last row, of a table not VALID
    (let q := fun (i : Instr) (a : Nat) => ((slotted s i a 48).cmd? 0 1).filter fun c => c.prog.parked.isNone && c.prog.backoff.isEmpty
     let o : CfOp := ⟨0, 1, 5, 6, 7⟩
     let row := fun (r : Nat) => r + 1023 * 2 ^ 32
     ((q (.gstat o) (row 7)).isSome = true ∧ (q (.gskrd o) (row 8)).isSome = true ∧ (q (.gcntrd o) (1023 + 7 * 2 ^ 16)).isSome = true ∧
       (q (.gcntclr o) 1022).isSome = true) ∧ tRows tableRaw = 8 ∧ shardOf tableRaw 7 = 0 ∧ shPeerF tableRaw 0 = false ∧
       shMod tableRaw 0 = s.myMod.toNat ∧ 48 + 16 ≤ w7.size) := by decide +kernel

theorem test_meets_SketchesAndMigrations :
    let p := fun (hot : List HotRow) => (tabled hot none).pbcOf 0
    let all := (List.range 4).map fun k => rowIn k k .resident
    -- a count that halves its group, one that does not; a row that may be promoted, one that may not
    (at16 { p [] with halve := .replicate 16 1 }.halve 0 = at16 (p []).glookups 0 + 1 ∧ at16 (p []).halve 0 ≠ at16 (p []).glookups 0 + 1) ∧
    (let q := ({ p [] with thresh := .replicate 16 1 }.sketchCount tableRaw 1023 7 0)
     at16 q.1.thresh 0 ≠ 0 ∧ (∀ k, k < 4 → at16 q.1.thresh 0 ≤ q.1.sk 0 k 1023 7) ∧ (p []).find 1023 7 = none) ∧
    -- a free slot, with sixteen and fewer moving; none free, with a victim
    ((p (all.take 3)).freeSlot = some 3 ∧ ((p all).freeSlot = none)) ∧
    (((List.range 16).map fun k => rowIn k k .migIn).filter fun x => x.st != .resident).length = 16 ∧
    ((∀ x, x ∈ (p all).hot → x.slot < (p all).hotSlots.toNat) ∧ (p all).hand < (p all).hotSlots.toNat ∧
      ((p all).hot.all fun x => (p all).hot.all fun y => x.slot != y.slot || x == y) = true ∧
      rowIn 0 0 .resident ∈ (p all).hot ∧ (rowIn 0 0 .resident).ref = false) ∧
    -- slots in every state, with the limit reached and not
    ((p []).inSlot 3 .migIn = none ∧ (p []).inSlot 3 .migOut = none ∧
      (p [rowIn 7 3 .migIn]).inSlot 3 .migIn = some (rowIn 7 3 .migIn) ∧ (p [rowIn 7 3 .migOut]).inSlot 3 .migOut = some (rowIn 7 3 .migOut) ∧
      ((tabled [rowIn 7 3 .migIn] none).applyOld 0 1023 7).rowHasBins 0 1023 7 = false ∧
      ((p [rowIn 6 3 .migOut, rowIn 7 3 .migIn]).inSlot 3 .migOut).isSome = true) ∧
    ((tabled [rowIn 7 3 .migIn] none).wall < 0 + (p []).migLimit.toNat ∧
      0 < 1400000 ∧ 0 + (p []).migLimit.toNat ≤ ({ tabled [rowIn 7 3 .migIn] none with wall := 1400000 } : State).wall) ∧
    ((∀ j, j < 8 → j ≠ 0 → ((tabled [] none).pbcOf j).busy = none) ∧ (p []).busy = none ∧
      ((tabled [] (some (.load 1023 7 true))).pbcOf 0).busy = some (.load 1023 7 true)) ∧ tTrain tableRaw = true := by decide +kernel

/-! ### Gather, Lattice, exchange and other modules -/

/-- Two numbers, either of which orders. -/
theorem test_meets_GatherCommandsPerform_order : List.Perm [FVal.nan, .inf true] [.inf true, .nan] := .swap _ _ _

/-- A gather command of core 0: table 1023, two bags, segment 2 its grant, width 4; offsets and indices in segment 1 at the own
stack, at bytes 0 and 64. -/
def gathering (i : Instr) (g : Option GatherProg) : State × Cmd :=
  let gcb := BitVec.ofNat 1024 (words [1023 + 2 * 2 ^ 16 + 2 * 2 ^ 32 + 4 * 2 ^ 48, 2 ^ 58, 2 ^ 58 + 64, 0, 0])
  let c0 := newCmd base.timed base.un .copy i 0 0 0 (some w3) (some w3) gcb
  let c := { c0 with prog := { c0.prog with gather := g, accepted := g.isSome } }
  let s := tabled [] none
  let s := s.setCore { s.core with task := some { task7 with segs := [seg1, segAt 0, seg1] } }
  ({ s.setUn { s.un with queue := [c], nseq := 2 } with
     mem := Memory.write (Memory.write [] 0 12 (0 + 1 * 2 ^ 32 + 2 * 2 ^ 64)) 64 8 (7 + 8 * 2 ^ 32) }, c)

theorem test_meets_GatherCommandsPerform :
    let o : CfOp := ⟨0, 1, 5, 0, 3 + 7 * 32⟩
    let x := gathering (.gbag o) none
    let s := x.1
    -- a lookup: no Lattice region, not packed bits, a poisoned row and one that is not
    ((∀ k, k < 16 → (s.unitOf k).regions = []) ∧ tFormat tableRaw ≠ 5 ∧ s.rowHome tableRaw 7 = 8 * 2 ^ 44 + 7 * 32 ∧
      s.poisonAt (s.rowHome tableRaw 7) (rowStored tableRaw) = false ∧
      ({ s with poison := [(8 * 2 ^ 44 + 7 * 32) / 32] } : State).poisonAt (s.rowHome tableRaw 7) (rowStored tableRaw) = true) ∧
    -- the command accepted: what it may be, its lists, a valid and an invalid index
    (s.cmd? 0 1 = some x.2 ∧ x.2.prog.accepted = false ∧ x.2.prog.backoff = [] ∧ s.clear 0 1 x.2.cls false = true ∧ s.gatherAllowed 0 x.2 = true ∧
      1023 ∉ s.badTables ∧ (tabled [] none).gatherAllowed 0 x.2 = false) ∧
    (s.listEntry 0 x.2 0 0 = (s, .ok 0) ∧ s.listEntry 0 x.2 0 1 = (s, .ok 1) ∧
      s.listEntry 0 x.2 0 2 = (s, .ok 2) ∧ s.listEntry 0 x.2 1 0 = (s, .ok 7) ∧
      s.listEntry 0 x.2 1 1 = (s, .ok 8) ∧ 7 < tRows tableRaw ∧ tRows tableRaw ≤ 8 ∧
      (match (({ s with poison := [0] } : State).listEntry 0 x.2 0 0).2 with
        | .error a => a != notYet
        | .ok _ => false) = true ∧
      (match (({ holds s with myMod := 1 } : State).listEntry 0 x.2 0 0).2 with
        | .error a => a == notYet
        | .ok _ => false) = true) ∧
    (gBags x.2.img = 2 ∧ isGbagw (.gbag o) = false ∧ isGrows (.grows o) = true ∧ isGpref (.gpref o) = true ∧ isGbagw (.gbagw o) = true) ∧
    (0 + 4 * 4 * 1 + 4 * 4 ≤ w3.size ∧ 1 ≤ w3.rbu ∧ w3.rbu ≤ 4096) := by decide +kernel

/-- Its bags looked up and combined: a shard held here, one on a module that may be reached and one on a module that may not. -/
theorem test_meets_GatherCommandsPerform_bags :
    let o : CfOp := ⟨0, 1, 5, 0, 3 + 7 * 32⟩
    (let b : Bag := ⟨[(7, 0)], 0, false⟩
     let g : GatherProg := ⟨[b, ⟨[], 1, false⟩], none, [], [], [], [], tableRaw⟩
     let y := gathering (.gbag o) (some g)
     y.2.prog.gather = some g ∧ bucketKey 0 0 ∉ y.2.prog.backoff ∧ g.bags[0]? = some b ∧ 0 < g.bound ∧ 0 ∉ g.written ∧ (b.rows.filter fun x => shardOf tableRaw x.1 == 0) ≠ [] ∧
       y.1.shardAway y.2.prog tableRaw 0 = none ∧ y.1.table (gTable y.2.img) = tableRaw ∧ gTable y.2.img ∉ y.1.badTables ∧
       ({ y.1 with tables := [] } : State).table (gTable y.2.img) ≠ tableRaw ∧
       (let look := fun (s : State) => (s.lookupRow tableRaw 1023 7).2
        look y.1 = .ok 0 ∧
          look { y.1 with poison := [(8 * 2 ^ 44 + 7 * 32) / 32] } = .error (8 * 2 ^ 44 + 7 * 32) ∧
          -- a row in a slot, whose key is not its home
          (let t := (tabled [rowIn 7 3 .resident] none).pbcOf 0
           (t.find 1023 7).isSome = true ∧ tTrain tableRaw = true)) ∧
       ({ y.1 with myMod := 1 } : State).shardAway y.2.prog tableRaw 0 = some false ∧
       (let z := { holds y.1 with myMod := 1 }
        z.shardAway y.2.prog tableRaw 0 = some true ∧ z.trust.holds = true ∧
          (z.onTrust fun t => { t with dstate := .active }).shardAway y.2.prog tableRaw 0 = some true ∧
          (z.onTrust fun t => { t with dstate := .active }).trust.holds = false) ∧
       g.begun 0 = false ∧ tWidth tableRaw ≤ 1024 ∧
       (let z : GatherProg := { g with parts := [⟨0, 0, 1, [0, 0, 0, 0]⟩] }
        (z.parts.any fun p => p.bag == 0 && p.shard == 0) = true ∧ 1 < z.bound ∧ g.bags[1]? = some ⟨[], 1, false⟩)) := by decide +kernel

/-- A region of instance 0 at the start of stack 0: operator `op`, width 2, 8 rows of 16 bytes; no spill area. -/
def regionRaw (op : Nat) : BitVec 1024 := BitVec.ofNat 1024 (words [op + 2 * 2 ^ 24, 8 + 16 * 2 ^ 32, 0])

/-- Region 1023 of instance 0 VALID, with what `f` makes of it. -/
def latticed (op : Nat) (f : LRegion → LRegion) : State :=
  let s := bound region7 (some { task7 with segs := [seg1, segAt 0] })
  s.onUnit 0 fun x => { x with regions := [(1023, f (s.capture 0 (regionRaw op)))] }

/-- A bin of key 7, of an epoch. -/
def binOf (e : BitVec 32) : Bin := ⟨7, e, 1, [LongAcc.zero, LongAcc.zero], [], (1, 0), false⟩

/-- The region with stream 9 open, a bin of the epoch and one of an earlier epoch. -/
def busyRegion (g : LRegion) : LRegion :=
  { g with epoch := 1, nextSeq := 2, streams := [⟨9, 1, 1, [binOf 0]⟩], bins := [binOf 1, binOf 0] }

/-- A Lattice command of core 0 for that region, of stream 9. -/
def ofRegion (s : State) (i : Instr) (a b : Nat) : State × Cmd :=
  let c := { newCmd base.timed base.un .lattice i 0 (BitVec.ofNat 64 a) (BitVec.ofNat 64 b) (some w7) none 1023 with uid := 9 }
  (s.setUn { s.un with queue := [c], nseq := 2 }, c)

theorem test_meets_LatticeHostAndRegionCommands :
    let s := latticed 0 id
    let b := latticed 0 busyRegion
    let o : CfOp := ⟨0, 1, 5, 6, 7⟩
    let put := fun (d : BitVec 1024) => { bound region7 none with mem := Memory.write [] 0 128 d.toNat }
    (15 < 16 ∧ 1023 < 1024 ∧ (State.reset.unitOf 15).region? 1023 = none) ∧
    (s.imageOk 0 128 = true ∧ s.imageOk 32 128 = false ∧ s.imageOk 0 192 = true ∧ s.imageOk 32 192 = false) ∧
    (let x := (put (regionRaw 0)).homeRead 0 128
     x.2.2 = false ∧ x.1.regionBad 0 (BitVec.ofNat 1024 x.2.1) = false ∧ bit (recWord (regionRaw 0) 0) 7 = false ∧
       ((put 0).homeRead 0 128).1.regionBad 0 (BitVec.ofNat 1024 ((put 0).homeRead 0 128).2.1) = true) ∧
    (((s.unitOf 0).region? 1023).isSome = true ∧ (s.capture 0 (regionRaw 0)).streams = [] ∧
      ((b.unitOf 0).region? 1023).any (fun g => g.streams != []) = true) ∧
    -- commands of cores: due, of this module and of one that cannot be reached; a region that is not there
    ([Instr.lopen o, .labort o, .lapply o, .lstep o, .lquery o, .lstat o, .lspill o].all fun i =>
      let x := ofRegion b i 1023 2
      (regionFields i).isSome && x.1.latticeDue 0 x.2 && decide (lhMod x.2.lhandle = x.1.myMod.toNat) && (x.1.regionFor x.2.lhandle).isSome) = true ∧
    (let x := ofRegion { b with myMod := 1 } (.lapply o) 1023 2
     lhMod x.2.lhandle ≠ x.1.myMod.toNat ∧ x.1.mayReach (lhMod x.2.lhandle) = false ∧ x.1.latticeDue 0 x.2 = true) ∧
    ((ofRegion State.reset (.lapply o) 0 0).1.regionFor 1023 = none) ∧
    (let x := ofRegion b (.lopen { o with ext := 4 }) 1023 2
     loWidth x.2.b = (busyRegion (s.capture 0 (regionRaw 0))).width ∧
       x.1.rowsGranted 0 (loSeg { o with ext := 4 }) (busyRegion (s.capture 0 (regionRaw 0))) = true ∧
       x.1.linkStill 0 (busyRegion (s.capture 0 (regionRaw 0))) = true ∧
       x.1.rowsGranted 0 (loSeg { o with ext := 0 }) (busyRegion (s.capture 0 (regionRaw 0))) = false) ∧
    (lqOff { o with ext := 7 } + 64 ≤ w7.size ∧ lqOff { o with ext := 7 + 3 * 32 } + 16 ≤ w7.size) := by decide +kernel

theorem test_meets_LatticePairsCommitsApplies :
    let b := latticed 0 busyRegion
    let x := b.unitOf 0
    let g := busyRegion (b.capture 0 (regionRaw 0))
    let o : CfOp := ⟨0, 1, 5, 6, 7⟩
    -- pairs: of the region's keys and outside them, with a bin in the stream and without, for each kind of operator
    (x.region? 1023 = some g ∧ (g.stream? 9).isSome = true ∧ (g.rowLo ≤ 7 ∧ 7 < g.rowHi ∧ g.rowHi ≤ 8)) ∧
    (([binOf 0].find? (fun b => b.key == 6)) = none ∧ [binOf 0].find? (fun b => b.key == 7) = some (binOf 0)) ∧
    (accOper (rOper (regionRaw 0)) = true ∧ accOper (rOper (regionRaw 3)) = false ∧ rOper (regionRaw 1) = 1 ∧ rOper (regionRaw 2) = 2 ∧
      rOper (regionRaw 3) = 3 ∧ (binOf 0).last.1 = 1 ∧ (binOf 0).last.2 < 1 ∧ ¬ ((binOf 0).last.1 < (binOf 1).last.1 ∨
        ((binOf 0).last.1 = (binOf 1).last.1 ∧ (binOf 0).last.2 < (binOf 1).last.2)) ∧ (binOf 0).last.1 < 2) ∧
    -- an access to the memory of a row with bins
    (255 % 256 + 1 ≤ 256 ∧ b.place 255 = 255 ∧ 0 ∈ b.instancesAt 255 ∧ ((b.unitOf 0).regions.map Prod.fst).Nodup) ∧
    -- pushes and a close: due, of this module and of one that cannot be reached
    (let p := ofRegion b (.lpush o) 1 2
     p.1.latticeDue 0 p.2 = true ∧ p.1.clear 0 1 p.2.cls false = true ∧ lhMod p.2.lhandle = p.1.myMod.toNat ∧
       p.1.cmd? 0 1 = some p.2 ∧ p.1.nearFull 0 1023 = false) ∧
    (let p := ofRegion { b with myMod := 1 } (.lpush o) 1 2
     p.1.latticeDue 0 p.2 = true ∧ p.1.clear 0 1 p.2.cls false = true ∧ lhMod p.2.lhandle ≠ p.1.myMod.toNat ∧
       p.1.mayReach 0 = false) ∧
    (let p := ofRegion { b with myMod := 1, away := [⟨9, 5, true⟩] } (.lclose o) 1023 0
     p.1.latticeDue 0 p.2 = true ∧ p.1.clear 0 1 p.2.cls false = true ∧ lhMod p.2.lhandle ≠ p.1.myMod.toNat ∧
       (p.1.awayOf p.2.uid).failed = true) ∧
    (let p := ofRegion b (.lclose o) 1023 0
     p.1.latticeDue 0 p.2 = true ∧ p.1.clear 0 1 p.2.cls false = true ∧ p.1.linkStill 0 g = true ∧
       (([binOf 0] : List Bin).map (·.key)).Nodup ∧ g.bins.find? (fun y => y.key == 7 && y.epoch == g.epoch) = some (binOf 1) ∧
       (([1, 2, 3] : List Nat).all fun k =>
         let b := latticed k busyRegion
         let g := busyRegion (b.capture 0 (regionRaw k))
         let p := ofRegion b (.lclose o) 1023 0
         p.1.latticeDue 0 p.2 && p.1.clear 0 1 p.2.cls false && p.1.linkStill 0 g && rOper g.desc == k && (g.stream? 9).isSome &&
           (g.bins.find? fun y => y.key == 7 && y.epoch == g.epoch).isSome) = true ∧
       (bound region7 none).linkStill 8 { g with desc := BitVec.ofNat 1024 (2 ^ 7) } = false ∧ g.stream? 8 = none) ∧
    -- a bin of an earlier epoch, and room to move it and none
    ((b.unitOf 0).regions.any (fun x => b.nearFull 0 x.1) = false ∧
      (let p := b.onUnit 0 fun x => x.onRegion 1023 fun g =>
          { g with desc := BitVec.ofNat 1024 (words [1024 * 2 ^ 24, 8 + 4096 * 2 ^ 32, 0]), bins := List.replicate 341 (binOf 0) }
       (p.unitOf 0).regions.any (fun x => p.nearFull 0 x.1) = true ∧ (p.unitOf 0).regions.any (fun x => x.2.bins.any fun b =>
         b.key == 7 && b.epoch != x.2.epoch) = true ∧ (ofRegion p (.lpush o) 1 2).1.nearFull 0 1023 = true)) ∧
    ((g.bins.filter fun b => b.key == 7 && b.epoch != g.epoch) ≠ [] ∧ (g.bins.filter fun b => b.key == 6 && b.epoch != g.epoch) = [] ∧
      bits (recWord g.desc 9) 39 0 - g.usedIn true < 3 * binSize g.width ∧ 0 * binSize g.width ≤ 16777216 - (x.sramUsed + b.reservedBeside 0 1023 + g.sramFor g.spillRoom (b.reserved 0 1023 g)) ∧
      2 * binSize g.width ≤ 16777216 - (x.sramUsed + b.reservedBeside 0 1023 + g.sramFor g.spillRoom (b.reserved 0 1023 g))) := by decide +kernel

theorem test_meets_SketchesAndMigrations_bins :
    let d : BitVec 1024 := BitVec.ofNat 1024 (words [2 ^ 7 + 1023 * 2 ^ 8 + 4 * 2 ^ 24, 32 * 2 ^ 32, 0])
    let s := tabled [rowIn 7 3 .migIn, rowIn 6 2 .migOut] none
    let s := s.onUnit 8 fun x => { x with regions := [(0, { s.capture 8 d with streams := [⟨9, 1, 2, [binOf 0, { binOf 0 with key := 6 }]⟩] })] }
    (s.applyOld 0 1023 7).rowHasBins 0 1023 7 = true ∧ (s.applyOld 0 1023 6).rowHasBins 0 1023 6 = true := by decide +kernel

theorem test_meets_SequenceAcceptance : [0, 3, 5].all (fun k => decide (k < 6)) = true ∧
    (LaneIn.reset.accepts 4 0 = true ∧ LaneIn.reset.accepts 4 1 = false) := by decide +kernel

/-- A STREMO of core 0 with one sector write, at a stage. -/
def sent (st : ReqStage) (tries : Nat) : State × Cmd × Req :=
  let r : Req := ⟨5, 3 * 2 ^ 44, 256, 0, 0, 0, 0, true, 0, 0, 0, st, 0, tries, some 0⟩
  let c := { tiled (.stremo ⟨1, 5, 3, 2, 0⟩) 0 with reqs := [r], run := 4, seq := 1 }
  (copying c seg1, c, r)

theorem test_meets_StationsAndModules :
    let known := fun (x : State × Cmd × Req) => decide (x.1.cmd? 0 1 = some x.2.1) && decide (x.2.1.req? 5 = some x.2.2)
    (known (sent .ring 15) = true ∧ (sent .ring 15).2.2.stage = .ring ∧ (sent .ring 14).2.2.tries < 15 ∧ 15 ≤ (sent .ring 15).2.2.tries) ∧
    (known (sent .backoff 1) = true ∧ (sent .backoff 1).1.laneOf (3 * 2 ^ 44) = none ∧
      (let leaves := fun (s : State) => s.mayLeave (sent .backoff 1).2.1.prog (3 * 2 ^ 44) (some 0)
       leaves (sent .backoff 1).1 = true ∧ leaves { (sent .backoff 1).1 with myMod := 1 } = false)) ∧
    -- an arm on its way to a phaser of another die, refused for the first and for the sixteenth time
    (let arm := fun (k : Nat) => (⟨1, 7, BitVec.ofNat 64 (15 * 16 + 2 ^ 32), 0, 7, 16, 16, true, k, false⟩ : Arm)
     let s := fun (k : Nat) => base.setUn { base.un with released := [arm k] }
     (s 14).armOut 0 1 = some (arm 14) ∧ (s 15).armOut 0 1 = some (arm 15) ∧ (s 15).anyCmd? 0 1 = none) ∧
    ((sent .held 0).1.stremoDue 0 1 5 = some ((sent .held 0).2.1, (sent .held 0).2.2) ∧ (sent .ring 0).1.stremoDue 0 1 5 = none ∧
      (sent .held 0).1.home (3 * 2 ^ 44) = .hbm 3 ∧
      (((sent .held 0).1.countSlice (3 * 2 ^ 44)).touch (3 * 2 ^ 44) 256).2 = false) ∧
    -- a command for another die's Vertex and a query of another die's PBC, refused for the first and for the sixteenth time
    (let o : CfOp := ⟨0, 1, 5, 6, 7⟩
     let sent := fun (e : Engine) (i : Instr) (a had : Nat) =>
       let y := newCmd base.timed base.un e i 0 (BitVec.ofNat 64 a) 0 (some w7) none 0
       let c := { y with cls := 0, prog := { y.prog with nacks := Store.set 0 [] 0 had } }
       let s := vertexed (vertexOf 16 (.sync 7))
       (s.setUn { s.un with queue := [c], nseq := 2 }, c)
     let on := fun (x : State × Cmd) => x.1.cmd? 0 1 == some x.2 && (x.2.req? 0).isNone && x.1.travels 0 x.2 0
     on (sent .vertex (.swld o) (15 * 16 + 3 * 2 ^ 24 + 2 ^ 32) 14) = true ∧ on (sent .vertex (.swld o) (15 * 16 + 3 * 2 ^ 24 + 2 ^ 32) 15) = true ∧
     on (sent .copy (.gcntrd o) (7 * 2 ^ 16) 15) = true ∧ (sent .vertex (.swld o) (15 * 16) 0).1.travels 0 (sent .vertex (.swld o) (15 * 16) 0).2 0 = false ∧
     Store.get 0 (sent .copy (.gcntrd o) 0 15).2.prog.nacks 0 = 15 ∧ Store.get 0 (sent .copy (.gcntrd o) 0 14).2.prog.nacks 0 < 15 ∧
     (vertexed (vertexOf 16 (.sync 7))).core.task.isSome = true) ∧
    -- sealed slots: of this epoch and the next, good and not, one that waits for the pool, bytes for a window
    (let t := fun (st : MState) (d : DState) => trustIn .active st d
     (63 < 64 ∧ 3 < 4) ∧
     ((t .active .active).trust.dstate ≠ .alone ∧ ((t .active .active).trust.member 63).mstate = .active ∧ (t .active .active).crossingWaits (.objectLost 1 7 1048575) = false ∧
       (t .active .active).noRoomFor (.objectLost 1 7 1048575) = false ∧ 1 ≠ (t .active .active).myMod.toNat ∧
       (false != (t .active .active).trust.epoch.getLsbD 0) = false ∧ ((t .active .active).trust.lane false 63 3).accepts 3 0 = true) ∧
     ((true != (t .pending .arrived).trust.epoch.getLsbD 0) = true ∧ (t .pending .arrived).trust.dstate = .arrived ∧
       ((t .pending .arrived).trust.member 63).mstate = .pending) ∧
     (((t .evicted .active).trust.member 63).mstate = .evicted ∧ 4 ≤ 5 ∧ 64 ≤ 64)) ∧
    ((bound region7 (some task7)).openWin 0 (BitVec.ofNat 5 7) = none ∧ (two 0 0).openWin 0 (BitVec.ofNat 5 7) = some w7 ∧
      60 + 4 ≤ w7.size ∧ 4 % 4 = 0) ∧
    (crossNeedsPool (vertexed (vertexOf 16 (.phaser (sw 1)))) (.vertex 0 15 3 (.waitFor 0 5 9)) = some 0 ∧
      ({ vertexOf 16 (.phaser (sw 1)) with waits := List.replicate 8192 ⟨15, 5, none, 9, 0, 4, 0⟩ }.poolRoom = false) ∧
      (vertexOf 16 (.phaser (sw 1))).poolRoom = true) ∧
    (15 < 16 ∧ 15 ≠ State.reset.myMod.toNat ∧ 0 = State.reset.myMod.toNat) := by decide +kernel

/-- An exchange command of core 0: its operands, control block and window; a group of two ranks on core 0. -/
def exchanging (i : Instr) (a b : Nat) (img : BitVec 1024) (w : Option Window) (blocks : List XBlock) : State × Cmd :=
  let c0 := { newCmd base.timed base.un .exchange i 0 (BitVec.ofNat 64 a) (BitVec.ofNat 64 b) w none img with cls := 0 }
  let c := { c0 with prog := { c0.prog with blocks := blocks, accepted := !blocks.isEmpty } }
  let s := bound region7 (some { task7 with segs := [seg1, segAt 0, seg1] })
  let s := s.onXchg fun x => { x with nrank := x.nrank.set 0 2, ranks := [(0, 1), (1, 1)] }
  (s.setUn { s.un with queue := [c], nseq := 2 }, c)

theorem test_meets_ExchangeEngine_blocks :
    let o : CfOp := ⟨0, 1, 5, 6, 7⟩
    let known := fun (x : State × Cmd) => decide (x.1.cmd? 0 1 = some x.2) && decide (x.2.eng = .exchange) &&
      (x.1.coreAt 0).task.any fun k => decide (x.1.coreOf k.ref = some 0) && !k.moving
    -- XSEND: both ranges granted, one not; its last block and one before
    (let x := exchanging (.xsend { o with ext := 16 }) (2 ^ 58) (2 * 2 ^ 58) 0 none []
     let y := xsendPlace [seg1, segAt 0, seg1]
     known x = true ∧ x.2.prog.backoff = [] ∧ y x.2.b .rd (16 * 256) = some (3 * 2 ^ 44) ∧ y x.2.a .wr (16 * 256) = some 0 ∧ y x.2.a .wr (17 * 256) = none ∧
       x.1.clear 0 1 x.2.cls false = true ∧ x.1.trust.holds = false ∧ x.1.blockAllowed x.2.prog 0 = true ∧
       x.1.blockAllowed x.2.prog (3 * 2 ^ 44) = true ∧ x.1.blockCrosses 0 (3 * 2 ^ 44) = false ∧
       x.2.prog.part = [] ∧ x.2.prog.parked = none ∧
       (let r := x.1.dieReadLong 0 3 (3 * 2 ^ 44) 256
        (r.1.dieWriteLong 0 0 x.2.cls 3 0 256 r.2.1).2 = none) ∧
       (let z := { holds x.1 with myMod := 1 }
        z.blockAllowed x.2.prog (3 * 2 ^ 44) = true ∧ z.trust.holds = true ∧ z.blockCrosses 0 (3 * 2 ^ 44) = true) ∧
       x.1.blockHeld 0 0 = false ∧ x.1.blockHeld 0 (3 * 2 ^ 44) = false ∧ x.1.home (3 * 2 ^ 44) = .hbm 3 ∧
       x.1.home 0 = .hbm 0 ∧ (x.1.dieReadLong 0 3 (3 * 2 ^ 44) 256).2.2 = false ∧
       (({ x.1 with poison := [3 * 2 ^ 39] } : State).dieReadLong 0 3 (3 * 2 ^ 44) 256).2.2 = true ∧ x.2.run + 1 ≠ 16 ∧
       ({ x.2 with run := 15 } : Cmd).run + 1 = 16 ∧ ({ x.1 with myMod := 1 } : State).blockAllowed x.2.prog 0 = false) := by decide +kernel

theorem test_meets_ExchangeEngine :
    let o : CfOp := ⟨0, 1, 5, 6, 7⟩
    let xcb := fun (blk : Nat) => BitVec.ofNat 1024 (words [3 * 2 ^ 24, 0, 0, blk])
    let known := fun (x : State × Cmd) => decide (x.1.cmd? 0 1 = some x.2) && decide (x.2.eng = .exchange) &&
      (x.1.coreAt 0).task.any fun k => decide (x.1.coreOf k.ref = some 0) && !k.moving
    -- collectives: a group that is defined, source bytes that fit and that do not, buckets
    ([Instr.xa2a o, .xbkt o, .xpool o].all fun i =>
      let x := exchanging i 0 0 (xcb 32) (some w7) []
      known x && !x.2.prog.accepted && x.1.groupOk x.2.img && x.2.prog.part.isEmpty && x.2.prog.parked.isNone &&
        (x.1.coreAt 0).marks.isEmpty && (x.1.adrift.find? fun a => a.core == 0 && a.cmd.seq == 1).isNone) = true ∧
    ((exchanging (.xa2a o) 0 0 (BitVec.ofNat 1024 1) (some w7) []).1.groupOk (BitVec.ofNat 1024 1) = false) ∧
    (2 * xBlk (xcb 32) ≤ w7.size ∧ w7.size < 2 * xBlk (xcb 36) ∧ xFmt (xcb 32) = false ∧
      xFmt (BitVec.ofNat 1024 (words [2 ^ 17, 0, 0, 32])) = true ∧ xBlk (xcb 32) % 4 = 0 ∧ 4 * 2 ≤ w7.size ∧ 8 + 4 * 6 ≤ xBlk (xcb 32) ∧
      xBlk (xcb 32) < 8 + 4 * 7) ∧
    known (exchanging (.xstat o) 4095 48 0 (some w7) []) = true ∧
    -- pieces that arrive at a window and at none
    (let x0 := exchanging (.xa2a o) 0 0 0 none []
     let e : Nat := x0.1.xchg.rank 0 1
     let b : XBlock := ⟨1, 5, 260, [0], true, e, []⟩
     let x := exchanging (.xa2a o) 0 0 (xcb 260) (some w3) [b]
     known x = true ∧ (x.2.prog.blocks.find? fun b => b.rank == 1) = some b ∧ x.1.pieceDue x.2 b 1 = true ∧ x.1.pieceDue x.2 b 0 = false ∧
       rkRoute (x.1.xchg.rank 0 1) = 0 ∧ rkValid (x.1.xchg.rank 0 1) = true ∧ rkCore (x.1.xchg.rank 0 1) < 96 ∧
       (let b0 : XBlock := ⟨1, 5, 260, [0], true, 0, []⟩
        let x := exchanging (.xa2a o) 0 0 (xcb 260) (some w3) [b0]
        let y := x.1.onXchg fun z => { z with ranks := [(0, 1)] }
        y.pieceDue x.2 b0 1 = true ∧ y.xchg.rank 0 1 = 0 ∧ rkValid 0 = false ∧ rkRoute 0 = 0) ∧ Store.get 0 b.part 1 = 0 ∧ b.entry = x.1.xchg.rank 0 1 ∧ b.len % 4 = 0 ∧ x.1.openWin 0 (xDstW (xcb 260)) = none ∧
       (tile 0 0).openWin 0 (xDstW (xcb 260)) = some w3 ∧ w3.odd = false ∧ x.2.prog.held = [] ∧ 256 + 4 ≤ w3.size) ∧
    -- bytes and packets from outside, retransmissions, ports and groups
    ((two 0 0).openWin 0 (BitVec.ofNat 5 7) = some w7 ∧
      (let p : UetPacket := ⟨4095, 0, 0, false, true, .lookup 0 0 0⟩
       p.peer < 4096 ∧ p.lane ≠ 4 ∧ p.lane ≠ 5 ∧ { p with lane := 4 }.lane = 4 ∧ State.reset.trust.memberFor true 4095 = none) ∧
      ((exchanging (.xa2a o) 0 0 0 none []).1.cmd? 0 1).isSome = true ∧
      (let t := trustIn .active .active .active
       (t.trust.receive 63 3 0 false true).2 = true ∧ (t.trust.receive 63 3 0 false false).2 = false) ∧
      (Store.get 0 State.reset.xchg.tries (tryKey 4095 0 1 2) + 1 < 16 ∧
        15 ≤ Store.get 0 (Store.set 0 [] (tryKey 4095 0 1 2) 15) (tryKey 4095 0 1 2)) ∧
      7 < 8 ∧ 63 < 64) := by decide +kernel

/-- Member 63 is peer 4095: its packets accepted, not accepted, and waiting for the pool. -/
theorem test_meets_ExchangeEngine_packets :
    let s := (trustIn .active .active .active).onTrust fun t =>
      t.setMember 63 { Member.reset with valid := true, isPeer := true, peer := 4095, mstate := .active }
    let full := { vertexOf 16 (.phaser (sw 1)) with waits := List.replicate 8192 ⟨15, 5, none, 9, 0, 4, 0⟩ }
    s.trust.memberFor true 4095 = some 63 ∧ (s.trust.receive 63 4 0 false true).2 = true ∧
    (s.trust.receive 63 5 0 false false).2 = false ∧ s.crossingWaits (.lookup 0 0 0) = false ∧
    s.crossingWaits (.access 0 256 false false 0) = false ∧ s.outsideMissing 0 256 = false ∧ s.outsideMissing (2 ^ 44 - 1) 1 = true ∧
    (s.onVx 0 fun _ => full).crossingWaits (.vertex 0 15 3 (.waitFor 0 5 9)) = true := by decide +kernel

/-! ### igsas: examples of files 05, 06, 09 to 14 -/

/-- Each line's one instruction is what its slot's decoder reads from the field that the manual prints beside it. -/
theorem test_igsas_fields : ([
    ("SETH s20, 0, 3", .scalar, 0x19500003), ("SETH s5, 0, 0", .scalar, 0x19140000), ("MMODE.bf SQD, MIN", .matrix, 0x01800000),
    ("APXRD s10, APXI", .matrix, 0x0E290000), ("STREM s4, w0, d0, 1", .copy, 0x061100000000),
    ("STREMO s7, w0, d1, 1", .copy, 0x0711C0200000), ("PHARR f1, s0, s20", .copy, 0x220080A00000),
    ("PHARM f2, s1, w3, s26", .copy, 0x240102D00003), ("GBAG f1, w0, w0, s20, 1", .copy, 0x3810A8000000),
    ("GSTAT f2, w0, s17, s16", .copy, 0x3C0120880000), ("LOPEN f1, 0, s0, s5, 2, 1", .copy, 0x401080280008),
    ("LPUSH 0, v1, v2, s5", .copy, 0x41000A000201), ("LCLOSE f3, 0", .copy, 0x430180000000), ("PWAIT f4", .copy, 0x550200000000),
    ("TBARR f1, s3", .copy, 0x580086000000), ("TEPOCH f7, w2, s63", .copy, 0x5A0381F80002)] : List (String × Slot × Nat)).all (fun x =>
      match asmLine x.1 with
      | some (.word w :: l) =>
        (asmField x.2.1 x.2.2).isSome && decide (asmInstr ⟨[], [], false⟩ w (asmOperands l) = asmField x.2.1 x.2.2)
      | _ => false) = true := by decide +kernel

/-- The loop nest of file 06: its code stream and DICT_COUNT. -/
theorem test_igsas_code_stream :
    (igsas [".image 0x6A0C", ".segment 0, code, GLOBAL, 0x0000300000100000, 20, RD", ".task walk",
      "        SETH s20, 0, 3 || SETH s21, 0, 2     // bounds", "        SETH s5, 0, 0", "        LOOP s20, 2",
      "        MFSR s6, l0 || MFSR s7, l1", "        MUL s8, s7, s20", "        NOP", "        NOP", "        ADD s9, s8, s6",
      "        ADD s5, s5, s9 || LBE", "        END", ".endtask"]).map (fun l => l.map fun x =>
        (x.imageId, x.sections.map fun y => (y.kind, y.entry, (y.bytes.take 20).map BitVec.toNat))) =
    some [(0x6A0C, [(0, 0, [0x49, 0x47, 0x53, 0x31, 1, 0, 0, 0, 9, 0, 0, 0, 0, 0, 0, 0, 64, 0, 0, 0]),
      (1, 0, [1, 0, 2, 0, 3, 0, 4, 0, 5, 0, 0, 0, 0, 0, 6, 0, 7, 0, 8, 0]),
      (2, 0, [0, 0, 0x10, 0, 0, 0x30, 0, 0, 20, 0, 0, 0, 0, 0, 0, 0, 5, 0, 0, 0]), (4, 0, [])])] := by decide +kernel

/-- Values of `.const` (R62, R407), and what igsas refuses: a scalar instruction too many, END twice, a value out of range. -/
theorem test_igsas_const_and_errors :
    (let e : AsmEnv := ⟨[], [], false⟩
     let c := fun (s : String) => match asmLine s with
       | some (.word w :: l) => (asmElems.lookup w).bind fun t => (asmConst e t (asmOperands l)).map fun b => b.map BitVec.toNat
       | _ => none
     let b := fun (s : String) => ((asmLine s).bind fun l => asmBundle e Bundle.nop (asmCut .bars l)).isSome
     [c ".f32 3", c ".bf 1.5", c ".f8 470", c ".i4 1, -2, 3", c ".n8 256", c ".i8 -129", c ".f32 3.5e38", c ".f8 -0.0"] =
       [some [0, 0, 0x40, 0x40], some [0xC0, 0x3F], none, some [0xE1, 3], none, none, none, some [0x80]] ∧
     [b "ADD s1, s2, s3 || ADD s4, s5, s6", b "ADD s1, s2, s3 || ADD s4, s5, s6 || ADD s7, s8, s9", b "END || END", b "NOP || END",
      b "LOOP s20, 7", b "VADD.i4 v0, v0, v0", b "WAIT f3 || TLD w0, s1, d0, 16"] =
       [true, false, false, true, false, false, false]) := by decide +kernel

/-! ### What waits, what is refused, and what is held -/

theorem test_meets_TrustEngine_waits :
    let s := { bound region7 (some task7) with trust := (trustIn .active .active .holding).trust }
    let x : EpochWait := ⟨task7.ref, 31, 1⟩
    let now := fun (e : BitVec 32) => decide ((s.trust.epoch + 1 - e).toNat < 2 ^ 31)
    s.coreOf x.who = some 0 ∧ (s.coreAt 0).task = some task7 ∧ task7.moving = false ∧ now 1 = true ∧ now 2 = false ∧
    x ∈ ({ s.trust with waits := [x] } : Trust).waits ∧ (s.trust.member 63).mstate = .active ∧
    ((trustIn .active .leaving .holding).trust.member 63).mstate = .leaving ∧ s.trust.released = false := by decide +kernel

/-- RCBs and queues of another module while crossings are held, and at home; a page table that a remote store is writing, and one that none is. -/
theorem test_meets_DoorbellSlots_DcuCommands_held :
    ((holds State.reset).dropBind 0 1023).chainHeld 8 (2 ^ 48) = true ∧ (State.reset.dropBind 0 1023).chainHeld 8 0x1000 = false ∧
    (let s := bound region7 (some task7)
     s.dcuHeld 0x1000 256 = false ∧ (holds s).dcuHeld (2 ^ 48) 256 = true) ∧
    (let h : Hold := ⟨some 0, 0, false, 0, false, 0⟩
     let s := holding 0 (tables 7)
     let r : Req := ⟨5, 0x80000, 256, 0, 0, 0, 0, true, 0, 0, 0, .ring, 0, 0, some 0⟩
     let c := { tiled (.strem ⟨1, 5, 3, 2, 0⟩) 0 with reqs := [r], run := 4, seq := 1 }
     let away := s.setUn { s.un with queue := s.un.queue ++ [c], nseq := 2 }
     s.replayHeld 0 h = false ∧ away.replayHeld 0 h = true) := by decide +kernel

theorem test_meets_SectorRequests_words :
    let o : CaOp := ⟨1, 5, 3, 2, 0⟩
    let here := 3 * 2 ^ 44
    let held : RdcSector := { RdcSector.invalid with full := true }
    let s := fun (i : Instr) (e : BitVec 256) => copying (tiled i 0) e
    -- a prefetch of a sector that stands, and of one that does not; an access that would be refused, and one that is not
    ((s (.pref o) seg1).prefFills 0 here = true ∧ ((s (.pref o) seg1).setSector 0 (here / 256) held).prefFills 0 here = false ∧
      (((s (.pref o) seg1).setSector 0 (here / 256) held).requestDue 0 (tiled (.pref o) 0)).isSome = true) ∧
    ((s (.tld o) (segAt (2 ^ 48))).accessAllowed 0 (tiled (.tld o) 0) (2 ^ 48) = false ∧
      (s (.strem o) seg1).accessAllowed 0 (tiled (.strem o) 0) here = true) ∧
    -- a write of which one word moves first, and one whose words all do
    (let ws := ((tiled (.tst o) 0).win.map fun w => w.wordsIn 0 256).getD []
     63 < ws.length ∧ (0 : BitVec 64).getLsbD (63 % 64) = false ∧ (tiled (.tst o) 0).win.any Window.odd = false ∧
       (tiled (.tst o) 0).prog.held = []) ∧
    ((s (.tst o) seg1).portRefuses here).1 = false ∧ (s (.tst o) seg1).mayLeave (tiled (.tst o) 0).prog here none = true ∧
    ((⟨0, false, 2, 3, 1⟩ : Window).odd = true ∧ w3.odd = false) := by decide +kernel

/-- A TLD that ends with bytes held. -/
theorem test_meets_EndsOfCopyCommands_held :
    let c := { tiled (.tld ⟨1, 5, 3, 2, 0⟩) 0 with run := 4 }
    let c := { c with prog := { c.prog with held := [⟨0, w3.size - 1, 3, 7⟩, ⟨0, 0, 0, 7⟩] } }
    (copying c seg1).endDue 0 c = true ∧ (c.prog.held.map (·.at')).Nodup ∧
    ∀ h, h ∈ c.prog.held → h.core = 0 ∧ h.at' < w3.size := by decide +kernel

theorem test_meets_PoisonedGranules_caches :
    let s := bound region7 none
    let d := s.setSector 7 (3 * 2 ^ 36) { RdcSector.invalid with dirty := 1 }
    1 ∉ s.poison ∧ 1 ∈ ({ s with poison := [1] } : State).poison ∧ (7 < 8 ∧ 95 < 96) ∧
    (s.sector 7 (3 * 2 ^ 36)).dirty = 0 ∧ (d.sector 7 (3 * 2 ^ 36)).dirty ≠ 0 ∧ d.ctl.sstate = .ready ∧ State.reset.ctl.sstate ≠ .ready ∧
    s.home (32 * (3 * 2 ^ 39 / 8 * 8 + 7)) = .hbm 3 := by decide +kernel

theorem test_meets_VertexPerformsCommands_generations :
    let o : CfOp := ⟨0, 1, 5, 6, 7⟩
    let recv : Phaser := { sw (2 ^ 63) with modeLo := 2 ^ 63 }
    -- a handle of another generation of an object that stands, and one whose object is on another module
    (let x := onObject (.phaser recv) (.pharr o) 63
     let c := { x.2 with a := BitVec.ofNat 64 (15 * 16 + 4 * 2 ^ 24) }
     let s := x.1.setUn { x.1.un with queue := [c] }
     s.vxDue 0 c = true ∧ s.cmd? 0 1 = some c ∧ ((s.vxOf 0).obj 15).gen ≠ hGen c.a ∧ 15 < (s.vxOf 0).objCount ∧
       (s.readObj 0 15).2 = some (.phaser recv) ∧ 3 ≤ recv.releaseScope c.ins 63) ∧
    (let x := onObject (.phaser recv) (.pharr o) 63
     let s := { x.1 with myMod := 1 }
     s.vxDue 0 x.2 = true ∧ hMod x.2.a ≠ s.myMod.toNat ∧ x.2.prog.parked = none ∧ x.2.prog.left = none ∧ s.mayReach (hMod x.2.a) = false ∧
       releases x.2.ins = true ∧ vxFields x.2.ins = some o) ∧
    -- arms that have counted their bytes: not checked yet; of another die
    (let a := fun (ok : Bool) (die : Nat) => (⟨1, 1, BitVec.ofNat 64 (15 * 16 + 3 * 2 ^ 24 + die * 2 ^ 32), 63, 7, 16, 16, ok, 0, false⟩ : Arm)
     let s := fun (a : Arm) => (vertexed (vertexOf 16 (.phaser recv))).setUn { base.un with arms := base.un.arms.set 3 (some a) }
     (s (a false 0)).armDue 0 3 = some (a false 0) ∧ (s (a true 7)).armDue 0 3 = some (a true 7) ∧
       (s (a true 7)).armFar 0 (a true 7) = true ∧ (s (a true 0)).armFar 0 (a true 0) = false ∧
       (((vertexed (vertexOf 16 (.phaser recv))).setUn { base.un with released := [a true 0] }).armDue 0 4 = some (a true 0))) := by decide +kernel

/-- A command of one PBC while another is busy. -/
theorem test_meets_PoolingHostCommands_busy :
    let s := tabled [] (some (.drop 5))
    (s.pbcOf 7).busy = none ∧ ¬ (∀ k, k < 8 → (s.pbcOf k).busy = none) ∧ s.tableInUse 1023 = false := by decide +kernel

end Sys2Proof.Tests
end

section
/-!
SUPPORT. The frame layer of O19: which functions of the model leave memory as it is. A function that does not write a byte
of memory has one equation `(f s).mem = s.mem` here, in the order of the definitions.
-/

namespace Sys2Proof.Machine

@[simp] theorem State.mem_ite (c : Prop) [Decidable c] (s t : State) :
    (if c then s else t).mem = if c then s.mem else t.mem := apply_ite State.mem c s t

@[simp] theorem State.foldl_mem {β : Type} {f : State → β → State} (hf : ∀ t x, (f t x).mem = t.mem) (l : List β)
    (s : State) :
    (l.foldl f s).mem = s.mem :=
  List.foldlRecOn (motive := fun t => t.mem = s.mem) l f rfl fun t ht x _ => (hf t x).trans ht

@[simp] theorem State.foldl_fst_mem {β γ : Type} {f : State × γ → β → State × γ} (hf : ∀ t x, (f t x).1.mem = t.1.mem)
    (l : List β) (t : State × γ) : (l.foldl f t).1.mem = t.1.mem :=
  List.foldlRecOn (motive := fun u => u.1.mem = t.1.mem) l f rfl fun u hu x _ => (hf u x).trans hu

theorem State.failsOnly_mem {s t : State} (h : s.failsOnly t) : t.mem = s.mem := by rw [h]

/-! ### Functions of Machine/Ops -/

@[simp] theorem State.fresh_mem (s : State) : s.fresh.2.mem = s.mem := rfl

@[simp] theorem State.drew_mem (s : State) : s.drew.mem = s.mem := rfl

@[simp] theorem State.freshBool_mem (s : State) : s.freshBool.2.mem = s.mem := rfl

/-! ### Functions of Machine/Regions -/

@[simp] theorem chargePools_mem (n : Nat) (l : List (Nat × Region)) (s : State) : (chargePools n l s).mem = s.mem := by
  induction l generalizing s with
  | nil => rfl
  | cons x l ih => exact (ih _).trans (State.onRegion_mem ..)

@[simp] theorem State.discard_mem (s : State) (a : Nat) (gone : Evicted → Bool) :
    (s.discard a gone).mem = s.mem := State.failsOnly_mem (s.discard_failsOnly ..)

@[simp] theorem State.regionFail_mem (s : State) (rcb : Nat) (j : BitVec 32) (t : Nat) (reached : Word) (least : Nat) :
    (s.regionFail rcb j t reached least).mem = s.mem := State.failsOnly_mem (s.regionFail_failsOnly ..)

/-! ### Functions of Machine/Traps -/

@[simp] theorem State.logFault_mem (s : State) (die : Nat) (r : FaultRec) :
    (s.logFault die r).mem = s.mem := by simp [State.logFault]

@[simp] theorem State.evictEnds_mem (s : State) (n : Nat) (r : BitVec 4) :
    (s.evictEnds n r).mem = s.mem := by simp [State.evictEnds]

@[simp] theorem State.failCore_mem (s : State) (n : Nat) (pc : BitVec 18) (i : FaultInfo) (least : Nat) :
    (s.failCore n pc i least).mem = s.mem := State.failsOnly_mem (s.failCore_failsOnly ..)

@[simp] theorem State.takeTrap_mem (s : State) (slot : BitVec 4) (k : Trap) :
    (s.takeTrap slot k).mem = s.mem := State.failsOnly_mem (s.takeTrap_failsOnly ..)

/-! ### Functions of Machine/Copy -/

@[simp] theorem State.enqueue_mem (s : State) (c : Cmd) (joins : Bool) :
    (s.enqueue c joins).mem = s.mem := (State.onlyCoreOf_frame (s.onlyCoreOf_enqueue ..)).1

/-! ### Functions of Machine/Crossing -/

@[simp] theorem State.crossTo_mem (s : State) (m k : Nat) : (s.crossTo m k).mem = s.mem := by
  unfold State.crossTo
  split
  · rfl
  · exact State.foldl_mem (fun t _ => t.onTrust_mem _) ..

@[simp] theorem State.crossPeer_mem (s : State) (p : Nat) (ordered : Bool) : (s.crossPeer p ordered).mem = s.mem := by
  unfold State.crossPeer
  split <;> simp

@[simp] theorem State.dropSector_mem (s : State) (key die kind : Nat) : (s.dropSector key die kind).mem = s.mem := rfl

/-! ### Functions of Machine/Rdc -/

@[simp] theorem State.setRdc_mem (s : State) (die : Nat) (r : Store RdcSector) : (s.setRdc die r).mem = s.mem := by
  unfold State.setRdc
  split <;> simp

@[simp] theorem State.setSector_mem (s : State) (die n : Nat) (x : RdcSector) :
    (s.setSector die n x).mem = s.mem := by simp [State.setSector]

@[simp] theorem State.poisonSector_mem (s : State) (n : Nat) (p : BitVec 8) : (s.poisonSector n p).mem = s.mem := rfl

@[simp] theorem State.acquireSector_mem (s : State) (die n : Nat) :
    (s.acquireSector die n).mem = s.mem := by simp [State.acquireSector]

@[simp] theorem State.acquire_mem (s : State) (die : Nat) (domain : Bool) :
    (s.acquire die domain).mem = s.mem := State.foldl_mem (fun _ _ => by simp) ..

@[simp] theorem State.noteWriter_mem (s : State) (die n core : Nat) (cls : BitVec 4) :
    (s.noteWriter die n core cls).mem = s.mem := by simp [State.noteWriter]

/-! ### Functions of Machine/Engine -/

@[simp] theorem State.onCmd_mem (s : State) (n q : Nat) (f : Cmd → Cmd) :
    (s.onCmd n q f).mem = s.mem := by simp [State.onCmd]

@[simp] theorem State.dropCmd_mem (s : State) (n q : Nat) : (s.dropCmd n q).mem = s.mem := by simp [State.dropCmd]

@[simp] theorem State.reportAt_mem (s : State) (n : Nat) (x : Note) :
    (s.reportAt n x).mem = s.mem := by simp [State.reportAt]

@[simp] theorem State.cmdDone_mem (s : State) (n q : Nat) (f : BitVec 5) (scope : Option (BitVec 3)) :
    (s.cmdDone n q f scope).mem = s.mem := by simp [State.cmdDone]

@[simp] theorem State.cmdFailed_mem (s : State) (n q : Nat) (f : BitVec 5) (op : BitVec 8) (reached : Nat)
    (faddr : BitVec 52) :
    (s.cmdFailed n q f op reached faddr).mem = s.mem := by
  simp [State.cmdFailed]

@[simp] theorem State.winWriteAt_mem (s : State) (n : Nat) (w : Option Window) (l k v : Nat) :
    (s.winWriteAt n w l k v).mem = s.mem := by
  unfold State.winWriteAt
  split <;> simp

@[simp] theorem State.countArm_mem (s : State) (n : Nat) (w : BitVec 5) (k : Nat) :
    (s.countArm n w k).mem = s.mem := by simp [State.countArm]

@[simp] theorem State.winWords_mem (s : State) (n : Nat) (w : Option Window) (l k v : Nat) (words : BitVec 1024) :
    (s.winWords n w l k v words).mem = s.mem := by
  unfold State.winWords
  split
  · simp
  · split
    · rfl
    · exact State.foldl_mem (fun _ _ => by simp) ..

@[simp] theorem State.landHeld_mem (s : State) (m : Nat) (win : Option Window) (arm : Option (BitVec 5))
    (all : Bool) (pick : Nat → Bool) (held : List HeldByte) :
    (s.landHeld m win arm all pick held).1.mem = s.mem := by
  unfold State.landHeld
  split
  · rfl
  · exact State.foldl_mem (fun _ _ => by cases arm <;> simp) ..

@[simp] theorem State.cmdResult_mem (s : State) (n : Nat) (c : Cmd) (f : BitVec 5) (l k v : Nat) (words : BitVec 1024) :
    (s.cmdResult n c f l k v words).mem = s.mem := by simp [State.cmdResult]

theorem State.orLand_memWf (s : State) (n : Nat) (c : Cmd) (words : BitVec 1024) {f : State} (hs : s.mem.wf = true)
    (hf : f.mem.wf = true) : (s.orLand n c words f).mem.wf = true := by
  unfold State.orLand
  split
  · simp [hs]
  · exact hf

/-! ### Functions of Machine/Faulting -/

@[simp] theorem State.logPageFault_mem (s : State) (n : Nat) (h : Hold) : (s.logPageFault n h).mem = s.mem := by
  unfold State.logPageFault
  simp only []
  split <;> simp

@[simp] theorem State.enterHold_mem (s : State) (n : Nat) (cmd : Option Nat) (va : Nat) (write : Bool) :
    (s.enterHold n cmd va write).mem = s.mem := by
  unfold State.enterHold
  split <;> simp

@[simp] theorem State.fatalFault_mem (s : State) (n : Nat) (pc : BitVec 18) (code : BitVec 8) (detail : Word)
    (replays : Nat) (reached : Word) (va : Nat) :
    (s.fatalFault n pc code detail replays reached va).mem = s.mem := by
  simp [State.fatalFault]

@[simp] theorem State.failStopped_mem (s : State) (n : Nat) (cmd : Option Nat) (va : Nat) :
    (s.failStopped n cmd va).mem = s.mem := by
  unfold State.failStopped
  split <;> simp

@[simp] theorem State.takeLate_mem (s : State) (n : Nat) (f : LateFault) : (s.takeLate n f).mem = s.mem := by
  unfold State.takeLate
  split <;> simp

@[simp] theorem State.lateFault_mem (s : State) (n : Nat) (f : LateFault) : (s.lateFault n f).mem = s.mem := by
  unfold State.lateFault
  (repeat' split) <;> simp

/-! ### Functions of Machine/Vertex -/

@[simp] theorem State.vxFail_mem (s : State) (n : Nat) (c : Cmd) (f : BitVec 5) : (s.vxFail n c f).mem = s.mem := by
  unfold State.vxFail
  split <;> simp

@[simp] theorem State.vxRes_mem (s : State) (die obj : Nat) (r : BitVec 4) :
    (s.vxRes die obj r).mem = s.mem := by simp [State.vxRes]

/-! ### Functions of Machine/CopyEngine -/

@[simp] theorem State.failAt_mem (s : State) (n q : Nat) (r : Req) (faddr : BitVec 52) :
    (s.failAt n q r faddr).mem = s.mem := by simp [State.failAt]

@[simp] theorem State.formRead_mem (s : State) (n : Nat) (c : Cmd) (p : Piece) :
    (s.formRead n c p).mem = s.mem := by simp [State.formRead]

@[simp] theorem State.formPref_mem (s : State) (n : Nat) (c : Cmd) (p : Piece) :
    (s.formPref n c p).mem = s.mem := by simp [State.formPref]

@[simp] theorem State.sendStore_mem (s : State) (n : Nat) (c : Cmd) (r : Req) (v : BitVec 2048) :
    (s.sendStore n c r v).mem = s.mem := by simp [State.sendStore]

@[simp] theorem State.sendRemote_mem (s : State) (n : Nat) (c : Cmd) (r : Req) (v : BitVec 2048) :
    (s.sendRemote n c r v).mem = s.mem := by simp [State.sendRemote]

@[simp] theorem State.sendWrite_mem (s : State) (n : Nat) (c : Cmd) (r : Req) (v : BitVec 2048) :
    (s.sendWrite n c r v).mem = s.mem := by simp [State.sendWrite]

@[simp] theorem State.captureWords_mem (s : State) (n : Nat) (c : Cmd) (r : Req) (words : BitVec 64) :
    (s.captureWords n c r words).mem = s.mem := by simp [State.captureWords]

@[simp] theorem State.formWrite_mem (s : State) (n : Nat) (c : Cmd) (p : Piece) (words : BitVec 64) :
    (s.formWrite n c p words).mem = s.mem := by simp [State.formWrite]

@[simp] theorem State.reaches_mem (s : State) (n q key : Nat) :
    (s.reaches n q key).mem = s.mem := by simp [State.reaches]

@[simp] theorem State.formPiece_mem (s : State) (n : Nat) (c : Cmd) (p : Piece) (words : BitVec 64) :
    (s.formPiece n c p words).mem = s.mem := by simp [State.formPiece]

@[simp] theorem State.countSlice_mem (s : State) (key : Nat) : (s.countSlice key).mem = s.mem := by
  unfold State.countSlice
  (repeat' split) <;> simp

@[simp] theorem State.portRefuses_mem (s : State) (key : Nat) : (s.portRefuses key).2.mem = s.mem := by
  unfold State.portRefuses
  split <;> simp

@[simp] theorem State.slotArrives_mem (s : State) (n q rq : Nat) (nack : Bool) :
    (s.slotArrives n q rq nack).mem = s.mem := by
  unfold State.slotArrives
  split <;> simp

@[simp] theorem State.landWord_mem (s : State) (m : Nat) (c : Cmd) (l : Int) (v : Nat) :
    (s.landWord m c l v).1.mem = s.mem := by
  unfold State.landWord
  (repeat' split) <;> simp

@[simp] theorem State.holdWord_mem (s : State) (n q m run : Nat) (l : Int) (v : Nat) :
    (s.holdWord n q m run l v).1.mem = s.mem := by simp [State.holdWord]

@[simp] theorem State.landWaiting_mem (s : State) (n q m : Nat) (all : Bool) (pick : Nat → Bool) :
    (s.landWaiting n q m all pick).mem = s.mem := by
  unfold State.landWaiting
  split <;> simp

@[simp] theorem State.landWords_mem (s : State) (n : Nat) (c : Cmd) (r : Req) (words : BitVec 1024) :
    (s.landWords n c r words).1.mem = s.mem := by
  refine State.foldl_fst_mem (fun x m => ?_) ..
  simp only []
  split
  · refine (State.landWaiting_mem ..).trans (State.foldl_fst_mem (fun y i => ?_) ..)
    split <;> simp
  · refine State.foldl_fst_mem (fun y i => ?_) ..
    split <;> simp

@[simp] theorem State.landRun_mem (s : State) (n : Nat) (c : Cmd) (run k : Nat) (mid : Bool) (words : BitVec 1024) :
    (s.landRun n c run k mid words).mem = s.mem := by simp [State.landRun]

@[simp] theorem State.endTileAt_mem (s : State) (n : Nat) (c : Cmd) (words : BitVec 1024) :
    (s.endTileAt n c words).mem = s.mem := by
  unfold State.endTileAt
  split
  · simp
  · have hfold := State.foldl_mem (fun (t : State) m => t.landWaiting_mem n c.seq m true words.getLsbD)
      ((c.prog.held.map (·.core)).dedup) s
    simp only []
    split
    · split <;> simp [hfold]
    · exact hfold

@[simp] theorem State.landStopped_mem (s : State) (n : Nat) :
    (s.landStopped n).mem = s.mem := State.foldl_mem (fun _ _ => by
    split
    · exact State.foldl_mem (fun _ _ => by simp) ..
    · rfl) ..

@[simp] theorem State.moveWord_mem (s : State) (n : Nat) (c : Cmd) (d : Window) (held : List HeldByte) (i : Nat) :
    (s.moveWord n c d held i).1.mem = s.mem := by
  unfold State.moveWord
  split <;> simp

@[simp] theorem State.fillOrCopy_mem (s : State) (n : Nat) (c : Cmd) (blk : Nat) (words : BitVec 1024) :
    (s.fillOrCopy n c blk words).mem = s.mem := by
  unfold State.fillOrCopy
  simp only []
  split
  · rfl
  · split_ifs <;> simp

@[simp] theorem State.trimL2_mem (s : State) (die : Nat) : (s.trimL2 die).mem = s.mem := by
  unfold State.trimL2
  simp only []
  (repeat' split) <;> simp

/-! ### Functions of Machine/Pooling -/

@[simp] theorem State.settlePbc_mem (s : State) (n : Nat) : (s.settlePbc n).mem = s.mem := by
  unfold State.settlePbc
  simp only []
  (repeat' split) <;> simp

@[simp] theorem State.settleAll_mem (s : State) :
    s.settleAll.mem = s.mem := State.foldl_mem (fun t n => t.settlePbc_mem n) ..

@[simp] theorem State.pbcRes_mem (s : State) (n : Nat) (r : BitVec 4) :
    (s.pbcRes n r).mem = s.mem := by simp [State.pbcRes]

@[simp] theorem State.crossShard_mem (s : State) (n q : Nat) (d : Table) (k : Nat) :
    (s.crossShard n q d k).mem = s.mem := by simp [State.crossShard]

@[simp] theorem State.queryAway_mem (s : State) (n : Nat) (c : Cmd) (o : CfOp) (t r : Nat) (words : BitVec 1024) :
    (s.queryAway n c o t r words).mem = s.mem := by simp [State.queryAway]

/-! ### Functions of Machine/Gather -/

@[simp] theorem State.gatherEnd_mem (s : State) (n q : Nat) : (s.gatherEnd n q).mem = s.mem := by
  unfold State.gatherEnd
  (repeat' split) <;> simp

@[simp] theorem State.eitherWords_mem (s : State) (a b k : Nat) : (s.eitherWords a b k).1.mem = s.mem := by
  induction k generalizing s a b with
  | zero => rfl
  | succ k ih =>
    simp only [State.eitherWords, ih]
    split <;> rfl

@[simp] theorem State.countRows_mem (s : State) (d : Table) (t : Nat) (l : List (Nat × BitVec 32)) :
    (s.countRows d t l).1.mem = s.mem := by
  induction l generalizing s with
  | nil => rfl
  | cons x l ih => exact (ih _).trans (State.onPbc_mem ..)

@[simp] theorem State.freshWords_mem (s : State) (kind k : Nat) : (s.freshWords kind k).1.mem = s.mem := by
  induction k generalizing s with
  | zero => rfl
  | succ k ih => exact ih _

@[simp] theorem State.onGather_mem (s : State) (n q : Nat) (f : GatherProg → GatherProg) :
    (s.onGather n q f).mem = s.mem := by simp [State.onGather]

@[simp] theorem State.bucketLost_mem (s : State) (n : Nat) (c : Cmd) (bag k m : Nat) :
    (s.bucketLost n c bag k m).mem = s.mem := by simp [State.bucketLost]

@[simp] theorem State.landBag_mem (s : State) (n : Nat) (c : Cmd) (g : GatherProg) (w : BagWords) (b : Bag) :
    (s.landBag n c g w b).mem = s.mem := by simp [State.landBag]

/-! ### Functions of Machine/Lattice -/

@[simp] theorem State.latticeRes_mem (s : State) (u r : Nat) (res : BitVec 4) :
    (s.latticeRes u r res).mem = s.mem := by simp [State.latticeRes]

@[simp] theorem State.setAway_mem (s : State) (x : AwayStream) : (s.setAway x).mem = s.mem := rfl

@[simp] theorem State.dropAway_mem (s : State) (uid : Nat) : (s.dropAway uid).mem = s.mem := rfl

@[simp] theorem State.pushAway_mem (s : State) (uid m k : Nat) :
    (s.pushAway uid m k).mem = s.mem := by simp [State.pushAway]

@[simp] theorem State.abortStream_mem (s : State) (h : Word) (uid : Nat) :
    (s.abortStream h uid).mem = s.mem := by simp [State.abortStream]

@[simp] theorem State.openHere_mem (s : State) (n : Nat) (c : Cmd) (o : CfOp) : (s.openHere n c o).mem = s.mem := by
  unfold State.openHere
  simp only []
  split <;> simp

@[simp] theorem State.regionCmdAway_mem (s : State) (n : Nat) (c : Cmd) (o : CfOp) (k : Nat) (words : BitVec 1024) :
    (s.regionCmdAway n c o k words).mem = s.mem := by
  unfold State.regionCmdAway
  (repeat' split) <;> simp

/-! ### Functions of Machine/Fabric -/

@[simp] theorem State.awayEnded_mem (s : State) (tag : Nat) : (s.awayEnded tag).mem = s.mem := rfl

@[simp] theorem State.awayOpen_mem (s : State) (u r : Nat) (gen : BitVec 8) (uid width : Nat)
    (seg : Option (BitVec 256)) :
    (s.awayOpen u r gen uid width seg).mem = s.mem := by
  unfold State.awayOpen
  split <;> simp

@[simp] theorem State.awayClose_mem (s : State) (uid : Nat) (commit : Bool) : (s.awayClose uid commit).mem = s.mem := by
  unfold State.awayClose
  (repeat' split) <;> simp

@[simp] theorem State.awayPrefetch_mem (s : State) (n t : Nat) (rows : List Nat) :
    (s.awayPrefetch n t rows).mem = s.mem := by
  unfold State.awayPrefetch
  simp only []
  split <;> simp

@[simp] theorem State.landBytes_mem (s : State) (n : Nat) (w : BitVec 5) (l v k : Nat) :
    (s.landBytes n w l v k).1.mem = s.mem := by
  induction k generalizing s l v with
  | zero => rfl
  | succ k ih =>
    unfold State.landBytes
    split
    · rfl
    · exact (ih ..).trans (by simp)

@[simp] theorem State.awayObjectLost_mem (s : State) (m die obj : Nat) : (s.awayObjectLost m die obj).mem = s.mem := rfl

/-! ### Functions of Machine/Exchange -/

@[simp] theorem State.onXcmd_mem (s : State) (n q : Nat) (f : Cmd → Cmd) :
    (s.onXcmd n q f).mem = s.mem := by simp [State.onXcmd]

@[simp] theorem State.landMasked_mem (s : State) (n : Nat) (w : BitVec 5) (l v k : Nat) (words : BitVec 64) :
    (s.landMasked n w l v k words).1.mem = s.mem := by
  unfold State.landMasked
  split
  · simp
  · exact State.foldl_fst_mem (fun _ _ => by split <;> simp) ..

@[simp] theorem State.deliverAway_mem (s : State) (ord : Bool) (e : Nat) (pv fresh : Bool) :
    (s.deliverAway ord e pv fresh).1.mem = s.mem := by
  unfold State.deliverAway
  (repeat' split) <;> simp

@[simp] theorem State.entryFor_mem (s : State) (c : Cmd) (b : XBlock) : (s.entryFor c b).2.mem = s.mem := by
  unfold State.entryFor
  simp only []
  split <;> simp

@[simp] theorem State.landRank_mem (s : State) (c : Cmd) (core rank l v k : Nat) (now : BitVec 64) (last : Bool) :
    (s.landRank c core rank l v k now last).1.mem = s.mem := by
  unfold State.landRank
  simp only []
  split <;> simp

/-! ### Functions of Machine/Dcu -/

@[simp] theorem State.takeChain_mem (s : State) (die : Nat) (renew : Bool) (l : List (Nat × BitVec 2048)) :
    (s.takeChain die renew l).mem = s.mem := State.foldl_mem (fun _ _ => by
    split
    · split <;> rfl
    · rfl) ..

@[simp] theorem State.setSlot_mem (s : State) (die i : Nat) (x : BindSlot) :
    (s.setSlot die i x).mem = s.mem := by simp [State.setSlot]

@[simp] theorem State.tidy_mem (s : State) : s.tidy.mem = s.mem := rfl

@[simp] theorem State.unbindSlot_mem (s : State) (die i : Nat) :
    (s.unbindSlot die i).mem = s.mem := by simp [State.unbindSlot]

@[simp] theorem State.dropBind_mem (s : State) (die slot : Nat) : (s.dropBind die slot).mem = s.mem := rfl

@[simp] theorem State.delay_mem (s : State) (x : Delayed) : (s.delay x).mem = s.mem := rfl

@[simp] theorem State.ignoreBell_mem (s : State) (die : Nat) :
    (s.ignoreBell die).mem = s.mem := by simp [State.ignoreBell]

@[simp] theorem State.dcuRes_mem (s : State) (die : Nat) (r : BitVec 4) :
    (s.dcuRes die r).mem = s.mem := by simp [State.dcuRes]

@[simp] theorem State.cancelAt_mem (s : State) (a : Nat) (m : BitVec 32) :
    (s.cancelAt a m).mem = s.mem := by simp [State.cancelAt]

@[simp] theorem State.reportPinned_mem (s : State) (die : Nat) : (s.reportPinned die).mem = s.mem := by
  simp only [State.reportPinned]
  rw [State.foldl_mem fun t x => chargePools_mem ..]
  simp

@[simp] theorem State.charge_mem (s : State) (n : Nat) : (s.charge n).mem = s.mem := by
  unfold State.charge
  simp only []
  (repeat' split) <;> simp [chargePools_mem]

/-! ### Functions of Machine/Dispatcher -/

@[simp] theorem State.withdraw_mem (s : State) (die a : Nat) :
    (s.withdraw die a).mem = s.mem := State.foldl_mem (fun _ _ => by simp) ..

@[simp] theorem State.start_mem (s : State) (die n a prio : Nat) (r : Region) (c : Card) (x : Ready) :
    (s.start die n a prio r c x).mem = s.mem := by
  unfold State.start
  split <;> simp

@[simp] theorem State.chooseVictim_mem (s : State) (n : Nat) (why : EvictReason) (a : Nat) :
    (s.chooseVictim n why a).mem = s.mem := by simp [State.chooseVictim]

@[simp] theorem State.withdrawIdle_mem (s : State) :
    s.withdrawIdle.mem = s.mem := State.foldl_mem (fun _ _ => by split <;> simp) ..

/-! ### Functions of Machine/Sync -/

@[simp] theorem State.acquireFences_mem (s : State) (l : List (BitVec 3)) : (s.acquireFences l).mem = s.mem := by
  induction l generalizing s with
  | nil => rfl
  | cons x l ih => exact (ih _).trans (State.setUn_mem ..)

@[simp] theorem passWait_mem (mask : BitVec 32) (s : State) : (passWait mask s).mem = s.mem := by simp [passWait]

/-! ### Functions of Machine/Issue -/

@[simp] theorem State.releaseHold_mem (s : State) (n : Nat) (k : Task) (h : Hold) (x : TlbEntry) :
    (s.releaseHold n k h x).mem = s.mem := by
  unfold State.releaseHold
  simp only []
  split <;> simp

/-! ### Functions of Machine/Launch -/

@[simp] theorem State.endTask_mem (s : State) (n : Nat) (k : Task) (f : Card → Card) :
    (s.endTask n k f).mem = s.mem := by simp [State.endTask]

@[simp] theorem State.freeSlot_mem (s : State) (k : Task) : (s.freeSlot k).mem = s.mem := by
  unfold State.freeSlot
  split <;> simp

@[simp] theorem State.launchFails_mem (s : State) (n : Nat) (k : Task) (status : BitVec 8) (detail : Nat) :
    (s.launchFails n k status detail).mem = s.mem := by simp [State.launchFails]

/-! ### Functions of Machine/Context -/

@[simp] theorem State.castOff_mem (s : State) (n : Nat) (k : Task) : (s.castOff n k).mem = s.mem := rfl

@[simp] theorem State.takeUp_mem (s : State) (n : Nat) (k : Task) : (s.takeUp n k).mem = s.mem := rfl

@[simp] theorem State.addPoison_mem (s : State) (l : List Nat) : (s.addPoison l).mem = s.mem := rfl

@[simp] theorem State.discardStopped_mem (s : State) (k : Task) : (s.discardStopped k).mem = s.mem := by
  unfold State.discardStopped
  split <;> simp

/-! ### Functions of Machine/Ring -/

@[simp] theorem State.latticeLost_mem (s : State) (n : Nat) (c : Cmd) : (s.latticeLost n c).mem = s.mem := by
  unfold State.latticeLost
  split <;> simp

@[simp] theorem State.armNacked_mem (s : State) (n : Nat) (a : Arm) : (s.armNacked n a).mem = s.mem := by
  unfold State.armNacked
  simp only []
  cases (s.moduleLane (hMod a.handle)).head? <;> split <;> simp

/-! ### Functions of Machine/Trust -/

@[simp] theorem State.trustRes_mem (s : State) (r : BitVec 4) : (s.trustRes r).mem = s.mem := rfl

@[simp] theorem State.setMstate_mem (s : State) (m : Nat) (x : MState) : (s.setMstate m x).mem = s.mem := rfl

@[simp] theorem State.closeSession_mem (s : State) (m : Nat) : (s.closeSession m).mem = s.mem := rfl

@[simp] theorem State.leaves_mem (s : State) (m : Nat) : (s.leaves m).mem = s.mem := rfl

@[simp] theorem State.checkFails_mem (s : State) (m : Nat) : (s.checkFails m).mem = s.mem := rfl

@[simp] theorem State.disagree_mem (s : State) : s.disagree.mem = s.mem := rfl

@[simp] theorem State.closeDeparting_mem (s : State) :
    s.closeDeparting.mem = s.mem := State.foldl_mem (fun _ _ => by simp) ..

@[simp] theorem State.invalidateDeparting_mem (s : State) (die : Nat) :
    (s.invalidateDeparting die).mem = s.mem := State.foldl_mem (fun _ _ => by simp) ..

@[simp] theorem State.tbarrWait_mem (s : State) (n : Nat) (c : Cmd) (o : CfOp) : (s.tbarrWait n c o).mem = s.mem := by
  unfold State.tbarrWait
  split <;> simp

/-! ### Functions of Machine/Retire -/

@[simp] theorem State.interrupt_mem (s : State) (v : BitVec 16) :
    (s.interrupt v).mem = s.mem := by simp [State.interrupt]

@[simp] theorem State.forget_mem (s : State) (x : TaskRef × List StreamSlot) :
    (s.forget x).mem = s.mem := State.foldl_mem (fun _ _ => by simp) ..

/-! ### Functions of Machine/FaultLog -/

@[simp] theorem State.onLog_mem (s : State) (die : Nat) (f : FaultLog → FaultLog) :
    (s.onLog die f).mem = s.mem := by simp [State.onLog]

/-! ### Functions of Machine/Health -/

@[simp] theorem State.countCorrected_mem (s : State) (u : Nat) : (s.countCorrected u).mem = s.mem := rfl

/-! ### Functions of Machine/Spdm -/

@[simp] theorem State.putConn_mem (s : State) (x : Spdm) : (s.putConn x).mem = s.mem := rfl

@[simp] theorem State.attestEnds_mem (s : State) (m : Nat) (x : MState) (r : BitVec 4) :
    (s.attestEnds m x r).mem = s.mem := by simp [State.attestEnds]

/-! ### Functions of Machine/Cycle -/

@[simp] theorem State.countPressed_mem (s : State) :
    s.countPressed.mem = s.mem := State.foldl_mem (fun _ _ => by split <;> simp) ..

@[simp] theorem State.nextFocus_mem (s : State) : s.nextFocus.mem = s.mem := by
  unfold State.nextFocus
  split <;> simp

end Sys2Proof.Machine
end

section
/-!
SUPPORT. The canonical form of memory (log entry 6) under the functions that do write bytes. Each has one lemma here: memory
canonical before is canonical after. A write to memory is a `Memory.setByte`, `Memory.write` or `Memory.writeMasked` at a
home (Laws/Store.lean, Laws/Home.lean); everything else is composition.
-/

namespace Sys2Proof.Machine

@[simp] theorem Memory.wf_ite (c : Prop) [Decidable c] (m k : Memory) :
    (if c then m else k).wf = if c then m.wf else k.wf := apply_ite Memory.wf c m k

theorem State.foldl_memOk {β : Type} {f : State → β → State} (hf : ∀ t x, t.memOk → (f t x).memOk) (l : List β)
    {s : State} (h : s.memOk) : (l.foldl f s).memOk :=
  List.foldlRecOn (motive := State.memOk) l f h fun t ht x _ => hf t x ht

theorem State.foldl_fst_memWf {β γ : Type} {f : State × γ → β → State × γ}
    (hf : ∀ t x, t.1.mem.wf = true → (f t x).1.mem.wf = true) (l : List β) {t : State × γ} (h : t.1.mem.wf = true) :
    (l.foldl f t).1.mem.wf = true :=
  List.foldlRecOn (motive := fun u => u.1.mem.wf = true) l f h fun u hu x _ => hf u x hu

theorem State.memWf_of_eq {α : Type} {x : State × α} {t : State} {a : α} (h : x = (t, a)) (hx : x.1.mem.wf = true) :
    t.mem.wf = true := by
  rw [h] at hx
  exact hx

theorem State.ite_fst_memWf {α : Type} {c : Prop} [Decidable c] {x y : State × α} (hx : x.1.mem.wf = true)
    (hy : y.1.mem.wf = true) : (if c then x else y).1.mem.wf = true := by
  split
  · exact hx
  · exact hy

/-! ### Functions of Machine/Apply -/

@[simp] theorem State.health_memWf (s : State) (kind unit core addr data : Nat) (hs : s.mem.wf = true) :
    (s.health kind unit core addr data).mem.wf = true := (State.health_byHome ..).2 hs

@[simp] theorem State.applyWhere_memWf (s : State) (u r k : Nat) (p : LRegion → Bin → Bool) (hs : s.mem.wf = true) :
    (s.applyWhere u r k p).1.mem.wf = true := (State.applyWhere_byHome ..).2 hs

@[simp] theorem State.applyAll_memWf (s : State) (u r : Nat) (hs : s.mem.wf = true) :
    (s.applyAll u r).1.mem.wf = true := (State.applyAll_byHome ..).2 hs

@[simp] theorem State.touch_memWf (s : State) (key n : Nat) (hs : s.mem.wf = true) :
    (s.touch key n).1.mem.wf = true := (State.touch_byHome ..).2 hs

@[simp] theorem State.homeRead_memWf (s : State) (key n : Nat) (hs : s.mem.wf = true) :
    (s.homeRead key n).1.mem.wf = true := (State.homeRead_byHome ..).2 hs

@[simp] theorem State.homeWrite_memWf (s : State) (key n mask v : Nat) (hs : s.mem.wf = true) :
    (s.homeWrite key n mask v).1.mem.wf = true := (State.homeWrite_byHome ..).2 hs

@[simp] theorem State.homeReadLong_memWf (s : State) (fuel key n : Nat) (hs : s.mem.wf = true) :
    (s.homeReadLong fuel key n).1.mem.wf = true := (State.homeReadLong_byHome ..).2 hs

@[simp] theorem State.homeWriteLong_memWf (s : State) (fuel key n v : Nat) (hs : s.mem.wf = true) :
    (s.homeWriteLong fuel key n v).mem.wf = true := (State.homeWriteLong_byHome ..).2 hs

/-! ### Functions of Machine/Rdc -/

@[simp] theorem State.fetchSector_memWf (s : State) (n : Nat) (hs : s.mem.wf = true) :
    (s.fetchSector n).1.mem.wf = true := by
  unfold State.fetchSector
  split <;> simp [hs]

@[simp] theorem State.writeHome_memWf (s : State) (n : Nat) (x : RdcSector) (hs : s.mem.wf = true) :
    (s.writeHome n x).mem.wf = true := by simp [State.writeHome, hs]

@[simp] theorem State.writeBack_memWf (s : State) (die n : Nat) (hs : s.mem.wf = true) :
    (s.writeBack die n).mem.wf = true := by simp [State.writeBack, hs]

@[simp] theorem State.writeBackPart_memWf (s : State) (die n : Nat) (m : BitVec 256) (hs : s.mem.wf = true) :
    (s.writeBackPart die n m).mem.wf = true := by simp [State.writeBackPart, hs]

@[simp] theorem State.releaseSector_memWf (s : State) (die n : Nat) (hs : s.mem.wf = true) :
    (s.releaseSector die n).mem.wf = true := by simp [State.releaseSector, hs]

@[simp] theorem State.replaceSector_memWf (s : State) (die n : Nat) (hs : s.mem.wf = true) :
    (s.replaceSector die n).mem.wf = true := by simp [State.replaceSector, hs]

@[simp] theorem State.fenceSector_memWf (s : State) (die kind : Nat) (mine : RdcSector → Bool) (n : Nat)
    (hs : s.mem.wf = true) :
    (s.fenceSector die kind mine n).mem.wf = true := by
  simp [State.fenceSector, hs]

@[simp] theorem State.fenceSectors_memWf (s : State) (die kind : Nat) (mine : RdcSector → Bool) (l : List Nat)
    (hs : s.mem.wf = true) :
    (s.fenceSectors die kind mine l).mem.wf = true :=
  State.foldl_memOk (fun t n ht => t.fenceSector_memWf die kind mine n ht) _ hs

@[simp] theorem State.release_memWf (s : State) (die : Nat) (domain : Bool) (hs : s.mem.wf = true) :
    (s.release die domain).mem.wf = true := State.foldl_memOk (fun t n ht => t.releaseSector_memWf die n ht) _ hs

@[simp] theorem State.fillSector_memWf (s : State) (die n : Nat) (hs : s.mem.wf = true) :
    (s.fillSector die n).1.mem.wf = true := by simp [State.fillSector, hs]

@[simp] theorem State.fillPart_memWf (s : State) (die n : Nat) (words : BitVec 64) (hs : s.mem.wf = true) :
    (s.fillPart die n words).1.mem.wf = true := by simp [State.fillPart, hs]

@[simp] theorem State.dieRead_memWf (s : State) (die key n : Nat) (hs : s.mem.wf = true) :
    (s.dieRead die key n).1.mem.wf = true := by
  unfold State.dieRead
  simp only []
  (repeat' split) <;> simp [hs]

@[simp] theorem State.dieWrite_memWf (s : State) (die key n mask v : Nat) (hs : s.mem.wf = true) :
    (s.dieWrite die key n mask v).1.mem.wf = true := by
  unfold State.dieWrite
  (repeat' split) <;> simp [hs]

@[simp] theorem State.walked_memWf (s : State) (e : Seg) (si : BitVec 6) (off : Nat) (write : Bool)
    (hs : s.mem.wf = true) :
    (s.walked e si off write).mem.wf = true :=
  (State.walked_byHome ..).2 hs

@[simp] theorem State.dieReadLong_memWf (s : State) (die fuel key n : Nat) (hs : s.mem.wf = true) :
    (s.dieReadLong die fuel key n).1.mem.wf = true := by
  induction fuel generalizing s key n with
  | zero => exact hs
  | succ k ih =>
    unfold State.dieReadLong
    split
    · exact hs
    · exact ih _ _ _ (State.dieRead_memWf _ _ _ _ hs)

/-! ### Functions of Machine/Engine -/

@[simp] theorem State.noteInSlot_memWf (s : State) (base : Nat) (x : Note) (hs : s.mem.wf = true) :
    (s.noteInSlot base x).mem.wf = true := (State.noteInSlot_byHome ..).2 hs

@[simp] theorem State.noteEvicted_memWf (s : State) (w : TaskRef) (x : Note) (hs : s.mem.wf = true) :
    (s.noteEvicted w x).mem.wf = true := by
  unfold State.noteEvicted
  split
  · exact hs
  · split
    · exact hs
    · rw [State.putRegion_mem]
      exact State.noteInSlot_memWf _ _ _ hs

@[simp] theorem State.report_memWf (s : State) (w : TaskRef) (x : Note) (hs : s.mem.wf = true) :
    (s.report w x).mem.wf = true := by
  unfold State.report
  (repeat' split) <;> simp [hs]

@[simp] theorem State.fencePass_memWf (s : State) (n : Nat) (c : Cmd) (mask : BitVec 16) (scope kind : Nat)
    (words : BitVec 1024) (hs : s.mem.wf = true) :
    (s.fencePass n c mask scope kind words).1.mem.wf = true := by
  unfold State.fencePass
  split <;> simp [hs]

/-! ### Functions of Machine/Vertex -/

@[simp] theorem State.readObj_memWf (s : State) (d n : Nat) (hs : s.mem.wf = true) :
    (s.readObj d n).1.mem.wf = true := by
  unfold State.readObj
  simp only []
  split <;> simp [hs]

@[simp] theorem State.writeObj_memWf (s : State) (d n : Nat) (k : ObjKind) (hs : s.mem.wf = true) :
    (s.writeObj d n k).mem.wf = true := by simp [State.writeObj, hs]

@[simp] theorem State.reportTo_memWf (s : State) (w : Option TaskRef) (x : Note) (hs : s.mem.wf = true) :
    (s.reportTo w x).mem.wf = true := by
  unfold State.reportTo
  split <;> simp [hs]

@[simp] theorem State.answer_memWf (s : State) (ok : Bool) (l : List WaitReq) (hs : s.mem.wf = true) :
    (s.answer ok l).mem.wf = true := by
  induction l generalizing s with
  | nil => exact hs
  | cons w l ih => exact ih _ (State.reportTo_memWf _ _ _ hs)

@[simp] theorem State.notify_memWf (s : State) (d n : Nat) (q : BitVec 32) (hs : s.mem.wf = true) :
    (s.notify d n q).mem.wf = true := by simp [State.notify, hs]

@[simp] theorem State.putPhaser_memWf (s : State) (d n : Nat) (p : Phaser) (passed : List (BitVec 32))
    (hs : s.mem.wf = true) :
    (s.putPhaser d n p passed).mem.wf = true :=
  State.foldl_memOk (fun t q ht => t.notify_memWf d n q ht) _ (State.writeObj_memWf _ _ _ _ hs)

@[simp] theorem State.request_memWf (s : State) (d : Nat) (p : Phaser) (w : WaitReq) (hs : s.mem.wf = true) :
    (s.request d p w).mem.wf = true := by simp [State.request, hs]

@[simp] theorem State.armArrive_memWf (s : State) (n : Nat) (a : Arm) (who : TaskRef) (hs : s.mem.wf = true) :
    (s.armArrive n a who).mem.wf = true := by
  have hx := State.readObj_memWf s (hDie a.handle) (hObj a.handle) hs
  unfold State.armArrive
  simp only []
  (repeat' split) <;> simp [hx]

@[simp] theorem State.armSend_memWf (s : State) (n : Nat) (a : Arm) (who : TaskRef) (hs : s.mem.wf = true) :
    (s.armSend n a who).mem.wf = true := by simp [State.armSend, hs]

theorem State.phaserOp_memWf (s d : State) (n : Nat) (c : Cmd) (p : Phaser) (who : TaskRef) (words : BitVec 1024)
    (hs : s.mem.wf = true) (hd : d.mem.wf = true) : ((s.phaserOp n c p who words).getD d).mem.wf = true := by
  unfold State.phaserOp
  simp only []
  (repeat' split) <;> simp [hs, hd]

@[simp] theorem State.syncCmd_memWf (s : State) (n : Nat) (c : Cmd) (o : CfOp) (w : BitVec 512)
    (words : BitVec 1024) (hs : s.mem.wf = true) :
    (s.syncCmd n c o w words).mem.wf = true := by
  simp [State.syncCmd, hs]

theorem State.releaseThen_memWf (s : State) (n : Nat) (c : Cmd) (scope : Nat) (words : BitVec 1024) {f : State → State}
    (hf : ∀ t, t.mem.wf = true → (f t).mem.wf = true) (hs : s.mem.wf = true) :
    (s.releaseThen n c scope words f).mem.wf = true := by
  have hx := State.fencePass_memWf s n c 0xFFFF scope 1 words hs
  unfold State.releaseThen
  simp only []
  split
  · exact hf _ hx
  · rw [State.onCmd_mem]
    exact hx

@[simp] theorem State.vxLocal_memWf (s : State) (n : Nat) (c : Cmd) (o : CfOp) (k : Task) (words : BitVec 1024)
    (hs : s.mem.wf = true) :
    (s.vxLocal n c o k words).mem.wf = true := by
  have hx := State.readObj_memWf s (hDie c.a) (hObj c.a) hs
  unfold State.vxLocal
  simp only []
  split
  · simp [hs]
  · split
    · exact State.releaseThen_memWf _ _ _ _ _ (fun t ht => by simp [ht]) hx
    · split
      · refine State.releaseThen_memWf _ _ _ _ _ (fun t ht => ?_) hx
        split
        · simp [ht]
        · exact State.phaserOp_memWf _ _ _ _ _ _ _ ht (by simp [ht])
      · split <;> simp [hx]
      · simp [hx]
      · simp [hx]

@[simp] theorem State.vxRemote_memWf (s : State) (n : Nat) (c : Cmd) (o : CfOp) (k : Task) (words : BitVec 1024)
    (hs : s.mem.wf = true) :
    (s.vxRemote n c o k words).mem.wf = true := by
  refine State.releaseThen_memWf _ _ _ _ _ (fun t ht => ?_) hs
  simp only []
  (repeat' split) <;> simp [ht]

@[simp] theorem State.createObj_memWf (s : State) (die obj : Nat) (k : ObjKind) (hs : s.mem.wf = true) :
    (s.createObj die obj k).mem.wf = true := by simp [State.createObj, hs]

@[simp] theorem State.failWaits_memWf (s : State) (die obj : Nat) (hs : s.mem.wf = true) :
    (s.failWaits die obj).mem.wf = true := by simp [State.failWaits, hs]

/-! ### Functions of Machine/CopyEngine -/

@[simp] theorem State.performRead_memWf (s : State) (n : Nat) (c : Cmd) (r : Req) (words : BitVec 64)
    (hs : s.mem.wf = true) :
    (s.performRead n c r words).mem.wf = true := by
  simp [State.performRead, hs]

@[simp] theorem State.performRdcWrite_memWf (s : State) (n : Nat) (c : Cmd) (r : Req) (words : BitVec 64)
    (hs : s.mem.wf = true) :
    (s.performRdcWrite n c r words).mem.wf = true := by
  simp [State.performRdcWrite, hs]

@[simp] theorem State.performWrite_memWf (s : State) (n : Nat) (c : Cmd) (r : Req) (words : BitVec 64)
    (hs : s.mem.wf = true) :
    (s.performWrite n c r words).mem.wf = true := by
  simp [State.performWrite, hs]

@[simp] theorem State.performPref_memWf (s : State) (n : Nat) (c : Cmd) (r : Req) (words : BitVec 64)
    (hs : s.mem.wf = true) :
    (s.performPref n c r words).mem.wf = true := by
  simp [State.performPref, hs]

@[simp] theorem State.performAt_memWf (s : State) (n : Nat) (c : Cmd) (r : Req) (words : BitVec 64)
    (hs : s.mem.wf = true) :
    (s.performAt n c r words).mem.wf = true := by
  unfold State.performAt
  (repeat' split) <;> simp [hs]

@[simp] theorem State.fenceAct_memWf (s : State) (n : Nat) (mask : BitVec 16) (scope kind : Nat)
    (hs : s.mem.wf = true) :
    (s.fenceAct n mask scope kind).mem.wf = true := by
  simp [State.fenceAct, hs]

@[simp] theorem State.fenceStep_memWf (s : State) (n : Nat) (c : Cmd) (mask : BitVec 16) (scope kind : Nat)
    (words : BitVec 1024) (hs : s.mem.wf = true) :
    (s.fenceStep n c mask scope kind words).mem.wf = true := by
  simp [State.fenceStep, hs]

@[simp] theorem State.trimRdc_memWf (s : State) (die fuel : Nat) (hs : s.mem.wf = true) :
    (s.trimRdc die fuel).mem.wf = true := by
  induction fuel generalizing s with
  | zero => exact hs
  | succ k ih =>
    unfold State.trimRdc
    split
    · exact hs
    · split
      · exact hs
      · exact ih _ (State.replaceSector_memWf _ _ _ hs)

@[simp] theorem State.trimCaches_memWf (s : State) (hs : s.mem.wf = true) : s.trimCaches.mem.wf = true := by
  unfold State.trimCaches
  refine State.foldl_memOk (fun t d ht => ?_) _ hs
  rw [State.memOk, State.trimL2_mem]
  exact State.trimRdc_memWf _ _ _ ht

/-! ### Functions of Machine/Pooling -/

@[simp] theorem State.applyOld_memWf (s : State) (pbc t r : Nat) (hs : s.mem.wf = true) :
    (s.applyOld pbc t r).mem.wf = true := State.foldl_memOk (fun t _ ht => t.applyWhere_memWf _ _ _ _ ht) _ hs

@[simp] theorem State.copyBytes_memWf (s : State) (src dst n : Nat) (hs : s.mem.wf = true) :
    (s.copyBytes src dst n).mem.wf = true := (State.copyBytes_byHome ..).2 hs

/-! ### Functions of Machine/Gather -/

@[simp] theorem State.readPieces_memWf (s : State) (key : Nat) (l : List (Nat × Nat)) (hs : s.mem.wf = true) :
    (s.readPieces key l).1.mem.wf = true := by
  induction l generalizing s with
  | nil => exact hs
  | cons x l ih => exact ih _ (State.homeReadLong_memWf _ _ _ _ hs)

@[simp] theorem State.listPlace_memWf (s : State) (n : Nat) (e : Seg) (si : BitVec 6) (off : Nat)
    (hs : s.mem.wf = true) :
    (s.listPlace n e si off).1.mem.wf = true := by
  unfold State.listPlace
  (repeat' split) <;> simp [hs]

@[simp] theorem State.listBytes_memWf (s : State) (n : Nat) (x : Prog) (e : Seg) (si : BitVec 6) (off k : Nat)
    (hs : s.mem.wf = true) : (s.listBytes n x e si off k).1.mem.wf = true := by
  induction k generalizing s off with
  | zero => exact hs
  | succ k ih =>
    have hp := State.listPlace_memWf s n e si off hs
    unfold State.listBytes
    split
    · exact hs
    · split
      next t heq => exact State.memWf_of_eq heq hp
      next t key heq =>
        replace hp := State.memWf_of_eq heq hp
        have hr := State.dieRead_memWf t (dieOf n) key 1 hp
        have hl := ih _ (off + 1) hr
        split
        · exact hp
        · split
          · exact hp
          · simp only []
            split
            · exact hr
            · split
              next heq => exact State.memWf_of_eq heq hl
              next heq => exact State.memWf_of_eq heq hl

@[simp] theorem State.readEntry_memWf (s : State) (n : Nat) (x : Prog) (cap : Word) (i : Nat) (hs : s.mem.wf = true) :
    (s.readEntry n x cap i).1.mem.wf = true := by
  unfold State.readEntry
  simp only []
  (repeat' split) <;> simp [hs]

@[simp] theorem State.listEntry_memWf (s : State) (n : Nat) (c : Cmd) (l i : Nat) (hs : s.mem.wf = true) :
    (s.listEntry n c l i).1.mem.wf = true := by
  unfold State.listEntry
  split <;> simp [hs]

@[simp] theorem State.readBag_memWf (s : State) (n : Nat) (c : Cmd) (d : Table) (b : Bag) (i k : Nat)
    (hs : s.mem.wf = true) : (s.readBag n c d b i k).1.mem.wf = true := by
  induction k generalizing s b i with
  | zero => exact hs
  | succ k ih =>
    have h1 := State.listEntry_memWf s n c 1 i hs
    unfold State.readBag
    split
    next heq => exact State.memWf_of_eq heq h1
    next t r heq =>
      replace h1 := State.memWf_of_eq heq h1
      have h2 : (if isGbagw c.ins then t.listEntry n c 2 i else (t, .ok 0)).1.mem.wf = true :=
        State.ite_fst_memWf (State.listEntry_memWf _ _ _ _ _ h1) h1
      simp only []
      split
      next heq => exact State.memWf_of_eq heq h2
      next heq => exact ih _ _ _ (State.memWf_of_eq heq h2)

@[simp] theorem State.readBags_memWf (s : State) (n : Nat) (c : Cmd) (d : Table) (lo b k : Nat)
    (hs : s.mem.wf = true) : (s.readBags n c d lo b k).1.mem.wf = true := by
  induction k generalizing s lo b with
  | zero => exact hs
  | succ k ih =>
    have h1 : (if isGrows c.ins || isGpref c.ins then (s, Except.ok (b + 1))
        else s.listEntry n c 0 (b + 1)).1.mem.wf = true :=
      State.ite_fst_memWf hs (State.listEntry_memWf _ _ _ _ _ hs)
    unfold State.readBags
    simp only []
    split
    next heq => exact State.memWf_of_eq heq h1
    next t h heq =>
      replace h1 := State.memWf_of_eq heq h1
      have h2 := State.readBag_memWf t n c d ⟨[], 0, false⟩ lo (h - lo) h1
      split
      · exact h1
      · split
        next heq => exact State.memWf_of_eq heq h2
        next heq => exact ih _ _ _ (State.memWf_of_eq heq h2)

@[simp] theorem State.acceptGather_memWf (s : State) (n : Nat) (c : Cmd) (o : CfOp) (hs : s.mem.wf = true) :
    (s.acceptGather n c o).mem.wf = true := by
  have h1 : (if isSingle c.ins then (s, Except.ok 0) else s.listEntry n c 0 0).1.mem.wf = true :=
    State.ite_fst_memWf hs (State.listEntry_memWf _ _ _ _ _ hs)
  unfold State.acceptGather
  simp only []
  split
  next heq =>
    replace h1 := State.memWf_of_eq heq h1
    split <;> simp [hs, h1]
  next t lo heq =>
    replace h1 := State.memWf_of_eq heq h1
    have h2 := State.readBags_memWf t n c (s.table (gTable c.img)) lo 0 (gBags c.img) h1
    split <;> simp [hs, h2]

@[simp] theorem State.readEarly_memWf (s : State) (n q k : Nat) (words : BitVec 64) (hs : s.mem.wf = true) :
    (s.readEarly n q k words).mem.wf = true := by
  unfold State.readEarly
  split
  · exact hs
  next c _ =>
    have h1 := State.readEntry_memWf s n c.prog (c.listCap (k % 3)) (k / 3) hs
    simp only []
    split
    · exact hs
    · split
      · exact hs
      · exact hs
      next heq _ =>
        replace h1 := State.memWf_of_eq heq h1
        split
        · exact State.fillPart_memWf _ _ _ _ hs
        · simp [h1]

@[simp] theorem State.lookupRow_memWf (s : State) (d : Table) (t r : Nat) (hs : s.mem.wf = true) :
    (s.lookupRow d t r).1.mem.wf = true := by
  unfold State.lookupRow
  simp only []
  (repeat' split) <;> simp [hs]

@[simp] theorem State.lookupRows_memWf (s : State) (c : Cmd) (d : Table) (p : PoolSum) (l : List (Nat × BitVec 32))
    (hs : s.mem.wf = true) : (s.lookupRows c d p l).1.mem.wf = true := by
  induction l generalizing s p with
  | nil => exact hs
  | cons x l ih =>
    have hx := State.lookupRow_memWf s d (gTable c.img) x.1 hs
    unfold State.lookupRows
    split
    next heq => exact State.memWf_of_eq heq hx
    next heq => exact ih _ _ (State.memWf_of_eq heq hx)

@[simp] theorem State.lookupShard_memWf (s : State) (n : Nat) (c : Cmd) (bag k : Nat)
    (rows : List (Nat × BitVec 32)) (hs : s.mem.wf = true) :
    (s.lookupShard n c bag k rows).mem.wf = true := by
  have hr := State.lookupRows_memWf s c (c.gatherTable s) ⟨0, [], []⟩ rows hs
  unfold State.lookupShard
  simp only []
  split
  · simp [hs]
  · split_ifs <;> simp [hs]
  · split
    · simp [hs]
    · split
      · simp [hs]
      · split
        next heq => simp [State.memWf_of_eq heq hr]
        next heq => simp [State.memWf_of_eq heq hr]

/-! ### Functions of Machine/Lattice -/

@[simp] theorem State.applyRegion_memWf (s : State) (u r : Nat) (hs : s.mem.wf = true) :
    (s.applyRegion u r).mem.wf = true := by simp [State.applyRegion, hs]

@[simp] theorem State.applyEarly_memWf (s : State) (unit region key : Nat) (hs : s.mem.wf = true) :
    (s.applyEarly unit region key).mem.wf = true := by
  unfold State.applyEarly
  split <;> simp [hs]

@[simp] theorem State.makeRoomFor_memWf (s : State) (u r : Nat) (hs : s.mem.wf = true) :
    (s.makeRoomFor u r).mem.wf = true := by
  unfold State.makeRoomFor
  split
  · exact State.foldl_memOk (fun t y ht => t.applyEarly_memWf _ _ _ ht) _ hs
  · exact hs

@[simp] theorem State.applyCmd_memWf (s : State) (n : Nat) (c : Cmd) (o : CfOp) (u r : Nat) (hs : s.mem.wf = true) :
    (s.applyCmd n c o u r).mem.wf = true := by simp [State.applyCmd, hs]

@[simp] theorem State.regionCmd_memWf (s : State) (n : Nat) (c : Cmd) (words : BitVec 1024) (hs : s.mem.wf = true) :
    (s.regionCmd n c words).mem.wf = true := by
  unfold State.regionCmd
  simp only []
  (repeat' split) <;> simp [hs]

/-! ### Functions of Machine/Fabric -/

@[simp] theorem State.foreignPhaser_memWf (s : State) (d n : Nat) (p : Phaser) (op : ForeignOp) (hs : s.mem.wf = true) :
    (s.foreignPhaser d n p op).mem.wf = true := by
  unfold State.foreignPhaser
  (repeat' split) <;> simp [hs]

@[simp] theorem State.foreignVertex_memWf (s : State) (d n : Nat) (gen : BitVec 8) (op : ForeignOp)
    (hs : s.mem.wf = true) :
    (s.foreignVertex d n gen op).mem.wf = true := by
  unfold State.foreignVertex
  simp only []
  (repeat' split) <;> simp [hs]

@[simp] theorem State.awayPair_memWf (s : State) (uid key : Nat) (vals : List (BitVec 32)) (hs : s.mem.wf = true) :
    (s.awayPair uid key vals).mem.wf = true := by
  unfold State.awayPair
  split <;> simp [hs]

@[simp] theorem State.awayStep_memWf (s : State) (u r : Nat) (gen : BitVec 8) (apply : Bool) (hs : s.mem.wf = true) :
    (s.awayStep u r gen apply).mem.wf = true := by
  unfold State.awayStep
  split <;> simp [hs]

@[simp] theorem State.awayLookup_memWf (s : State) (n t r : Nat) (hs : s.mem.wf = true) :
    (s.awayLookup n t r).mem.wf = true := by simp [State.awayLookup, hs]

/-! ### Functions of Machine/Exchange -/

@[simp] theorem State.endXcmd_memWf (s : State) (n q : Nat) (who : TaskRef) (x : Note) (hs : s.mem.wf = true) :
    (s.endXcmd n q who x).mem.wf = true := by simp [State.endXcmd, hs]

@[simp] theorem State.xdone_memWf (s : State) (n : Nat) (x : XCmd) (hs : s.mem.wf = true) :
    (s.xdone n x).mem.wf = true := by simp [State.xdone, hs]

@[simp] theorem State.xfailed_memWf (s : State) (n : Nat) (x : XCmd) (reached : Nat) (faddr : BitVec 52)
    (hs : s.mem.wf = true) :
    (s.xfailed n x reached faddr).mem.wf = true := by
  simp [State.xfailed, hs]

@[simp] theorem State.dieWriteLong_memWf (s : State) (die core : Nat) (cls : BitVec 4) (fuel key n v : Nat)
    (hs : s.mem.wf = true) : (s.dieWriteLong die core cls fuel key n v).1.mem.wf = true := by
  induction fuel generalizing s key n v with
  | zero => exact hs
  | succ k ih =>
    have hw := State.dieWrite_memWf s die key (min n (256 - key % 256)) (2 ^ min n (256 - key % 256) - 1) v hs
    unfold State.dieWriteLong
    simp only []
    split
    · exact hs
    · split
      · split <;> simp [hw]
      · exact ih _ _ _ _ (by split <;> simp [hw])

@[simp] theorem State.xsendNext_memWf (s : State) (n : Nat) (x : XCmd) (o : CfOp) (hs : s.mem.wf = true) :
    (s.xsendNext n x o).mem.wf = true := by simp [State.xsendNext, hs]

@[simp] theorem State.xsendBlock_memWf (s : State) (n : Nat) (x : XCmd) (o : CfOp) (a b : Nat) (hs : s.mem.wf = true) :
    (s.xsendBlock n x o a b).mem.wf = true := by
  have hr := State.dieReadLong_memWf s (dieOf n) 3 a 256 hs
  have hw := State.dieWriteLong_memWf _ (dieOf n) n x.cmd.cls 3 b 256 (s.dieReadLong (dieOf n) 3 a 256).2.1 hr
  unfold State.xsendBlock
  simp only []
  split
  · simp [hr]
  · split
    next heq => simp [State.memWf_of_eq heq hw]
    next heq => simp [State.memWf_of_eq heq hw]

@[simp] theorem State.xsendRead_memWf (s : State) (die a : Nat) (took : Store (BitVec 32)) (l : List Nat)
    (hs : s.mem.wf = true) : (s.xsendRead die a took l).1.mem.wf = true := by
  induction l generalizing s took with
  | nil => exact hs
  | cons i l ih =>
    have hr := State.dieReadLong_memWf s die 2 (a + 4 * i) 4 hs
    unfold State.xsendRead
    simp only []
    split
    · exact hr
    · exact ih _ _ hr

@[simp] theorem State.xsendWrite_memWf (s : State) (n : Nat) (c : Cmd) (b : Nat) (l : List Nat) (hs : s.mem.wf = true) :
    (s.xsendWrite n c b l).1.mem.wf = true := by
  induction l generalizing s with
  | nil => exact hs
  | cons i l ih =>
    have hw := State.dieWriteLong_memWf s (dieOf n) n c.cls 2 (b + 4 * i) 4 (Store.get 0 c.prog.took i).toNat hs
    unfold State.xsendWrite
    split
    next heq => exact State.memWf_of_eq heq hw
    next heq => exact ih _ (State.memWf_of_eq heq hw)

@[simp] theorem State.xsendWords_memWf (s : State) (n : Nat) (x : XCmd) (o : CfOp) (a b : Nat) (words : BitVec 64)
    (hs : s.mem.wf = true) :
    (s.xsendWords n x o a b words).mem.wf = true := by
  unfold State.xsendWords
  simp only []
  split
  · split
    · split <;> simp [hs]
    · split <;> simp [hs]
  · split
    next heq => simp [State.memWf_of_eq heq (State.ite_fst_memWf (by simp [hs]) (by simp [hs]))]
    next heq =>
      have ht := State.memWf_of_eq heq (State.ite_fst_memWf (by simp [hs]) (by simp [hs]))
      split <;> simp [ht]

@[simp] theorem State.xsendStep_memWf (s : State) (n : Nat) (x : XCmd) (o : CfOp) (words : BitVec 64)
    (hs : s.mem.wf = true) :
    (s.xsendStep n x o words).mem.wf = true := by
  unfold State.xsendStep
  split <;> simp [hs]

@[simp] theorem State.acceptWith_memWf (s : State) (n : Nat) (x : XCmd) (v size : Nat) (hs : s.mem.wf = true) :
    (s.acceptWith n x v size).mem.wf = true := by
  unfold State.acceptWith
  simp only []
  (repeat' split) <;> simp [hs]

@[simp] theorem State.readSource_memWf (s : State) (n : Nat) (x : XCmd) (size blk : Nat) (words : BitVec 1024)
    (hs : s.mem.wf = true) :
    (s.readSource n x size blk words).mem.wf = true := by
  simp [State.readSource, hs]

@[simp] theorem State.acceptCollective_memWf (s : State) (n : Nat) (x : XCmd) (blk : Nat) (words : BitVec 1024)
    (hs : s.mem.wf = true) :
    (s.acceptCollective n x blk words).mem.wf = true := by
  unfold State.acceptCollective
  simp only []
  (repeat' split) <;> simp [hs]

@[simp] theorem State.slotWrite_memWf (s : State) (w : TaskRef) (x : Option Window) (l k v : Nat)
    (hs : s.mem.wf = true) :
    (s.slotWrite w x l k v).mem.wf = true := by
  unfold State.slotWrite
  split
  · refine State.foldl_memOk (fun t i ht => ?_) _ hs
    rw [State.memOk]
    exact State.homeWrite_memWf _ _ _ _ _ ht
  · exact hs

@[simp] theorem State.answerStat_memWf (s : State) (n : Nat) (x : XCmd) (words : BitVec 1024) (hs : s.mem.wf = true) :
    (s.answerStat n x words).mem.wf = true := by
  unfold State.answerStat
  simp only []
  split
  · exact State.orLand_memWf _ _ _ _ hs (by simp [hs])
  · split
    · split <;> simp [hs]
    · simp [hs]

@[simp] theorem State.endCollective_memWf (s : State) (n q : Nat) (hs : s.mem.wf = true) :
    (s.endCollective n q).mem.wf = true := by
  unfold State.endCollective
  split <;> simp [hs]

@[simp] theorem State.deliverPiece_memWf (s : State) (core seq : Nat) (c : Cmd) (b : XBlock) (p : Nat)
    (words : BitVec 64) (hs : s.mem.wf = true) :
    (s.deliverPiece core seq c b p words).mem.wf = true := by
  unfold State.deliverPiece
  simp only []
  (repeat' split) <;> simp [hs]

@[simp] theorem State.peerLost_memWf (s : State) (i n q : Nat) (hs : s.mem.wf = true) :
    (s.peerLost i n q).mem.wf = true := by
  unfold State.peerLost
  (repeat' split) <;> simp [hs]

/-! ### Functions of Machine/Dcu -/

@[simp] theorem State.dcuRead_memWf (s : State) (a n : Nat) (hs : s.mem.wf = true) :
    (s.dcuRead a n).1.mem.wf = true := by
  unfold State.dcuRead
  (repeat' split) <;> simp [hs]

@[simp] theorem State.dcuWrite_memWf (s : State) (a n v : Nat) (hs : s.mem.wf = true) :
    (s.dcuWrite a n v).mem.wf = true := by simp [State.dcuWrite, hs]

@[simp] theorem State.demandPoison_memWf (s before : State) (a n : Nat) (hs : s.mem.wf = true) :
    (s.demandPoison before a n).mem.wf = true := by simp [State.demandPoison, hs]

@[simp] theorem State.writeD_memWf (s : State) (a : Nat) (hs : s.mem.wf = true) : (s.writeD a).mem.wf = true := by
  unfold State.writeD
  split <;> simp [hs]

@[simp] theorem State.readChain_memWf (fuel : Nat) (s : State) (a : Nat) (hs : s.mem.wf = true) :
    (State.readChain fuel s a).1.mem.wf = true := by
  induction fuel generalizing s a with
  | zero => exact hs
  | succ k ih =>
    have hx := State.dcuRead_memWf s a 256 hs
    unfold State.readChain
    simp only []
    split_ifs
    · exact hs
    · exact State.demandPoison_memWf _ _ _ _ hx
    · exact hx
    · exact hx
    · exact ih _ _ hx

@[simp] theorem State.validChain_memWf (s : State) (a : Nat) (hs : s.mem.wf = true) :
    (s.validChain a).1.mem.wf = true := by
  unfold State.validChain
  simp only []
  split <;> simp [hs]

@[simp] theorem State.bindNow_memWf (s : State) (die slot : Nat) (addr : BitVec 52) (hs : s.mem.wf = true) :
    (s.bindNow die slot addr).mem.wf = true := by
  unfold State.bindNow
  simp only []
  (repeat' split) <;> simp [hs]

@[simp] theorem State.revalidate_memWf (s : State) (a : Nat) (hs : s.mem.wf = true) :
    (s.revalidate a).mem.wf = true := by
  unfold State.revalidate
  simp only []
  (repeat' split) <;> simp [hs]

@[simp] theorem State.revalidateOr_memWf (s : State) (a : Nat) (hs : s.mem.wf = true) :
    (s.revalidateOr a).mem.wf = true := by simp [State.revalidateOr, hs]

@[simp] theorem State.writeDOr_memWf (s : State) (a : Nat) (hs : s.mem.wf = true) :
    (s.writeDOr a).mem.wf = true := by simp [State.writeDOr, hs]

@[simp] theorem State.runDelayed_memWf (s : State) (x : Delayed) (hs : s.mem.wf = true) :
    (s.runDelayed x).mem.wf = true := by
  cases x with
  | bind die slot addr => exact State.bindNow_memWf _ _ _ _ hs
  | boundary a => exact State.writeD_memWf _ _ (State.revalidate_memWf _ _ hs)

@[simp] theorem State.actDelayed_memWf (s : State) (hs : s.mem.wf = true) : s.actDelayed.mem.wf = true := by
  unfold State.actDelayed
  split
  · exact hs
  · exact State.foldl_memOk (fun t x ht => t.runDelayed_memWf x ht) _ hs

/-! ### Functions of Machine/Fetch -/

@[simp] theorem State.aheadFault_memWf (s : State) (n p kind : Nat) (hs : s.mem.wf = true) :
    (s.aheadFault n p kind).mem.wf = true := by
  unfold State.aheadFault
  simp only []
  split <;> simp [hs]

@[simp] theorem State.ahead_memWf (n fuel : Nat) (s : State) (p lit : Nat) (hs : s.mem.wf = true) :
    (State.ahead n fuel s p lit).mem.wf = true := by
  induction fuel generalizing s p lit with
  | zero => exact hs
  | succ k ih =>
    refine ih _ _ _ ?_
    split_ifs <;> simp [hs]

@[simp] theorem State.fetchAhead_memWf (s : State) (p : BitVec 18) (hs : s.mem.wf = true) :
    (s.fetchAhead p).mem.wf = true := by simp [State.fetchAhead, hs]

/-! ### Functions of Machine/Issue -/

@[simp] theorem State.walkRead_memWf (s : State) (n va : Nat) (si : BitVec 6) (write : Bool) (hs : s.mem.wf = true) :
    (s.walkRead n va si write).mem.wf = true := by
  unfold State.walkRead
  split <;> simp [hs]

@[simp] theorem State.replay_memWf (s : State) (n : Nat) (k : Task) (h : Hold) (hs : s.mem.wf = true) :
    (s.replay n k h).mem.wf = true := by
  unfold State.replay
  simp only []
  split
  · simp [hs]
  · simp [hs]
  · split <;> simp [hs]

@[simp] theorem State.askReplay_memWf (s : State) (n : Nat) (k : Task) (h : Hold) (hs : s.mem.wf = true) :
    (s.askReplay n k h).mem.wf = true := by simp [State.askReplay, hs]

@[simp] theorem State.answerAsked_memWf (s : State) (n : Nat) (hs : s.mem.wf = true) :
    (s.answerAsked n).mem.wf = true := by
  unfold State.answerAsked
  (repeat' split) <;> simp [hs]

/-! ### Functions of Machine/Launch -/

@[simp] theorem State.loadSegs_memWf (s : State) (card : BitVec 1024) (hs : s.mem.wf = true) :
    (s.loadSegs card).1.mem.wf = true := by
  unfold State.loadSegs
  simp only []
  (repeat' split) <;> simp [hs]

@[simp] theorem State.loadDict_memWf (s : State) (card : BitVec 1024) (hs : s.mem.wf = true) :
    (s.loadDict card).1.mem.wf = true := by
  unfold State.loadDict
  simp only []
  (repeat' split) <;> simp [hs]

@[simp] theorem State.loadSector_memWf (sector len : Nat) (x : State × Image) (p : Nat) (hx : x.1.mem.wf = true) :
    (State.loadSector sector len x p).1.mem.wf = true := by
  unfold State.loadSector
  simp only []
  split <;> simp [hx]

@[simp] theorem State.loadOverlay_memWf (s : State) (e : Seg) (im : Image) (hs : s.mem.wf = true) :
    (s.loadOverlay e im).1.mem.wf = true := State.foldl_fst_memWf (fun x _ hx => State.loadSector_memWf _ _ x _ hx) _ hs

@[simp] theorem State.loadImage_memWf (s : State) (n : Nat) (card : BitVec 1024) (e : Seg) (hs : s.mem.wf = true) :
    (s.loadImage n card e).1.mem.wf = true := by
  unfold State.loadImage
  simp only []
  (repeat' split) <;> simp [hs]

/-! ### Functions of Machine/Context -/

@[simp] theorem State.takeAcquires_memWf (s : State) (n : Nat) (hs : s.mem.wf = true) :
    (s.takeAcquires n).mem.wf = true := by
  refine State.foldl_memOk (fun t c ht => ?_) _ hs
  split
  · exact State.fenceAct_memWf _ _ _ _ _ ht
  · exact ht

@[simp] theorem State.saveWindows_memWf (s : State) (t : Timed) (base : Nat) (hs : s.mem.wf = true) :
    (s.saveWindows t base).mem.wf = true := by
  refine State.foldl_memOk (fun t w ht => ?_) _ hs
  cases w with
  | none => exact ht
  | some v => exact State.dcuWrite_memWf _ _ _ _ ht

@[simp] theorem State.writeImage_memWf (s : State) (n : Nat) (k : Task) (why : EvictReason) (base : Nat)
    (hs : s.mem.wf = true) :
    (s.writeImage n k why base).mem.wf = true := by
  simp [State.writeImage, hs]

@[simp] theorem State.loadWindows_memWf (s : State) (base : Nat) (t : Timed) (hs : s.mem.wf = true) :
    (s.loadWindows base t).1.mem.wf = true := by
  unfold State.loadWindows
  induction t.wins.toList generalizing s t with
  | nil => exact hs
  | cons w l ih =>
    rw [List.foldl_cons]
    cases w with
    | none => exact ih _ _ hs
    | some v => exact ih _ _ (State.dcuRead_memWf _ _ _ hs)

/-! ### Functions of Machine/Ring -/

@[simp] theorem State.gaveUp_memWf (s : State) (n : Nat) (c : Cmd) (k : Nat) (hs : s.mem.wf = true) :
    (s.gaveUp n c k).mem.wf = true := by
  unfold State.gaveUp
  split
  · cases vxFields c.ins with
    | none => exact hs
    | some o =>
      rw [Option.elim_some]
      exact State.releaseThen_memWf _ _ _ _ _ (fun t ht => by simp [ht]) hs
  · simp [hs]
  · split
    · exact hs
    · split <;> simp [hs]
  all_goals
    split
    · simp [hs]
    · split <;> simp [hs]
    · split <;> simp [hs]

@[simp] theorem State.nacked_memWf (s : State) (n : Nat) (c : Cmd) (k : Nat) (hs : s.mem.wf = true) :
    (s.nacked n c k).mem.wf = true := by
  have h1 : ((s.awayLanes n c k).head?.elim s fun l => s.onTrust fun t => t.sealOn l.1 l.2).mem.wf = true := by
    cases (s.awayLanes n c k).head? <;> exact hs
  unfold State.nacked
  simp only []
  split <;> simp [h1]

/-! ### Functions of Machine/Trust -/

@[simp] theorem State.answerEpochs_memWf (s : State) (hs : s.mem.wf = true) : s.answerEpochs.mem.wf = true := by
  refine State.foldl_memOk (fun t w ht => ?_) _ hs
  rw [State.memOk] at ht ⊢
  split_ifs <;> simp [ht]

@[simp] theorem State.pass_memWf (s : State) (hs : s.mem.wf = true) : s.pass.mem.wf = true := by simp [State.pass, hs]

@[simp] theorem State.barrierCheck_memWf (s : State) (hs : s.mem.wf = true) :
    s.barrierCheck.mem.wf = true := by simp [State.barrierCheck, hs]

@[simp] theorem State.arm_memWf (s : State) (again : Bool) (hs : s.mem.wf = true) :
    (s.arm again).mem.wf = true := by simp [State.arm, hs]

@[simp] theorem State.failBackoff_memWf (s : State) (m n q k : Nat) (hs : s.mem.wf = true) :
    (s.failBackoff m n q k).mem.wf = true := by
  unfold State.failBackoff
  split <;> simp [hs]

@[simp] theorem State.failCrossings_memWf (s : State) (m n : Nat) (c : Cmd) (hs : s.mem.wf = true) :
    (s.failCrossings m n c).mem.wf = true := by
  unfold State.failCrossings
  split
  · exact State.foldl_memOk (fun t k ht => t.failBackoff_memWf m n c.seq k ht) _ hs
  · simp only [State.failAt_mem]
    split
    · rw [State.foldl_mem fun t r => t.dropSector_mem ..]
      exact hs
    · exact hs

@[simp] theorem State.evictMember_memWf (s : State) (m : Nat) (hs : s.mem.wf = true) :
    (s.evictMember m).mem.wf = true := by
  have h1 : ((List.range 96).foldl
      (fun s n => (s.unAt n).queue.foldl (fun s c => s.failCrossings m n c) s) s).mem.wf = true :=
    State.foldl_memOk (fun t n ht => State.foldl_memOk (fun u c hu => u.failCrossings_memWf m n c hu) _ ht) _ hs
  have h2 := State.foldl_memOk (f := fun (s : State) (a : Adrift) => s.failCrossings m a.core a.cmd)
    (fun t a ht => t.failCrossings_memWf m a.core a.cmd ht) s.adrift h1
  exact State.arm_memWf _ _ (by rw [State.setMstate_mem]; exact h2)

@[simp] theorem State.tbarr_memWf (s : State) (n : Nat) (c : Cmd) (o : CfOp) (words : BitVec 1024)
    (hs : s.mem.wf = true) :
    (s.tbarr n c o words).mem.wf = true :=
  State.releaseThen_memWf _ _ _ _ _ (fun t ht => by simp [ht]) hs

/-! ### Functions of Machine/Retire -/

@[simp] theorem State.sweep_memWf (s : State) (hs : s.mem.wf = true) : s.sweep.mem.wf = true := by
  have h1 : (s.orphans.foldl State.forget { s with orphans := [] }).mem.wf = true :=
    State.foldl_memOk (fun t x ht => (congrArg (Memory.wf · = true) (t.forget_mem x)).mpr ht) _ hs
  refine State.trimCaches_memWf _ ?_
  rw [State.withdrawIdle_mem, State.tidy_mem]
  exact State.actDelayed_memWf _ h1

/-! ### Functions of Machine/Health -/

@[simp] theorem State.granuleFound_memWf (s : State) (g kind : Nat) (e : ScrubFinding) (hs : s.mem.wf = true) :
    (s.granuleFound g kind e).mem.wf = true := by
  cases e <;> simp [State.granuleFound, hs]

@[simp] theorem State.rdcError_memWf (s : State) (die sector g : Nat) (hs : s.mem.wf = true) :
    (s.rdcError die sector g).mem.wf = true := by simp [State.rdcError, hs]

@[simp] theorem State.l2Error_memWf (s : State) (die sector g : Nat) (dirty : Bool) (hs : s.mem.wf = true) :
    (s.l2Error die sector g dirty).mem.wf = true := by simp [State.l2Error, hs]

@[simp] theorem State.errorArises_memWf (s : State) (x : MemErrorSite) (hs : s.mem.wf = true) :
    (s.errorArises x).mem.wf = true := by
  cases x <;> simp [State.errorArises, hs]

@[simp] theorem State.readingEntries_memWf (s : State) (old : Control) (hs : s.mem.wf = true) :
    (s.readingEntries old).mem.wf = true := State.foldl_memOk (fun t _ ht => t.health_memWf _ _ _ _ _ ht) _
    (State.foldl_memOk (fun t _ ht => t.health_memWf _ _ _ _ _ ht) _
      (State.foldl_memOk (fun t _ ht => t.health_memWf _ _ _ _ _ ht) _ hs))

@[simp] theorem State.lost_memWf (s : State) (ctl : Control) (hs : s.mem.wf = true) :
    (s.lost ctl).mem.wf = true := State.lost_memOk _ _ hs

@[simp] theorem State.trip_memWf (s : State) (unit value : Nat) (hs : s.mem.wf = true) :
    (s.trip unit value).mem.wf = true := by simp [State.trip, hs]

@[simp] theorem State.stepPower_memWf (s : State) (hs : s.mem.wf = true) :
    s.stepPower.mem.wf = true := by simp [State.stepPower, hs]

/-! ### Functions of Machine/Start -/

@[simp] theorem State.restarted_mem (s : State) (pos : BitVec 4) (m : Memory) (poison : List Nat) (ctl : Control) :
    (s.restarted pos m poison ctl).mem = m := rfl

@[simp] theorem State.startFails_memWf (s : State) (r : BitVec 4) (hs : s.mem.wf = true) :
    (s.startFails r).mem.wf = true := by simp [State.startFails, hs]

end Sys2Proof.Machine
end

section
/-!
SUPPORT. The canonical form of memory under the meanings. `memOkAfter` says of an outcome that memory is canonical where it
goes on; every meaning has one lemma here. An instruction of a bundle gets its lemma from its slot, since it is only a call
of a shared operation with its own operands.
-/

namespace Sys2Proof.Machine

/-- Where an outcome goes on, memory is canonical in the state it goes on to. -/
def memOkAfter (o : Out) : Prop := ∀ t, o = .next t → t.memOk

@[simp] theorem memOkAfter_next (s : State) : memOkAfter (.next s) ↔ s.mem.wf = true :=
  ⟨fun h => h s rfl, fun h _ e => Host.Outcome.next.inj e ▸ h⟩

@[simp] theorem memOkAfter_fault (f : Fault) : memOkAfter (.fault f) := fun _ h => by cases h

@[simp] theorem memOkAfter_ite (c : Prop) [Decidable c] (o p : Out) :
    memOkAfter (if c then o else p) ↔ if c then memOkAfter o else memOkAfter p := by split <;> rfl

theorem andThen_memOk {o : Out} {f : State → Out} (ho : memOkAfter o) (hf : ∀ t, t.memOk → memOkAfter (f t)) :
    memOkAfter (andThen o f) := fun t h =>
  have ⟨u, hu, ht⟩ := (andThen_next o f t).1 h
  hf u (ho u hu) t ht

theorem memOkAfter_of_mem {s t : State} (h : t.mem = s.mem) (hs : s.mem.wf = true) : memOkAfter (.next t) :=
  (memOkAfter_next t).2 (h ▸ hs)

/-! ### Functions of Machine/Ops -/

@[simp] theorem State.timedNext_memOk (s : State) (f : Timed → Timed) (hs : s.mem.wf = true) :
    memOkAfter (s.timedNext f) := by simp [State.timedNext, hs]

/-! ### Functions of Machine/Traps -/

@[simp] theorem State.trapOr_memOk (s : State) (slot : BitVec 4) (tr : Option Trap) (f : Timed → Timed)
    (hs : s.mem.wf = true) :
    memOkAfter (s.trapOr slot tr f) := by
  unfold State.trapOr
  split <;> simp [hs]

/-! ### Functions of Machine/Scalar -/

@[simp] theorem execRR_memOk (f : Word → Word → Word) (lat : Nat) (d a b : BitVec 6) (s : State)
    (hs : s.mem.wf = true) :
    memOkAfter (execRR f lat d a b s) := by
  simp [execRR, hs]

@[simp] theorem execR_memOk (f : Word → Word) (d a : BitVec 6) (s : State) (hs : s.mem.wf = true) :
    memOkAfter (execR f d a s) := by simp [execR, hs]

@[simp] theorem execF_memOk (d : BitVec 6) (f : Timed → Word × BitVec 5) (s : State) (hs : s.mem.wf = true) :
    memOkAfter (execF d f s) := by simp [execF, hs]

@[simp] theorem execLds_memOk (n : Nat) (ext : Nat → Word) (d a : BitVec 6) (i : BitVec 12) (s : State)
    (hs : s.mem.wf = true) :
    memOkAfter (execLds n ext d a i s) := by
  simp [execLds, hs]

@[simp] theorem execSts_memOk (n : Nat) (b a : BitVec 6) (i : BitVec 12) (s : State) (hs : s.mem.wf = true) :
    memOkAfter (execSts n b a i s) := by simp [execSts, hs]

/-! ### Functions of Machine/Copy -/

@[simp] theorem passThrough_memOk (i : Instr) (tr : Option Trap) (f : Timed → Timed) (s : State)
    (hs : s.mem.wf = true) :
    memOkAfter (passThrough i tr f s) := by
  unfold passThrough
  split <;> simp [hs]

@[simp] theorem tileCmd_memOk (i : Instr) (o : CaOp) (tr : Option Trap) (s : State) (hs : s.mem.wf = true) :
    memOkAfter (tileCmd i o tr s) := by
  unfold tileCmd
  split <;> simp [hs]

@[simp] theorem execWcopy_memOk (o : CaOp) (s : State) (hs : s.mem.wf = true) : memOkAfter (execWcopy o s) := by
  unfold execWcopy
  split <;> simp [hs]

@[simp] theorem execWfill_memOk (o : CaOp) (s : State) (hs : s.mem.wf = true) : memOkAfter (execWfill o s) := by
  unfold execWfill
  split <;> simp [hs]

@[simp] theorem execBclose_memOk (f : BitVec 5) (s : State) (hs : s.mem.wf = true) :
    memOkAfter (execBclose f s) := by simp [execBclose, hs]

@[simp] theorem execBwait_memOk (n : BitVec 8) (s : State) (hs : s.mem.wf = true) :
    memOkAfter (execBwait n s) := by simp [execBwait, hs]

/-! ### Functions of Machine/Engine -/

@[simp] theorem issueFlagged_memOk (tr : Option Trap) (f : BitVec 5) (c : Cmd) (s : State) (hs : s.mem.wf = true) :
    memOkAfter (issueFlagged tr f c s) := by
  unfold issueFlagged
  split <;> simp [hs]

/-! ### Functions of Machine/VertexCmd -/

@[simp] theorem execPharm_memOk (o : CfOp) (s : State) (hs : s.mem.wf = true) : memOkAfter (execPharm o s) := by
  unfold execPharm
  simp only []
  (repeat' split) <;> simp [hs]

/-! ### Functions of Machine/Vertex -/

@[simp] theorem execVertexOperation_memOk (core : Nat) (w : CmdWords 1024) (s : State) (hs : s.mem.wf = true) :
    memOkAfter (execVertexOperation core w s) := by
  unfold execVertexOperation
  split
  · split
    · simp [hs]
    · split
      · simp [hs]
      · refine (memOkAfter_next _).2 (State.orLand_memWf _ _ _ _ hs ?_)
        split
        · exact State.vxLocal_memWf _ _ _ _ _ _ hs
        · split
          · exact State.vxRemote_memWf _ _ _ _ _ _ hs
          · exact State.releaseThen_memWf _ _ _ _ _ (fun t ht => by simp [ht]) hs
  · simp [hs]

@[simp] theorem execArmComplete_memOk (core arm : Nat) (s : State) (hs : s.mem.wf = true) :
    memOkAfter (execArmComplete core arm s) := by
  unfold execArmComplete
  split <;> simp [hs]

@[simp] theorem execVertexRecordMove_memOk (die obj : Nat) (s : State) (hs : s.mem.wf = true) :
    memOkAfter (execVertexRecordMove die obj s) := by
  unfold execVertexRecordMove
  simp only []
  (repeat' split) <;> simp [hs]

theorem State.vxHost_memOk (s : State) (die obj : Nat) (allowed : ObjKind → Bool) {f : State → State}
    (hf : s.mem.wf = true → (f s).mem.wf = true) (hs : s.mem.wf = true) : memOkAfter (s.vxHost die obj allowed f) := by
  simp [State.vxHost, hs, hf hs]

@[simp] theorem execInitSync_memOk (die obj : Nat) (s : State) (hs : s.mem.wf = true) :
    memOkAfter (execInitSync die obj s) := by
  refine State.vxHost_memOk _ _ _ _ (fun hs => ?_) hs
  simp only []
  split <;> simp [hs]

@[simp] theorem execInitPhaser_memOk (die obj : Nat) (s : State) (hs : s.mem.wf = true) :
    memOkAfter (execInitPhaser die obj s) := by
  refine State.vxHost_memOk _ _ _ _ (fun hs => ?_) hs
  simp only []
  split <;> simp [hs]

@[simp] theorem execReadObject_memOk (die obj : Nat) (s : State) (hs : s.mem.wf = true) :
    memOkAfter (execReadObject die obj s) := by
  refine State.vxHost_memOk _ _ _ _ (fun hs => ?_) hs
  have hx := State.readObj_memWf s die obj hs
  simp only []
  split <;> simp [hx]

@[simp] theorem execFreeObject_memOk (die obj : Nat) (s : State) (hs : s.mem.wf = true) :
    memOkAfter (execFreeObject die obj s) := by simp [execFreeObject, hs]

@[simp] theorem execBreakPhaser_memOk (die obj : Nat) (s : State) (hs : s.mem.wf = true) :
    memOkAfter (execBreakPhaser die obj s) := by
  have hx := State.readObj_memWf s die obj hs
  unfold execBreakPhaser
  simp only []
  split
  · simp [hs]
  · split
    · split <;> simp [hx]
    · simp [hs]
    · simp [hs]

@[simp] theorem execVertexBadCommand_memOk (die : Nat) (op : BitVec 4) (_obj : Nat) (s : State) (hs : s.mem.wf = true) :
    memOkAfter (execVertexBadCommand die op _obj s) := by simp [execVertexBadCommand, hs]

@[simp] theorem execOvfBaseWrite_memOk (die : Nat) (v : Word) (s : State) (hs : s.mem.wf = true) :
    memOkAfter (execOvfBaseWrite die v s) := by simp [execOvfBaseWrite, hs]

@[simp] theorem execObjCountWrite_memOk (die : Nat) (v : Word) (s : State) (hs : s.mem.wf = true) :
    memOkAfter (execObjCountWrite die v s) := by simp [execObjCountWrite, hs]

/-! ### Functions of Machine/CopyEngine -/

@[simp] theorem execSectorRequestIssue_memOk (core : Nat) (w : CmdWords 64) (s : State) (hs : s.mem.wf = true) :
    memOkAfter (execSectorRequestIssue core w s) := by
  unfold execSectorRequestIssue
  (repeat' split) <;> simp [hs]

@[simp] theorem execHomeAccess_memOk (a : HomeReq) (s : State) (hs : s.mem.wf = true) :
    memOkAfter (execHomeAccess a s) := by
  unfold execHomeAccess
  (repeat' split) <;> simp [hs]

@[simp] theorem execStremoRelease_memOk (core seq req : Nat) (s : State) (hs : s.mem.wf = true) :
    memOkAfter (execStremoRelease core seq req s) := by
  unfold execStremoRelease
  split <;> simp [hs]

@[simp] theorem execSectorResponse_memOk (core seq req : Nat) (words : BitVec 1024) (s : State) (hs : s.mem.wf = true) :
    memOkAfter (execSectorResponse core seq req words s) := by
  unfold execSectorResponse
  (repeat' split) <;> simp [hs]

@[simp] theorem execCopyPageTranslation_memOk (core seq : Nat) (s : State) (hs : s.mem.wf = true) :
    memOkAfter (execCopyPageTranslation core seq s) := by
  unfold execCopyPageTranslation
  simp only []
  (repeat' split) <;> simp [hs]

@[simp] theorem execCopyCommandComplete_memOk (core : Nat) (w : CmdBlock) (s : State) (hs : s.mem.wf = true) :
    memOkAfter (execCopyCommandComplete core w s) := by
  unfold execCopyCommandComplete
  (repeat' split) <;> simp [hs]

@[simp] theorem execBatchComplete_memOk (core batch : Nat) (s : State) (hs : s.mem.wf = true) :
    memOkAfter (execBatchComplete core batch s) := by
  unfold execBatchComplete
  (repeat' split) <;> simp [hs]

@[simp] theorem execRdcReplacement_memOk (die : Nat) (x : SectorWords) (s : State) (hs : s.mem.wf = true) :
    memOkAfter (execRdcReplacement die x s) := by simp [execRdcReplacement, hs]

/-! ### Functions of Machine/Pooling -/

@[simp] theorem execMigrationInSwitch_memOk (pbc slot : Nat) (s : State) (hs : s.mem.wf = true) :
    memOkAfter (execMigrationInSwitch pbc slot s) := by
  unfold execMigrationInSwitch
  split <;> simp [hs]

@[simp] theorem execMigrationTimeout_memOk (pbc slot : Nat) (s : State) (hs : s.mem.wf = true) :
    memOkAfter (execMigrationTimeout pbc slot s) := by
  unfold execMigrationTimeout
  split <;> simp [hs]

@[simp] theorem execDemotionSwitch_memOk (pbc slot : Nat) (s : State) (hs : s.mem.wf = true) :
    memOkAfter (execDemotionSwitch pbc slot s) := by
  unfold execDemotionSwitch
  split <;> simp [hs]

@[simp] theorem execTload_memOk (pbc table : Nat) (s : State) (hs : s.mem.wf = true) :
    memOkAfter (execTload pbc table s) := by simp [execTload, hs]

@[simp] theorem execTdrop_memOk (pbc table : Nat) (s : State) (hs : s.mem.wf = true) :
    memOkAfter (execTdrop pbc table s) := by simp [execTdrop, hs]

@[simp] theorem execTread_memOk (pbc table : Nat) (s : State) (hs : s.mem.wf = true) :
    memOkAfter (execTread pbc table s) := by simp [execTread, hs]

@[simp] theorem execHotload_memOk (pbc table : Nat) (s : State) (hs : s.mem.wf = true) :
    memOkAfter (execHotload pbc table s) := by simp [execHotload, hs]

@[simp] theorem execHotflush_memOk (pbc table : Nat) (s : State) (hs : s.mem.wf = true) :
    memOkAfter (execHotflush pbc table s) := by simp [execHotflush, hs]

@[simp] theorem execSkclr_memOk (pbc group : Nat) (s : State) (hs : s.mem.wf = true) :
    memOkAfter (execSkclr pbc group s) := by simp [execSkclr, hs]

@[simp] theorem execPbcBadCommand_memOk (pbc : Nat) (op : BitVec 8) (s : State) (hs : s.mem.wf = true) :
    memOkAfter (execPbcBadCommand pbc op s) := by simp [execPbcBadCommand, hs]

@[simp] theorem State.hotWrite_memOk (s : State) (n : Nat) (base : BitVec 52) (slots : BitVec 20) (log2 : BitVec 4)
    (hs : s.mem.wf = true) :
    memOkAfter (s.hotWrite n base slots log2) := by
  simp [State.hotWrite, hs]

@[simp] theorem execHotBaseWrite_memOk (pbc : Nat) (v : Word) (s : State) (hs : s.mem.wf = true) :
    memOkAfter (execHotBaseWrite pbc v s) := by simp [execHotBaseWrite, hs]

@[simp] theorem execHotSlotsWrite_memOk (pbc : Nat) (v : Word) (s : State) (hs : s.mem.wf = true) :
    memOkAfter (execHotSlotsWrite pbc v s) := by simp [execHotSlotsWrite, hs]

@[simp] theorem execSlotlog2Write_memOk (pbc : Nat) (v : Word) (s : State) (hs : s.mem.wf = true) :
    memOkAfter (execSlotlog2Write pbc v s) := by simp [execSlotlog2Write, hs]

@[simp] theorem execMigLimitWrite_memOk (pbc : Nat) (v : Word) (s : State) (hs : s.mem.wf = true) :
    memOkAfter (execMigLimitWrite pbc v s) := by simp [execMigLimitWrite, hs]

@[simp] theorem execPbcQueryAnswer_memOk (core : Nat) (w : CmdWords 1024) (s : State) (hs : s.mem.wf = true) :
    memOkAfter (execPbcQueryAnswer core w s) := by
  unfold execPbcQueryAnswer
  split
  · simp [hs]
  · split
    · simp [hs]
    · extract_lets row t r n away
      split
      · simp [hs]
      · refine (memOkAfter_next _).2 (State.orLand_memWf _ _ _ _ hs ?_)
        split_ifs
        · simp [hs]
        · simp [hs]
        · split <;> simp [hs]

/-! ### Functions of Machine/Gather -/

@[simp] theorem execGatherAccept_memOk (core : Nat) (w : CmdBlock) (s : State) (hs : s.mem.wf = true) :
    memOkAfter (execGatherAccept core w s) := by
  unfold execGatherAccept
  split
  · simp [hs]
  · split
    · simp [hs]
    · split_ifs
      · simp [hs]
      · simp [hs]
      · simp [hs]
      · exact (memOkAfter_next _).2 (State.foldl_memOk (fun t i ht => t.readEarly_memWf core _ _ _ ht) _ hs)

@[simp] theorem execShardLookup_memOk (core seq bag shard : Nat) (s : State) (hs : s.mem.wf = true) :
    memOkAfter (execShardLookup core seq bag shard s) := by
  unfold execShardLookup
  split <;> simp [hs]

@[simp] theorem execPartialCombine_memOk (core seq : Nat) (w : BagWords) (s : State) (hs : s.mem.wf = true) :
    memOkAfter (execPartialCombine core seq w s) := by
  unfold execPartialCombine
  (repeat' split) <;> simp [hs]

/-! ### Functions of Machine/ExchangeCmd -/

@[simp] theorem execXcan_memOk (o : CfOp) (s : State) (hs : s.mem.wf = true) :
    memOkAfter (execXcan o s) := by simp [execXcan, hs]

/-! ### Functions of Machine/LatticeCmd -/

@[simp] theorem execLopen_memOk (o : CfOp) (s : State) (hs : s.mem.wf = true) : memOkAfter (execLopen o s) := by
  unfold execLopen
  simp only []
  (repeat' split) <;> simp [hs]

@[simp] theorem pushCmd_memOk (i : Instr) (o : CfOp) (n : Nat) (s : State) (hs : s.mem.wf = true) :
    memOkAfter (pushCmd i o n s) := by
  unfold pushCmd
  (repeat' split) <;> simp [hs]

@[simp] theorem closeCmd_memOk (i : Instr) (o : CfOp) (s : State) (hs : s.mem.wf = true) :
    memOkAfter (closeCmd i o s) := by
  unfold closeCmd
  (repeat' split) <;> simp [hs]

/-! ### Functions of Machine/Lattice -/

@[simp] theorem execRinit_memOk (unit region : Nat) (s : State) (hs : s.mem.wf = true) :
    memOkAfter (execRinit unit region s) := by simp [execRinit, hs]

@[simp] theorem execRfree_memOk (unit region : Nat) (s : State) (hs : s.mem.wf = true) :
    memOkAfter (execRfree unit region s) := by
  unfold execRfree
  (repeat' split) <;> simp [hs]

@[simp] theorem execRread_memOk (unit region : Nat) (s : State) (hs : s.mem.wf = true) :
    memOkAfter (execRread unit region s) := by
  unfold execRread
  simp only []
  (repeat' split) <;> simp [hs]

@[simp] theorem execRflush_memOk (unit region : Nat) (s : State) (hs : s.mem.wf = true) :
    memOkAfter (execRflush unit region s) := by
  unfold execRflush
  (repeat' split) <;> simp [hs]

@[simp] theorem execRabort_memOk (unit region : Nat) (s : State) (hs : s.mem.wf = true) :
    memOkAfter (execRabort unit region s) := by
  unfold execRabort
  (repeat' split) <;> simp [hs]

@[simp] theorem execLatticeBadCommand_memOk (unit : Nat) (op : BitVec 4) (region : Nat) (s : State)
    (hs : s.mem.wf = true) :
    memOkAfter (execLatticeBadCommand unit op region s) := by
  simp [execLatticeBadCommand, hs]

@[simp] theorem execPairIntake_memOk (core seq : Nat) (s : State) (hs : s.mem.wf = true) :
    memOkAfter (execPairIntake core seq s) := by
  unfold execPairIntake
  split <;> simp [hs]

@[simp] theorem execStreamCommit_memOk (core seq : Nat) (s : State) (hs : s.mem.wf = true) :
    memOkAfter (execStreamCommit core seq s) := by
  unfold execStreamCommit
  simp only []
  (repeat' split) <;> simp [hs]

@[simp] theorem execLatticeRegionCommand_memOk (core : Nat) (w : CmdWords 1024) (s : State) (hs : s.mem.wf = true) :
    memOkAfter (execLatticeRegionCommand core w s) := by
  unfold execLatticeRegionCommand
  split
  · simp [hs]
  · split
    · simp [hs]
    · split
      · simp [hs]
      · refine (memOkAfter_next _).2 (State.orLand_memWf _ _ _ _ hs ?_)
        split <;> simp [hs]

@[simp] theorem execEarlyApply_memOk (unit region key : Nat) (s : State) (hs : s.mem.wf = true) :
    memOkAfter (execEarlyApply unit region key s) := by simp [execEarlyApply, hs]

@[simp] theorem execBinSpillMove_memOk (unit region key : Nat) (toSpill : Bool) (s : State) (hs : s.mem.wf = true) :
    memOkAfter (execBinSpillMove unit region key toSpill s) := by
  unfold execBinSpillMove
  simp only []
  split <;> simp [hs]

/-! ### Functions of Machine/Fabric -/

@[simp] theorem State.crossIn_memOk (s : State) (x : Crossing) (hs : s.mem.wf = true) : memOkAfter (s.crossIn x) := by
  unfold State.crossIn
  split <;> simp [hs]

@[simp] theorem State.openSealed_memOk (s : State) (m lane n : Nat) (epochBit tagOk : Bool) (body : Crossing)
    (hs : s.mem.wf = true) :
    memOkAfter (s.openSealed m lane n epochBit tagOk body) := by
  simp [State.openSealed, hs]

@[simp] theorem execRackModuleJoin_memOk (m : Nat) (s : State) (hs : s.mem.wf = true) :
    memOkAfter (execRackModuleJoin m s) := by simp [execRackModuleJoin, hs]

@[simp] theorem execRackModuleLoss_memOk (m : Nat) (s : State) (hs : s.mem.wf = true) :
    memOkAfter (execRackModuleLoss m s) := by simp [execRackModuleLoss, hs]

/-! ### Functions of Machine/Exchange -/

@[simp] theorem execCollectiveAccept_memOk (core : Nat) (w : CmdBlock) (s : State) (hs : s.mem.wf = true) :
    memOkAfter (execCollectiveAccept core w s) := by
  unfold execCollectiveAccept
  (repeat' split) <;> simp [hs]

@[simp] theorem execExchangeDelivery_memOk (x : Delivery) (s : State) (hs : s.mem.wf = true) :
    memOkAfter (execExchangeDelivery x s) := by
  unfold execExchangeDelivery
  (repeat' split) <;> simp [hs]

@[simp] theorem execUetPacketReceive_memOk (p : UetPacket) (s : State) (hs : s.mem.wf = true) :
    memOkAfter (execUetPacketReceive p s) := by
  unfold execUetPacketReceive
  split
  · simp [hs]
  · split
    · simp [hs]
    · simp only []
      split
      · exact andThen_memOk (by simp [hs]) fun t ht => (memOkAfter_next _).2 (by rw [State.onXchg_mem]; exact ht)
      · simp [hs]

@[simp] theorem execUetRetransmit_memOk (peer core : Nat) (w : CmdPacket) (s : State) (hs : s.mem.wf = true) :
    memOkAfter (execUetRetransmit peer core w s) := by simp [execUetRetransmit, hs]

@[simp] theorem execPortLinkChange_memOk (port : Nat) (up : Bool) (s : State) (hs : s.mem.wf = true) :
    memOkAfter (execPortLinkChange port up s) := by simp [execPortLinkChange, hs]

@[simp] theorem execNrankWrite_memOk (g : Nat) (v : Word) (s : State) (hs : s.mem.wf = true) :
    memOkAfter (execNrankWrite g v s) := by simp [execNrankWrite, hs]

/-! ### Functions of Machine/Dcu -/

@[simp] theorem execBind_memOk (die slot : Nat) (addr : BitVec 52) (s : State) (hs : s.mem.wf = true) :
    memOkAfter (execBind die slot addr s) := by simp [execBind, hs]

@[simp] theorem execUnbind_memOk (die : Nat) (w : SlotAddress) (s : State) (hs : s.mem.wf = true) :
    memOkAfter (execUnbind die w s) := by simp [execUnbind, hs]

@[simp] theorem execDoorbell_memOk (die slot : Nat) (tail region : BitVec 32) (s : State) (hs : s.mem.wf = true) :
    memOkAfter (execDoorbell die slot tail region s) := by
  unfold execDoorbell
  simp only []
  (repeat' split) <;> simp [hs]

@[simp] theorem execPeriodWrite_memOk (_die : Nat) (v : BitVec 32) (s : State) (hs : s.mem.wf = true) :
    memOkAfter (execPeriodWrite _die v s) := by simp [execPeriodWrite, hs]

theorem State.command_memOk (s : State) (die : Nat) {f : State → State} (hf : s.mem.wf = true → (f s).mem.wf = true)
    (hs : s.mem.wf = true) : memOkAfter (s.command die f) := by
  simp [State.command, hs, hf hs]

@[simp] theorem execCancel_memOk (die : Nat) (id : BitVec 32) (s : State) (hs : s.mem.wf = true) :
    memOkAfter (execCancel die id s) := by
  refine State.command_memOk _ _ (fun hs => ?_) hs
  split <;> simp [hs]

@[simp] theorem execEnable_memOk (die : Nat) (id : BitVec 32) (s : State) (hs : s.mem.wf = true) :
    memOkAfter (execEnable die id s) := by
  refine State.command_memOk _ _ (fun hs => ?_) hs
  split <;> simp [hs]

@[simp] theorem execFlushImage_memOk (die : Nat) (s : State) (hs : s.mem.wf = true) :
    memOkAfter (execFlushImage die s) := State.command_memOk _ _ (fun hs => by simp [hs]) hs

@[simp] theorem execDcuBadCommand_memOk (die : Nat) (_op : BitVec 8) (s : State) (hs : s.mem.wf = true) :
    memOkAfter (execDcuBadCommand die _op s) := State.command_memOk _ _ (fun hs => by simp [hs]) hs

@[simp] theorem execJobCardRead_memOk (die slot : Nat) (s : State) (hs : s.mem.wf = true) :
    memOkAfter (execJobCardRead die slot s) := by
  unfold execJobCardRead
  simp only []
  split <;> simp [hs]

@[simp] theorem execBudgetPeriodBoundary_memOk (s : State) (hs : s.mem.wf = true) :
    memOkAfter (execBudgetPeriodBoundary s) := by
  unfold execBudgetPeriodBoundary
  split
  · simp [hs]
  · refine (memOkAfter_next _).2 ?_
    rw [State.tidy_mem]
    exact State.foldl_memOk (fun t a ht => t.writeDOr_memWf a ht) _
      (State.foldl_memOk (fun t a ht => t.revalidateOr_memWf a ht) _ hs)

@[simp] theorem execPinnedChargeReport_memOk (die : Nat) (s : State) (hs : s.mem.wf = true) :
    memOkAfter (execPinnedChargeReport die s) := by simp [execPinnedChargeReport, hs]

/-! ### Functions of Machine/Dispatcher -/

@[simp] theorem execDispatchDecision_memOk (die : Nat) (s : State) (hs : s.mem.wf = true) :
    memOkAfter (execDispatchDecision die s) := by
  unfold execDispatchDecision
  split <;> simp [hs]

@[simp] theorem execEvict_memOk (die : Nat) (id : BitVec 32) (s : State) (hs : s.mem.wf = true) :
    memOkAfter (execEvict die id s) := by
  refine State.command_memOk _ _ (fun hs => ?_) hs
  simp only []
  split_ifs <;> simp [hs]

/-! ### Functions of Machine/Branch -/

@[simp] theorem execTransfer_memOk (taken : Timed → Bool) (target : Timed → BitVec 18) (s : State)
    (hs : s.mem.wf = true) :
    memOkAfter (execTransfer taken target s) := by
  simp [execTransfer, hs]

/-! ### Functions of Machine/Fetch -/

@[simp] theorem execLoopSkip_memOk (s : State) (hs : s.mem.wf = true) : memOkAfter (execLoopSkip s) := by
  unfold execLoopSkip
  simp only []
  (repeat' split) <;> simp [hs]

@[simp] theorem execIdleExpiry_memOk (s : State) (hs : s.mem.wf = true) :
    memOkAfter (execIdleExpiry s) := by simp [execIdleExpiry, hs]

/-! ### Functions of Machine/Matrix -/

@[simp] theorem execPush_memOk (ovw : Bool) (v : BitVec 8) (sr : BitVec 4) (row : BitVec 12) (s : State)
    (hs : s.mem.wf = true) :
    memOkAfter (execPush ovw v sr row s) := by
  simp [execPush, hs]

@[simp] theorem execDrainCombine_memOk (s : State) (hs : s.mem.wf = true) :
    memOkAfter (execDrainCombine s) := by simp [execDrainCombine, hs]

/-! ### Functions of Machine/VectorA -/

@[simp] theorem intArith_memOk (o : VOp) (f : ElemTy → Nat → Nat → Nat) (s : State) (hs : s.mem.wf = true) :
    memOkAfter (intArith o f s) := by simp [intArith, hs]

@[simp] theorem floatArith_memOk (o : VOp) (f : FVal → FVal → FVal) (s : State) (hs : s.mem.wf = true) :
    memOkAfter (floatArith o f s) := by simp [floatArith, hs]

@[simp] theorem floatPick_memOk (o : VOp) (f : FVal → FVal → FVal) (s : State) (hs : s.mem.wf = true) :
    memOkAfter (floatPick o f s) := by simp [floatPick, hs]

@[simp] theorem floatSign_memOk (o : VOp) (f : FVal → FVal) (s : State) (hs : s.mem.wf = true) :
    memOkAfter (floatSign o f s) := by simp [floatSign, hs]

@[simp] theorem fused_memOk (o : VOp) (f : FVal → FVal → FVal → FVal) (s : State) (hs : s.mem.wf = true) :
    memOkAfter (fused o f s) := by simp [fused, hs]

@[simp] theorem reduceInt_memOk (o : VOp) (init : ElemTy → Int) (f : Int → Int → Int) (s : State)
    (hs : s.mem.wf = true) :
    memOkAfter (reduceInt o init f s) := by
  simp [reduceInt, hs]

@[simp] theorem reduceFloat_memOk (o : VOp) (f : FVal → FVal → FVal) (fin : Bool → Option FVal → FVal) (s : State)
    (hs : s.mem.wf = true) :
    memOkAfter (reduceFloat o f fin s) := by
  simp [reduceFloat, hs]

@[simp] theorem reduceBits_memOk (o : VOp) (init : Nat) (f : Nat → Nat → Nat) (s : State) (hs : s.mem.wf = true) :
    memOkAfter (reduceBits o init f s) := by simp [reduceBits, hs]

/-! ### Functions of Machine/VectorB -/

@[simp] theorem compare_memOk (o : VOp) (ri : Int → Int → Bool) (rf : FVal → FVal → Bool) (s : State)
    (hs : s.mem.wf = true) :
    memOkAfter (compare o ri rf s) := by
  simp [compare, hs]

@[simp] theorem shiftEach_memOk (o : VOp) (f : ElemTy → Nat → Nat → Nat) (s : State) (hs : s.mem.wf = true) :
    memOkAfter (shiftEach o f s) := by simp [shiftEach, hs]

@[simp] theorem funnelEach_memOk (o : VOp) (f : Nat → Nat → Nat → Nat → Nat) (s : State) (hs : s.mem.wf = true) :
    memOkAfter (funnelEach o f s) := by simp [funnelEach, hs]

@[simp] theorem pendPair_memOk (o : VOp) (f g : Timed → Nat → Nat) (s : State) (hs : s.mem.wf = true) :
    memOkAfter (pendPair o f g s) := by simp [pendPair, hs]

@[simp] theorem convert_memOk (o : VOp) (f : Timed → ElemTy → Nat → EOut) (s : State) (hs : s.mem.wf = true) :
    memOkAfter (convert o f s) := by
  unfold convert
  split <;> simp [hs]

@[simp] theorem maskOp_memOk (o : VOp) (f : MReg → MReg → MReg) (s : State) (hs : s.mem.wf = true) :
    memOkAfter (maskOp o f s) := by simp [maskOp, hs]

/-! ### Functions of Machine/Reads -/

@[simp] theorem execAccumulateLanding_memOk (s : State) (hs : s.mem.wf = true) :
    memOkAfter (execAccumulateLanding s) := by simp [execAccumulateLanding, hs]

@[simp] theorem execResultLanding_memOk (s : State) (hs : s.mem.wf = true) :
    memOkAfter (execResultLanding s) := by simp [execResultLanding, hs]

/-! ### Functions of Machine/Sync -/

@[simp] theorem execWait_memOk (mask : BitVec 32) (s : State) (hs : s.mem.wf = true) :
    memOkAfter (execWait mask s) := by
  unfold execWait
  split <;> simp [hs]

@[simp] theorem execWaitAny_memOk (mask : BitVec 32) (s : State) (hs : s.mem.wf = true) :
    memOkAfter (execWaitAny mask s) := by
  unfold execWaitAny
  split <;> simp [hs]

@[simp] theorem execWaitC_memOk (mask : BitVec 32) (s : State) (hs : s.mem.wf = true) :
    memOkAfter (execWaitC mask s) := by
  unfold execWaitC
  split <;> simp [hs]

@[simp] theorem execEndTask_memOk (s : State) (hs : s.mem.wf = true) : memOkAfter (execEndTask s) := by
  unfold execEndTask
  simp only []
  split <;> simp [hs]

/-! ### Functions of Machine/Transpose -/

@[simp] theorem execXpose_memOk (w : Nat) (d a : BitVec 8) (k : BitVec 4) (s : State) (hs : s.mem.wf = true) :
    memOkAfter (execXpose w d a k s) := by simp [execXpose, hs]

/-! ### Functions of Machine/Slots -/

theorem slotSync_memOk (i : Instr) (s : State) (hs : s.mem.wf = true) : memOkAfter (slotSync i s) := by
  unfold slotSync
  split <;> simp only [hs,
    memOkAfter_next, State.setCore_mem, execWait_memOk, execWaitAny_memOk, execWaitC_memOk, execFclr]

theorem slotBranch_memOk (i : Instr) (s : State) (hs : s.mem.wf = true) : memOkAfter (slotBranch i s) := by
  cases i
  case jmp | beqz | bnez | bltz | bgez => exact execTransfer_memOk _ _ _ hs
  case jmpr | bmt | bmf | call | callr | ret | rspush | rspop | loop => exact State.trapOr_memOk _ _ _ _ hs
  case idle | mark => exact memOkAfter_of_mem (State.setTimed_mem s _) hs
  case trapi | abort => exact memOkAfter_of_mem (State.takeTrap_mem s _ _) hs
  all_goals exact (memOkAfter_next s).2 hs

theorem slotScalar_memOk (i : Instr) (s : State) (hs : s.mem.wf = true) : memOkAfter (slotScalar i s) := by
  unfold slotScalar
  split <;> simp only [hs,
    execRR_memOk, execR_memOk, execF_memOk, execLds_memOk, execSts_memOk, State.timedNext_memOk, memOkAfter_next,
    execAdd, execSub, execAnd, execOr, execXor, execShl, execShr, execAsr, execCmpltI64, execCmpltN64, execCmpeq,
    execMinI64, execMaxI64, execMinN64, execMaxN64, execMul, execMulhI64, execMulhN64, execDivI64, execDivN64,
    execRemI64, execRemN64, execAddi, execAndi, execOri, execXori, execCmplti, execShli, execShri, execAsri,
    execSeth, execPuth, execCapadd, execCapaddi, execCapmk, execCapseg, execCapoff, execFaddF32, execFsubF32,
    execFmulF32, execFmaF32, execFminF32, execFmaxF32, execFcmpltF32, execFcmpeqF32, execCvtF32I64, execCvtI64F32,
    execLdsN8, execLdsI8, execLdsN16, execLdsI16, execLdsN32, execLdsI32, execLdsI64, execStsN8, execStsN16,
    execStsN32, execStsN64, execMfsr, execMtsr, execShape]

theorem slotVectorA_memOk (i : Instr) (s : State) (hs : s.mem.wf = true) : memOkAfter (slotVectorA i s) := by
  unfold slotVectorA
  split <;> simp only [hs,
    intArith_memOk, floatArith_memOk, floatPick_memOk, floatSign_memOk, fused_memOk, reduceInt_memOk,
    reduceFloat_memOk, reduceBits_memOk, State.timedNext_memOk, memOkAfter_ite, ite_self, memOkAfter_next,
    execVadd, execVsub, execVmul, execVmulh, execVadds, execVsubs, execVmin, execVmax, execVabs, execVneg,
    execVand, execVor, execVxor, execVandn, execVfma, execVfms, execVfnma, execVmac, execVrsum, execVrmin,
    execVrmax, execVrand, execVror, execVscale, execVbcast, execVmov, execViota, execVmovi]

theorem slotVectorB_memOk (i : Instr) (s : State) (hs : s.mem.wf = true) : memOkAfter (slotVectorB i s) := by
  unfold slotVectorB
  split <;> simp only [hs,
    compare_memOk, shiftEach_memOk, funnelEach_memOk, pendPair_memOk, convert_memOk, maskOp_memOk,
    State.timedNext_memOk, State.trapOr_memOk, memOkAfter_next, execVcmpeq, execVcmpne, execVcmplt, execVcmple,
    execVsel, execVshl, execVshr, execVasr, execVfshl, execVfshr, execVlut3, execVpopc, execVperm, execVrot,
    execVzip, execVunzip, execVcvt, execVcvtw, execVcvts, execVunpk4, execMand, execMor, execMxor, execMnot,
    execMpopc, execVext, execVins, execBstrd, execBstclr, execScsel]

theorem slotArray_memOk (i : Instr) (s : State) (hs : s.mem.wf = true) : memOkAfter (slotArray i s) := by
  cases i
  case mpusha | mpushw => exact execPush_memOk _ _ _ _ _ hs
  case xposeN32 | xposeN16 | xposeN8 | xposeb => exact execXpose_memOk _ _ _ _ _ hs
  case mmode | mcen | mwsh | mdrain | maccrd | maccwr | maccz | maccov | apxrst | apxwr | apxrd | mwclr =>
    exact memOkAfter_of_mem (State.setTimed_mem s _) hs
  all_goals exact (memOkAfter_next s).2 hs

theorem slotCopy_memOk (i : Instr) (s : State) (hs : s.mem.wf = true) : memOkAfter (slotCopy i s) := by
  unfold slotCopy
  split <;> simp only [hs,
    tileCmd_memOk, passThrough_memOk, State.trapOr_memOk, issueFlagged_memOk, pushCmd_memOk, closeCmd_memOk,
    State.enqueue_mem, memOkAfter_next, execWcopy_memOk, execWfill_memOk, execBclose_memOk, execBwait_memOk,
    execPharm_memOk, execXcan_memOk, execLopen_memOk, execWdecl, execWfree, execDset, execTld, execTst, execTldm,
    execTldbp, execPref, execStrem, execStremo, execFence, execPhreg, execPhdrop, execPharr, execPhwait, execPhrd,
    execSwld, execSwst, execAadd, execAmin, execAmax, execAand, execAor, execAxor, execAxchg, execAcas,
    execAfaddF32, execGbag, execGbagw, execGrows, execGpref, execGstat, execGcntrd, execGcntclr, execGskrd,
    execXsend, execXa2a, execXbkt, execXpool, execXstat, execPcnt, execPwait, execLpush, execLpushs, execLclose,
    execLabort, execLapply, execLstep, execLquery, execLstat, execLspill, execVld, execVldb, execVst, execVstm,
    execTbarr, execTstat, execTepoch, execTlog]

/-! ### Functions of Machine/Issue -/

theorem runSlot_memOk (n : SlotNo) {f : Instr → State → Out} (hf : ∀ i t, t.mem.wf = true → memOkAfter (f i t))
    (x : Option Instr) (s : State) (hs : s.mem.wf = true) : memOkAfter (runSlot n f x s) := by
  cases x with
  | none => simp [runSlot, hs]
  | some i => exact hf i _ hs

@[simp] theorem runSlots_memOk (b : Bundle) (s : State) (hs : s.mem.wf = true) : memOkAfter (runSlots b s) := by
  refine andThen_memOk (runSlot_memOk _ slotSync_memOk _ _ hs) fun s0 h0 => ?_
  refine andThen_memOk (runSlot_memOk _ slotBranch_memOk _ _ h0) fun s1 h1 => ?_
  refine andThen_memOk (runSlot_memOk _ slotScalar_memOk _ _ h1) fun s2 h2 => ?_
  refine andThen_memOk (runSlot_memOk _ slotScalar_memOk _ _ h2) fun s3 h3 => ?_
  refine andThen_memOk (runSlot_memOk _ slotVectorA_memOk _ _ h3) fun s4 h4 => ?_
  refine andThen_memOk (runSlot_memOk _ slotVectorB_memOk _ _ h4) fun s5 h5 => ?_
  refine andThen_memOk (runSlot_memOk _ slotArray_memOk _ _ h5) fun s6 h6 => ?_
  refine andThen_memOk (runSlot_memOk _ slotArray_memOk _ _ h6) fun s7 h7 => ?_
  exact andThen_memOk (runSlot_memOk _ slotCopy_memOk _ _ h7) fun s8 h8 => (memOkAfter_next _).2 h8

@[simp] theorem State.issue_memOk (s : State) (b : Bundle) (w : BundleBits) (hs : s.mem.wf = true) :
    memOkAfter (s.issue b w) := by
  refine andThen_memOk (runSlots_memOk b s hs) fun s1 h1 => ?_
  rw [State.memOk] at h1
  simp only []
  split <;> simp [h1]

@[simp] theorem execHeadOfIssue_memOk (s : State) (hs : s.mem.wf = true) : memOkAfter (execHeadOfIssue s) := by
  unfold execHeadOfIssue
  split <;> simp [hs]

@[simp] theorem execTlbWalkComplete_memOk (core : Nat) (s : State) (hs : s.mem.wf = true) :
    memOkAfter (execTlbWalkComplete core s) := by
  unfold execTlbWalkComplete
  (repeat' split) <;> simp [hs]

@[simp] theorem execReplay_memOk (die : Nat) (id : BitVec 32) (s : State) (hs : s.mem.wf = true) :
    memOkAfter (execReplay die id s) := by
  refine State.command_memOk _ _ (fun hs => ?_) hs
  simp only []
  split
  · simp [hs]
  · split
    · simp [hs]
    · split
      · simp [hs]
      · split <;> simp [hs]

/-! ### Functions of Machine/Launch -/

@[simp] theorem execDictionaryLoadComplete_memOk (core : Nat) (s : State) (hs : s.mem.wf = true) :
    memOkAfter (execDictionaryLoadComplete core s) := by
  unfold execDictionaryLoadComplete
  simp only []
  (repeat' split) <;> simp [hs]

/-! ### Functions of Machine/Context -/

@[simp] theorem execEvictionBoundary_memOk (core : Nat) (s : State) (hs : s.mem.wf = true) :
    memOkAfter (execEvictionBoundary core s) := by
  unfold execEvictionBoundary
  (repeat' split) <;> simp [hs]

@[simp] theorem execContextSave_memOk (core : Nat) (s : State) (hs : s.mem.wf = true) :
    memOkAfter (execContextSave core s) := by
  unfold execContextSave
  (repeat' split) <;> simp [hs]

@[simp] theorem execSaveComplete_memOk (core : Nat) (s : State) (hs : s.mem.wf = true) :
    memOkAfter (execSaveComplete core s) := by
  unfold execSaveComplete
  split
  · simp [hs]
  next k _ _ =>
    simp only [memOkAfter_next, State.onRegion_mem, State.discardStopped_mem]
    exact State.foldl_memOk (fun t x ht => t.noteEvicted_memWf k.ref x ht) _ (by simp [State.memOk, hs])

@[simp] theorem execContextRestore_memOk (core : Nat) (s : State) (hs : s.mem.wf = true) :
    memOkAfter (execContextRestore core s) := by
  unfold execContextRestore
  split <;> simp [hs]

/-! ### Functions of Machine/Ring -/

@[simp] theorem execStationSlotReceive_memOk (x : SlotArrival) (s : State) (hs : s.mem.wf = true) :
    memOkAfter (execStationSlotReceive x s) := by
  cases x with
  | own core seq req nack =>
    unfold execStationSlotReceive
    simp only []
    split
    · cases s.armOut core seq <;> simp [hs]
    · split <;> simp [hs]
  | sealed member lane seqNo epochBit tagOk body => simp [execStationSlotReceive, hs]

@[simp] theorem execNackBackoffExpiry_memOk (core seq req : Nat) (s : State) (hs : s.mem.wf = true) :
    memOkAfter (execNackBackoffExpiry core seq req s) := by
  unfold execNackBackoffExpiry
  split <;> simp [hs]

/-! ### Functions of Machine/Trust -/

@[simp] theorem execBarrierArrive_memOk (s : State) (hs : s.mem.wf = true) : memOkAfter (execBarrierArrive s) := by
  have h1 : ((List.range 8).foldl (fun s d => s.release d true) s).mem.wf = true :=
    State.foldl_memOk (fun t d ht => t.release_memWf d true ht) _ hs
  unfold execBarrierArrive
  simp only []
  split
  · simp [hs]
  · by_cases hr : s.trust.released = true <;> simp [hr, hs, h1]

@[simp] theorem execBarrierArrival_memOk (member : Nat) (epoch : BitVec 32) (members departing : BitVec 64)
    (s : State) (hs : s.mem.wf = true) :
    memOkAfter (execBarrierArrival member epoch members departing s) := by
  simp [execBarrierArrival, hs]

@[simp] theorem execTrustEvict_memOk (member : Nat) (s : State) (hs : s.mem.wf = true) :
    memOkAfter (execTrustEvict member s) := by simp [execTrustEvict, hs]

@[simp] theorem execEvictionNotice_memOk (source member : Nat) (s : State) (hs : s.mem.wf = true) :
    memOkAfter (execEvictionNotice source member s) := by simp [execEvictionNotice, hs]

@[simp] theorem execAttest_memOk (member : Nat) (s : State) (hs : s.mem.wf = true) :
    memOkAfter (execAttest member s) := by simp [execAttest, hs]

@[simp] theorem execRemove_memOk (member : Nat) (s : State) (hs : s.mem.wf = true) :
    memOkAfter (execRemove member s) := by
  unfold execRemove
  simp only []
  (repeat' split) <;> simp [hs]

@[simp] theorem execBarrier_memOk (s : State) (hs : s.mem.wf = true) :
    memOkAfter (execBarrier s) := by simp [execBarrier, hs]

@[simp] theorem execLogclr_memOk (s : State) (hs : s.mem.wf = true) :
    memOkAfter (execLogclr s) := by simp [execLogclr, hs]

@[simp] theorem execTrustBadCommand_memOk (op : BitVec 4) (s : State) (hs : s.mem.wf = true) :
    memOkAfter (execTrustBadCommand op s) := by simp [execTrustBadCommand, hs]

@[simp] theorem execSelfWrite_memOk (v : Word) (s : State) (hs : s.mem.wf = true) :
    memOkAfter (execSelfWrite v s) := by simp [execSelfWrite, hs]

@[simp] theorem execMemberEntryWrite_memOk (i : Nat) (v : Word) (s : State) (hs : s.mem.wf = true) :
    memOkAfter (execMemberEntryWrite i v s) := by simp [execMemberEntryWrite, hs]

@[simp] theorem execReattestationTimer_memOk (member : Nat) (s : State) (hs : s.mem.wf = true) :
    memOkAfter (execReattestationTimer member s) := by simp [execReattestationTimer, hs]

@[simp] theorem execTrustCommandAct_memOk (core : Nat) (w : CmdWords 1024) (s : State) (hs : s.mem.wf = true) :
    memOkAfter (execTrustCommandAct core w s) := by
  unfold execTrustCommandAct
  (repeat' split) <;> simp [hs]

/-! ### Functions of Machine/Retire -/

@[simp] theorem execTaskDrainComplete_memOk (core : Nat) (s : State) (hs : s.mem.wf = true) :
    memOkAfter (execTaskDrainComplete core s) := by
  unfold execTaskDrainComplete
  (repeat' split) <;> simp [hs]

@[simp] theorem execCompletionRecord_memOk (die slot card : Nat) (s : State) (hs : s.mem.wf = true) :
    memOkAfter (execCompletionRecord die slot card s) := by
  unfold execCompletionRecord
  simp only []
  split
  · simp [hs]
  next c _ =>
    have h1 : (c.diesRun.foldl (fun s d => s.release d true) s).mem.wf = true :=
      State.foldl_memOk (fun t d ht => t.release_memWf d true ht) _ hs
    split <;> simp [hs, h1]

/-! ### Functions of Machine/FaultLog -/

@[simp] theorem execFaultLogEntry_memOk (die : Nat) (s : State) (hs : s.mem.wf = true) :
    memOkAfter (execFaultLogEntry die s) := by
  unfold execFaultLogEntry
  simp only []
  split <;> simp [hs]

@[simp] theorem execFlogBaseWrite_memOk (die : Nat) (v : Word) (s : State) (hs : s.mem.wf = true) :
    memOkAfter (execFlogBaseWrite die v s) := by simp [execFlogBaseWrite, hs]

@[simp] theorem execFlogLog2Write_memOk (die : Nat) (v : Word) (s : State) (hs : s.mem.wf = true) :
    memOkAfter (execFlogLog2Write die v s) := by simp [execFlogLog2Write, hs]

@[simp] theorem execFlogEnWrite_memOk (die : Nat) (v : Word) (s : State) (hs : s.mem.wf = true) :
    memOkAfter (execFlogEnWrite die v s) := by simp [execFlogEnWrite, hs]

@[simp] theorem execFlogHeadWrite_memOk (die : Nat) (v : Word) (s : State) (hs : s.mem.wf = true) :
    memOkAfter (execFlogHeadWrite die v s) := by simp [execFlogHeadWrite, hs]

/-! ### Functions of Machine/Health -/

@[simp] theorem execPatrolScrub_memOk (granule : Nat) (e : ScrubFinding) (s : State) (hs : s.mem.wf = true) :
    memOkAfter (execPatrolScrub granule e s) := by simp [execPatrolScrub, hs]

@[simp] theorem execMemoryError_memOk (x : MemErrorSite) (s : State) (hs : s.mem.wf = true) :
    memOkAfter (execMemoryError x s) := by simp [execMemoryError, hs]

@[simp] theorem execPowerControlTick_memOk (x : SensorReadings) (s : State) (hs : s.mem.wf = true) :
    memOkAfter (execPowerControlTick x s) := by
  have h1 := State.stepPower_memWf _ (State.readingEntries_memWf { s with ctl := s.ctl.read x } s.ctl hs)
  unfold execPowerControlTick
  simp only []
  split
  · simp [h1]
  · split <;> simp [h1]

@[simp] theorem execModuleTrip_memOk (x : SensorReadings) (s : State) (hs : s.mem.wf = true) :
    memOkAfter (execModuleTrip x s) := by
  unfold execModuleTrip
  (repeat' split) <;> simp [hs]

@[simp] theorem execPwrcapWrite_memOk (v : Word) (s : State) (hs : s.mem.wf = true) :
    memOkAfter (execPwrcapWrite v s) := by simp [execPwrcapWrite, hs]

/-! ### Functions of Machine/Start -/

@[simp] theorem execHashmWrite_memOk (stack i : Nat) (v : Word) (s : State) (hs : s.mem.wf = true) :
    memOkAfter (execHashmWrite stack i v s) := by simp [execHashmWrite, hs]

@[simp] theorem execCntclr_memOk (stack : Nat) (s : State) (hs : s.mem.wf = true) :
    memOkAfter (execCntclr stack s) := by simp [execCntclr, hs]

@[simp] theorem execColdStart_memOk (x : StartChecks) (s : State) (hs : s.mem.wf = true) :
    memOkAfter (execColdStart x s) := by
  have h1 := Memory.wf_filter s.mem (fun c => decide (2 ^ 52 ≤ c.1)) hs
  unfold execColdStart
  split_ifs
  · simp [hs]
  · simp [hs]
  · simp [hs]
  · exact (memOkAfter_next _).2 h1

@[simp] theorem execWarmStart_memOk (x : StartChecks) (s : State) (hs : s.mem.wf = true) :
    memOkAfter (execWarmStart x s) := by
  unfold execWarmStart
  split_ifs
  · simp [hs]
  · simp [hs]
  · simp [hs]
  · rw [memOkAfter_next, State.restarted_mem]
    exact State.movedMem_wf _ _

@[simp] theorem execStartOpInvalid_memOk (op : BitVec 2) (s : State) (hs : s.mem.wf = true) :
    memOkAfter (execStartOpInvalid op s) := by simp [execStartOpInvalid, hs]

@[simp] theorem execSupplyLoss_memOk (s : State) (hs : s.mem.wf = true) :
    memOkAfter (execSupplyLoss s) := by simp [execSupplyLoss, hs]

@[simp] theorem execPowerOn_memOk (s : State) (hs : s.mem.wf = true) :
    memOkAfter (execPowerOn s) := by simp [execPowerOn, hs]

/-! ### Functions of Machine/Registers -/

@[simp] theorem dcuOp_memOk (n : Nat) (v : Word) (s : State) (hs : s.mem.wf = true) : memOkAfter (dcuOp n v s) := by
  unfold dcuOp
  split <;> simp [hs]

@[simp] theorem vertexOp_memOk (n : Nat) (v : Word) (s : State) (hs : s.mem.wf = true) :
    memOkAfter (vertexOp n v s) := by
  unfold vertexOp
  split <;> simp [hs]

@[simp] theorem pbcOp_memOk (n : Nat) (v : Word) (s : State) (hs : s.mem.wf = true) : memOkAfter (pbcOp n v s) := by
  unfold pbcOp
  split <;> simp [hs]

@[simp] theorem latticeOp_memOk (u : Nat) (v : Word) (s : State) (hs : s.mem.wf = true) :
    memOkAfter (latticeOp u v s) := by
  unfold latticeOp
  split <;> simp [hs]

@[simp] theorem trustOp_memOk (v : Word) (s : State) (hs : s.mem.wf = true) : memOkAfter (trustOp v s) := by
  unfold trustOp
  split <;> simp [hs]

@[simp] theorem writeDcu_memOk (n off : Nat) (v : Word) (s : State) (hs : s.mem.wf = true) :
    memOkAfter (writeDcu n off v s) := by
  unfold writeDcu
  (repeat' split) <;> simp [hs]

@[simp] theorem writeHbm_memOk (n off : Nat) (v : Word) (s : State) (hs : s.mem.wf = true) :
    memOkAfter (writeHbm n off v s) := by simp [writeHbm, hs]

@[simp] theorem runVertexCommand_memOk (n : Nat) (s : State) (hs : s.mem.wf = true) :
    memOkAfter (runVertexCommand n s) := by
  unfold runVertexCommand
  split
  · simp [hs]
  · refine andThen_memOk (vertexOp_memOk _ _ _ (by simp [hs])) fun t ht => ?_
    rw [State.memOk] at ht
    simp [ht]

@[simp] theorem runLatticeCommand_memOk (u : Nat) (s : State) (hs : s.mem.wf = true) :
    memOkAfter (runLatticeCommand u s) := by
  unfold runLatticeCommand
  split
  · simp [hs]
  · refine andThen_memOk (latticeOp_memOk _ _ _ (by simp [hs])) fun t ht => ?_
    rw [State.memOk] at ht
    simp [ht]

@[simp] theorem writeVertex_memOk (n off : Nat) (v : Word) (s : State) (hs : s.mem.wf = true) :
    memOkAfter (writeVertex n off v s) := by
  unfold writeVertex
  split <;> simp [hs]

@[simp] theorem writeHotWord_memOk (n : Nat) (v : Word) (s : State) (hs : s.mem.wf = true) :
    memOkAfter (writeHotWord n v s) := by simp [writeHotWord, hs]

@[simp] theorem writePbc_memOk (n off : Nat) (v : Word) (s : State) (hs : s.mem.wf = true) :
    memOkAfter (writePbc n off v s) := by
  unfold writePbc
  (repeat' split) <;> simp [hs]

@[simp] theorem writeLattice_memOk (u off : Nat) (v : Word) (s : State) (hs : s.mem.wf = true) :
    memOkAfter (writeLattice u off v s) := by
  unfold writeLattice
  split <;> simp [hs]

@[simp] theorem writeExchange_memOk (off : Nat) (v : Word) (s : State) (hs : s.mem.wf = true) :
    memOkAfter (writeExchange off v s) := by simp [writeExchange, hs]

@[simp] theorem writeTrust_memOk (off : Nat) (v : Word) (s : State) (hs : s.mem.wf = true) :
    memOkAfter (writeTrust off v s) := by
  unfold writeTrust
  (repeat' split) <;> simp [hs]

@[simp] theorem writeControl_memOk (off : Nat) (v : Word) (s : State) (hs : s.mem.wf = true) :
    memOkAfter (writeControl off v s) := by
  unfold writeControl
  (repeat' split) <;> simp [hs]

@[simp] theorem execRegisterWrite_memOk (off : Nat) (v : Word) (s : State) (hs : s.mem.wf = true) :
    memOkAfter (execRegisterWrite off v s) := by
  unfold execRegisterWrite
  (repeat' split) <;> simp [hs]

/-! ### Functions of Machine/Spdm -/

@[simp] theorem State.onConn_memOk (s : State) (w : Requester) (stage : Nat) (f : Spdm → Spdm) (hs : s.mem.wf = true) :
    memOkAfter (s.onConn w stage f) := by simp [State.onConn, hs]

@[simp] theorem execGetVersion_memOk (w : Requester) (s : State) (hs : s.mem.wf = true) :
    memOkAfter (execGetVersion w s) := by simp [execGetVersion, hs]

@[simp] theorem execGetCapabilities_memOk (w : Requester) (s : State) (hs : s.mem.wf = true) :
    memOkAfter (execGetCapabilities w s) := by simp [execGetCapabilities, hs]

@[simp] theorem execNegotiateAlgorithms_memOk (w : Requester) (set : Algorithms) (s : State) (hs : s.mem.wf = true) :
    memOkAfter (execNegotiateAlgorithms w set s) := by simp [execNegotiateAlgorithms, hs]

@[simp] theorem execGetDigests_memOk (w : Requester) (s : State) (hs : s.mem.wf = true) :
    memOkAfter (execGetDigests w s) := by simp [execGetDigests, hs]

@[simp] theorem execGetCertificate_memOk (w : Requester) (slot : Nat) (s : State) (hs : s.mem.wf = true) :
    memOkAfter (execGetCertificate w slot s) := by simp [execGetCertificate, hs]

@[simp] theorem execChallenge_memOk (w : Requester) (slot : Nat) (s : State) (hs : s.mem.wf = true) :
    memOkAfter (execChallenge w slot s) := by simp [execChallenge, hs]

@[simp] theorem execGetMeasurements_memOk (w : Requester) (s : State) (hs : s.mem.wf = true) :
    memOkAfter (execGetMeasurements w s) := by simp [execGetMeasurements, hs]

@[simp] theorem execKeyExchange_memOk (w : Requester) (ok : Bool) (s : State) (hs : s.mem.wf = true) :
    memOkAfter (execKeyExchange w ok s) := by
  unfold execKeyExchange
  split <;> simp [hs]

@[simp] theorem execFinish_memOk (w : Requester) (found : Proofs) (s : State) (hs : s.mem.wf = true) :
    memOkAfter (execFinish w found s) := by
  unfold execFinish
  split <;> simp [hs]

@[simp] theorem execKeyUpdate_memOk (w : Requester) (s : State) (hs : s.mem.wf = true) :
    memOkAfter (execKeyUpdate w s) := by simp [execKeyUpdate, hs]

@[simp] theorem execHeartbeat_memOk (_w : Requester) (s : State) (hs : s.mem.wf = true) :
    memOkAfter (execHeartbeat _w s) := by simp [execHeartbeat, hs]

@[simp] theorem execEndSession_memOk (w : Requester) (s : State) (hs : s.mem.wf = true) :
    memOkAfter (execEndSession w s) := by
  unfold execEndSession
  split <;> simp [hs]

@[simp] theorem execChunkSend_memOk (w : Requester) (chunk : Nat) (last : Bool) (s : State) (hs : s.mem.wf = true) :
    memOkAfter (execChunkSend w chunk last s) := by simp [execChunkSend, hs]

@[simp] theorem execChunkGet_memOk (w : Requester) (_chunk : Nat) (s : State) (hs : s.mem.wf = true) :
    memOkAfter (execChunkGet w _chunk s) := by simp [execChunkGet, hs]

@[simp] theorem execSlhDsaSignatureRequest_memOk (w : Requester) (s : State) (hs : s.mem.wf = true) :
    memOkAfter (execSlhDsaSignatureRequest w s) := by simp [execSlhDsaSignatureRequest, hs]

@[simp] theorem execUnsupportedRequest_memOk (_w : Requester) (_code : BitVec 8) (s : State) (hs : s.mem.wf = true) :
    memOkAfter (execUnsupportedRequest _w _code s) := by simp [execUnsupportedRequest, hs]

@[simp] theorem execSpdmResponse_memOk (member : Nat) (r : SpdmAnswer) (s : State) (hs : s.mem.wf = true) :
    memOkAfter (execSpdmResponse member r s) := by
  unfold execSpdmResponse
  simp only []
  split <;> simp [hs]

/-! ### Functions of Machine/Cycle -/

@[simp] theorem State.endOfCycle_memOk (s : State) (hs : s.mem.wf = true) : memOkAfter s.endOfCycle := by
  refine andThen_memOk (State.timedNext_memOk _ _ hs) fun s1 h1 => ?_
  refine andThen_memOk (execAccumulateLanding_memOk _ h1) fun s2 h2 => ?_
  exact andThen_memOk (execResultLanding_memOk _ h2) fun s3 h3 => (memOkAfter_next _).2 h3

@[simp] theorem State.runCycle_memOk (s : State) (hs : s.mem.wf = true) : memOkAfter s.runCycle := by
  unfold State.runCycle
  split
  · simp [hs]
  · split
    · exact andThen_memOk (State.issue_memOk _ _ _ hs) State.endOfCycle_memOk
    · exact andThen_memOk (execLoopSkip_memOk _ hs) State.endOfCycle_memOk
    all_goals exact andThen_memOk (execHeadOfIssue_memOk _ hs) execIdleExpiry_memOk

@[simp] theorem State.frozenCycle_memOk (s : State) (k : Task) (hs : s.mem.wf = true) :
    memOkAfter (s.frozenCycle k) := by simp [State.frozenCycle, hs]

@[simp] theorem State.phaseCycle_memOk (s : State) (k : Task) (hs : s.mem.wf = true) : memOkAfter (s.phaseCycle k) := by
  unfold State.phaseCycle
  split <;> simp [hs]

@[simp] theorem State.coreCycle_memOk (s : State) (hs : s.mem.wf = true) : memOkAfter s.coreCycle := by
  unfold State.coreCycle
  split
  · simp [hs]
  next k _ =>
    have h1 := State.phaseCycle_memOk (s.charge s.focus.val) k (by simp [hs])
    exact List.foldlRecOn (motive := memOkAfter) _ _ h1 fun o ho b _ =>
      andThen_memOk ho fun t ht => execBatchComplete_memOk _ _ t ht

@[simp] theorem State.turn_memOk (s : State) (hs : s.mem.wf = true) : memOkAfter s.turn := by
  refine andThen_memOk (State.coreCycle_memOk s hs) fun t ht => ?_
  rw [State.memOk] at ht
  simp [ht]

end Sys2Proof.Machine
end

section
/-!
SUPPORT. The canonical form of memory under `exec` and under a step of the module (R1, R94). An instruction that stands in a
slot means what the slot makes of it; each of the other rows has its own lemma.
-/

namespace Sys2Proof.Machine

theorem DeviceStep.run_memOk (x : DeviceStep) (s : State) (hs : s.mem.wf = true) : memOkAfter (x.run s) := by
  cases x <;> simp [DeviceStep.run, hs]

/-- The meaning of an instruction that stands in a slot of this kind. -/
def slotMeaning : Slot → Instr → State → Out
  | .sync => slotSync
  | .branch => slotBranch
  | .scalar => slotScalar
  | .vectorA => slotVectorA
  | .vectorB => slotVectorB
  | .matrix | .transpose => slotArray
  | .copy => slotCopy

theorem slotMeaning_memOk (k : Slot) (i : Instr) (s : State) (hs : s.mem.wf = true) :
    memOkAfter (slotMeaning k i s) := by
  cases k with
  | sync => exact slotSync_memOk i s hs
  | branch => exact slotBranch_memOk i s hs
  | scalar => exact slotScalar_memOk i s hs
  | vectorA => exact slotVectorA_memOk i s hs
  | vectorB => exact slotVectorB_memOk i s hs
  | matrix => exact slotArray_memOk i s hs
  | transpose => exact slotArray_memOk i s hs
  | copy => exact slotCopy_memOk i s hs

theorem exec_eq_slotMeaning {i : Instr} {k : Slot} (h : i.slot? = some k) (s : State) :
    exec i s = slotMeaning k i s := by
  cases i <;> cases h <;> rfl

theorem exec_memOk_of_slot_none {i : Instr} (h : i.slot? = none) (s : State) (hs : s.mem.wf = true) :
    memOkAfter (exec i s) := by
  cases i <;> cases h <;> simp [exec, hs]

theorem exec_memOk (i : Instr) (s : State) (hs : s.mem.wf = true) : memOkAfter (exec i s) := by
  cases h : i.slot? with
  | none => exact exec_memOk_of_slot_none h s hs
  | some k => exact exec_eq_slotMeaning h s ▸ slotMeaning_memOk k i s hs

theorem State.act_memOk (s : State) (c : Choice) (hs : s.mem.wf = true) : memOkAfter (s.act exec c) := by
  cases c with
  | input i rest =>
    rw [State.act]
    split
    · exact exec_memOk i _ hs
    · exact (memOkAfter_next _).2 hs
  | now x => exact x.run_memOk s hs
  | pick x => exact x.run_memOk _ (by simp [hs])
  | cycle drawn => exact State.turn_memOk _ (by simp [hs])

theorem step_memOk (s : State) (hs : s.mem.wf = true) : memOkAfter (step s) :=
  andThen_memOk (s.act_memOk s.choice hs) fun t ht => (memOkAfter_next _).2 (State.sweep_memWf t ht)

/-- Settles O19: what the choice of a step comes to keeps memory canonical, by one lemma per meaning, and so does the sweep
that follows it. -/
theorem memoryStaysCanonical : Obligations.MemoryStaysCanonical := fun s t hs h => step_memOk s hs t h

end Sys2Proof.Machine
end

section
/-!
SUPPORT. The table of regions and the cards of a region under the updates that the end of a task makes: what is read of a region
after one was put or changed, and what stays of its cards and of its evicted tasks.
-/

namespace Sys2Proof.Machine

/-! ### The table of regions -/

theorem findRegion_putRegion (a b : Nat) (r : Region) (l : List (Nat × Region)) :
    findRegion a (putRegion b r l) = if b = a then some r else findRegion a l := by
  induction l with
  | nil => rfl
  | cons x l ih =>
    obtain ⟨c, q⟩ := x
    by_cases hc : c = b
    · subst hc
      by_cases ha : c = a <;> simp [putRegion, findRegion, ha]
    · by_cases ha : c = a
      · subst ha
        simp [putRegion, findRegion, hc, Ne.symm hc]
      · simp [putRegion, findRegion, hc, ha, ih]

theorem State.region?_putRegion (s : State) (a : Nat) (r : Region) : (s.putRegion a r).region? a = some r :=
  (findRegion_putRegion a a r s.regions).trans (if_pos rfl)

theorem State.region?_onRegion (s : State) (a b : Nat) (f : Region → Region) :
    (s.onRegion b f).region? a = if b = a then (s.region? a).map f else s.region? a := by
  by_cases hb : b = a
  · subst hb
    rw [if_pos rfl]
    cases h : s.region? b with
    | none => simp [State.onRegion, h]
    | some r => simp [State.onRegion, h, State.region?_putRegion]
  · rw [if_neg hb]
    cases h : s.region? b with
    | none => simp [State.onRegion, h]
    | some r =>
      simp only [State.onRegion, h]
      exact (findRegion_putRegion a b (f r) s.regions).trans (if_neg hb)

theorem State.region?_onRegion_same (s : State) (a : Nat) (f : Region → Region) :
    (s.onRegion a f).region? a = (s.region? a).map f := by rw [State.region?_onRegion, if_pos rfl]

theorem State.region?_congr {s t : State} (h : t.regions = s.regions) (a : Nat) : t.region? a = s.region? a :=
  congrArg (findRegion a) h

/-- A change that leaves a field of every region leaves it where the region is read. -/
theorem State.region?_onRegion_map {α : Type} (s : State) (a b : Nat) (f : Region → Region) (p : Region → α)
    (hf : ∀ r, p (f r) = p r) : ((s.onRegion b f).region? a).map p = (s.region? a).map p := by
  rw [State.region?_onRegion]
  split
  · simp [Function.comp_def, hf]
  · rfl

/-! ### The cores and the DCUs -/

theorem State.coreAt_congr {s t : State} (h : t.cores = s.cores) {n : Nat} (hn : n < 96) : t.coreAt n = s.coreAt n := by
  simp [State.coreAt, hn, h]

theorem State.dcu_congr {s t : State} (h : t.dcus = s.dcus) (n : Nat) : t.dcu n = s.dcu n := by simp [State.dcu, h]

theorem State.setCoreAt_frame (s : State) (n : Nat) (c : Core) :
    s.setCoreAt n c = { s with cores := (s.setCoreAt n c).cores } := by unfold State.setCoreAt; split <;> rfl

theorem State.onDcu_frame (s : State) (n : Nat) (f : Dcu → Dcu) :
    s.onDcu n f = { s with dcus := (s.onDcu n f).dcus } := by unfold State.onDcu; split <;> rfl

@[simp] theorem State.discard_cores (s : State) (a : Nat) (gone : Evicted → Bool) : (s.discard a gone).cores = s.cores := by
  unfold State.discard
  split <;> rfl

@[simp] theorem State.discard_dcus (s : State) (a : Nat) (gone : Evicted → Bool) : (s.discard a gone).dcus = s.dcus := by
  unfold State.discard
  split <;> rfl

@[simp] theorem State.regionFail_cores (s : State) (rcb : Nat) (j : BitVec 32) (t : Nat) (reached : Word) (least : Nat) :
    (s.regionFail rcb j t reached least).cores = s.cores := by
  unfold State.regionFail
  simp only []
  (repeat' split) <;> simp

@[simp] theorem State.regionFail_dcus (s : State) (rcb : Nat) (j : BitVec 32) (t : Nat) (reached : Word) (least : Nat) :
    (s.regionFail rcb j t reached least).dcus = s.dcus := by
  unfold State.regionFail
  simp only []
  (repeat' split) <;> simp

@[simp] theorem State.evictEnds_cores (s : State) (n : Nat) (r : BitVec 4) : (s.evictEnds n r).cores = s.cores :=
  State.onDcu_cores ..

/-! ### A region that settles, and its cards -/

@[simp] theorem Region.settle_cards (r : Region) : r.settle.cards = r.cards := by unfold Region.settle; split <;> rfl
@[simp] theorem Region.settle_evicted (r : Region) : r.settle.evicted = r.evicted := by unfold Region.settle; split <;> rfl
@[simp] theorem Region.settle_cqTail (r : Region) : r.settle.cqTail = r.cqTail := by unfold Region.settle; split <;> rfl
@[simp] theorem Region.settle_cqPhase (r : Region) : r.settle.cqPhase = r.cqPhase := by unfold Region.settle; split <;> rfl

/-- A change of one card that a test does not see. -/
theorem any_onCard (j : BitVec 32) (f : Card → Card) (p : Card → Bool) (hf : ∀ c, p (f c) = p c) (l : List Card) :
    (onCard j f l).any p = l.any p := by
  induction l with
  | nil => rfl
  | cons c l ih =>
    by_cases hc : c.idx = j
    · simp [onCard, hc, hf]
    · simp [onCard, hc, ih]

/-! ### Pinned cycles reported at the end of a task (R47) -/

theorem chargePools_cores (m : Nat) (l : List (Nat × Region)) (s : State) : (chargePools m l s).cores = s.cores := by
  induction l generalizing s with
  | nil => rfl
  | cons x l ih => exact (ih _).trans (State.onRegion_cores ..)

theorem chargePools_dcus (m : Nat) (l : List (Nat × Region)) (s : State) : (chargePools m l s).dcus = s.dcus := by
  induction l generalizing s with
  | nil => rfl
  | cons x l ih => exact (ih _).trans (State.onRegion_dcus ..)

/-- A charge raises USED and leaves the cards. -/
theorem chargePools_cardsAt (m : Nat) (l : List (Nat × Region)) (s : State) (a : Nat) :
    ((chargePools m l s).region? a).map Region.cards = (s.region? a).map Region.cards := by
  induction l generalizing s with
  | nil => rfl
  | cons x l ih => exact (ih _).trans (s.region?_onRegion_map a x.1 _ _ fun _ => rfl)

@[simp] theorem State.reportPinned_cores (s : State) (die : Nat) : (s.reportPinned die).cores = s.cores :=
  List.foldlRecOn (motive := fun t : State => t.cores = s.cores) _ _ (State.onDcu_cores ..)
    fun _ ht _ _ => (chargePools_cores ..).trans ht

/-- The report of a die empties its list of pinned cycles. -/
theorem State.reportPinned_dcus (s : State) (die : Nat) :
    (s.reportPinned die).dcus = (s.onDcu die fun d => { d with pinned := [] }).dcus :=
  List.foldlRecOn (motive := fun t : State => t.dcus = (s.onDcu die fun d => { d with pinned := [] }).dcus) _ _ rfl
    fun _ ht _ _ => (chargePools_dcus ..).trans ht

theorem State.reportPinned_cardsAt (s : State) (die a : Nat) :
    ((s.reportPinned die).region? a).map Region.cards = (s.region? a).map Region.cards :=
  List.foldlRecOn (motive := fun t : State => (t.region? a).map Region.cards = (s.region? a).map Region.cards) _ _
    (congrArg _ (State.region?_congr (State.onDcu_regions ..) a)) fun _ ht _ _ => (chargePools_cardsAt ..).trans ht

end Sys2Proof.Machine
end

section
/-!
SUPPORT. What the releases, the fences and the writes of a DCU can change, said once: memory at its homes (Laws/Home.lean), the
RDCs, and the sequences and the drop log of the trust engine. No core, no region, no DCU and no interrupt.
-/

namespace Sys2Proof.Machine

/-- `t` comes from `s` by accesses to homes, by way of an RDC, or across the hub. -/
def State.byTraffic (s t : State) : Prop :=
  t = { s with mem := t.mem, poison := t.poison, lattice := t.lattice, ctl := t.ctl, rdc := t.rdc, trust := t.trust }

theorem State.byTraffic_refl (s : State) : s.byTraffic s := rfl

theorem State.byTraffic_trans {s t u : State} (h : s.byTraffic t) (k : t.byTraffic u) : s.byTraffic u := by
  unfold State.byTraffic at h k ⊢
  rw [h] at k
  exact k

theorem State.byTraffic_cores {s t : State} (h : s.byTraffic t) : t.cores = s.cores := by rw [h]
theorem State.byTraffic_irqs {s t : State} (h : s.byTraffic t) : t.irqs = s.irqs := by rw [h]
theorem State.byTraffic_regions {s t : State} (h : s.byTraffic t) : t.regions = s.regions := by rw [h]

theorem State.byHome_byTraffic {s t : State} (h : s.byHome t) : s.byTraffic t := by
  unfold State.byTraffic
  rw [h.1]

theorem State.foldl_byTraffic {β : Type} {f : State → β → State} (hf : ∀ (t : State) x, t.byTraffic (f t x)) (l : List β)
    (s : State) : s.byTraffic (l.foldl f s) :=
  List.foldlRecOn (motive := s.byTraffic) l f s.byTraffic_refl fun t ht x _ => State.byTraffic_trans ht (hf t x)

theorem State.crossOn_byTraffic (s : State) (key : Nat) (p : Option Nat) : s.byTraffic (s.crossOn key p) := by
  unfold State.crossOn
  split <;> rfl

theorem State.setSector_byTraffic (s : State) (die n : Nat) (x : RdcSector) : s.byTraffic (s.setSector die n x) := by
  unfold State.setSector State.setRdc
  split <;> rfl

theorem State.writeHome_byTraffic (s : State) (n : Nat) (x : RdcSector) : s.byTraffic (s.writeHome n x) :=
  State.byTraffic_trans (State.byHome_byTraffic (State.homeWrite_byHome ..)) <|
    State.byTraffic_trans (State.crossOn_byTraffic ..) rfl

theorem State.writeBack_byTraffic (s : State) (die n : Nat) : s.byTraffic (s.writeBack die n) := by
  unfold State.writeBack
  simp only []
  split
  · rfl
  · split
    · exact State.writeHome_byTraffic ..
    · rfl

theorem State.releaseSector_byTraffic (s : State) (die n : Nat) : s.byTraffic (s.releaseSector die n) := by
  unfold State.releaseSector
  simp only []
  split
  · rfl
  · exact State.byTraffic_trans (State.writeBack_byTraffic ..) (State.setSector_byTraffic ..)

theorem State.release_byTraffic (s : State) (die : Nat) (domain : Bool) : s.byTraffic (s.release die domain) :=
  State.foldl_byTraffic (fun t n => t.releaseSector_byTraffic die n) _ s

theorem State.fenceSector_byTraffic (s : State) (die kind : Nat) (mine : RdcSector → Bool) (n : Nat) :
    s.byTraffic (s.fenceSector die kind mine n) := by
  have hrel : s.byTraffic (if kind = 2 ∧ mine (s.sector die n) = false then s else s.releaseSector die n) := by
    split
    · rfl
    · exact State.releaseSector_byTraffic ..
  unfold State.fenceSector
  simp only []
  split
  · exact hrel
  · exact State.byTraffic_trans hrel (State.setSector_byTraffic ..)

theorem State.fenceAct_byTraffic (s : State) (n : Nat) (mask : BitVec 16) (scope kind : Nat) :
    s.byTraffic (s.fenceAct n mask scope kind) := by
  unfold State.fenceAct
  split
  · rfl
  · exact State.foldl_byTraffic (fun t i => t.fenceSector_byTraffic ..) _ s

theorem State.takeAcquires_byTraffic (s : State) (n : Nat) : s.byTraffic (s.takeAcquires n) :=
  State.foldl_byTraffic (fun t c => by
    split
    · exact State.fenceAct_byTraffic ..
    · rfl) _ s

theorem State.dcuWrite_byTraffic (s : State) (a n v : Nat) : s.byTraffic (s.dcuWrite a n v) := by
  unfold State.dcuWrite
  split
  · exact State.byHome_byTraffic (State.homeWriteLong_byHome ..)
  · split
    · exact State.crossOn_byTraffic ..
    · rfl

theorem State.writeD_byTraffic (s : State) (a : Nat) : s.byTraffic (s.writeD a) := by
  unfold State.writeD
  split
  · rfl
  · exact State.dcuWrite_byTraffic ..

theorem State.saveWindows_byTraffic (s : State) (t : Timed) (base : Nat) : s.byTraffic (s.saveWindows t base) :=
  State.foldl_byTraffic (fun u w => by
    cases w with
    | none => rfl
    | some x => exact State.dcuWrite_byTraffic ..) _ s

theorem State.writeImage_byTraffic (s : State) (n : Nat) (k : Task) (why : EvictReason) (base : Nat) :
    s.byTraffic (s.writeImage n k why base) :=
  State.byTraffic_trans (State.dcuWrite_byTraffic ..) (State.byTraffic_trans (State.saveWindows_byTraffic ..) rfl)

end Sys2Proof.Machine
end

section
/-!
PROOF of O43: the eviction boundary, the save and its end, the end of a task and the completion record, each by the lemmas about
its own meaning.
-/

namespace Sys2Proof.Machine

variable {s : State} {n : Nat}

/-! ### The boundary (R52, R388) -/

theorem State.boundaryAt_task {k : Task} (h : s.boundaryAt n = some k) : (s.coreAt n).task = some k := by
  unfold State.boundaryAt at h
  cases hq : (s.coreAt n).task with
  | none => simp [hq] at h
  | some q =>
    simp only [hq] at h
    (repeat' split at h) <;> cases h <;> rfl

theorem Task.lateFatal_fault {k : Task} {f : LateFault} (h : k.lateFatal = some f) :
    ∃ code detail, f.fault = .fatal code detail := by
  obtain ⟨g, -, hg⟩ := Option.bind_eq_some_iff.1 h
  cases hf : g.fault with
  | invalid => simp [hf] at hg
  | fatal code detail =>
    simp only [hf, Option.some.injEq] at hg
    exact ⟨code, detail, hg ▸ hf⟩

theorem execEvictionBoundary_quiet {k : Task} (h : s.boundaryAt n = some k) (hf : k.lateFatal = none) :
    execEvictionBoundary n s = .next ((s.onCore n fun c => { c with
      task := some { k with phase := .evicting, hold := none, late := none } }).evictEnds n 0) := by
  simp only [execEvictionBoundary, h, hf]

theorem execEvictionBoundary_fatal {k : Task} {f : LateFault} (h : s.boundaryAt n = some k) (hf : k.lateFatal = some f) :
    execEvictionBoundary n s = .next (s.takeLate n f) := by
  simp only [execEvictionBoundary, h, hf]

theorem State.logFault_cores (s : State) (die : Nat) (r : FaultRec) : (s.logFault die r).cores = s.cores :=
  State.onDcu_cores ..

theorem State.evictEnds_answers (s : State) {n : Nat} (r : BitVec 4) (hn : n < 96) (h : (s.dcu (n / 12)).evicting = some n) :
    (s.evictEnds n r).dcu (n / 12) = { s.dcu (n / 12) with busy := false, res := r, evicting := none } := by
  have hd : n / 12 < 8 := by omega
  exact (s.dcu_onDcu (n / 12) _ hd).trans (if_pos h)

/-- A task that fails stays on its core until it has drained. -/
theorem State.failCore_task {k : Task} (hn : n < 96) (h : (s.coreAt n).task = some k) (pc : BitVec 18) (i : FaultInfo)
    (least : Nat) : ∃ q, ((s.failCore n pc i least).coreAt n).task = some q ∧ q.phase = .failed := by
  refine ⟨{ k with phase := .failed, hold := none, late := none, evict := none }, ?_, rfl⟩
  unfold State.failCore
  simp only [h]
  rw [State.coreAt_congr (State.regionFail_cores ..) hn, State.coreAt_congr (State.evictEnds_cores ..) hn,
    State.coreAt_setCoreAt _ _ _ hn]

theorem State.takeLate_fails {k : Task} {f : LateFault} (hn : n < 96) (h : (s.coreAt n).task = some k)
    (hf : k.lateFatal = some f) : ∃ q, ((s.takeLate n f).coreAt n).task = some q ∧ q.phase = .failed := by
  obtain ⟨code, detail, e⟩ := Task.lateFatal_fault hf
  simp only [State.takeLate, e]
  exact State.failCore_task hn h ..

/-! ### The save (R52, R169) -/

theorem Region.freeSlot_lowest {r : Region} {j : Nat} (h : r.freeSlot = some j) :
    j < r.saveSlots ∧ j ∉ r.saveUsed ∧ ∀ i, i < j → i ∈ r.saveUsed := by
  obtain ⟨hfree, hj, hlow⟩ := List.find?_range_eq_some.1 h
  exact ⟨List.mem_range.1 hj, by simpa using hfree, fun i hi => by simpa using hlow i hi⟩

/-- The state whose core `n` a save writes to its slot: what the queue leaves behind is settled, and the bytes that stopped commands
held have landed. -/
def State.saveLanded (s : State) (n : Nat) (k : Task) : State :=
  (((s.takeAcquires n).castOff n k).onUn n Untimed.keepLosses).landStopped n

/-- The state with the image of core `n` in save slot `j` of its region `r`, the slot in use. -/
def State.imageSaved (s : State) (n : Nat) (k : Task) (r : Region) (j : Nat) : State :=
  ((s.saveLanded n k).writeImage n k (k.evict.getD 0) (r.slotBase j)).onRegion k.rcb
    fun r => { r with saveUsed := r.saveUsed ++ [j] }

/-- The core whose task has its image in save slot `j`. -/
def Core.savedIn (c : Core) (k : Task) (j : Nat) : Core :=
  { c with task := some { k with saveSlot := some j, cycles := 0 }, un := { c.un with queue := [] } }

theorem execContextSave_next {k : Task} {r : Region} {j : Nat} (hk : s.saveReady n = some k)
    (hr : s.region? k.rcb = some r) (hj : r.freeSlot = some j) :
    execContextSave n s = .next ((s.imageSaved n k r j).onCore n fun c => c.savedIn k j) := by
  simp only [execContextSave, hk, hr, hj, Option.bind_some, Option.map_some]
  rfl

@[simp] theorem State.countArm_regions (s : State) (n : Nat) (w : BitVec 5) (k : Nat) :
    (s.countArm n w k).regions = s.regions := State.onUn_regions ..

@[simp] theorem State.winWriteAt_regions (s : State) (n : Nat) (w : Option Window) (l k v : Nat) :
    (s.winWriteAt n w l k v).regions = s.regions := by
  cases w with
  | none => rfl
  | some x => exact (State.onCore_regions ..).trans (State.onTimed_regions ..)

theorem State.landHeld_regions (s : State) (m : Nat) (win : Option Window) (arm : Option (BitVec 5)) (all : Bool)
    (pick : Nat → Bool) (held : List HeldByte) : (s.landHeld m win arm all pick held).1.regions = s.regions := by
  cases win with
  | none => rfl
  | some w =>
    refine List.foldlRecOn (motive := fun t : State => t.regions = s.regions) _ _ rfl fun t ht x _ => ?_
    cases arm <;> simp [ht]

theorem State.landWaiting_regions (s : State) (n q m : Nat) (all : Bool) (pick : Nat → Bool) :
    (s.landWaiting n q m all pick).regions = s.regions := by
  unfold State.landWaiting
  split
  · rfl
  · exact (State.onUn_regions ..).trans (State.landHeld_regions ..)

theorem State.landStopped_regions (s : State) (n : Nat) : (s.landStopped n).regions = s.regions := by
  refine List.foldlRecOn (motive := fun t : State => t.regions = s.regions) _ _ rfl fun t ht c _ => ?_
  split
  · exact List.foldlRecOn (motive := fun u : State => u.regions = s.regions) _ _ ht
      fun u hu m _ => (State.landWaiting_regions ..).trans hu
  · exact ht

/-- Where no command of the queue holds bytes for its window, none land. -/
theorem State.landStopped_of_noneHeld (s : State) (n : Nat) (h : ∀ c ∈ (s.unAt n).queue, c.prog.held = []) :
    s.landStopped n = s := by
  refine List.foldlRecOn (motive := fun t => t = s) _ _ rfl fun t ht c hc => ?_
  simp [h c hc, ht]

theorem Cmd.rewound_prog (c : Cmd) : c.rewound.prog = c.prog := by
  unfold Cmd.rewound
  split <;> rfl

theorem Untimed.keepLosses_queue (u : Untimed) : u.keepLosses.queue = u.queue.map Cmd.rewound := by
  refine congrArg (List.map Cmd.rewound) ?_
  refine List.foldlRecOn (motive := fun v : Untimed => v.queue = u.queue) _ _ rfl fun v hv c _ => ?_
  split <;> exact hv

/-- The core of a save before its held bytes land: its queue with the losses kept, and the rest as it was. -/
theorem State.coreAt_saveStarted (s : State) (hn : n < 96) (k : Task) :
    (((s.takeAcquires n).castOff n k).onUn n Untimed.keepLosses).coreAt n =
      { s.coreAt n with un := (s.coreAt n).un.keepLosses } := by
  have e : ((s.takeAcquires n).castOff n k).coreAt n = s.coreAt n :=
    State.coreAt_congr (State.byTraffic_cores (s.takeAcquires_byTraffic n)) hn
  rw [State.onUn, State.coreAt_onCore _ _ _ hn, e]

theorem State.saveLanded_regions (s : State) (n : Nat) (k : Task) : (s.saveLanded n k).regions = s.regions :=
  (State.landStopped_regions ..).trans <| (State.onUn_regions ..).trans <|
    (State.byTraffic_regions (s.takeAcquires_byTraffic n) : (s.takeAcquires n).regions = s.regions)

theorem State.timedAt_saveLanded_of_noneHeld (s : State) (hn : n < 96) (k : Task)
    (h : ∀ c ∈ (s.coreAt n).un.queue, c.prog.held = []) : (s.saveLanded n k).timedAt n = (s.coreAt n).timed := by
  have hstart := s.coreAt_saveStarted hn k
  unfold State.saveLanded
  rw [State.landStopped_of_noneHeld, State.timedAt, hstart]
  intro c hc
  rw [State.unAt, hstart, Untimed.keepLosses_queue] at hc
  obtain ⟨d, hd, rfl⟩ := List.mem_map.1 hc
  rw [Cmd.rewound_prog, h d hd]

theorem State.imageSaved_cores (s : State) (n : Nat) (k : Task) (r : Region) (j : Nat) :
    (s.imageSaved n k r j).cores = (s.saveLanded n k).cores :=
  (State.onRegion_cores ..).trans (State.byTraffic_cores (State.writeImage_byTraffic ..))

theorem State.region?_imageSaved {k : Task} {r : Region} (h : s.region? k.rcb = some r) (n j : Nat) :
    (s.imageSaved n k r j).region? k.rcb = some { r with saveUsed := r.saveUsed ++ [j] } := by
  unfold State.imageSaved
  rw [State.region?_onRegion_same, State.region?_congr (State.byTraffic_regions (State.writeImage_byTraffic ..)),
    State.region?_congr (s.saveLanded_regions n k), h]
  rfl

/-! ### The end of a save (R54, R280) -/

/-- What names an evicted task in its region, and what it has used: notifications leave it. -/
def Evicted.sameSave (e f : Evicted) : Prop :=
  f.slot = e.slot ∧ f.cardIdx = e.cardIdx ∧ f.taskIdx = e.taskIdx ∧ f.die = e.die ∧ f.cycles = e.cycles

theorem Evicted.sameSave_refl (e : Evicted) : e.sameSave e := ⟨rfl, rfl, rfl, rfl, rfl⟩

theorem Evicted.sameSave_trans {e f g : Evicted} (h : e.sameSave f) (k : f.sameSave g) : e.sameSave g := by
  obtain ⟨h1, h2, h3, h4, h5⟩ := h
  obtain ⟨k1, k2, k3, k4, k5⟩ := k
  exact ⟨k1.trans h1, k2.trans h2, k3.trans h3, k4.trans h4, k5.trans h5⟩

theorem Evicted.note_sameSave (e : Evicted) (x : Note) : e.sameSave (e.note x) := by
  unfold Evicted.note
  split
  · split <;> exact e.sameSave_refl
  · exact e.sameSave_refl

/-- `q` is region `r` with notifications taken by its evicted tasks. -/
def Region.keepsEvicted (r q : Region) : Prop :=
  q = { r with evicted := q.evicted } ∧ ∀ e ∈ r.evicted, ∃ f ∈ q.evicted, e.sameSave f

theorem Region.keepsEvicted_refl (r : Region) : r.keepsEvicted r := ⟨rfl, fun e he => ⟨e, he, e.sameSave_refl⟩⟩

theorem Region.keepsEvicted_trans {r q p : Region} (h : r.keepsEvicted q) (k : q.keepsEvicted p) : r.keepsEvicted p := by
  obtain ⟨hq, hall⟩ := h
  obtain ⟨hp, kall⟩ := k
  refine ⟨by rw [hq] at hp; exact hp, fun e he => ?_⟩
  obtain ⟨f, hf, hef⟩ := hall e he
  obtain ⟨g, hg, hfg⟩ := kall f hf
  exact ⟨g, hg, Evicted.sameSave_trans hef hfg⟩

theorem State.noteEvicted_region {w : TaskRef} {r : Region} (h : s.region? w.rcb = some r) (x : Note) :
    ∃ q, (s.noteEvicted w x).region? w.rcb = some q ∧ r.keepsEvicted q := by
  simp only [State.noteEvicted, h]
  split
  · exact ⟨r, h, r.keepsEvicted_refl⟩
  · refine ⟨_, State.region?_putRegion .., rfl, fun e he => ⟨_, List.mem_map_of_mem he, ?_⟩⟩
    split
    · exact e.note_sameSave x
    · exact e.sameSave_refl

@[simp] theorem State.noteEvicted_cores (s : State) (w : TaskRef) (x : Note) : (s.noteEvicted w x).cores = s.cores := by
  unfold State.noteEvicted
  split
  · rfl
  · split
    · rfl
    · exact (State.putRegion_cores ..).trans (State.byHome_cores (s.noteInSlot_byHome ..))

theorem State.foldl_noteEvicted_cores (s : State) (w : TaskRef) (l : List Note) :
    (l.foldl (fun s x => s.noteEvicted w x) s).cores = s.cores :=
  List.foldlRecOn (motive := fun t : State => t.cores = s.cores) l _ rfl
    fun _ ht _ _ => (State.noteEvicted_cores ..).trans ht

theorem State.foldl_noteEvicted_region {w : TaskRef} {r : Region} (h : s.region? w.rcb = some r) (l : List Note) :
    ∃ q, (l.foldl (fun s x => s.noteEvicted w x) s).region? w.rcb = some q ∧ r.keepsEvicted q := by
  refine List.foldlRecOn (motive := fun t : State => ∃ q, t.region? w.rcb = some q ∧ r.keepsEvicted q) l _
    ⟨r, h, r.keepsEvicted_refl⟩ fun t ht x _ => ?_
  obtain ⟨q, hq, hrq⟩ := ht
  obtain ⟨p, hp, hqp⟩ := State.noteEvicted_region hq x
  exact ⟨p, hp, Region.keepsEvicted_trans hrq hqp⟩

/-- A task whose card no CANCEL stops is not discarded at the end of its save. -/
theorem State.discardStopped_of_going {k : Task} {r : Region} (h : s.region? k.rcb = some r)
    (hc : (r.cards.any fun c => c.idx == k.cardIdx && (c.stop || r.below c.idx)) = false) : s.discardStopped k = s := by
  simp [State.discardStopped, h, hc]

/-- The region with the evicted task taken in, its card with one task less running. -/
def Region.takesEvicted (r : Region) (k : Task) (e : Evicted) : Region :=
  { r with
    cards := onCard k.cardIdx (fun c => { c with running := c.running - 1 }) r.cards
    evicted := r.evicted ++ [e] }

/-- The state in which SAVE_COMPLETE has handed what was held for the task to its slot. -/
def State.saveNoted (s : State) (n : Nat) (k : Task) (j : Nat) : State :=
  k.notes.foldl (fun s x => s.noteEvicted k.ref x)
    ((s.onRegion k.rcb fun r => r.takesEvicted k (evictedOf (s.coreAt n) k n j)).onCore n Core.released)

theorem execSaveComplete_next {k : Task} {j : Nat} (h : s.saving n = some (k, j)) :
    execSaveComplete n s = .next (((s.saveNoted n k j).discardStopped k).onRegion k.rcb Region.settle) := by
  simp only [execSaveComplete, h]
  rfl

theorem State.coreAt_saveNoted (s : State) (hn : n < 96) (k : Task) (j : Nat) :
    (s.saveNoted n k j).coreAt n = (s.coreAt n).released := by
  unfold State.saveNoted
  rw [State.coreAt_congr (State.foldl_noteEvicted_cores ..) hn, State.coreAt_onCore _ _ _ hn,
    State.coreAt_congr (State.onRegion_cores ..) hn]

theorem State.region?_saveNoted {k : Task} {r : Region} (h : s.region? k.rcb = some r) (n j : Nat) :
    ∃ q, (s.saveNoted n k j).region? k.rcb = some q ∧ (r.takesEvicted k (evictedOf (s.coreAt n) k n j)).keepsEvicted q := by
  refine State.foldl_noteEvicted_region (w := k.ref) ?_ k.notes
  exact (State.region?_congr (State.onCore_regions ..) _).trans ((s.region?_onRegion_same ..).trans (congrArg _ h))

/-- The cards of the region answer as before to the test of a CANCEL. -/
theorem Region.takesEvicted_going {r q : Region} {k : Task} {e : Evicted} (h : (r.takesEvicted k e).keepsEvicted q)
    (j : BitVec 32) :
    (q.cards.any fun c => c.idx == j && (c.stop || q.below c.idx)) =
      r.cards.any fun c => c.idx == j && (c.stop || r.below c.idx) := by
  have hcards : q.cards = onCard k.cardIdx (fun c => { c with running := c.running - 1 }) r.cards := by rw [h.1]; rfl
  have hbelow : q.below = r.below := by rw [h.1]; rfl
  rw [hcards, hbelow]
  exact any_onCard k.cardIdx (fun c => { c with running := c.running - 1 }) _ (fun _ => rfl) r.cards

/-! ### The end of a task (R49) -/

theorem execTaskDrainComplete_failed {k : Task} (h : s.drainDue n = some k) (hp : k.phase = .failed) :
    execTaskDrainComplete n s = .next (s.endTask n k id) := by
  simp only [execTaskDrainComplete, h, if_pos hp]

theorem execTaskDrainComplete_done {k : Task} (h : s.drainDue n = some k) (hp : k.phase ≠ .failed)
    (hf : s.drainFailure n k = none) :
    execTaskDrainComplete n s = .next (s.endTask n k fun c => { c with done := c.done + 1 }) := by
  simp only [execTaskDrainComplete, h, if_neg hp, hf]

theorem execTaskDrainComplete_fails {k : Task} {i : FaultInfo} (h : s.drainDue n = some k) (hp : k.phase ≠ .failed)
    (hf : s.drainFailure n k = some i) :
    execTaskDrainComplete n s = .next (((s.logFault (dieOf n) (faultRec n (s.coreAt n) k k.endPc i)).regionFail k.rcb
      k.cardIdx k.taskIdx.toNat i.reached 0).endTask n k id) := by
  simp only [execTaskDrainComplete, h, if_neg hp, hf]

theorem State.drainFailure_kind {k : Task} {i : FaultInfo} (h : s.drainFailure n k = some i) : i.kind = 2 := by
  unfold State.drainFailure at h
  split at h
  · cases h; rfl
  · obtain ⟨x, -, rfl⟩ := Option.map_eq_some_iff.1 h
    rfl

/-- The region of an ended task has one task of its card less running, and counts it with `f`. -/
def State.countsEnd (s : State) (k : Task) (f : Card → Card) : State :=
  s.onRegion k.rcb fun r => { r with cards := onCard k.cardIdx (fun c => f { c with running := c.running - 1 }) r.cards }

theorem State.coreAt_endTask (s : State) (hn : n < 96) (k : Task) (f : Card → Card) :
    (s.endTask n k f).coreAt n = (s.coreAt n).released := by
  have hcores : ((s.countsEnd k f).reportPinned (dieOf n)).cores = s.cores :=
    (State.reportPinned_cores ..).trans (State.onRegion_cores ..)
  rw [← State.coreAt_congr hcores hn]
  exact State.coreAt_onCore _ _ _ hn

theorem State.endTask_cards (s : State) (n : Nat) (k : Task) (f : Card → Card) :
    ((s.endTask n k f).region? k.rcb).map Region.cards = (s.region? k.rcb).map fun r =>
      onCard k.cardIdx (fun c => f { c with running := c.running - 1 }) r.cards := by
  have hreg : (s.endTask n k f).regions = ((s.countsEnd k f).reportPinned (dieOf n)).regions := State.onCore_regions ..
  rw [State.region?_congr hreg, State.reportPinned_cardsAt, State.countsEnd, State.region?_onRegion_same, Option.map_map]
  rfl

theorem State.endTask_flog (s : State) (hn : n < 96) (k : Task) (f : Card → Card) :
    ((s.endTask n k f).dcu (n / 12)).flog = (s.dcu (n / 12)).flog := by
  have hd : n / 12 < 8 := by omega
  have hdcus : (s.endTask n k f).dcus = (s.onDcu (n / 12) fun d => { d with pinned := [] }).dcus := by
    refine (State.onCore_dcus ..).trans ((State.reportPinned_dcus ..).trans ?_)
    simp [State.onDcu, dieOf, hd]
  rw [State.dcu_congr hdcus, State.dcu_onDcu _ _ _ hd]

/-- A core that its task has left: it is free, its timed domain as the task left it (R22). -/
theorem Core.released_free (c : Core) : c.released.task = none ∧ c.released.un.queue = [] ∧ c.released.timed = c.timed :=
  ⟨rfl, rfl, rfl⟩

/-! ### The completion record (R43, R44, R106) -/

theorem State.recordReady_spec {a j : Nat} {r : Region} {x : Card} (h : s.recordReady a j = some (r, x)) :
    s.region? a = some r ∧ x.diesRun.any s.releaseHeld = false := by
  unfold State.recordReady at h
  split at h
  · cases h
  · next q hq =>
    split at h
    · cases h
    · next c _ =>
      split at h
      · cases h
      · next hfree =>
        cases h
        simp only [Bool.or_eq_true, not_or, Bool.not_eq_true] at hfree
        exact ⟨hq, hfree.2⟩

/-- The state once the record of card `x` is written: the releases, the record, the region and its D fields. -/
def State.recordWritten (s : State) (a : Nat) (r : Region) (x : Card) : State :=
  ((((x.diesRun.foldl (fun s d => s.release d true) s).dcuWrite (r.cqBase + 32 * (r.cqTail.toNat % 2 ^ r.cqLog2)) 32
    (x.record r.cqPhase)).onRegion a fun r => r.recorded x).writeD a)

theorem execCompletionRecord_held {die slot j : Nat} {r : Region} {x : Card}
    (h : s.recordReady ((s.dcu die).slot slot).rcb j = some (r, x))
    (hh : s.dcuHeld (r.cqBase + 32 * (r.cqTail.toNat % 2 ^ r.cqLog2)) 32 = true ∨
      s.dcuHeld ((s.dcu die).slot slot).rcb 256 = true) : execCompletionRecord die slot j s = .next s := by
  simp only [execCompletionRecord, h]
  rw [if_pos]
  simp only [Bool.or_eq_true]
  exact .inl hh

theorem execCompletionRecord_next {die slot j : Nat} {r : Region} {x : Card}
    (h : s.recordReady ((s.dcu die).slot slot).rcb j = some (r, x))
    (hq : s.dcuHeld (r.cqBase + 32 * (r.cqTail.toNat % 2 ^ r.cqLog2)) 32 = false)
    (ha : s.dcuHeld ((s.dcu die).slot slot).rcb 256 = false) :
    execCompletionRecord die slot j s =
      .next ((s.recordWritten ((s.dcu die).slot slot).rcb r x).interrupt (BitVec.ofNat 16 r.irq)) := by
  simp [execCompletionRecord, h, hq, ha, (State.recordReady_spec h).2, State.recordWritten]

/-- Before the region is changed, a record makes memory traffic alone. -/
theorem State.recordTraffic (s : State) (l : List Nat) (a n v : Nat) :
    s.byTraffic ((l.foldl (fun s d => s.release d true) s).dcuWrite a n v) :=
  State.byTraffic_trans (State.foldl_byTraffic (fun t d => t.release_byTraffic d true) l s) (State.dcuWrite_byTraffic ..)

theorem State.recordWritten_cores (s : State) (a : Nat) (r : Region) (x : Card) : (s.recordWritten a r x).cores = s.cores :=
  (State.byTraffic_cores (State.writeD_byTraffic ..)).trans <| (State.onRegion_cores ..).trans <|
    State.byTraffic_cores (s.recordTraffic ..)

theorem State.recordWritten_irqs (s : State) (a : Nat) (r : Region) (x : Card) : (s.recordWritten a r x).irqs = s.irqs :=
  (State.byTraffic_irqs (State.writeD_byTraffic ..)).trans <| (State.onRegion_irqs ..).trans <|
    State.byTraffic_irqs (s.recordTraffic ..)

theorem State.region?_recordWritten {a : Nat} {r : Region} (h : s.region? a = some r) (x : Card) :
    (s.recordWritten a r x).region? a = some (r.recorded x) := by
  unfold State.recordWritten
  rw [State.region?_congr (State.byTraffic_regions (State.writeD_byTraffic ..)), State.region?_onRegion_same,
    State.region?_congr (State.byTraffic_regions (s.recordTraffic ..)), h]
  rfl

@[simp] theorem State.interrupt_cores (s : State) (v : BitVec 16) : (s.interrupt v).cores = s.cores := by
  unfold State.interrupt; split <;> rfl
@[simp] theorem State.interrupt_regions (s : State) (v : BitVec 16) : (s.interrupt v).regions = s.regions := by
  unfold State.interrupt; split <;> rfl

theorem State.interrupt_irqs (s : State) (v : BitVec 16) : (s.interrupt v).irqs = s.irqs ++ if v = 0 then [] else [v] := by
  unfold State.interrupt
  split <;> simp

/-! ### The parts of the statement -/

theorem evictionBoundary_evicts {k : Task} (hn : n < 96) (h : s.boundaryAt n = some k) (hf : k.lateFatal = none) :
    ∃ t, exec (.evictionBoundary n) s = .next t ∧
      t.coreAt n = { s.coreAt n with task := some { k with phase := .evicting, hold := none, late := none } } ∧
      t = { s with cores := t.cores, dcus := t.dcus } ∧
      ((s.dcu (n / 12)).evicting = some n →
        (t.dcu (n / 12)).busy = false ∧ (t.dcu (n / 12)).res = 0 ∧ (t.dcu (n / 12)).evicting = none) := by
  refine ⟨_, execEvictionBoundary_quiet h hf, ?_, ?_, fun he => ?_⟩
  · rw [State.coreAt_congr (State.evictEnds_cores ..) hn, State.coreAt_onCore _ _ _ hn]
  · rw [State.evictEnds, State.onDcu_frame, State.onCore, State.setCoreAt_frame]
  · rw [State.evictEnds_answers _ 0 hn (by rw [State.dcu_congr (State.onCore_dcus ..)]; exact he)]
    exact ⟨rfl, rfl, rfl⟩

theorem evictionBoundary_fails {k : Task} (hn : n < 96) (h : s.boundaryAt n = some k) (hf : k.lateFatal ≠ none) :
    ∃ t, exec (.evictionBoundary n) s = .next t ∧ ∃ q, (t.coreAt n).task = some q ∧ q.phase = .failed := by
  obtain ⟨f, hf⟩ := Option.ne_none_iff_exists'.1 hf
  exact ⟨_, execEvictionBoundary_fatal h hf, State.takeLate_fails hn (State.boundaryAt_task h) hf⟩

theorem contextSave_saves {k : Task} {r : Region} {j : Nat} (hn : n < 96) (hk : s.saveReady n = some k)
    (hr : s.region? k.rcb = some r) (hj : r.freeSlot = some j) :
    ∃ t, exec (.contextSave n) s = .next t ∧
      (t.coreAt n).task = some { k with saveSlot := some j, cycles := 0 } ∧ (t.coreAt n).un.queue = [] ∧
      ((t.coreAt n).timed = (s.saveLanded n k).timedAt n ∧
        t.mem = ((s.saveLanded n k).writeImage n k (k.evict.getD 0) (r.slotBase j)).mem) ∧
      ((∀ x, x ∈ (s.coreAt n).un.queue → x.prog.held = []) → (t.coreAt n).timed = (s.coreAt n).timed) ∧
      ∃ r', t.region? k.rcb = some r' ∧ r'.saveUsed = r.saveUsed ++ [j] := by
  have hcore : ((s.imageSaved n k r j).onCore n fun c => c.savedIn k j).coreAt n =
      ((s.saveLanded n k).coreAt n).savedIn k j := by
    rw [State.coreAt_onCore _ _ _ hn, State.coreAt_congr (s.imageSaved_cores n k r j) hn]
  refine ⟨_, execContextSave_next hk hr hj, ?_, ?_, ⟨?_, ?_⟩, fun hheld => ?_, ?_⟩
  · rw [hcore]; rfl
  · rw [hcore]; rfl
  · rw [hcore]; rfl
  · exact (State.onCore_mem ..).trans (State.onRegion_mem ..)
  · rw [hcore]
    exact s.timedAt_saveLanded_of_noneHeld hn k hheld
  · exact ⟨_, (State.region?_congr (State.onCore_regions ..) _).trans (State.region?_imageSaved hr n j), rfl⟩

theorem saveComplete_frees {k : Task} {j : Nat} {r : Region} (hn : n < 96) (h : s.saving n = some (k, j))
    (hr : s.region? k.rcb = some r)
    (hc : (r.cards.any fun x => x.idx == k.cardIdx && (x.stop || r.below x.idx)) = false) :
    ∃ t, exec (.saveComplete n) s = .next t ∧
      ((t.coreAt n).task = none ∧ (t.coreAt n).un.queue = [] ∧ (t.coreAt n).timed = (s.coreAt n).timed) ∧
      ∃ r' e, t.region? k.rcb = some r' ∧ e ∈ r'.evicted ∧ e.slot = j ∧ e.cardIdx = k.cardIdx ∧
        e.taskIdx = k.taskIdx ∧ e.die = n / 12 ∧ e.cycles = k.cycles := by
  obtain ⟨q, hq, hkeep⟩ := State.region?_saveNoted hr n j
  have hgoes : (s.saveNoted n k j).discardStopped k = s.saveNoted n k j :=
    State.discardStopped_of_going hq ((Region.takesEvicted_going hkeep k.cardIdx).trans hc)
  obtain ⟨e, he, hslot, hcard, htask, hdie, hcycles⟩ :=
    hkeep.2 (evictedOf (s.coreAt n) k n j) (List.mem_append_right _ (List.mem_singleton_self _))
  refine ⟨_, execSaveComplete_next h, ?_, q.settle, e, ?_, ?_, hslot, hcard, htask, hdie, hcycles⟩
  · rw [hgoes, State.coreAt_congr (State.onRegion_cores ..) hn, State.coreAt_saveNoted s hn]
    exact Core.released_free _
  · rw [hgoes, State.region?_onRegion_same, hq]
    rfl
  · rw [Region.settle_evicted]
    exact he

theorem taskDrainComplete_frees {k : Task} (hn : n < 96) (h : s.drainDue n = some k) :
    ∃ t, exec (.taskDrainComplete n) s = .next t ∧
      (t.coreAt n).task = none ∧ (t.coreAt n).un.queue = [] ∧ (t.coreAt n).timed = (s.coreAt n).timed := by
  by_cases hp : k.phase = .failed
  · refine ⟨_, execTaskDrainComplete_failed h hp, ?_⟩
    rw [State.coreAt_endTask s hn]
    exact Core.released_free _
  · cases hf : s.drainFailure n k with
    | none =>
      refine ⟨_, execTaskDrainComplete_done h hp hf, ?_⟩
      rw [State.coreAt_endTask s hn]
      exact Core.released_free _
    | some i =>
      refine ⟨_, execTaskDrainComplete_fails h hp hf, ?_⟩
      rw [State.coreAt_endTask _ hn, State.coreAt_congr ((State.regionFail_cores ..).trans (State.logFault_cores ..)) hn]
      exact Core.released_free _

theorem taskDrainComplete_counts {k : Task} (h : s.drainDue n = some k) (hp : k.phase = .draining)
    (hf : s.drainFailure n k = none) :
    ∃ t, exec (.taskDrainComplete n) s = .next t ∧
      ∀ r r', s.region? k.rcb = some r → t.region? k.rcb = some r' → r'.cards = onCard k.cardIdx
        (fun x => { x with running := x.running - 1, done := x.done + 1 }) r.cards := by
  refine ⟨_, execTaskDrainComplete_done h (by simp [hp]) hf, fun r r' hr hr' => ?_⟩
  have hcards := State.endTask_cards s n k fun c => { c with done := c.done + 1 }
  rw [hr, hr'] at hcards
  exact Option.some.inj hcards

theorem taskDrainComplete_logs {k : Task} {i : FaultInfo} (hn : n < 96) (h : s.drainDue n = some k)
    (hp : k.phase = .draining) (hf : s.drainFailure n k = some i) :
    ∃ t, exec (.taskDrainComplete n) s = .next t ∧
      ∃ e, (t.dcu (n / 12)).flog.queue = (s.dcu (n / 12)).flog.queue ++ [e] ∧ e.info = i ∧ e.info.kind = 2 ∧
        e.pc = k.endPc := by
  have hd : n / 12 < 8 := by omega
  refine ⟨_, execTaskDrainComplete_fails h (by simp [hp]) hf, faultRec n (s.coreAt n) k k.endPc i, ?_, rfl,
    State.drainFailure_kind hf, rfl⟩
  rw [State.endTask_flog _ hn, State.dcu_congr (State.regionFail_dcus ..)]
  exact congrArg (fun d : Dcu => d.flog.queue) (s.dcu_onDcu (n / 12) _ hd)

theorem completionRecord_records {die slot j : Nat} {r : Region} {x : Card}
    (h : s.recordReady ((s.dcu die).slot slot).rcb j = some (r, x))
    (hq : s.dcuHeld (r.cqBase + 32 * (r.cqTail.toNat % 2 ^ r.cqLog2)) 32 = false)
    (ha : s.dcuHeld ((s.dcu die).slot slot).rcb 256 = false) :
    ∃ t, exec (.completionRecord die slot j) s = .next t ∧
      (∃ r', t.region? ((s.dcu die).slot slot).rcb = some r' ∧ r'.cqTail = r.cqTail + 1 ∧
        r'.cqPhase = (if (r.cqTail.toNat + 1) % 2 ^ r.cqLog2 = 0 then !r.cqPhase else r.cqPhase) ∧
        r'.cards = r.cards.filter fun y => y.idx != x.idx) ∧
      t.mem = (s.recordWritten ((s.dcu die).slot slot).rcb r x).mem ∧
      t.irqs = s.irqs ++ (if BitVec.ofNat 16 r.irq = 0 then [] else [BitVec.ofNat 16 r.irq]) ∧ t.cores = s.cores := by
  refine ⟨_, execCompletionRecord_next h hq ha, ⟨r.recorded x, ?_, ?_, ?_, ?_⟩, State.interrupt_mem .., ?_, ?_⟩
  · rw [State.region?_congr (State.interrupt_regions ..)]
    exact State.region?_recordWritten (State.recordReady_spec h).1 x
  · exact Region.settle_cqTail _
  · exact Region.settle_cqPhase _
  · exact Region.settle_cards _
  · rw [State.interrupt_irqs, State.recordWritten_irqs]
  · exact (State.interrupt_cores ..).trans (State.recordWritten_cores ..)

/-- Settles O43: each part by the lemma of its own step. -/
theorem evictionsAndEnds : Obligations.EvictionsAndEnds := by
  intro s n hn
  refine ⟨fun k h => ⟨fun hf => evictionBoundary_evicts hn h hf, fun hf => evictionBoundary_fails hn h hf⟩,
    fun k r j hk hr hj => ?_, fun k j r h hr hc => saveComplete_frees hn h hr hc,
    fun k h => ⟨taskDrainComplete_frees hn h, fun hp hf => taskDrainComplete_counts h hp hf,
      fun i hp hf => taskDrainComplete_logs hn h hp hf⟩,
    fun die slot j r x _ h => ⟨fun hh => execCompletionRecord_held h hh, fun hq ha => completionRecord_records h hq ha⟩⟩
  obtain ⟨t, ht, hsave⟩ := contextSave_saves hn hk hr hj
  obtain ⟨hlt, hfree, hlow⟩ := Region.freeSlot_lowest hj
  exact ⟨t, ht, hlt, hfree, hlow, hsave⟩

end Sys2Proof.Machine
end

section
/-!
PROOF of O22: the fields of the state at reset, each array by its one reset element.
-/

namespace Sys2Proof.Machine

/-- Settles O22: every field is a literal, and every array repeats one reset element. -/
theorem resetState : Obligations.ResetState := by
  refine ⟨rfl, rfl, ⟨by decide, by decide⟩, rfl, rfl, rfl, rfl, rfl, rfl, rfl, rfl, rfl, rfl, rfl, rfl, rfl, rfl, rfl, rfl,
    fun n => ?core, fun n => ?die, fun u => ?unit, fun m => ?member⟩
  case core => simp [State.reset, Vector.get_eq_getElem, Core.reset, Untimed.reset]
  case die =>
    simp only [State.reset, Vector.get_eq_getElem, Vector.getElem_replicate]
    refine ⟨rfl, rfl, rfl, rfl, rfl, rfl, rfl, fun g => by simp [Pbc.reset], rfl, trivial, fun i => ?_⟩
    fin_cases i <;> rfl
  case unit => simp [State.reset, Vector.get_eq_getElem, LatticeUnit.reset]
  case member => simp [State.reset, Vector.get_eq_getElem, Trust.reset, Member.reset]

end Sys2Proof.Machine
end

section
/-!
SUPPORT. The table of regions, the cores and the DCUs under an operation that is repeated along a list, and under `State.tidy`;
and what a DCU's reads of memory can change.
-/

namespace Sys2Proof.Machine

/-! ### One change along a list of regions or of cores -/

/-- Each time the list names a region, the change is made to it. -/
theorem State.region?_foldl {step : State → Nat → State} {f : Region → Region}
    (hstep : ∀ s a b, (step s b).region? a = if b = a then (s.region? a).map f else s.region? a) (l : List Nat) (s : State)
    (a : Nat) : (l.foldl step s).region? a = (s.region? a).map f^[l.count a] := by
  induction l generalizing s with
  | nil => simp
  | cons b l ih =>
    rw [List.foldl_cons, ih, hstep, List.count_cons]
    by_cases hb : b = a
    · simp [hb, Function.comp_def]
    · simp [hb]

/-- A change that is made once and for all is not made again. -/
theorem iterate_idempotent {α : Type} {f : α → α} (hf : ∀ x, f (f x) = f x) (k : Nat) (x : α) : f^[k + 1] x = f x := by
  induction k with
  | zero => rfl
  | succ k ih => rw [Function.iterate_succ_apply', ih, hf]

/-- A change to one core, and what the others are. -/
theorem State.coreAt_onCore_eq (s : State) {m : Nat} (n : Nat) (f : Core → Core) (hm : m < 96) :
    (s.onCore n f).coreAt m = if n = m then f (s.coreAt m) else s.coreAt m := by
  by_cases h : n = m
  · rw [if_pos h, h, State.coreAt_onCore _ _ _ hm]
  · rw [if_neg h]
    exact State.coreAt_setCoreAt_other _ _ _ _ (Ne.symm h) hm

/-- Each time the list names a core, the change is made to it. -/
theorem State.coreAt_foldl_onCore {ι : Type} (g : ι → Nat) (f : Core → Core) (l : List ι) (s : State) {m : Nat} (hm : m < 96) :
    (l.foldl (fun s i => s.onCore (g i) f) s).coreAt m = f^[(l.map g).count m] (s.coreAt m) := by
  induction l generalizing s with
  | nil => rfl
  | cons i l ih =>
    rw [List.foldl_cons, ih, State.coreAt_onCore_eq _ _ _ hm, List.map_cons, List.count_cons]
    by_cases h : g i = m <;> simp [h]

/-! ### What is let go (R38) -/

theorem findRegion_filter (p : Nat → Bool) (a : Nat) (l : List (Nat × Region)) :
    findRegion a (l.filter fun x => p x.1) = if p a then findRegion a l else none := by
  induction l with
  | nil => simp [findRegion]
  | cons x l ih =>
    obtain ⟨b, r⟩ := x
    by_cases hb : b = a
    · subst hb
      cases hp : p b <;> simp [hp, ih, findRegion]
    · cases hp : p b <;> simp [hp, ih, findRegion, hb]

/-- A region that is still held after `tidy` is as it was. -/
theorem State.region?_tidy {s : State} {a : Nat} {r : Region} (h : s.tidy.region? a = some r) : s.region? a = some r := by
  have e : s.tidy.region? a = if s.clearBusy.needed.contains a then s.region? a else none :=
    findRegion_filter (s.clearBusy.needed.contains ·) a s.regions
  rw [e] at h
  split at h
  · exact h
  · cases h

@[simp] theorem State.tidy_cores (s : State) : s.tidy.cores = s.cores := rfl

/-- `tidy` changes the DCUs and the table of regions alone. -/
theorem State.tidy_frame (s : State) : s.tidy = { s with dcus := s.tidy.dcus, regions := s.tidy.regions } := rfl

/-- Of a DCU, `tidy` changes the slots alone. -/
theorem State.dcu_tidy (s : State) (n : Nat) : s.tidy.dcu n = { s.dcu n with slots := (s.tidy.dcu n).slots } := by
  unfold State.dcu
  split <;> simp [State.tidy, State.clearBusy, Vector.get_eq_getElem]

/-! ### The reads of a DCU -/

/-- `t` comes from `s` by reads of a DCU: accesses to homes and across the hub, and values from outside. -/
def State.byFetch (s t : State) : Prop :=
  t = { s with mem := t.mem, poison := t.poison, lattice := t.lattice, ctl := t.ctl, rdc := t.rdc, trust := t.trust, free := t.free }

theorem State.byFetch_refl (s : State) : s.byFetch s := rfl

theorem State.byFetch_trans {s t u : State} (h : s.byFetch t) (k : t.byFetch u) : s.byFetch u := by
  unfold State.byFetch at h k ⊢
  rw [h] at k
  exact k

theorem State.byFetch_cores {s t : State} (h : s.byFetch t) : t.cores = s.cores := by rw [h]
theorem State.byFetch_regions {s t : State} (h : s.byFetch t) : t.regions = s.regions := by rw [h]
theorem State.byFetch_dcus {s t : State} (h : s.byFetch t) : t.dcus = s.dcus := by rw [h]

theorem State.byTraffic_byFetch {s t : State} (h : s.byTraffic t) : s.byFetch t := by
  unfold State.byFetch
  rw [h]

theorem State.byHome_byFetch {s t : State} (h : s.byHome t) : s.byFetch t := State.byTraffic_byFetch (State.byHome_byTraffic h)

theorem State.dcuRead_byFetch (s : State) (a n : Nat) : s.byFetch (s.dcuRead a n).1 := by
  unfold State.dcuRead
  split
  · exact State.byHome_byFetch (State.homeReadLong_byHome ..)
  · split
    · exact State.byFetch_trans (State.byTraffic_byFetch (State.crossOn_byTraffic ..)) rfl
    · rfl

theorem State.demandPoison_byFetch (s before : State) (a n : Nat) : s.byFetch (s.demandPoison before a n) := by
  unfold State.demandPoison
  split
  · exact State.byHome_byFetch (State.health_byHome ..)
  · rfl

end Sys2Proof.Machine
end

section
/-!
PROOF of O12: the block of the register window that an offset names, and what the block makes of a write to each register.
-/

namespace Sys2Proof.Machine

variable {s : State} {n u r k off : Nat} {v : Word}

/-! ### The blocks of the window (R16) -/

theorem registerWrite_dcu (hn : n < 8) (r : Nat) {o : Out} (h : writeDcu n r v s = o)
    (ho : off = 0x100000 + n * 0x10000 + r := by rfl) (hr : r < 0x10000 ∧ r % 8 = 0 := by decide) :
    exec (.registerWrite off v) s = o := by
  have haligned : off % 8 = 0 := by omega
  have hblock : off / 0x100000 = 1 := by omega
  have hunit : off / 0x10000 % 16 = n := by omega
  have hreg : off % 0x10000 = r := by omega
  simpa only [exec, execRegisterWrite, haligned, hblock, hunit, hreg, hn, if_true, ne_eq, not_true_eq_false, if_false] using h

theorem registerWrite_hbm (hn : n < 8) (r : Nat) {o : Out} (h : writeHbm n r v s = o)
    (ho : off = 0x200000 + n * 0x1000 + r := by rfl) (hr : r < 0x1000 ∧ r % 8 = 0 := by decide) :
    exec (.registerWrite off v) s = o := by
  have haligned : off % 8 = 0 := by omega
  have hblock : off / 0x100000 = 2 := by omega
  have hunit : off % 0x100000 / 0x1000 = n := by omega
  have hreg : off % 0x1000 = r := by omega
  simpa only [exec, execRegisterWrite, haligned, hblock, hunit, hreg, hn, if_true, ne_eq, not_true_eq_false, if_false] using h

theorem registerWrite_vertex (hn : n < 8) (r : Nat) {o : Out} (h : writeVertex n r v s = o)
    (ho : off = 0x300000 + n * 0x10000 + r := by rfl) (hr : r < 0x10000 ∧ r % 8 = 0 := by decide) :
    exec (.registerWrite off v) s = o := by
  have haligned : off % 8 = 0 := by omega
  have hblock : off / 0x100000 = 3 := by omega
  have hunit : off / 0x10000 % 16 = n := by omega
  have hreg : off % 0x10000 = r := by omega
  simpa only [exec, execRegisterWrite, haligned, hblock, hunit, hreg, hn, if_true, ne_eq, not_true_eq_false, if_false] using h

theorem registerWrite_pbc (hn : n < 8) (r : Nat) {o : Out} (h : writePbc n r v s = o)
    (ho : off = 0x400000 + n * 0x10000 + r := by rfl) (hr : r < 0x10000 ∧ r % 8 = 0 := by decide) :
    exec (.registerWrite off v) s = o := by
  have haligned : off % 8 = 0 := by omega
  have hblock : off / 0x100000 = 4 := by omega
  have hunit : off / 0x10000 % 16 = n := by omega
  have hreg : off % 0x10000 = r := by omega
  simpa only [exec, execRegisterWrite, haligned, hblock, hunit, hreg, hn, if_true, ne_eq, not_true_eq_false, if_false] using h

theorem registerWrite_lattice (hu : u < 16) (r : Nat) {o : Out} (h : writeLattice u r v s = o)
    (ho : off = 0x500000 + u * 0x10000 + r := by rfl) (hr : r < 0x10000 ∧ r % 8 = 0 := by decide) :
    exec (.registerWrite off v) s = o := by
  have haligned : off % 8 = 0 := by omega
  have hblock : off / 0x100000 = 5 := by omega
  have hunit : off / 0x10000 % 16 = u := by omega
  have hreg : off % 0x10000 = r := by omega
  simpa only [exec, execRegisterWrite, haligned, hblock, hunit, hreg, ne_eq, not_true_eq_false, if_false] using h

theorem registerWrite_exchange (r : Nat) {o : Out} (h : writeExchange r v s = o)
    (ho : off = 0x600000 + r := by rfl) (hr : r < 0x100000 ∧ r % 8 = 0 := by decide) :
    exec (.registerWrite off v) s = o := by
  have haligned : off % 8 = 0 := by omega
  have hblock : off / 0x100000 = 6 := by omega
  have hreg : off % 0x100000 = r := by omega
  simpa only [exec, execRegisterWrite, haligned, hblock, hreg, ne_eq, not_true_eq_false, if_false] using h

theorem registerWrite_trust (r : Nat) {o : Out} (h : writeTrust r v s = o)
    (ho : off = 0x700000 + r := by rfl) (hr : r < 0x100000 ∧ r % 8 = 0 := by decide) :
    exec (.registerWrite off v) s = o := by
  have haligned : off % 8 = 0 := by omega
  have hblock : off / 0x100000 = 7 := by omega
  have hreg : off % 0x100000 = r := by omega
  simpa only [exec, execRegisterWrite, haligned, hblock, hreg, ne_eq, not_true_eq_false, if_false] using h

theorem registerWrite_control (r : Nat) {o : Out} (h : writeControl r v s = o)
    (ho : off = 0x800000 + r := by rfl) (hr : r < 0x100000 ∧ r % 8 = 0 := by decide) :
    exec (.registerWrite off v) s = o := by
  have haligned : off % 8 = 0 := by omega
  have hblock : off / 0x100000 = 8 := by omega
  have hreg : off % 0x100000 = r := by omega
  simpa only [exec, execRegisterWrite, haligned, hblock, hreg, ne_eq, not_true_eq_false, if_false] using h

theorem registerWrite_unaligned (h : off % 8 ≠ 0) : exec (.registerWrite off v) s = .next s := if_pos h

/-! ### Registers that stand in rows (R37, R203, R287, R354, R368, R400) -/

theorem writeDcu_bind (hk : k < 1024) (h : v.getLsbD 63 = true) :
    writeDcu n (0x1000 + 8 * k) v s = exec (.bind n k (v.setWidth 52)) s := by
  have hr : 0x1000 ≤ 0x1000 + 8 * k ∧ 0x1000 + 8 * k < 0x3000 := by omega
  have hi : (0x1000 + 8 * k - 0x1000) / 8 = k := by omega
  unfold writeDcu
  rw [if_pos hr, if_pos h, hi]
  rfl

theorem writeDcu_unbind (hk : k < 1024) (h : v.getLsbD 63 = false) :
    writeDcu n (0x1000 + 8 * k) v s = exec (.unbind n ⟨k, v.setWidth 52⟩) s := by
  have hr : 0x1000 ≤ 0x1000 + 8 * k ∧ 0x1000 + 8 * k < 0x3000 := by omega
  have hi : (0x1000 + 8 * k - 0x1000) / 8 = k := by omega
  unfold writeDcu
  rw [if_pos hr, if_neg (by rw [h]; decide), hi]
  rfl

theorem writeDcu_doorbell (hk : k < 1024) :
    writeDcu n (0x8000 + 8 * k) v s = exec (.doorbell n k (v.setWidth 32) (v.extractLsb' 32 32)) s := by
  have hb : ¬ (0x1000 ≤ 0x8000 + 8 * k ∧ 0x8000 + 8 * k < 0x3000) := by omega
  have hr : 0x8000 ≤ 0x8000 + 8 * k ∧ 0x8000 + 8 * k < 0xA000 := by omega
  have hi : (0x8000 + 8 * k - 0x8000) / 8 = k := by omega
  unfold writeDcu
  rw [if_neg hb, if_pos hr, hi]
  rfl

theorem writeHbm_hashm (hk : k < 6) : writeHbm n (8 * k) v s = exec (.hashmWrite n k v) s := by
  have hi : 8 * k / 8 = k := by omega
  rw [writeHbm, if_pos (by omega), hi]
  rfl

theorem State.onPbc_eq_set (hn : n < 8) (f : Pbc → Pbc) :
    s.onPbc n f = { s with pbc := s.pbc.set n (f (s.pbcOf n)) hn } := by simp [State.onPbc, State.pbcOf, hn]

theorem State.pbcOf_onPbc (s : State) (hn : n < 8) (f : Pbc → Pbc) : (s.onPbc n f).pbcOf n = f (s.pbcOf n) := by
  rw [State.onPbc_eq_set hn]
  simp [State.pbcOf, hn, Vector.get_eq_getElem]

theorem at16_put16 {α : Type} (x : Vector α 16) (y : α) (hk : k < 16) : at16 (put16 x k y) k = y := by
  simp [at16, put16, hk, Vector.get_eq_getElem]

theorem writePbc_sketch (hn : n < 8) (hk : k < 16) : ∃ t, writePbc n (0x100 + 16 * k) v s = .next t ∧
    t = { s with pbc := t.pbc } ∧ at16 (t.pbcOf n).thresh k = v.setWidth 16 ∧
      at16 (t.pbcOf n).halve k = v.extractLsb' 16 32 := by
  have hr : 0x100 ≤ 0x100 + 16 * k ∧ 0x100 + 16 * k < 0x200 := by omega
  have hg : (0x100 + 16 * k - 0x100) % 16 = 0 := by omega
  have hi : (0x100 + 16 * k - 0x100) / 16 = k := by omega
  refine ⟨_, by unfold writePbc; rw [if_pos hr, if_pos hg, hi], ?_, ?_, ?_⟩
  · rw [State.onPbc_eq_set hn]
  · rw [State.pbcOf_onPbc _ hn]
    exact (at16_put16 _ _ hk).trans rfl
  · rw [State.pbcOf_onPbc _ hn]
    exact at16_put16 _ _ hk

theorem writeExchange_nrank (hk : k < 64) : writeExchange (0x8000 + 8 * k) v s = exec (.nrankWrite k v) s := by
  have hr : 0x8000 ≤ 0x8000 + 8 * k ∧ 0x8000 + 8 * k < 0x8200 := by omega
  have hi : (0x8000 + 8 * k - 0x8000) / 8 = k := by omega
  rw [writeExchange, if_pos hr, hi]
  rfl

theorem writeExchange_rank (hk : k < 4096) : ∃ t, writeExchange (0x10000 + 8 * k) v s = .next t ∧
    t.xchg.rank (k / 64) (k % 64) = bits v.toNat 25 0 ∧ t = { s with xchg := { s.xchg with ranks := t.xchg.ranks } } := by
  have hn : ¬ (0x8000 ≤ 0x10000 + 8 * k ∧ 0x10000 + 8 * k < 0x8200) := by omega
  have hr : 0x10000 ≤ 0x10000 + 8 * k ∧ 0x10000 + 8 * k < 0x18000 := by omega
  have hi : (0x10000 + 8 * k - 0x10000) / 8 = k := by omega
  have hg : 64 * (k / 64) + k % 64 = k := Nat.div_add_mod k 64
  refine ⟨_, by rw [writeExchange, if_neg hn, if_pos hr, hi], ?_, rfl⟩
  simp [Exchange.rank, State.onXchg, hg, fieldOf, bits]

theorem writeExchange_peer (hk : k < 4096) : ∃ t, writeExchange (0x20000 + 16 * k) v s = .next t ∧
    t = { s with xchg := { s.xchg with peers := t.xchg.peers } } ∧
      t.peer k = { s.peer k with faddr := v.setWidth 48, pvalid := v.getLsbD 63 } := by
  have hn : ¬ (0x8000 ≤ 0x20000 + 16 * k ∧ 0x20000 + 16 * k < 0x8200) := by omega
  have hm : ¬ (0x10000 ≤ 0x20000 + 16 * k ∧ 0x20000 + 16 * k < 0x18000) := by omega
  have hr : 0x20000 ≤ 0x20000 + 16 * k ∧ 0x20000 + 16 * k < 0x30000 ∧ (0x20000 + 16 * k) % 16 = 0 := by omega
  have hi : (0x20000 + 16 * k - 0x20000) / 16 = k := by omega
  refine ⟨_, by rw [writeExchange, if_neg hn, if_neg hm, if_pos hr, hi], rfl, ?_⟩
  exact Store.get_set_same ..

theorem writeTrust_member (hk : k < 64) : writeTrust (0x100 + 16 * k) v s = exec (.memberEntryWrite k v) s := by
  have hr : 0x100 ≤ 0x100 + 16 * k ∧ 0x100 + 16 * k < 0x500 := by omega
  have hg : (0x100 + 16 * k) % 16 = 0 := by omega
  have hi : (0x100 + 16 * k - 0x100) / 16 = k := by omega
  unfold writeTrust
  rw [if_pos hr, if_pos hg, hi]
  rfl

theorem writeControl_rail (hk : k < 18) : ∃ t, writeControl (0x200 + 8 * k) v s = .next t ∧
    t = { s with ctl := { s.ctl with vLow := t.ctl.vLow, vTrip := t.ctl.vTrip } } ∧
      ∀ j : Fin 18, t.ctl.vLow.get j = (if j.val = k then v.extractLsb' 16 16 else s.ctl.vLow.get j) ∧
        t.ctl.vTrip.get j = (if j.val = k then v.extractLsb' 32 16 else s.ctl.vTrip.get j) := by
  have hr : 0x200 ≤ 0x200 + 8 * k ∧ 0x200 + 8 * k < 0x290 := by omega
  have hi : (0x200 + 8 * k - 0x200) / 8 = k := by omega
  refine ⟨_, by unfold writeControl; rw [if_pos hr, hi], rfl, fun j => ?_⟩
  simp [Vector.get_eq_getElem, Vector.getElem_setIfInBounds, fieldOf, eq_comm]

/-! ### The word of HOT_SLOTS and SLOTLOG2 (R287) -/

theorem State.onPbc_congr (hn : n < 8) {f g : Pbc → Pbc} (h : f (s.pbcOf n) = g (s.pbcOf n)) : s.onPbc n f = s.onPbc n g := by
  rw [State.onPbc_eq_set hn, State.onPbc_eq_set hn, h]

theorem State.hotAreaBad_iff {m : Nat} (base : BitVec 52) (slots : BitVec 20) (hm : m < 16) :
    s.hotAreaBad n base slots (BitVec.ofNat 4 m) = true ↔ slots.toNat ≠ 0 ∧ (base.toNat % 65536 ≠ 0 ∨
      base.toNat / 2 ^ 44 ≠ s.myMod.toNat * 16 + n ∨ 2 ^ 36 < base.toNat % 2 ^ 44 + slots.toNat * 2 ^ m) := by
  have hlog : (BitVec.ofNat 4 m).toNat = m := BitVec.toNat_ofNat m 4 ▸ Nat.mod_eq_of_lt hm
  have hslots : slots ≠ 0 ↔ slots.toNat ≠ 0 := not_congr BitVec.toNat_inj.symm
  simp only [State.hotAreaBad, Bool.and_eq_true, Bool.or_eq_true, decide_eq_true_eq, hslots, hlog, or_assoc]

/-- Both fields are tested together, and taken or refused together. -/
theorem writeHotWord_cases (hn : n < 8) :
    let p := s.pbcOf n
    let l := bits v.toNat 27 24
    let refused := l < 6 ∨ 13 < l ∨ p.used ≠ 0 ∨ (bits v.toNat 19 0 ≠ 0 ∧ (p.hotBase.toNat % 65536 ≠ 0 ∨
      p.hotBase.toNat / 2 ^ 44 ≠ s.myMod.toNat * 16 + n ∨ 2 ^ 36 < p.hotBase.toNat % 2 ^ 44 + bits v.toNat 19 0 * 2 ^ l))
    (refused → writeHotWord n v s = .next (s.onPbc n fun p => { p with cfgErr := true })) ∧
    (¬ refused → writeHotWord n v s = .next (s.onPbc n fun p =>
      { p with hotSlots := BitVec.ofNat 20 (bits v.toNat 19 0), slotLog2 := BitVec.ofNat 4 l })) := by
  intro p l refused
  have hslots : (fieldOf v 0 20).toNat = bits v.toNat 19 0 := rfl
  by_cases hl : l < 6 ∨ 13 < l
  · have hrefused : refused := hl.elim Or.inl fun h => .inr (.inl h)
    exact ⟨fun _ => if_pos hl, fun h => absurd hrefused h⟩
  · have hwrite : writeHotWord n v s = s.hotWrite n p.hotBase (fieldOf v 0 20) (BitVec.ofNat 4 l) := if_neg hl
    have hiff : (p.used ≠ 0 ∨ s.hotAreaBad n p.hotBase (fieldOf v 0 20) (BitVec.ofNat 4 l) = true) ↔ refused := by
      rw [State.hotAreaBad_iff _ _ (by omega), hslots]
      exact ⟨fun h => .inr (.inr h), fun h => (h.resolve_left (hl ∘ .inl)).resolve_left (hl ∘ .inr)⟩
    refine ⟨fun h => hwrite.trans (if_pos (hiff.2 h)), fun h => (hwrite.trans (if_neg (h ∘ hiff.1))).trans ?_⟩
    have htaken : fieldOf v 0 20 = BitVec.ofNat 20 (bits v.toNat 19 0) := BitVec.eq_of_toNat_eq (by simp [hslots, bits])
    exact congrArg _ (State.onPbc_congr hn (by rw [htaken]))

/-! ### The parts of the statement -/

theorem writeHbm_hashErr (n : Nat) (v : Word) (s : State) :
    let seen := s.onHbm n fun h => { h with hashErr := h.hashErr && !v.getLsbD 0 }
    (v.getLsbD 1 = false → writeHbm n 0x80 v s = .next seen) ∧ (v.getLsbD 1 = true → writeHbm n 0x80 v s = exec (.cntclr n) seen) :=
  let seen := s.onHbm n fun h => { h with hashErr := h.hashErr && !v.getLsbD 0 }
  have hoff : writeHbm n 0x80 v s = if v.getLsbD 1 then exec (.cntclr n) seen else .next seen := rfl
  ⟨fun h => hoff.trans (if_neg (by rw [h]; decide)), fun h => hoff.trans (if_pos h)⟩

/-! ### What a command word means (R41, R258, R289, R311, R370) -/

theorem dcuOp_commands (n : Nat) (v : Word) (s : State) :
    (bits v.toNat 7 0 = 1 → dcuOp n v s = exec (.evict n (v.extractLsb' 16 32)) s) ∧
    (bits v.toNat 7 0 = 2 → dcuOp n v s = exec (.cancel n (v.extractLsb' 16 32)) s) ∧
    (bits v.toNat 7 0 = 3 → dcuOp n v s = exec (.enable n (v.extractLsb' 16 32)) s) ∧
    (bits v.toNat 7 0 = 4 → dcuOp n v s = exec (.flushImage n) s) ∧
    (bits v.toNat 7 0 = 5 → dcuOp n v s = exec (.replay n (v.extractLsb' 16 32)) s) := by
  unfold dcuOp
  refine ⟨fun h => ?_, fun h => ?_, fun h => ?_, fun h => ?_, fun h => ?_⟩ <;> rw [h] <;> rfl

theorem vertexOp_commands (n : Nat) (v : Word) (s : State) :
    (bits v.toNat 27 24 = 1 → vertexOp n v s = exec (.initSync n (bits v.toNat 19 0)) s) ∧
    (bits v.toNat 27 24 = 2 → vertexOp n v s = exec (.initPhaser n (bits v.toNat 19 0)) s) ∧
    (bits v.toNat 27 24 = 3 → vertexOp n v s = exec (.freeObject n (bits v.toNat 19 0)) s) ∧
    (bits v.toNat 27 24 = 4 → vertexOp n v s = exec (.readObject n (bits v.toNat 19 0)) s) ∧
    (bits v.toNat 27 24 = 5 → vertexOp n v s = exec (.breakPhaser n (bits v.toNat 19 0)) s) := by
  unfold vertexOp
  refine ⟨fun h => ?_, fun h => ?_, fun h => ?_, fun h => ?_, fun h => ?_⟩ <;> rw [h] <;> rfl

theorem pbcOp_commands (n : Nat) (v : Word) (s : State) :
    (bits v.toNat 7 0 = 1 → pbcOp n v s = exec (.tload n (bits v.toNat 25 16)) s) ∧
    (bits v.toNat 7 0 = 2 → pbcOp n v s = exec (.tdrop n (bits v.toNat 25 16)) s) ∧
    (bits v.toNat 7 0 = 3 → pbcOp n v s = exec (.tread n (bits v.toNat 25 16)) s) ∧
    (bits v.toNat 7 0 = 4 → pbcOp n v s = exec (.hotload n (bits v.toNat 25 16)) s) ∧
    (bits v.toNat 7 0 = 5 → pbcOp n v s = exec (.hotflush n (bits v.toNat 25 16)) s) ∧
    (bits v.toNat 7 0 = 6 → pbcOp n v s = exec (.skclr n (bits v.toNat 19 16)) s) := by
  have group : bits v.toNat 25 16 % 16 = bits v.toNat 19 16 := Nat.mod_mod_of_dvd _ (by decide)
  simp only [pbcOp, group]
  refine ⟨fun h => ?_, fun h => ?_, fun h => ?_, fun h => ?_, fun h => ?_, fun h => ?_⟩ <;> rw [h] <;> rfl

theorem latticeOp_commands (u : Nat) (v : Word) (s : State) :
    (bits v.toNat 19 16 = 1 → latticeOp u v s = exec (.rinit u (bits v.toNat 9 0)) s) ∧
    (bits v.toNat 19 16 = 2 → latticeOp u v s = exec (.rfree u (bits v.toNat 9 0)) s) ∧
    (bits v.toNat 19 16 = 3 → latticeOp u v s = exec (.rread u (bits v.toNat 9 0)) s) ∧
    (bits v.toNat 19 16 = 4 → latticeOp u v s = exec (.rflush u (bits v.toNat 9 0)) s) ∧
    (bits v.toNat 19 16 = 5 → latticeOp u v s = exec (.rabort u (bits v.toNat 9 0)) s) := by
  unfold latticeOp
  refine ⟨fun h => ?_, fun h => ?_, fun h => ?_, fun h => ?_, fun h => ?_⟩ <;> rw [h] <;> rfl

theorem trustOp_commands (v : Word) (s : State) :
    (bits v.toNat 3 0 = 1 → trustOp v s = exec (.attest (bits v.toNat 13 8)) s) ∧
    (bits v.toNat 3 0 = 2 → trustOp v s = exec (.remove (bits v.toNat 13 8)) s) ∧
    (bits v.toNat 3 0 = 3 → trustOp v s = exec .barrier s) ∧
    (bits v.toNat 3 0 = 4 → trustOp v s = exec (.trustEvict (bits v.toNat 13 8)) s) ∧
    (bits v.toNat 3 0 = 5 → trustOp v s = exec .logclr s) := by
  unfold trustOp
  refine ⟨fun h => ?_, fun h => ?_, fun h => ?_, fun h => ?_, fun h => ?_⟩ <;> rw [h] <;> rfl

/-- A Vertex runs the command of the word that it holds. -/
theorem runVertexCommand_busy (h : (s.vxOf n).busy = some v) : runVertexCommand n s =
    andThen (vertexOp n v (s.onVx n fun x => { x with busy := none, cmdAddr := x.cmdAt })) fun t =>
      .next (t.onVx n fun x => { x with cmdAddr := (s.vxOf n).cmdAddr }) := by simp only [runVertexCommand, h]

/-- A Lattice unit runs the command of the word that it holds. -/
theorem runLatticeCommand_busy (h : (s.unitOf u).busy = some v) : runLatticeCommand u s =
    andThen (latticeOp u v (s.onUnit u fun x => { x with busy := none, cmdAddr := x.cmdAt })) fun t =>
      .next (t.onUnit u fun x => { x with cmdAddr := (s.unitOf u).cmdAddr }) := by simp only [runLatticeCommand, h]

/-- START_OP 1 and 2 act elsewhere, with what the start finds. -/
theorem startOpInvalid_start (h : bits v.toNat 1 0 = 1 ∨ bits v.toNat 1 0 = 2) :
    exec (.startOpInvalid (v.setWidth 2)) s = .next s := by
  have hop : (v.setWidth 2 : BitVec 2).toNat = bits v.toNat 1 0 := rfl
  refine if_pos (.inr (h.imp (fun h => ?_) fun h => ?_)) <;> exact BitVec.eq_of_toNat_eq (hop.trans h)

/-- Settles O12: the block that the offset names, then what the block does at the register. -/
theorem registerWrites : Obligations.RegisterWrites := by
  intro s n u v k hn hu
  obtain ⟨evict, cancel, enable, flushImage, replay⟩ := dcuOp_commands n v s
  obtain ⟨tload, tdrop, tread, hotload, hotflush, skclr⟩ := pbcOp_commands n v s
  obtain ⟨attest, remove, barrier, trustEvict, logclr⟩ := trustOp_commands v s
  obtain ⟨initSync, initPhaser, freeObject, readObject, breakPhaser⟩ :=
    vertexOp_commands n v (s.onVx n fun x => { x with busy := none, cmdAddr := x.cmdAt })
  obtain ⟨rinit, rfree, rread, rflush, rabort⟩ :=
    latticeOp_commands u v (s.onUnit u fun x => { x with busy := none, cmdAddr := x.cmdAt })
  obtain ⟨seen, cleared⟩ := writeHbm_hashErr n v s
  obtain ⟨hotRefused, hotTaken⟩ := writeHotWord_cases (s := s) (v := v) hn
  refine ⟨fun off h => registerWrite_unaligned h, ?readOnly,
    fun h => registerWrite_dcu hn 0x18 (evict h),
    fun h => registerWrite_dcu hn 0x18 (cancel h),
    fun h => registerWrite_dcu hn 0x18 (enable h),
    fun h => registerWrite_dcu hn 0x18 (flushImage h),
    fun h => registerWrite_dcu hn 0x18 (replay h),
    fun hk h => registerWrite_dcu hn _ (writeDcu_bind hk h) (Nat.add_assoc ..) (by omega),
    fun hk h => registerWrite_dcu hn _ (writeDcu_unbind hk h) (Nat.add_assoc ..) (by omega),
    fun hk => registerWrite_dcu hn _ (writeDcu_doorbell hk) (Nat.add_assoc ..) (by omega),
    registerWrite_dcu hn 0 rfl, registerWrite_dcu hn 0x10 rfl, registerWrite_dcu hn 8 rfl,
    registerWrite_dcu hn 0xA000 rfl, registerWrite_dcu hn 0xA008 rfl, registerWrite_dcu hn 0xA018 rfl,
    registerWrite_dcu hn 0xA038 rfl, registerWrite_dcu hn 0xA028 rfl,
    fun hk => registerWrite_hbm hn _ (writeHbm_hashm hk) rfl (by omega),
    ⟨fun h => registerWrite_hbm hn 0x80 (seen h), fun h => registerWrite_hbm hn 0x80 (cleared h)⟩,
    registerWrite_vertex hn 0 rfl, registerWrite_vertex hn 8 rfl, registerWrite_vertex hn 0x10 rfl,
    registerWrite_vertex hn 0x20 rfl, registerWrite_vertex hn 0x18 rfl,
    fun h hb => (runVertexCommand_busy hb).trans (congrArg (andThen · _) (initSync h)),
    fun h hb => (runVertexCommand_busy hb).trans (congrArg (andThen · _) (initPhaser h)),
    fun h hb => (runVertexCommand_busy hb).trans (congrArg (andThen · _) (freeObject h)),
    fun h hb => (runVertexCommand_busy hb).trans (congrArg (andThen · _) (readObject h)),
    fun h hb => (runVertexCommand_busy hb).trans (congrArg (andThen · _) (breakPhaser h)),
    registerWrite_pbc hn 0 rfl, registerWrite_pbc hn 0x10 rfl,
    ⟨fun h => registerWrite_pbc hn 8 (hotRefused h), fun h => registerWrite_pbc hn 8 (hotTaken h)⟩,
    registerWrite_pbc hn 0x18 rfl, registerWrite_pbc hn 0x20 rfl, registerWrite_pbc hn 0x30 rfl,
    fun hk => ?sketch,
    fun h => registerWrite_pbc hn 0x28 (tload h),
    fun h => registerWrite_pbc hn 0x28 (tdrop h),
    fun h => registerWrite_pbc hn 0x28 (tread h),
    fun h => registerWrite_pbc hn 0x28 (hotload h),
    fun h => registerWrite_pbc hn 0x28 (hotflush h),
    fun h => registerWrite_pbc hn 0x28 (skclr h),
    registerWrite_lattice hu 0 rfl, registerWrite_lattice hu 8 rfl,
    fun h hb => (runLatticeCommand_busy hb).trans (congrArg (andThen · _) (rinit h)),
    fun h hb => (runLatticeCommand_busy hb).trans (congrArg (andThen · _) (rfree h)),
    fun h hb => (runLatticeCommand_busy hb).trans (congrArg (andThen · _) (rread h)),
    fun h hb => (runLatticeCommand_busy hb).trans (congrArg (andThen · _) (rflush h)),
    fun h hb => (runLatticeCommand_busy hb).trans (congrArg (andThen · _) (rabort h)),
    fun hk => ?nrank, fun hk => ?rank, fun hk => ?peer,
    registerWrite_trust 0x10 rfl, registerWrite_trust 0x18 rfl, registerWrite_trust 0x20 rfl,
    fun hk => ?member,
    fun h => registerWrite_trust 0x28 (attest h),
    fun h => registerWrite_trust 0x28 (remove h),
    fun h => registerWrite_trust 0x28 (barrier h),
    fun h => registerWrite_trust 0x28 (trustEvict h),
    fun h => registerWrite_trust 0x28 (logclr h),
    registerWrite_control 0x10 rfl, registerWrite_control 0x18 rfl, registerWrite_control 0 rfl,
    fun h => registerWrite_control 0 (startOpInvalid_start h),
    registerWrite_control 0x20 rfl, fun hk => ?rail, registerWrite_control 0x30 rfl, registerWrite_control 0x40 rfl,
    registerWrite_control 0x50 rfl, registerWrite_control 0x60 rfl⟩
  case readOnly =>
    simp only [List.forall_mem_cons]
    exact ⟨registerWrite_dcu hn 0x20 rfl, registerWrite_dcu hn 0xA010 rfl, registerWrite_dcu hn 0xA020 rfl,
      registerWrite_hbm hn 0x100 rfl, registerWrite_vertex hn 0x28 rfl, registerWrite_pbc hn 0x38 rfl,
      registerWrite_lattice hu 0x10 rfl, registerWrite_lattice hu 0x18 rfl, registerWrite_lattice hu 0x20 rfl,
      registerWrite_lattice hu 0x28 rfl, registerWrite_exchange 0 rfl, registerWrite_exchange 8 rfl,
      registerWrite_exchange 0x10 rfl, registerWrite_trust 0 rfl, registerWrite_trust 8 rfl,
      registerWrite_trust 0x30 rfl, registerWrite_trust 0x38 rfl, registerWrite_trust 0x40 rfl,
      registerWrite_trust 0x48 rfl, registerWrite_trust 0x1000 rfl, registerWrite_control 8 rfl,
      registerWrite_control 0x28 rfl, registerWrite_control 0x38 rfl, registerWrite_control 0x48 rfl,
      registerWrite_control 0x58 rfl, registerWrite_control 0x100 rfl, registerWrite_control 0x300 rfl,
      registerWrite_control 0x388 rfl, registerWrite_control 0x400 rfl, by simp⟩
  case sketch =>
    obtain ⟨t, ht, hkeep⟩ := writePbc_sketch (s := s) (v := v) hn hk
    exact ⟨t, registerWrite_pbc hn _ ht (Nat.add_assoc ..) (by omega), hkeep⟩
  case nrank => exact registerWrite_exchange (0x8000 + 8 * k) (writeExchange_nrank hk) (by omega) (by omega)
  case rank =>
    obtain ⟨t, ht, hkeep⟩ := writeExchange_rank (s := s) (v := v) hk
    exact ⟨t, registerWrite_exchange (0x10000 + 8 * k) ht (by omega) (by omega), hkeep⟩
  case peer =>
    obtain ⟨t, ht, hkeep⟩ := writeExchange_peer (s := s) (v := v) hk
    exact ⟨t, registerWrite_exchange (0x20000 + 16 * k) ht (by omega) (by omega), hkeep⟩
  case member => exact registerWrite_trust (0x100 + 16 * k) (writeTrust_member hk) (by omega) (by omega)
  case rail =>
    obtain ⟨t, ht, hkeep⟩ := writeControl_rail (s := s) (v := v) hk
    exact ⟨t, registerWrite_control (0x200 + 8 * k) ht (by omega) (by omega), hkeep⟩

end Sys2Proof.Machine
end

section
/-!
REFUTATION of O39. The statement ranges over every table of doorbell slots, and one that is not in the canonical form
(Machine/Store.lean) reads differently once `State.tidy` has dropped its reset entries: an UNBIND of an unbound slot then uncovers
an entry that stood hidden behind one of them.
-/

namespace Sys2Proof.Machine

/-- An entry for slot 3 that binds, hidden behind a reset entry for slot 5: slot 3 reads as reset. -/
def hiddenSlots : Store BindSlot := [(5, .reset), (3, ⟨0, true, false, false, 0⟩)]

/-- The state at reset but for the slots of DCU 0. -/
def hiddenState : State := State.reset.onDcu 0 fun d => { d with slots := hiddenSlots }

theorem hiddenState_slot : (hiddenState.dcu 0).slot 3 = .reset := by decide +kernel

/-- The UNBIND of slot 3 leaves it VALID. -/
theorem hiddenState_unbind : ∃ t, exec (.unbind 0 ⟨3, 0⟩) hiddenState = .next t ∧ ((t.dcu 0).slot 3).valid = true :=
  ⟨_, rfl, by decide +kernel⟩

/-- Refutes O39: an UNBIND of slot 3 of `hiddenState`, which reads as reset, leaves it VALID. -/
theorem not_doorbellSlots : ¬ Obligations.DoorbellSlots := by
  intro h
  obtain ⟨-, -, -, -, hunbind, -⟩ := h hiddenState 0 3 0 0 0 0 (by decide) (by decide)
  rw [hiddenState_slot] at hunbind
  obtain ⟨t, ht, hreset⟩ := hunbind rfl rfl
  obtain ⟨u, hu, hvalid⟩ := hiddenState_unbind
  obtain rfl : t = u := Host.Outcome.next.inj (ht.symm.trans hu)
  cases (congrArg BindSlot.valid hreset).symm.trans hvalid

end Sys2Proof.Machine
end

section
/-!
PROOF of O40: the commands of a DCU, each by what it makes of the regions that its identifier names, or of the core.
-/

namespace Sys2Proof.Machine

variable {s : State} {die : Nat} {id : BitVec 32}

theorem State.command_acts (hd : die < 8) (hb : (s.dcu die).busy = false) (f : State → State) :
    s.command die f = .next (f s) := by
  have h : ¬ (8 ≤ die ∨ (s.dcu die).busy = true) := by simp [hb, Nat.not_le.2 hd]
  exact if_neg h

theorem State.dcu_dcuRes (s : State) (hd : die < 8) (r : BitVec 4) : (s.dcuRes die r).dcu die = { s.dcu die with res := r } :=
  s.dcu_onDcu die _ hd

theorem State.dcuRes_frame (s : State) (die : Nat) (r : BitVec 4) : s.dcuRes die r = { s with dcus := (s.dcuRes die r).dcus } :=
  s.onDcu_frame ..

@[simp] theorem State.dcuRes_cores (s : State) (die : Nat) (r : BitVec 4) : (s.dcuRes die r).cores = s.cores := s.onDcu_cores ..
@[simp] theorem State.dcuRes_regions (s : State) (die : Nat) (r : BitVec 4) : (s.dcuRes die r).regions = s.regions :=
  s.onDcu_regions ..

/-! ### CANCEL (R41) -/

/-- What a CANCEL with mark `m` makes of a region. -/
def Region.cancelled (m : BitVec 32) (r : Region) : Region :=
  let marked := { r with mark := if r.jqHead = m then none else some m
                         cards := r.cards.map fun (c : Card) =>
                           if belowMark m c.idx then { c with stop := true, kept := c.kept || r.keeps c } else c }
  (marked.without fun e => belowMark m e.cardIdx).settle

/-- `q` is the region `r` with every card below the mark ended and its evicted tasks gone. -/
def Region.endedBelow (m : BitVec 32) (r q : Region) : Prop :=
  q.mark = (if r.jqHead = m then none else some m) ∧ q.jqHead = r.jqHead ∧ q.jqTail = r.jqTail ∧
  (∀ c ∈ q.cards, belowMark m c.idx = true → c.stop = true) ∧
  ∀ e, e ∈ q.evicted ↔ e ∈ r.evicted ∧ belowMark m e.cardIdx = false

@[simp] theorem Region.settle_mark (r : Region) : r.settle.mark = r.mark := by unfold Region.settle; split <;> rfl
@[simp] theorem Region.settle_jqHead (r : Region) : r.settle.jqHead = r.jqHead := by unfold Region.settle; split <;> rfl
@[simp] theorem Region.settle_jqTail (r : Region) : r.settle.jqTail = r.jqTail := by unfold Region.settle; split <;> rfl

theorem Region.cancelled_endedBelow (m : BitVec 32) (r : Region) : r.endedBelow m (r.cancelled m) := by
  refine ⟨Region.settle_mark _, Region.settle_jqHead _, Region.settle_jqTail _, fun c hc hm => ?_, fun e => ?_⟩
  · rw [Region.cancelled, Region.settle_cards] at hc
    obtain ⟨d, -, rfl⟩ := List.mem_map.1 hc
    split_ifs at hm ⊢ with hd
    · rfl
    · exact absurd hm hd
  · rw [Region.cancelled, Region.settle_evicted]
    simp [Region.without, List.mem_filter]

theorem Region.endedBelow_trans {m : BitVec 32} {r q p : Region} (h : r.endedBelow m q) (k : q.endedBelow m p) :
    r.endedBelow m p := by
  obtain ⟨-, hhead, htail, -, hevicted⟩ := h
  obtain ⟨kmark, khead, ktail, kcards, kevicted⟩ := k
  refine ⟨hhead ▸ kmark, khead.trans hhead, ktail.trans htail, kcards, fun e => ?_⟩
  rw [kevicted, hevicted, and_assoc, and_self]

/-- However often it is cancelled, once or more. -/
theorem Region.iterate_cancelled_endedBelow (m : BitVec 32) (r : Region) (k : Nat) :
    r.endedBelow m ((Region.cancelled m)^[k + 1] r) := by
  induction k with
  | zero => exact r.cancelled_endedBelow m
  | succ k ih =>
    rw [Function.iterate_succ_apply']
    exact Region.endedBelow_trans ih (Region.cancelled_endedBelow ..)

theorem State.region?_discard (s : State) (a b : Nat) (gone : Evicted → Bool) :
    (s.discard b gone).region? a = if b = a then (s.region? a).map (·.without gone) else s.region? a := by
  refine Eq.trans ?_ (s.region?_onRegion a b (·.without gone))
  unfold State.discard State.onRegion
  split <;> rfl

theorem State.region?_cancelAt (s : State) (a b : Nat) (m : BitVec 32) :
    (s.cancelAt b m).region? a = if b = a then (s.region? a).map (Region.cancelled m) else s.region? a := by
  simp only [State.cancelAt, State.region?_onRegion, State.region?_discard]
  split
  · simp only [Option.map_map, Function.comp_def]
    rfl
  · rfl

@[simp] theorem State.cancelAt_cores (s : State) (a : Nat) (m : BitVec 32) : (s.cancelAt a m).cores = s.cores := by
  simp [State.cancelAt]

@[simp] theorem State.cancelAt_dcus (s : State) (a : Nat) (m : BitVec 32) : (s.cancelAt a m).dcus = s.dcus := by
  simp [State.cancelAt]

/-- The mark of a CANCEL stays the same from one region to the next. -/
theorem State.foldl_cancelAt (l : List Nat) (s : State) (die : Nat) :
    l.foldl (fun s a => s.cancelAt a ((s.dcu die).cmdArg.setWidth 32)) s =
      l.foldl (fun t a => t.cancelAt a ((s.dcu die).cmdArg.setWidth 32)) s := by
  induction l generalizing s with
  | nil => rfl
  | cons a l ih =>
    rw [List.foldl_cons, List.foldl_cons, ih, State.dcu_congr (State.cancelAt_dcus ..)]

theorem State.foldl_cancelAt_frame (l : List Nat) (s : State) (m : BitVec 32) :
    let t := l.foldl (fun t a => t.cancelAt a m) s
    t.cores = s.cores ∧ t.dcus = s.dcus ∧ t.mem = s.mem :=
  List.foldlRecOn (motive := fun t : State => t.cores = s.cores ∧ t.dcus = s.dcus ∧ t.mem = s.mem) l _ ⟨rfl, rfl, rfl⟩
    fun t ⟨hcores, hdcus, hmem⟩ a _ => ⟨by simp [hcores], by simp [hdcus], by simp [hmem]⟩

theorem execCancel_unnamed (hd : die < 8) (hb : (s.dcu die).busy = false) (h : s.regionsNamed die id = []) :
    exec (.cancel die id) s = .next (s.dcuRes die 2) := by
  show execCancel die id s = _
  rw [execCancel, State.command_acts hd hb]
  simp only [h]

theorem execCancel_named (hd : die < 8) (hb : (s.dcu die).busy = false) (h : s.regionsNamed die id ≠ []) :
    exec (.cancel die id) s = .next (((s.regionsNamed die id).foldl
      (fun t a => t.cancelAt a ((s.dcu die).cmdArg.setWidth 32)) s).tidy.dcuRes die 0) := by
  show execCancel die id s = _
  rw [execCancel, State.command_acts hd hb, ← State.foldl_cancelAt]
  simp only []

theorem cancel_ends (hd : die < 8) (hb : (s.dcu die).busy = false) (h : s.regionsNamed die id ≠ []) :
    ∃ t, exec (.cancel die id) s = .next t ∧ ((t.dcu die).res = 0 ∧ (t.dcu die).busy = false) ∧ t.cores = s.cores ∧
      t.mem = s.mem ∧ ∀ a ∈ s.regionsNamed die id, ∀ r q, s.region? a = some r → t.region? a = some q →
        r.endedBelow ((s.dcu die).cmdArg.setWidth 32) q := by
  obtain ⟨hcores, hdcus, hmem⟩ :=
    State.foldl_cancelAt_frame (s.regionsNamed die id) s ((s.dcu die).cmdArg.setWidth 32)
  refine ⟨_, execCancel_named hd hb h, ?_, ?_, ?_, fun a ha r q hr hq => ?_⟩
  · rw [State.dcu_dcuRes _ hd, State.dcu_tidy, State.dcu_congr hdcus]
    exact ⟨rfl, hb⟩
  · exact (State.dcuRes_cores ..).trans hcores
  · exact (State.dcuRes_mem ..).trans hmem
  · obtain ⟨k, hk⟩ := Nat.exists_eq_add_of_lt (List.count_pos_iff.2 ha)
    have hkept := State.region?_tidy ((State.region?_congr (State.dcuRes_regions ..) a).symm.trans hq)
    rw [State.region?_foldl (fun t a b => t.region?_cancelAt a b _), hr, hk, Nat.zero_add] at hkept
    exact Option.some.inj hkept ▸ r.iterate_cancelled_endedBelow _ k

/-! ### ENABLE (R41) -/

/-- What an ENABLE makes of a region. -/
def Region.enabled (r : Region) : Region := if r.rstate.runs then r else { r with rstate := r.activity }

theorem Region.activity_runs (r : Region) : r.activity.runs = true := by unfold Region.activity; split <;> rfl

theorem Region.enabled_idempotent (r : Region) : r.enabled.enabled = r.enabled := by
  by_cases h : r.rstate.runs
  · simp [Region.enabled, h]
  · simp [Region.enabled, h, Region.activity_runs]

theorem Region.enabled_eq (r : Region) : r.enabled = { r with rstate := if r.rstate.runs then r.rstate else r.activity } := by
  unfold Region.enabled
  split <;> rfl

theorem execEnable_unnamed (hd : die < 8) (hb : (s.dcu die).busy = false) (h : s.treeNamed die id = []) :
    exec (.enable die id) s = .next (s.dcuRes die 2) := by
  show execEnable die id s = _
  rw [execEnable, State.command_acts hd hb]
  simp only [h]

theorem execEnable_named (hd : die < 8) (hb : (s.dcu die).busy = false) (h : s.treeNamed die id ≠ []) :
    exec (.enable die id) s = .next (((s.treeNamed die id).foldl (fun t a => t.onRegion a Region.enabled) s).dcuRes die 0) := by
  show execEnable die id s = _
  rw [execEnable, State.command_acts hd hb]
  simp only []
  rfl

theorem State.onRegion_frame (s : State) (a : Nat) (f : Region → Region) :
    s.onRegion a f = { s with regions := (s.onRegion a f).regions } := by unfold State.onRegion; split <;> rfl

theorem State.foldl_onRegion_frame (l : List Nat) (s : State) (f : Region → Region) :
    l.foldl (fun t a => t.onRegion a f) s = { s with regions := (l.foldl (fun t a => t.onRegion a f) s).regions } :=
  List.foldlRecOn (motive := fun t : State => t = { s with regions := t.regions }) l _ rfl fun t ht a _ => by
    rw [State.onRegion_frame, ht]

theorem enable_enables (hd : die < 8) (hb : (s.dcu die).busy = false) (h : s.treeNamed die id ≠ []) :
    ∃ t, exec (.enable die id) s = .next t ∧ ((t.dcu die).res = 0 ∧ (t.dcu die).busy = false) ∧
      t = { s with dcus := t.dcus, regions := t.regions } ∧
      ∀ a ∈ s.treeNamed die id, ∀ r, s.region? a = some r → t.region? a = some r.enabled := by
  have hframe := State.foldl_onRegion_frame (s.treeNamed die id) s Region.enabled
  refine ⟨_, execEnable_named hd hb h, ?_, ?_, fun a ha r hr => ?_⟩
  · rw [State.dcu_dcuRes _ hd, hframe]
    exact ⟨rfl, hb⟩
  · rw [State.dcuRes_frame, hframe]
  · obtain ⟨k, hk⟩ := Nat.exists_eq_add_of_lt (List.count_pos_iff.2 ha)
    rw [State.region?_congr (State.dcuRes_regions ..), State.region?_foldl (fun t a b => t.region?_onRegion a b _), hr, hk,
      Nat.zero_add]
    exact congrArg some (iterate_idempotent Region.enabled_idempotent k r)

/-! ### EVICT (R41, R46) -/

theorem State.hostEvictable_task {n : Nat} (h : s.hostEvictable n = true) : ∃ k, (s.coreAt n).task = some k := by
  unfold State.hostEvictable at h
  cases hk : (s.coreAt n).task with
  | none => simp [hk] at h
  | some k => exact ⟨k, rfl⟩

theorem execEvict_acts (hd : die < 8) (hb : (s.dcu die).busy = false) : exec (.evict die id) s = .next
    (if 12 ≤ id.toNat then s.dcuRes die 2
    else if !s.hostEvictable (12 * die + id.toNat) then s.dcuRes die 3
    else (s.chooseVictim (12 * die + id.toNat) 3 0).onDcu die fun d =>
      { d with busy := true, evicting := some (12 * die + id.toNat) }) := by
  show execEvict die id s = _
  rw [execEvict, State.command_acts hd hb]

theorem State.chooseVictim_frame (s : State) (n : Nat) (why : EvictReason) (a : Nat) :
    s.chooseVictim n why a = { s with cores := (s.chooseVictim n why a).cores } := s.setCoreAt_frame ..

/-- The task of a core once it is chosen for an eviction. -/
theorem State.coreAt_chooseVictim {n : Nat} {k : Task} (hn : n < 96) (hk : (s.coreAt n).task = some k)
    (why : EvictReason) (a : Nat) :
    (s.chooseVictim n why a).coreAt n =
      { s.coreAt n with task := some { k with evict := some why, evictFor := a, evictAt := s.wall } } := by
  rw [State.chooseVictim, State.coreAt_onCore _ _ _ hn, hk]
  rfl

theorem evict_chooses (hd : die < 8) (hb : (s.dcu die).busy = false) (h : id.toNat < 12)
    (he : s.hostEvictable (12 * die + id.toNat) = true) :
    ∃ t, exec (.evict die id) s = .next t ∧ (t.dcu die).busy = true ∧ (t.dcu die).evicting = some (12 * die + id.toNat) ∧
      t = { s with cores := t.cores, dcus := t.dcus } ∧ ∃ k, (s.coreAt (12 * die + id.toNat)).task = some k ∧
        t.coreAt (12 * die + id.toNat) = { s.coreAt (12 * die + id.toNat) with
          task := some { k with evict := some 3, evictFor := 0, evictAt := s.wall } } := by
  obtain ⟨k, hk⟩ := State.hostEvictable_task he
  have hn : 12 * die + id.toNat < 96 := by omega
  have hacts := execEvict_acts (id := id) hd hb
  rw [if_neg (Nat.not_le.2 h), if_neg (by simp [he])] at hacts
  refine ⟨_, hacts, ?_, ?_, ?_, k, hk, ?_⟩
  · exact congrArg Dcu.busy (State.dcu_onDcu _ _ _ hd)
  · exact congrArg Dcu.evicting (State.dcu_onDcu _ _ _ hd)
  · rw [State.onDcu_frame, State.chooseVictim_frame]
  · rw [State.coreAt_congr (State.onDcu_cores ..) hn, State.coreAt_chooseVictim hn hk]

/-! ### FLUSH_IMAGE (R41, R50) -/

/-- A core without the resident tag `tag`. -/
def Core.flushed (tag : Word) (c : Core) : Core :=
  if c.image.tag = tag then { c with image := { c.image with tag := 0 } } else c

theorem Core.flushed_idempotent (tag : Word) (c : Core) : (c.flushed tag).flushed tag = c.flushed tag := by
  unfold Core.flushed
  by_cases h : c.image.tag = tag
  · simp only [if_pos h]
    exact ite_self _
  · simp only [if_neg h]

theorem execFlushImage_next (hd : die < 8) (hb : (s.dcu die).busy = false) : exec (.flushImage die) s = .next
    (((List.range 12).foldl (fun t k => t.onCore (12 * die + k) (Core.flushed (s.dcu die).cmdArg)) s).dcuRes die 0) := by
  show execFlushImage die s = _
  rw [execFlushImage, State.command_acts hd hb]
  rfl

theorem State.foldl_onCore_frame {ι : Type} (g : ι → Nat) (f : Core → Core) (l : List ι) (s : State) :
    l.foldl (fun s i => s.onCore (g i) f) s = { s with cores := (l.foldl (fun s i => s.onCore (g i) f) s).cores } :=
  List.foldlRecOn (motive := fun t : State => t = { s with cores := t.cores }) l _ rfl fun t ht i _ => by
    rw [State.onCore, State.setCoreAt_frame, ht]

theorem mem_coresOf {k : Nat} : k ∈ (List.range 12).map (12 * die + ·) ↔ k / 12 = die := by
  simp only [List.mem_map, List.mem_range]
  exact ⟨fun ⟨j, hj, e⟩ => by omega, fun h => ⟨k % 12, by omega, by omega⟩⟩

theorem flushImage_flushes (hd : die < 8) (hb : (s.dcu die).busy = false) :
    ∃ t, exec (.flushImage die) s = .next t ∧ ((t.dcu die).res = 0 ∧ (t.dcu die).busy = false) ∧
      t = { s with cores := t.cores, dcus := t.dcus } ∧
      ∀ k, k < 96 → t.coreAt k = if k / 12 = die ∧ (s.coreAt k).image.tag = (s.dcu die).cmdArg
        then { s.coreAt k with image := { (s.coreAt k).image with tag := 0 } } else s.coreAt k := by
  have hframe := State.foldl_onCore_frame (12 * die + ·) (Core.flushed (s.dcu die).cmdArg) (List.range 12) s
  refine ⟨_, execFlushImage_next hd hb, ?_, ?_, fun k hk => ?_⟩
  · rw [State.dcu_dcuRes _ hd, hframe]
    exact ⟨rfl, hb⟩
  · rw [State.dcuRes_frame, hframe]
  · rw [State.coreAt_congr (State.dcuRes_cores ..) hk, State.coreAt_foldl_onCore _ _ _ _ hk]
    by_cases hmine : k / 12 = die
    · obtain ⟨j, hj⟩ := Nat.exists_eq_add_of_lt (List.count_pos_iff.2 (mem_coresOf.2 hmine))
      rw [hj, Nat.zero_add, iterate_idempotent (Core.flushed_idempotent _)]
      simp only [Core.flushed, hmine, true_and]
    · rw [List.count_eq_zero.2 (mt mem_coresOf.1 hmine), if_neg (mt And.left hmine)]
      rfl

/-! ### REPLAY (R41, R391) -/

/-- The core that a REPLAY names. -/
def replayCore (die : Nat) (id : BitVec 32) : Nat := 12 * die + id.toNat % 16

theorem replayCore_lt (hd : die < 8) (hc : id.toNat % 16 ≤ 11) : replayCore die id < 96 := by
  unfold replayCore
  omega

theorem dieOf_replayCore (hc : id.toNat % 16 ≤ 11) : dieOf (replayCore die id) = die := by
  unfold dieOf replayCore
  omega

theorem execReplay_noCore (hd : die < 8) (hb : (s.dcu die).busy = false) (hc : 11 < id.toNat % 16) :
    exec (.replay die id) s = .next (s.dcuRes die 2) := by
  show execReplay die id s = _
  rw [execReplay, State.command_acts hd hb]
  exact congrArg _ (if_pos hc)

theorem execReplay_notHeld (hd : die < 8) (hb : (s.dcu die).busy = false) (hc : id.toNat % 16 ≤ 11)
    (h : ∀ k, (s.coreAt (replayCore die id)).task = some k → k.hold = none ∨ k.phase ≠ .faultHold) :
    exec (.replay die id) s = .next (s.dcuRes die 3) := by
  show execReplay die id s = _
  rw [execReplay, State.command_acts hd hb]
  refine congrArg _ ((if_neg (Nat.not_lt.2 hc)).trans ?_)
  rw [show 12 * die + bits id.toNat 3 0 = replayCore die id from rfl]
  cases hk : (s.coreAt (replayCore die id)).task with
  | none => rfl
  | some k =>
    cases hf : k.hold with
    | none => simp only [hf]
    | some f =>
      simp only [hf]
      exact if_neg ((h k hk).resolve_left (by simp [hf]))

theorem execReplay_held (hd : die < 8) (hb : (s.dcu die).busy = false) (hc : id.toNat % 16 ≤ 11) {k : Task} {f : Hold}
    (hk : (s.coreAt (replayCore die id)).task = some k) (hf : k.hold = some f) (hp : k.phase = .faultHold) :
    exec (.replay die id) s = .next ((s.askReplay (replayCore die id) k f).dcuRes die 0) := by
  show execReplay die id s = _
  rw [execReplay, State.command_acts hd hb]
  refine congrArg _ ((if_neg (Nat.not_lt.2 hc)).trans ?_)
  rw [show 12 * die + bits id.toNat 3 0 = replayCore die id from rfl, hk]
  simp only [hf]
  exact if_pos hp

theorem State.askReplay_waits {n : Nat} {f : Hold} (h : s.entryWaits n = true ∨ s.replayHeld n f = true) (k : Task) :
    s.askReplay n k f =
      s.onCore n fun c => { c with task := some { k with hold := some { f with asked := f.asked + 1 } } } :=
  if_pos (by simpa using h)

theorem State.askReplay_acts {n : Nat} {f : Hold} (he : s.entryWaits n = false) (hr : s.replayHeld n f = false) (k : Task) :
    s.askReplay n k f = s.replay n k f := if_neg (by simp [he, hr])

theorem State.walkRead_byHome (s : State) (n va : Nat) (si : BitVec 6) (write : Bool) : s.byHome (s.walkRead n va si write) := by
  unfold State.walkRead
  split
  · exact s.byHome_refl
  · exact State.walked_byHome ..

/-- The state once the walk of a REPLAY has read its entries. -/
def State.replayed (s : State) (n : Nat) (f : Hold) : State := s.walkRead n f.va ((s.heldSeg n f).getD 0) f.write

theorem State.replayed_cores (s : State) (n : Nat) (f : Hold) : (s.replayed n f).cores = s.cores :=
  State.byHome_cores (State.walkRead_byHome ..)

theorem State.replayed_dcus (s : State) (n : Nat) (f : Hold) : (s.replayed n f).dcus = s.dcus :=
  State.byFetch_dcus (State.byHome_byFetch (State.walkRead_byHome ..))

theorem State.replay_found {n : Nat} {f : Hold} {x : TlbEntry}
    (h : s.walkFor n f.va ((s.heldSeg n f).getD 0) f.write = .ok x) (k : Task) :
    s.replay n k f = (s.replayed n f).releaseHold n k f x := by simp only [State.replay, h, State.replayed]

theorem State.replay_again {n : Nat} {f : Hold}
    (h : s.walkFor n f.va ((s.heldSeg n f).getD 0) f.write = .error .invalid) (hf : f.replays < 3) (k : Task) :
    let f1 := { f with replays := f.replays + 1 }
    s.replay n k f = ((s.replayed n f).onCore n fun c => { c with task := some { k with hold := some f1 } }).logPageFault n f1 := by
  simp only [State.replay, h, hf, if_true, State.replayed]

theorem State.replay_fails {n : Nat} {f : Hold}
    (h : s.walkFor n f.va ((s.heldSeg n f).getD 0) f.write = .error .invalid) (hf : 3 ≤ f.replays) (k : Task) :
    s.replay n k f = ((s.replayed n f).failStopped n f.cmd f.va).fatalFault n ((s.coreAt n).heldPc k f) 0x52 4 4
      (s.reachedOf n f.cmd) f.va := by
  simp only [State.replay, h, Nat.not_lt.2 hf, if_false, State.replayed]

/-- An engine's change to a command leaves the task of its core. -/
theorem State.onCmd_task (s : State) {m : Nat} (n q : Nat) (g : Cmd → Cmd) (hm : m < 96) :
    ((s.onCmd n q g).coreAt m).task = (s.coreAt m).task := by
  rw [State.onCmd, State.onUn, State.coreAt_onCore_eq _ _ _ hm]
  split <;> rfl

theorem State.releaseHold_task {n : Nat} (s : State) (hn : n < 96) (k : Task) (f : Hold) (x : TlbEntry) :
    ((s.releaseHold n k f x).coreAt n).task =
      some { k with phase := if f.fromDraining then .draining else .running, hold := none } := by
  unfold State.releaseHold
  cases f.cmd with
  | none => exact congrArg Core.task (State.coreAt_onCore _ _ _ hn)
  | some q => exact (State.onCmd_task _ _ _ _ hn).trans (congrArg Core.task (State.coreAt_onCore _ _ _ hn))

theorem State.failStopped_task {n : Nat} (s : State) (hn : n < 96) (cmd : Option Nat) (va : Nat) :
    ((s.failStopped n cmd va).coreAt n).task = (s.coreAt n).task := by
  cases cmd with
  | none => rfl
  | some q => exact State.onCmd_task _ _ _ _ hn

@[simp] theorem State.failStopped_dcus (s : State) (n : Nat) (cmd : Option Nat) (va : Nat) :
    (s.failStopped n cmd va).dcus = s.dcus := by
  cases cmd with
  | none => rfl
  | some q => exact State.onUn_dcus ..

/-- What the failure of a task hands to the fault log of its die. -/
theorem State.failCore_logs {n : Nat} {k : Task} (hn : dieOf n < 8) (h : (s.coreAt n).task = some k) (pc : BitVec 18)
    (i : FaultInfo) (least : Nat) : ((s.failCore n pc i least).dcu (dieOf n)).flog.queue =
      (s.dcu (dieOf n)).flog.queue ++ [faultRec n (s.coreAt n) k pc i] := by
  unfold State.failCore
  simp only [h]
  rw [State.dcu_congr (State.regionFail_dcus ..), State.evictEnds, State.dcu_onDcu _ _ _ hn,
    State.dcu_congr (State.setCoreAt_dcus ..), State.logFault, State.dcu_onDcu _ _ _ hn]
  split <;> rfl

section
variable (hd : die < 8) (hb : (s.dcu die).busy = false) (hc : id.toNat % 16 ≤ 11) {k : Task} {f : Hold}
  (hk : (s.coreAt (replayCore die id)).task = some k) (hf : k.hold = some f) (hp : k.phase = .faultHold)
include hd hb hc hk hf hp

theorem replay_waits (h : s.entryWaits (replayCore die id) = true ∨ s.replayHeld (replayCore die id) f = true) :
    ∃ t, exec (.replay die id) s = .next t ∧ (t.dcu die).res = 0 ∧ t = { s with cores := t.cores, dcus := t.dcus } ∧
      t.coreAt (replayCore die id) = { s.coreAt (replayCore die id) with
        task := some { k with hold := some { f with asked := f.asked + 1 } } } := by
  have hn := replayCore_lt hd hc
  refine ⟨_, execReplay_held hd hb hc hk hf hp, ?_, ?_, ?_⟩
  · rw [State.dcu_dcuRes _ hd]
  · rw [State.askReplay_waits h, State.dcuRes_frame, State.onCore, State.setCoreAt_frame]
  · rw [State.coreAt_congr (State.dcuRes_cores ..) hn, State.askReplay_waits h, State.coreAt_onCore _ _ _ hn]

variable (he : s.entryWaits (replayCore die id) = false) (hr : s.replayHeld (replayCore die id) f = false)
include he hr

theorem replay_finds {x : TlbEntry}
    (h : s.walkFor (replayCore die id) f.va ((s.heldSeg (replayCore die id) f).getD 0) f.write = .ok x) :
    ∃ t, exec (.replay die id) s = .next t ∧ (t.dcu die).res = 0 ∧ t.mem = (s.replayed (replayCore die id) f).mem ∧
      (t.coreAt (replayCore die id)).task =
        some { k with phase := if f.fromDraining then .draining else .running, hold := none } := by
  have hn := replayCore_lt hd hc
  refine ⟨_, execReplay_held hd hb hc hk hf hp, ?_, ?_, ?_⟩
  · rw [State.dcu_dcuRes _ hd]
  · rw [State.dcuRes_mem, State.askReplay_acts he hr, State.replay_found h, State.releaseHold_mem]
  · rw [State.coreAt_congr (State.dcuRes_cores ..) hn, State.askReplay_acts he hr, State.replay_found h,
      State.releaseHold_task _ hn]

theorem replay_logsAgain
    (h : s.walkFor (replayCore die id) f.va ((s.heldSeg (replayCore die id) f).getD 0) f.write = .error .invalid)
    (hfew : f.replays < 3) :
    ∃ t, exec (.replay die id) s = .next t ∧ (t.dcu die).res = 0 ∧
      (t.coreAt (replayCore die id)).task = some { k with hold := some { f with replays := f.replays + 1 } } ∧
      ∃ e, (t.dcu die).flog.queue = (s.dcu die).flog.queue ++ [e] ∧ e.info.kind = 1 ∧
        e.info.replays = BitVec.ofNat 3 (f.replays + 1) ∧ e.info.faddr = BitVec.ofNat 52 f.va := by
  have hn := replayCore_lt hd hc
  have hdie := dieOf_replayCore (die := die) hc
  have hcore := (s.replayed (replayCore die id) f).coreAt_onCore (replayCore die id)
    (fun c => { c with task := some { k with hold := some { f with replays := f.replays + 1 } } }) hn
  refine ⟨_, execReplay_held hd hb hc hk hf hp, ?_, ?_, ?_⟩
  · rw [State.dcu_dcuRes _ hd]
  · rw [State.coreAt_congr (State.dcuRes_cores ..) hn, State.askReplay_acts he hr, State.replay_again h hfew]
    simp only [State.logPageFault, hcore]
    rw [State.coreAt_congr (State.logFault_cores ..) hn, hcore]
  · rw [State.dcu_dcuRes _ hd, State.askReplay_acts he hr, State.replay_again h hfew]
    simp only [State.logPageFault, hcore, hdie, State.logFault]
    rw [State.dcu_onDcu _ _ _ hd, State.dcu_congr (State.onCore_dcus ..), State.dcu_congr (State.replayed_dcus ..)]
    exact ⟨_, rfl, rfl, rfl, rfl⟩

theorem replay_failsTask
    (h : s.walkFor (replayCore die id) f.va ((s.heldSeg (replayCore die id) f).getD 0) f.write = .error .invalid)
    (hfour : 3 ≤ f.replays) :
    ∃ t, exec (.replay die id) s = .next t ∧ (t.dcu die).res = 0 ∧
      (∃ q, (t.coreAt (replayCore die id)).task = some q ∧ q.phase = .failed) ∧
      ∃ e, (t.dcu die).flog.queue = (s.dcu die).flog.queue ++ [e] ∧ e.info.kind = 0 ∧ e.info.code = 0x52 := by
  have hn := replayCore_lt hd hc
  have hdie := dieOf_replayCore (die := die) hc
  have htask : (((s.replayed (replayCore die id) f).failStopped (replayCore die id) f.cmd f.va).coreAt
      (replayCore die id)).task = some k := by
    rw [State.failStopped_task _ hn, State.coreAt_congr (State.replayed_cores ..) hn, hk]
  refine ⟨_, execReplay_held hd hb hc hk hf hp, ?_, ?_, ?_⟩
  · rw [State.dcu_dcuRes _ hd]
  · rw [State.coreAt_congr (State.dcuRes_cores ..) hn, State.askReplay_acts he hr, State.replay_fails h hfour]
    exact State.failCore_task hn htask ..
  · have hlog := State.failCore_logs (hdie.symm ▸ hd) htask
    rw [hdie, State.dcu_congr (State.failStopped_dcus ..), State.dcu_congr (State.replayed_dcus ..)] at hlog
    rw [State.dcu_dcuRes _ hd, State.askReplay_acts he hr, State.replay_fails h hfour]
    exact ⟨_, hlog .., rfl, rfl⟩

end

/-- Settles O40: each command by what it makes of the regions that it names, or of its core. -/
theorem dcuCommands : Obligations.DcuCommands := by
  intro s die op id hd hb
  refine ⟨?bad, execCancel_unnamed hd hb, cancel_ends hd hb, execEnable_unnamed hd hb, fun h => ?enable, fun h => ?noCore,
    fun h he => ?refused, evict_chooses hd hb, flushImage_flushes hd hb, execReplay_noCore hd hb, execReplay_notHeld hd hb,
    fun k f hc hk hf hp => ⟨replay_waits hd hb hc hk hf hp, fun he hr => ⟨fun x => replay_finds hd hb hc hk hf hp he hr,
      replay_logsAgain hd hb hc hk hf hp he hr, replay_failsTask hd hb hc hk hf hp he hr⟩⟩⟩
  case bad => exact State.command_acts hd hb fun s => s.dcuRes die 1
  case enable =>
    obtain ⟨t, ht, hdone, hframe, hregions⟩ := enable_enables hd hb h
    exact ⟨t, ht, hdone, hframe, fun a ha r hr => (hregions a ha r hr).trans (congrArg some r.enabled_eq)⟩
  case noCore => exact (execEvict_acts hd hb).trans (congrArg _ (if_pos h))
  case refused =>
    exact (execEvict_acts hd hb).trans (congrArg _ ((if_neg (Nat.not_le.2 h)).trans (if_pos (by rw [he]; rfl))))

end Sys2Proof.Machine
end

section
/-!
PROOF of O41: the reading of a job card, what a dispatch decision comes to, the period boundary, and the report of pinned cycles.
-/

namespace Sys2Proof.Machine

variable {s : State} {die : Nat}

/-! ### Job cards (R39, R42) -/

/-- What is read of a region once it has taken its next card. -/
theorem Region.take_spec (r : Region) (raw : BitVec 1024) :
    ∃ c, (r.take raw).jqHead = r.jqHead + 1 ∧ (r.take raw).cards = r.cards ++ [c] ∧ (r.take raw).jqTail = r.jqTail ∧
      c.idx = r.jqHead ∧ c.raw = raw ∧ c.valid = !cardInvalid c.raw ∧ c.next = 0 ∧ c.running = 0 :=
  ⟨_, Region.settle_jqHead _, Region.settle_cards _, Region.settle_jqTail _, rfl, rfl, rfl, rfl, rfl⟩

section
variable {slot : Nat} {r : Region} (hv : ((s.dcu die).slot slot).valid = true)
  (hr : s.region? ((s.dcu die).slot slot).addr.toNat = some r) (hdue : r.cardDue = true)
include hv hr hdue

theorem execJobCardRead_due : exec (.jobCardRead die slot) s =
    let a := r.jqBase + 128 * (r.jqHead.toNat % 2 ^ r.jqLog2)
    let y := s.dcuRead a 128
    if s.dcuHeld a 128 then .next s
    else if y.2.2 then
      .next ((y.1.demandPoison s a 128).putRegion ((s.dcu die).slot slot).addr.toNat { r with rstate := .qerror })
    else .next (y.1.putRegion ((s.dcu die).slot slot).addr.toNat (r.take (BitVec.ofNat 1024 y.2.1))) := by
  show execJobCardRead die slot s = _
  simp only [execJobCardRead, hv, hr, hdue, Bool.not_true, Bool.false_eq_true, if_false]

theorem jobCardRead_takes
    (hh : s.dcuHeld (r.jqBase + 128 * (r.jqHead.toNat % 2 ^ r.jqLog2)) 128 = false)
    (hp : (s.dcuRead (r.jqBase + 128 * (r.jqHead.toNat % 2 ^ r.jqLog2)) 128).2.2 = false) :
    let got := s.dcuRead (r.jqBase + 128 * (r.jqHead.toNat % 2 ^ r.jqLog2)) 128
    ∃ t, exec (.jobCardRead die slot) s = .next t ∧ t = { got.1 with regions := t.regions } ∧
      ∃ q c, t.region? ((s.dcu die).slot slot).addr.toNat = some q ∧ q.jqHead = r.jqHead + 1 ∧ q.cards = r.cards ++ [c] ∧
        q.jqTail = r.jqTail ∧ c.idx = r.jqHead ∧ c.raw = BitVec.ofNat 1024 got.2.1 ∧ c.valid = !cardInvalid c.raw ∧
        c.next = 0 ∧ c.running = 0 := by
  obtain ⟨c, hc⟩ := r.take_spec (BitVec.ofNat 1024 (s.dcuRead (r.jqBase + 128 * (r.jqHead.toNat % 2 ^ r.jqLog2)) 128).2.1)
  exact ⟨_, (execJobCardRead_due hv hr hdue).trans ((if_neg (Bool.eq_false_iff.1 hh)).trans (if_neg (Bool.eq_false_iff.1 hp))),
    rfl, _, c, State.region?_putRegion .., hc⟩

theorem jobCardRead_poisoned
    (hh : s.dcuHeld (r.jqBase + 128 * (r.jqHead.toNat % 2 ^ r.jqLog2)) 128 = false)
    (hp : (s.dcuRead (r.jqBase + 128 * (r.jqHead.toNat % 2 ^ r.jqLog2)) 128).2.2 = true) :
    ∃ t, exec (.jobCardRead die slot) s = .next t ∧
      t.region? ((s.dcu die).slot slot).addr.toNat = some { r with rstate := .qerror } :=
  ⟨_, (execJobCardRead_due hv hr hdue).trans ((if_neg (Bool.eq_false_iff.1 hh)).trans (if_pos hp)),
    State.region?_putRegion ..⟩

theorem jobCardRead_held
    (hh : s.dcuHeld (r.jqBase + 128 * (r.jqHead.toNat % 2 ^ r.jqLog2)) 128 = true) :
    exec (.jobCardRead die slot) s = .next s := (execJobCardRead_due hv hr hdue).trans (if_pos hh)

end

/-! ### The region that is served, and the core it gets (R45, R46) -/

/-- A candidate served before another is of no lower priority. -/
theorem State.before_effPrio {x y : Candidate} :
    (s.before die x y = true → effPrio y.2 ≤ effPrio x.2) ∧ (s.before die x y = false → effPrio x.2 ≤ effPrio y.2) := by
  unfold State.before
  by_cases h : effPrio x.2 = effPrio y.2
  · exact ⟨fun _ => h.ge, fun _ => h.le⟩
  · rw [if_pos h]
    exact ⟨fun hb => (of_decide_eq_true hb).le, fun hb => Nat.not_lt.1 (of_decide_eq_false hb)⟩

theorem State.chooseFrom_highest {l : List Candidate} {x : Candidate} (h : s.chooseFrom die l = some x) :
    x ∈ l ∧ ∀ y ∈ l, effPrio y.2 ≤ effPrio x.2 := by
  induction l generalizing x with
  | nil => cases h
  | cons z l ih =>
    rw [State.chooseFrom] at h
    cases hl : s.chooseFrom die l with
    | none =>
      simp only [hl, Option.some.injEq] at h
      subst h
      cases l with
      | nil => simp
      | cons w l =>
        rw [State.chooseFrom] at hl
        split at hl
        · cases hl
        · split at hl <;> cases hl
    | some w =>
      obtain ⟨hmem, hmax⟩ := ih hl
      simp only [hl] at h
      split at h
      next hb =>
        cases h
        exact ⟨List.mem_cons_of_mem _ hmem, List.forall_mem_cons.2 ⟨State.before_effPrio.1 hb, hmax⟩⟩
      next hb =>
        cases h
        have hle := State.before_effPrio.2 (Bool.not_eq_true _ ▸ hb)
        exact ⟨List.mem_cons_self, List.forall_mem_cons.2 ⟨le_rfl, fun y hy => (hmax y hy).trans hle⟩⟩

theorem State.mem_candidates {x : Candidate} (h : x ∈ s.candidates die) : x.2 = s.chain x.1 ∧ eligible die x.2 = true := by
  unfold State.candidates at h
  split at h
  · obtain ⟨hx, he⟩ := List.mem_filter.1 h
    obtain ⟨y, -, rfl⟩ := List.mem_map.1 hx
    exact ⟨rfl, he⟩
  · cases h

theorem State.mem_freeCores {n : Nat} (h : n ∈ s.freeCores die) : n / 12 = die ∧ (s.coreAt n).task = none := by
  obtain ⟨hn, hfree⟩ := List.mem_filter.1 h
  exact ⟨mem_coresOf.1 hn, Option.isNone_iff_eq_none.1 hfree⟩

theorem State.coreFor_free {tag : Word} {n : Nat} (h : s.coreFor die tag = some n) :
    n / 12 = die ∧ (s.coreAt n).task = none := by
  unfold State.coreFor at h
  split at h
  next m hm =>
    cases h
    exact State.mem_freeCores (List.mem_of_find?_eq_some hm)
  next => exact State.mem_freeCores (List.mem_of_head? h)

/-- What stands behind a decision to serve a region. -/
theorem State.decision_serve {n a prio : Nat} {r : Region} {c : Card} {x : Ready}
    (h : s.decision die = .serve n a prio r c x) :
    n / 12 = die ∧ (s.coreAt n).task = none ∧ (s.dcu die).dispatched ≠ some s.wall ∧ eligible die (s.chain a) = true ∧
      prio = effPrio (s.chain a) ∧ (∀ y ∈ s.candidates die, effPrio y.2 ≤ prio) := by
  unfold State.decision at h
  cases hx : s.chooseFrom die (s.candidates die) with
  | none => simp [hx] at h
  | some y =>
    obtain ⟨hmem, hmax⟩ := State.chooseFrom_highest hx
    obtain ⟨hchain, helig⟩ := State.mem_candidates hmem
    simp only [hx] at h
    split at h
    · cases h
    · split at h
      · cases h
      · split at h
        next hcore _ =>
          split at h
          · cases h
          next hlate =>
            cases h
            obtain ⟨hn, hfree⟩ := State.coreFor_free hcore
            exact ⟨hn, hfree, hlate, hchain ▸ helig, congrArg effPrio hchain, hmax⟩
        · cases h
        · split at h <;> cases h

/-! ### A task starts (R45, R53) -/

theorem State.acquire_byTraffic (s : State) (die : Nat) (domain : Bool) : s.byTraffic (s.acquire die domain) :=
  State.foldl_byTraffic (fun t _ => t.setSector_byTraffic ..) _ s

/-- Withdrawing the choices of victims leaves a free core as it is. -/
theorem State.withdraw_coreAt {n : Nat} (hn : n < 96) (h : (s.coreAt n).task = none) (die a : Nat) :
    (s.withdraw die a).coreAt n = s.coreAt n := by
  refine List.foldlRecOn (motive := fun t : State => t.coreAt n = s.coreAt n) _ _ rfl fun t ht k _ => ?_
  split
  · rw [State.coreAt_onCore_eq _ _ _ hn, ht]
    split
    · simp only [Core.keepTask, h, Option.map_none]
      rw [← h]
    · rfl
  · exact ht

/-- What a core is once a ready task is bound to it, and its die's last dispatch. -/
theorem State.start_spec {n : Nat} (hd : die < 8) (hn : n < 96) (h : (s.coreAt n).task = none) (a prio : Nat) (r : Region)
    (c : Card) (x : Ready) :
    ∃ t e, (s.start die n a prio r c x).coreAt n = (s.coreAt n).bind (newTask a r c t n s.norder e) e ∧
      ((s.start die n a prio r c x).dcu die).dispatched = some s.wall := by
  have hbound : ∀ (u : State) (k : Task) (e : Option Evicted), u.cores = s.cores →
      (((u.withdraw die a).onCore n fun q => q.bind k e).coreAt n) = (s.coreAt n).bind k e := fun u k e hu => by
    have hfree : u.coreAt n = s.coreAt n := State.coreAt_congr hu hn
    rw [State.coreAt_onCore _ _ _ hn, State.withdraw_coreAt hn (hfree ▸ h), hfree]
  refine ⟨_, _, (State.coreAt_congr (State.onDcu_cores ..) hn).trans (hbound _ _ _ ?_),
    congrArg Dcu.dispatched (State.dcu_onDcu _ _ _ hd)⟩
  refine (State.putRegion_cores ..).trans ?_
  split
  · exact State.byTraffic_cores (State.acquire_byTraffic ..)
  · rfl
  · rfl

theorem dispatchDecision_serves (hd : die < 8) {n a prio : Nat} {r : Region} {c : Card} {x : Ready}
    (h : s.decision die = .serve n a prio r c x) : ∃ t, exec (.dispatchDecision die) s = .next t ∧
      n / 12 = die ∧ (s.coreAt n).task = none ∧ (s.dcu die).dispatched ≠ some s.wall ∧
      (t.dcu die).dispatched = some s.wall ∧ eligible die (s.chain a) = true ∧ prio = effPrio (s.chain a) ∧
      (∀ y ∈ s.candidates die, effPrio y.2 ≤ prio) ∧
      (∃ k, (t.coreAt n).task = some k ∧ k.phase = .loading ∧ k.rcb = a ∧ k.cardIdx = c.idx ∧ k.card = c.raw ∧
        k.regionId = r.id) ∧
      (t.coreAt n).timed.regs = (s.coreAt n).timed.regs ∧ (t.coreAt n).image = (s.coreAt n).image ∧
      (t.coreAt n).un.queue = [] ∧ (t.coreAt n).un.tlb = [] := by
  obtain ⟨hn, hfree, hlate, helig, hprio, hmax⟩ := State.decision_serve h
  obtain ⟨i, e, hcore, hdisp⟩ := State.start_spec hd (by omega) hfree a prio r c x
  have hexec : exec (.dispatchDecision die) s = .next (s.start die n a prio r c x) := by
    show execDispatchDecision die s = _
    simp only [execDispatchDecision, h]
  refine ⟨_, hexec, hn, hfree, hlate, hdisp, helig, hprio, hmax, ?_⟩
  rw [hcore]
  exact ⟨⟨_, rfl, rfl, rfl, rfl, rfl, rfl⟩, rfl, rfl, rfl, rfl⟩

/-! ### A victim is chosen (R46) -/

theorem pickBest_mem {better : Nat → Nat → Bool} {l : List Nat} {x : Nat} (h : pickBest better l = some x) : x ∈ l := by
  induction l generalizing x with
  | nil => cases h
  | cons z l ih =>
    rw [pickBest] at h
    split at h
    · cases h
      exact List.mem_cons_self
    next w hw =>
      split at h
      · cases h
        exact List.mem_cons_of_mem _ (ih hw)
      · cases h
        exact List.mem_cons_self

/-- A victim is a core of the die that the dispatcher may choose. -/
theorem State.victim_evictable {c : Candidate} {n : Nat} {why : EvictReason} (h : s.victim die c = some (n, why)) :
    n / 12 = die ∧ s.evictable n = true := by
  have hrun : ∀ m, m ∈ (((List.range 12).map fun k => 12 * die + k).filter s.evictable) →
      m / 12 = die ∧ s.evictable m = true :=
    fun m hm => ⟨mem_coresOf.1 (List.mem_filter.1 hm).1, (List.mem_filter.1 hm).2⟩
  unfold State.victim at h
  simp only [] at h
  split at h
  next m hm =>
    cases h
    exact hrun _ (List.mem_filter.1 (pickBest_mem hm)).1
  next =>
    split at h
    · cases h
    · obtain ⟨m, hm, he⟩ := Option.map_eq_some_iff.1 h
      cases he
      exact hrun _ (List.mem_filter.1 (pickBest_mem hm)).1

theorem State.forceFor_evictable {l : List Candidate} {n a : Nat} {why : EvictReason}
    (h : s.forceFor die l = some (n, why, a)) : n / 12 = die ∧ s.evictable n = true := by
  induction l with
  | nil => cases h
  | cons c l ih =>
    rw [State.forceFor] at h
    split at h
    · exact ih h
    · split at h
      next hv =>
        cases h
        exact State.victim_evictable hv
      · exact ih h

theorem State.evictable_running {n : Nat} (h : s.evictable n = true) :
    ∃ k, (s.coreAt n).task = some k ∧ k.phase = .running := by
  unfold State.evictable at h
  cases hk : (s.coreAt n).task with
  | none => simp [hk] at h
  | some k =>
    simp only [hk, Bool.and_eq_true, beq_iff_eq] at h
    obtain ⟨⟨⟨⟨hrunning, -⟩, -⟩, -⟩, -⟩ := h
    exact ⟨k, rfl, hrunning⟩

theorem State.decision_evict {n a : Nat} {why : EvictReason} (h : s.decision die = .evict n why a) :
    n / 12 = die ∧ s.evictable n = true := by
  unfold State.decision at h
  split at h
  · cases h
  · split at h
    · cases h
    · split at h
      · cases h
      · split at h
        · split at h <;> cases h
        · cases h
        · split at h
          · cases h
          next hforce =>
            cases h
            exact State.forceFor_evictable hforce

theorem dispatchDecision_evicts (hd : die < 8) {n a : Nat} {why : EvictReason} (h : s.decision die = .evict n why a) :
    ∃ t, exec (.dispatchDecision die) s = .next t ∧ t = { s with cores := t.cores } ∧
      (∀ m, m < 96 → m ≠ n → t.coreAt m = s.coreAt m) ∧ ∃ k, (s.coreAt n).task = some k ∧ k.phase = .running ∧
        t.coreAt n = { s.coreAt n with task := some { k with evict := some why, evictFor := a, evictAt := s.wall } } := by
  obtain ⟨hn, hev⟩ := State.decision_evict h
  obtain ⟨k, hk, hrunning⟩ := State.evictable_running hev
  have hexec : exec (.dispatchDecision die) s = .next (s.chooseVictim n why a) := by
    show execDispatchDecision die s = _
    simp only [execDispatchDecision, h]
  exact ⟨_, hexec, State.chooseVictim_frame .., fun m hm hne => State.coreAt_setCoreAt_other _ _ _ _ hne hm, k, hk, hrunning,
    State.coreAt_chooseVictim (by omega) hk ..⟩

/-! ### The period boundary (R33, R35, R36) -/

/-- The period and its clock are as before, and so is USED of every region held before. -/
def State.keepsPools (s t : State) : Prop :=
  t.boundary = s.boundary ∧ t.period = s.period ∧ t.wall = s.wall ∧
    ∀ a r, s.region? a = some r → ∃ q, t.region? a = some q ∧ q.used = r.used

theorem State.keepsPools_refl (s : State) : s.keepsPools s := ⟨rfl, rfl, rfl, fun _ r h => ⟨r, h, rfl⟩⟩

theorem State.keepsPools_trans {s t u : State} (h : s.keepsPools t) (k : t.keepsPools u) : s.keepsPools u := by
  obtain ⟨hb, hp, hw, hused⟩ := h
  obtain ⟨kb, kp, kw, kused⟩ := k
  refine ⟨kb.trans hb, kp.trans hp, kw.trans hw, fun a r hr => ?_⟩
  obtain ⟨q, hq, hqr⟩ := hused a r hr
  obtain ⟨p, hp, hpq⟩ := kused a q hq
  exact ⟨p, hp, hpq.trans hqr⟩

theorem State.foldl_keepsPools {β : Type} {f : State → β → State} (hf : ∀ (t : State) x, t.keepsPools (f t x)) (l : List β)
    (s : State) : s.keepsPools (l.foldl f s) :=
  List.foldlRecOn (motive := s.keepsPools) l f s.keepsPools_refl fun t ht x _ => State.keepsPools_trans ht (hf t x)

theorem State.byFetch_keepsPools {s t : State} (h : s.byFetch t) : s.keepsPools t := by
  unfold State.byFetch at h
  exact ⟨by rw [h], by rw [h], by rw [h], fun a r hr => ⟨r, (State.region?_congr (by rw [h]) a).trans hr, rfl⟩⟩

/-- A region put in the place of one with the same USED, or in a free one. -/
theorem State.putRegion_keepsPools {a : Nat} {q : Region} (h : ∀ r, s.region? a = some r → q.used = r.used) :
    s.keepsPools (s.putRegion a q) := by
  refine ⟨rfl, rfl, rfl, fun b r hr => ?_⟩
  have hput : (s.putRegion a q).region? b = if a = b then some q else s.region? b := findRegion_putRegion b a q s.regions
  rw [hput]
  split
  next hab => exact ⟨q, rfl, h r (hab ▸ hr)⟩
  next => exact ⟨r, hr, rfl⟩

theorem State.onRegion_keepsPools (s : State) (a : Nat) {f : Region → Region} (hf : ∀ r, (f r).used = r.used) :
    s.keepsPools (s.onRegion a f) := by
  unfold State.onRegion
  split
  · exact s.keepsPools_refl
  next r hr => exact State.putRegion_keepsPools fun p hp => (hf r).trans (congrArg _ (Option.some.inj (hr.symm.trans hp)))

theorem State.takeChain_keepsPools (s : State) (die : Nat) (renew : Bool) (l : List (Nat × BitVec 2048)) :
    s.keepsPools (s.takeChain die renew l) := by
  refine State.foldl_keepsPools (fun t x => ?_) l s
  split
  next r hr =>
    split
    · exact State.putRegion_keepsPools fun p hp => show r.used = p.used by rw [Option.some.inj (hr.symm.trans hp)]
    · exact t.keepsPools_refl
  next hr => exact State.putRegion_keepsPools fun p hp => absurd (hr.symm.trans hp) (by simp)

theorem State.readChain_byFetch (fuel : Nat) (s : State) (a : Nat) : s.byFetch (State.readChain fuel s a).1 := by
  induction fuel generalizing s a with
  | zero => rfl
  | succ fuel ih =>
    have hread := s.dcuRead_byFetch a 256
    unfold State.readChain
    simp only []
    split_ifs
    · rfl
    · exact State.byFetch_trans hread (State.demandPoison_byFetch ..)
    · exact hread
    · exact hread
    · exact State.byFetch_trans hread (ih ..)

theorem State.validChain_byFetch (s : State) (a : Nat) : s.byFetch (s.validChain a).1 := by
  have hread := State.readChain_byFetch 8 s a
  unfold State.validChain
  simp only []
  split <;> exact hread

theorem Region.settle_used (r : Region) : r.settle.used = r.used := by unfold Region.settle; split <;> rfl

theorem State.revalidate_keepsPools (s : State) (a : Nat) : s.keepsPools (s.revalidate a) := by
  have hread := State.byFetch_keepsPools (s.validChain_byFetch a)
  unfold State.revalidate
  split
  · exact s.keepsPools_refl
  · split
    · exact s.keepsPools_refl
    · simp only []
      split
      · exact State.keepsPools_trans hread (State.onRegion_keepsPools _ _ fun _ => rfl)
      · exact State.keepsPools_trans hread
          (State.keepsPools_trans (State.takeChain_keepsPools ..) (State.onRegion_keepsPools _ _ Region.settle_used))

theorem State.revalidateOr_keepsPools (s : State) (a : Nat) : s.keepsPools (s.revalidateOr a) := by
  unfold State.revalidateOr
  split
  · exact ⟨rfl, rfl, rfl, fun _ r h => ⟨r, h, rfl⟩⟩
  · exact State.revalidate_keepsPools ..

theorem State.writeDOr_keepsPools (s : State) (a : Nat) : s.keepsPools (s.writeDOr a) := by
  unfold State.writeDOr
  split
  · exact s.keepsPools_refl
  · exact State.byFetch_keepsPools (State.byTraffic_byFetch (State.writeD_byTraffic ..))

theorem findRegion_map (f : Region → Region) (a : Nat) (l : List (Nat × Region)) :
    findRegion a (l.map fun x => (x.1, f x.2)) = (findRegion a l).map f := by
  induction l with
  | nil => rfl
  | cons x l ih =>
    by_cases h : x.1 = a <;> simp [findRegion, h, ih]

/-- The pools at a boundary, before any H field is read again (R33). -/
def State.poolsRenewed (s : State) : State :=
  { s with regions := s.regions.map fun (x : Nat × Region) => (x.1, x.2.newPeriod), boundary := s.boundary + s.period.toNat }

theorem boundary_renews (h : s.boundaryDue = true) : ∃ t, exec .budgetPeriodBoundary s = .next t ∧
    t.boundary = s.boundary + s.period.toNat ∧ t.period = s.period ∧ t.wall = s.wall ∧
    ∀ a r q, s.region? a = some r → t.region? a = some q →
      q.used = if !r.unlimited && decide (r.budget < r.used) then r.used - r.budget else 0 := by
  have hexec : exec .budgetPeriodBoundary s = .next (s.poolsRenewed.regions.map (·.1) |>.foldl State.writeDOr
      ((s.poolsRenewed.regions.map (·.1)).foldl State.revalidateOr s.poolsRenewed)).tidy := by
    show execBudgetPeriodBoundary s = _
    rw [execBudgetPeriodBoundary, h]
    rfl
  obtain ⟨hb, hp, hw, hused⟩ := State.keepsPools_trans
    (State.foldl_keepsPools State.revalidateOr_keepsPools (s.poolsRenewed.regions.map (·.1)) s.poolsRenewed)
    (State.foldl_keepsPools State.writeDOr_keepsPools (s.poolsRenewed.regions.map (·.1)) _)
  refine ⟨_, hexec, hb, hp, hw, fun a r q hr hq => ?_⟩
  obtain ⟨p, hpool, hpused⟩ := hused a r.newPeriod ((findRegion_map Region.newPeriod a s.regions).trans (congrArg _ hr))
  cases (State.region?_tidy hq).symm.trans hpool
  exact hpused

/-! ### Pinned cycles (R47) -/

theorem chargePools_eq_foldl (n : Nat) (l : List (Nat × Region)) (s : State) :
    chargePools n l s = (l.map (·.1)).foldl (fun t a => t.onRegion a fun r => { r with used := r.used + n }) s := by
  induction l generalizing s with
  | nil => rfl
  | cons x l ih => exact ih _

theorem iterate_charge (n k : Nat) (r : Region) :
    (fun r : Region => { r with used := r.used + n })^[k] r = { r with used := r.used + n * k } := by
  induction k with
  | zero => rfl
  | succ k ih =>
    rw [Function.iterate_succ_apply', ih, Nat.mul_succ, ← Nat.add_assoc]

/-- A charge along a chain of pools adds to a pool's USED as often as the chain names it. -/
theorem State.region?_chargePools {b : Nat} {r : Region} (h : s.region? b = some r) (n : Nat) (l : List (Nat × Region)) :
    (chargePools n l s).region? b = some { r with used := r.used + n * (l.filter fun x => x.1 == b).length } := by
  rw [chargePools_eq_foldl, State.region?_foldl (fun t a c => t.region?_onRegion a c _), h, Option.map_some, iterate_charge,
    List.count_eq_countP, List.countP_map, List.countP_eq_length_filter]
  rfl

theorem pinnedChargeReport_charges (hd : die < 8) {a n : Nat} (hdue : s.pinnedDue die = true)
    (hp : (s.dcu die).pinned = [(a, n)]) : ∃ t, exec (.pinnedChargeReport die) s = .next t ∧ (t.dcu die).pinned = [] ∧
      t.cores = s.cores ∧ t.mem = s.mem ∧ ∀ b r, s.region? b = some r →
        t.region? b = some { r with used := r.used + n * ((poolChain (s.chain a)).filter fun x => x.1 == b).length } := by
  refine ⟨_, if_pos hdue, ?_, State.reportPinned_cores .., State.reportPinned_mem .., fun b r hr => ?_⟩
  · rw [State.dcu_congr (State.reportPinned_dcus ..), State.dcu_onDcu _ _ _ hd]
  · have hcleared := State.onDcu_regions s die fun d => { d with pinned := [] }
    unfold State.reportPinned
    simp only [hp, List.foldl_cons, List.foldl_nil, State.chain, hcleared]
    exact State.region?_chargePools ((State.region?_congr hcleared b).trans hr) ..

/-- Settles O41: each step by the lemmas about what is read, chosen or charged. -/
theorem cardsBudgetsAndDispatch : Obligations.CardsBudgetsAndDispatch := by
  intro s die slot hd
  exact ⟨fun r hv hr hdue hh => ⟨jobCardRead_takes hv hr hdue hh, jobCardRead_poisoned hv hr hdue hh⟩,
    fun r hv hr hdue hh => jobCardRead_held hv hr hdue hh,
    fun n a prio r c x h => dispatchDecision_serves hd h, fun n why a h => dispatchDecision_evicts hd h, boundary_renews,
    fun a n hdue hp => pinnedChargeReport_charges hd hdue hp⟩

end Sys2Proof.Machine
end

section
/-!
PROOF of O42: the load of a task, a launch that fails, and the restore of a context.
-/

namespace Sys2Proof.Machine

variable {s : State} {n : Nat}

/-! ### A launch that fails (R43, R54, R109) -/

@[simp] theorem State.freeSlot_cores (s : State) (k : Task) : (s.freeSlot k).cores = s.cores := by
  unfold State.freeSlot
  split
  · rfl
  · exact State.onRegion_cores ..

theorem State.coreAt_launchFails (s : State) (hn : n < 96) (k : Task) (status : BitVec 8) (detail : Nat) :
    (s.launchFails n k status detail).coreAt n = (s.coreAt n).released := by
  unfold State.launchFails
  rw [State.coreAt_endTask _ hn]
  exact congrArg Core.released (State.coreAt_congr (((State.freeSlot_cores ..).trans (State.regionFail_cores ..)).trans
    (State.logFault_cores ..)) hn)

/-! ### The load (R30, R50, R109) -/

section
variable {k : Task} (h : s.loadDue n = some k)
include h

theorem load_badTable (hn : n < 96) (ht : (s.loadSegs k.card).2 = none) :
    ∃ t, exec (.dictionaryLoadComplete n) s = .next t ∧ (t.coreAt n).task = none := by
  have hexec : exec (.dictionaryLoadComplete n) s = .next ((s.loadSegs k.card).1.launchFails n k 3 0) := by
    show execDictionaryLoadComplete n s = _
    simp only [execDictionaryLoadComplete, h, ht]
  exact ⟨_, hexec, congrArg Core.task (State.coreAt_launchFails _ hn ..)⟩

variable {l : List Seg} (hl : (s.loadSegs k.card).2 = some l)
include hl

theorem load_held (hh : s.loadHeld k.card l = true) : exec (.dictionaryLoadComplete n) s = .next s := by
  show execDictionaryLoadComplete n s = _
  simp only [execDictionaryLoadComplete, h, hl]
  exact if_pos hh

variable (hh : s.loadHeld k.card l = false)
include hh

theorem load_badImage (hn : n < 96) {e : Nat} (he : ((s.loadSegs k.card).1.loadImage n k.card (l.headD 0)).2 = .error e) :
    ∃ t, exec (.dictionaryLoadComplete n) s = .next t ∧ (t.coreAt n).task = none ∧ (t.coreAt n).image.tag = 0 := by
  have hexec : exec (.dictionaryLoadComplete n) s =
      .next ((((s.loadSegs k.card).1.loadImage n k.card (l.headD 0)).1.onCore n fun c =>
        { c with image := { c.image with tag := 0 } }).launchFails n k 2 e) := by
    show execDictionaryLoadComplete n s = _
    simp only [execDictionaryLoadComplete, h, hl, hh, he, Bool.false_eq_true, if_false]
  refine ⟨_, hexec, ?_⟩
  rw [State.coreAt_launchFails _ hn, State.coreAt_onCore _ _ _ hn]
  exact ⟨rfl, rfl⟩

theorem load_starts (hn : n < 96) {im : Image} (hi : ((s.loadSegs k.card).1.loadImage n k.card (l.headD 0)).2 = .ok im) :
    ∃ t, exec (.dictionaryLoadComplete n) s = .next t ∧
      t.coreAt n = (((s.loadSegs k.card).1.loadImage n k.card (l.headD 0)).1.coreAt n).loaded k l im := by
  have hexec : exec (.dictionaryLoadComplete n) s =
      .next (((s.loadSegs k.card).1.loadImage n k.card (l.headD 0)).1.onCore n fun c => c.loaded k l im) := by
    show execDictionaryLoadComplete n s = _
    simp only [execDictionaryLoadComplete, h, hl, hh, hi, Bool.false_eq_true, if_false]
  exact ⟨_, hexec, State.coreAt_onCore _ _ _ hn⟩

end

theorem Core.loaded_image (c : Core) (k : Task) (l : List Seg) (im : Image) : (c.loaded k l im).image = im := by
  unfold Core.loaded
  split <;> rfl

theorem Core.loaded_resuming (c : Core) {k : Task} (h : k.resume ≠ none) (l : List Seg) (im : Image) :
    c.loaded k l im = { c with image := im, task := some { k with segs := l } } := by
  obtain ⟨j, hj⟩ := Option.ne_none_iff_exists'.1 h
  simp only [Core.loaded, hj]

theorem Core.loaded_new (c : Core) {k : Task} (h : k.resume = none) (l : List Seg) (im : Image) :
    c.loaded k l im = { c with
      image := im
      task := some { k with segs := l, phase := .running }
      timed := { c.timed with regs := c.timed.regs.first k.card, seq := { c.timed.seq with pc := entryPc k.card } } } := by
  simp only [Core.loaded, h]

/-- The registers of a task at its first bundle. -/
theorem Core.loaded_registers (c : Core) {k : Task} (h : k.resume = none) (l : List Seg) (im : Image) :
    let t := (c.loaded k l im).timed
    t.seq.pc.toNat = min (cardEntry k.card) (2 ^ 18 - 1) ∧
    (∀ r : BitVec 6, t.sreg r = if r.toNat < 8 then cardArg k.card r.toNat else 0) ∧
    (∀ r : BitVec 4, t.mreg r = BitVec.allOnes 1024) ∧ (∀ r : BitVec 12, t.rowOv r = false) ∧
    (∀ r : BitVec 8, t.vreg r = c.timed.vreg r) ∧ (∀ r : BitVec 12, t.row r = c.timed.row r) ∧
    ∀ a, t.sbyte a = c.timed.sbyte a := by
  rw [Core.loaded_new c h]
  refine ⟨?_, fun r => ?_, fun r => ?_, fun r => ?_, fun r => ?_, fun r => ?_, fun a => ?_⟩
  · exact (BitVec.toNat_ofNat ..).trans (Nat.mod_eq_of_lt (by omega))
  · simp [Timed.sreg, Regs.first, Vector.get_eq_getElem]
  · simp [Timed.mreg, Regs.first, Vector.get_eq_getElem]
  · simp [Timed.rowOv, Regs.first]
  · simp only [Timed.vreg, Regs.first]
  · simp only [Timed.row, Regs.first]
  · simp only [Timed.sbyte, Timed.stripe, Regs.first]

/-! ### The restore (R170) -/

theorem State.restoreDue_task {k : Task} {j base : Nat} (h : s.restoreDue n = some (k, j, base)) :
    (s.coreAt n).task = some k ∧ k.resume = some j := by
  unfold State.restoreDue at h
  cases hk : (s.coreAt n).task with
  | none => simp [hk] at h
  | some q =>
    simp only [hk] at h
    split at h
    · obtain ⟨i, hi, hr⟩ := Option.bind_eq_some_iff.1 h
      obtain ⟨r, -, e⟩ := Option.map_eq_some_iff.1 hr
      cases e
      exact ⟨rfl, hi⟩
    · cases h

/-- A note held for a task changes flags and what they stand for: no task, no image and no register. -/
theorem Core.report_keeps (c : Core) (x : Note) : (c.report x).task = c.task ∧ (c.report x).image = c.image ∧
    (c.report x).timed.regs = c.timed.regs ∧ (c.report x).timed.sp = c.timed.sp := by
  unfold Core.report
  simp only []
  split
  · split
    · simp
    · split <;> simp
  · split <;> split <;> simp

theorem Core.foldl_report_keeps (l : List Note) (c : Core) :
    let d := l.foldl Core.report c
    d.task = c.task ∧ d.image = c.image ∧ d.timed.regs = c.timed.regs ∧ d.timed.sp = c.timed.sp :=
  List.foldlRecOn (motive := fun d : Core => d.task = c.task ∧ d.image = c.image ∧ d.timed.regs = c.timed.regs ∧
    d.timed.sp = c.timed.sp) l _ ⟨rfl, rfl, rfl, rfl⟩ fun d ⟨htask, himage, hregs, hsp⟩ x _ =>
      have ⟨ktask, kimage, kregs, ksp⟩ := d.report_keeps x
      ⟨ktask.trans htask, kimage.trans himage, kregs.trans hregs, ksp.trans hsp⟩

theorem Core.resumed_spec (c : Core) (k : Task) (img : Nat) (t : Timed) (marks : List MarkSite) :
    let d := c.resumed k img t marks
    (∃ q, d.task = some q ∧ q.phase = .running ∧ q.resume = none ∧ q.segs = k.segs ∧ q.card = k.card) ∧
    d.image = c.image ∧ d.timed.regs = t.regs ∧ d.timed.sp = t.sp := by
  obtain ⟨htask, himage, hregs, hsp⟩ := Core.foldl_report_keeps k.notes _
  exact ⟨⟨_, htask, rfl, rfl, rfl, rfl⟩, himage, hregs, hsp⟩

/-- A byte written to the scratchpad leaves the scalar registers, the masks and the special registers. -/
theorem Timed.setSbyte_keeps (t : Timed) (a : Nat) (b : Byte) : (t.setSbyte a b).regs.s = t.regs.s ∧
    (t.setSbyte a b).regs.m = t.regs.m ∧ (t.setSbyte a b).sp = t.sp := by
  simp only [Timed.setSbyte, Timed.writePart, and_self]

theorem Timed.setSbytes_keeps (t : Timed) (a m v : Nat) : (t.setSbytes a m v).regs.s = t.regs.s ∧
    (t.setSbytes a m v).regs.m = t.regs.m ∧ (t.setSbytes a m v).sp = t.sp := by
  induction m generalizing t a v with
  | zero => exact ⟨rfl, rfl, rfl⟩
  | succ m ih => simp only [Timed.setSbytes, ih, Timed.setSbyte_keeps, and_self]

/-- One declared window read back from a slot whose scratchpad stands at `a`. -/
def loadWindow (a : Nat) (x : State × Timed) : Option Window → State × Timed
  | none => x
  | some v =>
    let y := x.1.dcuRead (a + v.base.toNat) v.storage
    (y.1, x.2.setSbytes v.base.toNat v.storage y.2.1)

theorem State.loadWindows_eq_foldl (s : State) (base : Nat) (t : Timed) :
    s.loadWindows base t = t.wins.toList.foldl (loadWindow (base + 0x1E5000)) (s, t) := by
  unfold State.loadWindows
  congr 1

theorem loadWindow_keeps (a : Nat) (x : State × Timed) (w : Option Window) : x.1.byFetch (loadWindow a x w).1 ∧
    (loadWindow a x w).2.regs.s = x.2.regs.s ∧ (loadWindow a x w).2.regs.m = x.2.regs.m ∧
    (loadWindow a x w).2.sp = x.2.sp := by
  cases w with
  | none => exact ⟨x.1.byFetch_refl, rfl, rfl, rfl⟩
  | some v => exact ⟨State.dcuRead_byFetch .., Timed.setSbytes_keeps ..⟩

theorem State.loadWindows_keeps (s : State) (base : Nat) (t : Timed) :
    let x := s.loadWindows base t
    s.byFetch x.1 ∧ x.2.regs.s = t.regs.s ∧ x.2.regs.m = t.regs.m ∧ x.2.sp = t.sp := by
  rw [State.loadWindows_eq_foldl]
  refine List.foldlRecOn (motive := fun x : State × Timed => s.byFetch x.1 ∧ x.2.regs.s = t.regs.s ∧ x.2.regs.m = t.regs.m ∧
    x.2.sp = t.sp) _ _ ⟨s.byFetch_refl, rfl, rfl, rfl⟩ fun x ⟨hfetch, hs, hm, hsp⟩ w _ => ?_
  obtain ⟨kfetch, ks, km, ksp⟩ := loadWindow_keeps (base + 0x1E5000) x w
  exact ⟨State.byFetch_trans hfetch kfetch, ks.trans hs, km.trans hm, ksp.trans hsp⟩

/-- The save slot of a resumed task is in use no more. -/
theorem State.freeSlot_frees {k : Task} {j : Nat} (hj : k.resume = some j) {r : Region}
    (h : (s.freeSlot k).region? k.rcb = some r) : j ∉ r.saveUsed := by
  simp only [State.freeSlot, hj, State.region?_onRegion_same] at h
  obtain ⟨q, -, rfl⟩ := Option.map_eq_some_iff.1 h
  simp

/-- The word at offset `off` of the control area of an image (R167). -/
def controlWord (img off : Nat) : Word := BitVec.ofNat 64 (bytesOf (bytesOf img 0x1000 0x4000) off 8)

/-- What the timed domain takes of an image's control area. -/
theorem Timed.restored_spec (t : Timed) (img : Nat) :
    (∀ r : BitVec 6, (t.restored img).regs.s.get r.toFin = controlWord img (8 * r.toNat)) ∧
    (∀ r : BitVec 4, (t.restored img).regs.m.get r.toFin =
      BitVec.ofNat 1024 (bytesOf (bytesOf img 0x1000 0x4000) (0x200 + 128 * r.toNat) 128)) ∧
    (t.restored img).sp.shape = controlWord img 0x0A20 ∧ (t.restored img).sp.fpctl = controlWord img 0x0A28 ∧
    (t.restored img).sp.tcycle = controlWord img 0x0A38 ∧ (t.restored img).sp.markv = controlWord img 0x0A40 := by
  simp [Timed.restored, controlWord, Vector.get_eq_getElem]

/-- The state once the areas of a slot have been read, and the save slot is free. -/
def State.slotRead (s : State) (n : Nat) (k : Task) (base : Nat) (t : Timed) : State :=
  (((s.dcuRead base fixedLen).1.loadWindows base t).1.freeSlot k).takeUp n k

theorem State.slotRead_coreAt (s : State) (hn : n < 96) (k : Task) (base : Nat) (t : Timed) :
    (s.slotRead n k base t).coreAt n = (s.dcuRead base fixedLen).1.coreAt n :=
  State.coreAt_congr ((State.freeSlot_cores ..).trans (State.byFetch_cores (State.loadWindows_keeps ..).1)) hn

/-- The timed domain that a restore takes from the fixed parts of a slot. -/
def State.slotTimed (s : State) (n base : Nat) : Timed :=
  ((s.dcuRead base fixedLen).1.coreAt n).timed.restored (s.dcuRead base fixedLen).2.1

theorem State.slotRead_frees {k : Task} {j : Nat} (hj : k.resume = some j) (base : Nat) (t : Timed) {r : Region}
    (h : (s.slotRead n k base t).region? k.rcb = some r) : j ∉ r.saveUsed :=
  State.freeSlot_frees (s := ((s.dcuRead base fixedLen).1.loadWindows base t).1) hj h

theorem execContextRestore_next {k : Task} {j base : Nat} (h : s.restoreDue n = some (k, j, base)) :
    exec (.contextRestore n) s = .next ((s.slotRead n k base (s.slotTimed n base)).onCore n fun c =>
      c.resumed k (s.dcuRead base fixedLen).2.1 ((s.dcuRead base fixedLen).1.loadWindows base (s.slotTimed n base)).2
        (((s.dcuRead base fixedLen).1.loadWindows base (s.slotTimed n base)).1.marksAt (s.slotTimed n base) base)) := by
  show execContextRestore n s = _
  simp only [execContextRestore, h, State.slotRead, State.slotTimed]

theorem restore_resumes (hn : n < 96) {k : Task} {j base : Nat} (h : s.restoreDue n = some (k, j, base)) :
    let img := (s.dcuRead base fixedLen).2.1
    ∃ t, exec (.contextRestore n) s = .next t ∧
      (∃ q, (t.coreAt n).task = some q ∧ q.phase = .running ∧ q.resume = none ∧ q.segs = k.segs ∧ q.card = k.card) ∧
      (∀ r, t.region? k.rcb = some r → j ∉ r.saveUsed) ∧
      (∀ r : BitVec 6, (t.coreAt n).timed.sreg r = controlWord img (8 * r.toNat)) ∧
      (∀ r : BitVec 4, (t.coreAt n).timed.mreg r =
        BitVec.ofNat 1024 (bytesOf (bytesOf img 0x1000 0x4000) (0x200 + 128 * r.toNat) 128)) ∧
      (t.coreAt n).timed.sp.shape = controlWord img 0x0A20 ∧ (t.coreAt n).timed.sp.fpctl = controlWord img 0x0A28 ∧
      (t.coreAt n).timed.sp.tcycle = controlWord img 0x0A38 ∧ (t.coreAt n).timed.sp.markv = controlWord img 0x0A40 ∧
      (t.coreAt n).image = ((s.dcuRead base fixedLen).1.coreAt n).image := by
  intro img
  obtain ⟨-, hs, hm, hsp⟩ := (s.dcuRead base fixedLen).1.loadWindows_keeps base (s.slotTimed n base)
  obtain ⟨rs, rm, hshape, hfpctl, htcycle, hmarkv⟩ := ((s.dcuRead base fixedLen).1.coreAt n).timed.restored_spec img
  refine ⟨_, execContextRestore_next h, ?_⟩
  rw [State.coreAt_onCore _ _ _ hn, State.slotRead_coreAt _ hn]
  obtain ⟨htask, himage, hregs, hspec⟩ := Core.resumed_spec ((s.dcuRead base fixedLen).1.coreAt n) k img
    ((s.dcuRead base fixedLen).1.loadWindows base (s.slotTimed n base)).2
    (((s.dcuRead base fixedLen).1.loadWindows base (s.slotTimed n base)).1.marksAt (s.slotTimed n base) base)
  rw [hspec, hsp]
  refine ⟨htask, fun r hr => ?_, fun r => ?_, fun r => ?_, hshape, hfpctl, htcycle, hmarkv, himage⟩
  · rw [State.region?_congr (State.onCore_regions ..)] at hr
    exact State.slotRead_frees (State.restoreDue_task h).2 _ _ hr
  · rw [Timed.sreg, hregs, hs]
    exact rs r
  · rw [Timed.mreg, hregs, hm]
    exact rm r

/-- Settles O42: what each load comes to, and the restore, by what the core holds after it. -/
theorem launchesAndRestores : Obligations.LaunchesAndRestores := by
  intro s n hn
  refine ⟨fun k h => ⟨load_badTable h hn, fun l hl => ⟨load_held h hl, fun hh => ⟨fun e => load_badImage h hl hh hn,
    fun im hi => ?_⟩⟩⟩, fun k j base => restore_resumes hn⟩
  obtain ⟨t, ht, hcore⟩ := load_starts h hl hh hn hi
  refine ⟨t, ht, ?_⟩
  simp only [hcore]
  refine ⟨Core.loaded_image .., fun hr => ?_, fun hr => ⟨?_, Core.loaded_registers _ hr l im⟩⟩
  · rw [Core.loaded_resuming _ hr]
    exact ⟨rfl, rfl⟩
  · rw [Core.loaded_new _ hr]

end Sys2Proof.Machine
end

section
/-!
SUPPORT. The frame layer of O20: which functions of the model leave PERIOD and PWRCAP as they are. The two registers are one
value, `State.limits`; a function that writes neither has one equation `(f s).limits = s.limits` here, in the order of the
definitions.
-/

namespace Sys2Proof.Machine

/-- The two registers that have a bound: PERIOD (R37) and PWRCAP (R400). -/
def State.limits (s : State) : BitVec 32 × BitVec 12 := (s.period, s.ctl.pwrCap)

/-- Both within their bounds. -/
def limitsOk (x : BitVec 32 × BitVec 12) : Prop := 14000 ≤ x.1.toNat ∧ x.2.toNat ≤ 2400

theorem State.boundedRegisters_iff (s : State) : s.boundedRegisters ↔ limitsOk s.limits := Iff.rfl

/-- `simp` reads a pair of the two registers back as the value of the state. -/
@[simp] theorem State.limits_fold (s : State) : (s.period, s.ctl.pwrCap) = s.limits := rfl

@[simp] theorem State.limits_ite (c : Prop) [Decidable c] (s t : State) :
    (if c then s else t).limits = if c then s.limits else t.limits := apply_ite State.limits c s t

@[simp] theorem State.foldl_limits {β : Type} {f : State → β → State} (hf : ∀ t x, (f t x).limits = t.limits)
    (l : List β) (s : State) :
    (l.foldl f s).limits = s.limits :=
  List.foldlRecOn (motive := fun t => t.limits = s.limits) l f rfl fun t ht x _ => (hf t x).trans ht

@[simp] theorem State.foldl_fst_limits {β γ : Type} {f : State × γ → β → State × γ}
    (hf : ∀ t x, (f t x).1.limits = t.1.limits) (l : List β) (t : State × γ) : (l.foldl f t).1.limits = t.1.limits :=
  List.foldlRecOn (motive := fun u => u.1.limits = t.1.limits) l f rfl fun u hu x _ => (hf u x).trans hu

theorem State.failsOnly_limits {s t : State} (h : s.failsOnly t) : t.limits = s.limits := by rw [h]; rfl

theorem State.byHome_limits {s t : State} (h : s.byHome t) : t.limits = s.limits := by rw [h.1]; rfl

theorem State.onlyCoreOf_limits {s t : State} (h : s.onlyCoreOf t) : t.limits = s.limits := by
  rw [State.limits, State.limits, (State.onlyCoreOf_frame h).2.1, (State.onlyCoreOf_frame h).2.2.1]

/-! ### The updates of one part of the state -/

@[simp] theorem State.limits_mk (cores : Vector Core 96) (focus : Fin 96) (dcus : Vector Dcu 8) (period : BitVec 32)
    (wall : Nat) (boundary : Nat) (regions : List (Nat × Region)) (mem : Memory) (poison : List Nat)
    (rdc : Vector (Store RdcSector) 8) (l2 : Vector (Store Bool) 8) (hbm : Vector Hbm 8)
    (vertex : Vector VertexUnit 8) (pbc : Vector Pbc 8) (tables : Store (BitVec 8704)) (badTables : List Nat)
    (lattice : Vector LatticeUnit 16) (myMod : BitVec 4) (xchg : Exchange) (trust : Trust) (spdm : List Spdm)
    (ctl : Control) (adrift : List Adrift) (away : List AwayStream) (orphans : List (TaskRef × List StreamSlot))
    (delayed : List Delayed) (irqs : List (BitVec 16)) (agenda : List Instr) (norder : Nat) (nuid : Nat) (free : Nat) :
    (State.mk cores focus dcus period wall boundary regions mem poison rdc l2 hbm vertex pbc tables badTables
      lattice myMod xchg trust spdm ctl adrift away orphans delayed irqs agenda norder nuid free).limits =
      (period, ctl.pwrCap) := rfl

@[simp] theorem State.setCore_limits (s : State) (c : Core) : (s.setCore c).limits = s.limits := by
  rw [State.limits, State.limits, State.setCore_period, State.setCore_ctl]

@[simp] theorem State.setTimed_limits (s : State) (t : Timed) : (s.setTimed t).limits = s.limits := by
  rw [State.limits, State.limits, State.setTimed_period, State.setTimed_ctl]

@[simp] theorem State.setUn_limits (s : State) (u : Untimed) : (s.setUn u).limits = s.limits := by
  rw [State.limits, State.limits, State.setUn_period, State.setUn_ctl]

@[simp] theorem State.setCoreAt_limits (s : State) (n : Nat) (c : Core) : (s.setCoreAt n c).limits = s.limits := by
  rw [State.limits, State.limits, State.setCoreAt_period, State.setCoreAt_ctl]

@[simp] theorem State.onCore_limits (s : State) (n : Nat) (f : Core → Core) : (s.onCore n f).limits = s.limits := by
  rw [State.limits, State.limits, State.onCore_period, State.onCore_ctl]

@[simp] theorem State.onUn_limits (s : State) (n : Nat) (f : Untimed → Untimed) : (s.onUn n f).limits = s.limits := by
  rw [State.limits, State.limits, State.onUn_period, State.onUn_ctl]

@[simp] theorem State.onTimed_limits (s : State) (n : Nat) (f : Timed → Timed) : (s.onTimed n f).limits = s.limits := by
  rw [State.limits, State.limits, State.onTimed_period, State.onTimed_ctl]

@[simp] theorem State.onDcu_limits (s : State) (n : Nat) (f : Dcu → Dcu) : (s.onDcu n f).limits = s.limits := by
  rw [State.limits, State.limits, State.onDcu_period, State.onDcu_ctl]

@[simp] theorem State.onUnit_limits (s : State) (n : Nat) (f : LatticeUnit → LatticeUnit) :
    (s.onUnit n f).limits = s.limits := by
  rw [State.limits, State.limits, State.onUnit_period, State.onUnit_ctl]

@[simp] theorem State.onHbm_limits (s : State) (n : Nat) (f : Hbm → Hbm) : (s.onHbm n f).limits = s.limits := by
  rw [State.limits, State.limits, State.onHbm_period, State.onHbm_ctl]

@[simp] theorem State.onVx_limits (s : State) (n : Nat) (f : VertexUnit → VertexUnit) :
    (s.onVx n f).limits = s.limits := by
  rw [State.limits, State.limits, State.onVx_period, State.onVx_ctl]

@[simp] theorem State.onPbc_limits (s : State) (n : Nat) (f : Pbc → Pbc) : (s.onPbc n f).limits = s.limits := by
  rw [State.limits, State.limits, State.onPbc_period, State.onPbc_ctl]

@[simp] theorem State.onTrust_limits (s : State) (f : Trust → Trust) : (s.onTrust f).limits = s.limits := by
  rw [State.limits, State.limits, State.onTrust_period, State.onTrust_ctl]

@[simp] theorem State.onXchg_limits (s : State) (f : Exchange → Exchange) : (s.onXchg f).limits = s.limits := by
  rw [State.limits, State.limits, State.onXchg_period, State.onXchg_ctl]

@[simp] theorem State.putRegion_limits (s : State) (a : Nat) (r : Region) : (s.putRegion a r).limits = s.limits := by
  rw [State.limits, State.limits, State.putRegion_period, State.putRegion_ctl]

@[simp] theorem State.onRegion_limits (s : State) (a : Nat) (f : Region → Region) :
    (s.onRegion a f).limits = s.limits := by
  rw [State.limits, State.limits, State.onRegion_period, State.onRegion_ctl]

/-! ### Functions of Machine/Ops -/

@[simp] theorem State.fresh_limits (s : State) : s.fresh.2.limits = s.limits := rfl

@[simp] theorem State.drew_limits (s : State) : s.drew.limits = s.limits := rfl

@[simp] theorem State.freshBool_limits (s : State) : s.freshBool.2.limits = s.limits := rfl

/-! ### Functions of Machine/Regions -/

@[simp] theorem chargePools_limits (n : Nat) (l : List (Nat × Region)) (s : State) :
    (chargePools n l s).limits = s.limits := by
  induction l generalizing s with
  | nil => rfl
  | cons x l ih => exact (ih _).trans (State.onRegion_limits ..)

@[simp] theorem State.discard_limits (s : State) (a : Nat) (gone : Evicted → Bool) :
    (s.discard a gone).limits = s.limits := State.failsOnly_limits (s.discard_failsOnly ..)

@[simp] theorem State.regionFail_limits (s : State) (rcb : Nat) (j : BitVec 32) (t : Nat) (reached : Word) (least : Nat) :
    (s.regionFail rcb j t reached least).limits = s.limits := State.failsOnly_limits (s.regionFail_failsOnly ..)

/-! ### Functions of Machine/Traps -/

@[simp] theorem State.logFault_limits (s : State) (die : Nat) (r : FaultRec) :
    (s.logFault die r).limits = s.limits := by simp [State.logFault]

@[simp] theorem State.evictEnds_limits (s : State) (n : Nat) (r : BitVec 4) :
    (s.evictEnds n r).limits = s.limits := by simp [State.evictEnds]

@[simp] theorem State.failCore_limits (s : State) (n : Nat) (pc : BitVec 18) (i : FaultInfo) (least : Nat) :
    (s.failCore n pc i least).limits = s.limits := State.failsOnly_limits (s.failCore_failsOnly ..)

@[simp] theorem State.takeTrap_limits (s : State) (slot : BitVec 4) (k : Trap) :
    (s.takeTrap slot k).limits = s.limits := State.failsOnly_limits (s.takeTrap_failsOnly ..)

/-! ### Functions of Machine/Copy -/

@[simp] theorem State.enqueue_limits (s : State) (c : Cmd) (joins : Bool) :
    (s.enqueue c joins).limits = s.limits := State.onlyCoreOf_limits (s.onlyCoreOf_enqueue ..)

/-! ### Functions of Machine/Crossing -/

@[simp] theorem State.crossOn_limits (s : State) (key : Nat) (p : Option Nat) : (s.crossOn key p).limits = s.limits := by
  unfold State.crossOn
  split <;> rfl

@[simp] theorem State.crossTo_limits (s : State) (m k : Nat) : (s.crossTo m k).limits = s.limits := by
  unfold State.crossTo
  split
  · rfl
  · exact State.foldl_limits (fun t _ => t.onTrust_limits _) ..

@[simp] theorem State.crossPeer_limits (s : State) (p : Nat) (ordered : Bool) :
    (s.crossPeer p ordered).limits = s.limits := by
  unfold State.crossPeer
  split <;> simp

@[simp] theorem State.dropSector_limits (s : State) (key die kind : Nat) :
    (s.dropSector key die kind).limits = s.limits := rfl

/-! ### Functions of Machine/Rdc -/

@[simp] theorem State.setRdc_limits (s : State) (die : Nat) (r : Store RdcSector) : (s.setRdc die r).limits = s.limits := by
  unfold State.setRdc
  split <;> simp

@[simp] theorem State.setSector_limits (s : State) (die n : Nat) (x : RdcSector) :
    (s.setSector die n x).limits = s.limits := by simp [State.setSector]

@[simp] theorem State.poisonSector_limits (s : State) (n : Nat) (p : BitVec 8) :
    (s.poisonSector n p).limits = s.limits := rfl

@[simp] theorem State.acquireSector_limits (s : State) (die n : Nat) :
    (s.acquireSector die n).limits = s.limits := by simp [State.acquireSector]

@[simp] theorem State.acquire_limits (s : State) (die : Nat) (domain : Bool) :
    (s.acquire die domain).limits = s.limits := State.foldl_limits (fun _ _ => by simp) ..

@[simp] theorem State.noteWriter_limits (s : State) (die n core : Nat) (cls : BitVec 4) :
    (s.noteWriter die n core cls).limits = s.limits := by simp [State.noteWriter]

/-! ### Functions of Machine/Engine -/

@[simp] theorem State.onCmd_limits (s : State) (n q : Nat) (f : Cmd → Cmd) :
    (s.onCmd n q f).limits = s.limits := by simp [State.onCmd]

@[simp] theorem State.dropCmd_limits (s : State) (n q : Nat) : (s.dropCmd n q).limits = s.limits := by simp [State.dropCmd]

@[simp] theorem State.reportAt_limits (s : State) (n : Nat) (x : Note) :
    (s.reportAt n x).limits = s.limits := by simp [State.reportAt]

@[simp] theorem State.cmdDone_limits (s : State) (n q : Nat) (f : BitVec 5) (scope : Option (BitVec 3)) :
    (s.cmdDone n q f scope).limits = s.limits := by simp [State.cmdDone]

@[simp] theorem State.cmdFailed_limits (s : State) (n q : Nat) (f : BitVec 5) (op : BitVec 8) (reached : Nat)
    (faddr : BitVec 52) :
    (s.cmdFailed n q f op reached faddr).limits = s.limits := by
  simp [State.cmdFailed]

@[simp] theorem State.winWriteAt_limits (s : State) (n : Nat) (w : Option Window) (l k v : Nat) :
    (s.winWriteAt n w l k v).limits = s.limits := by
  unfold State.winWriteAt
  split <;> simp

@[simp] theorem State.countArm_limits (s : State) (n : Nat) (w : BitVec 5) (k : Nat) :
    (s.countArm n w k).limits = s.limits := by simp [State.countArm]

@[simp] theorem State.winWords_limits (s : State) (n : Nat) (w : Option Window) (l k v : Nat) (words : BitVec 1024) :
    (s.winWords n w l k v words).limits = s.limits := by
  unfold State.winWords
  split
  · simp
  · split
    · rfl
    · exact State.foldl_limits (fun _ _ => by simp) ..

@[simp] theorem State.landHeld_limits (s : State) (m : Nat) (win : Option Window) (arm : Option (BitVec 5))
    (all : Bool) (pick : Nat → Bool) (held : List HeldByte) :
    (s.landHeld m win arm all pick held).1.limits = s.limits := by
  unfold State.landHeld
  split
  · rfl
  · exact State.foldl_limits (fun _ _ => by cases arm <;> simp) ..

@[simp] theorem State.cmdResult_limits (s : State) (n : Nat) (c : Cmd) (f : BitVec 5) (l k v : Nat) (words : BitVec 1024) :
    (s.cmdResult n c f l k v words).limits = s.limits := by simp [State.cmdResult]

theorem State.orLand_limits (s : State) (n : Nat) (c : Cmd) (words : BitVec 1024) {f : State} (hf : f.limits = s.limits) :
    (s.orLand n c words f).limits = s.limits := by
  unfold State.orLand
  split
  · simp
  · exact hf

/-! ### Functions of Machine/Faulting -/

@[simp] theorem State.logPageFault_limits (s : State) (n : Nat) (h : Hold) : (s.logPageFault n h).limits = s.limits := by
  unfold State.logPageFault
  simp only []
  split <;> simp

@[simp] theorem State.enterHold_limits (s : State) (n : Nat) (cmd : Option Nat) (va : Nat) (write : Bool) :
    (s.enterHold n cmd va write).limits = s.limits := by
  unfold State.enterHold
  split <;> simp

@[simp] theorem State.fatalFault_limits (s : State) (n : Nat) (pc : BitVec 18) (code : BitVec 8) (detail : Word)
    (replays : Nat) (reached : Word) (va : Nat) :
    (s.fatalFault n pc code detail replays reached va).limits = s.limits := by
  simp [State.fatalFault]

@[simp] theorem State.failStopped_limits (s : State) (n : Nat) (cmd : Option Nat) (va : Nat) :
    (s.failStopped n cmd va).limits = s.limits := by
  unfold State.failStopped
  split <;> simp

@[simp] theorem State.takeLate_limits (s : State) (n : Nat) (f : LateFault) : (s.takeLate n f).limits = s.limits := by
  unfold State.takeLate
  split <;> simp

@[simp] theorem State.lateFault_limits (s : State) (n : Nat) (f : LateFault) : (s.lateFault n f).limits = s.limits := by
  unfold State.lateFault
  (repeat' split) <;> simp

/-! ### Functions of Machine/Vertex -/

@[simp] theorem State.vxFail_limits (s : State) (n : Nat) (c : Cmd) (f : BitVec 5) :
    (s.vxFail n c f).limits = s.limits := by
  unfold State.vxFail
  split <;> simp

@[simp] theorem State.vxRes_limits (s : State) (die obj : Nat) (r : BitVec 4) :
    (s.vxRes die obj r).limits = s.limits := by simp [State.vxRes]

/-! ### Functions of Machine/CopyEngine -/

@[simp] theorem State.failAt_limits (s : State) (n q : Nat) (r : Req) (faddr : BitVec 52) :
    (s.failAt n q r faddr).limits = s.limits := by simp [State.failAt]

@[simp] theorem State.formRead_limits (s : State) (n : Nat) (c : Cmd) (p : Piece) :
    (s.formRead n c p).limits = s.limits := by simp [State.formRead]

@[simp] theorem State.formPref_limits (s : State) (n : Nat) (c : Cmd) (p : Piece) :
    (s.formPref n c p).limits = s.limits := by simp [State.formPref]

@[simp] theorem State.sendStore_limits (s : State) (n : Nat) (c : Cmd) (r : Req) (v : BitVec 2048) :
    (s.sendStore n c r v).limits = s.limits := by simp [State.sendStore]

@[simp] theorem State.sendRemote_limits (s : State) (n : Nat) (c : Cmd) (r : Req) (v : BitVec 2048) :
    (s.sendRemote n c r v).limits = s.limits := by simp [State.sendRemote]

@[simp] theorem State.sendWrite_limits (s : State) (n : Nat) (c : Cmd) (r : Req) (v : BitVec 2048) :
    (s.sendWrite n c r v).limits = s.limits := by simp [State.sendWrite]

@[simp] theorem State.captureWords_limits (s : State) (n : Nat) (c : Cmd) (r : Req) (words : BitVec 64) :
    (s.captureWords n c r words).limits = s.limits := by simp [State.captureWords]

@[simp] theorem State.formWrite_limits (s : State) (n : Nat) (c : Cmd) (p : Piece) (words : BitVec 64) :
    (s.formWrite n c p words).limits = s.limits := by simp [State.formWrite]

@[simp] theorem State.reaches_limits (s : State) (n q key : Nat) :
    (s.reaches n q key).limits = s.limits := by simp [State.reaches]

@[simp] theorem State.formPiece_limits (s : State) (n : Nat) (c : Cmd) (p : Piece) (words : BitVec 64) :
    (s.formPiece n c p words).limits = s.limits := by simp [State.formPiece]

@[simp] theorem State.countSlice_limits (s : State) (key : Nat) : (s.countSlice key).limits = s.limits := by
  unfold State.countSlice
  (repeat' split) <;> simp

@[simp] theorem State.portRefuses_limits (s : State) (key : Nat) : (s.portRefuses key).2.limits = s.limits := by
  unfold State.portRefuses
  split <;> simp

@[simp] theorem State.slotArrives_limits (s : State) (n q rq : Nat) (nack : Bool) :
    (s.slotArrives n q rq nack).limits = s.limits := by
  unfold State.slotArrives
  split <;> simp

@[simp] theorem State.landWord_limits (s : State) (m : Nat) (c : Cmd) (l : Int) (v : Nat) :
    (s.landWord m c l v).1.limits = s.limits := by
  unfold State.landWord
  (repeat' split) <;> simp

@[simp] theorem State.holdWord_limits (s : State) (n q m run : Nat) (l : Int) (v : Nat) :
    (s.holdWord n q m run l v).1.limits = s.limits := by simp [State.holdWord]

@[simp] theorem State.landWaiting_limits (s : State) (n q m : Nat) (all : Bool) (pick : Nat → Bool) :
    (s.landWaiting n q m all pick).limits = s.limits := by
  unfold State.landWaiting
  split <;> simp

@[simp] theorem State.landWords_limits (s : State) (n : Nat) (c : Cmd) (r : Req) (words : BitVec 1024) :
    (s.landWords n c r words).1.limits = s.limits := by
  refine State.foldl_fst_limits (fun x m => ?_) ..
  simp only []
  split
  · refine (State.landWaiting_limits ..).trans (State.foldl_fst_limits (fun y i => ?_) ..)
    split <;> simp
  · refine State.foldl_fst_limits (fun y i => ?_) ..
    split <;> simp

@[simp] theorem State.landRun_limits (s : State) (n : Nat) (c : Cmd) (run k : Nat) (mid : Bool) (words : BitVec 1024) :
    (s.landRun n c run k mid words).limits = s.limits := by simp [State.landRun]

@[simp] theorem State.endTileAt_limits (s : State) (n : Nat) (c : Cmd) (words : BitVec 1024) :
    (s.endTileAt n c words).limits = s.limits := by
  unfold State.endTileAt
  split
  · simp
  · have hfold := State.foldl_limits (fun (t : State) m => t.landWaiting_limits n c.seq m true words.getLsbD)
      ((c.prog.held.map (·.core)).dedup) s
    simp only []
    split
    · split <;> simp [hfold]
    · exact hfold

@[simp] theorem State.landStopped_limits (s : State) (n : Nat) :
    (s.landStopped n).limits = s.limits := State.foldl_limits (fun _ _ => by
    split
    · exact State.foldl_limits (fun _ _ => by simp) ..
    · rfl) ..

@[simp] theorem State.moveWord_limits (s : State) (n : Nat) (c : Cmd) (d : Window) (held : List HeldByte) (i : Nat) :
    (s.moveWord n c d held i).1.limits = s.limits := by
  unfold State.moveWord
  split <;> simp

@[simp] theorem State.fillOrCopy_limits (s : State) (n : Nat) (c : Cmd) (blk : Nat) (words : BitVec 1024) :
    (s.fillOrCopy n c blk words).limits = s.limits := by
  unfold State.fillOrCopy
  simp only []
  split
  · rfl
  · split_ifs <;> simp

@[simp] theorem State.trimL2_limits (s : State) (die : Nat) : (s.trimL2 die).limits = s.limits := by
  unfold State.trimL2
  simp only []
  (repeat' split) <;> simp

/-! ### Functions of Machine/Pooling -/

@[simp] theorem State.settlePbc_limits (s : State) (n : Nat) : (s.settlePbc n).limits = s.limits := by
  unfold State.settlePbc
  simp only []
  (repeat' split) <;> simp

@[simp] theorem State.settleAll_limits (s : State) :
    s.settleAll.limits = s.limits := State.foldl_limits (fun t n => t.settlePbc_limits n) ..

@[simp] theorem State.pbcRes_limits (s : State) (n : Nat) (r : BitVec 4) :
    (s.pbcRes n r).limits = s.limits := by simp [State.pbcRes]

@[simp] theorem State.crossShard_limits (s : State) (n q : Nat) (d : Table) (k : Nat) :
    (s.crossShard n q d k).limits = s.limits := by simp [State.crossShard]

@[simp] theorem State.queryAway_limits (s : State) (n : Nat) (c : Cmd) (o : CfOp) (t r : Nat) (words : BitVec 1024) :
    (s.queryAway n c o t r words).limits = s.limits := by simp [State.queryAway]

/-! ### Functions of Machine/Gather -/

@[simp] theorem State.gatherEnd_limits (s : State) (n q : Nat) : (s.gatherEnd n q).limits = s.limits := by
  unfold State.gatherEnd
  (repeat' split) <;> simp

@[simp] theorem State.eitherWords_limits (s : State) (a b k : Nat) : (s.eitherWords a b k).1.limits = s.limits := by
  induction k generalizing s a b with
  | zero => rfl
  | succ k ih =>
    simp only [State.eitherWords, ih]
    split <;> rfl

@[simp] theorem State.countRows_limits (s : State) (d : Table) (t : Nat) (l : List (Nat × BitVec 32)) :
    (s.countRows d t l).1.limits = s.limits := by
  induction l generalizing s with
  | nil => rfl
  | cons x l ih => exact (ih _).trans (State.onPbc_limits ..)

@[simp] theorem State.freshWords_limits (s : State) (kind k : Nat) : (s.freshWords kind k).1.limits = s.limits := by
  induction k generalizing s with
  | zero => rfl
  | succ k ih => exact ih _

@[simp] theorem State.onGather_limits (s : State) (n q : Nat) (f : GatherProg → GatherProg) :
    (s.onGather n q f).limits = s.limits := by simp [State.onGather]

@[simp] theorem State.bucketLost_limits (s : State) (n : Nat) (c : Cmd) (bag k m : Nat) :
    (s.bucketLost n c bag k m).limits = s.limits := by simp [State.bucketLost]

@[simp] theorem State.landBag_limits (s : State) (n : Nat) (c : Cmd) (g : GatherProg) (w : BagWords) (b : Bag) :
    (s.landBag n c g w b).limits = s.limits := by simp [State.landBag]

/-! ### Functions of Machine/Lattice -/

@[simp] theorem State.latticeRes_limits (s : State) (u r : Nat) (res : BitVec 4) :
    (s.latticeRes u r res).limits = s.limits := by simp [State.latticeRes]

@[simp] theorem State.setAway_limits (s : State) (x : AwayStream) : (s.setAway x).limits = s.limits := rfl

@[simp] theorem State.dropAway_limits (s : State) (uid : Nat) : (s.dropAway uid).limits = s.limits := rfl

@[simp] theorem State.pushAway_limits (s : State) (uid m k : Nat) :
    (s.pushAway uid m k).limits = s.limits := by simp [State.pushAway]

@[simp] theorem State.abortStream_limits (s : State) (h : Word) (uid : Nat) :
    (s.abortStream h uid).limits = s.limits := by simp [State.abortStream]

@[simp] theorem State.openHere_limits (s : State) (n : Nat) (c : Cmd) (o : CfOp) :
    (s.openHere n c o).limits = s.limits := by
  unfold State.openHere
  simp only []
  split <;> simp

@[simp] theorem State.regionCmdAway_limits (s : State) (n : Nat) (c : Cmd) (o : CfOp) (k : Nat) (words : BitVec 1024) :
    (s.regionCmdAway n c o k words).limits = s.limits := by
  unfold State.regionCmdAway
  (repeat' split) <;> simp

/-! ### Functions of Machine/Fabric -/

@[simp] theorem State.awayEnded_limits (s : State) (tag : Nat) : (s.awayEnded tag).limits = s.limits := rfl

@[simp] theorem State.awayOpen_limits (s : State) (u r : Nat) (gen : BitVec 8) (uid width : Nat)
    (seg : Option (BitVec 256)) :
    (s.awayOpen u r gen uid width seg).limits = s.limits := by
  unfold State.awayOpen
  split <;> simp

@[simp] theorem State.awayClose_limits (s : State) (uid : Nat) (commit : Bool) :
    (s.awayClose uid commit).limits = s.limits := by
  unfold State.awayClose
  (repeat' split) <;> simp

@[simp] theorem State.awayPrefetch_limits (s : State) (n t : Nat) (rows : List Nat) :
    (s.awayPrefetch n t rows).limits = s.limits := by
  unfold State.awayPrefetch
  simp only []
  split <;> simp

@[simp] theorem State.landBytes_limits (s : State) (n : Nat) (w : BitVec 5) (l v k : Nat) :
    (s.landBytes n w l v k).1.limits = s.limits := by
  induction k generalizing s l v with
  | zero => rfl
  | succ k ih =>
    unfold State.landBytes
    split
    · rfl
    · exact (ih ..).trans (by simp)

@[simp] theorem State.awayObjectLost_limits (s : State) (m die obj : Nat) :
    (s.awayObjectLost m die obj).limits = s.limits := rfl

/-! ### Functions of Machine/Exchange -/

@[simp] theorem State.onXcmd_limits (s : State) (n q : Nat) (f : Cmd → Cmd) :
    (s.onXcmd n q f).limits = s.limits := by simp [State.onXcmd]

@[simp] theorem State.landMasked_limits (s : State) (n : Nat) (w : BitVec 5) (l v k : Nat) (words : BitVec 64) :
    (s.landMasked n w l v k words).1.limits = s.limits := by
  unfold State.landMasked
  split
  · simp
  · exact State.foldl_fst_limits (fun _ _ => by split <;> simp) ..

@[simp] theorem State.deliverAway_limits (s : State) (ord : Bool) (e : Nat) (pv fresh : Bool) :
    (s.deliverAway ord e pv fresh).1.limits = s.limits := by
  unfold State.deliverAway
  (repeat' split) <;> simp

@[simp] theorem State.entryFor_limits (s : State) (c : Cmd) (b : XBlock) : (s.entryFor c b).2.limits = s.limits := by
  unfold State.entryFor
  simp only []
  split <;> simp

@[simp] theorem State.landRank_limits (s : State) (c : Cmd) (core rank l v k : Nat) (now : BitVec 64) (last : Bool) :
    (s.landRank c core rank l v k now last).1.limits = s.limits := by
  unfold State.landRank
  simp only []
  split <;> simp

/-! ### Functions of Machine/Dcu -/

@[simp] theorem State.takeChain_limits (s : State) (die : Nat) (renew : Bool) (l : List (Nat × BitVec 2048)) :
    (s.takeChain die renew l).limits = s.limits := State.foldl_limits (fun _ _ => by
    split
    · split <;> rfl
    · rfl) ..

@[simp] theorem State.setSlot_limits (s : State) (die i : Nat) (x : BindSlot) :
    (s.setSlot die i x).limits = s.limits := by simp [State.setSlot]

@[simp] theorem State.tidy_limits (s : State) : s.tidy.limits = s.limits := rfl

@[simp] theorem State.unbindSlot_limits (s : State) (die i : Nat) :
    (s.unbindSlot die i).limits = s.limits := by simp [State.unbindSlot]

@[simp] theorem State.dropBind_limits (s : State) (die slot : Nat) : (s.dropBind die slot).limits = s.limits := rfl

@[simp] theorem State.delay_limits (s : State) (x : Delayed) : (s.delay x).limits = s.limits := rfl

@[simp] theorem State.ignoreBell_limits (s : State) (die : Nat) :
    (s.ignoreBell die).limits = s.limits := by simp [State.ignoreBell]

@[simp] theorem State.dcuRes_limits (s : State) (die : Nat) (r : BitVec 4) :
    (s.dcuRes die r).limits = s.limits := by simp [State.dcuRes]

@[simp] theorem State.cancelAt_limits (s : State) (a : Nat) (m : BitVec 32) :
    (s.cancelAt a m).limits = s.limits := by simp [State.cancelAt]

@[simp] theorem State.reportPinned_limits (s : State) (die : Nat) : (s.reportPinned die).limits = s.limits := by
  simp only [State.reportPinned]
  rw [State.foldl_limits fun t x => chargePools_limits ..]
  simp

@[simp] theorem State.charge_limits (s : State) (n : Nat) : (s.charge n).limits = s.limits := by
  unfold State.charge
  simp only []
  (repeat' split) <;> simp [chargePools_limits]

/-! ### Functions of Machine/Dispatcher -/

@[simp] theorem State.withdraw_limits (s : State) (die a : Nat) :
    (s.withdraw die a).limits = s.limits := State.foldl_limits (fun _ _ => by simp) ..

@[simp] theorem State.start_limits (s : State) (die n a prio : Nat) (r : Region) (c : Card) (x : Ready) :
    (s.start die n a prio r c x).limits = s.limits := by
  unfold State.start
  split <;> simp

@[simp] theorem State.chooseVictim_limits (s : State) (n : Nat) (why : EvictReason) (a : Nat) :
    (s.chooseVictim n why a).limits = s.limits := by simp [State.chooseVictim]

@[simp] theorem State.withdrawIdle_limits (s : State) :
    s.withdrawIdle.limits = s.limits := State.foldl_limits (fun _ _ => by split <;> simp) ..

/-! ### Functions of Machine/Sync -/

@[simp] theorem State.acquireFences_limits (s : State) (l : List (BitVec 3)) : (s.acquireFences l).limits = s.limits := by
  induction l generalizing s with
  | nil => rfl
  | cons x l ih => exact (ih _).trans (State.setUn_limits ..)

@[simp] theorem passWait_limits (mask : BitVec 32) (s : State) : (passWait mask s).limits = s.limits := by simp [passWait]

/-! ### Functions of Machine/Issue -/

@[simp] theorem State.releaseHold_limits (s : State) (n : Nat) (k : Task) (h : Hold) (x : TlbEntry) :
    (s.releaseHold n k h x).limits = s.limits := by
  unfold State.releaseHold
  simp only []
  split <;> simp

/-! ### Functions of Machine/Launch -/

@[simp] theorem State.endTask_limits (s : State) (n : Nat) (k : Task) (f : Card → Card) :
    (s.endTask n k f).limits = s.limits := by simp [State.endTask]

@[simp] theorem State.freeSlot_limits (s : State) (k : Task) : (s.freeSlot k).limits = s.limits := by
  unfold State.freeSlot
  split <;> simp

@[simp] theorem State.launchFails_limits (s : State) (n : Nat) (k : Task) (status : BitVec 8) (detail : Nat) :
    (s.launchFails n k status detail).limits = s.limits := by simp [State.launchFails]

/-! ### Functions of Machine/Context -/

@[simp] theorem State.castOff_limits (s : State) (n : Nat) (k : Task) : (s.castOff n k).limits = s.limits := rfl

@[simp] theorem State.takeUp_limits (s : State) (n : Nat) (k : Task) : (s.takeUp n k).limits = s.limits := rfl

@[simp] theorem State.addPoison_limits (s : State) (l : List Nat) : (s.addPoison l).limits = s.limits := rfl

@[simp] theorem State.discardStopped_limits (s : State) (k : Task) : (s.discardStopped k).limits = s.limits := by
  unfold State.discardStopped
  split <;> simp

/-! ### Functions of Machine/Ring -/

@[simp] theorem State.latticeLost_limits (s : State) (n : Nat) (c : Cmd) : (s.latticeLost n c).limits = s.limits := by
  unfold State.latticeLost
  split <;> simp

@[simp] theorem State.armNacked_limits (s : State) (n : Nat) (a : Arm) : (s.armNacked n a).limits = s.limits := by
  unfold State.armNacked
  simp only []
  cases (s.moduleLane (hMod a.handle)).head? <;> split <;> simp

/-! ### Functions of Machine/Trust -/

@[simp] theorem State.trustRes_limits (s : State) (r : BitVec 4) : (s.trustRes r).limits = s.limits := rfl

@[simp] theorem State.setMstate_limits (s : State) (m : Nat) (x : MState) : (s.setMstate m x).limits = s.limits := rfl

@[simp] theorem State.closeSession_limits (s : State) (m : Nat) : (s.closeSession m).limits = s.limits := rfl

@[simp] theorem State.leaves_limits (s : State) (m : Nat) : (s.leaves m).limits = s.limits := rfl

@[simp] theorem State.checkFails_limits (s : State) (m : Nat) : (s.checkFails m).limits = s.limits := rfl

@[simp] theorem State.disagree_limits (s : State) : s.disagree.limits = s.limits := rfl

@[simp] theorem State.closeDeparting_limits (s : State) :
    s.closeDeparting.limits = s.limits := State.foldl_limits (fun _ _ => by simp) ..

@[simp] theorem State.invalidateDeparting_limits (s : State) (die : Nat) :
    (s.invalidateDeparting die).limits = s.limits := State.foldl_limits (fun _ _ => by simp) ..

@[simp] theorem State.tbarrWait_limits (s : State) (n : Nat) (c : Cmd) (o : CfOp) :
    (s.tbarrWait n c o).limits = s.limits := by
  unfold State.tbarrWait
  split <;> simp

/-! ### Functions of Machine/Retire -/

@[simp] theorem State.interrupt_limits (s : State) (v : BitVec 16) :
    (s.interrupt v).limits = s.limits := by simp [State.interrupt]

@[simp] theorem State.forget_limits (s : State) (x : TaskRef × List StreamSlot) :
    (s.forget x).limits = s.limits := State.foldl_limits (fun _ _ => by simp) ..

/-! ### Functions of Machine/FaultLog -/

@[simp] theorem State.onLog_limits (s : State) (die : Nat) (f : FaultLog → FaultLog) :
    (s.onLog die f).limits = s.limits := by simp [State.onLog]

/-! ### Functions of Machine/Health -/

@[simp] theorem State.countCorrected_limits (s : State) (u : Nat) : (s.countCorrected u).limits = s.limits := rfl

/-! ### Functions of Machine/Spdm -/

@[simp] theorem State.putConn_limits (s : State) (x : Spdm) : (s.putConn x).limits = s.limits := rfl

@[simp] theorem State.attestEnds_limits (s : State) (m : Nat) (x : MState) (r : BitVec 4) :
    (s.attestEnds m x r).limits = s.limits := by simp [State.attestEnds]

/-! ### Functions of Machine/Cycle -/

@[simp] theorem State.countPressed_limits (s : State) :
    s.countPressed.limits = s.limits := State.foldl_limits (fun _ _ => by split <;> simp) ..

@[simp] theorem State.nextFocus_limits (s : State) : s.nextFocus.limits = s.limits := by
  unfold State.nextFocus
  split <;> simp

end Sys2Proof.Machine
end

section
/-!
SUPPORT. The frame layer of O20, second part: the functions that do write bytes of memory. An access to a home leaves PERIOD
and PWRCAP as they are (Laws/Home.lean); everything else is composition.
-/

namespace Sys2Proof.Machine

theorem State.limits_of_eq {α : Type} {x : State × α} {t : State} {a : α} {c : BitVec 32 × BitVec 12} (h : x = (t, a))
    (hx : x.1.limits = c) : t.limits = c := by
  rw [h] at hx
  exact hx

theorem State.ite_fst_limits {α : Type} {c : Prop} [Decidable c] {x y : State × α} {v : BitVec 32 × BitVec 12}
    (hx : x.1.limits = v) (hy : y.1.limits = v) : (if c then x else y).1.limits = v := by
  split
  · exact hx
  · exact hy

/-! ### Functions of Machine/Apply -/

@[simp] theorem State.health_limits (s : State) (kind unit core addr data : Nat) :
    (s.health kind unit core addr data).limits = s.limits := State.byHome_limits (State.health_byHome ..)

@[simp] theorem State.applyWhere_limits (s : State) (u r k : Nat) (p : LRegion → Bin → Bool) :
    (s.applyWhere u r k p).1.limits = s.limits := State.byHome_limits (State.applyWhere_byHome ..)

@[simp] theorem State.applyAll_limits (s : State) (u r : Nat) :
    (s.applyAll u r).1.limits = s.limits := State.byHome_limits (State.applyAll_byHome ..)

@[simp] theorem State.touch_limits (s : State) (key n : Nat) :
    (s.touch key n).1.limits = s.limits := State.byHome_limits (State.touch_byHome ..)

@[simp] theorem State.homeRead_limits (s : State) (key n : Nat) :
    (s.homeRead key n).1.limits = s.limits := State.byHome_limits (State.homeRead_byHome ..)

@[simp] theorem State.homeWrite_limits (s : State) (key n mask v : Nat) :
    (s.homeWrite key n mask v).1.limits = s.limits := State.byHome_limits (State.homeWrite_byHome ..)

@[simp] theorem State.homeReadLong_limits (s : State) (fuel key n : Nat) :
    (s.homeReadLong fuel key n).1.limits = s.limits := State.byHome_limits (State.homeReadLong_byHome ..)

@[simp] theorem State.homeWriteLong_limits (s : State) (fuel key n v : Nat) :
    (s.homeWriteLong fuel key n v).limits = s.limits := State.byHome_limits (State.homeWriteLong_byHome ..)

/-! ### Functions of Machine/Rdc -/

@[simp] theorem State.fetchSector_limits (s : State) (n : Nat) :
    (s.fetchSector n).1.limits = s.limits := by
  unfold State.fetchSector
  split <;> simp

@[simp] theorem State.writeHome_limits (s : State) (n : Nat) (x : RdcSector) :
    (s.writeHome n x).limits = s.limits := by simp [State.writeHome]

@[simp] theorem State.writeBack_limits (s : State) (die n : Nat) :
    (s.writeBack die n).limits = s.limits := by simp [State.writeBack]

@[simp] theorem State.writeBackPart_limits (s : State) (die n : Nat) (m : BitVec 256) :
    (s.writeBackPart die n m).limits = s.limits := by simp [State.writeBackPart]

@[simp] theorem State.releaseSector_limits (s : State) (die n : Nat) :
    (s.releaseSector die n).limits = s.limits := by simp [State.releaseSector]

@[simp] theorem State.replaceSector_limits (s : State) (die n : Nat) :
    (s.replaceSector die n).limits = s.limits := by simp [State.replaceSector]

@[simp] theorem State.fenceSector_limits (s : State) (die kind : Nat) (mine : RdcSector → Bool) (n : Nat) :
    (s.fenceSector die kind mine n).limits = s.limits := by
  simp [State.fenceSector]

@[simp] theorem State.fenceSectors_limits (s : State) (die kind : Nat) (mine : RdcSector → Bool) (l : List Nat) :
    (s.fenceSectors die kind mine l).limits = s.limits :=
  State.foldl_limits (fun t n => t.fenceSector_limits die kind mine n) ..

@[simp] theorem State.release_limits (s : State) (die : Nat) (domain : Bool) :
    (s.release die domain).limits = s.limits := State.foldl_limits (fun t n => t.releaseSector_limits die n) ..

@[simp] theorem State.fillSector_limits (s : State) (die n : Nat) :
    (s.fillSector die n).1.limits = s.limits := by simp [State.fillSector]

@[simp] theorem State.fillPart_limits (s : State) (die n : Nat) (words : BitVec 64) :
    (s.fillPart die n words).1.limits = s.limits := by simp [State.fillPart]

@[simp] theorem State.dieRead_limits (s : State) (die key n : Nat) :
    (s.dieRead die key n).1.limits = s.limits := by
  unfold State.dieRead
  simp only []
  (repeat' split) <;> simp

@[simp] theorem State.dieWrite_limits (s : State) (die key n mask v : Nat) :
    (s.dieWrite die key n mask v).1.limits = s.limits := by
  unfold State.dieWrite
  (repeat' split) <;> simp

@[simp] theorem State.walked_limits (s : State) (e : Seg) (si : BitVec 6) (off : Nat) (write : Bool) :
    (s.walked e si off write).limits = s.limits :=
  State.byHome_limits (State.walked_byHome ..)

@[simp] theorem State.dieReadLong_limits (s : State) (die fuel key n : Nat) :
    (s.dieReadLong die fuel key n).1.limits = s.limits := by
  induction fuel generalizing s key n with
  | zero => rfl
  | succ k ih =>
    unfold State.dieReadLong
    split
    · rfl
    · exact (ih ..).trans (State.dieRead_limits ..)

/-! ### Functions of Machine/Engine -/

@[simp] theorem State.noteInSlot_limits (s : State) (base : Nat) (x : Note) :
    (s.noteInSlot base x).limits = s.limits := State.byHome_limits (State.noteInSlot_byHome ..)

@[simp] theorem State.noteEvicted_limits (s : State) (w : TaskRef) (x : Note) :
    (s.noteEvicted w x).limits = s.limits := by
  unfold State.noteEvicted
  split
  · rfl
  · split
    · rfl
    · rw [State.putRegion_limits]
      exact State.noteInSlot_limits ..

@[simp] theorem State.report_limits (s : State) (w : TaskRef) (x : Note) :
    (s.report w x).limits = s.limits := by
  unfold State.report
  (repeat' split) <;> simp

@[simp] theorem State.fencePass_limits (s : State) (n : Nat) (c : Cmd) (mask : BitVec 16) (scope kind : Nat)
    (words : BitVec 1024) :
    (s.fencePass n c mask scope kind words).1.limits = s.limits := by
  unfold State.fencePass
  split <;> simp

/-! ### Functions of Machine/Vertex -/

@[simp] theorem State.readObj_limits (s : State) (d n : Nat) :
    (s.readObj d n).1.limits = s.limits := by
  unfold State.readObj
  simp only []
  split <;> simp

@[simp] theorem State.writeObj_limits (s : State) (d n : Nat) (k : ObjKind) :
    (s.writeObj d n k).limits = s.limits := by simp [State.writeObj]

@[simp] theorem State.reportTo_limits (s : State) (w : Option TaskRef) (x : Note) :
    (s.reportTo w x).limits = s.limits := by
  unfold State.reportTo
  split <;> simp

@[simp] theorem State.answer_limits (s : State) (ok : Bool) (l : List WaitReq) :
    (s.answer ok l).limits = s.limits := by
  induction l generalizing s with
  | nil => rfl
  | cons w l ih => exact (ih _).trans (State.reportTo_limits ..)

@[simp] theorem State.notify_limits (s : State) (d n : Nat) (q : BitVec 32) :
    (s.notify d n q).limits = s.limits := by simp [State.notify]

@[simp] theorem State.putPhaser_limits (s : State) (d n : Nat) (p : Phaser) (passed : List (BitVec 32)) :
    (s.putPhaser d n p passed).limits = s.limits :=
  (State.foldl_limits (fun t q => t.notify_limits d n q) ..).trans (State.writeObj_limits ..)

@[simp] theorem State.request_limits (s : State) (d : Nat) (p : Phaser) (w : WaitReq) :
    (s.request d p w).limits = s.limits := by simp [State.request]

@[simp] theorem State.armArrive_limits (s : State) (n : Nat) (a : Arm) (who : TaskRef) :
    (s.armArrive n a who).limits = s.limits := by
  unfold State.armArrive
  simp only []
  (repeat' split) <;> simp

@[simp] theorem State.armSend_limits (s : State) (n : Nat) (a : Arm) (who : TaskRef) :
    (s.armSend n a who).limits = s.limits := by simp [State.armSend]

theorem State.phaserOp_limits (s d : State) (n : Nat) (c : Cmd) (p : Phaser) (who : TaskRef) (words : BitVec 1024)
    (hd : d.limits = s.limits) : ((s.phaserOp n c p who words).getD d).limits = s.limits := by
  unfold State.phaserOp
  simp only []
  (repeat' split) <;> simp [hd]

@[simp] theorem State.syncCmd_limits (s : State) (n : Nat) (c : Cmd) (o : CfOp) (w : BitVec 512)
    (words : BitVec 1024) :
    (s.syncCmd n c o w words).limits = s.limits := by
  simp [State.syncCmd]

theorem State.releaseThen_limits (s : State) (n : Nat) (c : Cmd) (scope : Nat) (words : BitVec 1024) {f : State → State}
    (hf : ∀ t, (f t).limits = t.limits) :
    (s.releaseThen n c scope words f).limits = s.limits := by
  have hx := State.fencePass_limits s n c 0xFFFF scope 1 words
  unfold State.releaseThen
  simp only []
  split
  · exact (hf _).trans hx
  · rw [State.onCmd_limits]
    exact hx

@[simp] theorem State.vxLocal_limits (s : State) (n : Nat) (c : Cmd) (o : CfOp) (k : Task) (words : BitVec 1024) :
    (s.vxLocal n c o k words).limits = s.limits := by
  have hx := State.readObj_limits s (hDie c.a) (hObj c.a)
  unfold State.vxLocal
  simp only []
  split
  · simp
  · split
    · exact (State.releaseThen_limits _ _ _ _ _ fun t => by simp).trans hx
    · split
      · refine (State.releaseThen_limits _ _ _ _ _ fun t => ?_).trans hx
        split
        · simp
        · exact State.phaserOp_limits _ _ _ _ _ _ _ (by simp)
      · split <;> simp
      · simp
      · simp

@[simp] theorem State.vxRemote_limits (s : State) (n : Nat) (c : Cmd) (o : CfOp) (k : Task) (words : BitVec 1024) :
    (s.vxRemote n c o k words).limits = s.limits := by
  refine State.releaseThen_limits _ _ _ _ _ (fun t => ?_)
  simp only []
  (repeat' split) <;> simp

@[simp] theorem State.createObj_limits (s : State) (die obj : Nat) (k : ObjKind) :
    (s.createObj die obj k).limits = s.limits := by simp [State.createObj]

@[simp] theorem State.failWaits_limits (s : State) (die obj : Nat) :
    (s.failWaits die obj).limits = s.limits := by simp [State.failWaits]

/-! ### Functions of Machine/CopyEngine -/

@[simp] theorem State.performRead_limits (s : State) (n : Nat) (c : Cmd) (r : Req) (words : BitVec 64) :
    (s.performRead n c r words).limits = s.limits := by
  simp [State.performRead]

@[simp] theorem State.performRdcWrite_limits (s : State) (n : Nat) (c : Cmd) (r : Req) (words : BitVec 64) :
    (s.performRdcWrite n c r words).limits = s.limits := by
  simp [State.performRdcWrite]

@[simp] theorem State.performWrite_limits (s : State) (n : Nat) (c : Cmd) (r : Req) (words : BitVec 64) :
    (s.performWrite n c r words).limits = s.limits := by
  simp [State.performWrite]

@[simp] theorem State.performPref_limits (s : State) (n : Nat) (c : Cmd) (r : Req) (words : BitVec 64) :
    (s.performPref n c r words).limits = s.limits := by
  simp [State.performPref]

@[simp] theorem State.performAt_limits (s : State) (n : Nat) (c : Cmd) (r : Req) (words : BitVec 64) :
    (s.performAt n c r words).limits = s.limits := by
  unfold State.performAt
  (repeat' split) <;> simp

@[simp] theorem State.fenceAct_limits (s : State) (n : Nat) (mask : BitVec 16) (scope kind : Nat) :
    (s.fenceAct n mask scope kind).limits = s.limits := by
  simp [State.fenceAct]

@[simp] theorem State.fenceStep_limits (s : State) (n : Nat) (c : Cmd) (mask : BitVec 16) (scope kind : Nat)
    (words : BitVec 1024) :
    (s.fenceStep n c mask scope kind words).limits = s.limits := by
  simp [State.fenceStep]

@[simp] theorem State.trimRdc_limits (s : State) (die fuel : Nat) :
    (s.trimRdc die fuel).limits = s.limits := by
  induction fuel generalizing s with
  | zero => rfl
  | succ k ih =>
    unfold State.trimRdc
    split
    · rfl
    · split
      · rfl
      · exact (ih _).trans (State.replaceSector_limits ..)

@[simp] theorem State.trimCaches_limits (s : State) : s.trimCaches.limits = s.limits := by
  unfold State.trimCaches
  refine State.foldl_limits (fun t d => ?_) ..
  rw [State.trimL2_limits]
  exact State.trimRdc_limits ..

/-! ### Functions of Machine/Pooling -/

@[simp] theorem State.applyOld_limits (s : State) (pbc t r : Nat) :
    (s.applyOld pbc t r).limits = s.limits := State.foldl_limits (fun t _ => t.applyWhere_limits _ _ _ _) ..

@[simp] theorem State.copyBytes_limits (s : State) (src dst n : Nat) :
    (s.copyBytes src dst n).limits = s.limits := State.byHome_limits (State.copyBytes_byHome ..)

/-! ### Functions of Machine/Gather -/

@[simp] theorem State.readPieces_limits (s : State) (key : Nat) (l : List (Nat × Nat)) :
    (s.readPieces key l).1.limits = s.limits := by
  induction l generalizing s with
  | nil => rfl
  | cons x l ih => exact (ih _).trans (State.homeReadLong_limits ..)

@[simp] theorem State.listPlace_limits (s : State) (n : Nat) (e : Seg) (si : BitVec 6) (off : Nat) :
    (s.listPlace n e si off).1.limits = s.limits := by
  unfold State.listPlace
  (repeat' split) <;> simp

@[simp] theorem State.listBytes_limits (s : State) (n : Nat) (x : Prog) (e : Seg) (si : BitVec 6) (off k : Nat) :
    (s.listBytes n x e si off k).1.limits = s.limits := by
  induction k generalizing s off with
  | zero => rfl
  | succ k ih =>
    have hp := State.listPlace_limits s n e si off
    unfold State.listBytes
    split
    · rfl
    · split
      next t heq => exact State.limits_of_eq heq hp
      next t key heq =>
        replace hp := State.limits_of_eq heq hp
        have hr := (State.dieRead_limits t (dieOf n) key 1).trans hp
        have hl := (ih (t.dieRead (dieOf n) key 1).1 (off + 1)).trans hr
        split
        · exact hp
        · split
          · exact hp
          · simp only []
            split
            · exact hr
            · split
              next heq => exact State.limits_of_eq heq hl
              next heq => exact State.limits_of_eq heq hl

@[simp] theorem State.readEntry_limits (s : State) (n : Nat) (x : Prog) (cap : Word) (i : Nat) :
    (s.readEntry n x cap i).1.limits = s.limits := by
  unfold State.readEntry
  simp only []
  (repeat' split) <;> simp

@[simp] theorem State.listEntry_limits (s : State) (n : Nat) (c : Cmd) (l i : Nat) :
    (s.listEntry n c l i).1.limits = s.limits := by
  unfold State.listEntry
  split <;> simp

@[simp] theorem State.readBag_limits (s : State) (n : Nat) (c : Cmd) (d : Table) (b : Bag) (i k : Nat) :
    (s.readBag n c d b i k).1.limits = s.limits := by
  induction k generalizing s b i with
  | zero => rfl
  | succ k ih =>
    have h1 := State.listEntry_limits s n c 1 i
    unfold State.readBag
    split
    next heq => exact State.limits_of_eq heq h1
    next t r heq =>
      replace h1 := State.limits_of_eq heq h1
      have h2 : (if isGbagw c.ins then t.listEntry n c 2 i else (t, .ok 0)).1.limits = s.limits :=
        State.ite_fst_limits ((State.listEntry_limits ..).trans h1) h1
      simp only []
      split
      next heq => exact State.limits_of_eq heq h2
      next heq => exact (ih ..).trans (State.limits_of_eq heq h2)

@[simp] theorem State.readBags_limits (s : State) (n : Nat) (c : Cmd) (d : Table) (lo b k : Nat) :
    (s.readBags n c d lo b k).1.limits = s.limits := by
  induction k generalizing s lo b with
  | zero => rfl
  | succ k ih =>
    have h1 : (if isGrows c.ins || isGpref c.ins then (s, Except.ok (b + 1))
        else s.listEntry n c 0 (b + 1)).1.limits = s.limits :=
      State.ite_fst_limits rfl (State.listEntry_limits ..)
    unfold State.readBags
    simp only []
    split
    next heq => exact State.limits_of_eq heq h1
    next t h heq =>
      replace h1 := State.limits_of_eq heq h1
      have h2 := (State.readBag_limits t n c d ⟨[], 0, false⟩ lo (h - lo)).trans h1
      split
      · exact h1
      · split
        next heq => exact State.limits_of_eq heq h2
        next heq => exact (ih ..).trans (State.limits_of_eq heq h2)

@[simp] theorem State.acceptGather_limits (s : State) (n : Nat) (c : Cmd) (o : CfOp) :
    (s.acceptGather n c o).limits = s.limits := by
  have h1 : (if isSingle c.ins then (s, Except.ok 0) else s.listEntry n c 0 0).1.limits = s.limits :=
    State.ite_fst_limits rfl (State.listEntry_limits ..)
  unfold State.acceptGather
  simp only []
  split
  next heq =>
    replace h1 := State.limits_of_eq heq h1
    split <;> simp [h1]
  next t lo heq =>
    replace h1 := State.limits_of_eq heq h1
    have h2 := (State.readBags_limits t n c (s.table (gTable c.img)) lo 0 (gBags c.img)).trans h1
    split <;> simp [h2]

@[simp] theorem State.readEarly_limits (s : State) (n q k : Nat) (words : BitVec 64) :
    (s.readEarly n q k words).limits = s.limits := by
  unfold State.readEarly
  split
  · rfl
  next c _ =>
    have h1 := State.readEntry_limits s n c.prog (c.listCap (k % 3)) (k / 3)
    simp only []
    split
    · rfl
    · split
      · rfl
      · rfl
      next heq _ =>
        replace h1 := State.limits_of_eq heq h1
        split
        · exact State.fillPart_limits ..
        · simp [h1]

@[simp] theorem State.lookupRow_limits (s : State) (d : Table) (t r : Nat) :
    (s.lookupRow d t r).1.limits = s.limits := by
  unfold State.lookupRow
  simp only []
  (repeat' split) <;> simp

@[simp] theorem State.lookupRows_limits (s : State) (c : Cmd) (d : Table) (p : PoolSum) (l : List (Nat × BitVec 32)) :
    (s.lookupRows c d p l).1.limits = s.limits := by
  induction l generalizing s p with
  | nil => rfl
  | cons x l ih =>
    have hx := State.lookupRow_limits s d (gTable c.img) x.1
    unfold State.lookupRows
    split
    next heq => exact State.limits_of_eq heq hx
    next heq => exact (ih ..).trans (State.limits_of_eq heq hx)

@[simp] theorem State.lookupShard_limits (s : State) (n : Nat) (c : Cmd) (bag k : Nat)
    (rows : List (Nat × BitVec 32)) :
    (s.lookupShard n c bag k rows).limits = s.limits := by
  have hr := State.lookupRows_limits s c (c.gatherTable s) ⟨0, [], []⟩ rows
  unfold State.lookupShard
  simp only []
  split
  · simp
  · split_ifs <;> simp
  · split
    · simp
    · split
      · simp
      · split
        next heq => simp [State.limits_of_eq heq hr]
        next heq => simp [State.limits_of_eq heq hr]

/-! ### Functions of Machine/Lattice -/

@[simp] theorem State.applyRegion_limits (s : State) (u r : Nat) :
    (s.applyRegion u r).limits = s.limits := by simp [State.applyRegion]

@[simp] theorem State.applyEarly_limits (s : State) (unit region key : Nat) :
    (s.applyEarly unit region key).limits = s.limits := by
  unfold State.applyEarly
  split <;> simp

@[simp] theorem State.makeRoomFor_limits (s : State) (u r : Nat) :
    (s.makeRoomFor u r).limits = s.limits := by
  unfold State.makeRoomFor
  split
  · exact State.foldl_limits (fun t y => t.applyEarly_limits _ _ _) ..
  · rfl

@[simp] theorem State.applyCmd_limits (s : State) (n : Nat) (c : Cmd) (o : CfOp) (u r : Nat) :
    (s.applyCmd n c o u r).limits = s.limits := by simp [State.applyCmd]

@[simp] theorem State.regionCmd_limits (s : State) (n : Nat) (c : Cmd) (words : BitVec 1024) :
    (s.regionCmd n c words).limits = s.limits := by
  unfold State.regionCmd
  simp only []
  (repeat' split) <;> simp

/-! ### Functions of Machine/Fabric -/

@[simp] theorem State.foreignPhaser_limits (s : State) (d n : Nat) (p : Phaser) (op : ForeignOp) :
    (s.foreignPhaser d n p op).limits = s.limits := by
  unfold State.foreignPhaser
  (repeat' split) <;> simp

@[simp] theorem State.foreignVertex_limits (s : State) (d n : Nat) (gen : BitVec 8) (op : ForeignOp) :
    (s.foreignVertex d n gen op).limits = s.limits := by
  unfold State.foreignVertex
  simp only []
  (repeat' split) <;> simp

@[simp] theorem State.awayPair_limits (s : State) (uid key : Nat) (vals : List (BitVec 32)) :
    (s.awayPair uid key vals).limits = s.limits := by
  unfold State.awayPair
  split <;> simp

@[simp] theorem State.awayStep_limits (s : State) (u r : Nat) (gen : BitVec 8) (apply : Bool) :
    (s.awayStep u r gen apply).limits = s.limits := by
  unfold State.awayStep
  split <;> simp

@[simp] theorem State.awayLookup_limits (s : State) (n t r : Nat) :
    (s.awayLookup n t r).limits = s.limits := by simp [State.awayLookup]

/-! ### Functions of Machine/Exchange -/

@[simp] theorem State.endXcmd_limits (s : State) (n q : Nat) (who : TaskRef) (x : Note) :
    (s.endXcmd n q who x).limits = s.limits := by simp [State.endXcmd]

@[simp] theorem State.xdone_limits (s : State) (n : Nat) (x : XCmd) :
    (s.xdone n x).limits = s.limits := by simp [State.xdone]

@[simp] theorem State.xfailed_limits (s : State) (n : Nat) (x : XCmd) (reached : Nat) (faddr : BitVec 52) :
    (s.xfailed n x reached faddr).limits = s.limits := by
  simp [State.xfailed]

@[simp] theorem State.dieWriteLong_limits (s : State) (die core : Nat) (cls : BitVec 4) (fuel key n v : Nat) :
    (s.dieWriteLong die core cls fuel key n v).1.limits = s.limits := by
  induction fuel generalizing s key n v with
  | zero => rfl
  | succ k ih =>
    unfold State.dieWriteLong
    simp only []
    split
    · rfl
    · split
      · split <;> simp
      · exact (ih ..).trans (by split <;> simp)

@[simp] theorem State.xsendNext_limits (s : State) (n : Nat) (x : XCmd) (o : CfOp) :
    (s.xsendNext n x o).limits = s.limits := by simp [State.xsendNext]

@[simp] theorem State.xsendBlock_limits (s : State) (n : Nat) (x : XCmd) (o : CfOp) (a b : Nat) :
    (s.xsendBlock n x o a b).limits = s.limits := by
  have hr := State.dieReadLong_limits s (dieOf n) 3 a 256
  have hw := (State.dieWriteLong_limits (s.dieReadLong (dieOf n) 3 a 256).1 (dieOf n) n x.cmd.cls 3 b 256
    (s.dieReadLong (dieOf n) 3 a 256).2.1).trans hr
  unfold State.xsendBlock
  simp only []
  split
  · simp
  · split
    next heq => simp [State.limits_of_eq heq hw]
    next heq => simp [State.limits_of_eq heq hw]

@[simp] theorem State.xsendRead_limits (s : State) (die a : Nat) (took : Store (BitVec 32)) (l : List Nat) :
    (s.xsendRead die a took l).1.limits = s.limits := by
  induction l generalizing s took with
  | nil => rfl
  | cons i l ih =>
    have hr := State.dieReadLong_limits s die 2 (a + 4 * i) 4
    unfold State.xsendRead
    simp only []
    split
    · exact hr
    · exact (ih ..).trans hr

@[simp] theorem State.xsendWrite_limits (s : State) (n : Nat) (c : Cmd) (b : Nat) (l : List Nat) :
    (s.xsendWrite n c b l).1.limits = s.limits := by
  induction l generalizing s with
  | nil => rfl
  | cons i l ih =>
    have hw := State.dieWriteLong_limits s (dieOf n) n c.cls 2 (b + 4 * i) 4 (Store.get 0 c.prog.took i).toNat
    unfold State.xsendWrite
    split
    next heq => exact State.limits_of_eq heq hw
    next heq => exact (ih _).trans (State.limits_of_eq heq hw)

@[simp] theorem State.xsendWords_limits (s : State) (n : Nat) (x : XCmd) (o : CfOp) (a b : Nat) (words : BitVec 64) :
    (s.xsendWords n x o a b words).limits = s.limits := by
  unfold State.xsendWords
  simp only []
  split
  · split
    · split <;> simp
    · split <;> simp
  · split
    next heq => simp [State.limits_of_eq (c := s.limits) heq (State.ite_fst_limits (by simp) (by simp))]
    next heq =>
      have ht := State.limits_of_eq (c := s.limits) heq (State.ite_fst_limits (by simp) (by simp))
      split <;> simp [ht]

@[simp] theorem State.xsendStep_limits (s : State) (n : Nat) (x : XCmd) (o : CfOp) (words : BitVec 64) :
    (s.xsendStep n x o words).limits = s.limits := by
  unfold State.xsendStep
  split <;> simp

@[simp] theorem State.acceptWith_limits (s : State) (n : Nat) (x : XCmd) (v size : Nat) :
    (s.acceptWith n x v size).limits = s.limits := by
  unfold State.acceptWith
  simp only []
  (repeat' split) <;> simp

@[simp] theorem State.readSource_limits (s : State) (n : Nat) (x : XCmd) (size blk : Nat) (words : BitVec 1024) :
    (s.readSource n x size blk words).limits = s.limits := by
  simp [State.readSource]

@[simp] theorem State.acceptCollective_limits (s : State) (n : Nat) (x : XCmd) (blk : Nat) (words : BitVec 1024) :
    (s.acceptCollective n x blk words).limits = s.limits := by
  unfold State.acceptCollective
  simp only []
  (repeat' split) <;> simp

@[simp] theorem State.slotWrite_limits (s : State) (w : TaskRef) (x : Option Window) (l k v : Nat) :
    (s.slotWrite w x l k v).limits = s.limits := by
  unfold State.slotWrite
  split
  · refine State.foldl_limits (fun t i => ?_) ..
    exact State.homeWrite_limits ..
  · rfl

@[simp] theorem State.answerStat_limits (s : State) (n : Nat) (x : XCmd) (words : BitVec 1024) :
    (s.answerStat n x words).limits = s.limits := by
  unfold State.answerStat
  simp only []
  split
  · exact State.orLand_limits _ _ _ _ (by simp)
  · split
    · split <;> simp
    · simp

@[simp] theorem State.endCollective_limits (s : State) (n q : Nat) :
    (s.endCollective n q).limits = s.limits := by
  unfold State.endCollective
  split <;> simp

@[simp] theorem State.deliverPiece_limits (s : State) (core seq : Nat) (c : Cmd) (b : XBlock) (p : Nat)
    (words : BitVec 64) :
    (s.deliverPiece core seq c b p words).limits = s.limits := by
  unfold State.deliverPiece
  simp only []
  (repeat' split) <;> simp

@[simp] theorem State.peerLost_limits (s : State) (i n q : Nat) :
    (s.peerLost i n q).limits = s.limits := by
  unfold State.peerLost
  (repeat' split) <;> simp

/-! ### Functions of Machine/Dcu -/

@[simp] theorem State.dcuRead_limits (s : State) (a n : Nat) :
    (s.dcuRead a n).1.limits = s.limits := by
  unfold State.dcuRead
  (repeat' split) <;> simp

@[simp] theorem State.dcuWrite_limits (s : State) (a n v : Nat) :
    (s.dcuWrite a n v).limits = s.limits := by simp [State.dcuWrite]

@[simp] theorem State.demandPoison_limits (s before : State) (a n : Nat) :
    (s.demandPoison before a n).limits = s.limits := by simp [State.demandPoison]

@[simp] theorem State.writeD_limits (s : State) (a : Nat) : (s.writeD a).limits = s.limits := by
  unfold State.writeD
  split <;> simp

@[simp] theorem State.readChain_limits (fuel : Nat) (s : State) (a : Nat) :
    (State.readChain fuel s a).1.limits = s.limits := by
  induction fuel generalizing s a with
  | zero => rfl
  | succ k ih =>
    have hx := State.dcuRead_limits s a 256
    unfold State.readChain
    simp only []
    split_ifs
    · rfl
    · exact (State.demandPoison_limits ..).trans hx
    · exact hx
    · exact hx
    · exact (ih ..).trans hx

@[simp] theorem State.validChain_limits (s : State) (a : Nat) :
    (s.validChain a).1.limits = s.limits := by
  unfold State.validChain
  simp only []
  split <;> simp

@[simp] theorem State.bindNow_limits (s : State) (die slot : Nat) (addr : BitVec 52) :
    (s.bindNow die slot addr).limits = s.limits := by
  unfold State.bindNow
  simp only []
  (repeat' split) <;> simp

@[simp] theorem State.revalidate_limits (s : State) (a : Nat) :
    (s.revalidate a).limits = s.limits := by
  unfold State.revalidate
  simp only []
  (repeat' split) <;> simp

@[simp] theorem State.revalidateOr_limits (s : State) (a : Nat) :
    (s.revalidateOr a).limits = s.limits := by simp [State.revalidateOr]

@[simp] theorem State.writeDOr_limits (s : State) (a : Nat) :
    (s.writeDOr a).limits = s.limits := by simp [State.writeDOr]

@[simp] theorem State.runDelayed_limits (s : State) (x : Delayed) :
    (s.runDelayed x).limits = s.limits := by
  cases x with
  | bind die slot addr => exact State.bindNow_limits ..
  | boundary a => exact (State.writeD_limits ..).trans (State.revalidate_limits ..)

@[simp] theorem State.actDelayed_limits (s : State) : s.actDelayed.limits = s.limits := by
  unfold State.actDelayed
  split
  · rfl
  · exact State.foldl_limits (fun t x => t.runDelayed_limits x) ..

/-! ### Functions of Machine/Fetch -/

@[simp] theorem State.aheadFault_limits (s : State) (n p kind : Nat) :
    (s.aheadFault n p kind).limits = s.limits := by
  unfold State.aheadFault
  simp only []
  split <;> simp

@[simp] theorem State.ahead_limits (n fuel : Nat) (s : State) (p lit : Nat) :
    (State.ahead n fuel s p lit).limits = s.limits := by
  induction fuel generalizing s p lit with
  | zero => rfl
  | succ k ih =>
    refine (ih ..).trans ?_
    split_ifs <;> simp

@[simp] theorem State.fetchAhead_limits (s : State) (p : BitVec 18) :
    (s.fetchAhead p).limits = s.limits := by simp [State.fetchAhead]

/-! ### Functions of Machine/Issue -/

@[simp] theorem State.walkRead_limits (s : State) (n va : Nat) (si : BitVec 6) (write : Bool) :
    (s.walkRead n va si write).limits = s.limits := by
  unfold State.walkRead
  split <;> simp

@[simp] theorem State.replay_limits (s : State) (n : Nat) (k : Task) (h : Hold) :
    (s.replay n k h).limits = s.limits := by
  unfold State.replay
  simp only []
  split
  · simp
  · simp
  · split <;> simp

@[simp] theorem State.askReplay_limits (s : State) (n : Nat) (k : Task) (h : Hold) :
    (s.askReplay n k h).limits = s.limits := by simp [State.askReplay]

@[simp] theorem State.answerAsked_limits (s : State) (n : Nat) :
    (s.answerAsked n).limits = s.limits := by
  unfold State.answerAsked
  (repeat' split) <;> simp

/-! ### Functions of Machine/Launch -/

@[simp] theorem State.loadSegs_limits (s : State) (card : BitVec 1024) :
    (s.loadSegs card).1.limits = s.limits := by
  unfold State.loadSegs
  simp only []
  (repeat' split) <;> simp

@[simp] theorem State.loadDict_limits (s : State) (card : BitVec 1024) :
    (s.loadDict card).1.limits = s.limits := by
  unfold State.loadDict
  simp only []
  (repeat' split) <;> simp

@[simp] theorem State.loadSector_limits (sector len : Nat) (x : State × Image) (p : Nat) :
    (State.loadSector sector len x p).1.limits = x.1.limits := by
  unfold State.loadSector
  simp only []
  split <;> simp

@[simp] theorem State.loadOverlay_limits (s : State) (e : Seg) (im : Image) :
    (s.loadOverlay e im).1.limits = s.limits := State.foldl_fst_limits (fun x _ => State.loadSector_limits _ _ x _) ..

@[simp] theorem State.loadImage_limits (s : State) (n : Nat) (card : BitVec 1024) (e : Seg) :
    (s.loadImage n card e).1.limits = s.limits := by
  unfold State.loadImage
  simp only []
  (repeat' split) <;> simp

/-! ### Functions of Machine/Context -/

@[simp] theorem State.takeAcquires_limits (s : State) (n : Nat) :
    (s.takeAcquires n).limits = s.limits := by
  refine State.foldl_limits (fun t c => ?_) ..
  split
  · exact State.fenceAct_limits ..
  · rfl

@[simp] theorem State.saveWindows_limits (s : State) (t : Timed) (base : Nat) :
    (s.saveWindows t base).limits = s.limits := by
  refine State.foldl_limits (fun t w => ?_) ..
  cases w with
  | none => rfl
  | some v => exact State.dcuWrite_limits ..

@[simp] theorem State.writeImage_limits (s : State) (n : Nat) (k : Task) (why : EvictReason) (base : Nat) :
    (s.writeImage n k why base).limits = s.limits := by
  simp [State.writeImage]

@[simp] theorem State.loadWindows_limits (s : State) (base : Nat) (t : Timed) :
    (s.loadWindows base t).1.limits = s.limits := by
  unfold State.loadWindows
  induction t.wins.toList generalizing s t with
  | nil => rfl
  | cons w l ih =>
    rw [List.foldl_cons]
    cases w with
    | none => exact ih ..
    | some v => exact (ih ..).trans (State.dcuRead_limits ..)

/-! ### Functions of Machine/Ring -/

@[simp] theorem State.gaveUp_limits (s : State) (n : Nat) (c : Cmd) (k : Nat) :
    (s.gaveUp n c k).limits = s.limits := by
  unfold State.gaveUp
  split
  · cases vxFields c.ins with
    | none => rfl
    | some o =>
      rw [Option.elim_some]
      exact State.releaseThen_limits _ _ _ _ _ (fun t => by simp)
  · simp
  · split
    · rfl
    · split <;> simp
  all_goals
    split
    · simp
    · split <;> simp
    · split <;> simp

@[simp] theorem State.nacked_limits (s : State) (n : Nat) (c : Cmd) (k : Nat) :
    (s.nacked n c k).limits = s.limits := by
  have h1 : ((s.awayLanes n c k).head?.elim s fun l => s.onTrust fun t => t.sealOn l.1 l.2).limits = s.limits := by
    cases (s.awayLanes n c k).head? <;> rfl
  unfold State.nacked
  simp only []
  split <;> simp [h1]

/-! ### Functions of Machine/Trust -/

@[simp] theorem State.answerEpochs_limits (s : State) : s.answerEpochs.limits = s.limits := by
  refine State.foldl_limits (fun t w => ?_) ..
  split_ifs <;> simp

@[simp] theorem State.pass_limits (s : State) : s.pass.limits = s.limits := by simp [State.pass]

@[simp] theorem State.barrierCheck_limits (s : State) :
    s.barrierCheck.limits = s.limits := by simp [State.barrierCheck]

@[simp] theorem State.arm_limits (s : State) (again : Bool) :
    (s.arm again).limits = s.limits := by simp [State.arm]

@[simp] theorem State.failBackoff_limits (s : State) (m n q k : Nat) :
    (s.failBackoff m n q k).limits = s.limits := by
  unfold State.failBackoff
  split <;> simp

@[simp] theorem State.failCrossings_limits (s : State) (m n : Nat) (c : Cmd) :
    (s.failCrossings m n c).limits = s.limits := by
  unfold State.failCrossings
  split
  · exact State.foldl_limits (fun t k => t.failBackoff_limits m n c.seq k) ..
  · simp only [State.failAt_limits]
    split
    · rw [State.foldl_limits fun t r => t.dropSector_limits ..]
    · rfl

@[simp] theorem State.evictMember_limits (s : State) (m : Nat) :
    (s.evictMember m).limits = s.limits := by
  have h1 : ((List.range 96).foldl
      (fun s n => (s.unAt n).queue.foldl (fun s c => s.failCrossings m n c) s) s).limits = s.limits :=
    State.foldl_limits (fun t n => State.foldl_limits (fun u c => u.failCrossings_limits m n c) ..) ..
  have h2 := (State.foldl_limits (f := fun (s : State) (a : Adrift) => s.failCrossings m a.core a.cmd)
    (fun t a => t.failCrossings_limits m a.core a.cmd) s.adrift _).trans h1
  exact (State.arm_limits ..).trans ((State.setMstate_limits ..).trans h2)

@[simp] theorem State.tbarr_limits (s : State) (n : Nat) (c : Cmd) (o : CfOp) (words : BitVec 1024) :
    (s.tbarr n c o words).limits = s.limits :=
  State.releaseThen_limits _ _ _ _ _ (fun t => by simp)

/-! ### Functions of Machine/Retire -/

@[simp] theorem State.sweep_limits (s : State) : s.sweep.limits = s.limits := by
  have h1 : (s.orphans.foldl State.forget { s with orphans := [] }).limits = s.limits :=
    State.foldl_limits (fun t x => t.forget_limits x) ..
  refine (State.trimCaches_limits _).trans ?_
  rw [State.withdrawIdle_limits, State.tidy_limits]
  exact (State.actDelayed_limits _).trans h1

/-! ### Functions of Machine/Health -/

@[simp] theorem State.granuleFound_limits (s : State) (g kind : Nat) (e : ScrubFinding) :
    (s.granuleFound g kind e).limits = s.limits := by
  cases e <;> simp [State.granuleFound]

@[simp] theorem State.rdcError_limits (s : State) (die sector g : Nat) :
    (s.rdcError die sector g).limits = s.limits := by simp [State.rdcError]

@[simp] theorem State.l2Error_limits (s : State) (die sector g : Nat) (dirty : Bool) :
    (s.l2Error die sector g dirty).limits = s.limits := by simp [State.l2Error]

@[simp] theorem State.errorArises_limits (s : State) (x : MemErrorSite) :
    (s.errorArises x).limits = s.limits := by
  cases x <;> simp [State.errorArises]

@[simp] theorem State.readingEntries_limits (s : State) (old : Control) :
    (s.readingEntries old).limits = s.limits := by
  unfold State.readingEntries
  simp

@[simp] theorem State.lost_limits (s : State) (ctl : Control) : (s.lost ctl).limits = (1400000, ctl.pwrCap) := rfl

@[simp] theorem State.trip_limits (s : State) (unit value : Nat) : (s.trip unit value).limits = (1400000, s.limits.2) :=
  congrArg (1400000, ·.2) (s.health_limits 11 unit 0 0 value)

@[simp] theorem State.stepPower_limits (s : State) :
    s.stepPower.limits = s.limits := by simp [State.stepPower]

/-! ### Functions of Machine/Start -/

@[simp] theorem State.restarted_limits (s : State) (pos : BitVec 4) (m : Memory) (poison : List Nat) (ctl : Control) :
    (s.restarted pos m poison ctl).limits = (1400000, ctl.pwrCap) := rfl

@[simp] theorem State.startFails_limits (s : State) (r : BitVec 4) : (s.startFails r).limits = (1400000, s.limits.2) := rfl

end Sys2Proof.Machine
end

section
/-!
SUPPORT. The bounds of PERIOD and PWRCAP under the meanings. `boundedAfter` says of an outcome that the bounds hold where it
goes on; every meaning has one lemma here. An instruction of a bundle gets its lemma from its slot.
-/

namespace Sys2Proof.Machine

/-- Where an outcome goes on, PERIOD and PWRCAP are within their bounds. -/
def boundedAfter (o : Out) : Prop := ∀ t, o = .next t → limitsOk t.limits

@[simp] theorem boundedAfter_next (s : State) : boundedAfter (.next s) ↔ limitsOk s.limits :=
  ⟨fun h => h s rfl, fun h _ e => Host.Outcome.next.inj e ▸ h⟩

@[simp] theorem boundedAfter_fault (f : Fault) : boundedAfter (.fault f) := fun _ h => by cases h

@[simp] theorem boundedAfter_ite (c : Prop) [Decidable c] (o p : Out) :
    boundedAfter (if c then o else p) ↔ if c then boundedAfter o else boundedAfter p := by split <;> rfl

theorem andThen_bounded {o : Out} {f : State → Out} (ho : boundedAfter o)
    (hf : ∀ t, limitsOk t.limits → boundedAfter (f t)) :
    boundedAfter (andThen o f) := fun t h =>
  have ⟨u, hu, ht⟩ := (andThen_next o f t).1 h
  hf u (ho u hu) t ht

theorem boundedAfter_of_limits {s t : State} (h : t.limits = s.limits) (hs : limitsOk s.limits) : boundedAfter (.next t) :=
  (boundedAfter_next t).2 (h ▸ hs)

/-! ### Functions of Machine/Ops -/

@[simp] theorem State.timedNext_bounded (s : State) (f : Timed → Timed) (hs : limitsOk s.limits) :
    boundedAfter (s.timedNext f) := by simp [State.timedNext, hs]

/-! ### Functions of Machine/Traps -/

@[simp] theorem State.trapOr_bounded (s : State) (slot : BitVec 4) (tr : Option Trap) (f : Timed → Timed)
    (hs : limitsOk s.limits) :
    boundedAfter (s.trapOr slot tr f) := by
  unfold State.trapOr
  split <;> simp [hs]

/-! ### Functions of Machine/Scalar -/

@[simp] theorem execRR_bounded (f : Word → Word → Word) (lat : Nat) (d a b : BitVec 6) (s : State)
    (hs : limitsOk s.limits) :
    boundedAfter (execRR f lat d a b s) := by
  simp [execRR, hs]

@[simp] theorem execR_bounded (f : Word → Word) (d a : BitVec 6) (s : State) (hs : limitsOk s.limits) :
    boundedAfter (execR f d a s) := by simp [execR, hs]

@[simp] theorem execF_bounded (d : BitVec 6) (f : Timed → Word × BitVec 5) (s : State) (hs : limitsOk s.limits) :
    boundedAfter (execF d f s) := by simp [execF, hs]

@[simp] theorem execLds_bounded (n : Nat) (ext : Nat → Word) (d a : BitVec 6) (i : BitVec 12) (s : State)
    (hs : limitsOk s.limits) :
    boundedAfter (execLds n ext d a i s) := by
  simp [execLds, hs]

@[simp] theorem execSts_bounded (n : Nat) (b a : BitVec 6) (i : BitVec 12) (s : State) (hs : limitsOk s.limits) :
    boundedAfter (execSts n b a i s) := by simp [execSts, hs]

/-! ### Functions of Machine/Copy -/

@[simp] theorem passThrough_bounded (i : Instr) (tr : Option Trap) (f : Timed → Timed) (s : State)
    (hs : limitsOk s.limits) :
    boundedAfter (passThrough i tr f s) := by
  unfold passThrough
  split <;> simp [hs]

@[simp] theorem tileCmd_bounded (i : Instr) (o : CaOp) (tr : Option Trap) (s : State) (hs : limitsOk s.limits) :
    boundedAfter (tileCmd i o tr s) := by
  unfold tileCmd
  split <;> simp [hs]

@[simp] theorem execWcopy_bounded (o : CaOp) (s : State) (hs : limitsOk s.limits) : boundedAfter (execWcopy o s) := by
  unfold execWcopy
  split <;> simp [hs]

@[simp] theorem execWfill_bounded (o : CaOp) (s : State) (hs : limitsOk s.limits) : boundedAfter (execWfill o s) := by
  unfold execWfill
  split <;> simp [hs]

@[simp] theorem execBclose_bounded (f : BitVec 5) (s : State) (hs : limitsOk s.limits) :
    boundedAfter (execBclose f s) := by simp [execBclose, hs]

@[simp] theorem execBwait_bounded (n : BitVec 8) (s : State) (hs : limitsOk s.limits) :
    boundedAfter (execBwait n s) := by simp [execBwait, hs]

/-! ### Functions of Machine/Engine -/

@[simp] theorem issueFlagged_bounded (tr : Option Trap) (f : BitVec 5) (c : Cmd) (s : State) (hs : limitsOk s.limits) :
    boundedAfter (issueFlagged tr f c s) := by
  unfold issueFlagged
  split <;> simp [hs]

/-! ### Functions of Machine/VertexCmd -/

@[simp] theorem execPharm_bounded (o : CfOp) (s : State) (hs : limitsOk s.limits) : boundedAfter (execPharm o s) := by
  unfold execPharm
  simp only []
  (repeat' split) <;> simp [hs]

/-! ### Functions of Machine/Vertex -/

@[simp] theorem execVertexOperation_bounded (core : Nat) (w : CmdWords 1024) (s : State) (hs : limitsOk s.limits) :
    boundedAfter (execVertexOperation core w s) := by
  unfold execVertexOperation
  split
  · split
    · simp [hs]
    · split
      · simp [hs]
      · refine boundedAfter_of_limits (State.orLand_limits _ _ _ _ ?_) hs
        split
        · exact State.vxLocal_limits ..
        · split
          · exact State.vxRemote_limits ..
          · exact State.releaseThen_limits _ _ _ _ _ fun t => by simp
  · simp [hs]

@[simp] theorem execArmComplete_bounded (core arm : Nat) (s : State) (hs : limitsOk s.limits) :
    boundedAfter (execArmComplete core arm s) := by
  unfold execArmComplete
  split <;> simp [hs]

@[simp] theorem execVertexRecordMove_bounded (die obj : Nat) (s : State) (hs : limitsOk s.limits) :
    boundedAfter (execVertexRecordMove die obj s) := by
  unfold execVertexRecordMove
  simp only []
  (repeat' split) <;> simp [hs]

theorem State.vxHost_bounded (s : State) (die obj : Nat) (allowed : ObjKind → Bool) {f : State → State}
    (hf : (f s).limits = s.limits) (hs : limitsOk s.limits) : boundedAfter (s.vxHost die obj allowed f) := by
  simp [State.vxHost, hs, hf]

@[simp] theorem execInitSync_bounded (die obj : Nat) (s : State) (hs : limitsOk s.limits) :
    boundedAfter (execInitSync die obj s) := by
  refine State.vxHost_bounded _ _ _ _ ?_ hs
  simp only []
  split <;> simp

@[simp] theorem execInitPhaser_bounded (die obj : Nat) (s : State) (hs : limitsOk s.limits) :
    boundedAfter (execInitPhaser die obj s) := by
  refine State.vxHost_bounded _ _ _ _ ?_ hs
  simp only []
  split <;> simp

@[simp] theorem execReadObject_bounded (die obj : Nat) (s : State) (hs : limitsOk s.limits) :
    boundedAfter (execReadObject die obj s) := by
  refine State.vxHost_bounded _ _ _ _ ?_ hs
  simp only []
  split <;> simp

@[simp] theorem execFreeObject_bounded (die obj : Nat) (s : State) (hs : limitsOk s.limits) :
    boundedAfter (execFreeObject die obj s) := by simp [execFreeObject, hs]

@[simp] theorem execBreakPhaser_bounded (die obj : Nat) (s : State) (hs : limitsOk s.limits) :
    boundedAfter (execBreakPhaser die obj s) := by
  unfold execBreakPhaser
  simp only []
  split
  · simp [hs]
  · split
    · split <;> simp [hs]
    · simp [hs]
    · simp [hs]

@[simp] theorem execVertexBadCommand_bounded (die : Nat) (op : BitVec 4) (_obj : Nat) (s : State) (hs : limitsOk s.limits) :
    boundedAfter (execVertexBadCommand die op _obj s) := by simp [execVertexBadCommand, hs]

@[simp] theorem execOvfBaseWrite_bounded (die : Nat) (v : Word) (s : State) (hs : limitsOk s.limits) :
    boundedAfter (execOvfBaseWrite die v s) := by simp [execOvfBaseWrite, hs]

@[simp] theorem execObjCountWrite_bounded (die : Nat) (v : Word) (s : State) (hs : limitsOk s.limits) :
    boundedAfter (execObjCountWrite die v s) := by simp [execObjCountWrite, hs]

/-! ### Functions of Machine/CopyEngine -/

@[simp] theorem execSectorRequestIssue_bounded (core : Nat) (w : CmdWords 64) (s : State) (hs : limitsOk s.limits) :
    boundedAfter (execSectorRequestIssue core w s) := by
  unfold execSectorRequestIssue
  (repeat' split) <;> simp [hs]

@[simp] theorem execHomeAccess_bounded (a : HomeReq) (s : State) (hs : limitsOk s.limits) :
    boundedAfter (execHomeAccess a s) := by
  unfold execHomeAccess
  (repeat' split) <;> simp [hs]

@[simp] theorem execStremoRelease_bounded (core seq req : Nat) (s : State) (hs : limitsOk s.limits) :
    boundedAfter (execStremoRelease core seq req s) := by
  unfold execStremoRelease
  split <;> simp [hs]

@[simp] theorem execSectorResponse_bounded (core seq req : Nat) (words : BitVec 1024) (s : State) (hs : limitsOk s.limits) :
    boundedAfter (execSectorResponse core seq req words s) := by
  unfold execSectorResponse
  (repeat' split) <;> simp [hs]

@[simp] theorem execCopyPageTranslation_bounded (core seq : Nat) (s : State) (hs : limitsOk s.limits) :
    boundedAfter (execCopyPageTranslation core seq s) := by
  unfold execCopyPageTranslation
  simp only []
  (repeat' split) <;> simp [hs]

@[simp] theorem execCopyCommandComplete_bounded (core : Nat) (w : CmdBlock) (s : State) (hs : limitsOk s.limits) :
    boundedAfter (execCopyCommandComplete core w s) := by
  unfold execCopyCommandComplete
  (repeat' split) <;> simp [hs]

@[simp] theorem execBatchComplete_bounded (core batch : Nat) (s : State) (hs : limitsOk s.limits) :
    boundedAfter (execBatchComplete core batch s) := by
  unfold execBatchComplete
  (repeat' split) <;> simp [hs]

@[simp] theorem execRdcReplacement_bounded (die : Nat) (x : SectorWords) (s : State) (hs : limitsOk s.limits) :
    boundedAfter (execRdcReplacement die x s) := by simp [execRdcReplacement, hs]

/-! ### Functions of Machine/Pooling -/

@[simp] theorem execMigrationInSwitch_bounded (pbc slot : Nat) (s : State) (hs : limitsOk s.limits) :
    boundedAfter (execMigrationInSwitch pbc slot s) := by
  unfold execMigrationInSwitch
  split <;> simp [hs]

@[simp] theorem execMigrationTimeout_bounded (pbc slot : Nat) (s : State) (hs : limitsOk s.limits) :
    boundedAfter (execMigrationTimeout pbc slot s) := by
  unfold execMigrationTimeout
  split <;> simp [hs]

@[simp] theorem execDemotionSwitch_bounded (pbc slot : Nat) (s : State) (hs : limitsOk s.limits) :
    boundedAfter (execDemotionSwitch pbc slot s) := by
  unfold execDemotionSwitch
  split <;> simp [hs]

@[simp] theorem execTload_bounded (pbc table : Nat) (s : State) (hs : limitsOk s.limits) :
    boundedAfter (execTload pbc table s) := by simp [execTload, hs]

@[simp] theorem execTdrop_bounded (pbc table : Nat) (s : State) (hs : limitsOk s.limits) :
    boundedAfter (execTdrop pbc table s) := by simp [execTdrop, hs]

@[simp] theorem execTread_bounded (pbc table : Nat) (s : State) (hs : limitsOk s.limits) :
    boundedAfter (execTread pbc table s) := by simp [execTread, hs]

@[simp] theorem execHotload_bounded (pbc table : Nat) (s : State) (hs : limitsOk s.limits) :
    boundedAfter (execHotload pbc table s) := by simp [execHotload, hs]

@[simp] theorem execHotflush_bounded (pbc table : Nat) (s : State) (hs : limitsOk s.limits) :
    boundedAfter (execHotflush pbc table s) := by simp [execHotflush, hs]

@[simp] theorem execSkclr_bounded (pbc group : Nat) (s : State) (hs : limitsOk s.limits) :
    boundedAfter (execSkclr pbc group s) := by simp [execSkclr, hs]

@[simp] theorem execPbcBadCommand_bounded (pbc : Nat) (op : BitVec 8) (s : State) (hs : limitsOk s.limits) :
    boundedAfter (execPbcBadCommand pbc op s) := by simp [execPbcBadCommand, hs]

@[simp] theorem State.hotWrite_bounded (s : State) (n : Nat) (base : BitVec 52) (slots : BitVec 20) (log2 : BitVec 4)
    (hs : limitsOk s.limits) :
    boundedAfter (s.hotWrite n base slots log2) := by
  simp [State.hotWrite, hs]

@[simp] theorem execHotBaseWrite_bounded (pbc : Nat) (v : Word) (s : State) (hs : limitsOk s.limits) :
    boundedAfter (execHotBaseWrite pbc v s) := by simp [execHotBaseWrite, hs]

@[simp] theorem execHotSlotsWrite_bounded (pbc : Nat) (v : Word) (s : State) (hs : limitsOk s.limits) :
    boundedAfter (execHotSlotsWrite pbc v s) := by simp [execHotSlotsWrite, hs]

@[simp] theorem execSlotlog2Write_bounded (pbc : Nat) (v : Word) (s : State) (hs : limitsOk s.limits) :
    boundedAfter (execSlotlog2Write pbc v s) := by simp [execSlotlog2Write, hs]

@[simp] theorem execMigLimitWrite_bounded (pbc : Nat) (v : Word) (s : State) (hs : limitsOk s.limits) :
    boundedAfter (execMigLimitWrite pbc v s) := by simp [execMigLimitWrite, hs]

@[simp] theorem execPbcQueryAnswer_bounded (core : Nat) (w : CmdWords 1024) (s : State) (hs : limitsOk s.limits) :
    boundedAfter (execPbcQueryAnswer core w s) := by
  unfold execPbcQueryAnswer
  split
  · simp [hs]
  · split
    · simp [hs]
    · extract_lets row t r n away
      split
      · simp [hs]
      · refine boundedAfter_of_limits (State.orLand_limits _ _ _ _ ?_) hs
        split_ifs
        · simp
        · simp
        · split <;> simp

/-! ### Functions of Machine/Gather -/

@[simp] theorem execGatherAccept_bounded (core : Nat) (w : CmdBlock) (s : State) (hs : limitsOk s.limits) :
    boundedAfter (execGatherAccept core w s) := by
  unfold execGatherAccept
  split
  · simp [hs]
  · split
    · simp [hs]
    · split_ifs
      · simp [hs]
      · simp [hs]
      · simp [hs]
      · exact boundedAfter_of_limits (State.foldl_limits (fun t i => t.readEarly_limits core ..) ..) hs

@[simp] theorem execShardLookup_bounded (core seq bag shard : Nat) (s : State) (hs : limitsOk s.limits) :
    boundedAfter (execShardLookup core seq bag shard s) := by
  unfold execShardLookup
  split <;> simp [hs]

@[simp] theorem execPartialCombine_bounded (core seq : Nat) (w : BagWords) (s : State) (hs : limitsOk s.limits) :
    boundedAfter (execPartialCombine core seq w s) := by
  unfold execPartialCombine
  (repeat' split) <;> simp [hs]

/-! ### Functions of Machine/ExchangeCmd -/

@[simp] theorem execXcan_bounded (o : CfOp) (s : State) (hs : limitsOk s.limits) :
    boundedAfter (execXcan o s) := by simp [execXcan, hs]

/-! ### Functions of Machine/LatticeCmd -/

@[simp] theorem execLopen_bounded (o : CfOp) (s : State) (hs : limitsOk s.limits) : boundedAfter (execLopen o s) := by
  unfold execLopen
  simp only []
  (repeat' split) <;> simp [hs]

@[simp] theorem pushCmd_bounded (i : Instr) (o : CfOp) (n : Nat) (s : State) (hs : limitsOk s.limits) :
    boundedAfter (pushCmd i o n s) := by
  unfold pushCmd
  (repeat' split) <;> simp [hs]

@[simp] theorem closeCmd_bounded (i : Instr) (o : CfOp) (s : State) (hs : limitsOk s.limits) :
    boundedAfter (closeCmd i o s) := by
  unfold closeCmd
  (repeat' split) <;> simp [hs]

/-! ### Functions of Machine/Lattice -/

@[simp] theorem execRinit_bounded (unit region : Nat) (s : State) (hs : limitsOk s.limits) :
    boundedAfter (execRinit unit region s) := by simp [execRinit, hs]

@[simp] theorem execRfree_bounded (unit region : Nat) (s : State) (hs : limitsOk s.limits) :
    boundedAfter (execRfree unit region s) := by
  unfold execRfree
  (repeat' split) <;> simp [hs]

@[simp] theorem execRread_bounded (unit region : Nat) (s : State) (hs : limitsOk s.limits) :
    boundedAfter (execRread unit region s) := by
  unfold execRread
  simp only []
  (repeat' split) <;> simp [hs]

@[simp] theorem execRflush_bounded (unit region : Nat) (s : State) (hs : limitsOk s.limits) :
    boundedAfter (execRflush unit region s) := by
  unfold execRflush
  (repeat' split) <;> simp [hs]

@[simp] theorem execRabort_bounded (unit region : Nat) (s : State) (hs : limitsOk s.limits) :
    boundedAfter (execRabort unit region s) := by
  unfold execRabort
  (repeat' split) <;> simp [hs]

@[simp] theorem execLatticeBadCommand_bounded (unit : Nat) (op : BitVec 4) (region : Nat) (s : State)
    (hs : limitsOk s.limits) :
    boundedAfter (execLatticeBadCommand unit op region s) := by
  simp [execLatticeBadCommand, hs]

@[simp] theorem execPairIntake_bounded (core seq : Nat) (s : State) (hs : limitsOk s.limits) :
    boundedAfter (execPairIntake core seq s) := by
  unfold execPairIntake
  split <;> simp [hs]

@[simp] theorem execStreamCommit_bounded (core seq : Nat) (s : State) (hs : limitsOk s.limits) :
    boundedAfter (execStreamCommit core seq s) := by
  unfold execStreamCommit
  simp only []
  (repeat' split) <;> simp [hs]

@[simp] theorem execLatticeRegionCommand_bounded (core : Nat) (w : CmdWords 1024) (s : State) (hs : limitsOk s.limits) :
    boundedAfter (execLatticeRegionCommand core w s) := by
  unfold execLatticeRegionCommand
  split
  · simp [hs]
  · split
    · simp [hs]
    · split
      · simp [hs]
      · refine boundedAfter_of_limits (State.orLand_limits _ _ _ _ ?_) hs
        split <;> simp

@[simp] theorem execEarlyApply_bounded (unit region key : Nat) (s : State) (hs : limitsOk s.limits) :
    boundedAfter (execEarlyApply unit region key s) := by simp [execEarlyApply, hs]

@[simp] theorem execBinSpillMove_bounded (unit region key : Nat) (toSpill : Bool) (s : State) (hs : limitsOk s.limits) :
    boundedAfter (execBinSpillMove unit region key toSpill s) := by
  unfold execBinSpillMove
  simp only []
  split <;> simp [hs]

/-! ### Functions of Machine/Fabric -/

@[simp] theorem State.crossIn_bounded (s : State) (x : Crossing) (hs : limitsOk s.limits) : boundedAfter (s.crossIn x) := by
  unfold State.crossIn
  split <;> simp [hs]

@[simp] theorem State.openSealed_bounded (s : State) (m lane n : Nat) (epochBit tagOk : Bool) (body : Crossing)
    (hs : limitsOk s.limits) :
    boundedAfter (s.openSealed m lane n epochBit tagOk body) := by
  simp [State.openSealed, hs]

@[simp] theorem execRackModuleJoin_bounded (m : Nat) (s : State) (hs : limitsOk s.limits) :
    boundedAfter (execRackModuleJoin m s) := by simp [execRackModuleJoin, hs]

@[simp] theorem execRackModuleLoss_bounded (m : Nat) (s : State) (hs : limitsOk s.limits) :
    boundedAfter (execRackModuleLoss m s) := by simp [execRackModuleLoss, hs]

/-! ### Functions of Machine/Exchange -/

@[simp] theorem execCollectiveAccept_bounded (core : Nat) (w : CmdBlock) (s : State) (hs : limitsOk s.limits) :
    boundedAfter (execCollectiveAccept core w s) := by
  unfold execCollectiveAccept
  (repeat' split) <;> simp [hs]

@[simp] theorem execExchangeDelivery_bounded (x : Delivery) (s : State) (hs : limitsOk s.limits) :
    boundedAfter (execExchangeDelivery x s) := by
  unfold execExchangeDelivery
  (repeat' split) <;> simp [hs]

@[simp] theorem execUetPacketReceive_bounded (p : UetPacket) (s : State) (hs : limitsOk s.limits) :
    boundedAfter (execUetPacketReceive p s) := by
  unfold execUetPacketReceive
  split
  · simp [hs]
  · split
    · simp [hs]
    · simp only []
      split
      · exact andThen_bounded (by simp [hs]) fun t ht => (boundedAfter_next _).2 (by rw [State.onXchg_limits]; exact ht)
      · simp [hs]

@[simp] theorem execUetRetransmit_bounded (peer core : Nat) (w : CmdPacket) (s : State) (hs : limitsOk s.limits) :
    boundedAfter (execUetRetransmit peer core w s) := by simp [execUetRetransmit, hs]

@[simp] theorem execPortLinkChange_bounded (port : Nat) (up : Bool) (s : State) (hs : limitsOk s.limits) :
    boundedAfter (execPortLinkChange port up s) := by simp [execPortLinkChange, hs]

@[simp] theorem execNrankWrite_bounded (g : Nat) (v : Word) (s : State) (hs : limitsOk s.limits) :
    boundedAfter (execNrankWrite g v s) := by simp [execNrankWrite, hs]

/-! ### Functions of Machine/Dcu -/

@[simp] theorem execBind_bounded (die slot : Nat) (addr : BitVec 52) (s : State) (hs : limitsOk s.limits) :
    boundedAfter (execBind die slot addr s) := by simp [execBind, hs]

@[simp] theorem execUnbind_bounded (die : Nat) (w : SlotAddress) (s : State) (hs : limitsOk s.limits) :
    boundedAfter (execUnbind die w s) := by simp [execUnbind, hs]

@[simp] theorem execDoorbell_bounded (die slot : Nat) (tail region : BitVec 32) (s : State) (hs : limitsOk s.limits) :
    boundedAfter (execDoorbell die slot tail region s) := by
  unfold execDoorbell
  simp only []
  (repeat' split) <;> simp [hs]

@[simp] theorem execPeriodWrite_bounded (_die : Nat) (v : BitVec 32) (s : State) (hs : limitsOk s.limits) :
    boundedAfter (execPeriodWrite _die v s) := by
  refine (boundedAfter_next _).2 ⟨?_, hs.2⟩
  change 14000 ≤ (if v.toNat < 14000 then 14000#32 else v).toNat
  split
  · decide
  · omega

theorem State.command_bounded (s : State) (die : Nat) {f : State → State} (hf : (f s).limits = s.limits)
    (hs : limitsOk s.limits) : boundedAfter (s.command die f) := by
  simp [State.command, hs, hf]

@[simp] theorem execCancel_bounded (die : Nat) (id : BitVec 32) (s : State) (hs : limitsOk s.limits) :
    boundedAfter (execCancel die id s) := by
  refine State.command_bounded _ _ ?_ hs
  split <;> simp

@[simp] theorem execEnable_bounded (die : Nat) (id : BitVec 32) (s : State) (hs : limitsOk s.limits) :
    boundedAfter (execEnable die id s) := by
  refine State.command_bounded _ _ ?_ hs
  split <;> simp

@[simp] theorem execFlushImage_bounded (die : Nat) (s : State) (hs : limitsOk s.limits) :
    boundedAfter (execFlushImage die s) := State.command_bounded _ _ (by simp) hs

@[simp] theorem execDcuBadCommand_bounded (die : Nat) (_op : BitVec 8) (s : State) (hs : limitsOk s.limits) :
    boundedAfter (execDcuBadCommand die _op s) := State.command_bounded _ _ (by simp) hs

@[simp] theorem execJobCardRead_bounded (die slot : Nat) (s : State) (hs : limitsOk s.limits) :
    boundedAfter (execJobCardRead die slot s) := by
  unfold execJobCardRead
  simp only []
  split <;> simp [hs]

@[simp] theorem execBudgetPeriodBoundary_bounded (s : State) (hs : limitsOk s.limits) :
    boundedAfter (execBudgetPeriodBoundary s) := by
  unfold execBudgetPeriodBoundary
  split
  · simp [hs]
  · refine boundedAfter_of_limits ((State.tidy_limits _).trans ?_) hs
    exact (State.foldl_limits (fun t a => t.writeDOr_limits a) ..).trans
      (State.foldl_limits (fun t a => t.revalidateOr_limits a) ..)

@[simp] theorem execPinnedChargeReport_bounded (die : Nat) (s : State) (hs : limitsOk s.limits) :
    boundedAfter (execPinnedChargeReport die s) := by simp [execPinnedChargeReport, hs]

/-! ### Functions of Machine/Dispatcher -/

@[simp] theorem execDispatchDecision_bounded (die : Nat) (s : State) (hs : limitsOk s.limits) :
    boundedAfter (execDispatchDecision die s) := by
  unfold execDispatchDecision
  split <;> simp [hs]

@[simp] theorem execEvict_bounded (die : Nat) (id : BitVec 32) (s : State) (hs : limitsOk s.limits) :
    boundedAfter (execEvict die id s) := by
  refine State.command_bounded _ _ ?_ hs
  simp only []
  split_ifs <;> simp

/-! ### Functions of Machine/Branch -/

@[simp] theorem execTransfer_bounded (taken : Timed → Bool) (target : Timed → BitVec 18) (s : State)
    (hs : limitsOk s.limits) :
    boundedAfter (execTransfer taken target s) := by
  simp [execTransfer, hs]

/-! ### Functions of Machine/Fetch -/

@[simp] theorem execLoopSkip_bounded (s : State) (hs : limitsOk s.limits) : boundedAfter (execLoopSkip s) := by
  unfold execLoopSkip
  simp only []
  (repeat' split) <;> simp [hs]

@[simp] theorem execIdleExpiry_bounded (s : State) (hs : limitsOk s.limits) :
    boundedAfter (execIdleExpiry s) := by simp [execIdleExpiry, hs]

/-! ### Functions of Machine/Matrix -/

@[simp] theorem execPush_bounded (ovw : Bool) (v : BitVec 8) (sr : BitVec 4) (row : BitVec 12) (s : State)
    (hs : limitsOk s.limits) :
    boundedAfter (execPush ovw v sr row s) := by
  simp [execPush, hs]

@[simp] theorem execDrainCombine_bounded (s : State) (hs : limitsOk s.limits) :
    boundedAfter (execDrainCombine s) := by simp [execDrainCombine, hs]

/-! ### Functions of Machine/VectorA -/

@[simp] theorem intArith_bounded (o : VOp) (f : ElemTy → Nat → Nat → Nat) (s : State) (hs : limitsOk s.limits) :
    boundedAfter (intArith o f s) := by simp [intArith, hs]

@[simp] theorem floatArith_bounded (o : VOp) (f : FVal → FVal → FVal) (s : State) (hs : limitsOk s.limits) :
    boundedAfter (floatArith o f s) := by simp [floatArith, hs]

@[simp] theorem floatPick_bounded (o : VOp) (f : FVal → FVal → FVal) (s : State) (hs : limitsOk s.limits) :
    boundedAfter (floatPick o f s) := by simp [floatPick, hs]

@[simp] theorem floatSign_bounded (o : VOp) (f : FVal → FVal) (s : State) (hs : limitsOk s.limits) :
    boundedAfter (floatSign o f s) := by simp [floatSign, hs]

@[simp] theorem fused_bounded (o : VOp) (f : FVal → FVal → FVal → FVal) (s : State) (hs : limitsOk s.limits) :
    boundedAfter (fused o f s) := by simp [fused, hs]

@[simp] theorem reduceInt_bounded (o : VOp) (init : ElemTy → Int) (f : Int → Int → Int) (s : State)
    (hs : limitsOk s.limits) :
    boundedAfter (reduceInt o init f s) := by
  simp [reduceInt, hs]

@[simp] theorem reduceFloat_bounded (o : VOp) (f : FVal → FVal → FVal) (fin : Bool → Option FVal → FVal) (s : State)
    (hs : limitsOk s.limits) :
    boundedAfter (reduceFloat o f fin s) := by
  simp [reduceFloat, hs]

@[simp] theorem reduceBits_bounded (o : VOp) (init : Nat) (f : Nat → Nat → Nat) (s : State) (hs : limitsOk s.limits) :
    boundedAfter (reduceBits o init f s) := by simp [reduceBits, hs]

/-! ### Functions of Machine/VectorB -/

@[simp] theorem compare_bounded (o : VOp) (ri : Int → Int → Bool) (rf : FVal → FVal → Bool) (s : State)
    (hs : limitsOk s.limits) :
    boundedAfter (compare o ri rf s) := by
  simp [compare, hs]

@[simp] theorem shiftEach_bounded (o : VOp) (f : ElemTy → Nat → Nat → Nat) (s : State) (hs : limitsOk s.limits) :
    boundedAfter (shiftEach o f s) := by simp [shiftEach, hs]

@[simp] theorem funnelEach_bounded (o : VOp) (f : Nat → Nat → Nat → Nat → Nat) (s : State)
    (hs : limitsOk s.limits) :
    boundedAfter (funnelEach o f s) := by simp [funnelEach, hs]

@[simp] theorem pendPair_bounded (o : VOp) (f g : Timed → Nat → Nat) (s : State) (hs : limitsOk s.limits) :
    boundedAfter (pendPair o f g s) := by simp [pendPair, hs]

@[simp] theorem convert_bounded (o : VOp) (f : Timed → ElemTy → Nat → EOut) (s : State) (hs : limitsOk s.limits) :
    boundedAfter (convert o f s) := by
  unfold convert
  split <;> simp [hs]

@[simp] theorem maskOp_bounded (o : VOp) (f : MReg → MReg → MReg) (s : State) (hs : limitsOk s.limits) :
    boundedAfter (maskOp o f s) := by simp [maskOp, hs]

/-! ### Functions of Machine/Reads -/

@[simp] theorem execAccumulateLanding_bounded (s : State) (hs : limitsOk s.limits) :
    boundedAfter (execAccumulateLanding s) := by simp [execAccumulateLanding, hs]

@[simp] theorem execResultLanding_bounded (s : State) (hs : limitsOk s.limits) :
    boundedAfter (execResultLanding s) := by simp [execResultLanding, hs]

/-! ### Functions of Machine/Sync -/

@[simp] theorem execWait_bounded (mask : BitVec 32) (s : State) (hs : limitsOk s.limits) :
    boundedAfter (execWait mask s) := by
  unfold execWait
  split <;> simp [hs]

@[simp] theorem execWaitAny_bounded (mask : BitVec 32) (s : State) (hs : limitsOk s.limits) :
    boundedAfter (execWaitAny mask s) := by
  unfold execWaitAny
  split <;> simp [hs]

@[simp] theorem execWaitC_bounded (mask : BitVec 32) (s : State) (hs : limitsOk s.limits) :
    boundedAfter (execWaitC mask s) := by
  unfold execWaitC
  split <;> simp [hs]

@[simp] theorem execEndTask_bounded (s : State) (hs : limitsOk s.limits) : boundedAfter (execEndTask s) := by
  unfold execEndTask
  simp only []
  split <;> simp [hs]

/-! ### Functions of Machine/Transpose -/

@[simp] theorem execXpose_bounded (w : Nat) (d a : BitVec 8) (k : BitVec 4) (s : State) (hs : limitsOk s.limits) :
    boundedAfter (execXpose w d a k s) := by simp [execXpose, hs]

/-! ### Functions of Machine/Slots -/

theorem slotSync_bounded (i : Instr) (s : State) (hs : limitsOk s.limits) : boundedAfter (slotSync i s) := by
  unfold slotSync
  split <;> simp only [hs,
    boundedAfter_next, State.setCore_limits, execWait_bounded, execWaitAny_bounded, execWaitC_bounded, execFclr]

theorem slotBranch_bounded (i : Instr) (s : State) (hs : limitsOk s.limits) : boundedAfter (slotBranch i s) := by
  cases i
  case jmp | beqz | bnez | bltz | bgez => exact execTransfer_bounded _ _ _ hs
  case jmpr | bmt | bmf | call | callr | ret | rspush | rspop | loop => exact State.trapOr_bounded _ _ _ _ hs
  case idle | mark => exact boundedAfter_of_limits (State.setTimed_limits s _) hs
  case trapi | abort => exact boundedAfter_of_limits (State.takeTrap_limits s _ _) hs
  all_goals exact (boundedAfter_next s).2 hs

theorem slotScalar_bounded (i : Instr) (s : State) (hs : limitsOk s.limits) : boundedAfter (slotScalar i s) := by
  unfold slotScalar
  split <;> simp only [hs,
    execRR_bounded, execR_bounded, execF_bounded, execLds_bounded, execSts_bounded, State.timedNext_bounded,
    boundedAfter_next, execAdd, execSub, execAnd, execOr, execXor, execShl, execShr, execAsr, execCmpltI64,
    execCmpltN64, execCmpeq, execMinI64, execMaxI64, execMinN64, execMaxN64, execMul, execMulhI64, execMulhN64,
    execDivI64, execDivN64, execRemI64, execRemN64, execAddi, execAndi, execOri, execXori, execCmplti, execShli,
    execShri, execAsri,
    execSeth, execPuth, execCapadd, execCapaddi, execCapmk, execCapseg, execCapoff, execFaddF32, execFsubF32,
    execFmulF32, execFmaF32, execFminF32, execFmaxF32, execFcmpltF32, execFcmpeqF32, execCvtF32I64, execCvtI64F32,
    execLdsN8, execLdsI8, execLdsN16, execLdsI16, execLdsN32, execLdsI32, execLdsI64, execStsN8, execStsN16,
    execStsN32, execStsN64, execMfsr, execMtsr, execShape]

theorem slotVectorA_bounded (i : Instr) (s : State) (hs : limitsOk s.limits) : boundedAfter (slotVectorA i s) := by
  unfold slotVectorA
  split <;> simp only [hs,
    intArith_bounded, floatArith_bounded, floatPick_bounded, floatSign_bounded, fused_bounded, reduceInt_bounded,
    reduceFloat_bounded, reduceBits_bounded, State.timedNext_bounded, boundedAfter_ite, ite_self, boundedAfter_next,
    execVadd, execVsub, execVmul, execVmulh, execVadds, execVsubs, execVmin, execVmax, execVabs, execVneg,
    execVand, execVor, execVxor, execVandn, execVfma, execVfms, execVfnma, execVmac, execVrsum, execVrmin,
    execVrmax, execVrand, execVror, execVscale, execVbcast, execVmov, execViota, execVmovi]

theorem slotVectorB_bounded (i : Instr) (s : State) (hs : limitsOk s.limits) : boundedAfter (slotVectorB i s) := by
  unfold slotVectorB
  split <;> simp only [hs,
    compare_bounded, shiftEach_bounded, funnelEach_bounded, pendPair_bounded, convert_bounded, maskOp_bounded,
    State.timedNext_bounded, State.trapOr_bounded, boundedAfter_next, execVcmpeq, execVcmpne, execVcmplt, execVcmple,
    execVsel, execVshl, execVshr, execVasr, execVfshl, execVfshr, execVlut3, execVpopc, execVperm, execVrot,
    execVzip, execVunzip, execVcvt, execVcvtw, execVcvts, execVunpk4, execMand, execMor, execMxor, execMnot,
    execMpopc, execVext, execVins, execBstrd, execBstclr, execScsel]

theorem slotArray_bounded (i : Instr) (s : State) (hs : limitsOk s.limits) : boundedAfter (slotArray i s) := by
  cases i
  case mpusha | mpushw => exact execPush_bounded _ _ _ _ _ hs
  case xposeN32 | xposeN16 | xposeN8 | xposeb => exact execXpose_bounded _ _ _ _ _ hs
  case mmode | mcen | mwsh | mdrain | maccrd | maccwr | maccz | maccov | apxrst | apxwr | apxrd | mwclr =>
    exact boundedAfter_of_limits (State.setTimed_limits s _) hs
  all_goals exact (boundedAfter_next s).2 hs

theorem slotCopy_bounded (i : Instr) (s : State) (hs : limitsOk s.limits) : boundedAfter (slotCopy i s) := by
  unfold slotCopy
  split <;> simp only [hs,
    tileCmd_bounded, passThrough_bounded, State.trapOr_bounded, issueFlagged_bounded, pushCmd_bounded, closeCmd_bounded,
    State.enqueue_limits, boundedAfter_next, execWcopy_bounded, execWfill_bounded, execBclose_bounded, execBwait_bounded,
    execPharm_bounded, execXcan_bounded, execLopen_bounded, execWdecl, execWfree, execDset, execTld, execTst, execTldm,
    execTldbp, execPref, execStrem, execStremo, execFence, execPhreg, execPhdrop, execPharr, execPhwait, execPhrd,
    execSwld, execSwst, execAadd, execAmin, execAmax, execAand, execAor, execAxor, execAxchg, execAcas,
    execAfaddF32, execGbag, execGbagw, execGrows, execGpref, execGstat, execGcntrd, execGcntclr, execGskrd,
    execXsend, execXa2a, execXbkt, execXpool, execXstat, execPcnt, execPwait, execLpush, execLpushs, execLclose,
    execLabort, execLapply, execLstep, execLquery, execLstat, execLspill, execVld, execVldb, execVst, execVstm,
    execTbarr, execTstat, execTepoch, execTlog]

/-! ### Functions of Machine/Issue -/

theorem runSlot_bounded (n : SlotNo) {f : Instr → State → Out}
    (hf : ∀ i t, limitsOk t.limits → boundedAfter (f i t))
    (x : Option Instr) (s : State) (hs : limitsOk s.limits) : boundedAfter (runSlot n f x s) := by
  cases x with
  | none => simp [runSlot, hs]
  | some i => exact hf i _ hs

@[simp] theorem runSlots_bounded (b : Bundle) (s : State) (hs : limitsOk s.limits) : boundedAfter (runSlots b s) := by
  refine andThen_bounded (runSlot_bounded _ slotSync_bounded _ _ hs) fun s0 h0 => ?_
  refine andThen_bounded (runSlot_bounded _ slotBranch_bounded _ _ h0) fun s1 h1 => ?_
  refine andThen_bounded (runSlot_bounded _ slotScalar_bounded _ _ h1) fun s2 h2 => ?_
  refine andThen_bounded (runSlot_bounded _ slotScalar_bounded _ _ h2) fun s3 h3 => ?_
  refine andThen_bounded (runSlot_bounded _ slotVectorA_bounded _ _ h3) fun s4 h4 => ?_
  refine andThen_bounded (runSlot_bounded _ slotVectorB_bounded _ _ h4) fun s5 h5 => ?_
  refine andThen_bounded (runSlot_bounded _ slotArray_bounded _ _ h5) fun s6 h6 => ?_
  refine andThen_bounded (runSlot_bounded _ slotArray_bounded _ _ h6) fun s7 h7 => ?_
  exact andThen_bounded (runSlot_bounded _ slotCopy_bounded _ _ h7) fun s8 h8 => (boundedAfter_next _).2 h8

@[simp] theorem State.issue_bounded (s : State) (b : Bundle) (w : BundleBits) (hs : limitsOk s.limits) :
    boundedAfter (s.issue b w) := by
  refine andThen_bounded (runSlots_bounded b s hs) fun s1 h1 => ?_
  simp only []
  split <;> simp [h1]

@[simp] theorem execHeadOfIssue_bounded (s : State) (hs : limitsOk s.limits) : boundedAfter (execHeadOfIssue s) := by
  unfold execHeadOfIssue
  split <;> simp [hs]

@[simp] theorem execTlbWalkComplete_bounded (core : Nat) (s : State) (hs : limitsOk s.limits) :
    boundedAfter (execTlbWalkComplete core s) := by
  unfold execTlbWalkComplete
  (repeat' split) <;> simp [hs]

@[simp] theorem execReplay_bounded (die : Nat) (id : BitVec 32) (s : State) (hs : limitsOk s.limits) :
    boundedAfter (execReplay die id s) := by
  refine State.command_bounded _ _ ?_ hs
  simp only []
  split
  · simp
  · split
    · simp
    · split
      · simp
      · split <;> simp

/-! ### Functions of Machine/Launch -/

@[simp] theorem execDictionaryLoadComplete_bounded (core : Nat) (s : State) (hs : limitsOk s.limits) :
    boundedAfter (execDictionaryLoadComplete core s) := by
  unfold execDictionaryLoadComplete
  simp only []
  (repeat' split) <;> simp [hs]

/-! ### Functions of Machine/Context -/

@[simp] theorem execEvictionBoundary_bounded (core : Nat) (s : State) (hs : limitsOk s.limits) :
    boundedAfter (execEvictionBoundary core s) := by
  unfold execEvictionBoundary
  (repeat' split) <;> simp [hs]

@[simp] theorem execContextSave_bounded (core : Nat) (s : State) (hs : limitsOk s.limits) :
    boundedAfter (execContextSave core s) := by
  unfold execContextSave
  (repeat' split) <;> simp [hs]

@[simp] theorem execSaveComplete_bounded (core : Nat) (s : State) (hs : limitsOk s.limits) :
    boundedAfter (execSaveComplete core s) := by
  unfold execSaveComplete
  split
  · simp [hs]
  next k _ _ =>
    simp only [boundedAfter_next, State.onRegion_limits, State.discardStopped_limits]
    rw [State.foldl_limits fun t x => t.noteEvicted_limits k.ref x]
    simp [hs]

@[simp] theorem execContextRestore_bounded (core : Nat) (s : State) (hs : limitsOk s.limits) :
    boundedAfter (execContextRestore core s) := by
  unfold execContextRestore
  split <;> simp [hs]

/-! ### Functions of Machine/Ring -/

@[simp] theorem execStationSlotReceive_bounded (x : SlotArrival) (s : State) (hs : limitsOk s.limits) :
    boundedAfter (execStationSlotReceive x s) := by
  cases x with
  | own core seq req nack =>
    unfold execStationSlotReceive
    simp only []
    split
    · cases s.armOut core seq <;> simp [hs]
    · split <;> simp [hs]
  | sealed member lane seqNo epochBit tagOk body => simp [execStationSlotReceive, hs]

@[simp] theorem execNackBackoffExpiry_bounded (core seq req : Nat) (s : State) (hs : limitsOk s.limits) :
    boundedAfter (execNackBackoffExpiry core seq req s) := by
  unfold execNackBackoffExpiry
  split <;> simp [hs]

/-! ### Functions of Machine/Trust -/

@[simp] theorem execBarrierArrive_bounded (s : State) (hs : limitsOk s.limits) : boundedAfter (execBarrierArrive s) := by
  have h1 : ((List.range 8).foldl (fun s d => s.release d true) s).limits = s.limits :=
    State.foldl_limits (fun t d => t.release_limits d true) ..
  unfold execBarrierArrive
  simp only []
  split
  · simp [hs]
  · by_cases hr : s.trust.released = true <;> simp [hr, hs, h1]

@[simp] theorem execBarrierArrival_bounded (member : Nat) (epoch : BitVec 32) (members departing : BitVec 64)
    (s : State) (hs : limitsOk s.limits) :
    boundedAfter (execBarrierArrival member epoch members departing s) := by
  simp [execBarrierArrival, hs]

@[simp] theorem execTrustEvict_bounded (member : Nat) (s : State) (hs : limitsOk s.limits) :
    boundedAfter (execTrustEvict member s) := by simp [execTrustEvict, hs]

@[simp] theorem execEvictionNotice_bounded (source member : Nat) (s : State) (hs : limitsOk s.limits) :
    boundedAfter (execEvictionNotice source member s) := by simp [execEvictionNotice, hs]

@[simp] theorem execAttest_bounded (member : Nat) (s : State) (hs : limitsOk s.limits) :
    boundedAfter (execAttest member s) := by simp [execAttest, hs]

@[simp] theorem execRemove_bounded (member : Nat) (s : State) (hs : limitsOk s.limits) :
    boundedAfter (execRemove member s) := by
  unfold execRemove
  simp only []
  (repeat' split) <;> simp [hs]

@[simp] theorem execBarrier_bounded (s : State) (hs : limitsOk s.limits) :
    boundedAfter (execBarrier s) := by simp [execBarrier, hs]

@[simp] theorem execLogclr_bounded (s : State) (hs : limitsOk s.limits) :
    boundedAfter (execLogclr s) := by simp [execLogclr, hs]

@[simp] theorem execTrustBadCommand_bounded (op : BitVec 4) (s : State) (hs : limitsOk s.limits) :
    boundedAfter (execTrustBadCommand op s) := by simp [execTrustBadCommand, hs]

@[simp] theorem execSelfWrite_bounded (v : Word) (s : State) (hs : limitsOk s.limits) :
    boundedAfter (execSelfWrite v s) := by simp [execSelfWrite, hs]

@[simp] theorem execMemberEntryWrite_bounded (i : Nat) (v : Word) (s : State) (hs : limitsOk s.limits) :
    boundedAfter (execMemberEntryWrite i v s) := by simp [execMemberEntryWrite, hs]

@[simp] theorem execReattestationTimer_bounded (member : Nat) (s : State) (hs : limitsOk s.limits) :
    boundedAfter (execReattestationTimer member s) := by simp [execReattestationTimer, hs]

@[simp] theorem execTrustCommandAct_bounded (core : Nat) (w : CmdWords 1024) (s : State) (hs : limitsOk s.limits) :
    boundedAfter (execTrustCommandAct core w s) := by
  unfold execTrustCommandAct
  (repeat' split) <;> simp [hs]

/-! ### Functions of Machine/Retire -/

@[simp] theorem execTaskDrainComplete_bounded (core : Nat) (s : State) (hs : limitsOk s.limits) :
    boundedAfter (execTaskDrainComplete core s) := by
  unfold execTaskDrainComplete
  (repeat' split) <;> simp [hs]

@[simp] theorem execCompletionRecord_bounded (die slot card : Nat) (s : State) (hs : limitsOk s.limits) :
    boundedAfter (execCompletionRecord die slot card s) := by
  unfold execCompletionRecord
  simp only []
  split
  · simp [hs]
  next c _ =>
    have h1 : (c.diesRun.foldl (fun s d => s.release d true) s).limits = s.limits :=
      State.foldl_limits (fun t d => t.release_limits d true) ..
    split <;> simp [hs, h1]

/-! ### Functions of Machine/FaultLog -/

@[simp] theorem execFaultLogEntry_bounded (die : Nat) (s : State) (hs : limitsOk s.limits) :
    boundedAfter (execFaultLogEntry die s) := by
  unfold execFaultLogEntry
  simp only []
  split <;> simp [hs]

@[simp] theorem execFlogBaseWrite_bounded (die : Nat) (v : Word) (s : State) (hs : limitsOk s.limits) :
    boundedAfter (execFlogBaseWrite die v s) := by simp [execFlogBaseWrite, hs]

@[simp] theorem execFlogLog2Write_bounded (die : Nat) (v : Word) (s : State) (hs : limitsOk s.limits) :
    boundedAfter (execFlogLog2Write die v s) := by simp [execFlogLog2Write, hs]

@[simp] theorem execFlogEnWrite_bounded (die : Nat) (v : Word) (s : State) (hs : limitsOk s.limits) :
    boundedAfter (execFlogEnWrite die v s) := by simp [execFlogEnWrite, hs]

@[simp] theorem execFlogHeadWrite_bounded (die : Nat) (v : Word) (s : State) (hs : limitsOk s.limits) :
    boundedAfter (execFlogHeadWrite die v s) := by simp [execFlogHeadWrite, hs]

/-! ### Functions of Machine/Health -/

@[simp] theorem execPatrolScrub_bounded (granule : Nat) (e : ScrubFinding) (s : State) (hs : limitsOk s.limits) :
    boundedAfter (execPatrolScrub granule e s) := by simp [execPatrolScrub, hs]

@[simp] theorem execMemoryError_bounded (x : MemErrorSite) (s : State) (hs : limitsOk s.limits) :
    boundedAfter (execMemoryError x s) := by simp [execMemoryError, hs]

/-- The reset value of PERIOD lies within its bounds. -/
theorem limitsOk_periodReset {c : BitVec 12} (h : c.toNat ≤ 2400) : limitsOk (1400000, c) :=
  ⟨(by decide : 14000 ≤ (1400000 : BitVec 32).toNat), h⟩

/-- A reading, with the entries and the change of PWRSTEP that follow it, leaves both registers. -/
theorem State.stepPower_read_limits (s : State) (x : SensorReadings) :
    (({ s with ctl := s.ctl.read x } : State).readingEntries s.ctl).stepPower.limits = s.limits :=
  (State.stepPower_limits _).trans (State.readingEntries_limits ..)

@[simp] theorem execPowerControlTick_bounded (x : SensorReadings) (s : State) (hs : limitsOk s.limits) :
    boundedAfter (execPowerControlTick x s) := by
  have h1 := State.stepPower_read_limits s x
  unfold execPowerControlTick
  simp only []
  split
  · exact boundedAfter_of_limits h1 hs
  · split
    · rw [boundedAfter_next, State.trip_limits, h1]
      exact limitsOk_periodReset hs.2
    · exact boundedAfter_of_limits h1 hs

@[simp] theorem execModuleTrip_bounded (x : SensorReadings) (s : State) (hs : limitsOk s.limits) :
    boundedAfter (execModuleTrip x s) := by
  have h1 := State.readingEntries_limits { s with ctl := s.ctl.read x } s.ctl
  unfold execModuleTrip
  split
  · exact (boundedAfter_next s).2 hs
  · split
    · exact (boundedAfter_next s).2 hs
    · rw [boundedAfter_next, State.trip_limits, h1]
      exact limitsOk_periodReset hs.2

@[simp] theorem execPwrcapWrite_bounded (v : Word) (s : State) (hs : limitsOk s.limits) :
    boundedAfter (execPwrcapWrite v s) := by
  refine (boundedAfter_next _).2 ⟨hs.1, ?_⟩
  change (BitVec.ofNat 12 (min 2400 (bits v.toNat 11 0))).toNat ≤ 2400
  rw [BitVec.toNat_ofNat]
  exact (Nat.mod_le ..).trans (min_le_left ..)

/-! ### Functions of Machine/Start -/

@[simp] theorem execHashmWrite_bounded (stack i : Nat) (v : Word) (s : State) (hs : limitsOk s.limits) :
    boundedAfter (execHashmWrite stack i v s) := by simp [execHashmWrite, hs]

@[simp] theorem execCntclr_bounded (stack : Nat) (s : State) (hs : limitsOk s.limits) :
    boundedAfter (execCntclr stack s) := by simp [execCntclr, hs]

@[simp] theorem State.saveSector_limits (s : State) (die : Nat) (x : Nat × RdcSector) :
    (s.saveSector die x).limits = s.limits := by
  unfold State.saveSector
  (repeat' split) <;> simp

@[simp] theorem State.saveCaches_limits (s : State) : s.saveCaches.limits = s.limits :=
  State.foldl_limits (fun _ d => State.foldl_limits (fun u x => u.saveSector_limits d x) ..) ..

theorem State.pwrCap_of_limits {s t : State} (h : t.limits = s.limits) : t.ctl.pwrCap = s.ctl.pwrCap := congrArg Prod.snd h

@[simp] theorem State.startFails_bounded (s : State) (r : BitVec 4) (hs : limitsOk s.limits) :
    limitsOk (s.startFails r).limits := limitsOk_periodReset hs.2

@[simp] theorem execColdStart_bounded (x : StartChecks) (s : State) (hs : limitsOk s.limits) :
    boundedAfter (execColdStart x s) := by
  unfold execColdStart
  split_ifs
  · exact (boundedAfter_next s).2 hs
  · exact (boundedAfter_next _).2 (s.startFails_bounded 3 hs)
  · exact (boundedAfter_next _).2 (s.startFails_bounded 4 hs)
  · exact (boundedAfter_next _).2 (limitsOk_periodReset hs.2)

@[simp] theorem execWarmStart_bounded (x : StartChecks) (s : State) (hs : limitsOk s.limits) :
    boundedAfter (execWarmStart x s) := by
  unfold execWarmStart
  split_ifs
  · exact (boundedAfter_next s).2 hs
  · exact (boundedAfter_next _).2 hs
  · exact (boundedAfter_next _).2 (s.startFails_bounded 5 hs)
  · rw [boundedAfter_next, State.restarted_limits, State.pwrCap_of_limits (State.saveCaches_limits _)]
    exact limitsOk_periodReset hs.2

@[simp] theorem execStartOpInvalid_bounded (op : BitVec 2) (s : State) (hs : limitsOk s.limits) :
    boundedAfter (execStartOpInvalid op s) := by simp [execStartOpInvalid, hs]

@[simp] theorem execSupplyLoss_bounded (s : State) : boundedAfter (execSupplyLoss s) :=
  (boundedAfter_next _).2 (limitsOk_periodReset (by decide : Control.reset.pwrCap.toNat ≤ 2400))

@[simp] theorem execPowerOn_bounded (s : State) : boundedAfter (execPowerOn s) :=
  (boundedAfter_next _).2 (limitsOk_periodReset (by decide : Control.reset.pwrCap.toNat ≤ 2400))

/-! ### Functions of Machine/Registers -/

@[simp] theorem dcuOp_bounded (n : Nat) (v : Word) (s : State) (hs : limitsOk s.limits) : boundedAfter (dcuOp n v s) := by
  unfold dcuOp
  split <;> simp [hs]

@[simp] theorem vertexOp_bounded (n : Nat) (v : Word) (s : State) (hs : limitsOk s.limits) :
    boundedAfter (vertexOp n v s) := by
  unfold vertexOp
  split <;> simp [hs]

@[simp] theorem pbcOp_bounded (n : Nat) (v : Word) (s : State) (hs : limitsOk s.limits) : boundedAfter (pbcOp n v s) := by
  unfold pbcOp
  split <;> simp [hs]

@[simp] theorem latticeOp_bounded (u : Nat) (v : Word) (s : State) (hs : limitsOk s.limits) :
    boundedAfter (latticeOp u v s) := by
  unfold latticeOp
  split <;> simp [hs]

@[simp] theorem trustOp_bounded (v : Word) (s : State) (hs : limitsOk s.limits) : boundedAfter (trustOp v s) := by
  unfold trustOp
  split <;> simp [hs]

@[simp] theorem writeDcu_bounded (n off : Nat) (v : Word) (s : State) (hs : limitsOk s.limits) :
    boundedAfter (writeDcu n off v s) := by
  unfold writeDcu
  (repeat' split) <;> simp [hs]

@[simp] theorem writeHbm_bounded (n off : Nat) (v : Word) (s : State) (hs : limitsOk s.limits) :
    boundedAfter (writeHbm n off v s) := by simp [writeHbm, hs]

@[simp] theorem runVertexCommand_bounded (n : Nat) (s : State) (hs : limitsOk s.limits) :
    boundedAfter (runVertexCommand n s) := by
  unfold runVertexCommand
  split
  · simp [hs]
  · refine andThen_bounded (vertexOp_bounded _ _ _ (by simp [hs])) fun t ht => by simp [ht]

@[simp] theorem runLatticeCommand_bounded (u : Nat) (s : State) (hs : limitsOk s.limits) :
    boundedAfter (runLatticeCommand u s) := by
  unfold runLatticeCommand
  split
  · simp [hs]
  · refine andThen_bounded (latticeOp_bounded _ _ _ (by simp [hs])) fun t ht => by simp [ht]

@[simp] theorem writeVertex_bounded (n off : Nat) (v : Word) (s : State) (hs : limitsOk s.limits) :
    boundedAfter (writeVertex n off v s) := by
  unfold writeVertex
  split <;> simp [hs]

@[simp] theorem writeHotWord_bounded (n : Nat) (v : Word) (s : State) (hs : limitsOk s.limits) :
    boundedAfter (writeHotWord n v s) := by simp [writeHotWord, hs]

@[simp] theorem writePbc_bounded (n off : Nat) (v : Word) (s : State) (hs : limitsOk s.limits) :
    boundedAfter (writePbc n off v s) := by
  unfold writePbc
  (repeat' split) <;> simp [hs]

@[simp] theorem writeLattice_bounded (u off : Nat) (v : Word) (s : State) (hs : limitsOk s.limits) :
    boundedAfter (writeLattice u off v s) := by
  unfold writeLattice
  split <;> simp [hs]

@[simp] theorem writeExchange_bounded (off : Nat) (v : Word) (s : State) (hs : limitsOk s.limits) :
    boundedAfter (writeExchange off v s) := by simp [writeExchange, hs]

@[simp] theorem writeTrust_bounded (off : Nat) (v : Word) (s : State) (hs : limitsOk s.limits) :
    boundedAfter (writeTrust off v s) := by
  unfold writeTrust
  (repeat' split) <;> simp [hs]

@[simp] theorem writeControl_bounded (off : Nat) (v : Word) (s : State) (hs : limitsOk s.limits) :
    boundedAfter (writeControl off v s) := by
  unfold writeControl
  (repeat' split) <;> simp [hs]

@[simp] theorem execRegisterWrite_bounded (off : Nat) (v : Word) (s : State) (hs : limitsOk s.limits) :
    boundedAfter (execRegisterWrite off v s) := by
  unfold execRegisterWrite
  (repeat' split) <;> simp [hs]

/-! ### Functions of Machine/Spdm -/

@[simp] theorem State.onConn_bounded (s : State) (w : Requester) (stage : Nat) (f : Spdm → Spdm)
    (hs : limitsOk s.limits) :
    boundedAfter (s.onConn w stage f) := by simp [State.onConn, hs]

@[simp] theorem execGetVersion_bounded (w : Requester) (s : State) (hs : limitsOk s.limits) :
    boundedAfter (execGetVersion w s) := by simp [execGetVersion, hs]

@[simp] theorem execGetCapabilities_bounded (w : Requester) (s : State) (hs : limitsOk s.limits) :
    boundedAfter (execGetCapabilities w s) := by simp [execGetCapabilities, hs]

@[simp] theorem execNegotiateAlgorithms_bounded (w : Requester) (set : Algorithms) (s : State) (hs : limitsOk s.limits) :
    boundedAfter (execNegotiateAlgorithms w set s) := by simp [execNegotiateAlgorithms, hs]

@[simp] theorem execGetDigests_bounded (w : Requester) (s : State) (hs : limitsOk s.limits) :
    boundedAfter (execGetDigests w s) := by simp [execGetDigests, hs]

@[simp] theorem execGetCertificate_bounded (w : Requester) (slot : Nat) (s : State) (hs : limitsOk s.limits) :
    boundedAfter (execGetCertificate w slot s) := by simp [execGetCertificate, hs]

@[simp] theorem execChallenge_bounded (w : Requester) (slot : Nat) (s : State) (hs : limitsOk s.limits) :
    boundedAfter (execChallenge w slot s) := by simp [execChallenge, hs]

@[simp] theorem execGetMeasurements_bounded (w : Requester) (s : State) (hs : limitsOk s.limits) :
    boundedAfter (execGetMeasurements w s) := by simp [execGetMeasurements, hs]

@[simp] theorem execKeyExchange_bounded (w : Requester) (ok : Bool) (s : State) (hs : limitsOk s.limits) :
    boundedAfter (execKeyExchange w ok s) := by
  unfold execKeyExchange
  split <;> simp [hs]

@[simp] theorem execFinish_bounded (w : Requester) (found : Proofs) (s : State) (hs : limitsOk s.limits) :
    boundedAfter (execFinish w found s) := by
  unfold execFinish
  split <;> simp [hs]

@[simp] theorem execKeyUpdate_bounded (w : Requester) (s : State) (hs : limitsOk s.limits) :
    boundedAfter (execKeyUpdate w s) := by simp [execKeyUpdate, hs]

@[simp] theorem execHeartbeat_bounded (_w : Requester) (s : State) (hs : limitsOk s.limits) :
    boundedAfter (execHeartbeat _w s) := by simp [execHeartbeat, hs]

@[simp] theorem execEndSession_bounded (w : Requester) (s : State) (hs : limitsOk s.limits) :
    boundedAfter (execEndSession w s) := by
  unfold execEndSession
  split <;> simp [hs]

@[simp] theorem execChunkSend_bounded (w : Requester) (chunk : Nat) (last : Bool) (s : State) (hs : limitsOk s.limits) :
    boundedAfter (execChunkSend w chunk last s) := by simp [execChunkSend, hs]

@[simp] theorem execChunkGet_bounded (w : Requester) (_chunk : Nat) (s : State) (hs : limitsOk s.limits) :
    boundedAfter (execChunkGet w _chunk s) := by simp [execChunkGet, hs]

@[simp] theorem execSlhDsaSignatureRequest_bounded (w : Requester) (s : State) (hs : limitsOk s.limits) :
    boundedAfter (execSlhDsaSignatureRequest w s) := by simp [execSlhDsaSignatureRequest, hs]

@[simp] theorem execUnsupportedRequest_bounded (_w : Requester) (_code : BitVec 8) (s : State) (hs : limitsOk s.limits) :
    boundedAfter (execUnsupportedRequest _w _code s) := by simp [execUnsupportedRequest, hs]

@[simp] theorem execSpdmResponse_bounded (member : Nat) (r : SpdmAnswer) (s : State) (hs : limitsOk s.limits) :
    boundedAfter (execSpdmResponse member r s) := by
  unfold execSpdmResponse
  simp only []
  split <;> simp [hs]

/-! ### Functions of Machine/Cycle -/

@[simp] theorem State.endOfCycle_bounded (s : State) (hs : limitsOk s.limits) : boundedAfter s.endOfCycle := by
  refine andThen_bounded (State.timedNext_bounded _ _ hs) fun s1 h1 => ?_
  refine andThen_bounded (execAccumulateLanding_bounded _ h1) fun s2 h2 => ?_
  exact andThen_bounded (execResultLanding_bounded _ h2) fun s3 h3 => (boundedAfter_next _).2 h3

@[simp] theorem State.runCycle_bounded (s : State) (hs : limitsOk s.limits) : boundedAfter s.runCycle := by
  unfold State.runCycle
  split
  · simp [hs]
  · split
    · exact andThen_bounded (State.issue_bounded _ _ _ hs) State.endOfCycle_bounded
    · exact andThen_bounded (execLoopSkip_bounded _ hs) State.endOfCycle_bounded
    all_goals exact andThen_bounded (execHeadOfIssue_bounded _ hs) execIdleExpiry_bounded

@[simp] theorem State.frozenCycle_bounded (s : State) (k : Task) (hs : limitsOk s.limits) :
    boundedAfter (s.frozenCycle k) := by simp [State.frozenCycle, hs]

@[simp] theorem State.phaseCycle_bounded (s : State) (k : Task) (hs : limitsOk s.limits) :
    boundedAfter (s.phaseCycle k) := by
  unfold State.phaseCycle
  split <;> simp [hs]

@[simp] theorem State.coreCycle_bounded (s : State) (hs : limitsOk s.limits) : boundedAfter s.coreCycle := by
  unfold State.coreCycle
  split
  · simp [hs]
  next k _ =>
    have h1 := State.phaseCycle_bounded (s.charge s.focus.val) k (by simp [hs])
    exact List.foldlRecOn (motive := boundedAfter) _ _ h1 fun o ho b _ =>
      andThen_bounded ho fun t ht => execBatchComplete_bounded _ _ t ht

@[simp] theorem State.turn_bounded (s : State) (hs : limitsOk s.limits) : boundedAfter s.turn := by
  refine andThen_bounded (State.coreCycle_bounded s hs) fun t ht => ?_
  simp [ht]

end Sys2Proof.Machine
end

section
/-!
SUPPORT. The bounds of PERIOD and PWRCAP under `exec` and under a step of the module (R37, R400).
-/

namespace Sys2Proof.Machine

theorem DeviceStep.run_bounded (x : DeviceStep) (s : State) (hs : limitsOk s.limits) : boundedAfter (x.run s) := by
  cases x <;> simp [DeviceStep.run, hs]

theorem slotMeaning_bounded (k : Slot) (i : Instr) (s : State) (hs : limitsOk s.limits) :
    boundedAfter (slotMeaning k i s) := by
  cases k with
  | sync => exact slotSync_bounded i s hs
  | branch => exact slotBranch_bounded i s hs
  | scalar => exact slotScalar_bounded i s hs
  | vectorA => exact slotVectorA_bounded i s hs
  | vectorB => exact slotVectorB_bounded i s hs
  | matrix => exact slotArray_bounded i s hs
  | transpose => exact slotArray_bounded i s hs
  | copy => exact slotCopy_bounded i s hs

theorem exec_bounded_of_slot_none {i : Instr} (h : i.slot? = none) (s : State) (hs : limitsOk s.limits) :
    boundedAfter (exec i s) := by
  cases i <;> cases h <;> simp [exec, hs]

theorem exec_bounded (i : Instr) (s : State) (hs : limitsOk s.limits) : boundedAfter (exec i s) := by
  cases h : i.slot? with
  | none => exact exec_bounded_of_slot_none h s hs
  | some k => exact exec_eq_slotMeaning h s ▸ slotMeaning_bounded k i s hs

theorem State.act_bounded (s : State) (c : Choice) (hs : limitsOk s.limits) : boundedAfter (s.act exec c) := by
  cases c with
  | input i rest =>
    rw [State.act]
    split
    · exact exec_bounded i _ hs
    · exact (boundedAfter_next _).2 hs
  | now x => exact x.run_bounded s hs
  | pick x => exact x.run_bounded _ (by simp [hs])
  | cycle drawn => exact State.turn_bounded _ (by simp [hs])

theorem step_bounded (s : State) (hs : limitsOk s.limits) : boundedAfter (step s) :=
  andThen_bounded (s.act_bounded s.choice hs) fun t ht => boundedAfter_of_limits t.sweep_limits ht

/-- Settles O20: what the choice of a step comes to keeps both registers within their bounds, by one lemma per meaning, and
the sweep that follows it writes neither. -/
theorem boundedRegistersStay : Obligations.BoundedRegistersStay := fun s t hs h => step_bounded s hs t h

end Sys2Proof.Machine
end

section
/-!
SUPPORT. The commands of a core and their requests under the updates of the copy engine: which command a number names after a
change, and that such a change stays within the core.
-/

namespace Sys2Proof.Machine

variable {s : State} {n q : Nat} {c : Cmd}

/-! ### A change that only cores see -/

theorem State.onCore_frame (s : State) (n : Nat) (f : Core → Core) : s.onCore n f = { s with cores := (s.onCore n f).cores } :=
  s.setCoreAt_frame n _

/-- `t` differs from `s` in its cores alone. -/
def State.byCores (s t : State) : Prop := t = { s with cores := t.cores }

theorem State.byCores_refl (s : State) : s.byCores s := rfl

theorem State.byCores_trans {s t u : State} (h : s.byCores t) (k : t.byCores u) : s.byCores u := by
  unfold State.byCores at h k ⊢
  rw [h] at k
  exact k

theorem State.onCore_byCores (s : State) (n : Nat) (f : Core → Core) : s.byCores (s.onCore n f) := s.onCore_frame n f

theorem State.onUn_byCores (s : State) (n : Nat) (f : Untimed → Untimed) : s.byCores (s.onUn n f) := s.onCore_frame n _

theorem State.onTimed_byCores (s : State) (n : Nat) (f : Timed → Timed) : s.byCores (s.onTimed n f) := s.onCore_frame n _

theorem State.onCmd_byCores (s : State) (n q : Nat) (f : Cmd → Cmd) : s.byCores (s.onCmd n q f) := s.onUn_byCores n _

theorem State.dropCmd_byCores (s : State) (n q : Nat) : s.byCores (s.dropCmd n q) := s.onUn_byCores n _

theorem State.foldl_byCores {β : Type} {f : State → β → State} (hf : ∀ (t : State) x, t.byCores (f t x)) (l : List β)
    (s : State) : s.byCores (l.foldl f s) :=
  List.foldlRecOn (motive := s.byCores) l f s.byCores_refl fun t ht x _ => State.byCores_trans ht (hf t x)

theorem State.byCores_mem {s t : State} (h : s.byCores t) : t.mem = s.mem := by rw [h]
theorem State.byCores_rdc {s t : State} (h : s.byCores t) : t.rdc = s.rdc := by rw [h]

/-! ### What is read of a core after a change -/

theorem State.unAt_congr {s t : State} (h : t.cores = s.cores) (hn : n < 96) : t.unAt n = s.unAt n :=
  congrArg Core.un (State.coreAt_congr h hn)

theorem State.timedAt_congr {s t : State} (h : t.cores = s.cores) (hn : n < 96) : t.timedAt n = s.timedAt n :=
  congrArg Core.timed (State.coreAt_congr h hn)

theorem State.cmd?_congr {s t : State} (h : t.cores = s.cores) (hn : n < 96) : t.cmd? n q = s.cmd? n q :=
  congrArg (Untimed.cmd? · q) (State.unAt_congr h hn)

theorem State.coreAt_onUn (s : State) (hn : n < 96) (f : Untimed → Untimed) :
    (s.onUn n f).coreAt n = { s.coreAt n with un := f (s.unAt n) } := s.coreAt_onCore n _ hn

theorem State.unAt_onUn (s : State) (hn : n < 96) (f : Untimed → Untimed) : (s.onUn n f).unAt n = f (s.unAt n) :=
  congrArg Core.un (s.coreAt_onUn hn f)

theorem State.timedAt_onUn (s : State) (hn : n < 96) (f : Untimed → Untimed) : (s.onUn n f).timedAt n = s.timedAt n := by
  rw [State.timedAt, s.coreAt_onUn hn f]
  rfl

theorem State.timedAt_onCmd (s : State) (hn : n < 96) (f : Cmd → Cmd) : (s.onCmd n q f).timedAt n = s.timedAt n :=
  s.timedAt_onUn hn _

theorem State.timedAt_dropCmd (s : State) (hn : n < 96) : (s.dropCmd n q).timedAt n = s.timedAt n := s.timedAt_onUn hn _

/-! ### The command of a number -/

theorem State.cmd?_seq (h : s.cmd? n q = some c) : c.seq = q := by simpa using List.find?_some h

/-- A change that keeps the numbers of commands is seen where its command is found again. -/
theorem Untimed.cmd?_onCmd (u : Untimed) (q : Nat) {f : Cmd → Cmd} (hf : ∀ c, (f c).seq = c.seq) :
    (u.onCmd q f).cmd? q = (u.cmd? q).map f := by
  have hseq : ∀ c : Cmd, (if c.seq = q then f c else c).seq = c.seq := fun c => by split <;> simp [hf]
  have htest : ((fun c : Cmd => c.seq == q) ∘ fun c => if c.seq = q then f c else c) = fun c => c.seq == q := by
    funext c
    exact congrArg (· == q) (hseq c)
  simp only [Untimed.cmd?, Untimed.onCmd, List.find?_map, htest]
  cases h : u.queue.find? fun c => c.seq == q with
  | none => rfl
  | some c =>
    have hc : c.seq = q := by simpa using List.find?_some h
    simp [hc]

theorem Untimed.cmd?_dropCmd (u : Untimed) (q : Nat) : (u.dropCmd q).cmd? q = none := by
  simp [Untimed.cmd?, Untimed.dropCmd, List.find?_eq_none]

theorem State.cmd?_onUn (s : State) (hn : n < 96) (f : Untimed → Untimed) : (s.onUn n f).cmd? n q = (f (s.unAt n)).cmd? q :=
  congrArg (Untimed.cmd? · q) (s.unAt_onUn hn f)

theorem State.cmd?_onCmd (hn : n < 96) (h : s.cmd? n q = some c) {f : Cmd → Cmd} (hf : ∀ c, (f c).seq = c.seq) :
    (s.onCmd n q f).cmd? n q = some (f c) :=
  (s.cmd?_onUn hn _).trans (((s.unAt n).cmd?_onCmd q hf).trans (congrArg (Option.map f) h))

theorem State.cmd?_dropCmd (s : State) (hn : n < 96) (q : Nat) : (s.dropCmd n q).cmd? n q = none :=
  (s.cmd?_onUn hn _).trans (Untimed.cmd?_dropCmd ..)

theorem Untimed.countDone_queue (u : Untimed) (l : List Req) : (u.countDone l).queue = u.queue :=
  List.foldlRecOn (motive := fun v : Untimed => v.queue = u.queue) l _ rfl fun v hv r _ => by
    split <;> exact hv

theorem Untimed.cmd?_countDone (u : Untimed) (l : List Req) (q : Nat) : (u.countDone l).cmd? q = u.cmd? q := by
  simp [Untimed.cmd?, u.countDone_queue l]

/-! ### The requests of a command -/

theorem Cmd.req?_id {rq : Nat} {r : Req} (h : c.req? rq = some r) : r.id = rq := by simpa using List.find?_some h

theorem Cmd.req?_mem {rq : Nat} {r : Req} (h : c.req? rq = some r) : r ∈ c.reqs := List.mem_of_find?_eq_some h

theorem Cmd.mem_onReq {r : Req} (h : r ∈ c.reqs) (f : Req → Req) : f r ∈ (c.onReq r.id f).reqs :=
  List.mem_map.2 ⟨r, h, if_pos rfl⟩

/-- A change of one request is seen in its command. -/
theorem State.cmd?_onReq {r : Req} (hn : n < 96) (h : s.cmd? n q = some c) (hr : r ∈ c.reqs) (f : Req → Req) :
    ∃ d, (s.onCmd n q fun c => c.onReq r.id f).cmd? n q = some d ∧ f r ∈ d.reqs :=
  ⟨_, State.cmd?_onCmd hn h fun _ => rfl, Cmd.mem_onReq hr f⟩

/-- A command that fails at an access stops there, and what was counted on its paths is the core's alone. -/
theorem State.cmd?_failAt (hn : n < 96) (h : s.cmd? n q = some c) (r : Req) (faddr : BitVec 52) :
    (s.failAt n q r faddr).cmd? n q = some (c.cut r.id r.run faddr) := by
  refine (s.cmd?_onUn hn _).trans ((Untimed.cmd?_onCmd _ _ ?_).trans ?_)
  · exact fun _ => rfl
  · rw [Untimed.cmd?_countDone]
    exact congrArg _ h

theorem State.failAt_byCores (s : State) (n q : Nat) (r : Req) (faddr : BitVec 52) : s.byCores (s.failAt n q r faddr) :=
  s.onUn_byCores n _

end Sys2Proof.Machine
end

section
/-!
SUPPORT. The sectors of an RDC under the accesses of R97: the bytes that a mask names, what a sector reads as after it was put, and
which accesses leave the RDCs as they were.
-/

namespace Sys2Proof.Machine

variable {s : State} {die : Nat}

/-! ### Bytes under a mask -/

theorem widen_lt (m : BitVec 256) (n : Nat) : widen m n < 2 ^ (8 * n) := by
  induction n with
  | zero => simp [widen]
  | succ n ih =>
    have hpow : 2 ^ (8 * (n + 1)) = 256 * 2 ^ (8 * n) := by rw [show 8 * (n + 1) = 8 + 8 * n by omega, Nat.pow_add]
    rw [widen, hpow]
    split
    · rw [Nat.shiftLeft_eq]; omega
    · omega

/-- Each bit of a mask stands for eight. -/
theorem testBit_widen (m : BitVec 256) (n j : Nat) : (widen m n).testBit j = (decide (j < 8 * n) && m.getLsbD (j / 8)) := by
  induction n with
  | zero => simp [widen]
  | succ n ih =>
    have hlt := widen_lt m n
    by_cases hb : m.getLsbD n = true
    · rw [widen, if_pos hb, Nat.shiftLeft_eq, Nat.add_comm, Nat.mul_comm, Nat.testBit_two_pow_mul_add _ hlt, ih]
      by_cases hj : j < 8 * n
      · simp [hj, show j < 8 * (n + 1) by omega]
      · rw [if_neg hj, show (255 : Nat) = 2 ^ 8 - 1 from rfl, Nat.testBit_two_pow_sub_one]
        by_cases hk : j < 8 * (n + 1)
        · simp [hk, show j - 8 * n < 8 by omega, show j / 8 = n by omega, hb]
        · simp [hk, show ¬ j - 8 * n < 8 by omega]
    · rw [widen, if_neg hb, Nat.add_zero, ih]
      by_cases hj : j < 8 * n
      · simp [hj, show j < 8 * (n + 1) by omega]
      · by_cases hk : j < 8 * (n + 1)
        · simp [hj, hk, show j / 8 = n by omega, hb]
        · simp [hj, hk]

theorem getLsbD_mergeBytes (old new : BitVec 2048) (m : BitVec 256) {j : Nat} (h : j < 2048) :
    (mergeBytes old new m).getLsbD j = if m.getLsbD (j / 8) then new.getLsbD j else old.getLsbD j := by
  simp only [mergeBytes, BitVec.getLsbD_or, BitVec.getLsbD_and, BitVec.getLsbD_not, BitVec.getLsbD_ofNat, testBit_widen, h]
  cases m.getLsbD (j / 8) <;> simp

/-- Byte `i` of two sectors merged. -/
theorem byte_mergeBytes (old new : BitVec 2048) (m : BitVec 256) {i : Nat} (h : i < 256) :
    (mergeBytes old new m).extractLsb' (8 * i) 8 =
      if m.getLsbD i then new.extractLsb' (8 * i) 8 else old.extractLsb' (8 * i) 8 := by
  ext j hj
  simp only [BitVec.getElem_extractLsb']
  rw [getLsbD_mergeBytes _ _ _ (by omega), show (8 * i + j) / 8 = i by omega]
  split <;> simp

theorem getLsbD_byteMask (o k i : Nat) : (byteMask o k).getLsbD i = decide (i < 256 ∧ o ≤ i ∧ i < o + k) := by
  rw [byteMask, BitVec.getLsbD_ofNat, Nat.testBit_shiftLeft, Nat.testBit_two_pow_sub_one]
  by_cases h : o ≤ i
  · simp [h, show i - o < k ↔ i < o + k by omega]
  · simp [h]

/-- Byte `i` of a number that was moved up by `o` bytes. -/
theorem byte_shiftLeft (v : Nat) {o i : Nat} (h : o ≤ i) (hi : i < 256) :
    (BitVec.ofNat 2048 (v <<< (8 * o))).extractLsb' (8 * i) 8 = BitVec.ofNat 8 (v >>> (8 * (i - o))) := by
  ext j hj
  rw [BitVec.getElem_extractLsb', BitVec.getLsbD_ofNat, ← BitVec.getLsbD_eq_getElem, BitVec.getLsbD_ofNat,
    Nat.testBit_shiftLeft, Nat.testBit_shiftRight, show 8 * i + j - 8 * o = 8 * (i - o) + j by omega]
  simp [hj, show 8 * i + j < 2048 by omega, show 8 * o ≤ 8 * i + j by omega]

/-! ### Sectors -/

theorem State.sector_congr {s t : State} (h : t.rdc = s.rdc) (die m : Nat) : t.sector die m = s.sector die m := by
  simp [State.sector, State.rdcOf, h]

theorem State.sector_setSector (s : State) (hd : die < 8) (m : Nat) (x : RdcSector) (k : Nat) :
    (s.setSector die m x).sector die k = if k = m then x else s.sector die k := by
  have hrdc : (s.setSector die m x).rdcOf die = Store.set .invalid (s.rdcOf die) m x := by
    simp [State.setSector, State.setRdc, State.rdcOf, hd, Vector.get_eq_getElem]
  rw [State.sector, hrdc, Store.get_set]
  rfl

theorem State.sector_setSector_same (s : State) (hd : die < 8) (m : Nat) (x : RdcSector) :
    (s.setSector die m x).sector die m = x := (s.sector_setSector hd m x m).trans (if_pos rfl)

theorem State.setSector_frame (s : State) (die m : Nat) (x : RdcSector) :
    s.setSector die m x = { s with rdc := (s.setSector die m x).rdc } := by
  unfold State.setSector State.setRdc
  split <;> rfl

/-- A sector that no key of the RDC names is INVALID. -/
theorem Store.get_of_not_key {α : Type} (d : α) (l : Store α) (k : Nat) (h : k ∉ l.map (·.1)) : Store.get d l k = d := by
  induction l with
  | nil => rfl
  | cons x l ih =>
    simp only [List.map_cons, List.mem_cons, not_or] at h
    rw [Store.get, if_neg h.1, ih h.2]
    split <;> rfl

/-! ### What leaves the RDCs as they were -/

theorem State.byHome_rdc {s t : State} (h : s.byHome t) : t.rdc = s.rdc := by rw [h.1]
theorem State.byHome_hbm {s t : State} (h : s.byHome t) : t.hbm = s.hbm := by rw [h.1]
theorem State.byHome_regions {s t : State} (h : s.byHome t) : t.regions = s.regions := by rw [h.1]
theorem State.byHome_dcus {s t : State} (h : s.byHome t) : t.dcus = s.dcus := by rw [h.1]

@[simp] theorem State.crossOn_rdc (s : State) (key : Nat) (p : Option Nat) : (s.crossOn key p).rdc = s.rdc := by
  unfold State.crossOn
  split <;> rfl

@[simp] theorem State.crossOn_cores (s : State) (key : Nat) (p : Option Nat) : (s.crossOn key p).cores = s.cores :=
  State.byTraffic_cores (s.crossOn_byTraffic key p)

theorem State.writeHome_rdc (s : State) (m : Nat) (x : RdcSector) : (s.writeHome m x).rdc = s.rdc :=
  (State.crossOn_rdc ..).trans (State.byHome_rdc (State.homeWrite_byHome ..))

theorem State.writeBack_rdc (s : State) (die m : Nat) : (s.writeBack die m).rdc = s.rdc := by
  unfold State.writeBack
  simp only []
  split
  · rfl
  · split
    · exact State.writeHome_rdc ..
    · rfl

theorem State.writeBack_clean {m : Nat} (h : (s.sector die m).dirty = 0) : s.writeBack die m = s := if_pos h

/-! ### The transitions of a sector (R97) -/

theorem State.sector_releaseSector (s : State) (hd : die < 8) (m k : Nat) :
    (s.releaseSector die m).sector die k = if k = m ∧ (s.sector die m).dirty ≠ 0
      then (if (s.sector die m).full then { s.sector die m with dirty := 0, who := [] } else .invalid)
      else s.sector die k := by
  unfold State.releaseSector
  by_cases h : (s.sector die m).dirty = 0
  · simp [h]
  · simp only [if_neg h]
    rw [State.sector_setSector _ hd, State.sector_congr (s.writeBack_rdc die m)]
    exact if_congr (and_iff_left h).symm rfl rfl

theorem State.sector_acquireSector (s : State) (hd : die < 8) (m k : Nat) :
    (s.acquireSector die m).sector die k = if k = m then (if (s.sector die m).dirty = 0 then .invalid else
        { s.sector die m with full := false, data := mergeBytes 0 (s.sector die m).data (s.sector die m).dirty,
                              poison := (s.sector die m).poison &&& touchedGranules (s.sector die m).dirty, got := 0 })
      else s.sector die k := State.sector_setSector s hd ..

theorem State.sector_replaceSector (s : State) (hd : die < 8) (m k : Nat) :
    (s.replaceSector die m).sector die k = if k = m then .invalid else s.sector die k := by
  unfold State.replaceSector
  rw [State.sector_setSector _ hd, State.sector_congr (s.writeBack_rdc die m)]

/-! ### Words of an access that all go together -/

theorem allOnes_or {w : Nat} (x : BitVec w) : BitVec.allOnes w ||| x = BitVec.allOnes w := by
  ext i hi
  simp

theorem or_allOnes {w : Nat} (x : BitVec w) : x ||| BitVec.allOnes w = BitVec.allOnes w := by
  ext i hi
  simp

theorem fullPiece_allOnes {k : Nat} (h : k ≤ 256) : fullPiece (BitVec.allOnes 64) k = true := by
  refine List.all_eq_true.2 fun i hi => ?_
  have := List.mem_range.1 hi
  simp only [BitVec.getLsbD_allOnes, decide_eq_true_eq]
  omega

theorem wholeGranules_allOnes (bad : Nat → Bool) (key todo : Nat) :
    wholeGranules bad key todo (BitVec.allOnes 64) = BitVec.allOnes 64 :=
  List.foldlRecOn (motive := fun w => w = BitVec.allOnes 64) _ _ rfl fun w hw g _ => by
    simp only []
    split
    · exact List.foldlRecOn (motive := fun w => w = BitVec.allOnes 64) _ _ hw fun w hw i _ => by
        rw [hw, allOnes_or]
    · exact hw

/-- Of a request of which every word performs at once nothing is left. -/
theorem Req.performed_allOnes (r : Req) (v : BitVec 2048) (left : ReqStage) (h : r.bytes ≤ 256) :
    (r.performed (BitVec.allOnes 64) v left).stage = .done := by
  rw [Req.performed, or_allOnes]
  exact if_pos (fullPiece_allOnes h)

theorem Cmd.todo_of_untouched {c : Cmd} {r : Req} (hi : isRemote c.ins = false) (hd : r.did = 0) :
    c.todo r = 2 ^ r.bytes - 1 := by
  simp [Cmd.todo, hi, hd]

/-! ### An access that is due -/

theorem State.homeDue_spec {n q rq : Nat} {c : Cmd} {r : Req} (h : s.homeDue n q rq = some (c, r)) :
    s.cmd? n q = some c ∧ c.req? rq = some r := by
  unfold State.homeDue at h
  split at h
  · cases h
  · next d hd =>
    split at h
    · cases h
    · next x hx =>
      split at h
      · cases h
        exact ⟨hd, hx⟩
      · cases h

end Sys2Proof.Machine
end

section
/-!
PROOF of O48: the accesses of a die to a sector that it does not home, the accesses at a home, and the masks of the interleave.
-/

namespace Sys2Proof.Machine

variable {s : State} {die key k : Nat}

/-! ### A write and a read of a die (R97) -/

theorem State.dieWrite_outside (h : s.ownStack die key = false) (k v : Nat) : (s.dieWrite die key k (2 ^ k - 1) v).1 =
    s.setSector die (key / 256) { s.sector die (key / 256) with
      dirty := (s.sector die (key / 256)).dirty ||| byteMask (key % 256) k
      data := mergeBytes (s.sector die (key / 256)).data (BitVec.ofNat 2048 (v <<< (8 * (key % 256)))) (byteMask (key % 256) k)
      poison := (s.sector die (key / 256)).poison &&& ~~~(fullGranules (byteMask (key % 256) k)) } := by
  have hmask : (2 ^ k - 1) % 2 ^ k = 2 ^ k - 1 := Nat.mod_eq_of_lt (Nat.sub_lt (Nat.two_pow_pos k) Nat.one_pos)
  simp only [State.dieWrite, h, hmask, byteMask]
  rfl

theorem State.dieWrite_stores (hd : die < 8) (h : s.ownStack die key = false) (v : Nat) :
    let x := s.sector die (key / 256)
    let w := (s.dieWrite die key k (2 ^ k - 1) v).1
    let y := w.sector die (key / 256)
    y.full = x.full ∧ y.dirty = x.dirty ||| byteMask (key % 256) k ∧ w = { s with rdc := w.rdc } ∧
      ∀ i, i < 256 → y.data.extractLsb' (8 * i) 8 = if (byteMask (key % 256) k).getLsbD i
        then BitVec.ofNat 8 (v >>> (8 * (i - key % 256))) else x.data.extractLsb' (8 * i) 8 := by
  simp only [State.dieWrite_outside h k v, State.sector_setSector_same _ hd]
  refine ⟨trivial, trivial, State.setSector_frame .., fun i hi => ?_⟩
  rw [byte_mergeBytes _ _ _ hi]
  split
  · next hm =>
    rw [getLsbD_byteMask, decide_eq_true_eq] at hm
    exact byte_shiftLeft v hm.2.1 hi
  · rfl

theorem State.dieRead_served (h : s.ownStack die key = false)
    (hx : (s.sector die (key / 256)).serves (byteMask (key % 256) k) = true) : s.dieRead die key k =
      (s, (s.sector die (key / 256)).data.toNat >>> (8 * (key % 256)) % 2 ^ (8 * k),
        (s.sector die (key / 256)).poison &&& touchedGranules (byteMask (key % 256) k) != 0) := by
  simp [State.dieRead, h, hx]

theorem State.dieRead_fills (hd : die < 8) (h : s.ownStack die key = false)
    (hx : (s.sector die (key / 256)).serves (byteMask (key % 256) k) = false) :
    let x := s.sector die (key / 256)
    let y := (s.dieRead die key k).1.sector die (key / 256)
    y.full = true ∧ y.dirty = x.dirty ∧
      ∀ i, i < 256 → x.dirty.getLsbD i = true → y.data.extractLsb' (8 * i) 8 = x.data.extractLsb' (8 * i) 8 := by
  have hread : (s.dieRead die key k).1 = (s.fillSector die (key / 256)).1 := by simp [State.dieRead, h, hx]
  simp only [hread, State.fillSector, State.sector_setSector_same _ hd]
  refine ⟨trivial, trivial, fun i hi hdirty => ?_⟩
  rw [byte_mergeBytes _ _ _ hi, if_pos (by simp [hdirty])]

/-! ### The release, the acquire and the replacement of a sector (R97) -/

theorem State.acquireSector_keepsDirty (hd : die < 8) (m : Nat) :
    let x := s.sector die m
    let y := (s.acquireSector die m).sector die m
    y.full = false ∧ y.dirty = x.dirty ∧ ∀ i, i < 256 → y.data.extractLsb' (8 * i) 8 =
      if x.dirty.getLsbD i then x.data.extractLsb' (8 * i) 8 else 0 := by
  have hzero : ∀ i, (0 : BitVec 2048).extractLsb' i 8 = 0 := fun i => by ext j; simp
  simp only [s.sector_acquireSector hd, if_pos]
  by_cases hx : (s.sector die m).dirty = 0
  · rw [if_pos hx, hx]
    exact ⟨rfl, rfl, fun i _ => by simp [RdcSector.invalid]⟩
  · rw [if_neg hx]
    refine ⟨rfl, rfl, fun i hi => ?_⟩
    rw [byte_mergeBytes _ _ _ hi, hzero]

theorem rdcReplacement_replaces (hd : die < 8) {sec : Nat} (hh : s.sectorHeld die sec = false)
    (ht : s.trust.holds = false) : ∃ t, exec (.rdcReplacement die ⟨sec, BitVec.allOnes 64⟩) s = .next t ∧
      t.sector die sec = .invalid ∧ (∀ j, j ≠ sec → t.sector die j = s.sector die j) ∧ t.cores = s.cores ∧
      ((s.sector die sec).dirty = 0 → t.mem = s.mem) := by
  have hfree : s.replaceHeld die sec = false := by simp [State.replaceHeld, hh, ht]
  have hexec : exec (.rdcReplacement die ⟨sec, BitVec.allOnes 64⟩) s = .next (s.replaceSector die sec) := by
    change execRdcReplacement die ⟨sec, BitVec.allOnes 64⟩ s = _
    simp [execRdcReplacement, hfree]
  refine ⟨_, hexec, ?_, fun j hj => ?_, ?_, fun hx => ?_⟩
  · rw [s.sector_replaceSector hd, if_pos rfl]
  · rw [s.sector_replaceSector hd, if_neg hj]
  · exact State.byTraffic_cores (State.byTraffic_trans (s.writeBack_byTraffic die sec) (State.setSector_byTraffic ..))
  · rw [State.replaceSector, State.setSector_mem, State.writeBack_clean hx]

/-! ### A write at its home (R333) -/

section
variable {n q rq : Nat} {c : Cmd} {r : Req}

theorem State.home_congr {s t : State} (h : t.myMod = s.myMod) (key : Nat) : t.home key = s.home key := by
  simp [State.home, h]

theorem State.countSlice_myMod (s : State) (key : Nat) : (s.countSlice key).myMod = s.myMod := by
  unfold State.countSlice
  (repeat' split) <;> simp

theorem State.countSlice_cores (s : State) (key : Nat) : (s.countSlice key).cores = s.cores := by
  unfold State.countSlice
  (repeat' split) <;> simp

/-- Where the home is a memory of the module, no station has lost it and no port refuses it. -/
theorem State.onModule_home (hm : ∃ u, s.home r.key = .hbm u ∨ s.home r.key = .lpddr u) :
    s.gone r.key = false ∧ s.isRemoteKey r.key = false ∧ s.portRefuses r.key = (false, s) := by
  obtain ⟨u, hu | hu⟩ := hm <;> simp [State.gone, State.isRemoteKey, State.portRefuses, hu]

/-- An untouched write at its home in the module is counted at its slice, and performed there. -/
theorem State.performAt_homeWrite (hm : ∃ u, s.home r.key = .hbm u ∨ s.home r.key = .lpddr u) (hp : isPref c.ins = false)
    (hw : r.write = true) (hs : r.stage = .home) (hd : r.did = 0) (words : BitVec 64) :
    s.performAt n c r words = (s.countSlice r.key).performWrite n c r words := by
  have hhome := State.home_congr (s.countSlice_myMod r.key) r.key
  obtain ⟨hgone, -, -⟩ := State.onModule_home hm
  obtain ⟨-, -, hport⟩ := State.onModule_home (s := s.countSlice r.key) (r := r) (by rwa [hhome])
  have hstage : (r.stage == .rdc) = false := by rw [hs]; rfl
  simp [State.performAt, hstage, hgone, hd, hp, hw, hport]

theorem State.performWrite_lands (hn : n < 96) (hc : s.cmd? n q = some c) (hr : c.req? rq = some r)
    (hi : isRemote c.ins = false) (hd : r.did = 0)
    (hb : r.bytes ≤ 256) (ht : (s.touch r.key r.bytes).2 = false) :
    (∃ d y, (s.performWrite n c r (BitVec.allOnes 64)).cmd? n q = some d ∧ y ∈ d.reqs ∧ y.id = rq ∧ y.stage = .done) ∧
      (s.performWrite n c r (BitVec.allOnes 64)).mem = (s.homeWrite r.key r.bytes (2 ^ r.bytes - 1) r.data.toNat).1.mem := by
  have hwrite : s.performWrite n c r (BitVec.allOnes 64) =
      (s.homeWrite r.key r.bytes (2 ^ r.bytes - 1) r.data.toNat).1.onCmd n c.seq fun c => c.onReq r.id fun r =>
        r.performed (BitVec.allOnes 64) r.data r.stage := by
    simp only [State.performWrite, ht, Bool.and_false, wholeGranules_allOnes, Cmd.todo_of_untouched hi hd, hi]
    simp
  have hc' : (s.homeWrite r.key r.bytes (2 ^ r.bytes - 1) r.data.toNat).1.cmd? n q = some c :=
    (State.cmd?_congr (State.byHome_cores (State.homeWrite_byHome ..)) hn).trans hc
  obtain ⟨d, hd', hmem⟩ := State.cmd?_onReq hn hc' (Cmd.req?_mem hr) fun r => r.performed (BitVec.allOnes 64) r.data r.stage
  rw [hwrite, State.cmd?_seq hc]
  exact ⟨⟨d, r.performed (BitVec.allOnes 64) r.data r.stage, hd', hmem, (Cmd.req?_id hr : r.id = rq), r.performed_allOnes _ _ hb⟩, State.onCmd_mem ..⟩

theorem State.performWrite_abandons (hn : n < 96) (hc : s.cmd? n q = some c)
    (hm : ∃ u, s.home r.key = .hbm u ∨ s.home r.key = .lpddr u) (ht : (s.touch r.key r.bytes).2 = true) (words : BitVec 64) :
    (∃ d a, (s.performWrite n c r words).cmd? n q = some d ∧ d.stop = .failed r.run a) ∧
      (s.performWrite n c r words).mem = (s.touch r.key r.bytes).1.mem := by
  obtain ⟨-, hkey, -⟩ := State.onModule_home hm
  have hc' : (s.touch r.key r.bytes).1.cmd? n q = some c :=
    (State.cmd?_congr (State.byHome_cores (State.touch_byHome ..)) hn).trans hc
  simp only [State.performWrite, ht, hkey, Bool.not_false, Bool.and_self, if_pos, State.cmd?_seq hc]
  exact ⟨⟨_, _, State.cmd?_failAt hn hc' r _, rfl⟩, State.failAt_mem ..⟩

theorem homeAccess_writes (hn : n < 96) (h : s.homeDue n q rq = some (c, r))
    (hm : ∃ u, s.home r.key = .hbm u ∨ s.home r.key = .lpddr u) (hi : isRemote c.ins = false) (hp : isPref c.ins = false)
    (hw : r.write = true) (hs : r.stage = .home) (hd : r.did = 0) (hb : r.bytes ≤ 256) :
    let s1 := s.countSlice r.key
    ((s1.touch r.key r.bytes).2 = false → ∃ t, exec (.homeAccess (.core n q rq (BitVec.allOnes 64))) s = .next t ∧
      (∃ d y, t.cmd? n q = some d ∧ y ∈ d.reqs ∧ y.id = rq ∧ y.stage = .done) ∧
      t.mem = (s1.homeWrite r.key r.bytes (2 ^ r.bytes - 1) r.data.toNat).1.mem) ∧
    ((s1.touch r.key r.bytes).2 = true → ∃ t, exec (.homeAccess (.core n q rq (BitVec.allOnes 64))) s = .next t ∧
      (∃ d a, t.cmd? n q = some d ∧ d.stop = .failed r.run a) ∧ t.mem = (s1.touch r.key r.bytes).1.mem) := by
  obtain ⟨hc, hr⟩ := State.homeDue_spec h
  have hexec : exec (.homeAccess (.core n q rq (BitVec.allOnes 64))) s =
      .next ((s.countSlice r.key).performWrite n c r (BitVec.allOnes 64)) := by
    change execHomeAccess (.core n q rq (BitVec.allOnes 64)) s = _
    simp only [execHomeAccess, h, State.performAt_homeWrite hm hp hw hs hd]
  have hc1 : (s.countSlice r.key).cmd? n q = some c := (State.cmd?_congr (s.countSlice_cores r.key) hn).trans hc
  have hm1 : ∃ u, (s.countSlice r.key).home r.key = .hbm u ∨ (s.countSlice r.key).home r.key = .lpddr u := by
    rwa [State.home_congr (s.countSlice_myMod r.key)]
  exact ⟨fun ht => ⟨_, hexec, State.performWrite_lands hn hc1 hr hi hd hb ht⟩,
    fun ht => ⟨_, hexec, State.performWrite_abandons hn hc1 hm1 ht _⟩⟩

end

/-! ### An access from outside (R94) -/

theorem State.byHome_engines {s t : State} (h : s.byHome t) :
    t.cores = s.cores ∧ t.dcus = s.dcus ∧ t.vertex = s.vertex ∧ t.pbc = s.pbc ∧ t.trust = s.trust ∧ t.hbm = s.hbm := by
  rw [h.1]
  exact ⟨rfl, rfl, rfl, rfl, rfl, rfl⟩

theorem State.countSlice_engines (s : State) (key : Nat) : (s.countSlice key).cores = s.cores ∧
    (s.countSlice key).dcus = s.dcus ∧ (s.countSlice key).vertex = s.vertex ∧ (s.countSlice key).pbc = s.pbc ∧
    (s.countSlice key).trust = s.trust := by
  unfold State.countSlice
  (repeat' split) <;> simp

theorem homeAccess_missing (h : s.outsideMissing key k = true) (wr copy : Bool) (data : BitVec 2048) :
    exec (.homeAccess (.outside key k wr copy data)) s = .fault (.noSuchAddress key) := if_pos h

theorem homeAccess_outside (h : s.outsideMissing key k = false) (wr copy : Bool) (data : BitVec 2048) :
    let s1 := if copy then s.countSlice key else s
    ∃ t, exec (.homeAccess (.outside key k wr copy data)) s = .next t ∧
      t.cores = s.cores ∧ t.dcus = s.dcus ∧ t.vertex = s.vertex ∧ t.pbc = s.pbc ∧ t.trust = s.trust ∧ t.hbm = s1.hbm ∧
      t.mem = if wr then (s1.homeWrite key k (2 ^ k - 1) data.toNat).1.mem else (s1.homeRead key k).1.mem := by
  intro s1
  obtain ⟨hcores, hdcus, hvertex, hpbc, htrust⟩ : s1.cores = s.cores ∧ s1.dcus = s.dcus ∧ s1.vertex = s.vertex ∧
      s1.pbc = s.pbc ∧ s1.trust = s.trust := by
    cases copy with
    | true => exact s.countSlice_engines key
    | false => exact ⟨rfl, rfl, rfl, rfl, rfl⟩
  have hexec : exec (.homeAccess (.outside key k wr copy data)) s =
      .next (if wr then (s1.homeWrite key k (2 ^ k - 1) data.toNat).1 else (s1.homeRead key k).1) := by
    change execHomeAccess (.outside key k wr copy data) s = _
    cases wr <;> simp only [execHomeAccess, h] <;> rfl
  have hhome : s1.byHome (if wr then (s1.homeWrite key k (2 ^ k - 1) data.toNat).1 else (s1.homeRead key k).1) := by
    split
    · exact State.homeWrite_byHome ..
    · exact State.homeRead_byHome ..
  obtain ⟨kcores, kdcus, kvertex, kpbc, ktrust, khbm⟩ := State.byHome_engines hhome
  exact ⟨_, hexec, kcores.trans hcores, kdcus.trans hdcus, kvertex.trans hvertex, kpbc.trans hpbc, ktrust.trans htrust, khbm,
    apply_ite State.mem ..⟩

/-! ### The masks of the interleave (R203, R204) -/

theorem State.onHbm_spec (s : State) {st : Nat} (h : st < 8) (f : Hbm → Hbm) :
    s.onHbm st f = { s with hbm := (s.onHbm st f).hbm } ∧ (s.onHbm st f).hbm.get ⟨st, h⟩ = f (s.hbm.get ⟨st, h⟩) := by
  simp [State.onHbm, h, Vector.get_eq_getElem]

theorem hashRefused_iff (i v : Nat) : hashRefused i v = true ↔ ¬ (v % 1024 = 0 ∧ v / 1024 % 64 = 2 ^ i) := by
  have hlow : bits v 9 0 = v % 1024 := by simp [bits]
  have hset : bits v 15 10 = v / 1024 % 64 := by simp [bits, Nat.shiftRight_eq_div_pow]
  simp only [hashRefused, hlow, hset, Bool.or_eq_true, decide_eq_true_eq]
  tauto

theorem hashmWrite_stores {st i : Nat} (h : st < 8) (hi : i < 6) {z : Word}
    (ha : z.toNat % 1024 = 0 ∧ z.toNat / 1024 % 64 = 2 ^ i) : ∃ t, exec (.hashmWrite st i z) s = .next t ∧
      t = { s with hbm := t.hbm } ∧ t.hbm.get ⟨st, h⟩ =
        { s.hbm.get ⟨st, h⟩ with hashM := (s.hbm.get ⟨st, h⟩).hashM.set i (z.setWidth 44) hi } := by
  have hok : ¬ hashRefused i z.toNat = true := fun hb => (hashRefused_iff ..).1 hb ha
  refine ⟨_, (if_neg (Nat.not_le.2 hi)).trans (if_neg hok), (s.onHbm_spec h _).1, (s.onHbm_spec h _).2.trans ?_⟩
  simp [Vector.setIfInBounds, Array.setIfInBounds, Vector.set, hi]

theorem hashmWrite_refuses {st i : Nat} (h : st < 8) (hi : i < 6) {z : Word}
    (ha : ¬ (z.toNat % 1024 = 0 ∧ z.toNat / 1024 % 64 = 2 ^ i)) : ∃ t, exec (.hashmWrite st i z) s = .next t ∧
      t = { s with hbm := t.hbm } ∧ t.hbm.get ⟨st, h⟩ = { s.hbm.get ⟨st, h⟩ with hashErr := true } :=
  ⟨_, (if_neg (Nat.not_le.2 hi)).trans (if_pos ((hashRefused_iff ..).2 ha)), s.onHbm_spec h _⟩

/-- Settles O48: each access by the lemma of its own transition of the sector. -/
theorem sectorsOfAnRdc : Obligations.SectorsOfAnRdc := by
  rintro s die _ key k v hd rfl - hown
  refine ⟨State.dieWrite_stores hd hown v, fun hx => ?_, fun hx => State.dieRead_fills hd hown hx, ?_,
    State.acquireSector_keepsDirty hd _, fun hh ht => rdcReplacement_replaces hd hh ht,
    fun n q rq c r hn h hm hi hp hw hs hd hb => homeAccess_writes hn h hm hi hp hw hs hd hb,
    fun data wr copy => ⟨fun h => homeAccess_missing h wr copy data, fun h => homeAccess_outside h wr copy data⟩,
    fun st i h z => ⟨fun hi ha => hashmWrite_stores h hi ha, fun hi ha => hashmWrite_refuses h hi ha, ?_⟩⟩
  · rw [State.dieRead_served hown hx]
    exact ⟨rfl, rfl⟩
  · rw [s.sector_releaseSector hd]
    by_cases hx : (s.sector die (key / 256)).dirty = 0
    · rw [if_neg fun h => h.2 hx, if_pos hx]
    · rw [if_pos ⟨rfl, hx⟩, if_neg hx]
  · exact ⟨_, rfl, s.onHbm_spec h _⟩

end Sys2Proof.Machine
end

section
/-!
PROOF of O45: the walk for a first page and the translation of a later page, by what each walk comes to.
-/

namespace Sys2Proof.Machine

variable {s : State} {n q : Nat}

/-! ### A translation found (R91) -/

/-- A translation cached changes the table of the core alone, and takes the place of an earlier one of the same page. -/
theorem State.cache_caches (s u : State) (hn : n < 96) (hu : u.cores = s.cores) (x : TlbEntry) :
    let t := u.onUn n fun v => v.cache x
    let c := s.coreAt n
    t = { u with cores := t.cores } ∧ t.coreAt n = { c with un := { c.un with tlb := (t.unAt n).tlb } } ∧
      ∀ y, y ∈ (t.unAt n).tlb ↔ y = x ∨ (y ∈ c.un.tlb ∧ ¬ (y.seg = x.seg ∧ y.va = x.va)) := by
  have hcore : u.coreAt n = s.coreAt n := State.coreAt_congr hu hn
  have hun : u.unAt n = (s.coreAt n).un := congrArg Core.un hcore
  refine ⟨State.onUn_byCores .., ?_, fun y => ?_⟩
  · rw [State.unAt, State.coreAt_onUn _ hn, hcore, hun]
    rfl
  · rw [State.unAt_onUn _ hn, hun]
    simp [Untimed.cache, imp_iff_not_or]

/-! ### The walk that a bundle waits for (R92) -/

theorem State.core_at (s : State) (hn : n < 96) : (s.at n).core = s.coreAt n := by
  simp [State.at, State.core, State.coreAt, hn]

theorem State.verdict_hold {cause : Nat} (h : s.verdict = .hold cause) : ∃ k, s.core.task = some k ∧ k.phase = .running := by
  unfold State.verdict at h
  cases hk : s.core.task with
  | none => simp [hk] at h
  | some k =>
    refine ⟨k, rfl, ?_⟩
    by_contra hp
    simp [hk, hp] at h

/-- A core that waits for a walk has a task that runs. -/
theorem State.walkDue_task (hn : n < 96) {p : Nat × BitVec 6 × Bool} (h : s.walkDue n = some p) :
    ∃ k, (s.coreAt n).task = some k ∧ k.phase = .running := by
  have hv : (s.at n).verdict = .hold 3 := by
    by_contra hv
    simp [State.walkDue, hv] at h
  rw [← s.core_at hn]
  exact State.verdict_hold hv

section
variable {va : Nat} {si : BitVec 6} {wr : Bool} (h : s.walkDue n = some (va, si, wr))
include h

theorem execTlbWalkComplete_found {x : TlbEntry} (hx : s.walkFor n va si wr = .ok x) :
    exec (.tlbWalkComplete n) s = .next ((s.walkRead n va si wr).onUn n fun u => u.cache x) := by
  change execTlbWalkComplete n s = _
  simp only [execTlbWalkComplete, h, hx]

theorem execTlbWalkComplete_pref {f : WalkFault} (hf : s.walkFor n va si wr = .error f) (hp : s.headPref n = true) :
    exec (.tlbWalkComplete n) s = .next ((s.walkRead n va si wr).onCore n Core.walkedOut) := by
  change execTlbWalkComplete n s = _
  simp only [execTlbWalkComplete, h, hf, hp, if_pos]

theorem execTlbWalkComplete_invalid (hf : s.walkFor n va si wr = .error .invalid) (hp : s.headPref n = false) :
    exec (.tlbWalkComplete n) s = .next ((s.walkRead n va si wr).enterHold n none va wr) := by
  change execTlbWalkComplete n s = _
  simp [execTlbWalkComplete, h, hf, hp]

theorem execTlbWalkComplete_fatal {code : BitVec 8} {d : Word} (hf : s.walkFor n va si wr = .error (.fatal code d))
    (hp : s.headPref n = false) : exec (.tlbWalkComplete n) s =
      .next ((s.walkRead n va si wr).fatalFault n (s.coreAt n).timed.seq.pc code d 0 0 va) := by
  change execTlbWalkComplete n s = _
  simp [execTlbWalkComplete, h, hf, hp]

end

/-- FAULTHOLD_ENTRY of a running task: the core keeps all but its task, and the die's fault log takes an entry of KIND 1. -/
theorem State.enterHold_holds (hn : n < 96) {k : Task} (hk : (s.coreAt n).task = some k) (hp : k.phase = .running)
    (va : Nat) (wr : Bool) :
    let t := s.enterHold n none va wr
    (∃ k h, (t.coreAt n).task = some k ∧ k.phase = .faultHold ∧ k.hold = some h ∧ h.va = va ∧ h.replays = 0 ∧ h.cmd = none) ∧
    (t.coreAt n).timed = (s.coreAt n).timed ∧ (t.coreAt n).un = (s.coreAt n).un ∧
    ∃ e, (t.dcu (n / 12)).flog.queue = (s.dcu (n / 12)).flog.queue ++ [e] ∧ e.info.kind = 1 ∧
      e.pc = (s.coreAt n).timed.seq.pc ∧ e.info.faddr = BitVec.ofNat 52 va := by
  have hd : n / 12 < 8 := by omega
  have hrun : decide (k.phase = .draining) = false := by rw [hp]; rfl
  intro t
  let h : Hold := ⟨none, va, wr, 0, false, 0⟩
  let k1 : Task := { k with phase := .faultHold, hold := some h, late := none,
                            evict := if k.evict = some 3 then k.evict else none }
  let s1 := s.onCore n fun c => { c with task := some k1 }
  have ht : t = s1.logPageFault n h := by simp only [t, s1, k1, h, State.enterHold, hk, hrun]
  have hcore : s1.coreAt n = { s.coreAt n with task := some k1 } := s.coreAt_onCore n _ hn
  have hlog : t = s1.logFault (n / 12) (faultRec n { s.coreAt n with task := some k1 } k1 (s.coreAt n).timed.seq.pc
      { kind := 1, code := 0, slot := 0, replays := 0, detail := 0, reached := 0, faddr := BitVec.ofNat 52 va }) := by
    rw [ht]
    simp only [State.logPageFault, hcore]
    rfl
  have hcores : t.coreAt n = { s.coreAt n with task := some k1 } := by
    rw [hlog, State.coreAt_congr (State.logFault_cores ..) hn, hcore]
  have hqueue := congrArg (fun u : State => (u.dcu (n / 12)).flog.queue) hlog
  simp only [State.logFault] at hqueue
  rw [State.dcu_onDcu _ _ _ hd, State.dcu_congr (State.onCore_dcus ..)] at hqueue
  exact ⟨⟨k1, h, by rw [hcores], rfl, rfl, rfl, rfl, rfl⟩, by rw [hcores], by rw [hcores], _, hqueue, rfl, rfl, rfl⟩

theorem tlbWalkComplete_walks (hn : n < 96) {va : Nat} {si : BitVec 6} {wr : Bool} (h : s.walkDue n = some (va, si, wr)) :
    let yields := fun (i : Instr) (p : State → Prop) => ∃ t, exec i s = .next t ∧ p t
    let c := s.coreAt n
    let s1 := s.walkRead n va si wr
    (∀ f, s.walkFor n va si wr = .error f → s.headPref n = true → yields (.tlbWalkComplete n) fun t =>
      t = { s1 with cores := t.cores } ∧
      t.coreAt n = { c with timed := { c.timed with seq := { c.timed.seq with walked := true } } }) ∧
    (s.walkFor n va si wr = .error .invalid → s.headPref n = false → yields (.tlbWalkComplete n) fun t =>
      (∃ k h, (t.coreAt n).task = some k ∧ k.phase = .faultHold ∧ k.hold = some h ∧ h.va = va ∧ h.replays = 0 ∧ h.cmd = none) ∧
      (t.coreAt n).timed = c.timed ∧ (t.coreAt n).un = c.un ∧ t.mem = s1.mem ∧
      ∃ e, (t.dcu (n / 12)).flog.queue = (s.dcu (n / 12)).flog.queue ++ [e] ∧ e.info.kind = 1 ∧ e.pc = c.timed.seq.pc ∧
        e.info.faddr = BitVec.ofNat 52 va) ∧
    (∀ code d, s.walkFor n va si wr = .error (.fatal code d) → s.headPref n = false → yields (.tlbWalkComplete n) fun t =>
      (∃ k, (t.coreAt n).task = some k ∧ k.phase = .failed) ∧
      ∃ e, (t.dcu (n / 12)).flog.queue = (s.dcu (n / 12)).flog.queue ++ [e] ∧ e.info.kind = 0 ∧ e.info.code = code ∧
        e.info.detail = d) := by
  have hhome := s.walkRead_byHome n va si wr
  have hcore : (s.walkRead n va si wr).coreAt n = s.coreAt n := State.coreAt_congr (State.byHome_cores hhome) hn
  have hdcu : (s.walkRead n va si wr).dcu (n / 12) = s.dcu (n / 12) := State.dcu_congr (State.byHome_dcus hhome) _
  obtain ⟨k, hk, hrun⟩ := State.walkDue_task hn h
  have hk1 : ((s.walkRead n va si wr).coreAt n).task = some k := by rw [hcore, hk]
  refine ⟨fun f hf hp => ⟨_, execTlbWalkComplete_pref h hf hp, State.onCore_frame .., ?_⟩,
    fun hf hp => ⟨_, execTlbWalkComplete_invalid h hf hp, ?_⟩,
    fun code d hf hp => ⟨_, execTlbWalkComplete_fatal h hf hp, State.failCore_task hn hk1 .., ?_⟩⟩
  · rw [State.coreAt_onCore _ _ _ hn, hcore]
    rfl
  · obtain ⟨hheld, htimed, hun, hlog⟩ := State.enterHold_holds hn hk1 hrun va wr
    rw [hcore] at htimed hun hlog
    rw [hdcu] at hlog
    exact ⟨hheld, htimed, hun, State.enterHold_mem .., hlog⟩
  · have hlog := State.failCore_logs (show dieOf n < 8 by simp only [dieOf]; omega) hk1
    rw [dieOf, hdcu] at hlog
    exact ⟨_, hlog .., rfl, rfl, rfl⟩

/-! ### The translation of a later page (R92, R193) -/

theorem State.translateDue_task {m : Cmd} {k : Task} {e : Seg} {va : Nat} (h : s.translateDue n m = some (k, e, va)) :
    (s.coreAt n).task = some k := by
  unfold State.translateDue at h
  cases hk : (s.coreAt n).task with
  | none => simp [hk] at h
  | some j =>
    simp only [hk] at h
    (repeat' split at h) <;> cases h
    rfl

section
variable {m : Cmd} {k : Task} {e : Seg} {va : Nat} (hm : s.cmd? n q = some m) (h : s.translateDue n m = some (k, e, va))
include hm h

theorem execCopyPageTranslation_found {x : TlbEntry} (hx : walk s e (capIdx m.a) (va - segBase e) (isWriteTile m.ins) = .ok x) :
    exec (.copyPageTranslation n q) s =
      .next ((s.walked e (capIdx m.a) (va - segBase e) (isWriteTile m.ins)).onUn n fun u => u.cache x) := by
  change execCopyPageTranslation n q s = _
  simp only [execCopyPageTranslation, hm, h, hx]

theorem execCopyPageTranslation_pref {f : WalkFault}
    (hf : walk s e (capIdx m.a) (va - segBase e) (isWriteTile m.ins) = .error f) (hp : isPref m.ins = true) :
    exec (.copyPageTranslation n q) s =
      .next ((s.walked e (capIdx m.a) (va - segBase e) (isWriteTile m.ins)).onCmd n q fun c => c.skipPage va) := by
  change execCopyPageTranslation n q s = _
  simp only [execCopyPageTranslation, hm, h, hf, hp, if_pos]

theorem execCopyPageTranslation_fault {f : WalkFault}
    (hf : walk s e (capIdx m.a) (va - segBase e) (isWriteTile m.ins) = .error f) (hp : isPref m.ins = false) :
    exec (.copyPageTranslation n q) s = .next ((s.walked e (capIdx m.a) (va - segBase e) (isWriteTile m.ins)).lateFault n
      ⟨q, BitVec.ofNat 64 m.run, f, va, isWriteTile m.ins⟩) := by
  change execCopyPageTranslation n q s = _
  simp [execCopyPageTranslation, hm, h, hf, hp]

end

theorem Cmd.advance_seq (c : Cmd) (k : Nat) : (c.advance k).seq = c.seq := by
  unfold Cmd.advance
  split <;> rfl

/-- The command that a fault of a later page has stopped, before the fault is kept for the core. -/
def State.lateStopped (s : State) (n : Nat) (f : LateFault) : State := match f.fault with
  | .invalid => s.onCmd n f.cmd fun c => { c with stop := .fault f.va f.write }
  | .fatal _ _ => s.failStopped n (some f.cmd) f.va

/-- The stop of a command changes nothing of the core but the queue. -/
theorem State.lateStopped_stops (hn : n < 96) {m : Cmd} {f : LateFault} (hm : s.cmd? n f.cmd = some m) :
    (∃ x, (s.lateStopped n f).cmd? n f.cmd = some x ∧ x.stop ≠ .run ∧ x.reqs = m.reqs ∧ x.run = m.run) ∧
      s.byCores (s.lateStopped n f) ∧ ((s.lateStopped n f).coreAt n).timed = (s.coreAt n).timed ∧
      ((s.lateStopped n f).coreAt n).task = (s.coreAt n).task := by
  unfold State.lateStopped
  split
  · exact ⟨⟨_, State.cmd?_onCmd hn hm fun _ => rfl, by simp, rfl, rfl⟩, State.onCmd_byCores .., s.timedAt_onCmd hn _,
      State.onCmd_task _ _ _ _ hn⟩
  · exact ⟨⟨_, State.cmd?_onCmd hn hm fun _ => rfl, by simp, rfl, rfl⟩, State.onCmd_byCores .., s.timedAt_onCmd hn _,
      State.onCmd_task _ _ _ _ hn⟩

/-- A fault kept for the core beside the stopped command. -/
theorem State.lateFault_kept {k : Task} (hk : (s.coreAt n).task = some k) (f : LateFault)
    (hp : k.phase = .running ∨ k.phase = .evicting ∧ f.fault ≠ .invalid) :
    s.lateFault n f = (s.lateStopped n f).onCore n fun c => { c with task := some { k with late := some f } } := by
  unfold State.lateFault State.lateStopped
  cases hfault : f.fault with
  | invalid => simp only [hk, hp.resolve_right fun h => h.2 hfault]
  | fatal code d => obtain hp | ⟨hp, -⟩ := hp <;> simp only [hk, hp]

theorem State.lateFault_stoppedAlone {k : Task} (hk : (s.coreAt n).task = some k) {f : LateFault} (hp : k.phase = .evicting)
    (hf : f.fault = .invalid) : s.lateFault n f = s.lateStopped n f := by
  simp only [State.lateFault, State.lateStopped, hk, hp, hf]

/-- The command stops in either case; the task keeps the fault where it waits for the core. -/
theorem State.lateFault_stops (hn : n < 96) {m : Cmd} {f : LateFault} (hm : s.cmd? n f.cmd = some m) {k : Task}
    (hk : (s.coreAt n).task = some k) (hp : k.phase = .running ∨ k.phase = .evicting) :
    let t := s.lateFault n f
    (t.coreAt n).task = some (if k.phase = .evicting ∧ f.fault = .invalid then k else { k with late := some f }) ∧
    (∃ x, t.cmd? n f.cmd = some x ∧ x.stop ≠ .run ∧ x.reqs = m.reqs ∧ x.run = m.run) ∧
    s.byCores t ∧ (t.coreAt n).timed = (s.coreAt n).timed := by
  intro t
  obtain ⟨⟨x, hx, hstop⟩, hcores, htimed, htask⟩ := State.lateStopped_stops hn hm
  by_cases hf : k.phase = .evicting ∧ f.fault = .invalid
  · rw [show t = _ from State.lateFault_stoppedAlone hk hf.1 hf.2, if_pos hf]
    exact ⟨htask.trans hk, ⟨x, hx, hstop⟩, hcores, htimed⟩
  · have hkept : k.phase = .running ∨ k.phase = .evicting ∧ f.fault ≠ .invalid :=
      hp.imp_right fun he => ⟨he, fun hi => hf ⟨he, hi⟩⟩
    have hcore : t.coreAt n = { (s.lateStopped n f).coreAt n with task := some { k with late := some f } } := by
      rw [show t = _ from State.lateFault_kept hk f hkept, State.coreAt_onCore _ _ _ hn]
    rw [if_neg hf]
    refine ⟨by rw [hcore], ⟨x, ?_, hstop⟩, ?_, by rw [hcore, htimed]⟩
    · rw [State.cmd?, State.unAt, hcore]
      exact hx
    · rw [show t = _ from State.lateFault_kept hk f hkept]
      exact State.byCores_trans hcores (State.onCore_byCores ..)

theorem copyPageTranslation_walks (hn : n < 96) {m : Cmd} {k : Task} {e : Seg} {va : Nat} (hm : s.cmd? n q = some m)
    (h : s.translateDue n m = some (k, e, va)) :
    let yields := fun (i : Instr) (p : State → Prop) => ∃ t, exec i s = .next t ∧ p t
    let found := walk s e (capIdx m.a) (va - segBase e) (isWriteTile m.ins)
    let s1 := s.walked e (capIdx m.a) (va - segBase e) (isWriteTile m.ins)
    let late := fun (f : WalkFault) => (some ⟨q, BitVec.ofNat 64 m.run, f, va, isWriteTile m.ins⟩ : Option LateFault)
    let stops := fun (t : State) => (∃ x, t.cmd? n q = some x ∧ x.stop ≠ .run ∧ x.reqs = m.reqs ∧ x.run = m.run) ∧
      t = { s1 with cores := t.cores } ∧ (t.coreAt n).timed = (s.coreAt n).timed
    (∀ f, found = .error f → isPref m.ins = true → yields (.copyPageTranslation n q) fun t =>
      t.cmd? n q = some (m.skipPage va) ∧ t = { s1 with cores := t.cores } ∧ (t.coreAt n).timed = (s.coreAt n).timed) ∧
    (∀ f, found = .error f → isPref m.ins = false → k.phase = .running → yields (.copyPageTranslation n q) fun t =>
      (t.coreAt n).task = some { k with late := late f } ∧ stops t) ∧
    (∀ f, found = .error f → isPref m.ins = false → k.phase = .evicting → yields (.copyPageTranslation n q) fun t =>
      (t.coreAt n).task = some (if f = .invalid then k else { k with late := late f }) ∧ stops t) := by
  intro yields found s1 late stops
  have hcores : s1.cores = s.cores := State.byHome_cores (s.walked_byHome ..)
  have hcore : s1.coreAt n = s.coreAt n := State.coreAt_congr hcores hn
  have hm1 : s1.cmd? n q = some m := (State.cmd?_congr hcores hn).trans hm
  have hk1 : (s1.coreAt n).task = some k := hcore.symm ▸ State.translateDue_task h
  have hlate := fun (f : WalkFault) => State.lateFault_stops (f := ⟨q, BitVec.ofNat 64 m.run, f, va, isWriteTile m.ins⟩) hn hm1 hk1
  rw [hcore] at hlate
  refine ⟨fun f hf hp => ⟨_, execCopyPageTranslation_pref hm h hf hp, State.cmd?_onCmd hn hm1 fun c => c.advance_seq _,
      State.onCmd_byCores .., ?_⟩,
    fun f hf hp hphase => ⟨_, execCopyPageTranslation_fault hm h hf hp, ?_⟩,
    fun f hf hp hphase => ⟨_, execCopyPageTranslation_fault hm h hf hp, ?_⟩⟩
  · exact (s1.timedAt_onCmd hn _).trans (congrArg Core.timed hcore)
  · obtain ⟨htask, hstops⟩ := hlate f (.inl hphase)
    refine ⟨htask.trans ?_, hstops⟩
    rw [if_neg fun hc => by rw [hphase] at hc; cases hc.1]
  · obtain ⟨htask, hstops⟩ := hlate f (.inr hphase)
    exact ⟨htask.trans (congrArg some (if_congr (and_iff_right hphase) rfl rfl)), hstops⟩

/-- Settles O45: both walks read at homes alone, and each case is what its own meaning makes of the answer. -/
theorem pagesOfACopyCommand : Obligations.PagesOfACopyCommand := by
  intro s n q hn
  refine ⟨fun va si wr h => ?_, fun m k e va hm h => ?_⟩
  · have hhome := s.walkRead_byHome n va si wr
    exact ⟨State.byHome_cores hhome, State.byHome_regions hhome, fun x hx => ⟨_, execTlbWalkComplete_found h hx,
      s.cache_caches _ hn (State.byHome_cores hhome) x⟩, tlbWalkComplete_walks hn h⟩
  · exact ⟨fun x hx => ⟨_, execCopyPageTranslation_found hm h hx,
      s.cache_caches _ hn (State.byHome_cores (s.walked_byHome ..)) x⟩, copyPageTranslation_walks hn hm h⟩

end Sys2Proof.Machine
end

section
/-!
SUPPORT. The bytes of a tile window (R175, R176): each logical byte stands at a place of its own, and what a window reads as after
bytes were written to it.
-/

namespace Sys2Proof.Machine

variable {w : Window}

/-! ### Every logical byte has a place of its own (R176) -/

theorem pow2Pitch_eq (n : Nat) : ∃ k, k < 7 ∧ pow2Pitch n = 64 * 2 ^ k ∧ (n ≤ 4096 → n ≤ 64 * 2 ^ k) := by
  unfold pow2Pitch
  split_ifs
  · exact ⟨0, by omega⟩
  · exact ⟨1, by omega⟩
  · exact ⟨2, by omega⟩
  · exact ⟨3, by omega⟩
  · exact ⟨4, by omega⟩
  · exact ⟨5, by omega⟩
  · exact ⟨6, by omega⟩

theorem bitrev6_lt (y : Nat) : bitrev6 y < 64 := by
  unfold bitrev6
  omega

/-- Among the rows of one stripe, of which there are 2^(6 - k), the reversed number tells rows apart by its bits from k up. -/
theorem bitrev6_top_injective : ∀ k < 7, ∀ i < 64, ∀ j < 64,
    i / 2 ^ (6 - k) = j / 2 ^ (6 - k) → bitrev6 i / 2 ^ k = bitrev6 j / 2 ^ k → i = j := by decide +kernel

/-- The chunk of a skewed row tells the row within its stripe, and its place in the row. -/
theorem skewed_chunk_injective {k i j x y : Nat} (hk : k < 7) (hi : i / 2 ^ (6 - k) = j / 2 ^ (6 - k)) (hx : x < 2 ^ k)
    (hy : y < 2 ^ k) (h : x ^^^ bitrev6 (i % 64) = y ^^^ bitrev6 (j % 64)) : i = j ∧ x = y := by
  have hpow : 64 = 2 ^ (6 - k) * 2 ^ k := by rw [← Nat.pow_add, show 6 - k + k = 6 by omega]
  have hrow : ∀ a : Nat, a % 64 / 2 ^ (6 - k) = a / 2 ^ (6 - k) % 2 ^ k := fun a => by
    conv_lhs => rw [hpow, Nat.mod_mul_right_div_self]
  have htop : ∀ a b : Nat, a < 2 ^ k → (a ^^^ b) / 2 ^ k = b / 2 ^ k := fun a b ha => by
    rw [Nat.xor_div_two_pow, Nat.div_eq_of_lt ha, Nat.zero_xor]
  have hmod : i % 64 = j % 64 := by
    refine bitrev6_top_injective k hk _ (Nat.mod_lt _ (by decide)) _ (Nat.mod_lt _ (by decide)) ?_ ?_
    · rw [hrow, hrow, hi]
    · exact (htop x _ hx).symm.trans ((congrArg (· / 2 ^ k) h).trans (htop y _ hy))
  have hdiv : i / 64 = j / 64 := by
    conv_lhs => rw [hpow, ← Nat.div_div_eq_div_mul, hi, Nat.div_div_eq_div_mul]
    rw [← hpow]
  rw [hmod] at h
  exact ⟨by omega, Nat.xor_left_injective h⟩

theorem Window.addr_injective (hw : w.rbu ≤ 4096) {i j x y : Nat} (hx : x < w.rbu) (hy : y < w.rbu)
    (h : w.addr i x = w.addr j y) : i = j ∧ x = y := by
  obtain ⟨k, hk, hp, hle⟩ := pow2Pitch_eq w.rbu
  have hpitch : w.rp = 64 * 2 ^ k := hp
  have hrows : w.g = 2 ^ (6 - k) := by
    rw [Window.g, hpitch, show 4096 = 2 ^ (6 - k) * (64 * 2 ^ k) by
      rw [Nat.mul_left_comm, ← Nat.pow_add, show 6 - k + k = 6 by omega]]
    exact Nat.mul_div_cancel _ (by positivity)
  have hlt : w.rbu ≤ 64 * 2 ^ k := hle hw
  unfold Window.addr at h
  split at h
  · have hchunk : ∀ a b : Nat, a < w.rbu → (a / 64 ^^^ bitrev6 (b % 64)) < 64 := fun a b ha =>
      Nat.xor_lt_two_pow (n := 6) (by omega) (bitrev6_lt _)
    have h1 := hchunk x i hx
    have h2 := hchunk y j hy
    obtain ⟨hi, hc⟩ := skewed_chunk_injective (i := i) (j := j) (x := x / 64) (y := y / 64) hk (by rw [← hrows]; omega)
      (by omega) (by omega) (by omega)
    exact ⟨hi, by omega⟩
  · rw [hpitch] at h
    have hrow : i = j := by
      rcases Nat.lt_trichotomy i j with hij | hij | hij
      · have := Nat.mul_le_mul_right (64 * 2 ^ k) hij
        rw [Nat.succ_mul] at this
        omega
      · exact hij
      · have := Nat.mul_le_mul_right (64 * 2 ^ k) hij
        rw [Nat.succ_mul] at this
        omega
    subst hrow
    exact ⟨rfl, by omega⟩

theorem Window.byteAddr_injective (hw : w.rbu ≤ 4096) {l k : Nat} (hl : l < w.size)
    (h : w.byteAddr l = w.byteAddr k) : l = k := by
  have hpos : 0 < w.rbu := Nat.pos_of_ne_zero fun h0 => by simp [Window.size, h0] at hl
  obtain ⟨hrow, hbyte⟩ := Window.addr_injective hw (Nat.mod_lt l hpos) (Nat.mod_lt k hpos) h
  rw [← Nat.div_add_mod l w.rbu, ← Nat.div_add_mod k w.rbu, hrow, hbyte]

/-! ### The scratchpad byte by byte (R173) -/

theorem getLsbD_mergeStripe (old mask data : VReg) (j : Nat) :
    (mergeStripe old mask data).getLsbD j = if mask.getLsbD j then data.getLsbD j else old.getLsbD j := by
  by_cases hj : j < 32768
  · simp only [mergeStripe, BitVec.getLsbD_or, BitVec.getLsbD_and, BitVec.getLsbD_not, hj]
    cases mask.getLsbD j <;> simp
  · simp [BitVec.getLsbD_of_ge _ _ (Nat.not_lt.1 hj)]

theorem Timed.sbyte_setSbyte (t : Timed) (a : Nat) (b : Byte) (x : Nat) :
    (t.setSbyte a b).sbyte x = if x = a then b else t.sbyte x := by
  rw [Timed.sbyte, Timed.setSbyte, Timed.stripe_writePart]
  by_cases hs : x / 4096 = a / 4096
  · rw [if_pos (show x / 4096 = (storePart a 1 b.toNat).stripe from hs)]
    ext j hj
    rw [BitVec.getElem_extractLsb', getLsbD_mergeStripe]
    have hmask : (storePart a 1 b.toNat).mask.getLsbD (8 * (x % 4096) + j) = decide (x = a) := by
      simp only [storePart, BitVec.getLsbD_ofNat, Nat.testBit_shiftLeft, Nat.testBit_two_pow_sub_one]
      rw [Bool.eq_iff_iff]
      simp only [Bool.and_eq_true, decide_eq_true_eq]
      omega
    rw [hmask]
    by_cases hx : x = a
    · subst hx
      simp only [decide_true, if_pos, storePart, BitVec.getLsbD_ofNat, Nat.testBit_shiftLeft]
      rw [Nat.mod_eq_of_lt b.isLt, Nat.add_sub_cancel_left, BitVec.testBit_toNat, ← BitVec.getLsbD_eq_getElem]
      simp [show 8 * (x % 4096) + j < 32768 by omega]
    · simp only [hx, decide_false, Bool.false_eq_true, if_false, Timed.sbyte, BitVec.getElem_extractLsb', hs, storePart]
  · rw [if_neg (show x / 4096 ≠ (storePart a 1 b.toNat).stripe from hs), if_neg fun h : x = a => hs (by rw [h])]
    rfl

/-! ### A window byte by byte (R190) -/

theorem Timed.sbyte_winWrite_other (t : Timed) (w : Window) (l n v a : Nat) (h : ∀ i, i < n → w.byteAddr (l + i) ≠ a) :
    (t.winWrite w l n v).sbyte a = t.sbyte a := by
  induction n generalizing t l v with
  | zero => rfl
  | succ n ih =>
    rw [Timed.winWrite, ih _ _ _ fun i hi => by rw [Nat.add_assoc, Nat.add_comm 1]; exact h (i + 1) (by omega),
      Timed.sbyte_setSbyte, if_neg fun e : a = w.byteAddr l => h 0 (by omega) e.symm]

/-- Byte `i` of a number written to a window. -/
theorem Timed.sbyte_winWrite (t : Timed) (hw : w.rbu ≤ 4096) {l n : Nat} (hl : l + n ≤ w.size) (v : Nat) {i : Nat} (hi : i < n) :
    (t.winWrite w l n v).sbyte (w.byteAddr (l + i)) = BitVec.ofNat 8 (v >>> (8 * i)) := by
  induction n generalizing t l v i with
  | zero => exact absurd hi (by omega)
  | succ n ih =>
    rw [Timed.winWrite]
    cases i with
    | zero =>
      rw [Timed.sbyte_winWrite_other _ _ _ _ _ _ fun i hi h => by
        have := Window.byteAddr_injective hw (by omega) h
        omega]
      simp [Timed.sbyte_setSbyte]
    | succ i =>
      rw [show l + (i + 1) = l + 1 + i by omega, ih _ (by omega) _ (by omega), show 8 * (i + 1) = 8 + 8 * i by omega,
        Nat.shiftRight_add]
      simp [Nat.shiftRight_eq_div_pow]

/-- Byte `i` of what a window reads as. -/
theorem Timed.byte_winRead (t : Timed) (w : Window) (l n : Nat) {i : Nat} (hi : i < n) :
    BitVec.ofNat 8 (t.winRead w l n >>> (8 * i)) = t.sbyte (w.byteAddr (l + i)) := by
  induction n generalizing l i with
  | zero => exact absurd hi (by omega)
  | succ n ih =>
    have hlow := (t.winByte w l).isLt
    cases i with
    | zero =>
      refine BitVec.eq_of_toNat_eq ?_
      rw [Timed.winRead, BitVec.toNat_ofNat]
      simp only [Nat.mul_zero, Nat.shiftRight_zero, Nat.add_zero]
      change _ = (t.winByte w l).toNat
      omega
    | succ i =>
      rw [Timed.winRead, show 8 * (i + 1) = 8 + 8 * i by omega, Nat.shiftRight_add,
        show ((t.winByte w l).toNat + 256 * t.winRead w (l + 1) n) >>> 8 = t.winRead w (l + 1) n by
          rw [Nat.shiftRight_eq_div_pow]; omega,
        ih (l + 1) (by omega), show l + 1 + i = l + (i + 1) by omega]

theorem Timed.winRead_lt (t : Timed) (w : Window) (l n : Nat) : t.winRead w l n < 2 ^ (8 * n) := by
  induction n generalizing l with
  | zero => simp [Timed.winRead]
  | succ n ih =>
    have hlow := (t.winByte w l).isLt
    have hrest := ih (l + 1)
    rw [Timed.winRead, show 8 * (n + 1) = 8 + 8 * n by omega, Nat.pow_add]
    omega

/-- Window bytes written leave everything of the timed domain but the scratchpad. -/
theorem Timed.winWrite_flags (t : Timed) (w : Window) (l n v : Nat) : (t.winWrite w l n v).flags = t.flags := by
  induction n generalizing t l v with
  | zero => rfl
  | succ n ih => exact ih _ _ _

/-- Single bytes written to a window one after another: a byte that the list names once, or always with one value, stands. -/
theorem Timed.sbyte_foldl_winByte (hw : w.rbu ≤ 4096) {l : List HeldByte} (hl : ∀ h ∈ l, h.at' < w.size) {h : HeldByte}
    (hsize : h.at' < w.size) (hval : ∀ x ∈ l, x.at' = h.at' → x.val = h.val) (t : Timed)
    (ht : h ∈ l ∨ t.sbyte (w.byteAddr h.at') = h.val) :
    (l.foldl (fun t x => t.winWrite w x.at' 1 x.val.toNat) t).sbyte (w.byteAddr h.at') = h.val := by
  induction l generalizing t with
  | nil => exact ht.resolve_left (by simp)
  | cons x l ih =>
    have hx := hl x (List.mem_cons_self ..)
    refine ih (fun y hy => hl y (List.mem_cons_of_mem _ hy)) (fun y hy => hval y (List.mem_cons_of_mem _ hy)) _ ?_
    have hstep : (t.winWrite w x.at' 1 x.val.toNat).sbyte (w.byteAddr h.at') =
        if w.byteAddr h.at' = w.byteAddr x.at' then x.val else t.sbyte (w.byteAddr h.at') := by
      simp [Timed.winWrite, Timed.sbyte_setSbyte]
    by_cases hat : x.at' = h.at'
    · exact .inr (hstep.trans ((if_pos (by rw [hat])).trans (hval x (List.mem_cons_self ..) hat)))
    · rw [hstep, if_neg fun e => hat (Window.byteAddr_injective hw hsize e).symm]
      refine ht.imp_left fun hm => (List.mem_cons.1 hm).resolve_left fun e => hat (e ▸ rfl)

/-! ### Windows of a core -/

variable {n : Nat}

theorem State.coreAt_winWriteAt (s : State) (hn : n < 96) (w : Window) (l k v : Nat) :
    (s.winWriteAt n (some w) l k v).coreAt n =
      { s.coreAt n with timed := (s.timedAt n).winWrite w l k v, marks := ((s.coreAt n).unmarkWin w l k).marks } := by
  simp only [State.winWriteAt, State.onTimed, State.coreAt_onCore _ _ _ hn]
  rfl

theorem State.winWriteAt_byCores (s : State) (n : Nat) (w : Option Window) (l k v : Nat) :
    s.byCores (s.winWriteAt n w l k v) := by
  cases w with
  | none => rfl
  | some w =>
    exact State.byCores_trans (s.onTimed_byCores n fun t => t.winWrite w l k v)
      ((s.onTimed n fun t => t.winWrite w l k v).onCore_byCores n fun c => c.unmarkWin w l k)

theorem State.timedAt_winWriteAt (s : State) (hn : n < 96) (w : Window) (l k v : Nat) :
    (s.winWriteAt n (some w) l k v).timedAt n = (s.timedAt n).winWrite w l k v := by
  rw [State.timedAt, s.coreAt_winWriteAt hn]

theorem State.unAt_winWriteAt (s : State) (hn : n < 96) (w : Option Window) (l k v : Nat) :
    (s.winWriteAt n w l k v).unAt n = s.unAt n := by
  cases w with
  | none => rfl
  | some w =>
    rw [State.unAt, s.coreAt_winWriteAt hn]
    rfl

/-- The bytes of a list written to a window of a core. -/
theorem State.foldl_winByte (s : State) (hn : n < 96) (w : Window) (l : List HeldByte) :
    let t := l.foldl (fun s h => s.winWriteAt n (some w) h.at' 1 h.val.toNat) s
    s.byCores t ∧ t.unAt n = s.unAt n ∧
      t.timedAt n = l.foldl (fun t h => t.winWrite w h.at' 1 h.val.toNat) (s.timedAt n) := by
  induction l generalizing s with
  | nil => exact ⟨rfl, rfl, rfl⟩
  | cons h l ih =>
    obtain ⟨hcores, hun, htimed⟩ := ih (s.winWriteAt n (some w) h.at' 1 h.val.toNat)
    refine ⟨State.byCores_trans (s.winWriteAt_byCores ..) hcores, hun.trans (s.unAt_winWriteAt hn ..), htimed.trans ?_⟩
    rw [s.timedAt_winWriteAt hn]
    rfl

end Sys2Proof.Machine
end

section
/-!
PROOF of O47: the ends of the commands of the copy queue, each by what its end does to its windows, its flag and the sectors in scope.
-/

namespace Sys2Proof.Machine

variable {s : State} {n q : Nat} {c : Cmd}

/-! ### Words that all go together -/

theorem getLsbD_allOnes_of_lt {k i : Nat} (h : i < k) : (BitVec.allOnes k).getLsbD i = true := by simp [h]

theorem allOnes_and_not_zero (k : Nat) : BitVec.allOnes k &&& ~~~(0 : BitVec k) = BitVec.allOnes k := by
  ext i
  simp

/-! ### A flag reported to a core (R23) -/

theorem State.coreAt_reportAt (s : State) (hn : n < 96) (x : Note) : (s.reportAt n x).coreAt n = (s.coreAt n).report x :=
  s.coreAt_onCore n _ hn

theorem Timed.flag_doneFlag (t : Timed) (f : BitVec 5) :
    (t.doneFlag f).flag f = if t.flag f = .error then .error else .set := by
  unfold Timed.doneFlag
  split
  · assumption
  · exact (t.flag_setFlag f f .set).trans (if_pos rfl)

theorem Core.flag_report_done (c : Core) (f : BitVec 5) :
    (c.report ⟨f, true, none, none⟩).timed.flag f = if c.timed.flag f = .error then .error else .set := c.timed.flag_doneFlag f

theorem Core.flag_report_failed (c : Core) (f : BitVec 5) (i : FailInfo) :
    (c.report ⟨f, false, none, some i⟩).timed.flag f = .error := by
  unfold Core.report
  simp only [Bool.false_eq_true, if_false]
  split
  · split <;> assumption
  · exact (Timed.flag_setFlag ..).trans (if_pos rfl)

/-- A flag reported leaves the queues of its core. -/
theorem Core.report_queues (c : Core) (x : Note) :
    (c.report x).un.queue = c.un.queue ∧ (c.report x).un.batches = c.un.batches := by
  unfold Core.report
  simp only []
  split
  · split
    · exact ⟨rfl, rfl⟩
    · split <;> exact ⟨rfl, rfl⟩
  · split <;> split <;> exact ⟨rfl, rfl⟩

theorem State.timedAt_reportAt (s : State) (hn : n < 96) (x : Note) : (s.reportAt n x).timedAt n = ((s.coreAt n).report x).timed :=
  congrArg Core.timed (s.coreAt_reportAt hn x)

theorem State.timedAt_cmdDone (s : State) (hn : n < 96) (q : Nat) (f : BitVec 5) :
    (s.cmdDone n q f none).timedAt n = ((s.coreAt n).report ⟨f, true, none, none⟩).timed :=
  (State.timedAt_dropCmd _ hn).trans (s.timedAt_reportAt hn _)

theorem State.flag_cmdDone (s : State) (hn : n < 96) (q : Nat) (f : BitVec 5) :
    ((s.cmdDone n q f none).timedAt n).flag f = if (s.timedAt n).flag f = .error then .error else .set := by
  rw [s.timedAt_cmdDone hn]
  exact Core.flag_report_done ..

theorem State.flag_cmdFailed (s : State) (hn : n < 96) (q : Nat) (f : BitVec 5) (op : BitVec 8) (reached : Nat) (faddr : BitVec 52) :
    ((s.cmdFailed n q f op reached faddr).timedAt n).flag f = .error := by
  rw [State.cmdFailed, State.timedAt_dropCmd _ hn, s.timedAt_reportAt hn]
  exact Core.flag_report_failed ..

/-! ### A tile command leaves its queue (R187) -/

theorem Untimed.endTile_queue (u : Untimed) (c : Cmd) : (u.endTile c).queue = (u.dropCmd c.seq).queue := by
  unfold Untimed.endTile
  split
  · rfl
  · split <;> rfl

/-- What the end of a tile command leaves: its entry gone, and nothing else changed but of the core's untimed side. -/
theorem State.endTile_ends (s : State) (hn : n < 96) (c : Cmd) :
    let t := s.onUn n fun u => u.endTile c
    t.cmd? n c.seq = none ∧ s.byCores t ∧ t.timedAt n = s.timedAt n := by
  refine ⟨?_, s.onUn_byCores n _, s.timedAt_onUn hn _⟩
  rw [s.cmd?_onUn hn, Untimed.cmd?, Untimed.endTile_queue]
  exact Untimed.cmd?_dropCmd ..

section
variable (hc : s.cmd? n q = some c) (hd : s.endDue n c = true) {blk : Nat} {words : BitVec 1024}
include hc hd

theorem execCopyCommandComplete_tile (h : isTile c.ins = true ∨ passesThrough c.ins = true) :
    exec (.copyCommandComplete n ⟨q, blk, words⟩) s = .next (s.endTileAt n c words) := by
  change execCopyCommandComplete n ⟨q, blk, words⟩ s = _
  simp only [execCopyCommandComplete, hc, hd, Bool.not_true, Bool.false_eq_true, if_false]
  split
  · next hi => simp [hi, isTile, passesThrough] at h
  · next hi => simp [hi, isTile, passesThrough] at h
  · next hi => simp [hi, isTile, passesThrough] at h
  · next hi => simp [hi, isTile, passesThrough] at h
  · next hi => simp [hi, isTile, passesThrough] at h
  · rfl

theorem execCopyCommandComplete_fill {o : CaOp} (hi : c.ins = .wcopy o ∨ c.ins = .wfill o) :
    exec (.copyCommandComplete n ⟨q, blk, words⟩) s = .next (s.fillOrCopy n c blk words) := by
  change execCopyCommandComplete n ⟨q, blk, words⟩ s = _
  obtain hi | hi := hi <;> simp [execCopyCommandComplete, hc, hd, hi]

theorem execCopyCommandComplete_fence {m : BitVec 16} {sc : BitVec 3} {k : BitVec 2} (hi : c.ins = .fence m sc k) :
    exec (.copyCommandComplete n ⟨q, blk, words⟩) s = .next (s.fenceStep n c m sc.toNat k.toNat words) := by
  change execCopyCommandComplete n ⟨q, blk, words⟩ s = _
  simp [execCopyCommandComplete, hc, hd, hi]

theorem execCopyCommandComplete_pcnt {o : CfOp} (hi : c.ins = .pcnt o) :
    exec (.copyCommandComplete n ⟨q, blk, words⟩) s =
      .next (s.cmdResult n c o.f c.b.toNat 64 (s.unAt n).pathCounts words) := by
  change execCopyCommandComplete n ⟨q, blk, words⟩ s = _
  simp [execCopyCommandComplete, hc, hd, hi]

theorem execCopyCommandComplete_pwait {o : CfOp} (hi : c.ins = .pwait o) :
    exec (.copyCommandComplete n ⟨q, blk, words⟩) s =
      .next (if (s.unAt n).remoteFail.any (fun x => decide (x < q)) = true then s.cmdFailed n q o.f 0x55 0 0
        else s.cmdDone n q o.f none) := by
  change execCopyCommandComplete n ⟨q, blk, words⟩ s = _
  simp only [execCopyCommandComplete, hc, hd, hi, Bool.not_true, Bool.false_eq_true, if_false]
  split <;> rfl

/-- A tile command that holds no bytes back, or only such as it read, leaves its queue at once. -/
theorem copyCommandComplete_tile (hn : n < 96) (h : isTile c.ins = true ∨ passesThrough c.ins = true)
    (hh : c.prog.held = [] ∨ isWriteTile c.ins = true) :
    ∃ t, exec (.copyCommandComplete n ⟨q, blk, words⟩) s = .next t ∧ t.cmd? n q = none ∧ s.byCores t ∧
      t.timedAt n = s.timedAt n := by
  have hend : s.endTileAt n c words = s.onUn n fun u => u.endTile c :=
    if_pos (by obtain h | h := hh <;> simp [h])
  exact ⟨_, (execCopyCommandComplete_tile hc hd h).trans (congrArg _ hend), State.cmd?_seq hc ▸ s.endTile_ends hn c⟩

end

/-! ### Bytes held back land (R190) -/

section
variable {w : Window} {l : List HeldByte}

/-- Every byte held back for one core lands, where its window has room for them all. -/
theorem State.landHeld_all (s : State) (hl : ∀ h ∈ l, h.core = n ∧ h.at' < w.size) {pick : Nat → Bool}
    (hp : ∀ i, i < 1024 → pick i = true) :
    s.landHeld n (some w) none true pick l = (l.foldl (fun s h => s.winWriteAt n (some w) h.at' 1 h.val.toNat) s, ⟨[], none⟩) := by
  have hmine : (l.filter fun h => h.core == n) = l := List.filter_eq_self.2 fun h hh => by simp [(hl h hh).1]
  have hnow : ∀ f : HeldByte → Bool, (l.filter fun h => (true || f h) && pick ((w.wordOf h.at').1 / 4 % 1024)) = l := fun f =>
    List.filter_eq_self.2 fun h _ => by simp [hp _ (Nat.mod_lt _ (by decide))]
  have hin : (l.filter fun h => decide (h.at' < w.size)) = l := List.filter_eq_self.2 fun h hh => by simp [(hl h hh).2]
  have hout : (l.find? fun h => decide (w.size ≤ h.at')) = none := by
    refine List.find?_eq_none.2 fun h hh => ?_
    have := (hl h hh).2
    simp only [decide_eq_true_eq]
    omega
  have hrest : (l.filter fun h => !(l.contains h)) = [] := List.filter_eq_nil_iff.2 fun h hh => by simp [hh]
  simp only [State.landHeld, hmine, hnow, hin, hout, hrest]
  rfl

/-- The bytes that a TLD holds back land all at once, and nothing waits any more. -/
theorem State.landWaiting_all (hn : n < 96) (hc : s.cmd? n q = some c) {o : CaOp} (hi : c.ins = .tld o) (hw : c.win = some w)
    (hl : ∀ h ∈ c.prog.held, h.core = n ∧ h.at' < w.size) {pick : Nat → Bool} (hp : ∀ i, i < 1024 → pick i = true) :
    let t := s.landWaiting n q n true pick
    (∃ d, t.cmd? n q = some d ∧ d.prog.held = []) ∧ s.byCores t ∧
      t.timedAt n = c.prog.held.foldl (fun t h => t.winWrite w h.at' 1 h.val.toNat) (s.timedAt n) := by
  obtain ⟨hcores, hun, htimed⟩ := s.foldl_winByte hn w c.prog.held
  have hrec : s.receiverWin n c = some w := by simp [State.receiverWin, hi, hw]
  have harm : armWindow c.ins = none := by simp [armWindow, hi]
  simp only [State.landWaiting, hc, hrec, harm, s.landHeld_all hl hp]
  refine ⟨⟨_, State.cmd?_onCmd hn ((congrArg (Untimed.cmd? · q) hun).trans hc) fun _ => rfl, rfl⟩,
    State.byCores_trans hcores (State.onCmd_byCores ..), (State.timedAt_onCmd _ hn _).trans htimed⟩

theorem State.endTileAt_lands (hn : n < 96) (hc : s.cmd? n q = some c) {o : CaOp} (hi : c.ins = .tld o) (hw : c.win = some w)
    (hl : ∀ h ∈ c.prog.held, h.core = n ∧ h.at' < w.size) :
    let t := s.endTileAt n c (BitVec.allOnes 1024)
    t.cmd? n q = none ∧ s.byCores t ∧
      t.timedAt n = c.prog.held.foldl (fun t h => t.winWrite w h.at' 1 h.val.toNat) (s.timedAt n) := by
  have hseq := State.cmd?_seq hc
  by_cases hnil : c.prog.held = []
  · have hend : s.endTileAt n c (BitVec.allOnes 1024) = s.onUn n fun u => u.endTile c := if_pos (by simp [hnil])
    rw [hend, hnil, ← hseq]
    exact s.endTile_ends hn c
  · have hcores : (c.prog.held.map (·.core)).dedup = [n] := by
      rw [List.map_congr_left fun h hh => (hl h hh).1, List.map_const']
      exact List.replicate_dedup (by simpa using hnil)
    obtain ⟨⟨d, hd, hheld⟩, hby, htimed⟩ := State.landWaiting_all hn hc hi hw hl (pick := (BitVec.allOnes 1024).getLsbD)
      fun _ => getLsbD_allOnes_of_lt
    have hend : s.endTileAt n c (BitVec.allOnes 1024) =
        (s.landWaiting n q n true (BitVec.allOnes 1024).getLsbD).onUn n fun u => u.endTile d := by
      have htile : isWriteTile c.ins = false := by simp [isWriteTile, hi]
      simp only [State.endTileAt, hcores, List.foldl_cons, List.foldl_nil, hseq, hd, hheld, htile]
      simp [hnil]
    obtain ⟨hgone, hby', htimed'⟩ := (s.landWaiting n q n true (BitVec.allOnes 1024).getLsbD).endTile_ends hn d
    rw [State.cmd?_seq hd] at hgone
    rw [hend]
    exact ⟨hgone, State.byCores_trans hby hby', htimed'.trans htimed⟩

end

/-! ### WCOPY and WFILL (R194) -/

/-- All of WCOPY or WFILL at once: the window takes the bytes, and the command leaves its queue. -/
theorem State.fillOrCopy_whole (s : State) (hn : n < 96) {d : Window} (hw : c.win = some d) (hp : c.prog.part = [])
    (hmark : (c.win2.any fun w => s.winMarked n (some w) 0 w.size) = false) (blk : Nat) :
    let t := s.fillOrCopy n c blk (BitVec.allOnes 1024)
    t.cmd? n c.seq = none ∧ t.timedAt n = (s.timedAt n).wholeMove c d := by
  have hall : s.fillOrCopy n c blk (BitVec.allOnes 1024) =
      ((s.onTimed n fun t => t.wholeMove c d).onCore n fun k => k.unmarkWin d 0 d.size).dropCmd n c.seq := by
    simp [State.fillOrCopy, hw, hmark, hp, State.dropCmd]
  rw [hall]
  refine ⟨State.cmd?_dropCmd _ hn _, ?_⟩
  rw [State.timedAt_dropCmd _ hn, State.timedAt, State.onTimed, State.coreAt_onCore _ _ _ hn, State.coreAt_onCore _ _ _ hn]
  rfl

theorem sbyte_wcopyBytes (t : Timed) {d w : Window} (hd : d.rbu ≤ 4096) (h : d.size = w.size) {l : Nat} (hl : l < d.size) :
    (wcopyBytes t d w).sbyte (d.byteAddr l) = t.sbyte (w.byteAddr l) := by
  have hwrite := t.sbyte_winWrite hd (l := 0) (n := d.size) (by omega) (t.winRead w 0 w.size) hl
  have hread := t.byte_winRead w 0 w.size (h ▸ hl)
  rw [Nat.zero_add] at hwrite hread
  exact hwrite.trans hread

theorem sbyte_wfillFrom (t : Timed) {d : Window} (hd : d.rbu ≤ 4096) (v : Nat) {k l : Nat} (hk : k ≤ d.size) (hl : l < k) :
    (wfillFrom d v k t).sbyte (d.byteAddr l) = BitVec.ofNat 8 (v >>> (8 * (l % d.rbu % 4))) := by
  induction k with
  | zero => omega
  | succ k ih =>
    rw [wfillFrom, Timed.sbyte_setSbyte]
    by_cases hlk : l = k
    · rw [hlk, if_pos rfl]
    · rw [if_neg fun e => hlk (Window.byteAddr_injective hd (by omega) e)]
      exact ih (by omega) (by omega)

/-! ### The sectors that a fence leaves (R97, R101) -/

/-- A sector after its release. -/
def RdcSector.released (x : RdcSector) : RdcSector :=
  if x.dirty = 0 then x else if x.full then { x with dirty := 0, who := [] } else .invalid

/-- A sector after its acquire. -/
def RdcSector.acquired (x : RdcSector) : RdcSector :=
  if x.dirty = 0 then .invalid else
    { x with full := false, data := mergeBytes 0 x.data x.dirty, poison := x.poison &&& touchedGranules x.dirty, got := 0 }

/-- A sector that a fence has visited. -/
def RdcSector.fenced (kind : Nat) (mine : RdcSector → Bool) (x : RdcSector) : RdcSector :=
  let y := if kind = 2 ∧ mine x = false then x else x.released
  if kind = 1 then y else y.acquired

theorem RdcSector.released_dirty (x : RdcSector) : x.released.dirty = 0 := by
  unfold RdcSector.released
  split
  · assumption
  · split <;> rfl

theorem RdcSector.acquired_full (x : RdcSector) : x.acquired.full = false := by
  unfold RdcSector.acquired
  split <;> rfl

theorem RdcSector.acquired_dirty (x : RdcSector) : x.acquired.dirty = x.dirty := by
  unfold RdcSector.acquired
  split
  · next h => exact h.symm
  · rfl

section
variable {kind : Nat} {mine : RdcSector → Bool}

theorem RdcSector.fenced_dirty (x : RdcSector) (h : kind = 2 → mine x = true) : (x.fenced kind mine).dirty = 0 := by
  have hrel : ¬ (kind = 2 ∧ mine x = false) := fun hk => by simp [h hk.1] at hk
  unfold RdcSector.fenced
  rw [if_neg hrel]
  split
  · exact x.released_dirty
  · exact x.released.acquired_dirty.trans x.released_dirty

theorem RdcSector.fenced_clean {x : RdcSector} (h : x.dirty = 0) : (x.fenced kind mine).dirty = 0 := by
  have hrel : x.released = x := if_pos h
  unfold RdcSector.fenced
  rw [hrel, ite_self]
  split
  · exact h
  · exact x.acquired_dirty.trans h

theorem RdcSector.fenced_full (x : RdcSector) (h : kind ≠ 1) : (x.fenced kind mine).full = false := by
  unfold RdcSector.fenced
  rw [if_neg h]
  exact RdcSector.acquired_full _

variable {die : Nat}

theorem State.sector_releaseSector_eq (s : State) (hd : die < 8) (m k : Nat) :
    (s.releaseSector die m).sector die k = if k = m then (s.sector die m).released else s.sector die k := by
  rw [s.sector_releaseSector hd]
  unfold RdcSector.released
  by_cases hk : k = m <;> by_cases hx : (s.sector die m).dirty = 0 <;> simp [hk, hx]

theorem State.sector_fenceSector (s : State) (hd : die < 8) (m k : Nat) :
    (s.fenceSector die kind mine m).sector die k = if k = m then (s.sector die m).fenced kind mine else s.sector die k := by
  have hrel : ∀ j, (if kind = 2 ∧ mine (s.sector die m) = false then s else s.releaseSector die m).sector die j =
      if j = m then (if kind = 2 ∧ mine (s.sector die m) = false then s.sector die m else (s.sector die m).released)
      else s.sector die j := fun j => by
    split
    · split
      · next h => rw [h]
      · rfl
    · exact s.sector_releaseSector_eq hd m j
  unfold State.fenceSector RdcSector.fenced
  by_cases hk : kind = 1
  · simp only [if_pos hk]
    exact hrel k
  · simp only [if_neg hk]
    rw [State.sector_acquireSector _ hd, hrel m, if_pos rfl, hrel k]
    by_cases hkm : k = m
    · simp only [if_pos hkm]
      rfl
    · simp only [if_neg hkm]

/-- What a visit brings about and no later visit undoes holds of every sector that the fence visits. -/
theorem State.fenceSectors_visited (hd : die < 8) {P : RdcSector → Prop} (hkeep : ∀ y, P y → P (y.fenced kind mine)) (x : Nat)
    (l : List Nat) (s : State) (h : P (s.sector die x) ∨ x ∈ l ∧ P ((s.sector die x).fenced kind mine)) :
    P ((s.fenceSectors die kind mine l).sector die x) := by
  induction l generalizing s with
  | nil => exact h.resolve_right fun h => by simp at h
  | cons m l ih =>
    refine ih (s.fenceSector die kind mine m) ?_
    rw [s.sector_fenceSector hd]
    by_cases hm : x = m
    · subst hm
      rw [if_pos rfl]
      exact .inl (h.elim (hkeep _) (·.2))
    · rw [if_neg hm]
      exact h.imp_right fun h => ⟨(List.mem_cons.1 h.1).resolve_left hm, h.2⟩

/-- The same of every sector in scope: one that the RDC does not name is INVALID. -/
theorem State.fenceSectors_inScope (hd : die < 8) {P : RdcSector → Prop} (hkeep : ∀ y, P y → P (y.fenced kind mine))
    (hinv : P .invalid) {domain : Bool} {x : Nat} (hx : s.sectorIn domain x = true)
    (h : P ((s.sector die x).fenced kind mine)) :
    P ((s.fenceSectors die kind mine (s.sectorsIn die domain)).sector die x) := by
  refine State.fenceSectors_visited hd hkeep x _ s ?_
  by_cases hk : x ∈ (s.rdcOf die).map (·.1)
  · exact .inr ⟨List.mem_filter.2 ⟨hk, hx⟩, h⟩
  · exact .inl (by rw [State.sector, Store.get_of_not_key _ _ _ hk]; exact hinv)

end

theorem State.fenceStep_all (s : State) (n : Nat) {c : Cmd} (hleft : c.prog.left = none) (mask : BitVec 16) (scope kind : Nat) :
    s.fenceStep n c mask scope kind (BitVec.allOnes 1024) = (s.fenceAct n mask scope kind).dropCmd n c.seq := by
  unfold State.fenceStep State.fencePass State.fenceAct
  by_cases hsc : scope < 3
  · simp [hsc]
  · simp [hsc, hleft]

theorem State.fenceAct_fences (hn : n < 96) (mask : BitVec 16) {scope kind x : Nat} (hsc : 3 ≤ scope)
    (hx : s.sectorIn (decide (scope = 4)) x = true) :
    let y := (s.fenceAct n mask scope kind).sector (n / 12) x
    (kind = 1 ∨ kind = 3 → y.dirty = 0) ∧ (kind = 2 ∨ kind = 3 → y.full = false) ∧
      (kind = 2 → (s.sector (n / 12) x).wroteIn n mask = true → y.dirty = 0) := by
  have hd : n / 12 < 8 := by omega
  have hact : s.fenceAct n mask scope kind =
      s.fenceSectors (n / 12) kind (RdcSector.wroteIn n mask) (s.sectorsIn (n / 12) (decide (scope = 4))) :=
    if_neg (Nat.not_lt.2 hsc)
  rw [hact]
  refine ⟨fun hk => ?_, fun hk => ?_, fun hk hmine => ?_⟩
  · exact State.fenceSectors_inScope hd (P := fun y => y.dirty = 0) (fun _ => RdcSector.fenced_clean) rfl hx
      (RdcSector.fenced_dirty _ fun h => by omega)
  · exact State.fenceSectors_inScope hd (P := fun y => y.full = false) (fun y _ => y.fenced_full (by omega)) rfl hx
      (RdcSector.fenced_full _ (by omega))
  · exact State.fenceSectors_inScope hd (P := fun y => y.dirty = 0) (fun _ => RdcSector.fenced_clean) rfl hx
      (RdcSector.fenced_dirty _ fun _ => hmine)

theorem copyCommandComplete_fence (hn : n < 96) (hc : s.cmd? n q = some c) (hd : s.endDue n c = true) {m : BitVec 16}
    {sc : BitVec 3} {k : BitVec 2} (hi : c.ins = .fence m sc k) (hleft : c.prog.left = none) (blk : Nat) :
    ∃ t, exec (.copyCommandComplete n ⟨q, blk, BitVec.allOnes 1024⟩) s = .next t ∧ t.cmd? n q = none ∧
      (sc.toNat < 3 → t = { s with cores := t.cores }) ∧
      ∀ x, 3 ≤ sc.toNat → s.sectorIn (decide (sc.toNat = 4)) x = true →
        (k = 1 ∨ k = 3 → (t.sector (n / 12) x).dirty = 0) ∧ (k = 2 ∨ k = 3 → (t.sector (n / 12) x).full = false) ∧
        (k = 2 → (s.sector (n / 12) x).wroteIn n m = true → (t.sector (n / 12) x).dirty = 0) := by
  refine ⟨_, execCopyCommandComplete_fence hc hd hi, ?_⟩
  rw [s.fenceStep_all n hleft, State.cmd?_seq hc]
  refine ⟨State.cmd?_dropCmd _ hn _, fun hsc => ?_, fun x hsc hx => ?_⟩
  · rw [show s.fenceAct n m sc.toNat k.toNat = s from if_pos hsc]
    exact s.dropCmd_byCores n q
  · rw [State.sector_congr (State.byCores_rdc (State.dropCmd_byCores ..))]
    have hkind : ∀ a : BitVec 2, k = a → k.toNat = a.toNat := fun a h => h ▸ rfl
    obtain ⟨hrel, hacq, hmine⟩ := State.fenceAct_fences (s := s) (kind := k.toNat) hn m hsc hx
    exact ⟨fun hk => hrel (hk.imp (hkind 1) (hkind 3)), fun hk => hacq (hk.imp (hkind 2) (hkind 3)),
      fun hk => hmine (hkind 2 hk)⟩

/-! ### PCNT (R351) -/

/-- A result that lands whole: its bytes in the window, then its flag. -/
theorem State.cmdResult_whole (s : State) (n : Nat) {c : Cmd} (hp : c.prog.parked = none) (f : BitVec 5) (l k v : Nat) :
    s.cmdResult n c f l k v (BitVec.allOnes 1024) = (s.winWriteAt n c.win l k v).cmdDone n c.seq f none := by
  have hfull : wordsFull c.win l k (BitVec.allOnes 1024) = true := by
    unfold wordsFull
    split
    · rfl
    · exact List.all_eq_true.2 fun i _ => getLsbD_allOnes_of_lt (Nat.mod_lt i (by decide))
  simp only [State.cmdResult, hp, Option.getD_none, allOnes_and_not_zero, State.winWords, or_allOnes, hfull]
  rfl

theorem State.timedAt_winWriteAt_flag (s : State) (hn : n < 96) (w : Option Window) (l k v : Nat) (f : BitVec 5) :
    ((s.winWriteAt n w l k v).timedAt n).flag f = (s.timedAt n).flag f := by
  cases w with
  | none => rfl
  | some w => rw [s.timedAt_winWriteAt hn, Timed.flag, Timed.winWrite_flags, Timed.flag]

theorem State.cmdResult_lands (s : State) (hn : n < 96) {c : Cmd} (hp : c.prog.parked = none) (f : BitVec 5) (l k v : Nat) :
    let t := s.cmdResult n c f l k v (BitVec.allOnes 1024)
    t.cmd? n c.seq = none ∧ ((t.timedAt n).flag f = if (s.timedAt n).flag f = .error then .error else .set) ∧
      ∀ w, c.win = some w → w.rbu ≤ 4096 → l + k ≤ w.size → ∀ i, i < k →
        (t.timedAt n).sbyte (w.byteAddr (l + i)) = BitVec.ofNat 8 (v >>> (8 * i)) := by
  rw [s.cmdResult_whole n hp]
  refine ⟨State.cmd?_dropCmd _ hn _, ?_, fun w hw hrbu hsize i hi => ?_⟩
  · rw [State.flag_cmdDone _ hn, s.timedAt_winWriteAt_flag hn]
  · rw [State.timedAt_cmdDone _ hn]
    obtain ⟨-, -, hregs, -⟩ := Core.report_keeps ((s.winWriteAt n c.win l k v).coreAt n) ⟨f, true, none, none⟩
    rw [Timed.sbyte, Timed.stripe, hregs, hw]
    exact (congrArg (Timed.sbyte · (w.byteAddr (l + i))) (s.timedAt_winWriteAt hn w l k v)).trans
      ((s.timedAt n).sbyte_winWrite hrbu hsize v hi)

/-! ### PWAIT (R352) -/

theorem copyCommandComplete_pwait (hn : n < 96) (hc : s.cmd? n q = some c) (hd : s.endDue n c = true) {o : CfOp}
    (hi : c.ins = .pwait o) (blk : Nat) :
    ∃ t, exec (.copyCommandComplete n ⟨q, blk, BitVec.allOnes 1024⟩) s = .next t ∧ t.cmd? n q = none ∧
      if (s.unAt n).remoteFail.any (fun x => decide (x < q)) = true then (t.timedAt n).flag o.f = .error
      else (t.timedAt n).flag o.f = if (s.timedAt n).flag o.f = .error then .error else .set := by
  refine ⟨_, execCopyCommandComplete_pwait hc hd hi, ?_⟩
  split
  · exact ⟨State.cmd?_dropCmd _ hn _, s.flag_cmdFailed hn ..⟩
  · exact ⟨State.cmd?_dropCmd _ hn _, s.flag_cmdDone hn ..⟩

/-! ### A closed batch (R187) -/

section
variable {b : Nat}

/-- The batches of a core once one that was closed is done. -/
def Untimed.dropBatch (u : Untimed) (b : Nat) : Untimed := { u with batches := u.batches.filter fun y => y.id != b || y.isOpen }

theorem Untimed.mem_dropBatch {u : Untimed} {y : Batch} (h : y ∈ (u.dropBatch b).batches) (hb : y.id = b) : y.isOpen = true := by
  simpa [hb] using (List.mem_filter.1 h).2

/-- The flag of a batch, SET or ERROR as its commands did (R187). -/
def batchNote (f : BitVec 5) (failed : Option (Nat × FailInfo)) : Note := match failed with
  | none => ⟨f, true, none, none⟩
  | some (_, i) => ⟨f, false, none, some i⟩

theorem execBatchComplete_flag {x : Batch} (h : (s.unAt n).batchDue b = some x) {f : BitVec 5} (hf : x.flag = some f) :
    exec (.batchComplete n b) s = .next ((s.onUn n fun u => u.dropBatch b).reportAt n (batchNote f x.failed)) := by
  change execBatchComplete n b s = _
  simp only [execBatchComplete, h, hf]
  cases x.failed <;> rfl

/-- A failure without a flag is kept for the task's end. -/
def Untimed.keepFailure (u : Untimed) : Option (Nat × FailInfo) → Untimed
  | none => u
  | some (_, i) => { u with flagless := match u.flagless with
      | none => some i
      | some j => some j }

theorem State.onUn_onUn (s : State) (hn : n < 96) (f g : Untimed → Untimed) :
    (s.onUn n f).onUn n g = s.onUn n fun u => g (f u) := by
  simp [State.onUn, State.onCore, State.setCoreAt, State.coreAt, hn, Vector.get_eq_getElem]

theorem execBatchComplete_flagless (hn : n < 96) {x : Batch} (h : (s.unAt n).batchDue b = some x) (hf : x.flag = none) :
    exec (.batchComplete n b) s = .next (s.onUn n fun u => (u.dropBatch b).keepFailure x.failed) := by
  change execBatchComplete n b s = _
  simp only [execBatchComplete, h, hf]
  cases x.failed with
  | none => rfl
  | some p => exact congrArg Host.Outcome.next (s.onUn_onUn hn (fun u => u.dropBatch b) fun u => u.keepFailure (some p))

/-- The end of a closed batch: its entry gone, its flag reported. -/
theorem batchComplete_completes (hn : n < 96) {x : Batch} (h : (s.unAt n).batchDue b = some x) :
    ∃ t, exec (.batchComplete n b) s = .next t ∧
      (∀ y ∈ (t.unAt n).batches, y.id = b → y.isOpen = true) ∧
      (∀ f, x.flag = some f → (x.failed = none → (t.timedAt n).flag f = if (s.timedAt n).flag f = .error then .error else .set) ∧
        (x.failed ≠ none → (t.timedAt n).flag f = .error)) ∧
      (t.timedAt n).regs = (s.timedAt n).regs ∧ (t.unAt n).queue = (s.unAt n).queue ∧ t.mem = s.mem := by
  cases hf : x.flag with
  | none =>
    refine ⟨_, execBatchComplete_flagless hn h hf, ?_⟩
    rw [s.unAt_onUn hn, s.timedAt_onUn hn]
    have hkeep : ((s.unAt n).dropBatch b).keepFailure x.failed = { (s.unAt n).dropBatch b with
        flagless := (((s.unAt n).dropBatch b).keepFailure x.failed).flagless } := by
      cases x.failed <;> rfl
    rw [hkeep]
    exact ⟨fun y => Untimed.mem_dropBatch, fun f hnone => by simp at hnone, rfl, rfl, State.onUn_mem ..⟩
  | some f =>
    have hcore := (s.onUn n fun u => u.dropBatch b).coreAt_reportAt hn (batchNote f x.failed)
    rw [s.coreAt_onUn hn] at hcore
    refine ⟨_, execBatchComplete_flag h hf, ?_⟩
    rw [State.unAt, State.timedAt, hcore]
    obtain ⟨hqueue, hbatches⟩ := Core.report_queues { s.coreAt n with un := (s.unAt n).dropBatch b } (batchNote f x.failed)
    obtain ⟨-, -, hregs, -⟩ := Core.report_keeps { s.coreAt n with un := (s.unAt n).dropBatch b } (batchNote f x.failed)
    rw [hqueue, hbatches, hregs]
    refine ⟨fun y => Untimed.mem_dropBatch, ?_, rfl, rfl, (State.onCore_mem ..).trans (State.onUn_mem ..)⟩
    rintro _ ⟨⟩
    cases x.failed with
    | none => exact ⟨fun _ => Core.flag_report_done .., fun hne => absurd rfl hne⟩
    | some p => exact ⟨fun he => by simp at he, fun _ => Core.flag_report_failed ..⟩

end

/-- Settles O47: each end by the lemma of its own command. -/
theorem endsOfCopyCommands : Obligations.EndsOfCopyCommands := by
  intro s n hn flagAt isSet
  refine ⟨fun q c hc hd => ?_, fun b x h => batchComplete_completes hn h⟩
  have hseq := State.cmd?_seq hc
  refine ⟨fun blk words h hh => copyCommandComplete_tile hc hd hn h hh, ?_, ?_, ?_, ?_, ?_, ?_⟩
  · rintro o w hi hw ⟨-, hrbu, -, -⟩ hl hnodup blk
    obtain ⟨hgone, hcores, htimed⟩ := State.endTileAt_lands hn hc hi hw hl
    refine ⟨_, execCopyCommandComplete_tile hc hd (.inl (by simp [hi, isTile])), hgone, hcores, fun h hh => ?_⟩
    rw [htimed]
    exact Timed.sbyte_foldl_winByte hrbu (fun x hx => (hl x hx).2) (hl h hh).2
      (fun x hx hat => by rw [List.inj_on_of_nodup_map hnodup hx hh hat]) _ (.inl hh)
  · rintro o d w hi hw hw2 ⟨-, hrbu, -, -⟩ hsize hp hmark blk
    obtain ⟨hgone, htimed⟩ := s.fillOrCopy_whole hn hw hp (by simp [hw2, hmark]) blk
    refine ⟨_, execCopyCommandComplete_fill hc hd (.inl hi), hseq ▸ hgone, State.fillOrCopy_mem .., fun _ l hl => ?_⟩
    rw [htimed, Timed.wholeMove, hw2]
    exact sbyte_wcopyBytes _ hrbu hsize hl
  · rintro o d hi hw hw2 ⟨-, hrbu, -, -⟩ hp blk
    obtain ⟨hgone, htimed⟩ := s.fillOrCopy_whole hn hw hp (by simp [hw2]) blk
    refine ⟨_, execCopyCommandComplete_fill hc hd (.inr hi), hseq ▸ hgone, fun l hl => ?_, State.fillOrCopy_mem ..⟩
    rw [htimed, Timed.wholeMove, hw2]
    exact sbyte_wfillFrom _ hrbu _ le_rfl hl
  · exact fun m sc k hi hleft blk => copyCommandComplete_fence hn hc hd hi hleft blk
  · intro o hi hp blk
    obtain ⟨hgone, hflag, hbytes⟩ := s.cmdResult_lands hn hp o.f c.b.toNat 64 (s.unAt n).pathCounts
    exact ⟨_, execCopyCommandComplete_pcnt hc hd hi, hseq ▸ hgone, hflag, fun w hw hfine hsize => hbytes w hw hfine.2.1 hsize⟩
  · exact fun o hi blk => copyCommandComplete_pwait hn hc hd hi blk

end Sys2Proof.Machine
end

section
/-!
SUPPORT. What a write carries of its window (R25, R190): the bytes that the copy engine reads for a request, word by word, and the
words that it reads them by.
-/

namespace Sys2Proof.Machine

variable {s : State} {n : Nat}

/-! ### A number from its bytes -/

/-- The number of `k` bytes, the first one lowest. -/
def ofBytes (b : Nat → Byte) (k : Nat) : Nat := (List.range k).foldl (fun v i => v + (b i).toNat <<< (8 * i)) 0

theorem ofBytes_succ (b : Nat → Byte) (k : Nat) : ofBytes b (k + 1) = ofBytes b k + (b k).toNat <<< (8 * k) := by
  simp [ofBytes, List.range_succ]

theorem ofBytes_lt (b : Nat → Byte) (k : Nat) : ofBytes b k < 2 ^ (8 * k) := by
  induction k with
  | zero => simp [ofBytes]
  | succ k ih =>
    have hb := Nat.mul_le_mul_right (2 ^ (8 * k)) (Nat.le_of_lt_succ (b k).isLt)
    rw [ofBytes_succ, Nat.shiftLeft_eq, show 8 * (k + 1) = 8 * k + 8 by omega, Nat.pow_add]
    omega

/-- The bytes of a window from its end. -/
theorem Timed.winRead_snoc (t : Timed) (w : Window) (l k : Nat) :
    t.winRead w l (k + 1) = t.winRead w l k + (t.winByte w (l + k)).toNat <<< (8 * k) := by
  induction k generalizing l with
  | zero => simp [Timed.winRead]
  | succ k ih =>
    rw [Timed.winRead, ih, Timed.winRead, show l + 1 + k = l + (k + 1) by omega, Nat.shiftLeft_eq, Nat.shiftLeft_eq,
      show 8 * (k + 1) = 8 * k + 8 by omega, Nat.pow_add]
    ring

theorem Timed.winRead_eq_ofBytes (t : Timed) (w : Window) (l k : Nat) :
    t.winRead w l k = ofBytes (fun i => t.winByte w (l + i)) k := by
  induction k with
  | zero => rfl
  | succ k ih => rw [Timed.winRead_snoc, ofBytes_succ, ih]

/-! ### What a command carries -/

/-- The bytes that a command carries of a window with shorter words: one read before as it was then. -/
theorem State.carry_odd (s : State) (n : Nat) {w : Window} (h : w.odd = true) (l k : Nat) (held : List HeldByte) :
    (s.carry n (some w) l k held).1 = ofBytes (fun i =>
      ((held.find? fun h => h.core == n && h.at' == l + i).map (·.val)).getD (BitVec.ofNat 8 (s.winReadAt n w (l + i) 1))) k := by
  simp only [State.carry, h]
  rfl

theorem State.carry_of_even (s : State) (n : Nat) {w : Window} (h : w.odd = false) (l k : Nat) (held : List HeldByte) :
    (s.carry n (some w) l k held).1 = s.winReadAt n w l k := by
  simp [State.carry, h]

/-- A command that has read no such word before carries what the window holds. -/
theorem State.carry_reads (s : State) (n : Nat) (w : Option Window) (l k : Nat) {held : List HeldByte}
    (h : w.any Window.odd = false ∨ held = []) : (s.carry n w l k held).1 = s.winReadAt n w l k := by
  cases w with
  | none => rfl
  | some w =>
    cases hw : w.odd with
    | false => exact s.carry_of_even n hw l k held
    | true =>
      have hnil : held = [] := h.resolve_left (by simp [hw])
      have hbyte : ∀ i, BitVec.ofNat 8 (s.winReadAt n (some w) (l + i) 1) = (s.timedAt n).winByte w (l + i) := fun i => by
        simp [State.winReadAt, Timed.winRead]
      rw [s.carry_odd n hw, State.winReadAt, Timed.winRead_eq_ofBytes, hnil]
      exact congrArg (ofBytes · k) (funext hbyte)

theorem State.carry_lt (s : State) (n : Nat) (w : Option Window) (l k : Nat) (held : List HeldByte) :
    (s.carry n w l k held).1 < 2 ^ (8 * k) := by
  cases w with
  | none => exact Nat.two_pow_pos _
  | some w =>
    cases hw : w.odd with
    | false => rw [s.carry_of_even n hw]; exact Timed.winRead_lt ..
    | true => rw [s.carry_odd n hw]; exact ofBytes_lt ..

/-! ### The words of a window that bytes lie in (R25, R175) -/

/-- Every byte of a piece lies in one of the words. -/
theorem Window.wordsFrom_covers {w : Window} (hw : 1 ≤ w.rbu) (l k : Nat) {fuel o i : Nat} (hf : k ≤ o + fuel) (ho : o ≤ i)
    (hi : i < k) : ∃ x ∈ w.wordsFrom l k fuel o, x.1 ≤ i ∧ i < x.1 + x.2 := by
  induction fuel generalizing o with
  | zero => omega
  | succ fuel ih =>
    have hx := Nat.mod_lt (l + o) hw
    rw [Window.wordsFrom]
    generalize hm : min (min 4 (w.rbu - (l + o) % w.rbu / 4 * 4) - (l + o) % w.rbu % 4) (k - o) = m
    have hpos : m ≠ 0 := by omega
    rw [if_neg hpos]
    by_cases him : i < o + m
    · exact ⟨(o, m), List.mem_cons_self .., ho, him⟩
    · obtain ⟨x, hx, hmem⟩ := ih (o := o + m) (by omega) (by omega)
      exact ⟨x, List.mem_cons_of_mem _ hx, hmem⟩

/-- The bytes of the words of a list that a mask names are in the mask of the list. -/
theorem getLsbD_foldl_pieces {words : BitVec 64} {i : Nat} (hi : i < 256) (l : List ((Nat × Nat) × Nat)) (m : BitVec 256)
    (h : m.getLsbD i = true ∨ ∃ x ∈ l, words.getLsbD (x.2 % 64) = true ∧ x.1.1 ≤ i ∧ i < x.1.1 + x.1.2) :
    (l.foldl (fun m x => if words.getLsbD (x.2 % 64) then m ||| byteMask x.1.1 x.1.2 else m) m).getLsbD i = true := by
  induction l generalizing m with
  | nil => exact h.resolve_right (by simp)
  | cons y l ih =>
    refine ih _ ?_
    beta_reduce
    rcases h with h | ⟨x, hx, hword, hlo, hhi⟩
    · exact .inl (by split <;> simp [h])
    · rcases List.mem_cons.1 hx with rfl | hx
      · exact .inl (by rw [if_pos hword]; simp [getLsbD_byteMask, hi, hlo, hhi])
      · exact .inr ⟨x, hx, hword, hlo, hhi⟩

theorem getLsbD_pieceMask_all {l : List (Nat × Nat)} {i : Nat} (hi : i < 256) (h : ∃ x ∈ l, x.1 ≤ i ∧ i < x.1 + x.2) :
    (pieceMask (BitVec.allOnes 64) l).getLsbD i = true := by
  obtain ⟨x, hx, hin⟩ := h
  obtain ⟨j, hj, rfl⟩ := List.mem_iff_getElem.1 hx
  refine getLsbD_foldl_pieces hi _ _ (.inr ⟨(l[j], j), ?_, getLsbD_allOnes_of_lt (Nat.mod_lt _ (by decide)), hin⟩)
  rw [List.mem_zipIdx_iff_getElem?]
  exact List.getElem?_eq_getElem hj

/-- A number of `k` bytes put under a mask that has them all. -/
theorem mergeBytes_zero {v k : Nat} (hv : v < 2 ^ (8 * k)) {m : BitVec 256} (hm : ∀ i, i < k → i < 256 → m.getLsbD i = true) :
    mergeBytes 0 (BitVec.ofNat 2048 v) m = BitVec.ofNat 2048 v := by
  refine BitVec.eq_of_getLsbD_eq fun j hj => ?_
  rw [getLsbD_mergeBytes _ _ _ hj]
  by_cases hk : j / 8 < k
  · rw [if_pos (hm _ hk (by omega))]
  · have hzero : v.testBit j = false := Nat.testBit_lt_two_pow (hv.trans_le (Nat.pow_le_pow_right (by decide) (by omega)))
    have hnew : (BitVec.ofNat 2048 v).getLsbD j = false := by rw [BitVec.getLsbD_ofNat, hzero, Bool.and_false]
    rw [hnew, show (0 : BitVec 2048).getLsbD j = false from BitVec.getLsbD_zero, ite_self]

/-- A request of which every word of the window is read carries all that its command does. -/
theorem State.carry_merged (s : State) (n : Nat) (c : Cmd) {r : Req} (hw : ∀ w, c.win = some w → 1 ≤ w.rbu) (held : List HeldByte) :
    mergeBytes 0 (BitVec.ofNat 2048 (s.carry n c.win r.woff.toNat r.bytes held).1)
        (pieceMask (BitVec.allOnes 64) (c.winPieces r)) =
      BitVec.ofNat 2048 (s.carry n c.win r.woff.toNat r.bytes held).1 := by
  cases hc : c.win with
  | none => exact mergeBytes_zero (k := 0) (Nat.two_pow_pos _) fun i hi => by omega
  | some w =>
    refine mergeBytes_zero (s.carry_lt n (some w) _ _ held) fun i hi h256 => getLsbD_pieceMask_all h256 ?_
    rw [Cmd.winPieces, hc]
    exact Window.wordsFrom_covers (hw w hc) _ _ (by omega) (Nat.zero_le i) hi

end Sys2Proof.Machine
end

section
/-!
SUPPORT. The request for a piece of a copy command (R185): the command that has asked for it, and what no step of asking changes.
-/

namespace Sys2Proof.Machine

variable {s t : State} {n q : Nat} {c : Cmd} {p : Piece} {r : Req}

/-! ### A change that only the queue of a core sees -/

/-- `t` differs from `s` in its cores alone, and on core `n` in the queue alone. -/
def State.byQueue (s t : State) (n : Nat) : Prop :=
  s.byCores t ∧ ∃ l, t.coreAt n = { s.coreAt n with un := { s.unAt n with queue := l } }

theorem State.byQueue_trans {u : State} (h : s.byQueue t n) (k : t.byQueue u n) : s.byQueue u n := by
  obtain ⟨hcores, l, hcore⟩ := h
  obtain ⟨kcores, m, kcore⟩ := k
  refine ⟨State.byCores_trans hcores kcores, m, kcore.trans ?_⟩
  rw [State.unAt, hcore]

theorem State.onCmd_byQueue (s : State) (hn : n < 96) (q : Nat) (f : Cmd → Cmd) : s.byQueue (s.onCmd n q f) n :=
  ⟨s.onCmd_byCores n q f, _, s.coreAt_onUn hn _⟩

theorem State.byQueue_timedAt (h : s.byQueue t n) : t.timedAt n = s.timedAt n := by
  obtain ⟨-, l, hcore⟩ := h
  rw [State.timedAt, hcore]
  rfl

theorem State.byQueue_winMarked (h : s.byQueue t n) (w : Option Window) (l k : Nat) :
    t.winMarked n w l k = s.winMarked n w l k := by
  obtain ⟨-, m, hcore⟩ := h
  unfold State.winMarked
  rw [hcore]

theorem State.byQueue_carry (h : s.byQueue t n) (w : Option Window) (l k : Nat) (held : List HeldByte) :
    t.carry n w l k held = s.carry n w l k held := by
  unfold State.carry State.winReadAt
  rw [State.byQueue_timedAt h]

theorem State.mayLeave_byCores (h : s.byCores t) (x : Prog) (key : Nat) (path : Option Nat) :
    t.mayLeave x key path = s.mayLeave x key path := by
  rw [h]
  rfl

theorem State.byQueue_accessAllowed (h : s.byQueue t n) (c : Cmd) (key : Nat) :
    t.accessAllowed n c key = s.accessAllowed n c key := by
  obtain ⟨hcores, l, hcore⟩ := h
  unfold State.accessAllowed
  rw [State.mayLeave_byCores hcores, State.unAt, hcore]
  rfl

/-- What a place in memory is to a die, and what of it the die's RDC holds, no core's change touches. -/
theorem State.byCores_places (h : s.byCores t) (die key : Nat) : t.ownStack die key = s.ownStack die key ∧
    t.firstStage die key = s.firstStage die key ∧ t.onRing die key = s.onRing die key ∧
    t.sector die (key / 256) = s.sector die (key / 256) ∧ t.isRemoteKey key = s.isRemoteKey key ∧
    t.trust.holds = s.trust.holds := by
  rw [h]
  exact ⟨rfl, rfl, rfl, rfl, rfl, rfl⟩

/-! ### The piece that is due (R185) -/

theorem State.nextAccess_le (h : s.nextAccess n c = .piece p) : p.n ≤ 256 := by
  unfold State.nextAccess at h
  split at h
  · cases h
  · split at h
    · cases h
    · simp only [] at h
      split at h
      · cases h
      · cases h
        exact (Nat.min_le_right ..).trans (Nat.sub_le ..)

/-- A piece whose request is due: no request before it still reads its window, it lies in one sector, and it does not wait for the
crossings that are held. -/
theorem State.requestDue_spec (h : s.requestDue n c = some p) :
    (c.reqs.find? fun r => r.stage == .window) = none ∧ p.n ≤ 256 ∧
      (isRemote c.ins = true → s.accessAllowed n c p.key = true → (s.trust.holds && s.isRemoteKey p.key) = false) := by
  unfold State.requestDue at h
  simp only [] at h
  split at h
  · cases h
  · next hready =>
    simp only [Bool.or_eq_true, not_or] at hready
    obtain ⟨⟨⟨-, hwindow⟩, -⟩, -⟩ := hready
    have hnone : (c.reqs.find? fun r => r.stage == .window) = none :=
      List.find?_eq_none.2 fun x hx hst => hwindow (List.any_eq_true.2 ⟨x, hx, hst⟩)
    split at h
    · cases h
    · cases h
    · next hp =>
      split at h
      · cases h
      · next hfree =>
        cases h
        refine ⟨hnone, State.nextAccess_le hp, fun hr ha => ?_⟩
        simp only [Bool.or_eq_true, not_or, ha, Bool.and_true, State.accessCrosses, hr, if_pos, Bool.not_eq_true] at hfree
        exact hfree.2

theorem execSectorRequestIssue_due (hc : s.cmd? n q = some c) (h : s.requestDue n c = some p) (words : BitVec 64) :
    exec (.sectorRequestIssue n ⟨q, words⟩) s = .next (s.formPiece n c p words) := by
  obtain ⟨hnone, -, -⟩ := State.requestDue_spec h
  change execSectorRequestIssue n ⟨q, words⟩ s = _
  simp only [execSectorRequestIssue, hc, hnone, h]

/-! ### A command that has asked for a piece -/

/-- Command `d` is `c` with the request `r` for piece `p` added, and moved on by the piece. -/
structure Cmd.Asks (c d : Cmd) (p : Piece) (r : Req) : Prop where
  isAsked : r ∈ d.reqs
  isNext : r.id = c.nreq
  others : ∀ y, y.id ≠ c.nreq → (y ∈ d.reqs ↔ y ∈ c.reqs)
  run : d.run = (c.advance p.n).run
  boff : d.boff = (c.advance p.n).boff
  ofRun : r.run = p.run
  ofWoff : r.woff = p.woff

theorem Cmd.advance_run (c : Cmd) (k : Nat) : (c.advance k).run = if c.boff + k < runBytes c then c.run else c.run + 1 := by
  unfold Cmd.advance
  split <;> rfl

theorem Cmd.advance_boff (c : Cmd) (k : Nat) : (c.advance k).boff = if c.boff + k < runBytes c then c.boff + k else 0 := by
  unfold Cmd.advance
  split <;> rfl

theorem Cmd.asks_addReq (c : Cmd) (x : Prog) (p : Piece) {r : Req} (hid : r.id = c.nreq) (hrun : r.run = p.run)
    (hwoff : r.woff = p.woff) : c.Asks ({ c with prog := x }.addReq p r) p r where
  isAsked := List.mem_append_right _ (List.mem_singleton_self r)
  isNext := hid
  others y hy := by
    refine List.mem_append.trans (or_iff_left fun h => hy ?_)
    rw [List.mem_singleton.1 h, hid]
  run := ({ c with prog := x }.advance_run p.n).trans (c.advance_run p.n).symm
  boff := ({ c with prog := x }.advance_boff p.n).trans (c.advance_boff p.n).symm
  ofRun := hrun
  ofWoff := hwoff

theorem Cmd.Asks.onReq {d : Cmd} (h : c.Asks d p r) {f : Req → Req} (hid : ∀ x, (f x).id = x.id) (hrun : (f r).run = r.run)
    (hwoff : (f r).woff = r.woff) : c.Asks (d.onReq r.id f) p (f r) where
  isAsked := Cmd.mem_onReq h.isAsked f
  isNext := (hid r).trans h.isNext
  others y hy := by
    rw [← h.others y hy]
    constructor
    · intro hm
      obtain ⟨x, hx, rfl⟩ := List.mem_map.1 hm
      by_cases hxr : x.id = r.id
      · rw [if_pos hxr] at hy
        exact absurd (((hid x).trans hxr).trans h.isNext) hy
      · rwa [if_neg hxr]
    · intro hm
      exact List.mem_map.2 ⟨y, hm, if_neg fun hyr => hy (hyr.trans h.isNext)⟩
  run := h.run
  boff := h.boff
  ofRun := hrun.trans h.ofRun
  ofWoff := hwoff.trans h.ofWoff

/-- A command with what it carries of the window changed. -/
def Cmd.holding (c : Cmd) (held : List HeldByte) : Cmd := { c with prog := { c.prog with held := held } }

theorem Cmd.Asks.holding {d : Cmd} (h : c.Asks d p r) (held : List HeldByte) : c.Asks (d.holding held) p r :=
  ⟨h.isAsked, h.isNext, h.others, h.run, h.boff, h.ofRun, h.ofWoff⟩

/-! ### The forms of a request -/

theorem State.formPiece_allowed (hp : (isPref c.ins && !(s.prefFills (n / 12) p.key)) = false)
    (ha : s.accessAllowed n c p.key = true) (words : BitVec 64) :
    s.formPiece n c p words = if isPref c.ins then (s.reaches n c.seq p.key).formPref n c p
      else if isWriteTile c.ins then (s.reaches n c.seq p.key).formWrite n c p words
      else (s.reaches n c.seq p.key).formRead n c p := by
  have hp' : ¬ (isPref c.ins && !(s.prefFills (dieOf n) p.key)) = true := by
    rw [dieOf, hp]
    exact Bool.false_ne_true
  simp only [State.formPiece, if_neg hp', ha, Bool.not_true, Bool.false_eq_true, if_false]

theorem State.formPiece_refused (hp : (isPref c.ins && !(s.prefFills (n / 12) p.key)) = false)
    (ha : s.accessAllowed n c p.key = false) (words : BitVec 64) :
    s.formPiece n c p words = s.onCmd n c.seq fun x => x.cut x.nreq p.run 0 := by
  have hp' : ¬ (isPref c.ins && !(s.prefFills (dieOf n) p.key)) = true := by
    rw [dieOf, hp]
    exact Bool.false_ne_true
  simp only [State.formPiece, if_neg hp', ha, Bool.not_false, if_true]

theorem Cmd.addReq_seq (c : Cmd) (p : Piece) (r : Req) : (c.addReq p r).seq = c.seq := c.advance_seq _

/-- A command whose peer has been taken. -/
def Cmd.reached (c : Cmd) (s : State) (key : Nat) : Cmd := { c with prog := c.prog.takePeer s key }

theorem State.cmd?_reaches (hn : n < 96) (hc : s.cmd? n q = some c) (key : Nat) :
    (s.reaches n q key).cmd? n q = some (c.reached s key) :=
  State.cmd?_onCmd (f := fun c => c.reached s key) hn hc fun _ => rfl

theorem State.reaches_byQueue (s : State) (hn : n < 96) (q key : Nat) : s.byQueue (s.reaches n q key) n := s.onCmd_byQueue hn q _

/-- A request added to a command whose peer has been taken, nothing else changed. -/
theorem State.reaches_addReq (hn : n < 96) (hc : s.cmd? n q = some c) (key : Nat) {f : Cmd → Req}
    (hid : (f (c.reached s key)).id = c.nreq) (hrun : (f (c.reached s key)).run = p.run)
    (hwoff : (f (c.reached s key)).woff = p.woff) :
    let t := (s.reaches n q key).onCmd n q fun c => c.addReq p (f c)
    (∃ d, t.cmd? n q = some d ∧ c.Asks d p (f (c.reached s key))) ∧ s.byQueue t n := by
  intro t
  have hcmd : t.cmd? n q = some ((c.reached s key).addReq p (f (c.reached s key))) :=
    State.cmd?_onCmd (f := fun c => c.addReq p (f c)) hn (State.cmd?_reaches hn hc key) fun c => c.addReq_seq p _
  have hasks : c.Asks ((c.reached s key).addReq p (f (c.reached s key))) p (f (c.reached s key)) :=
    c.asks_addReq _ p hid hrun hwoff
  exact ⟨⟨_, hcmd, hasks⟩, State.byQueue_trans (s.reaches_byQueue hn q key) (State.onCmd_byQueue _ hn q _)⟩

/-- The request of a command that has asked changed, beside what the command carries. -/
theorem State.holding_onReq {d : Cmd} (hn : n < 96) (hd : s.cmd? n q = some d) (h : c.Asks d p r) (held : List HeldByte)
    {f : Req → Req} (hid : ∀ x, (f x).id = x.id) (hrun : (f r).run = r.run) (hwoff : (f r).woff = r.woff) :
    let t := (s.onCmd n q fun c => c.holding held).onCmd n q fun c => c.onReq r.id f
    (∃ e, t.cmd? n q = some e ∧ c.Asks e p (f r)) ∧ s.byQueue t n := by
  intro t
  have hheld : (s.onCmd n q fun c => c.holding held).cmd? n q = some (d.holding held) :=
    State.cmd?_onCmd (f := fun c => c.holding held) hn hd fun _ => rfl
  have hreq : t.cmd? n q = some ((d.holding held).onReq r.id f) :=
    State.cmd?_onCmd (f := fun c => c.onReq r.id f) hn hheld fun _ => rfl
  exact ⟨⟨_, hreq, (h.holding held).onReq hid hrun hwoff⟩,
    State.byQueue_trans (s.onCmd_byQueue hn q _) (State.onCmd_byQueue _ hn q _)⟩

/-! ### The words that a write carries (R190) -/

theorem State.captureWords_marked (h : s.winMarked n c.win r.woff.toNat r.bytes = true) (words : BitVec 64) :
    s.captureWords n c r words = s.onCmd n c.seq fun c => c.cut r.id r.run 0 := if_pos h

/-- With every word of its window read, a write sets out. -/
theorem State.captureWords_all (h : s.winMarked n c.win r.woff.toNat r.bytes = false) (hd : r.did = 0) (hdata : r.data = 0)
    (hw : ∀ w, c.win = some w → 1 ≤ w.rbu) :
    ∃ held, s.captureWords n c r (BitVec.allOnes 64) = (s.onCmd n c.seq fun c => c.holding held).sendWrite n c r
      (BitVec.ofNat 2048 (s.carry n c.win r.woff.toNat r.bytes c.prog.held).1) := by
  have hall : ∀ l : List (Nat × Nat), ((List.range l.length).all fun i => (BitVec.allOnes 64).getLsbD (i % 64)) = true := fun l =>
    List.all_eq_true.2 fun i _ => getLsbD_allOnes_of_lt (Nat.mod_lt i (by decide))
  have hmask : (0 : BitVec 64) ||| BitVec.allOnes 64 = BitVec.allOnes 64 := or_allOnes _
  have hrest : BitVec.allOnes 64 &&& ~~~(0 : BitVec 64) = BitVec.allOnes 64 := allOnes_and_not_zero 64
  rw [← s.carry_merged n c hw c.prog.held, ← hdata]
  simp only [State.captureWords, h, hd, hmask, hrest, hall]
  exact ⟨_, rfl⟩

/-- With words of its window left to read, a write waits for them. -/
theorem State.captureWords_part (h : s.winMarked n c.win r.woff.toNat r.bytes = false) (hd : r.did = 0) {words : BitVec 64}
    (hw : ∃ i, i < (c.winPieces r).length ∧ words.getLsbD (i % 64) = false) :
    ∃ held v, s.captureWords n c r words = (s.onCmd n c.seq fun c => c.holding held).onCmd n c.seq fun c =>
      c.onReq r.id fun r => { r with data := v, did := words } := by
  obtain ⟨i, hi, hbit⟩ := hw
  have hmask : (0 : BitVec 64) ||| words = words := BitVec.zero_or
  have hsome : ¬ ((List.range (c.winPieces r).length).all fun i => words.getLsbD (i % 64)) = true := fun hall => by
    have := List.all_eq_true.1 hall i (List.mem_range.2 hi)
    rw [hbit] at this
    cases this
  simp only [State.captureWords, h, hd, hmask, if_neg hsome]
  exact ⟨_, _, rfl⟩

/-! ### The sector write of a remote store (R346-R348) -/

/-- A write of the bytes `m` with the value `v` at its sector, widened by what the RDC holds of it. -/
def Req.sentWith (x : RdcSector) (m : BitVec 256) (v : BitVec 2048) (key : Nat) (st : ReqStage) (path : Option (Fin 4)) (r : Req) : Req :=
  { r with key := key, bytes := 256, mask := m ||| x.dirty, data := mergeBytes x.data v m, did := 0, stage := st, path := path,
           poison := x.poison &&& touchedGranules x.dirty &&& ~~~(fullGranules m) }

theorem State.sendRemote_sends (hn : n < 96) {d : Cmd} (hd : s.cmd? n q = some d) (hseq : c.seq = q) (v : BitVec 2048) :
    let t := s.sendRemote n c r v
    (∃ st path, t.cmd? n q = some (d.onReq r.id (Req.sentWith (s.sector (n / 12) (r.key / 256)) (byteMask (r.key % 256) r.bytes)
      (BitVec.ofNat 2048 (v.toNat <<< (8 * (r.key % 256)))) (r.key / 256 * 256) st path))) ∧
    t.sector (n / 12) (r.key / 256) = .invalid ∧ t.mem = s.mem ∧ t.timedAt n = s.timedAt n := by
  subst hseq
  have hcores : (s.setSector (dieOf n) (r.key / 256) .invalid).cores = s.cores :=
    State.byTraffic_cores (State.setSector_byTraffic ..)
  have hd1 := (State.cmd?_congr hcores hn).trans hd
  have hqueue : ∀ (path : Option (Fin 4)) (u : Untimed), (match path with
      | none => u
      | some q => { u with sent := u.sent.set q.val (u.sent.get q + 1) q.isLt } : Untimed).queue = u.queue := fun path u => by
    cases path <;> rfl
  refine ⟨⟨_, _, State.cmd?_onCmd hn (((State.cmd?_onUn _ hn _).trans (congrArg (List.find? _) (hqueue _ _))).trans hd1)
    fun _ => rfl⟩, ?_, ?_, ?_⟩
  · exact (State.sector_congr (State.byCores_rdc (State.byCores_trans (State.onUn_byCores ..) (State.onCmd_byCores ..))) _ _).trans
      (s.sector_setSector_same (show n / 12 < 8 by omega) _ _)
  · exact (State.onCmd_mem ..).trans ((State.onUn_mem ..).trans (State.setSector_mem ..))
  · exact (State.timedAt_onCmd _ hn _).trans ((State.timedAt_onUn _ hn _).trans (State.timedAt_congr hcores hn))

end Sys2Proof.Machine
end

section
/-!
PROOF of O46: the requests of copy commands, where they perform, and their answers.
-/

namespace Sys2Proof.Machine

variable {s t : State} {n q : Nat} {c : Cmd} {p : Piece} {r : Req}

/-! ### A request formed (R185) -/

/-- SECTOR_REQUEST_ISSUE with the words `w` adds a request for piece `p` of which `pr` holds, and changes neither memory nor the
timed side of the core. -/
def State.Adds (s : State) (n q : Nat) (c : Cmd) (p : Piece) (w : BitVec 64) (pr : State → Req → Prop) : Prop :=
  ∃ t, exec (.sectorRequestIssue n ⟨q, w⟩) s = .next t ∧
    ∃ d r, t.cmd? n q = some d ∧ r ∈ d.reqs ∧ r.id = c.nreq ∧ (∀ y, y.id ≠ c.nreq → (y ∈ d.reqs ↔ y ∈ c.reqs)) ∧
      d.run = (c.advance p.n).run ∧ d.boff = (c.advance p.n).boff ∧
      r.run = p.run ∧ r.woff = p.woff ∧ t.mem = s.mem ∧ t.timedAt n = s.timedAt n ∧ pr t r

theorem State.adds_of {w : BitVec 64} {pr : State → Req → Prop} {d : Cmd}
    (hexec : exec (.sectorRequestIssue n ⟨q, w⟩) s = .next t) (hcmd : t.cmd? n q = some d) (hasks : c.Asks d p r)
    (hmem : t.mem = s.mem) (htimed : t.timedAt n = s.timedAt n) (hpr : pr t r) : s.Adds n q c p w pr :=
  ⟨t, hexec, d, r, hcmd, hasks.isAsked, hasks.isNext, hasks.others, hasks.run, hasks.boff, hasks.ofRun, hasks.ofWoff, hmem,
    htimed, hpr⟩

theorem isPref_of_isWriteTile {i : Instr} (h : isWriteTile i = true) : isPref i = false := by
  cases i <;> first | rfl | cases h

section
variable (hn : n < 96) (hc : s.cmd? n q = some c) (hdue : s.requestDue n c = some p)
include hn hc hdue

theorem sectorRequestIssue_goesOn (h : (isPref c.ins && !(s.prefFills (n / 12) p.key)) = true) (words : BitVec 64) :
    ∃ t, exec (.sectorRequestIssue n ⟨q, words⟩) s = .next t ∧ t.cmd? n q = some (c.advance p.n) ∧ s.byCores t := by
  have hform : s.formPiece n c p words = s.onCmd n c.seq fun c => c.advance p.n := if_pos h
  rw [State.cmd?_seq hc] at hform
  exact ⟨_, (execSectorRequestIssue_due hc hdue words).trans (congrArg _ hform),
    State.cmd?_onCmd (f := fun c => c.advance p.n) hn hc fun c => c.advance_seq _, s.onCmd_byCores ..⟩

variable (hgo : (isPref c.ins && !(s.prefFills (n / 12) p.key)) = false)
include hgo

theorem sectorRequestIssue_refused (ha : s.accessAllowed n c p.key = false) (words : BitVec 64) :
    ∃ t, exec (.sectorRequestIssue n ⟨q, words⟩) s = .next t ∧
      ∃ d, t.cmd? n q = some d ∧ d.stop = .failed p.run 0 ∧ s.byCores t := by
  have hform := State.formPiece_refused hgo ha words
  rw [State.cmd?_seq hc] at hform
  exact ⟨_, (execSectorRequestIssue_due hc hdue words).trans (congrArg _ hform), _,
    State.cmd?_onCmd (f := fun x => x.cut x.nreq p.run 0) hn hc fun _ => rfl, rfl, s.onCmd_byCores ..⟩

variable (ha : s.accessAllowed n c p.key = true)
include ha

theorem sectorRequestIssue_pref (hi : isPref c.ins = true) (words : BitVec 64) : s.Adds n q c p words fun t r =>
    r.key = p.key ∧ r.bytes = p.n ∧ r.write = false ∧ t.rdc = s.rdc ∧ r.stage = s.firstStage (n / 12) p.key := by
  have hwrite : isWriteTile c.ins = false := by
    cases hw : isWriteTile c.ins with
    | false => rfl
    | true => rw [isPref_of_isWriteTile hw] at hi; cases hi
  obtain ⟨-, hstage, -⟩ := State.byCores_places (s.reaches_byQueue hn q p.key).1 (dieOf n) p.key
  have hform := State.formPiece_allowed hgo ha words
  rw [if_pos hi, State.formPref, State.cmd?_seq hc, hstage] at hform
  obtain ⟨⟨d, hd, hasks⟩, hq⟩ := State.reaches_addReq (p := p)
    (f := fun c => newReq c p (s.firstStage (dieOf n) p.key) 0) hn hc p.key rfl rfl rfl
  exact State.adds_of ((execSectorRequestIssue_due hc hdue words).trans (congrArg _ hform)) hd hasks (State.byCores_mem hq.1)
    (State.byQueue_timedAt hq) ⟨rfl, rfl, hwrite, State.byCores_rdc hq.1, rfl⟩

theorem sectorRequestIssue_read (hi : isPref c.ins = false) (hw : isWriteTile c.ins = false) (words : BitVec 64) :
    s.Adds n q c p words fun t r => r.key = p.key ∧ r.bytes = p.n ∧ r.write = false ∧ t.rdc = s.rdc ∧
      r.stage = if s.ownStack (n / 12) p.key = false ∧
        (s.sector (n / 12) (p.key / 256)).serves (byteMask (p.key % 256) p.n) = true then .rdc
        else s.firstStage (n / 12) p.key := by
  obtain ⟨hown, hstage, -, hsec, -⟩ := State.byCores_places (s.reaches_byQueue hn q p.key).1 (dieOf n) p.key
  have hform := State.formPiece_allowed hgo ha words
  simp only [hi, hw, Bool.false_eq_true, if_false, State.formRead, State.cmd?_seq hc, hown, hstage, hsec] at hform
  obtain ⟨⟨d, hd, hasks⟩, hq⟩ := State.reaches_addReq (p := p) (f := fun c => newReq c p
    (if (!s.ownStack (dieOf n) p.key && (s.sector (dieOf n) (p.key / 256)).serves (byteMask (p.key % 256) p.n)) = true
      then .rdc else s.firstStage (dieOf n) p.key) 0) hn hc p.key rfl rfl rfl
  refine State.adds_of ((execSectorRequestIssue_due hc hdue words).trans (congrArg _ hform)) hd hasks (State.byCores_mem hq.1)
    (State.byQueue_timedAt hq) ⟨rfl, rfl, hw, State.byCores_rdc hq.1, ?_⟩
  exact if_congr (by simp [dieOf]) rfl rfl

/-- A write has its request, and now reads words of its window. -/
theorem sectorRequestIssue_captures (hw : isWriteTile c.ins = true) (words : BitVec 64) : ∃ s2 d,
    exec (.sectorRequestIssue n ⟨q, words⟩) s = .next (s2.captureWords n c (newReq c p .window 0) words) ∧
      s2.cmd? n q = some d ∧ c.Asks d p (newReq c p .window 0) ∧ s.byQueue s2 n := by
  have hform := State.formPiece_allowed hgo ha words
  simp only [isPref_of_isWriteTile hw, hw, Bool.false_eq_true, if_false, if_true, State.formWrite, State.cmd?_seq hc] at hform
  obtain ⟨⟨d, hd, hasks⟩, hq⟩ := State.reaches_addReq (p := p) (f := fun _ => newReq c p .window 0) hn hc p.key rfl rfl rfl
  exact ⟨_, d, (execSectorRequestIssue_due hc hdue words).trans (congrArg _ hform), hd, hasks, hq⟩

theorem sectorRequestIssue_marked (hw : isWriteTile c.ins = true) (hm : s.winMarked n c.win p.woff.toNat p.n = true)
    (words : BitVec 64) : ∃ t, exec (.sectorRequestIssue n ⟨q, words⟩) s = .next t ∧
      ∃ d, t.cmd? n q = some d ∧ d.stop = .failed p.run 0 ∧ s.byCores t := by
  obtain ⟨s2, d, hexec, hd, -, hq⟩ := sectorRequestIssue_captures hn hc hdue hgo ha hw words
  rw [State.captureWords_marked ((State.byQueue_winMarked hq ..).trans hm), State.cmd?_seq hc] at hexec
  exact ⟨_, hexec, _, State.cmd?_onCmd (f := fun c => c.cut _ p.run 0) hn hd fun _ => rfl, rfl,
    State.byCores_trans hq.1 (State.onCmd_byCores ..)⟩

variable (hm : s.winMarked n c.win p.woff.toNat p.n = false)
include hm

theorem sectorRequestIssue_part (hw : isWriteTile c.ins = true) {words : BitVec 64}
    (hi : ∃ i, i < (c.winPieces (newReq c p .window 0)).length ∧ words.getLsbD (i % 64) = false) :
    s.Adds n q c p words fun t r => r.stage = .window ∧ r.did = words ∧ t.rdc = s.rdc := by
  obtain ⟨s2, d, hexec, hd, hasks, hq⟩ := sectorRequestIssue_captures hn hc hdue hgo ha hw words
  obtain ⟨held, v, hcapture⟩ := State.captureWords_part ((State.byQueue_winMarked hq ..).trans hm) rfl hi
  rw [hcapture, State.cmd?_seq hc] at hexec
  obtain ⟨⟨e, he, hasks'⟩, hq'⟩ := State.holding_onReq hn hd hasks held
    (f := fun r => { r with data := v, did := words }) (fun _ => rfl) rfl rfl
  have hq2 := State.byQueue_trans hq hq'
  exact State.adds_of hexec he hasks' (State.byCores_mem hq2.1) (State.byQueue_timedAt hq2) ⟨rfl, rfl, State.byCores_rdc hq2.1⟩

variable (hrbu : ∀ w, c.win = some w → 1 ≤ w.rbu)
include hrbu

/-- A write of which every word is read sets out with what the command carries. -/
theorem sectorRequestIssue_sends (hw : isWriteTile c.ins = true) : ∃ s2 d held,
    exec (.sectorRequestIssue n ⟨q, BitVec.allOnes 64⟩) s = .next ((s2.onCmd n q fun c => c.holding held).sendWrite n c
      (newReq c p .window 0) (BitVec.ofNat 2048 (s.carry n c.win p.woff.toNat p.n c.prog.held).1)) ∧
      s2.cmd? n q = some d ∧ c.Asks d p (newReq c p .window 0) ∧ s.byQueue s2 n := by
  obtain ⟨s2, d, hexec, hd, hasks, hq⟩ := sectorRequestIssue_captures hn hc hdue hgo ha hw (BitVec.allOnes 64)
  obtain ⟨held, hcapture⟩ := State.captureWords_all (r := newReq c p .window 0) ((State.byQueue_winMarked hq ..).trans hm) rfl rfl hrbu
  rw [hcapture, State.cmd?_seq hc, State.byQueue_carry hq] at hexec
  exact ⟨s2, d, held, hexec, hd, hasks, hq⟩

theorem sectorRequestIssue_store {o : CaOp} (hi : c.ins = .tst o) : s.Adds n q c p (BitVec.allOnes 64) fun t r =>
    r.key = p.key ∧ r.bytes = p.n ∧ r.write = true ∧
      r.data = BitVec.ofNat 2048 (s.carry n c.win p.woff.toNat p.n c.prog.held).1 ∧ t.rdc = s.rdc ∧
      r.stage = if s.ownStack (n / 12) p.key then .home else .rdc := by
  have hw : isWriteTile c.ins = true := by rw [hi]; rfl
  obtain ⟨s2, d, held, hexec, hd, hasks, hq⟩ := sectorRequestIssue_sends hn hc hdue hgo ha hm hrbu hw
  have hlocal : isRemote c.ins = false := by rw [hi]; rfl
  have hq3 := State.byQueue_trans hq (s2.onCmd_byQueue hn q fun c => c.holding held)
  obtain ⟨hown, -⟩ := State.byCores_places hq3.1 (dieOf n) p.key
  generalize BitVec.ofNat 2048 (s.carry n c.win p.woff.toNat p.n c.prog.held).1 = v at hexec ⊢
  simp only [State.sendWrite, hlocal, Bool.not_false, if_true, State.sendStore, State.cmd?_seq hc] at hexec
  obtain ⟨⟨e, he, hasks'⟩, hq'⟩ := State.holding_onReq hn hd hasks held (f := fun r => { r with
    data := v, did := 0, stage := if (s2.onCmd n q fun c => c.holding held).ownStack (dieOf n) r.key then .home else .rdc })
    (fun _ => rfl) rfl rfl
  have hq2 := State.byQueue_trans hq hq'
  refine State.adds_of hexec he hasks' (State.byCores_mem hq2.1) (State.byQueue_timedAt hq2)
    ⟨rfl, rfl, hw, rfl, State.byCores_rdc hq2.1, ?_⟩
  exact if_congr (by rw [show (newReq c p .window 0).key = p.key from rfl, hown, dieOf]) rfl rfl

theorem sectorRequestIssue_remote {o : CaOp} (hi : c.ins = .strem o) : s.Adds n q c p (BitVec.allOnes 64) fun t r =>
    r.key = 256 * (p.key / 256) ∧ r.bytes = 256 ∧
      r.mask = byteMask (p.key % 256) p.n ||| (s.sector (n / 12) (p.key / 256)).dirty ∧
      t.sector (n / 12) (p.key / 256) = .invalid ∧
      r.poison = (s.sector (n / 12) (p.key / 256)).poison &&& touchedGranules (s.sector (n / 12) (p.key / 256)).dirty &&&
        ~~~(fullGranules (byteMask (p.key % 256) p.n)) ∧
      r.data = mergeBytes (s.sector (n / 12) (p.key / 256)).data (BitVec.ofNat 2048
        ((s.carry n c.win p.woff.toNat p.n c.prog.held).1 <<< (8 * (p.key % 256)))) (byteMask (p.key % 256) p.n) := by
  have hw : isWriteTile c.ins = true := by rw [hi]; rfl
  have hremote : isRemote c.ins = true := by rw [hi]; rfl
  obtain ⟨s2, d, held, hexec, hd, hasks, hq⟩ := sectorRequestIssue_sends hn hc hdue hgo ha hm hrbu hw
  obtain ⟨-, hle, hfree⟩ := State.requestDue_spec hdue
  have hq3 := State.byQueue_trans hq (s2.onCmd_byQueue hn q fun c => c.holding held)
  obtain ⟨-, -, -, hsec, hkey, hholds⟩ := State.byCores_places hq3.1 (dieOf n) p.key
  have hallowed := (State.byQueue_accessAllowed hq3 c p.key).trans ha
  have hfree' := hfree hremote ha
  rw [← hkey, ← hholds] at hfree'
  have hheld : (s2.onCmd n q fun c => c.holding held).cmd? n q = some (d.holding held) :=
    State.cmd?_onCmd (f := fun c => c.holding held) hn hd fun _ => rfl
  have hcarry := s.carry_lt n c.win p.woff.toNat p.n c.prog.held
  generalize (s.carry n c.win p.woff.toNat p.n c.prog.held).1 = v at hexec hcarry ⊢
  have hv : (BitVec.ofNat 2048 v).toNat = v := (BitVec.toNat_ofNat ..).trans
    (Nat.mod_eq_of_lt (hcarry.trans_le (Nat.pow_le_pow_right (by decide) (show 8 * p.n ≤ 2048 by omega))))
  have hsend : (s2.onCmd n q fun c => c.holding held).sendWrite n c (newReq c p .window 0) (BitVec.ofNat 2048 v) =
      (s2.onCmd n q fun c => c.holding held).sendRemote n c (newReq c p .window 0) (BitVec.ofNat 2048 v) := by
    rw [State.sendWrite, hremote, show (newReq c p .window 0).key = p.key from rfl, hallowed, hfree']
    rfl
  rw [hsend] at hexec
  obtain ⟨⟨st, path, hcmd⟩, hinvalid, hmem, htimed⟩ :=
    State.sendRemote_sends (r := newReq c p .window 0) hn hheld (State.cmd?_seq hc) (BitVec.ofNat 2048 v)
  rw [hv] at hcmd
  refine State.adds_of hexec hcmd ((hasks.holding held).onReq (fun _ => rfl) rfl rfl)
    (hmem.trans (State.byCores_mem hq3.1)) (htimed.trans (State.byQueue_timedAt hq3)) ?_
  rw [← show _ = s.sector (n / 12) (p.key / 256) from hsec]
  exact ⟨Nat.mul_comm .., rfl, rfl, hinvalid, rfl, rfl⟩

end

/-! ### A request performed in the RDC (R97) -/

theorem State.portRefuses_frame (s : State) (key : Nat) : (s.portRefuses key).2 = { s with free := (s.portRefuses key).2.free } := by
  unfold State.portRefuses
  split <;> rfl

theorem State.sector_noteWriter (s : State) (hd : die < 8) (m core : Nat) (cls : BitVec 4) :
    ∃ who, (s.noteWriter die m core cls).sector die m = { s.sector die m with who := who } := by
  unfold State.noteWriter
  simp only []
  split
  · exact ⟨_, rfl⟩
  · exact ⟨_, s.sector_setSector_same hd ..⟩

theorem State.noteWriter_cores (s : State) (die m core : Nat) (cls : BitVec 4) : (s.noteWriter die m core cls).cores = s.cores := by
  unfold State.noteWriter
  simp only []
  split
  · rfl
  · exact State.byTraffic_cores (State.setSector_byTraffic ..)

/-- A read of which every word performs takes the bytes that the RDC holds. -/
theorem State.performRead_served (hown : s.ownStack (n / 12) r.key = false) (hd : r.did = 0)
    (hserves : (s.sector (n / 12) (r.key / 256)).serves (byteMask (r.key % 256) r.bytes) = true)
    (hclean : (s.sector (n / 12) (r.key / 256)).poison &&& touchedGranules (byteMask (r.key % 256) r.bytes) = 0) :
    ∃ f left, s.performRead n c r (BitVec.allOnes 64) = (s.onCmd n c.seq fun c => c.onReq r.id f) ∧
      f r = r.performed (BitVec.allOnes 64) (BitVec.ofNat 2048
        ((s.sector (n / 12) (r.key / 256)).data.toNat >>> (8 * (r.key % 256)) % 2 ^ (8 * r.bytes))) left := by
  have hread := State.dieRead_served hown hserves
  rw [hclean, show ((0 : BitVec 8) != 0) = false from rfl] at hread
  generalize (s.sector (n / 12) (r.key / 256)).data.toNat >>> (8 * (r.key % 256)) % 2 ^ (8 * r.bytes) = v at hread ⊢
  have hfill : s.fillsPart (n / 12) r.key r.bytes true = false := rfl
  have hperform : s.performRead n c r (BitVec.allOnes 64) = s.onCmd n c.seq fun c => c.onReq r.id fun x =>
      x.performed (BitVec.allOnes 64) (if x.did = 0 ∧ BitVec.allOnes 64 = BitVec.allOnes 64 then BitVec.ofNat 2048 v else
        mergeWords r.data (BitVec.ofNat 2048 v) (BitVec.allOnes 64 &&& ~~~r.did) r.bytes)
        (if s.ownStack (n / 12) x.key then .home else .rdc) := by
    rw [State.performRead, beq_self_eq_true, dieOf, hfill, hread]
    exact (if_neg Bool.false_ne_true).trans (if_neg Bool.false_ne_true)
  exact ⟨_, _, hperform, congrArg (r.performed (BitVec.allOnes 64) · _) (if_pos ⟨hd, rfl⟩)⟩

/-- A tile store of which every word performs in the RDC stores its bytes there. -/
theorem State.performRdcWrite_stores (hn : n < 96) {rq : Nat} (hc : s.cmd? n q = some c) (hr : c.req? rq = some r) (hd : r.did = 0)
    (hb : r.bytes ≤ 256) (hown : s.ownStack (n / 12) r.key = false) (hi : isRemote c.ins = false) :
    let t := s.performRdcWrite n c r (BitVec.allOnes 64)
    let x := s.sector (n / 12) (r.key / 256)
    let y := t.sector (n / 12) (r.key / 256)
    t.mem = s.mem ∧ (∃ d z, t.cmd? n q = some d ∧ z ∈ d.reqs ∧ z.id = rq ∧ z.stage = .done) ∧
      y.full = x.full ∧ y.dirty = x.dirty ||| byteMask (r.key % 256) r.bytes ∧
      y.data = mergeBytes x.data (BitVec.ofNat 2048 (r.data.toNat <<< (8 * (r.key % 256)))) (byteMask (r.key % 256) r.bytes) := by
  intro t x y
  have hdie : n / 12 < 8 := by omega
  have hwrite := State.dieWrite_outside hown r.bytes r.data.toNat
  have ht : t = (((s.dieWrite (n / 12) r.key r.bytes (2 ^ r.bytes - 1) r.data.toNat).1).noteWriter (n / 12) (r.key / 256) n c.cls).onCmd n q fun c => c.onReq r.id fun x =>
      x.performed (BitVec.allOnes 64) x.data .rdc := by
    simp only [t, State.performRdcWrite, wholeGranules_allOnes, Cmd.todo_of_untouched hi hd, dieOf, State.cmd?_seq hc]
    rw [if_pos trivial]
  rw [hwrite] at ht
  generalize hx : ({ x with
      dirty := x.dirty ||| byteMask (r.key % 256) r.bytes
      data := mergeBytes x.data (BitVec.ofNat 2048 (r.data.toNat <<< (8 * (r.key % 256)))) (byteMask (r.key % 256) r.bytes)
      poison := x.poison &&& ~~~(fullGranules (byteMask (r.key % 256) r.bytes)) } : RdcSector) = z at ht
  obtain ⟨who, hwho⟩ := (s.setSector (n / 12) (r.key / 256) z).sector_noteWriter hdie (r.key / 256) n c.cls
  rw [s.sector_setSector_same hdie, ← State.sector_congr (State.byCores_rdc (State.onCmd_byCores _ n q _)), ← ht] at hwho
  have hcores : ((s.setSector (n / 12) (r.key / 256) z).noteWriter (n / 12) (r.key / 256) n c.cls).cores = s.cores :=
    (State.noteWriter_cores ..).trans (State.byTraffic_cores (State.setSector_byTraffic ..))
  obtain ⟨d, hd', hmem⟩ := State.cmd?_onReq hn ((State.cmd?_congr hcores hn).trans hc) (Cmd.req?_mem hr) fun x =>
    x.performed (BitVec.allOnes 64) x.data .rdc
  rw [← ht] at hd'
  refine ⟨?_, ⟨d, _, hd', hmem, (Cmd.req?_id hr : r.id = rq), r.performed_allOnes _ _ hb⟩, ?_⟩
  · rw [ht, State.onCmd_mem, State.noteWriter_mem, State.setSector_mem]
  · rw [show y = _ from hwho, ← hx]
    exact ⟨rfl, rfl, rfl⟩

section
variable {rq : Nat} (hn : n < 96) (h : s.homeDue n q rq = some (c, r)) (hs : r.stage = .rdc) (hd : r.did = 0) (hb : r.bytes ≤ 256)
  (hown : s.ownStack (n / 12) r.key = false) (hleave : s.mayLeave c.prog r.key none = true)
include hn h hs hd hb hown hleave

theorem homeAccess_served {o : CaOp} (hi : c.ins = .tld o) (hw : r.write = false)
    (hserves : (s.sector (n / 12) (r.key / 256)).serves (byteMask (r.key % 256) r.bytes) = true)
    (hclean : (s.sector (n / 12) (r.key / 256)).poison &&& touchedGranules (byteMask (r.key % 256) r.bytes) = 0) :
    ∃ t, exec (.homeAccess (.core n q rq (BitVec.allOnes 64))) s = .next t ∧ s.byCores t ∧
      ∃ d z, t.cmd? n q = some d ∧ z ∈ d.reqs ∧ z.id = rq ∧ z.stage = .done ∧ z.data = BitVec.ofNat 2048
        ((s.sector (n / 12) (r.key / 256)).data.toNat >>> (8 * (r.key % 256)) % 2 ^ (8 * r.bytes)) := by
  obtain ⟨hc, hr⟩ := State.homeDue_spec h
  have hpref : isPref c.ins = false := by rw [hi]; rfl
  have hexec : exec (.homeAccess (.core n q rq (BitVec.allOnes 64))) s = .next (s.performRead n c r (BitVec.allOnes 64)) := by
    change execHomeAccess (.core n q rq (BitVec.allOnes 64)) s = _
    have hserves' : (s.sector (dieOf n) (r.key / 256)).serves (byteMask (r.key % 256) r.bytes) = true := hserves
    have hstage : (r.stage == .rdc) = true := by rw [hs]; rfl
    simp [execHomeAccess, h, State.performAt, hstage, hleave, hw, hserves', hd, hpref]
  obtain ⟨f, left, hperform, hf⟩ := State.performRead_served (c := c) hown hd hserves hclean
  rw [hperform, State.cmd?_seq hc] at hexec
  obtain ⟨d, hd', hmem⟩ := State.cmd?_onReq hn hc (Cmd.req?_mem hr) f
  rw [hf] at hmem
  exact ⟨_, hexec, s.onCmd_byCores .., d, _, hd', hmem, (Cmd.req?_id hr : r.id = rq), r.performed_allOnes _ _ hb, rfl⟩

theorem homeAccess_stored {o : CaOp} (hi : c.ins = .tst o) (hw : r.write = true) :
    ∃ t, exec (.homeAccess (.core n q rq (BitVec.allOnes 64))) s = .next t ∧ t.mem = s.mem ∧
      if (s.portRefuses r.key).1 then t.rdc = s.rdc ∧ ∃ d, t.cmd? n q = some d ∧ d.stop = .failed r.run 0
      else (∃ d z, t.cmd? n q = some d ∧ z ∈ d.reqs ∧ z.id = rq ∧ z.stage = .done ∧ True) ∧
        let x := s.sector (n / 12) (r.key / 256)
        let y := t.sector (n / 12) (r.key / 256)
        y.full = x.full ∧ y.dirty = x.dirty ||| byteMask (r.key % 256) r.bytes ∧
        y.data = mergeBytes x.data (BitVec.ofNat 2048 (r.data.toNat <<< (8 * (r.key % 256)))) (byteMask (r.key % 256) r.bytes) := by
  obtain ⟨hc, hr⟩ := State.homeDue_spec h
  have hpref : isPref c.ins = false := by rw [hi]; rfl
  have hlocal : isRemote c.ins = false := by rw [hi]; rfl
  have hstage : (r.stage == .rdc) = true := by rw [hs]; rfl
  have hexec : exec (.homeAccess (.core n q rq (BitVec.allOnes 64))) s = .next (if (s.portRefuses r.key).1
      then (s.portRefuses r.key).2.failAt n c.seq r 0
      else (s.portRefuses r.key).2.performRdcWrite n c r (BitVec.allOnes 64)) := by
    change execHomeAccess (.core n q rq (BitVec.allOnes 64)) s = _
    simp only [execHomeAccess, h, State.performAt, hstage, hleave, hw, hd, hpref]
    rfl
  rw [State.cmd?_seq hc] at hexec
  have hframe := s.portRefuses_frame r.key
  have hmem := s.portRefuses_mem r.key
  generalize hs1 : (s.portRefuses r.key).2 = s1 at hexec hframe hmem
  have hcores : s1.cores = s.cores := by rw [hframe]
  have hc1 := (State.cmd?_congr hcores hn).trans hc
  have hrdc : s1.rdc = s.rdc := by rw [hframe]
  refine ⟨_, hexec, ?_⟩
  split
  · exact ⟨(State.failAt_mem ..).trans hmem, (State.byCores_rdc (State.failAt_byCores ..)).trans hrdc, _,
      State.cmd?_failAt hn hc1 r 0, rfl⟩
  · obtain ⟨hmem', hdone, hsec⟩ := State.performRdcWrite_stores hn hc1 hr hd hb (by rw [hframe]; exact hown) hlocal
    rw [State.sector_congr hrdc] at hsec
    obtain ⟨d, z, hd', hz, hid, hst⟩ := hdone
    exact ⟨hmem'.trans hmem, ⟨d, z, hd', hz, hid, hst, trivial⟩, hsec⟩

end

end Sys2Proof.Machine
end

section
/-!
PROOF of O46, its last part: the answer of a tile load lands in its window, or is held back for its words (R190).
-/

namespace Sys2Proof.Machine

variable {s t : State} {n q : Nat} {c : Cmd} {r : Req} {w : Window}

/-! ### Bytes held back -/

/-- Of the bytes held back, `h` is the one for its core and place. -/
def HeldByte.only (h : HeldByte) (l : List HeldByte) : Prop := h ∈ l ∧ ∀ x ∈ l, x.core = h.core → x.at' = h.at' → x = h

theorem HeldByte.only_holdByte (h : HeldByte) (l : List HeldByte) : h.only (holdByte l h) := by
  refine ⟨List.mem_append_right _ (List.mem_singleton_self h), fun x hx hcore hat => ?_⟩
  rcases List.mem_append.1 hx with hx | hx
  · simp [List.mem_filter, hcore, hat] at hx
  · exact List.mem_singleton.1 hx

theorem HeldByte.only_holdByte_other {h x : HeldByte} {l : List HeldByte} (hl : h.only l) (hx : x.at' ≠ h.at') :
    h.only (holdByte l x) := by
  refine ⟨List.mem_append_left _ (List.mem_filter.2 ⟨hl.1, by simp [hx.symm]⟩), fun y hy hcore hat => ?_⟩
  rcases List.mem_append.1 hy with hy | hy
  · exact hl.2 y (List.mem_filter.1 hy).1 hcore hat
  · exact absurd (List.mem_singleton.1 hy ▸ hat) hx

theorem holdBytes_succ (core run l v k : Nat) (held : List HeldByte) : holdBytes core run l v (k + 1) held =
    holdByte (holdBytes core run l v k held) ⟨core, l + k, run, BitVec.ofNat 8 (v >>> (8 * k))⟩ := by
  simp [holdBytes, List.range_succ]

theorem HeldByte.only_holdBytes (core run l v : Nat) {k i : Nat} (hi : i < k) (held : List HeldByte) :
    HeldByte.only ⟨core, l + i, run, BitVec.ofNat 8 (v >>> (8 * i))⟩ (holdBytes core run l v k held) := by
  induction k with
  | zero => omega
  | succ k ih =>
    rw [holdBytes_succ]
    by_cases hik : i = k
    · subst hik
      exact HeldByte.only_holdByte ..
    · exact HeldByte.only_holdByte_other (ih (by omega)) (by simp only; omega)

theorem HeldByte.only_holdBytes_before {h : HeldByte} {held : List HeldByte} (hl : h.only held) (core run v : Nat) {l : Nat}
    (hlt : h.at' < l) (k : Nat) : h.only (holdBytes core run l v k held) := by
  induction k with
  | zero => exact hl
  | succ k ih =>
    rw [holdBytes_succ]
    exact HeldByte.only_holdByte_other ih (by simp only; omega)

/-- The bytes held back for core `n` that land now. -/
def landsNow (w : Window) (n : Nat) (all : Bool) (pick : Nat → Bool) (l : List HeldByte) : List HeldByte :=
  let mine := l.filter fun h => h.core == n
  mine.filter fun h => (all || (mine.filter fun x => (w.wordOf h.at').1 == (w.wordOf x.at').1).length == (w.wordOf h.at').2) &&
    pick ((w.wordOf h.at').1 / 4 % 1024)

theorem core_of_mem_landsNow {all : Bool} {pick : Nat → Bool} {l : List HeldByte} {h : HeldByte}
    (hm : h ∈ landsNow w n all pick l) : h ∈ l ∧ h.core = n := by
  obtain ⟨hl, hcore⟩ := List.mem_filter.1 (List.mem_filter.1 hm).1
  exact ⟨hl, by simpa using hcore⟩

theorem State.landHeld_eq (s : State) (n : Nat) (w : Window) (all : Bool) (pick : Nat → Bool) (l : List HeldByte) :
    ∃ lost, s.landHeld n (some w) none all pick l =
      (((landsNow w n all pick l).filter fun h => decide (h.at' < w.size)).foldl
        (fun s h => s.winWriteAt n (some w) h.at' 1 h.val.toNat) s,
      ⟨l.filter fun h => !((landsNow w n all pick l).contains h), lost⟩) := ⟨_, rfl⟩

theorem State.landHeld_byCores (s : State) (hn : n < 96) (w : Window) (all : Bool) (pick : Nat → Bool) (l : List HeldByte) :
    let x := s.landHeld n (some w) none all pick l
    s.byCores x.1 ∧ x.1.unAt n = s.unAt n := by
  obtain ⟨lost, heq⟩ := s.landHeld_eq n w all pick l
  obtain ⟨hcores, hun, -⟩ := s.foldl_winByte hn w ((landsNow w n all pick l).filter fun h => decide (h.at' < w.size))
  rw [heq]
  exact ⟨hcores, hun⟩

/-- A byte held back for a core lands at its place, where the window has room for it, or is held back still. -/
theorem State.landHeld_byte (s : State) (hn : n < 96) (hw : w.rbu ≤ 4096) (all : Bool) (pick : Nat → Bool) {l : List HeldByte}
    {h : HeldByte} (hl : h.only l) (hcore : h.core = n) (hat : h.at' < w.size) :
    let x := s.landHeld n (some w) none all pick l
    (x.1.timedAt n).sbyte (w.byteAddr h.at') = h.val ∨ h ∈ x.2.held := by
  obtain ⟨lost, heq⟩ := s.landHeld_eq n w all pick l
  obtain ⟨-, -, htimed⟩ := s.foldl_winByte hn w ((landsNow w n all pick l).filter fun h => decide (h.at' < w.size))
  simp only [heq]
  by_cases hnow : h ∈ landsNow w n all pick l
  · have hone : ∀ x ∈ (landsNow w n all pick l).filter fun h => decide (h.at' < w.size), x.at' = h.at' → x.val = h.val :=
      fun x hx hxat => by
        obtain ⟨hxl, hxcore⟩ := core_of_mem_landsNow (List.mem_filter.1 hx).1
        rw [hl.2 x hxl (hxcore.trans hcore.symm) hxat]
    rw [htimed]
    exact .inl (Timed.sbyte_foldl_winByte hw (fun x hx => by simpa using (List.mem_filter.1 hx).2) hat hone _
      (.inl (List.mem_filter.2 ⟨hnow, by simpa using hat⟩)))
  · exact .inr (List.mem_filter.2 ⟨hl.1, by simpa using hnow⟩)

/-! ### Words of a piece (R190) -/

/-- A byte of word `k` of a piece. -/
theorem byte_of_word (d : BitVec 2048) (k : Nat) {j : Nat} (hj : j < 4) :
    BitVec.ofNat 8 ((d.toNat >>> (32 * k) % 2 ^ 32) >>> (8 * j)) = d.extractLsb' (8 * (4 * k + j)) 8 := by
  ext i hi
  rw [← BitVec.getLsbD_eq_getElem, BitVec.getLsbD_ofNat, BitVec.getElem_extractLsb', Nat.testBit_shiftRight,
    Nat.testBit_mod_two_pow, Nat.testBit_shiftRight, BitVec.testBit_toNat, show 32 * k + (8 * j + i) = 8 * (4 * k + j) + i by omega]
  simp [hi, show 8 * j + i < 32 by omega]

/-- What holds at the start of a run over numbers and after each of them holds at its end. -/
theorem foldl_range_induction {β : Type} {f : β → Nat → β} {b : β} {P : Nat → β → Prop} (k : Nat) (h0 : P 0 b)
    (hs : ∀ i, i < k → ∀ y, P i y → P (i + 1) (f y i)) : P k ((List.range k).foldl f b) := by
  induction k with
  | zero => exact h0
  | succ k ih =>
    rw [List.range_succ, List.foldl_append]
    exact hs k (Nat.lt_succ_self k) _ (ih fun i hi => hs i (by omega))

theorem State.holdWord_holds (s : State) (n q m run l v : Nat) :
    (s.holdWord n q m run l v).1 = s.onCmd n q fun c => c.holding (holdBytes m run l v 4 c.prog.held) := by
  have hout : (-(l : Int)).toNat = 0 := by omega
  simp only [State.holdWord, hout, Int.toNat_natCast]
  rfl

/-- Command `q` of core `n`, which was `c`, holds back the first `k` words of a piece from logical byte `l` on. -/
def State.HeldWords (s : State) (n q : Nat) (c : Cmd) (r : Req) (l k : Nat) (t : State) : Prop :=
  s.byQueue t n ∧ ∃ H, t.cmd? n q = some (c.holding H) ∧
    ∀ i, i < 4 * k → HeldByte.only ⟨n, l + i, r.run, r.data.extractLsb' (8 * i) 8⟩ H

theorem State.heldWords_none (hc : s.cmd? n q = some c) (r : Req) (l : Nat) : s.HeldWords n q c r l 0 s :=
  ⟨⟨rfl, _, rfl⟩, c.prog.held, hc, fun i h0 => by omega⟩

theorem State.HeldWords.next {l k : Nat} (h : s.HeldWords n q c r l k t) (hn : n < 96) :
    s.HeldWords n q c r l (k + 1) (t.holdWord n q n r.run ((l + 4 * k : Nat) : Int) (r.data.toNat >>> (32 * k) % 2 ^ 32)).1 := by
  obtain ⟨hq, H, hcmd, honly⟩ := h
  have hword := State.cmd?_onCmd (f := fun c => c.holding (holdBytes n r.run (l + 4 * k) (r.data.toNat >>> (32 * k) % 2 ^ 32) 4
    c.prog.held)) hn hcmd fun _ => rfl
  rw [State.holdWord_holds]
  refine ⟨State.byQueue_trans hq (State.onCmd_byQueue _ hn q _), _, hword, fun i hik => ?_⟩
  by_cases hold : i < 4 * k
  · exact HeldByte.only_holdBytes_before (honly i hold) _ _ _ (show l + i < l + 4 * k by omega) 4
  · obtain ⟨m, rfl⟩ := Nat.exists_eq_add_of_le (Nat.not_lt.1 hold)
    rw [← byte_of_word r.data k (show m < 4 by omega), ← Nat.add_assoc]
    exact HeldByte.only_holdBytes _ _ _ _ (by omega) _

/-- Once the words that are whole have landed, each byte of those held back stands in the window or waits still. -/
theorem State.landWaiting_byte (hn : n < 96) (hc : s.cmd? n q = some c) {o : CaOp} (hi : c.ins = .tld o) (hw : c.win = some w)
    (hrbu : w.rbu ≤ 4096) (pick : Nat → Bool) :
    let t := s.landWaiting n q n false pick
    s.byCores t ∧ ∃ d, t.cmd? n q = some d ∧ d.reqs = c.reqs ∧
      ∀ h : HeldByte, h.only c.prog.held → h.core = n → h.at' < w.size →
        (t.timedAt n).sbyte (w.byteAddr h.at') = h.val ∨ h ∈ d.prog.held := by
  have hrec : s.receiverWin n c = some w := by simp [State.receiverWin, hi, hw]
  have harm : armWindow c.ins = none := by simp [armWindow, hi]
  obtain ⟨hcores, hun⟩ := s.landHeld_byCores hn w false pick c.prog.held
  have hbyte := fun (h : HeldByte) (hl : h.only c.prog.held) => s.landHeld_byte hn hrbu false pick hl
  simp only [State.landWaiting, hc, hrec, harm]
  generalize s.landHeld n (some w) none false pick c.prog.held = x at hcores hun hbyte
  refine ⟨State.byCores_trans hcores (State.onCmd_byCores ..), _,
    State.cmd?_onCmd hn ((congrArg (Untimed.cmd? · q) hun).trans hc) fun _ => rfl, rfl, fun h hl hcore hat => ?_⟩
  rw [State.timedAt_onCmd _ hn]
  exact hbyte h hl hcore hat

section
variable {o : CaOp} (hi : c.ins = .tld o) (hw : c.win = some w)
include hi hw

theorem State.receiverWin_tld (s : State) : s.receiverWin n c = some w := by
  simp [State.receiverWin, hi, hw]

/-- One word of a piece lands whole in a window that has room for it. -/
theorem State.landWord_lands (s : State) {l : Nat} (hl : l + 4 ≤ w.size) (v : Nat) :
    (s.landWord n c l v).1 = s.winWriteAt n (some w) l 4 v := by
  have hk : min 4 (w.size - l) = 4 := by omega
  simp [State.landWord, s.receiverWin_tld hi hw, hi, hk, show ¬ (l : Int) < 0 by omega]

variable (hn : n < 96) (hrbu : w.rbu ≤ 4096) (hlanded : r.landed = 0) (hbytes : r.bytes % 4 = 0)
  (hle : r.bytes ≤ 256) (hpos : 0 ≤ r.woff) (hfit : r.woff.toNat + r.bytes ≤ w.size)
include hn hrbu hlanded hbytes hle hpos hfit

/-- The words of a piece in a window of whole words. -/
theorem State.landWords_even (hodd : w.odd = false) :
    let x := (s.landWords n c r (BitVec.allOnes 1024)).1
    s.byCores x ∧ x.unAt n = s.unAt n ∧ ∀ i, i < r.bytes →
      (x.timedAt n).sbyte (w.byteAddr (r.woff.toNat + i)) = r.data.extractLsb' (8 * i) 8 := by
  obtain ⟨l, hl⟩ := Int.eq_ofNat_of_zero_le hpos
  have hlnat : r.woff.toNat = l := by rw [hl]; rfl
  rw [hlnat] at hfit ⊢
  have hrec : receivers n c.ins = [n] := by rw [hi]; rfl
  have hbit : ∀ i, i < r.bytes / 4 → ((BitVec.allOnes 1024).getLsbD i && !(r.landed.getLsbD i)) = true := fun i hik => by
    rw [hlanded, getLsbD_allOnes_of_lt (by omega), show (0 : BitVec 1024).getLsbD i = false from BitVec.getLsbD_zero]
    rfl
  simp only [State.landWords, hrec, List.foldl_cons, List.foldl_nil, s.receiverWin_tld hi hw, Option.any_some, hodd,
    Bool.false_eq_true, if_false]
  obtain ⟨k, hk⟩ : ∃ k, r.bytes / 4 = k := ⟨_, rfl⟩
  rw [hk] at hbit ⊢
  rw [show r.bytes = 4 * k by omega] at hfit ⊢
  refine foldl_range_induction (P := fun k (y : State × Bool) => s.byCores y.1 ∧ y.1.unAt n = s.unAt n ∧ ∀ i, i < 4 * k →
    (y.1.timedAt n).sbyte (w.byteAddr (l + i)) = r.data.extractLsb' (8 * i) 8) _
    (b := (s, false)) ⟨rfl, rfl, fun i h0 => by omega⟩ ?_
  rintro j hj y ⟨hcores, hun, hstand⟩
  rw [if_pos (hbit j hj)]
  have hword := State.landWord_lands (n := n) hi hw y.1 (l := l + 4 * j) (by omega) (r.data.toNat >>> (32 * j) % 2 ^ 32)
  rw [hl, show (l : Int) + 4 * (j : Int) = ((l + 4 * j : Nat) : Int) by omega, hword]
  refine ⟨State.byCores_trans hcores (State.winWriteAt_byCores ..), (State.unAt_winWriteAt _ hn ..).trans hun, fun i hij => ?_⟩
  rw [State.timedAt_winWriteAt _ hn]
  by_cases hold : i < 4 * j
  · rw [Timed.sbyte_winWrite_other _ _ _ _ _ _ fun m hm e => by
      have := Window.byteAddr_injective hrbu (by omega) e
      omega]
    exact hstand i hold
  · obtain ⟨m, rfl⟩ := Nat.exists_eq_add_of_le (Nat.not_lt.1 hold)
    rw [← Nat.add_assoc, Timed.sbyte_winWrite _ hrbu (by omega) _ (show m < 4 by omega), byte_of_word _ _ (by omega)]

/-- The words of a piece in a window with shorter words: each byte lands with the rest of its word, or waits for it. -/
theorem State.landWords_odd (hc : s.cmd? n q = some c) (hodd : w.odd = true) :
    let x := (s.landWords n c r (BitVec.allOnes 1024)).1
    s.byCores x ∧ ∃ d, x.cmd? n q = some d ∧ d.reqs = c.reqs ∧ ∀ i, i < r.bytes →
      (x.timedAt n).sbyte (w.byteAddr (r.woff.toNat + i)) = r.data.extractLsb' (8 * i) 8 ∨
      (⟨n, r.woff.toNat + i, r.run, r.data.extractLsb' (8 * i) 8⟩ : HeldByte) ∈ d.prog.held := by
  obtain ⟨l, hl⟩ := Int.eq_ofNat_of_zero_le hpos
  have hlnat : r.woff.toNat = l := by rw [hl]; rfl
  rw [hlnat] at hfit ⊢
  have hrec : receivers n c.ins = [n] := by rw [hi]; rfl
  have hbit : ∀ i, i < r.bytes / 4 → ((BitVec.allOnes 1024).getLsbD i && !(r.landed.getLsbD i)) = true := fun i hik => by
    rw [hlanded, getLsbD_allOnes_of_lt (by omega), show (0 : BitVec 1024).getLsbD i = false from BitVec.getLsbD_zero]
    rfl
  simp only [State.landWords, hrec, List.foldl_cons, List.foldl_nil, s.receiverWin_tld hi hw, Option.any_some, hodd, if_true,
    State.cmd?_seq hc]
  obtain ⟨k, hk⟩ : ∃ k, r.bytes / 4 = k := ⟨_, rfl⟩
  rw [hk] at hbit ⊢
  rw [show r.bytes = 4 * k by omega] at hfit ⊢
  generalize hy : (List.range k).foldl _ (s, false) = y
  have hheld : s.HeldWords n q c r l k y.1 := by
    rw [← hy]
    refine foldl_range_induction (P := fun k (y : State × Bool) => s.HeldWords n q c r l k y.1) _ (b := (s, false))
      (State.heldWords_none hc r l) fun j hj y hheld => ?_
    rw [if_pos (hbit j hj), hl, show (l : Int) + 4 * (j : Int) = ((l + 4 * j : Nat) : Int) by omega]
    exact hheld.next hn
  obtain ⟨hq, H, hcmd, honly⟩ := hheld
  obtain ⟨hcores, d, hd, hreqs, hland⟩ := State.landWaiting_byte hn hcmd hi hw hrbu (fun _ => true)
  refine ⟨State.byCores_trans hq.1 hcores, d, hd, hreqs, fun i hik => ?_⟩
  have hfits : l + i < w.size := by omega
  exact hland ⟨n, l + i, r.run, r.data.extractLsb' (8 * i) 8⟩ (honly i hik) rfl hfits

theorem State.landWords_lands (hc : s.cmd? n q = some c) :
    let x := (s.landWords n c r (BitVec.allOnes 1024)).1
    s.byCores x ∧ ∃ d, x.cmd? n q = some d ∧ d.reqs = c.reqs ∧ ∀ i, i < r.bytes →
      (x.timedAt n).sbyte (w.byteAddr (r.woff.toNat + i)) = r.data.extractLsb' (8 * i) 8 ∨
      w.odd = true ∧ (⟨n, r.woff.toNat + i, r.run, r.data.extractLsb' (8 * i) 8⟩ : HeldByte) ∈ d.prog.held := by
  cases hodd : w.odd with
  | false =>
    obtain ⟨hcores, hun, hstand⟩ := State.landWords_even (s := s) hi hw hn hrbu hlanded hbytes hle hpos hfit hodd
    exact ⟨hcores, c, (congrArg (Untimed.cmd? · q) hun).trans hc, rfl, fun i hik => .inl (hstand i hik)⟩
  | true =>
    obtain ⟨hcores, d, hd, hreqs, hland⟩ := State.landWords_odd hi hw hn hrbu hlanded hbytes hle hpos hfit hc hodd
    exact ⟨hcores, d, hd, hreqs, fun i hik => (hland i hik).imp_right fun h => ⟨rfl, h⟩⟩

end

/-! ### SECTOR_RESPONSE (R190) -/

theorem State.answerDue_spec {rq : Nat} (h : s.answerDue n q rq = some (c, r)) : s.cmd? n q = some c := by
  unfold State.answerDue at h
  cases hc : s.cmd? n q with
  | none => simp [hc] at h
  | some d =>
    cases hr : d.req? rq with
    | none => simp [hc, hr] at h
    | some x =>
      simp only [hc, hr, Option.bind_some, Option.map_some] at h
      split at h
      · cases h
      · split at h
        · cases h
          rfl
        · split at h
          · cases h
            rfl
          · cases h

/-- A command without the request of a number. -/
def Cmd.gone (rq : Nat) (c : Cmd) : Cmd := { c with reqs := c.reqs.filter fun x => x.id != rq }

/-- A command of which bytes of run `run` were discarded. -/
def Cmd.noteLost (lost : Bool) (run : Nat) (c : Cmd) : Cmd :=
  if lost && c.prog.act == 0 then { c with prog := { c.prog with act := run + 1 } } else c

theorem Cmd.noteLost_keeps (lost : Bool) (run : Nat) (c : Cmd) : (c.noteLost lost run).seq = c.seq ∧
    (c.noteLost lost run).reqs = c.reqs ∧ (c.noteLost lost run).prog.held = c.prog.held := by
  unfold Cmd.noteLost
  split <;> exact ⟨rfl, rfl, rfl⟩

section
variable {rq : Nat} {o : CaOp} (hn : n < 96) (h : s.answerDue n q rq = some (c, r))
include hn h

theorem sectorResponse_store (hi : c.ins = .tst o) (hw : r.write = true) (words : BitVec 1024) :
    ∃ t, exec (.sectorResponse n q rq words) s = .next t ∧
      (∃ d, t.cmd? n q = some d ∧ d.reqs = c.reqs.filter fun y => y.id != rq) ∧ t.mem = s.mem ∧ t.timedAt n = s.timedAt n := by
  have hc := State.answerDue_spec h
  have hbp : bpOf c.ins = none := by rw [hi]; rfl
  have hexec : exec (.sectorResponse n q rq words) s = .next (s.onUn n fun u => (u.countDone [r]).onCmd q (Cmd.gone rq)) := by
    change execSectorResponse n q rq words s = _
    simp only [execSectorResponse, h, hbp, hw]
    rfl
  have hcmd : (s.onUn n fun u => (u.countDone [r]).onCmd q (Cmd.gone rq)).cmd? n q = some (c.gone rq) :=
    (s.cmd?_onUn hn _).trans ((Untimed.cmd?_onCmd (f := Cmd.gone rq) _ q fun _ => rfl).trans
      (congrArg (Option.map _) ((Untimed.cmd?_countDone ..).trans hc)))
  exact ⟨_, hexec, ⟨_, hcmd, rfl⟩, State.onUn_mem .., s.timedAt_onUn hn _⟩

theorem sectorResponse_load (hi : c.ins = .tld o) (hwin : c.win = some w) (hw : r.write = false) (hlanded : r.landed = 0)
    (hbytes : r.bytes % 4 = 0) (hle : r.bytes ≤ 256) (hpos : 0 ≤ r.woff) (hfit : r.woff.toNat + r.bytes ≤ w.size)
    (hrbu : w.rbu ≤ 4096) (hlater : c.laterWords r = 0) :
    ∃ t, exec (.sectorResponse n q rq (BitVec.allOnes 1024)) s = .next t ∧
      (∃ d, t.cmd? n q = some d ∧ (d.reqs = c.reqs.filter fun y => y.id != rq) ∧
        ∀ i, i < r.bytes → (t.timedAt n).sbyte (w.byteAddr (r.woff.toNat + i)) = r.data.extractLsb' (8 * i) 8 ∨
          w.odd = true ∧ ∃ h, h ∈ d.prog.held ∧ h = ⟨n, r.woff.toNat + i, r.run, r.data.extractLsb' (8 * i) 8⟩) ∧
      t.mem = s.mem := by
  have hc := State.answerDue_spec h
  have hbp : bpOf c.ins = none := by rw [hi]; rfl
  have hpref : isPref c.ins = false := by rw [hi]; rfl
  have hnow : BitVec.allOnes 1024 &&& ~~~(c.laterWords r) = BitVec.allOnes 1024 := by rw [hlater, allOnes_and_not_zero]
  have hrest : allWords r &&& ~~~(r.landed ||| BitVec.allOnes 1024) = 0 := by
    rw [or_allOnes]
    ext i
    simp
  have hexec : exec (.sectorResponse n q rq (BitVec.allOnes 1024)) s =
      .next ((s.landWords n c r (BitVec.allOnes 1024)).1.onCmd n q fun d =>
        Cmd.gone rq (d.noteLost (s.landWords n c r (BitVec.allOnes 1024)).2 r.run)) := by
    change execSectorResponse n q rq (BitVec.allOnes 1024) s = _
    simp only [execSectorResponse, h, hbp, hw, hpref, hnow, hrest]
    exact (if_neg Bool.false_ne_true).trans (if_pos trivial)
  obtain ⟨hcores, d, hd, hreqs, hland⟩ := State.landWords_lands hi hwin hn hrbu hlanded hbytes hle hpos hfit hc
  generalize s.landWords n c r (BitVec.allOnes 1024) = x at hexec hcores hd hland
  have hcmd : (x.1.onCmd n q fun c => Cmd.gone rq (c.noteLost x.2 r.run)).cmd? n q = some (Cmd.gone rq (d.noteLost x.2 r.run)) :=
    State.cmd?_onCmd (f := fun c => Cmd.gone rq (c.noteLost x.2 r.run)) hn hd fun c => (c.noteLost_keeps x.2 r.run).1
  obtain ⟨-, hkreqs, hkheld⟩ := d.noteLost_keeps x.2 r.run
  refine ⟨_, hexec, ⟨_, hcmd, ?_, fun i hik => ?_⟩, State.byCores_mem (State.byCores_trans hcores (State.onCmd_byCores ..))⟩
  · exact congrArg (List.filter _) (hkreqs.trans hreqs)
  · rw [State.timedAt_onCmd _ hn]
    exact (hland i hik).imp_right fun ⟨hodd, hheld⟩ => ⟨hodd, _, hkheld.symm ▸ hheld, rfl⟩

end

/-- Settles O46: the request by the way that it is formed, the access by what the RDC does with it, and the answer by where its
bytes land. -/
theorem sectorRequests : Obligations.SectorRequests := by
  intro s n q c words hn hc
  refine ⟨fun p hdue => ⟨fun h => s.carry_reads n c.win _ _ h, fun h => sectorRequestIssue_goesOn hn hc hdue h words,
      fun hgo ha => sectorRequestIssue_refused hn hc hdue hgo ha words, fun hgo ha hrbu => ?_⟩,
    fun rq r h hs hd hb hown hleave => ?_, fun rq r h => ?_⟩
  · refine ⟨fun hi => sectorRequestIssue_pref hn hc hdue hgo ha hi words, fun o hi => ?_,
      fun o hi hm => sectorRequestIssue_store hn hc hdue hgo ha hm hrbu hi,
      fun o hi hm => sectorRequestIssue_remote hn hc hdue hgo ha hm hrbu hi, fun hw hm hsome => ?_,
      fun hw hm => sectorRequestIssue_marked hn hc hdue hgo ha hw hm words⟩
    · exact sectorRequestIssue_read hn hc hdue hgo ha (by rw [hi]; rfl) (by rw [hi]; rfl) words
    · refine sectorRequestIssue_part hn hc hdue hgo ha hm hw ?_
      have hpieces : c.winPieces (newReq c p .window 0) = (c.win.map fun w => w.wordsIn p.woff.toNat p.n).getD [] := by
        unfold Cmd.winPieces
        cases c.win <;> rfl
      rw [hpieces]
      exact hsome
  · exact ⟨fun o hi hw hserves hclean => homeAccess_served hn h hs hd hb hown hleave hi hw hserves hclean,
      fun o hi hw => homeAccess_stored hn h hs hd hb hown hleave hi hw⟩
  · exact ⟨fun o w hi hwin hw hlanded hbytes hle hpos hfit _ hrbu _ _ hlater =>
        sectorResponse_load hn h hi hwin hw hlanded hbytes hle hpos hfit hrbu hlater,
      fun o words hi hw => sectorResponse_store hn h hi hw words⟩

end Sys2Proof.Machine
end

section
/-!
SUPPORT. The meanings that always go on, and the few that can miss (R94). Every meaning has one lemma here, but for those whose outcome
is a next state as it stands; an instruction of a bundle gets its lemma from its slot.
-/

namespace Sys2Proof.Machine

@[simp] theorem goesOn_next (s : State) : goesOn (.next s) := ⟨s, rfl⟩

theorem goesOn_ite {c : Prop} [Decidable c] {o p : Out} (ho : goesOn o) (hp : goesOn p) : goesOn (if c then o else p) := by
  split <;> assumption

@[simp] theorem goesOn_ite_iff (c : Prop) [Decidable c] (o p : Out) :
    goesOn (if c then o else p) ↔ if c then goesOn o else goesOn p := by split <;> rfl

theorem goesOn_andThen {o : Out} {f : State → Out} (ho : goesOn o) (hf : ∀ t, goesOn (f t)) : goesOn (andThen o f) := by
  obtain ⟨t, rfl⟩ := ho
  exact hf t

/-- The outcome is a next state, or the fault of an access to an address that no memory has. -/
def goesOnOrMisses (o : Out) : Prop := goesOn o ∨ ∃ a, o = .fault (.noSuchAddress a)

theorem goesOnOrMisses_andThen {o : Out} {f : State → Out} (ho : goesOnOrMisses o) (hf : ∀ t, goesOn (f t)) :
    goesOnOrMisses (andThen o f) := by
  obtain ho | ⟨a, rfl⟩ := ho
  · exact .inl (goesOn_andThen ho hf)
  · exact .inr ⟨a, rfl⟩

/-! ### Machine/Scalar -/

@[simp] theorem execSts_goesOn (n : Nat) (b a : BitVec 6) (i : BitVec 12) (s : State) : goesOn (execSts n b a i s) :=
  State.trapOr_goesOn ..

/-! ### Machine/Copy -/

theorem passThrough_goesOn (i : Instr) (tr : Option Trap) (f : Timed → Timed) (s : State) :
    goesOn (passThrough i tr f s) := by
  unfold passThrough
  (repeat' split) <;> exact ⟨_, rfl⟩

@[simp] theorem tileCmd_goesOn (i : Instr) (o : CaOp) (tr : Option Trap) (s : State) : goesOn (tileCmd i o tr s) := by
  unfold tileCmd
  (repeat' split) <;> exact ⟨_, rfl⟩

@[simp] theorem execWcopy_goesOn (o : CaOp) (s : State) : goesOn (execWcopy o s) := by
  unfold execWcopy
  (repeat' split) <;> exact ⟨_, rfl⟩

@[simp] theorem execWfill_goesOn (o : CaOp) (s : State) : goesOn (execWfill o s) := by
  unfold execWfill
  (repeat' split) <;> exact ⟨_, rfl⟩

@[simp] theorem execBclose_goesOn (f : BitVec 5) (s : State) : goesOn (execBclose f s) := by
  unfold execBclose
  (repeat' split) <;> exact ⟨_, rfl⟩

@[simp] theorem execBwait_goesOn (n : BitVec 8) (s : State) : goesOn (execBwait n s) := by
  unfold execBwait
  (repeat' split) <;> exact ⟨_, rfl⟩

/-! ### Machine/VertexCmd -/

@[simp] theorem execPharm_goesOn (o : CfOp) (s : State) : goesOn (execPharm o s) := by
  unfold execPharm
  simp only []
  (repeat' split) <;> exact ⟨_, rfl⟩

/-! ### Machine/Vertex -/

@[simp] theorem execVertexOperation_goesOn (core : Nat) (w : CmdWords 1024) (s : State) :
    goesOn (execVertexOperation core w s) := by
  unfold execVertexOperation
  (repeat' split) <;> exact ⟨_, rfl⟩

@[simp] theorem execArmComplete_goesOn (core arm : Nat) (s : State) : goesOn (execArmComplete core arm s) := by
  unfold execArmComplete
  (repeat' split) <;> exact ⟨_, rfl⟩

@[simp] theorem execVertexRecordMove_goesOn (die obj : Nat) (s : State) : goesOn (execVertexRecordMove die obj s) := by
  unfold execVertexRecordMove
  simp only []
  (repeat' split) <;> exact ⟨_, rfl⟩

theorem State.vxHost_goesOn (s : State) (die obj : Nat) (allowed : ObjKind → Bool) (f : State → State) :
    goesOn (s.vxHost die obj allowed f) := by
  unfold State.vxHost
  simp only []
  (repeat' split) <;> exact ⟨_, rfl⟩

@[simp] theorem execInitSync_goesOn (die obj : Nat) (s : State) : goesOn (execInitSync die obj s) := State.vxHost_goesOn ..

@[simp] theorem execInitPhaser_goesOn (die obj : Nat) (s : State) : goesOn (execInitPhaser die obj s) :=
  State.vxHost_goesOn ..

@[simp] theorem execReadObject_goesOn (die obj : Nat) (s : State) : goesOn (execReadObject die obj s) :=
  State.vxHost_goesOn ..

@[simp] theorem execFreeObject_goesOn (die obj : Nat) (s : State) : goesOn (execFreeObject die obj s) := by
  unfold execFreeObject
  simp only []
  (repeat' split) <;> exact ⟨_, rfl⟩

@[simp] theorem execBreakPhaser_goesOn (die obj : Nat) (s : State) : goesOn (execBreakPhaser die obj s) := by
  unfold execBreakPhaser
  simp only []
  (repeat' split) <;> exact ⟨_, rfl⟩

@[simp] theorem execVertexBadCommand_goesOn (die : Nat) (op : BitVec 4) (obj : Nat) (s : State) :
    goesOn (execVertexBadCommand die op obj s) := by
  unfold execVertexBadCommand
  (repeat' split) <;> exact ⟨_, rfl⟩

@[simp] theorem execOvfBaseWrite_goesOn (die : Nat) (v : Word) (s : State) : goesOn (execOvfBaseWrite die v s) := by
  unfold execOvfBaseWrite
  simp only []
  (repeat' split) <;> exact ⟨_, rfl⟩

@[simp] theorem execObjCountWrite_goesOn (die : Nat) (v : Word) (s : State) : goesOn (execObjCountWrite die v s) := by
  unfold execObjCountWrite
  simp only []
  (repeat' split) <;> exact ⟨_, rfl⟩

/-! ### Machine/CopyEngine -/

@[simp] theorem execSectorRequestIssue_goesOn (core : Nat) (w : CmdWords 64) (s : State) :
    goesOn (execSectorRequestIssue core w s) := by
  unfold execSectorRequestIssue
  (repeat' split) <;> exact ⟨_, rfl⟩

/-- An access of a core's own always has its effect; of one from outside only to an address that a memory has. -/
@[simp] theorem execHomeAccess_core_goesOn (core seq req : Nat) (words : BitVec 64) (s : State) :
    goesOn (execHomeAccess (.core core seq req words) s) := by
  simp only [execHomeAccess]
  split <;> exact ⟨_, rfl⟩

theorem execHomeAccess_outside_goesOnOrMisses (key n : Nat) (wr copy : Bool) (data : BitVec 2048) (s : State) :
    goesOnOrMisses (execHomeAccess (.outside key n wr copy data) s) := by
  cases h : s.outsideMissing key n with
  | true => exact .inr ⟨key, if_pos h⟩
  | false =>
    obtain ⟨t, ht, -⟩ := homeAccess_outside h wr copy data
    exact .inl ⟨t, ht⟩

theorem execHomeAccess_goesOnOrMisses (a : HomeReq) (s : State) : goesOnOrMisses (execHomeAccess a s) := by
  cases a with
  | core core seq req words => exact .inl (execHomeAccess_core_goesOn ..)
  | outside key n wr copy data => exact execHomeAccess_outside_goesOnOrMisses ..

@[simp] theorem execStremoRelease_goesOn (core seq req : Nat) (s : State) : goesOn (execStremoRelease core seq req s) := by
  unfold execStremoRelease
  (repeat' split) <;> exact ⟨_, rfl⟩

@[simp] theorem execSectorResponse_goesOn (core seq req : Nat) (words : BitVec 1024) (s : State) :
    goesOn (execSectorResponse core seq req words s) := by
  unfold execSectorResponse
  simp only []
  (repeat' split) <;> exact ⟨_, rfl⟩

@[simp] theorem execCopyPageTranslation_goesOn (core seq : Nat) (s : State) : goesOn (execCopyPageTranslation core seq s) := by
  unfold execCopyPageTranslation
  simp only []
  (repeat' split) <;> exact ⟨_, rfl⟩

@[simp] theorem execCopyCommandComplete_goesOn (core : Nat) (w : CmdBlock) (s : State) :
    goesOn (execCopyCommandComplete core w s) := by
  unfold execCopyCommandComplete
  (repeat' split) <;> exact ⟨_, rfl⟩

@[simp] theorem execBatchComplete_goesOn (core batch : Nat) (s : State) : goesOn (execBatchComplete core batch s) := by
  unfold execBatchComplete
  (repeat' split) <;> exact ⟨_, rfl⟩

@[simp] theorem execRdcReplacement_goesOn (die : Nat) (x : SectorWords) (s : State) : goesOn (execRdcReplacement die x s) := by
  unfold execRdcReplacement
  simp only []
  (repeat' split) <;> exact ⟨_, rfl⟩

/-! ### Machine/Pooling -/

@[simp] theorem execMigrationInSwitch_goesOn (pbc slot : Nat) (s : State) : goesOn (execMigrationInSwitch pbc slot s) := by
  unfold execMigrationInSwitch
  simp only []
  (repeat' split) <;> exact ⟨_, rfl⟩

@[simp] theorem execMigrationTimeout_goesOn (pbc slot : Nat) (s : State) : goesOn (execMigrationTimeout pbc slot s) := by
  unfold execMigrationTimeout
  (repeat' split) <;> exact ⟨_, rfl⟩

@[simp] theorem execDemotionSwitch_goesOn (pbc slot : Nat) (s : State) : goesOn (execDemotionSwitch pbc slot s) := by
  unfold execDemotionSwitch
  simp only []
  (repeat' split) <;> exact ⟨_, rfl⟩

@[simp] theorem execTload_goesOn (pbc table : Nat) (s : State) : goesOn (execTload pbc table s) := by
  unfold execTload
  simp only []
  (repeat' split) <;> exact ⟨_, rfl⟩

@[simp] theorem execTdrop_goesOn (pbc table : Nat) (s : State) : goesOn (execTdrop pbc table s) := by
  unfold execTdrop
  (repeat' split) <;> exact ⟨_, rfl⟩

@[simp] theorem execTread_goesOn (pbc table : Nat) (s : State) : goesOn (execTread pbc table s) := by
  unfold execTread
  simp only []
  (repeat' split) <;> exact ⟨_, rfl⟩

@[simp] theorem execHotload_goesOn (pbc table : Nat) (s : State) : goesOn (execHotload pbc table s) := by
  unfold execHotload
  simp only []
  (repeat' split) <;> exact ⟨_, rfl⟩

@[simp] theorem execHotflush_goesOn (pbc table : Nat) (s : State) : goesOn (execHotflush pbc table s) := by
  unfold execHotflush
  (repeat' split) <;> exact ⟨_, rfl⟩

@[simp] theorem execSkclr_goesOn (pbc group : Nat) (s : State) : goesOn (execSkclr pbc group s) := by
  unfold execSkclr
  (repeat' split) <;> exact ⟨_, rfl⟩

@[simp] theorem execPbcBadCommand_goesOn (pbc : Nat) (op : BitVec 8) (s : State) : goesOn (execPbcBadCommand pbc op s) := by
  unfold execPbcBadCommand
  (repeat' split) <;> exact ⟨_, rfl⟩

theorem State.hotWrite_goesOn (s : State) (n : Nat) (base : BitVec 52) (slots : BitVec 20) (log2 : BitVec 4) :
    goesOn (s.hotWrite n base slots log2) := by
  unfold State.hotWrite
  split <;> exact ⟨_, rfl⟩

@[simp] theorem execHotBaseWrite_goesOn (pbc : Nat) (v : Word) (s : State) : goesOn (execHotBaseWrite pbc v s) :=
  State.hotWrite_goesOn ..

@[simp] theorem execHotSlotsWrite_goesOn (pbc : Nat) (v : Word) (s : State) : goesOn (execHotSlotsWrite pbc v s) :=
  State.hotWrite_goesOn ..

@[simp] theorem execSlotlog2Write_goesOn (pbc : Nat) (v : Word) (s : State) : goesOn (execSlotlog2Write pbc v s) := by
  unfold execSlotlog2Write
  simp only []
  split
  · exact ⟨_, rfl⟩
  · exact State.hotWrite_goesOn ..

@[simp] theorem execPbcQueryAnswer_goesOn (core : Nat) (w : CmdWords 1024) (s : State) :
    goesOn (execPbcQueryAnswer core w s) := by
  unfold execPbcQueryAnswer
  simp only []
  (repeat' split) <;> exact ⟨_, rfl⟩

/-! ### Machine/Gather -/

@[simp] theorem execGatherAccept_goesOn (core : Nat) (w : CmdBlock) (s : State) : goesOn (execGatherAccept core w s) := by
  unfold execGatherAccept
  (repeat' split) <;> exact ⟨_, rfl⟩

@[simp] theorem execShardLookup_goesOn (core seq bag shard : Nat) (s : State) :
    goesOn (execShardLookup core seq bag shard s) := by
  unfold execShardLookup
  (repeat' split) <;> exact ⟨_, rfl⟩

@[simp] theorem execPartialCombine_goesOn (core seq : Nat) (w : BagWords) (s : State) :
    goesOn (execPartialCombine core seq w s) := by
  unfold execPartialCombine
  (repeat' split) <;> exact ⟨_, rfl⟩

/-! ### Machine/LatticeCmd -/

@[simp] theorem execLopen_goesOn (o : CfOp) (s : State) : goesOn (execLopen o s) := by
  unfold execLopen
  (repeat' split) <;> exact ⟨_, rfl⟩

@[simp] theorem pushCmd_goesOn (i : Instr) (o : CfOp) (n : Nat) (s : State) : goesOn (pushCmd i o n s) := by
  unfold pushCmd
  (repeat' split) <;> exact ⟨_, rfl⟩

@[simp] theorem closeCmd_goesOn (i : Instr) (o : CfOp) (s : State) : goesOn (closeCmd i o s) := by
  unfold closeCmd
  (repeat' split) <;> exact ⟨_, rfl⟩

/-! ### Machine/Lattice -/

@[simp] theorem execRinit_goesOn (unit region : Nat) (s : State) : goesOn (execRinit unit region s) := by
  unfold execRinit
  simp only []
  (repeat' split) <;> exact ⟨_, rfl⟩

@[simp] theorem execRfree_goesOn (unit region : Nat) (s : State) : goesOn (execRfree unit region s) := by
  unfold execRfree
  (repeat' split) <;> exact ⟨_, rfl⟩

@[simp] theorem execRread_goesOn (unit region : Nat) (s : State) : goesOn (execRread unit region s) := by
  unfold execRread
  simp only []
  (repeat' split) <;> exact ⟨_, rfl⟩

@[simp] theorem execRflush_goesOn (unit region : Nat) (s : State) : goesOn (execRflush unit region s) := by
  unfold execRflush
  (repeat' split) <;> exact ⟨_, rfl⟩

@[simp] theorem execRabort_goesOn (unit region : Nat) (s : State) : goesOn (execRabort unit region s) := by
  unfold execRabort
  (repeat' split) <;> exact ⟨_, rfl⟩

@[simp] theorem execLatticeBadCommand_goesOn (unit : Nat) (op : BitVec 4) (region : Nat) (s : State) :
    goesOn (execLatticeBadCommand unit op region s) := by
  unfold execLatticeBadCommand
  split <;> exact ⟨_, rfl⟩

@[simp] theorem execPairIntake_goesOn (core seq : Nat) (s : State) : goesOn (execPairIntake core seq s) := by
  unfold execPairIntake
  simp only []
  (repeat' split) <;> exact ⟨_, rfl⟩

@[simp] theorem execStreamCommit_goesOn (core seq : Nat) (s : State) : goesOn (execStreamCommit core seq s) := by
  unfold execStreamCommit
  simp only []
  (repeat' split) <;> exact ⟨_, rfl⟩

@[simp] theorem execLatticeRegionCommand_goesOn (core : Nat) (w : CmdWords 1024) (s : State) :
    goesOn (execLatticeRegionCommand core w s) := by
  unfold execLatticeRegionCommand
  (repeat' split) <;> exact ⟨_, rfl⟩

@[simp] theorem execEarlyApply_goesOn (unit region key : Nat) (s : State) : goesOn (execEarlyApply unit region key s) := by
  unfold execEarlyApply
  (repeat' split) <;> exact ⟨_, rfl⟩

@[simp] theorem execBinSpillMove_goesOn (unit region key : Nat) (toSpill : Bool) (s : State) :
    goesOn (execBinSpillMove unit region key toSpill s) := by
  unfold execBinSpillMove
  simp only []
  (repeat' split) <;> exact ⟨_, rfl⟩

/-! ### Machine/Fabric -/

/-- Of what crosses from another module, only an access to memory can miss. -/
theorem State.crossIn_goesOnOrMisses (s : State) (x : Crossing) : goesOnOrMisses (s.crossIn x) := by
  cases x with
  | access key n write copy data => exact execHomeAccess_outside_goesOnOrMisses ..
  | _ => exact .inl ⟨_, rfl⟩

theorem State.openSealed_goesOnOrMisses (s : State) (m lane n : Nat) (epochBit tagOk : Bool) (body : Crossing) :
    goesOnOrMisses (s.openSealed m lane n epochBit tagOk body) := by
  unfold State.openSealed
  simp only []
  split
  · exact .inl ⟨_, rfl⟩
  · split
    · exact .inl ⟨_, rfl⟩
    · exact State.crossIn_goesOnOrMisses ..

/-- A delivery of an exchange makes no access to memory. -/
theorem State.openSealed_deliver_goesOn (s : State) (m lane n : Nat) (epochBit tagOk : Bool) (core w off k : Nat)
    (data : BitVec 2048) : goesOn (s.openSealed m lane n epochBit tagOk (.deliver core w off k data)) := by
  unfold State.openSealed
  simp only []
  split
  · exact ⟨_, rfl⟩
  · split <;> exact ⟨_, rfl⟩

@[simp] theorem execRackModuleLoss_goesOn (m : Nat) (s : State) : goesOn (execRackModuleLoss m s) := by
  unfold execRackModuleLoss
  (repeat' split) <;> exact ⟨_, rfl⟩

/-! ### Machine/Exchange -/

@[simp] theorem execCollectiveAccept_goesOn (core : Nat) (w : CmdBlock) (s : State) :
    goesOn (execCollectiveAccept core w s) := by
  unfold execCollectiveAccept
  (repeat' split) <;> exact ⟨_, rfl⟩

@[simp] theorem execExchangeDelivery_goesOn (x : Delivery) (s : State) : goesOn (execExchangeDelivery x s) := by
  cases x with
  | own core seq rank off n words =>
    simp only [execExchangeDelivery]
    (repeat' split) <;> exact ⟨_, rfl⟩
  | sealed => exact State.openSealed_deliver_goesOn ..

theorem execUetPacketReceive_goesOnOrMisses (p : UetPacket) (s : State) : goesOnOrMisses (execUetPacketReceive p s) := by
  unfold execUetPacketReceive
  split
  · exact .inl ⟨_, rfl⟩
  · split
    · exact .inl ⟨_, rfl⟩
    · simp only []
      split
      · exact goesOnOrMisses_andThen (State.openSealed_goesOnOrMisses ..) fun _ => ⟨_, rfl⟩
      · exact State.openSealed_goesOnOrMisses ..

@[simp] theorem execUetRetransmit_goesOn (peer core : Nat) (w : CmdPacket) (s : State) :
    goesOn (execUetRetransmit peer core w s) := by
  unfold execUetRetransmit
  simp only []
  (repeat' split) <;> exact ⟨_, rfl⟩

/-! ### Machine/Dcu -/

@[simp] theorem execBind_goesOn (die slot : Nat) (addr : BitVec 52) (s : State) : goesOn (execBind die slot addr s) := by
  unfold execBind
  simp only []
  (repeat' split) <;> exact ⟨_, rfl⟩

@[simp] theorem execUnbind_goesOn (die : Nat) (w : SlotAddress) (s : State) : goesOn (execUnbind die w s) := by
  unfold execUnbind
  (repeat' split) <;> exact ⟨_, rfl⟩

@[simp] theorem execDoorbell_goesOn (die slot : Nat) (tail region : BitVec 32) (s : State) :
    goesOn (execDoorbell die slot tail region s) := by
  unfold execDoorbell
  simp only []
  (repeat' split) <;> exact ⟨_, rfl⟩

theorem State.command_goesOn (s : State) (die : Nat) (f : State → State) : goesOn (s.command die f) := by
  unfold State.command
  split <;> exact ⟨_, rfl⟩

@[simp] theorem execCancel_goesOn (die : Nat) (id : BitVec 32) (s : State) : goesOn (execCancel die id s) := State.command_goesOn ..

@[simp] theorem execEnable_goesOn (die : Nat) (id : BitVec 32) (s : State) : goesOn (execEnable die id s) := State.command_goesOn ..

@[simp] theorem execFlushImage_goesOn (die : Nat) (s : State) : goesOn (execFlushImage die s) := State.command_goesOn ..

@[simp] theorem execDcuBadCommand_goesOn (die : Nat) (op : BitVec 8) (s : State) : goesOn (execDcuBadCommand die op s) := State.command_goesOn ..

@[simp] theorem execJobCardRead_goesOn (die slot : Nat) (s : State) : goesOn (execJobCardRead die slot s) := by
  unfold execJobCardRead
  simp only []
  (repeat' split) <;> exact ⟨_, rfl⟩

@[simp] theorem execBudgetPeriodBoundary_goesOn (s : State) : goesOn (execBudgetPeriodBoundary s) := by
  unfold execBudgetPeriodBoundary
  (repeat' split) <;> exact ⟨_, rfl⟩

@[simp] theorem execPinnedChargeReport_goesOn (die : Nat) (s : State) : goesOn (execPinnedChargeReport die s) := by
  unfold execPinnedChargeReport
  (repeat' split) <;> exact ⟨_, rfl⟩

/-! ### Machine/Dispatcher -/

@[simp] theorem execDispatchDecision_goesOn (die : Nat) (s : State) : goesOn (execDispatchDecision die s) := by
  unfold execDispatchDecision
  (repeat' split) <;> exact ⟨_, rfl⟩

@[simp] theorem execEvict_goesOn (die : Nat) (id : BitVec 32) (s : State) : goesOn (execEvict die id s) := State.command_goesOn ..

/-! ### Machine/Fetch -/

@[simp] theorem execLoopSkip_goesOn (s : State) : goesOn (execLoopSkip s) := by
  unfold execLoopSkip
  simp only []
  (repeat' split) <;> exact ⟨_, rfl⟩

/-! ### Machine/VectorB -/

@[simp] theorem convert_goesOn (o : VOp) (f : Timed → ElemTy → Nat → EOut) (s : State) : goesOn (convert o f s) := by
  unfold convert
  (repeat' split) <;> exact ⟨_, rfl⟩

/-! ### Machine/Sync -/

@[simp] theorem execWait_goesOn (mask : BitVec 32) (s : State) : goesOn (execWait mask s) := by
  unfold execWait
  (repeat' split) <;> exact ⟨_, rfl⟩

@[simp] theorem execWaitAny_goesOn (mask : BitVec 32) (s : State) : goesOn (execWaitAny mask s) := by
  unfold execWaitAny
  (repeat' split) <;> exact ⟨_, rfl⟩

@[simp] theorem execWaitC_goesOn (mask : BitVec 32) (s : State) : goesOn (execWaitC mask s) := by
  unfold execWaitC
  (repeat' split) <;> exact ⟨_, rfl⟩

@[simp] theorem execEndTask_goesOn (s : State) : goesOn (execEndTask s) := by
  unfold execEndTask
  simp only []
  (repeat' split) <;> exact ⟨_, rfl⟩

/-! ### Machine/Slots -/

theorem slotSync_goesOn (i : Instr) (s : State) : goesOn (slotSync i s) := by
  cases i
  case wait => exact execWait_goesOn ..
  case waitAny => exact execWaitAny_goesOn ..
  case waitC => exact execWaitC_goesOn ..
  all_goals exact ⟨_, rfl⟩

theorem slotBranch_goesOn (i : Instr) (s : State) : goesOn (slotBranch i s) := by
  cases i
  case jmp | beqz | bnez | bltz | bgez | jmpr | bmt | bmf | call | callr | ret | rspush | rspop | loop => exact State.trapOr_goesOn ..
  all_goals exact ⟨_, rfl⟩

theorem slotScalar_goesOn (i : Instr) (s : State) : goesOn (slotScalar i s) := by
  cases i
  case ldsN8 | ldsI8 | ldsN16 | ldsI16 | ldsN32 | ldsI32 | ldsI64 | stsN8 | stsN16 | stsN32 | stsN64 =>
    exact State.trapOr_goesOn ..
  all_goals exact ⟨_, rfl⟩

theorem slotVectorA_goesOn (i : Instr) (s : State) : goesOn (slotVectorA i s) := by
  cases i
  case vadd | vsub | vmul | vmin | vmax | vabs | vneg | vrsum | vrmin | vrmax => exact goesOn_ite ⟨_, rfl⟩ ⟨_, rfl⟩
  all_goals exact ⟨_, rfl⟩

theorem slotVectorB_goesOn (i : Instr) (s : State) : goesOn (slotVectorB i s) := by
  cases i
  case vcvt | vcvtw | vcvts | vunpk4 => simp only [slotVectorB, execVcvt, execVcvtw, execVcvts, execVunpk4, convert_goesOn]
  case vext | vins | bstrd | scsel => exact State.trapOr_goesOn ..
  all_goals exact ⟨_, rfl⟩

theorem slotArray_goesOn (i : Instr) (s : State) : goesOn (slotArray i s) := by
  cases i
  all_goals exact ⟨_, rfl⟩

theorem slotCopy_goesOn (i : Instr) (s : State) : goesOn (slotCopy i s) := by
  cases i
  case tld | tst | tldm | tldbp | strem | stremo => exact tileCmd_goesOn ..
  case wcopy => exact execWcopy_goesOn ..
  case wfill => exact execWfill_goesOn ..
  case wdecl | wfree | dset => simp only [slotCopy, execWdecl, execWfree, execDset, passThrough_goesOn]
  case bclose => exact execBclose_goesOn ..
  case bwait => exact execBwait_goesOn ..
  case vld | vldb | vst | vstm => exact State.trapOr_goesOn ..
  case pharm => exact execPharm_goesOn ..
  case lopen => exact execLopen_goesOn ..
  case lpush | lpushs => exact pushCmd_goesOn ..
  case lclose | labort => exact closeCmd_goesOn ..
  case xsend | pwait => simp only [slotCopy, execXsend, execPwait, issueFlagged_goesOn]
  case phreg | phdrop | pharr | phwait | phrd | swld | swst | aadd | amin | amax | aand | aor | axor | axchg | acas | afaddF32 |
      gbag | gbagw | grows | gpref | gstat | gcntrd | gcntclr | gskrd | lapply | lstep | lquery | lstat | lspill | xa2a |
      xbkt | xpool | xstat | pcnt | tbarr | tstat | tepoch | tlog => exact issueFlagged_goesOn ..
  all_goals exact ⟨_, rfl⟩

/-! ### Machine/Issue -/

theorem runSlot_goesOn (n : SlotNo) {f : Instr → State → Out} (hf : ∀ i t, goesOn (f i t)) (x : Option Instr) (s : State) :
    goesOn (runSlot n f x s) := by
  cases x with
  | none => exact ⟨_, rfl⟩
  | some i => exact hf i _

theorem runSlots_goesOn (b : Bundle) (s : State) : goesOn (runSlots b s) :=
  goesOn_andThen (runSlot_goesOn _ slotSync_goesOn ..) fun _ =>
  goesOn_andThen (runSlot_goesOn _ slotBranch_goesOn ..) fun _ =>
  goesOn_andThen (runSlot_goesOn _ slotScalar_goesOn ..) fun _ =>
  goesOn_andThen (runSlot_goesOn _ slotScalar_goesOn ..) fun _ =>
  goesOn_andThen (runSlot_goesOn _ slotVectorA_goesOn ..) fun _ =>
  goesOn_andThen (runSlot_goesOn _ slotVectorB_goesOn ..) fun _ =>
  goesOn_andThen (runSlot_goesOn _ slotArray_goesOn ..) fun _ =>
  goesOn_andThen (runSlot_goesOn _ slotArray_goesOn ..) fun _ =>
  goesOn_andThen (runSlot_goesOn _ slotCopy_goesOn ..) fun _ => ⟨_, rfl⟩

theorem State.issue_goesOn (s : State) (b : Bundle) (w : BundleBits) : goesOn (s.issue b w) :=
  goesOn_andThen (runSlots_goesOn ..) fun t => by
    simp only []
    split
    · exact execEndTask_goesOn _
    · exact ⟨_, rfl⟩

@[simp] theorem execHeadOfIssue_goesOn (s : State) : goesOn (execHeadOfIssue s) := by
  unfold execHeadOfIssue
  split
  case h_5 => split <;> exact ⟨_, rfl⟩
  case h_6 => exact State.issue_goesOn ..
  all_goals exact ⟨_, rfl⟩

@[simp] theorem execTlbWalkComplete_goesOn (core : Nat) (s : State) : goesOn (execTlbWalkComplete core s) := by
  unfold execTlbWalkComplete
  (repeat' split) <;> exact ⟨_, rfl⟩

@[simp] theorem execReplay_goesOn (die : Nat) (id : BitVec 32) (s : State) : goesOn (execReplay die id s) := State.command_goesOn ..

/-! ### Machine/Launch -/

@[simp] theorem execDictionaryLoadComplete_goesOn (core : Nat) (s : State) : goesOn (execDictionaryLoadComplete core s) := by
  unfold execDictionaryLoadComplete
  simp only []
  (repeat' split) <;> exact ⟨_, rfl⟩

/-! ### Machine/Context -/

@[simp] theorem execEvictionBoundary_goesOn (core : Nat) (s : State) : goesOn (execEvictionBoundary core s) := by
  unfold execEvictionBoundary
  (repeat' split) <;> exact ⟨_, rfl⟩

@[simp] theorem execContextSave_goesOn (core : Nat) (s : State) : goesOn (execContextSave core s) := by
  unfold execContextSave
  (repeat' split) <;> exact ⟨_, rfl⟩

@[simp] theorem execSaveComplete_goesOn (core : Nat) (s : State) : goesOn (execSaveComplete core s) := by
  unfold execSaveComplete
  (repeat' split) <;> exact ⟨_, rfl⟩

@[simp] theorem execContextRestore_goesOn (core : Nat) (s : State) : goesOn (execContextRestore core s) := by
  unfold execContextRestore
  (repeat' split) <;> exact ⟨_, rfl⟩

/-! ### Machine/Ring -/

theorem execStationSlotReceive_own_goesOn (core seq req : Nat) (nack : Bool) (s : State) :
    goesOn (execStationSlotReceive (.own core seq req nack) s) := by
  unfold execStationSlotReceive
  simp only []
  (repeat' split) <;> exact ⟨_, rfl⟩

theorem execStationSlotReceive_goesOnOrMisses (x : SlotArrival) (s : State) : goesOnOrMisses (execStationSlotReceive x s) := by
  cases x with
  | own core seq req nack => exact .inl (execStationSlotReceive_own_goesOn ..)
  | sealed =>
    unfold execStationSlotReceive
    simp only []
    split
    · exact State.openSealed_goesOnOrMisses ..
    · exact .inl ⟨_, rfl⟩

@[simp] theorem execNackBackoffExpiry_goesOn (core seq req : Nat) (s : State) :
    goesOn (execNackBackoffExpiry core seq req s) := by
  unfold execNackBackoffExpiry
  (repeat' split) <;> exact ⟨_, rfl⟩

/-! ### Machine/Trust -/

@[simp] theorem execBarrierArrive_goesOn (s : State) : goesOn (execBarrierArrive s) := by
  unfold execBarrierArrive
  simp only []
  (repeat' split) <;> exact ⟨_, rfl⟩

@[simp] theorem execTrustEvict_goesOn (member : Nat) (s : State) : goesOn (execTrustEvict member s) := by
  unfold execTrustEvict
  simp only []
  (repeat' split) <;> exact ⟨_, rfl⟩

@[simp] theorem execEvictionNotice_goesOn (source member : Nat) (s : State) : goesOn (execEvictionNotice source member s) := by
  unfold execEvictionNotice
  simp only []
  (repeat' split) <;> exact ⟨_, rfl⟩

@[simp] theorem execAttest_goesOn (member : Nat) (s : State) : goesOn (execAttest member s) := by
  unfold execAttest
  simp only []
  (repeat' split) <;> exact ⟨_, rfl⟩

@[simp] theorem execRemove_goesOn (member : Nat) (s : State) : goesOn (execRemove member s) := by
  unfold execRemove
  simp only []
  (repeat' split) <;> exact ⟨_, rfl⟩

@[simp] theorem execBarrier_goesOn (s : State) : goesOn (execBarrier s) := by
  unfold execBarrier
  simp only []
  (repeat' split) <;> exact ⟨_, rfl⟩

@[simp] theorem execLogclr_goesOn (s : State) : goesOn (execLogclr s) := by
  unfold execLogclr
  (repeat' split) <;> exact ⟨_, rfl⟩

@[simp] theorem execTrustBadCommand_goesOn (op : BitVec 4) (s : State) : goesOn (execTrustBadCommand op s) := by
  unfold execTrustBadCommand
  (repeat' split) <;> exact ⟨_, rfl⟩

@[simp] theorem execSelfWrite_goesOn (v : Word) (s : State) : goesOn (execSelfWrite v s) := by
  unfold execSelfWrite
  (repeat' split) <;> exact ⟨_, rfl⟩

@[simp] theorem execMemberEntryWrite_goesOn (i : Nat) (v : Word) (s : State) : goesOn (execMemberEntryWrite i v s) := by
  unfold execMemberEntryWrite
  simp only []
  (repeat' split) <;> exact ⟨_, rfl⟩

@[simp] theorem execReattestationTimer_goesOn (member : Nat) (s : State) : goesOn (execReattestationTimer member s) := by
  unfold execReattestationTimer
  simp only []
  (repeat' split) <;> exact ⟨_, rfl⟩

@[simp] theorem execTrustCommandAct_goesOn (core : Nat) (w : CmdWords 1024) (s : State) :
    goesOn (execTrustCommandAct core w s) := by
  unfold execTrustCommandAct
  (repeat' split) <;> exact ⟨_, rfl⟩

/-! ### Machine/Retire -/

@[simp] theorem execTaskDrainComplete_goesOn (core : Nat) (s : State) : goesOn (execTaskDrainComplete core s) := by
  unfold execTaskDrainComplete
  (repeat' split) <;> exact ⟨_, rfl⟩

@[simp] theorem execCompletionRecord_goesOn (die slot card : Nat) (s : State) :
    goesOn (execCompletionRecord die slot card s) := by
  unfold execCompletionRecord
  simp only []
  (repeat' split) <;> exact ⟨_, rfl⟩

/-! ### Machine/FaultLog -/

@[simp] theorem execFaultLogEntry_goesOn (die : Nat) (s : State) : goesOn (execFaultLogEntry die s) := by
  unfold execFaultLogEntry
  simp only []
  (repeat' split) <;> exact ⟨_, rfl⟩

@[simp] theorem execFlogBaseWrite_goesOn (die : Nat) (v : Word) (s : State) : goesOn (execFlogBaseWrite die v s) := by
  unfold execFlogBaseWrite
  simp only []
  (repeat' split) <;> exact ⟨_, rfl⟩

@[simp] theorem execFlogLog2Write_goesOn (die : Nat) (v : Word) (s : State) : goesOn (execFlogLog2Write die v s) := by
  unfold execFlogLog2Write
  simp only []
  (repeat' split) <;> exact ⟨_, rfl⟩

@[simp] theorem execFlogEnWrite_goesOn (die : Nat) (v : Word) (s : State) : goesOn (execFlogEnWrite die v s) := by
  unfold execFlogEnWrite
  simp only []
  (repeat' split) <;> exact ⟨_, rfl⟩

/-! ### Machine/Health -/

@[simp] theorem execPatrolScrub_goesOn (granule : Nat) (e : ScrubFinding) (s : State) :
    goesOn (execPatrolScrub granule e s) := by
  unfold execPatrolScrub
  (repeat' split) <;> exact ⟨_, rfl⟩

@[simp] theorem execMemoryError_goesOn (x : MemErrorSite) (s : State) : goesOn (execMemoryError x s) := by
  unfold execMemoryError
  (repeat' split) <;> exact ⟨_, rfl⟩

@[simp] theorem execPowerControlTick_goesOn (x : SensorReadings) (s : State) : goesOn (execPowerControlTick x s) := by
  unfold execPowerControlTick
  simp only []
  (repeat' split) <;> exact ⟨_, rfl⟩

@[simp] theorem execModuleTrip_goesOn (x : SensorReadings) (s : State) : goesOn (execModuleTrip x s) := by
  unfold execModuleTrip
  (repeat' split) <;> exact ⟨_, rfl⟩

/-! ### Machine/Start -/

@[simp] theorem execHashmWrite_goesOn (stack i : Nat) (v : Word) (s : State) : goesOn (execHashmWrite stack i v s) := by
  unfold execHashmWrite
  (repeat' split) <;> exact ⟨_, rfl⟩

@[simp] theorem execColdStart_goesOn (x : StartChecks) (s : State) : goesOn (execColdStart x s) := by
  unfold execColdStart
  (repeat' split) <;> exact ⟨_, rfl⟩

@[simp] theorem execWarmStart_goesOn (x : StartChecks) (s : State) : goesOn (execWarmStart x s) := by
  unfold execWarmStart
  (repeat' split) <;> exact ⟨_, rfl⟩

@[simp] theorem execStartOpInvalid_goesOn (op : BitVec 2) (s : State) : goesOn (execStartOpInvalid op s) := by
  unfold execStartOpInvalid
  (repeat' split) <;> exact ⟨_, rfl⟩

/-! ### Machine/Registers -/

@[simp] theorem dcuOp_goesOn (n : Nat) (v : Word) (s : State) : goesOn (dcuOp n v s) := by
  unfold dcuOp
  split <;> simp

@[simp] theorem vertexOp_goesOn (n : Nat) (v : Word) (s : State) : goesOn (vertexOp n v s) := by
  unfold vertexOp
  split <;> simp

@[simp] theorem pbcOp_goesOn (n : Nat) (v : Word) (s : State) : goesOn (pbcOp n v s) := by
  unfold pbcOp
  split <;> simp

@[simp] theorem latticeOp_goesOn (u : Nat) (v : Word) (s : State) : goesOn (latticeOp u v s) := by
  unfold latticeOp
  split <;> simp

@[simp] theorem trustOp_goesOn (v : Word) (s : State) : goesOn (trustOp v s) := by
  unfold trustOp
  split <;> simp

@[simp] theorem writeDcu_goesOn (n off : Nat) (v : Word) (s : State) : goesOn (writeDcu n off v s) := by
  unfold writeDcu
  (repeat' split) <;> simp [execPeriodWrite, execFlogHeadWrite]

@[simp] theorem writeHbm_goesOn (n off : Nat) (v : Word) (s : State) : goesOn (writeHbm n off v s) := by
  unfold writeHbm
  (repeat' split) <;> simp [execCntclr]

@[simp] theorem runVertexCommand_goesOn (n : Nat) (s : State) : goesOn (runVertexCommand n s) := by
  unfold runVertexCommand
  split
  · exact ⟨_, rfl⟩
  · exact goesOn_andThen (vertexOp_goesOn ..) fun _ => ⟨_, rfl⟩

@[simp] theorem runLatticeCommand_goesOn (u : Nat) (s : State) : goesOn (runLatticeCommand u s) := by
  unfold runLatticeCommand
  split
  · exact ⟨_, rfl⟩
  · exact goesOn_andThen (latticeOp_goesOn ..) fun _ => ⟨_, rfl⟩

@[simp] theorem writeVertex_goesOn (n off : Nat) (v : Word) (s : State) : goesOn (writeVertex n off v s) := by
  unfold writeVertex
  (repeat' split) <;> simp

@[simp] theorem writeHotWord_goesOn (n : Nat) (v : Word) (s : State) : goesOn (writeHotWord n v s) := by
  unfold writeHotWord
  simp only []
  split
  · exact ⟨_, rfl⟩
  · exact State.hotWrite_goesOn ..

@[simp] theorem writePbc_goesOn (n off : Nat) (v : Word) (s : State) : goesOn (writePbc n off v s) := by
  unfold writePbc
  (repeat' split) <;> simp [execMigLimitWrite]

@[simp] theorem writeLattice_goesOn (u off : Nat) (v : Word) (s : State) : goesOn (writeLattice u off v s) := by
  unfold writeLattice
  (repeat' split) <;> exact ⟨_, rfl⟩

@[simp] theorem writeExchange_goesOn (off : Nat) (v : Word) (s : State) : goesOn (writeExchange off v s) := by
  unfold writeExchange
  (repeat' split) <;> exact ⟨_, rfl⟩

@[simp] theorem writeTrust_goesOn (off : Nat) (v : Word) (s : State) : goesOn (writeTrust off v s) := by
  unfold writeTrust
  (repeat' split) <;> simp

@[simp] theorem writeControl_goesOn (off : Nat) (v : Word) (s : State) : goesOn (writeControl off v s) := by
  unfold writeControl
  (repeat' split) <;> simp [execPwrcapWrite]

@[simp] theorem execRegisterWrite_goesOn (off : Nat) (v : Word) (s : State) : goesOn (execRegisterWrite off v s) := by
  unfold execRegisterWrite
  (repeat' split) <;> simp

/-! ### Machine/Spdm -/

theorem State.onConn_goesOn (s : State) (w : Requester) (stage : Nat) (f : Spdm → Spdm) : goesOn (s.onConn w stage f) := by
  unfold State.onConn
  simp only []
  split <;> exact ⟨_, rfl⟩

@[simp] theorem execGetVersion_goesOn (w : Requester) (s : State) : goesOn (execGetVersion w s) := State.onConn_goesOn ..

@[simp] theorem execGetCapabilities_goesOn (w : Requester) (s : State) : goesOn (execGetCapabilities w s) :=
  State.onConn_goesOn ..

@[simp] theorem execNegotiateAlgorithms_goesOn (w : Requester) (set : Algorithms) (s : State) : goesOn (execNegotiateAlgorithms w set s) :=
  State.onConn_goesOn ..

@[simp] theorem execGetDigests_goesOn (w : Requester) (s : State) : goesOn (execGetDigests w s) := State.onConn_goesOn ..

@[simp] theorem execGetCertificate_goesOn (w : Requester) (slot : Nat) (s : State) : goesOn (execGetCertificate w slot s) :=
  goesOn_ite ⟨_, rfl⟩ (State.onConn_goesOn ..)

@[simp] theorem execChallenge_goesOn (w : Requester) (slot : Nat) (s : State) : goesOn (execChallenge w slot s) :=
  goesOn_ite ⟨_, rfl⟩ (State.onConn_goesOn ..)

@[simp] theorem execGetMeasurements_goesOn (w : Requester) (s : State) : goesOn (execGetMeasurements w s) :=
  State.onConn_goesOn ..

@[simp] theorem execKeyExchange_goesOn (w : Requester) (ok : Bool) (s : State) : goesOn (execKeyExchange w ok s) := by
  unfold execKeyExchange
  simp only []
  (repeat' split) <;> exact ⟨_, rfl⟩

@[simp] theorem execFinish_goesOn (w : Requester) (found : Proofs) (s : State) : goesOn (execFinish w found s) := by
  unfold execFinish
  simp only []
  (repeat' split) <;> exact ⟨_, rfl⟩

@[simp] theorem execKeyUpdate_goesOn (w : Requester) (s : State) : goesOn (execKeyUpdate w s) := by
  unfold execKeyUpdate
  simp only []
  (repeat' split) <;> exact ⟨_, rfl⟩

@[simp] theorem execEndSession_goesOn (w : Requester) (s : State) : goesOn (execEndSession w s) := by
  unfold execEndSession
  simp only []
  (repeat' split) <;> exact ⟨_, rfl⟩

@[simp] theorem execChunkSend_goesOn (w : Requester) (chunk : Nat) (last : Bool) (s : State) : goesOn (execChunkSend w chunk last s) :=
  State.onConn_goesOn ..

@[simp] theorem execChunkGet_goesOn (w : Requester) (chunk : Nat) (s : State) : goesOn (execChunkGet w chunk s) :=
  State.onConn_goesOn ..

@[simp] theorem execSlhDsaSignatureRequest_goesOn (w : Requester) (s : State) : goesOn (execSlhDsaSignatureRequest w s) :=
  State.onConn_goesOn ..

@[simp] theorem execSpdmResponse_goesOn (member : Nat) (r : SpdmAnswer) (s : State) : goesOn (execSpdmResponse member r s) := by
  unfold execSpdmResponse
  simp only []
  (repeat' split) <;> exact ⟨_, rfl⟩

/-! ### Machine/Cycle -/

theorem State.endOfCycle_goesOn (s : State) : goesOn s.endOfCycle := ⟨_, rfl⟩

theorem State.runCycle_goesOn (s : State) : goesOn s.runCycle := by
  unfold State.runCycle
  split
  · exact execEvictionBoundary_goesOn ..
  · split
    · exact goesOn_andThen (State.issue_goesOn ..) State.endOfCycle_goesOn
    · exact goesOn_andThen (execLoopSkip_goesOn _) State.endOfCycle_goesOn
    all_goals exact goesOn_andThen (execHeadOfIssue_goesOn _) fun _ => ⟨_, rfl⟩

theorem State.frozenCycle_goesOn (s : State) (k : Task) : goesOn (s.frozenCycle k) := by
  unfold State.frozenCycle
  split
  · exact execEvictionBoundary_goesOn ..
  · exact goesOn_ite ⟨_, rfl⟩ ⟨_, rfl⟩

theorem State.phaseCycle_goesOn (s : State) (k : Task) : goesOn (s.phaseCycle k) := by
  unfold State.phaseCycle
  cases k.phase with
  | running => exact State.runCycle_goesOn _
  | draining => exact State.endOfCycle_goesOn _
  | faultHold | evicting => exact State.frozenCycle_goesOn ..
  | loading | failed => exact ⟨_, rfl⟩

theorem State.coreCycle_goesOn (s : State) : goesOn s.coreCycle := by
  unfold State.coreCycle
  split
  · exact ⟨_, rfl⟩
  · exact List.foldlRecOn (motive := goesOn) _ _ (State.phaseCycle_goesOn ..) fun o ho b _ =>
      goesOn_andThen ho fun _ => execBatchComplete_goesOn ..

theorem State.turn_goesOn (s : State) : goesOn s.turn := goesOn_andThen s.coreCycle_goesOn fun _ => ⟨_, rfl⟩

end Sys2Proof.Machine
end

section
/-!
PROOF of O21: no instruction stops but at an access from outside that misses, and a step without input never does.
-/

namespace Sys2Proof.Machine

theorem slotMeaning_goesOn (k : Slot) (i : Instr) (s : State) : goesOn (slotMeaning k i s) := by
  cases k with
  | sync => exact slotSync_goesOn i s
  | branch => exact slotBranch_goesOn i s
  | scalar => exact slotScalar_goesOn i s
  | vectorA => exact slotVectorA_goesOn i s
  | vectorB => exact slotVectorB_goesOn i s
  | matrix => exact slotArray_goesOn i s
  | transpose => exact slotArray_goesOn i s
  | copy => exact slotCopy_goesOn i s

/-- The inputs whose access from outside can miss. -/
def mayMiss : Instr → Bool
  | .homeAccess _ | .stationSlotReceive _ | .uetPacketReceive _ => true
  | _ => false

theorem exec_goesOn_of_slot_none {i : Instr} (h : i.slot? = none) (hm : mayMiss i = false) (s : State) : goesOn (exec i s) := by
  cases i <;> cases h <;> cases hm <;> simp [exec, execResultLanding, execAccumulateLanding, execDrainCombine, execIdleExpiry,
    State.timedNext, execPeriodWrite, execFlogHeadWrite, execCntclr, execMigLimitWrite, execRackModuleJoin, execPortLinkChange,
    execNrankWrite, execHeartbeat, execBarrierArrival, execUnsupportedRequest, execPowerOn, execSupplyLoss, execPwrcapWrite]

theorem exec_goesOnOrMisses (i : Instr) (s : State) : goesOnOrMisses (exec i s) := by
  cases h : i.slot? with
  | some k => exact .inl (exec_eq_slotMeaning h s ▸ slotMeaning_goesOn k i s)
  | none =>
    cases hm : mayMiss i with
    | false => exact .inl (exec_goesOn_of_slot_none h hm s)
    | true =>
      unfold mayMiss at hm
      split at hm
      · exact execHomeAccess_goesOnOrMisses ..
      · exact execStationSlotReceive_goesOnOrMisses ..
      · exact execUetPacketReceive_goesOnOrMisses ..
      · cases hm

/-- What the module does of itself always goes on. -/
theorem DeviceStep.run_goesOn (x : DeviceStep) (s : State) : goesOn (x.run s) := by
  cases x <;> simp [DeviceStep.run, execStationSlotReceive_own_goesOn]

theorem State.act_goesOnOrMisses (s : State) (c : Choice) : goesOnOrMisses (s.act exec c) := by
  cases c with
  | input i rest =>
    rw [State.act]
    split
    · exact exec_goesOnOrMisses ..
    · exact .inl ⟨_, rfl⟩
  | now x => exact .inl (x.run_goesOn _)
  | pick x => exact .inl (x.run_goesOn _)
  | cycle drawn => exact .inl (State.turn_goesOn _)

/-- With no input waiting, the choice is a step of the module itself or a cycle. -/
theorem State.act_goesOn_of_idle {s : State} (h : s.agenda = []) : goesOn (s.act exec s.choice) := by
  simp only [State.choice, h]
  split
  · exact DeviceStep.run_goesOn ..
  · unfold State.pickOf
    split
    · exact State.turn_goesOn _
    · split
      · exact DeviceStep.run_goesOn ..
      · exact State.turn_goesOn _

/-- Settles O21: one lemma per meaning; the sweep that follows a step is no part of its outcome's kind. -/
theorem stepGoesOn : Obligations.StepGoesOn :=
  ⟨exec_goesOnOrMisses, fun s => goesOnOrMisses_andThen (s.act_goesOnOrMisses s.choice) fun _ => ⟨_, rfl⟩,
    fun _ h => goesOn_andThen (State.act_goesOn_of_idle h) fun _ => ⟨_, rfl⟩,
    fun _ _ _ wr copy v h => homeAccess_missing h wr copy v⟩

end Sys2Proof.Machine
end

section
/-!
SUPPORT. What the encoder of a slot gives, its decoder reads back (R113, R116-R126): a field of a concatenation is one of its
parts, the raw reading of an encoding is the instruction, and the fields of a bundle are the encodings of its slots.
-/

namespace Sys2Proof

open BitVec

/-! ### One slot's field -/

/-- An encoding that reads as a well-formed instruction is no NOP, so its slot holds that instruction. -/
theorem slotOf_of_read {n : Nat} {s : Slot} {read : BitVec n → Option Instr} {w : BitVec n} {i : Instr}
    (h0 : read 0 = none) (h : read w = some i) (hwf : i.wf = true) : slotOf s read w = .ok (some i) := by
  have hw : w ≠ 0 := fun e => by rw [e, h0] at h; cases h
  simp only [slotOf, if_neg hw, h, hwf, if_true]

theorem wf_of_slotOf {n : Nat} {s : Slot} {read : BitVec n → Option Instr} {w : BitVec n} {i : Instr}
    (h : slotOf s read w = .ok (some i)) : i.wf = true := by
  unfold slotOf at h
  split_ifs at h
  · cases h
  · split at h
    · cases h
    · split_ifs at h
      cases h
      assumption

/-! ### The formats of R121 and R126 -/

theorem ElemTy.ofCode_code (t : ElemTy) : ElemTy.ofCode t.code = some t := by cases t <;> rfl

theorem VOp.read_word (op : BitVec 8) (o : VOp) : VOp.read (o.word op) = some o := by
  simp (disch := decide) only [VOp.read, VOp.word, extractLsb'_append_eq_of_add_le, extractLsb'_append_eq_of_le, Nat.reduceSub,
    extractLsb'_eq_self, ElemTy.ofCode_code, bitAt, getLsbD_append, Nat.reduceLT, if_true, if_false]
  simp

theorem VOp.word_opcode (op : BitVec 8) (o : VOp) : (o.word op).extractLsb' 56 8 = op := by
  simp (disch := decide) only [VOp.word, extractLsb'_append_eq_of_le, Nat.reduceSub, extractLsb'_eq_self]

theorem CaOp.read_word (op : BitVec 8) (o : CaOp) : CaOp.read (o.word op) = o := by
  simp (disch := decide) only [CaOp.read, CaOp.word, extractLsb'_append_eq_of_add_le, extractLsb'_append_eq_of_le, Nat.reduceSub,
    extractLsb'_eq_self]

theorem CaOp.word_opcode (op : BitVec 8) (o : CaOp) : (o.word op).extractLsb' 40 8 = op := by
  simp (disch := decide) only [CaOp.word, extractLsb'_append_eq_of_le, Nat.reduceSub, extractLsb'_eq_self]

theorem CfOp.read_word (op : BitVec 8) (o : CfOp) : CfOp.read (o.word op) = o := by
  simp (disch := decide) only [CfOp.read, CfOp.word, extractLsb'_append_eq_of_add_le, extractLsb'_append_eq_of_le, Nat.reduceSub,
    extractLsb'_eq_self]

theorem CfOp.word_opcode (op : BitVec 8) (o : CfOp) : (o.word op).extractLsb' 40 8 = op := by
  simp (disch := decide) only [CfOp.word, extractLsb'_append_eq_of_le, Nat.reduceSub, extractLsb'_eq_self]

theorem CvOp.read_word (op : BitVec 8) (o : CvOp) : CvOp.read (o.word op) = o := by
  simp (disch := decide) only [CvOp.read, CvOp.word, extractLsb'_append_eq_of_add_le, extractLsb'_append_eq_of_le, Nat.reduceSub,
    extractLsb'_eq_self, bitAt, getLsbD_append, Nat.reduceLT, if_true, if_false]
  simp

theorem CvOp.word_opcode (op : BitVec 8) (o : CvOp) : (o.word op).extractLsb' 40 8 = op := by
  simp (disch := decide) only [CvOp.word, extractLsb'_append_eq_of_le, Nat.reduceSub, extractLsb'_eq_self]

/-! ### The raw reading of an encoding -/

theorem readSync_encodeSync {i : Instr} (h : i.slot? = some .sync) : readSync (encodeSync i) = some i := by
  cases i <;> cases h <;> unfold encodeSync <;>
    simp (disch := decide) only [readSync, extractLsb'_append_eq_of_add_le, extractLsb'_append_eq_of_le, Nat.reduceSub,
      extractLsb'_eq_self, toNat_ofNat, Nat.reducePow, Nat.reduceMod]

theorem readBranch_encodeBranch {i : Instr} (h : i.slot? = some .branch) : readBranch (encodeBranch i) = some i := by
  cases i <;> cases h <;> unfold encodeBranch <;>
    simp (disch := decide) only [readBranch, extractLsb'_append_eq_of_add_le, extractLsb'_append_eq_of_le, Nat.reduceSub,
      extractLsb'_eq_self, toNat_ofNat, Nat.reducePow, Nat.reduceMod, extractLsb'_zero, ofNat_eq_ofNat, if_true]

theorem readScalar_encodeScalar {i : Instr} (h : i.slot? = some .scalar) : readScalar (encodeScalar i) = some i := by
  cases i <;> cases h <;> unfold encodeScalar <;>
    simp (disch := decide) only [readScalar, extractLsb'_append_eq_of_add_le, extractLsb'_append_eq_of_le, Nat.reduceSub,
      extractLsb'_eq_self, toNat_ofNat, Nat.reducePow, Nat.reduceMod, extractLsb'_zero, ofNat_eq_ofNat, if_true]

theorem readVectorA_encodeVectorA {i : Instr} (h : i.slot? = some .vectorA) : readVectorA (encodeVectorA i) = some i := by
  cases i <;> cases h <;> unfold encodeVectorA <;> rw [readVectorA, VOp.read_word, VOp.word_opcode] <;> rfl

theorem readVectorB_encodeVectorB {i : Instr} (h : i.slot? = some .vectorB) : readVectorB (encodeVectorB i) = some i := by
  cases i <;> cases h <;> unfold encodeVectorB <;> rw [readVectorB, VOp.read_word, VOp.word_opcode] <;> rfl

theorem readMatrix_encodeMatrix {i : Instr} (h : i.slot? = some .matrix) : readMatrix (encodeMatrix i) = some i := by
  cases i <;> cases h <;> unfold encodeMatrix <;>
    simp (disch := decide) only [readMatrix, extractLsb'_append_eq_of_add_le, extractLsb'_append_eq_of_le, Nat.reduceSub,
      extractLsb'_eq_self, toNat_ofNat, Nat.reducePow, Nat.reduceMod, extractLsb'_zero, ofNat_eq_ofNat, true_and, if_true,
      bitAt, getLsbD_append, Nat.reduceLT, if_false, getLsbD_ofBool, decide_true, Bool.true_and]

theorem readTranspose_encodeTranspose {i : Instr} (h : i.slot? = some .transpose) :
    readTranspose (encodeTranspose i) = some i := by
  cases i <;> cases h <;> unfold encodeTranspose <;>
    simp (disch := decide) only [readTranspose, extractLsb'_append_eq_of_add_le, extractLsb'_append_eq_of_le, Nat.reduceSub,
      extractLsb'_eq_self, toNat_ofNat, Nat.reducePow, Nat.reduceMod, extractLsb'_zero, ofNat_eq_ofNat, if_true]

theorem readCopy_encodeCopy {i : Instr} (h : i.slot? = some .copy) : readCopy (encodeCopy i) = some i := by
  cases i <;> cases h <;> unfold encodeCopy
  case fence.refl | bclose.refl | bwait.refl =>
    simp (disch := decide) only [readCopy, extractLsb'_append_eq_of_add_le, extractLsb'_append_eq_of_le, Nat.reduceSub,
      extractLsb'_eq_self, toNat_ofNat, Nat.reducePow, Nat.reduceMod, extractLsb'_zero, ofNat_eq_ofNat, true_and, if_true]
  case vld.refl | vst.refl | vldb.refl | vstm.refl => rw [readCopy, CvOp.word_opcode, CvOp.read_word]; rfl
  case tld.refl | tst.refl | tldm.refl | tldbp.refl | pref.refl | strem.refl | stremo.refl | wcopy.refl | wfill.refl =>
    rw [readCopy, CaOp.word_opcode, CaOp.read_word]; rfl
  all_goals rw [readCopy, CfOp.word_opcode, CfOp.read_word]; rfl

/-! ### A slot's field in a bundle -/

/-- An instruction that a slot of this kind may hold. -/
def Instr.fits (i : Instr) (k : Slot) : Prop := i.wf = true ∧ i.slot? = some k

/-- What a slot holds, encoded, is read back; the empty slot is the NOP. -/
theorem slotOf_encodeOpt {n : Nat} {k : Slot} {read : BitVec n → Option Instr} {encode : Instr → BitVec n}
    (h0 : read 0 = none) (hread : ∀ {i : Instr}, i.slot? = some k → read (encode i) = some i)
    {x : Option Instr} (hx : ∀ i, x = some i → i.fits k) : slotOf k read (encodeOpt encode x) = .ok x := by
  cases x with
  | none => exact if_pos rfl
  | some i =>
    obtain ⟨hwf, hk⟩ := hx i rfl
    exact slotOf_of_read h0 (hread hk) hwf

section
variable (b : Bundle)

theorem encodeBundle_fin : bitAt (encodeBundle b) 0 = b.fin := by
  rw [bitAt, encodeBundle, getLsbD_append, if_pos Nat.one_pos]
  simp

theorem encodeBundle_lbe : bitAt (encodeBundle b) 1 = b.lbe := by
  rw [bitAt, encodeBundle, getLsbD_append, if_neg (lt_irrefl 1), getLsbD_append, if_pos Nat.one_pos]
  simp

theorem encodeBundle_reserved : (encodeBundle b).extractLsb' 2 6 = 0 := by
  simp (disch := decide) only [encodeBundle, extractLsb'_append_eq_of_add_le, extractLsb'_append_eq_of_le, Nat.reduceSub,
    extractLsb'_eq_self, ofNat_eq_ofNat]

theorem encodeBundle_sync : (encodeBundle b).extractLsb' 8 40 = encodeOpt encodeSync b.sync := by
  simp (disch := decide) only [encodeBundle, extractLsb'_append_eq_of_add_le, extractLsb'_append_eq_of_le, Nat.reduceSub,
    extractLsb'_eq_self]

theorem encodeBundle_br : (encodeBundle b).extractLsb' 48 32 = encodeOpt encodeBranch b.br := by
  simp (disch := decide) only [encodeBundle, extractLsb'_append_eq_of_add_le, extractLsb'_append_eq_of_le, Nat.reduceSub,
    extractLsb'_eq_self]

theorem encodeBundle_sA : (encodeBundle b).extractLsb' 80 32 = encodeOpt encodeScalar b.sA := by
  simp (disch := decide) only [encodeBundle, extractLsb'_append_eq_of_add_le, extractLsb'_append_eq_of_le, Nat.reduceSub,
    extractLsb'_eq_self]

theorem encodeBundle_sB : (encodeBundle b).extractLsb' 112 32 = encodeOpt encodeScalar b.sB := by
  simp (disch := decide) only [encodeBundle, extractLsb'_append_eq_of_add_le, extractLsb'_append_eq_of_le, Nat.reduceSub,
    extractLsb'_eq_self]

theorem encodeBundle_vA : (encodeBundle b).extractLsb' 144 64 = encodeOpt encodeVectorA b.vA := by
  simp (disch := decide) only [encodeBundle, extractLsb'_append_eq_of_add_le, extractLsb'_append_eq_of_le, Nat.reduceSub,
    extractLsb'_eq_self]

theorem encodeBundle_vB : (encodeBundle b).extractLsb' 208 64 = encodeOpt encodeVectorB b.vB := by
  simp (disch := decide) only [encodeBundle, extractLsb'_append_eq_of_add_le, extractLsb'_append_eq_of_le, Nat.reduceSub,
    extractLsb'_eq_self]

theorem encodeBundle_mx : (encodeBundle b).extractLsb' 272 32 = encodeOpt encodeMatrix b.mx := by
  simp (disch := decide) only [encodeBundle, extractLsb'_append_eq_of_add_le, extractLsb'_append_eq_of_le, Nat.reduceSub,
    extractLsb'_eq_self]

theorem encodeBundle_tr : (encodeBundle b).extractLsb' 304 32 = encodeOpt encodeTranspose b.tr := by
  simp (disch := decide) only [encodeBundle, extractLsb'_append_eq_of_add_le, extractLsb'_append_eq_of_le, Nat.reduceSub,
    extractLsb'_eq_self]

theorem encodeBundle_cp : (encodeBundle b).extractLsb' 336 48 = encodeOpt encodeCopy b.cp := by
  simp (disch := decide) only [encodeBundle, extractLsb'_append_eq_of_le, Nat.reduceSub, extractLsb'_eq_self]

end

/-- Every slot holds an instruction of its own, or none. -/
structure Bundle.WellFormed (b : Bundle) : Prop where
  sync : ∀ i, b.sync = some i → i.fits .sync
  br : ∀ i, b.br = some i → i.fits .branch
  sA : ∀ i, b.sA = some i → i.fits .scalar
  sB : ∀ i, b.sB = some i → i.fits .scalar
  vA : ∀ i, b.vA = some i → i.fits .vectorA
  vB : ∀ i, b.vB = some i → i.fits .vectorB
  mx : ∀ i, b.mx = some i → i.fits .matrix
  tr : ∀ i, b.tr = some i → i.fits .transpose
  cp : ∀ i, b.cp = some i → i.fits .copy

theorem decodeBundle_encodeBundle {b : Bundle} (h : b.WellFormed) : decodeBundle (encodeBundle b) = .ok b := by
  have hy := slotOf_encodeOpt (read := readSync) rfl readSync_encodeSync h.sync
  have hbr := slotOf_encodeOpt (read := readBranch) rfl readBranch_encodeBranch h.br
  have hsA := slotOf_encodeOpt (read := readScalar) rfl readScalar_encodeScalar h.sA
  have hsB := slotOf_encodeOpt (read := readScalar) rfl readScalar_encodeScalar h.sB
  have hvA := slotOf_encodeOpt (read := readVectorA) rfl readVectorA_encodeVectorA h.vA
  have hvB := slotOf_encodeOpt (read := readVectorB) rfl readVectorB_encodeVectorB h.vB
  have hmx := slotOf_encodeOpt (read := readMatrix) rfl readMatrix_encodeMatrix h.mx
  have htr := slotOf_encodeOpt (read := readTranspose) rfl readTranspose_encodeTranspose h.tr
  have hcp := slotOf_encodeOpt (read := readCopy) rfl readCopy_encodeCopy h.cp
  rw [decodeBundle, if_neg (not_not.2 (encodeBundle_reserved b)), encodeBundle_sync, hy, encodeBundle_br, hbr, encodeBundle_sA, hsA,
    encodeBundle_sB, hsB, encodeBundle_vA, hvA, encodeBundle_vB, hvB, encodeBundle_mx, hmx, encodeBundle_tr, htr, encodeBundle_cp, hcp]
  simp only [encodeBundle_fin, encodeBundle_lbe]

/-! ### A word of the table's numbering -/

/-- The bundle of one instruction is well formed where its instruction is, whichever slot it goes to. -/
theorem Bundle.single_wellFormed {i : Instr} (h : i.wf = true) : (Bundle.single i).WellFormed := by
  unfold Bundle.single
  split <;> constructor <;> intro j hj <;> cases hj <;> exact ⟨h, by assumption⟩

theorem firstOk_mem {l : List (Except DecodeError (Option Instr))} {i : Instr} (h : firstOk l = some i) :
    .ok (some i) ∈ l := by
  induction l with
  | nil => cases h
  | cons x l ih =>
    unfold firstOk at h
    split at h
    · cases h
    · rename_i e; obtain ⟨rfl, -⟩ := List.cons.inj e; cases h; exact List.mem_cons_self
    · rename_i e; obtain ⟨-, rfl⟩ := List.cons.inj e; exact List.mem_cons_of_mem _ (ih h)

/-- A word that the table's numbering reads is read by some slot. -/
theorem wf_of_decodeTableWord {nbits w : Nat} {i : Instr} (h : decodeTableWord nbits w = some i) : i.wf = true := by
  unfold decodeTableWord at h
  split_ifs at h
  all_goals
    have hm := firstOk_mem h
    simp only [List.mem_cons, List.not_mem_nil, or_false] at hm
  · rcases hm with hm | hm | hm | hm <;> exact wf_of_slotOf hm.symm
  · exact wf_of_slotOf hm.symm
  · exact wf_of_slotOf hm.symm
  · rcases hm with hm | hm <;> exact wf_of_slotOf hm.symm

end Sys2Proof

namespace Sys2Proof.Machine

theorem decodeBundle_wordBundle {nbits w : Nat} {i : Instr} (h : decodeTableWord nbits w = some i) :
    decodeBundle (wordBundle nbits w) = .ok (Bundle.single i) := by
  rw [wordBundle, h]
  exact decodeBundle_encodeBundle (Bundle.single_wellFormed (wf_of_decodeTableWord h))

/-- Settles O18: slot by slot, what the encoder gives is read back raw, so the field, the bundle and the word are. -/
theorem encodeDecode : Obligations.EncodeDecode :=
  ⟨fun _ hwf =>
    ⟨fun h => slotOf_of_read rfl (readSync_encodeSync h) hwf, fun h => slotOf_of_read rfl (readBranch_encodeBranch h) hwf,
      fun h => slotOf_of_read rfl (readScalar_encodeScalar h) hwf, fun h => slotOf_of_read rfl (readVectorA_encodeVectorA h) hwf,
      fun h => slotOf_of_read rfl (readVectorB_encodeVectorB h) hwf, fun h => slotOf_of_read rfl (readMatrix_encodeMatrix h) hwf,
      fun h => slotOf_of_read rfl (readTranspose_encodeTranspose h) hwf, fun h => slotOf_of_read rfl (readCopy_encodeCopy h) hwf⟩,
    fun _ hy hbr hsA hsB hvA hvB hmx htr hcp => decodeBundle_encodeBundle ⟨hy, hbr, hsA, hsB, hvA, hvB, hmx, htr, hcp⟩,
    fun _ _ _ h => ⟨wf_of_decodeTableWord h, decodeBundle_wordBundle h⟩⟩

end Sys2Proof.Machine
end

section
/-!
SUPPORT. Control transfers and their traps (R134, R137, R156-R159): what the checks of the branch slot answer, and what a transfer
whose checks pass does to the sequencer.
-/

namespace Sys2Proof.Machine

theorem State.trapOr_none (s : State) (slot : BitVec 4) (f : Timed → Timed) :
    s.trapOr slot none f = .next (s.setTimed (f s.timed)) := rfl

theorem State.trapOr_some (s : State) (slot : BitVec 4) (k : Trap) (f : Timed → Timed) :
    s.trapOr slot (some k) f = .next (s.takeTrap slot k) := rfl

/-! ### The checks -/

section
variable {t : Timed}

theorem ctlTrap_none (hb : t.seq.bdelay = 0) (hl : t.seq.loop.active = false) : ctlTrap t = none := by
  simp [ctlTrap, hb, hl]

theorem ctlTrap_delaySlot (hb : t.seq.bdelay ≠ 0) : ctlTrap t = some ⟨0x05, 0⟩ := if_pos hb

theorem ctlTrap_nest (hb : t.seq.bdelay = 0) (hl : t.seq.loop.active = true) : ctlTrap t = some ⟨0x06, 0⟩ := by
  simp [ctlTrap, hb, hl, trap]

theorem loopTrap_delaySlot (hb : t.seq.bdelay ≠ 0) : loopTrap t = some ⟨0x05, 0⟩ := if_pos hb

theorem loopTrap_nest (hb : t.seq.bdelay = 0) (hl : t.seq.loop.active = true) : loopTrap t = some ⟨0x06, 1⟩ := by
  simp [loopTrap, hb, hl, trap]

theorem pushTrap_none (h : t.seq.rstack.length < 32) : pushTrap t = none := if_neg (Nat.not_le.2 h)

theorem pushTrap_full (h : 32 ≤ t.seq.rstack.length) : pushTrap t = some ⟨0x09, 0⟩ := if_pos h

theorem popTrap_none {y : BitVec 18} {l : List (BitVec 18)} (h : t.seq.rstack = y :: l) : popTrap t = none :=
  if_neg (by rw [h]; exact List.cons_ne_nil y l)

theorem popTrap_empty (h : t.seq.rstack = []) : popTrap t = some ⟨0x0A, 0⟩ := if_pos h

end

/-! ### What transfers do -/

section
variable {s : State}

/-- The transfers of R156, but those that take a mask, whose one check is that of a delay slot or a nest. -/
theorem execTransfer_free (hb : s.timed.seq.bdelay = 0) (hl : s.timed.seq.loop.active = false) (taken : Timed → Bool)
    (target : Timed → BitVec 18) :
    execTransfer taken target s = .next (s.setTimed
      (s.timed.transfer (if taken s.timed then target s.timed else s.core.fourth s.timed.seq.pc))) := by
  rw [execTransfer, ctlTrap_none hb hl, State.trapOr_none]

/-- The eleven control transfers begin with the check of a delay slot or a nest. -/
theorem exec_transfer_traps {k : Trap} (h : ctlTrap s.timed = some k) (a : BitVec 6) (m : BitVec 4) (x : BitVec 18) (i : Instr)
    (hi : i ∈ ([.jmp x, .beqz a x, .bnez a x, .bltz a x, .bgez a x, .jmpr a, .bmt m x, .bmf m x, .call x, .callr a, .ret] :
      List Instr)) : exec i s = .next (s.takeTrap 0 k) := by
  have hor : ∀ o : Option Trap, (ctlTrap s.timed).or o = some k := fun o => by rw [h, Option.some_or]
  have hplain : ∀ taken target, execTransfer taken target s = .next (s.takeTrap 0 k) := fun _ _ => by rw [execTransfer, h]; rfl
  have hmore : ∀ o f, s.trapOr 0 ((ctlTrap s.timed).or o) f = .next (s.takeTrap 0 k) := fun o f => by rw [hor]; rfl
  simp only [List.mem_cons, List.not_mem_nil, or_false] at hi
  rcases hi with rfl | rfl | rfl | rfl | rfl | rfl | rfl | rfl | rfl | rfl | rfl
  case inl | inr.inl | inr.inr.inl | inr.inr.inr.inl | inr.inr.inr.inr.inl | inr.inr.inr.inr.inr.inl => exact hplain _ _
  all_goals exact hmore _ _

theorem execLoop_traps {k : Trap} (h : loopTrap s.timed = some k) (a : BitVec 6) (p : BitVec 3) :
    exec (.loop a p) s = .next (s.takeTrap 0 k) := by
  change s.trapOr 0 (loopTrap s.timed) _ = _
  rw [h, State.trapOr_some]

theorem controlTransfers_complete (a : BitVec 6) (x : BitVec 18) (hb : s.timed.seq.bdelay = 0)
    (hl : s.timed.seq.loop.active = false) :
    let t := s.timed
    let four := s.core.fourth t.seq.pc
    let goes := fun (i : Instr) (u : Timed) (target : BitVec 18) => exec i s = .next (s.setTimed (u.transfer target))
    goes (.jmp x) t x ∧
    goes (.beqz a x) t (if t.sreg a = 0 then x else four) ∧
    goes (.bnez a x) t (if t.sreg a = 0 then four else x) ∧
    goes (.bltz a x) t (if (t.sreg a).toInt < 0 then x else four) ∧
    goes (.bgez a x) t (if (t.sreg a).toInt < 0 then four else x) ∧
    goes (.jmpr a) t ((t.sreg a).setWidth 18) := by
  have free := execTransfer_free hb hl
  refine ⟨free _ _, (free _ _).trans ?_, (free _ _).trans ?_, (free _ _).trans ?_, (free _ _).trans ?_, free _ _⟩
  · simp only [beq_iff_eq]
  · by_cases h : s.timed.sreg a = 0 <;> simp [h]
  · simp only [BitVec.msb_eq_toInt, decide_eq_true_eq]
  · by_cases h : (s.timed.sreg a).toInt < 0 <;> simp [BitVec.msb_eq_toInt, h]

theorem calls_complete (a : BitVec 6) (x : BitVec 18) (hb : s.timed.seq.bdelay = 0) (hl : s.timed.seq.loop.active = false)
    (hd : s.timed.seq.rstack.length < 32) :
    let pushed := s.timed.rpush (s.core.fourth s.timed.seq.pc)
    exec (.call x) s = .next (s.setTimed (pushed.transfer x)) ∧
    exec (.callr a) s = .next (s.setTimed (pushed.transfer ((s.timed.sreg a).setWidth 18))) := by
  have h : (ctlTrap s.timed).or (pushTrap s.timed) = none := by rw [ctlTrap_none hb hl, pushTrap_none hd, Option.none_or]
  exact ⟨by change s.trapOr 0 ((ctlTrap s.timed).or (pushTrap s.timed)) _ = _; rw [h, State.trapOr_none],
    by change s.trapOr 0 ((ctlTrap s.timed).or (pushTrap s.timed)) _ = _; rw [h, State.trapOr_none]⟩

theorem ret_completes {y : BitVec 18} {l : List (BitVec 18)} (hb : s.timed.seq.bdelay = 0)
    (hl : s.timed.seq.loop.active = false) (h : s.timed.seq.rstack = y :: l) :
    exec .ret s = .next (s.setTimed (({ s.timed with seq := { s.timed.seq with rstack := l } } : Timed).transfer y)) := by
  change s.trapOr 0 ((ctlTrap s.timed).or (popTrap s.timed)) _ = _
  rw [ctlTrap_none hb hl, popTrap_none h, Option.none_or, State.trapOr_none, Timed.rdrop, Timed.rtop, h]
  rfl

theorem calls_trap (a : BitVec 6) (x : BitVec 18) (hb : s.timed.seq.bdelay = 0) (hl : s.timed.seq.loop.active = false)
    (hd : 32 ≤ s.timed.seq.rstack.length) :
    exec (.call x) s = .next (s.takeTrap 0 ⟨0x09, 0⟩) ∧ exec (.callr a) s = .next (s.takeTrap 0 ⟨0x09, 0⟩) := by
  have h : (ctlTrap s.timed).or (pushTrap s.timed) = some ⟨0x09, 0⟩ := by
    rw [ctlTrap_none hb hl, pushTrap_full hd, Option.none_or]
  exact ⟨by change s.trapOr 0 ((ctlTrap s.timed).or (pushTrap s.timed)) _ = _; rw [h, State.trapOr_some],
    by change s.trapOr 0 ((ctlTrap s.timed).or (pushTrap s.timed)) _ = _; rw [h, State.trapOr_some]⟩

theorem ret_traps (hb : s.timed.seq.bdelay = 0) (hl : s.timed.seq.loop.active = false) (h : s.timed.seq.rstack = []) :
    exec .ret s = .next (s.takeTrap 0 ⟨0x0A, 0⟩) := by
  change s.trapOr 0 ((ctlTrap s.timed).or (popTrap s.timed)) _ = _
  rw [ctlTrap_none hb hl, popTrap_empty h, Option.none_or, State.trapOr_some]

theorem rspush_traps (a : BitVec 6) (h : 32 ≤ s.timed.seq.rstack.length) :
    exec (.rspush a) s = .next (s.takeTrap 0 ⟨0x09, 0⟩) := by
  change s.trapOr 0 (pushTrap s.timed) _ = _
  rw [pushTrap_full h, State.trapOr_some]

theorem rspop_traps (d : BitVec 6) (h : s.timed.seq.rstack = []) : exec (.rspop d) s = .next (s.takeTrap 0 ⟨0x0A, 0⟩) := by
  change s.trapOr 0 (popTrap s.timed) _ = _
  rw [popTrap_empty h, State.trapOr_some]

end

/-- Settles O7: the checks of the branch slot decide between the trap and the transfer. -/
theorem controlTransfers : Obligations.ControlTransfers := by
  refine ⟨fun s a x hb hl => ?_, fun s a d m x p => ⟨fun hb => ?_, fun hb hl => ?_, fun hb hl => ?_, fun h => rspush_traps a h,
    fun h => rspop_traps d h⟩⟩
  · obtain ⟨hjmp, hbeqz, hbnez, hbltz, hbgez, hjmpr⟩ := controlTransfers_complete a x hb hl
    exact ⟨hjmp, hbeqz, hbnez, hbltz, hbgez, hjmpr, fun hd => calls_complete a x hb hl hd, fun y l h => ret_completes hb hl h⟩
  · exact ⟨fun i hi => exec_transfer_traps (ctlTrap_delaySlot hb) a m x i hi, execLoop_traps (loopTrap_delaySlot hb) a p⟩
  · exact ⟨fun i hi => exec_transfer_traps (ctlTrap_nest hb hl) a m x i hi, execLoop_traps (loopTrap_nest hb hl) a p⟩
  · exact ⟨fun hd => calls_trap a x hb hl hd, fun h => ret_traps hb hl h⟩

end Sys2Proof.Machine
end

section
/-!
SUPPORT. The sync slot (R117): the flags that a mask names, what passing a wait does to the flags and to the commands (R102), and
freeze cause 1 (R130).
-/

namespace Sys2Proof.Machine

/-! ### The flags that a mask names -/

theorem mem_namedFlags {mask : BitVec 32} {f : BitVec 5} : f ∈ namedFlags mask ↔ mask.getLsbD f.toNat = true := by
  simp only [namedFlags, List.mem_map, List.mem_filter, List.mem_range]
  constructor
  · rintro ⟨i, ⟨hi, hm⟩, rfl⟩
    rwa [BitVec.toNat_ofNat, Nat.mod_eq_of_lt hi]
  · exact fun h => ⟨f.toNat, ⟨f.isLt, h⟩, by simp⟩

theorem allSetFlags_iff {t : Timed} {mask : BitVec 32} :
    allSetFlags t mask = true ↔ ∀ n : BitVec 5, mask.getLsbD n.toNat = true → t.flag n = .set := by
  simp only [allSetFlags, List.all_eq_true, mem_namedFlags, beq_iff_eq]

theorem anySetFlag_iff {t : Timed} {mask : BitVec 32} :
    anySetFlag t mask = true ↔ ∃ n : BitVec 5, mask.getLsbD n.toNat = true ∧ t.flag n = .set := by
  simp only [anySetFlag, List.any_eq_true, mem_namedFlags, beq_iff_eq]

theorem flagTrap_none {t : Timed} {mask : BitVec 32}
    (h : ∀ n : BitVec 5, mask.getLsbD n.toNat = true → t.flag n ≠ .error) : flagTrap t mask = none := by
  have hf : (namedFlags mask).find? (fun f => t.flag f == .error) = none :=
    List.find?_eq_none.2 fun f hf => by simpa using h f (mem_namedFlags.1 hf)
  rw [flagTrap, hf]

/-- The lowest-numbered named flag in ERROR is the trap's detail. -/
theorem flagTrap_lowest {t : Timed} {mask : BitVec 32} {n : BitVec 5} (hn : mask.getLsbD n.toNat = true)
    (he : t.flag n = .error)
    (hlow : ∀ k : BitVec 5, k.toNat < n.toNat → mask.getLsbD k.toNat = true → t.flag k ≠ .error) :
    flagTrap t mask = some ⟨0x07, n.setWidth 64⟩ := by
  have hf : (namedFlags mask).find? (fun f => t.flag f == .error) = some n := by
    rw [namedFlags, List.find?_map, List.find?_filter]
    have hr : (List.range 32).find? (fun i => decide (mask.getLsbD i = true ∧
        ((fun f => t.flag f == .error) ∘ fun i => BitVec.ofNat 5 i) i = true)) = some n.toNat := by
      rw [List.find?_range_eq_some]
      refine ⟨by simp [hn, he], List.mem_range.2 n.isLt, fun j hj => ?_⟩
      have hk : (BitVec.ofNat 5 j).toNat = j := by rw [BitVec.toNat_ofNat]; exact Nat.mod_eq_of_lt (hj.trans n.isLt)
      have := hlow (BitVec.ofNat 5 j) (by rwa [hk])
      rw [hk] at this
      simpa [imp_iff_not_or] using this
    rw [hr, Option.map_some]
    simp
  rw [flagTrap, hf]
  rfl

/-! ### Clearing flags -/

theorem Core.clearFlags_frame (c : Core) (l : List (BitVec 5)) :
    (c.clearFlags l).un = c.un ∧ (c.clearFlags l).acquires = c.acquires := by
  induction l generalizing c with
  | nil => exact ⟨rfl, rfl⟩
  | cons f l ih => exact ih _

theorem Core.clearFlags_flag (c : Core) (l : List (BitVec 5)) (n : BitVec 5) :
    (c.clearFlags l).timed.flag n = if n ∈ l then .clear else c.timed.flag n := by
  induction l generalizing c with
  | nil => rfl
  | cons f l ih =>
    rw [Core.clearFlags, ih, Timed.flag_setFlag]
    by_cases hl : n ∈ l
    · rw [if_pos hl, if_pos (List.mem_cons_of_mem _ hl)]
    · by_cases hf : n = f <;> simp [hl, hf]

/-! ### A wait that passes -/

/-- The fence that stands for the acquire of a passage with this scope. -/
def State.passageFence (s : State) (sc : BitVec 3) : Cmd :=
  { newCmd s.timed s.un .none (.fence 0xFFFF sc 2) 0 0 0 none none 0 with batch := none }

theorem State.acquireFences_cons (s : State) (sc : BitVec 3) (l : List (BitVec 3)) :
    s.acquireFences (sc :: l) = (s.setUn (s.un.push (s.passageFence sc) false)).acquireFences l := rfl

/-- The acquires of passages join the commands behind what stood there, in order, and change nothing else of the core. -/
theorem State.acquireFences_spec (s : State) (l : List (BitVec 3)) :
    (s.acquireFences l).timed = s.timed ∧ (s.acquireFences l).core.acquires = s.core.acquires ∧
      ∃ cs : List Cmd, (s.acquireFences l).un.queue = s.un.queue ++ cs ∧ cs.map (·.ins) = l.map fun sc => .fence 0xFFFF sc 2 := by
  induction l generalizing s with
  | nil => exact ⟨rfl, rfl, [], (List.append_nil _).symm, rfl⟩
  | cons sc l ih =>
    obtain ⟨ht, ha, cs, hq, hi⟩ := ih (s.setUn (s.un.push (s.passageFence sc) false))
    rw [State.acquireFences_cons]
    refine ⟨ht.trans (State.timed_setUn ..), ha.trans (by rw [State.core_setUn]), s.passageFence sc :: cs, ?_, ?_⟩
    · rw [hq, State.un_setUn, (Untimed.push_spec ..).1, List.append_assoc, List.singleton_append]
      rfl
    · rw [List.map_cons, hi, List.map_cons]
      rfl

/-- The observation of the passages whose flag is named and SET: they are acquired, in order, and wait no longer (R102). -/
def State.observes (s u : State) (mask : BitVec 32) : Prop :=
  u.core.acquires = (s.core.acquires.filter fun x => !(mask.getLsbD x.1.toNat && s.timed.flag x.1 == .set)) ∧
  u.un.queue.take s.un.queue.length = s.un.queue ∧
  (u.un.queue.drop s.un.queue.length).map (·.ins) =
    (s.core.acquires.filter fun x => mask.getLsbD x.1.toNat && s.timed.flag x.1 == .set).map fun x => .fence 0xFFFF x.2 2

theorem passWait_spec (mask : BitVec 32) (s : State) :
    (passWait mask s).timed = s.timed ∧ s.observes (passWait mask s) mask := by
  obtain ⟨ht, ha, cs, hq, hi⟩ := (s.setCore (s.core.observe mask).1).acquireFences_spec (s.core.observe mask).2
  rw [State.timed_setCore] at ht
  rw [State.core_setCore] at ha
  rw [State.un_setCore] at hq
  refine ⟨ht, ha, ?_, ?_⟩
  · rw [passWait, hq]; exact List.take_left
  · rw [passWait, hq]
    refine (congrArg (List.map _) List.drop_left).trans (hi.trans ?_)
    rw [Core.observe, List.map_map]
    rfl

theorem State.observes_clearFlags {s u : State} {mask : BitVec 32} (h : s.observes u mask) (l : List (BitVec 5)) :
    s.observes (u.setCore (u.core.clearFlags l)) mask := by
  obtain ⟨hu, ha⟩ := u.core.clearFlags_frame l
  rw [State.observes, State.core_setCore, State.un_setCore, hu, ha]
  exact h

/-- Clearing the named flags leaves the others as they were. -/
theorem State.clearFlags_named (u : State) (mask : BitVec 32) :
    (∀ n : BitVec 5, mask.getLsbD n.toNat = true → (u.setCore (u.core.clearFlags (namedFlags mask))).timed.flag n = .clear) ∧
    ∀ n : BitVec 5, ¬ mask.getLsbD n.toNat = true →
      (u.setCore (u.core.clearFlags (namedFlags mask))).timed.flag n = u.timed.flag n := by
  refine ⟨fun n hn => ?_, fun n hn => ?_⟩
  · rw [State.timed_setCore, Core.clearFlags_flag, if_pos (mem_namedFlags.2 hn)]
  · rw [State.timed_setCore, Core.clearFlags_flag, if_neg fun h => hn (mem_namedFlags.1 h)]
    rfl

/-! ### The instructions -/

section
variable {s : State} {mask : BitVec 32} (he : flagTrap s.timed mask = none)
include he

theorem execWait_passes (h : allSetFlags s.timed mask = true) : exec (.wait mask) s = .next (passWait mask s) := by
  change execWait mask s = _
  rw [execWait, he]
  exact if_pos h

theorem execWait_held (h : ¬ allSetFlags s.timed mask = true) : exec (.wait mask) s = .next s := by
  change execWait mask s = _
  rw [execWait, he]
  exact if_neg h

theorem execWaitAny_passes (h : anySetFlag s.timed mask = true) : exec (.waitAny mask) s = .next (passWait mask s) := by
  change execWaitAny mask s = _
  rw [execWaitAny, he]
  exact if_pos h

theorem execWaitAny_held (h : ¬ anySetFlag s.timed mask = true) : exec (.waitAny mask) s = .next s := by
  change execWaitAny mask s = _
  rw [execWaitAny, he]
  exact if_neg h

theorem execWaitC_passes (h : allSetFlags s.timed mask = true) : exec (.waitC mask) s =
    .next ((passWait mask s).setCore ((passWait mask s).core.clearFlags (namedFlags mask))) := by
  change execWaitC mask s = _
  rw [execWaitC, he]
  exact if_pos h

theorem execWaitC_held (h : ¬ allSetFlags s.timed mask = true) : exec (.waitC mask) s = .next s := by
  change execWaitC mask s = _
  rw [execWaitC, he]
  exact if_neg h

end

theorem exec_wait_traps {s : State} {mask : BitVec 32} {k : Trap} (h : flagTrap s.timed mask = some k) (i : Instr)
    (hi : i ∈ ([.wait mask, .waitAny mask, .waitC mask] : List Instr)) : exec i s = .next (s.takeTrap 0 k) := by
  simp only [List.mem_cons, List.not_mem_nil, or_false] at hi
  rcases hi with rfl | rfl | rfl
  · change execWait mask s = _; rw [execWait, h]
  · change execWaitAny mask s = _; rw [execWaitAny, h]
  · change execWaitC mask s = _; rw [execWaitC, h]

/-! ### Freeze cause 1 -/

theorem State.freezeCause_of_held {s : State} {b : Bundle} (h : syncPasses s.timed b.sync = false) : s.freezeCause b = 1 := by
  simp only [State.freezeCause, h, Bool.not_false, if_true]

theorem State.freezeCause_of_passes {s : State} {b : Bundle} (h : syncPasses s.timed b.sync = true) : s.freezeCause b ≠ 1 := by
  simp only [State.freezeCause, h, Bool.not_true, Bool.false_eq_true, if_false]
  split_ifs <;> decide

/-- Where the sync slot passes and none of the causes 2 to 6 holds, none holds. -/
theorem State.freezeCause_none {s : State} {b : Bundle} (h : syncPasses s.timed b.sync = true)
    (hq : (b.cp.any fun i => queueHolds s.un i) = false) (hend : b.fin = true → s.un.endFull b.cp = false)
    (hcp : ∀ i, b.cp = some i → s.firstPage i = none ∧ s.pushHeld i = false)
    (hc : bundleConflict s.timed b ≤ s.timed.seq.conflict) (hidle : s.timed.seq.idle = 0) : s.freezeCause b = 0 := by
  have hfin : (b.fin && s.un.endFull b.cp) = false := by
    cases hf : b.fin with
    | false => rfl
    | true => exact hend hf
  have hpage : (b.cp.any fun i => (s.firstPage i).isSome) = false := by
    cases hb : b.cp with
    | none => rfl
    | some i => simp [(hcp i hb).1]
  have hpush : b.cp.any s.pushHeld = false := by
    cases hb : b.cp with
    | none => rfl
    | some i => exact (hcp i hb).2
  simp only [State.freezeCause, h, hq, hfin, hpage, hpush, hidle, Nat.not_lt.2 hc, Bool.not_true, Bool.false_eq_true, Bool.or_self,
    if_false, Nat.lt_irrefl]

/-- The verdict on a bundle that raises no trap, at the head of issue of a running task. -/
theorem State.verdict_of_head {s : State} {k : Task} {b : Bundle} {w : BundleBits} (hk : s.core.task = some k)
    (hrun : k.phase = .running) (hlate : k.late = none) (hskip : s.timed.seq.loop.skip = false) (hw : s.core.headBits = .ok w)
    (hb : s.core.head = .ok b) (ht : s.bundleTrap b = none) :
    s.verdict = if s.freezeCause b = 0 then .issue b w else .hold (s.freezeCause b) := by
  have hs : s.core.timed.seq.loop.skip = false := hskip
  simp only [State.verdict, hk, hrun, hlate, hs, hw, hb, ht, ne_eq, not_true_eq_false, if_false, Bool.false_eq_true]

/-- The instructions that the sync slot holds, or none, where they pass. -/
theorem syncPasses_of {t : Timed} {mask : BitVec 32} {o : Option Instr}
    (h : ((o = some (.wait mask) ∨ o = some (.waitC mask)) ∧ ∀ n : BitVec 5, mask.getLsbD n.toNat = true → t.flag n = .set) ∨
      (o = some (.waitAny mask) ∧ ∃ n : BitVec 5, mask.getLsbD n.toNat = true ∧ t.flag n = .set) ∨
      o = some (.fclr mask) ∨ o = none) : syncPasses t o = true := by
  rcases h with ⟨rfl | rfl, hall⟩ | ⟨rfl, hany⟩ | rfl | rfl
  · exact allSetFlags_iff.2 hall
  · exact allSetFlags_iff.2 hall
  · exact anySetFlag_iff.2 hany
  · rfl
  · rfl

theorem syncPasses_false_of {t : Timed} {mask : BitVec 32} {o : Option Instr}
    (h : ((o = some (.wait mask) ∨ o = some (.waitC mask)) ∧
        ¬ ∀ n : BitVec 5, mask.getLsbD n.toNat = true → t.flag n = .set) ∨
      (o = some (.waitAny mask) ∧ ¬ ∃ n : BitVec 5, mask.getLsbD n.toNat = true ∧ t.flag n = .set)) :
    syncPasses t o = false := by
  rcases h with ⟨rfl | rfl, hall⟩ | ⟨rfl, hany⟩
  · exact Bool.eq_false_iff.2 fun e => hall (allSetFlags_iff.1 e)
  · exact Bool.eq_false_iff.2 fun e => hall (allSetFlags_iff.1 e)
  · exact Bool.eq_false_iff.2 fun e => hany (anySetFlag_iff.1 e)

/-- Settles O11: the instructions by what a wait that passes does, the bundle by freeze cause 1, the trap by the lowest flag. -/
theorem syncSlot : Obligations.SyncSlot := by
  refine ⟨⟨fun s mask => ?_, fun s mask b => ?_⟩, fun s mask n hn he hlow => exec_wait_traps (flagTrap_lowest hn he hlow)⟩
  · obtain ⟨hkeeps, hobs⟩ := passWait_spec mask s
    have hclear := (passWait mask s).clearFlags_named mask
    rw [hkeeps] at hclear
    refine ⟨fun he h => ⟨_, execWait_passes (flagTrap_none he) (allSetFlags_iff.2 h), hkeeps, hobs⟩,
      fun he h => ⟨_, execWaitAny_passes (flagTrap_none he) (anySetFlag_iff.2 h), hkeeps, hobs⟩,
      fun he h => ⟨_, execWaitC_passes (flagTrap_none he) (allSetFlags_iff.2 h), hclear, State.observes_clearFlags hobs _⟩,
      ⟨_, rfl, s.clearFlags_named mask, ?_, ?_⟩, fun he h => ?_, fun he h => ?_⟩
    · rw [State.un_setCore, (Core.clearFlags_frame ..).1]; rfl
    · rw [State.core_setCore, (Core.clearFlags_frame ..).2]
    · have hnot : ¬ allSetFlags s.timed mask = true := fun e =>
        let ⟨n, hn, hs⟩ := h
        hs (allSetFlags_iff.1 e n hn)
      exact ⟨execWait_held (flagTrap_none he) hnot, execWaitC_held (flagTrap_none he) hnot⟩
    · exact execWaitAny_held (flagTrap_none he) fun e =>
        let ⟨n, hn, hs⟩ := anySetFlag_iff.1 e
        h n hn hs
  · refine ⟨fun h => ⟨syncPasses_false_of h, State.freezeCause_of_held (syncPasses_false_of h)⟩,
      fun h => ⟨syncPasses_of h, State.freezeCause_of_passes (syncPasses_of h)⟩, fun k w hk hrun hlate hskip hw hb ht => ?_⟩
    have hv := State.verdict_of_head hk hrun hlate hskip hw hb ht
    refine ⟨fun h => ?_, fun h => ?_, fun h hq hend hcp hc hidle => ?_⟩
    · rw [hv, State.freezeCause_of_held (syncPasses_false_of h)]; rfl
    · have hne := State.freezeCause_of_passes (syncPasses_of h)
      rw [hv]
      split
      · exact Verdict.noConfusion
      · exact fun e => hne (Verdict.hold.inj e)
    · rw [hv, if_pos (State.freezeCause_none (syncPasses_of h) hq hend hcp hc hidle)]

end Sys2Proof.Machine
end

section
/-!
SUPPORT. Results that land (R128, R129): when one of latency `L` is seen, what a landing of each kind changes, and the FPSTAT bits
and BSTAT entries that a landing carries (R68, R70).
-/

namespace Sys2Proof.Machine

/-! ### One result in flight -/

/-- Alone in flight, a scalar result of two or more cycles ages. -/
theorem Timed.landDue_ages {t : Timed} {p : Pend} (h : t.inFlight = [p]) (hr : 1 < p.remain) :
    t.landDue = { t with inFlight := [{ p with remain := p.remain - 1 }] } := by
  simp [Timed.landDue, Timed.due, Timed.aged, h, Nat.not_le.2 hr, landAll]

/-- Alone in flight and due, it lands and leaves nothing in flight. -/
theorem Timed.landDue_lands {t : Timed} {p : Pend} (h : t.inFlight = [p]) (hr : p.remain ≤ 1) :
    t.landDue = p.land { t with inFlight := [] } := by
  simp [Timed.landDue, Timed.due, Timed.aged, h, hr, landAll]

theorem Timed.landDue_empty {t : Timed} (h : t.inFlight = []) : t.landDue = t := by
  obtain ⟨regs, seq, sp, arr, fl, flags, wins, desc⟩ := t
  cases h
  rfl

/-- A scalar result without FPSTAT bits and BSTAT updates. -/
theorem Timed.land_scalar (t : Timed) (n : Nat) (k : SlotNo) (d : BitVec 6) (v : Word) (hf : t.inFlight = []) :
    ((⟨n, k, .scalar d v, 0, []⟩ : Pend).land t).inFlight = [] ∧
      ∀ r, ((⟨n, k, .scalar d v, 0, []⟩ : Pend).land t).sreg r = if r = d then v else t.sreg r :=
  ⟨hf, fun r => t.sreg_setS d r v⟩

section
variable (t : Timed) (L : Nat) (d : BitVec 6) (v : Word)

/-- The timed domain with this result alone in flight. -/
def Timed.alone (n : Nat) : Timed := { t with inFlight := [⟨n, t.seq.issuing, .scalar d v, 0, []⟩] }

theorem Timed.repeat_landDue_before (hf : t.inFlight = []) (n : Nat) (hn : n < L) :
    Nat.repeat Timed.landDue n (t.pendS L d v) = t.alone d v (L - n) := by
  induction n with
  | zero => simp [Nat.repeat, Timed.pendS, Timed.pend, Timed.alone, hf]
  | succ n ih =>
    rw [Nat.repeat, ih (by omega), Timed.landDue_ages rfl (by change 1 < L - n; omega)]
    rfl

theorem Timed.repeat_landDue_after (hf : t.inFlight = []) (hL : 0 < L) (n : Nat) (hn : L ≤ n) :
    (Nat.repeat Timed.landDue n (t.pendS L d v)).inFlight = [] ∧
      ∀ r, (Nat.repeat Timed.landDue n (t.pendS L d v)).sreg r = if r = d then v else t.sreg r := by
  induction n, hn using Nat.le_induction with
  | base =>
    obtain ⟨m, rfl⟩ := Nat.exists_eq_succ_of_ne_zero hL.ne'
    rw [Nat.repeat, Timed.repeat_landDue_before t (m + 1) d v hf m (Nat.lt_succ_self m),
      Timed.landDue_lands rfl (by change m + 1 - m ≤ 1; omega)]
    exact Timed.land_scalar { t with inFlight := [] } _ _ d v rfl
  | succ n _ ih =>
    rw [Nat.repeat, Timed.landDue_empty ih.1]
    exact ih

end

/-! ### Bits and scratchpad bytes -/

theorem getLsbD_putBit {w : Nat} (x : BitVec w) (n k : Nat) (b : Bool) (hk : k < w) :
    (putBit x n b).getLsbD k = if k = n then b else x.getLsbD k := by
  have hbit : (BitVec.twoPow w n).getLsbD k = decide (k = n) := by
    rw [BitVec.getLsbD_twoPow]
    by_cases h : k = n
    · subst h; simp [hk]
    · simp [h, Ne.symm h]
  unfold putBit
  cases b with
  | true => rw [if_pos rfl, BitVec.getLsbD_or, hbit]; by_cases h : k = n <;> simp [h]
  | false =>
    rw [if_neg Bool.false_ne_true, BitVec.getLsbD_and, BitVec.getLsbD_not, hbit]
    by_cases h : k = n <;> simp [h, hk]

theorem Timed.rowOv_setOv (t : Timed) (r q : BitVec 12) (b : Bool) (hq : q.toNat < 1536) :
    (t.setOv r b).rowOv q = if q = r then b else t.rowOv q :=
  (getLsbD_putBit t.regs.accov r.toNat q.toNat b hq).trans
    (if_congr ⟨fun h => BitVec.eq_of_toNat_eq h, fun h => congrArg _ h⟩ rfl rfl)

/-- A byte of a merged stripe where the mask is empty. -/
theorem extractLsb'_mergeStripe_of_zero {old mask data : VReg} {k : Nat} (h : mask.extractLsb' k 8 = 0) :
    (mergeStripe old mask data).extractLsb' k 8 = old.extractLsb' k 8 := by
  ext i hi
  have hm : mask.getLsbD (k + i) = false := by
    have := congrArg (fun x => BitVec.getLsbD x i) h
    simpa [hi] using this
  simp only [mergeStripe, BitVec.getElem_extractLsb', BitVec.getLsbD_or, BitVec.getLsbD_and, BitVec.getLsbD_not, hm, Bool.not_false,
    Bool.and_true, Bool.and_false, Bool.or_false]
  cases ho : old.getLsbD (k + i) with
  | false => simp
  | true => simp [BitVec.lt_of_getLsbD ho]

/-- A byte of a merged stripe where the mask is full. -/
theorem extractLsb'_mergeStripe_of_full {old mask data : VReg} {k : Nat} (h : mask.extractLsb' k 8 = BitVec.allOnes 8) :
    (mergeStripe old mask data).extractLsb' k 8 = data.extractLsb' k 8 := by
  ext i hi
  have hm : mask.getLsbD (k + i) = true := by
    have := congrArg (fun x => BitVec.getLsbD x i) h
    simpa only [BitVec.getLsbD_extractLsb', BitVec.getLsbD_allOnes, hi, decide_true, Bool.true_and] using this
  simp [mergeStripe, hm]

/-- A part covers some bit of byte `x` of the scratchpad. -/
def StripePart.touches (q : StripePart) (x : Nat) : Prop :=
  q.stripe = x / 4096 ∧ q.mask.extractLsb' (8 * (x % 4096)) 8 ≠ 0

theorem Timed.sbyte_writePart_other (t : Timed) (q : StripePart) (x : Nat) (h : ¬ q.touches x) :
    (t.writePart q).sbyte x = t.sbyte x := by
  rw [Timed.sbyte, Timed.stripe_writePart]
  split
  · rename_i hs
    rw [extractLsb'_mergeStripe_of_zero (of_not_not fun hm => h ⟨hs.symm, hm⟩), ← hs]
    rfl
  · rfl

theorem Timed.sbyte_writePart_full (t : Timed) (q : StripePart) (x : Nat) (hs : q.stripe = x / 4096)
    (hm : q.mask.extractLsb' (8 * (x % 4096)) 8 = BitVec.allOnes 8) :
    (t.writePart q).sbyte x = q.data.extractLsb' (8 * (x % 4096)) 8 := by
  rw [Timed.sbyte, Timed.stripe_writePart, if_pos hs.symm, extractLsb'_mergeStripe_of_full hm]

theorem Timed.writeParts_append (t : Timed) (l m : List StripePart) : t.writeParts (l ++ m) = (t.writeParts l).writeParts m := by
  induction l generalizing t with
  | nil => rfl
  | cons q l ih => exact ih _

theorem Timed.writeParts_frame (t : Timed) (l : List StripePart) :
    t.writeParts l = { t with regs := { t.regs with scratch := (t.writeParts l).regs.scratch } } := by
  induction l generalizing t with
  | nil => rfl
  | cons q l ih => exact ih (t.writePart q)

theorem Timed.sbyte_writeParts_other (t : Timed) (l : List StripePart) (x : Nat) (h : ∀ q, q ∈ l → ¬ q.touches x) :
    (t.writeParts l).sbyte x = t.sbyte x := by
  induction l generalizing t with
  | nil => rfl
  | cons q l ih =>
    exact (ih (t.writePart q) fun p hp => h p (List.mem_cons_of_mem _ hp)).trans
      (t.sbyte_writePart_other q x (h q List.mem_cons_self))

/-! ### FPSTAT and BSTAT -/

theorem Timed.applyBst_eq (t : Timed) (l : List BstUpd) :
    t.applyBst l = { t with sp := { t.sp with bstat := (t.applyBst l).sp.bstat } } := by
  induction l generalizing t with
  | nil => rfl
  | cons u l ih => exact ih _

/-- An entry takes the updates that name it, in order. -/
theorem Timed.bst_applyBst (t : Timed) (l : List BstUpd) (e : Nat) :
    (t.applyBst l).bst e = (l.filter fun x => x.entry = e).foldl bstMerge (t.bst e) := by
  induction l generalizing t with
  | nil => rfl
  | cons u l ih =>
    rw [Timed.applyBst, ih, Timed.bst, Store.get_set]
    by_cases h : u.entry = e
    · subst h; simp
    · simp [h, Ne.symm h, Timed.bst]

/-- One update, where its exponent fits its byte: the flushes saturate, and the larger exponent stays. -/
theorem toNat_bstMerge (x : BitVec 32) (u : BstUpd) (hu : ∀ y, u.exp = some y → y ≤ 255) :
    (bstMerge x u).toNat = min 65535 (x.toNat % 65536 + u.flushes) +
      65536 * (u.exp.toList.foldl max (x.toNat / 65536 % 256)) := by
  have hx : bits x.toNat 15 0 = x.toNat % 65536 ∧ bits x.toNat 23 16 = x.toNat / 65536 % 256 := by
    simp [bits, Nat.shiftRight_eq_div_pow]
  have hf : min 65535 (x.toNat % 65536 + u.flushes) ≤ 65535 := Nat.min_le_left ..
  have he : x.toNat / 65536 % 256 ≤ 255 := by omega
  cases hy : u.exp with
  | none => simp only [bstMerge, hx.1, hx.2, hy, Option.toList_none, List.foldl_nil, BitVec.toNat_ofNat]; omega
  | some y =>
    have hmax : max (x.toNat / 65536 % 256) y ≤ 255 := Nat.max_le.2 ⟨he, hu y hy⟩
    simp only [bstMerge, hx.1, hx.2, hy, Option.toList_some, List.foldl_cons, List.foldl_nil, BitVec.toNat_ofNat]
    omega

theorem foldl_max_le {l : List Nat} {a b : Nat} (ha : a ≤ b) (hl : ∀ y ∈ l, y ≤ b) : l.foldl max a ≤ b := by
  induction l generalizing a with
  | nil => exact ha
  | cons y l ih =>
    exact ih (Nat.max_le.2 ⟨ha, hl y List.mem_cons_self⟩) fun z hz => hl z (List.mem_cons_of_mem _ hz)

/-- Updates of one entry, of which there is one at least. -/
theorem toNat_foldl_bstMerge (x : BitVec 32) (u : BstUpd) (l : List BstUpd)
    (h : ∀ a, a ∈ u :: l → ∀ y, a.exp = some y → y ≤ 255) :
    ((u :: l).foldl bstMerge x).toNat = min 65535 (x.toNat % 65536 + ((u :: l).map (·.flushes)).sum) +
      65536 * ((u :: l).filterMap (·.exp)).foldl max (x.toNat / 65536 % 256) := by
  have hu := toNat_bstMerge x u (h u List.mem_cons_self)
  have hexp : (u :: l).filterMap (·.exp) = u.exp.toList ++ l.filterMap (·.exp) := by
    cases he : u.exp <;> simp [he]
  have hmax : u.exp.toList.foldl max (x.toNat / 65536 % 256) ≤ 255 :=
    foldl_max_le (by omega) fun y hy => h u List.mem_cons_self y (Option.mem_toList.1 hy)
  rw [hexp, List.foldl_append, List.foldl_cons, List.map_cons, List.sum_cons]
  generalize u.exp.toList.foldl max (x.toNat / 65536 % 256) = m at hu hmax
  cases l with
  | nil => simp [hu]
  | cons a l =>
    have hlow : (bstMerge x u).toNat % 65536 = min 65535 (x.toNat % 65536 + u.flushes) := by omega
    have hhigh : (bstMerge x u).toNat / 65536 % 256 = m := by omega
    rw [toNat_foldl_bstMerge (bstMerge x u) a l fun b hb => h b (List.mem_cons_of_mem _ hb), hlow, hhigh]
    congr 1
    omega
termination_by l.length

/-! ### What a landing changes -/

theorem Pend.landValue_frame (p : Pend) (t : Timed) :
    (p.landValue t).seq = t.seq ∧ (p.landValue t).flags = t.flags ∧ (p.landValue t).wins = t.wins ∧
      (p.landValue t).desc = t.desc ∧ (p.landValue t).inFlight = t.inFlight := by
  unfold Pend.landValue
  split <;> try exact ⟨rfl, rfl, rfl, rfl, rfl⟩
  · simp
  · simp
  · rw [Timed.writeParts_frame]; exact ⟨rfl, rfl, rfl, rfl, rfl⟩

theorem Pend.land_eq (p : Pend) (t : Timed) :
    p.land t = { p.landValue t with sp := { (p.landValue t).sp with
      fpstat := (p.landValue t).sp.fpstat ||| p.fps.setWidth 64, bstat := (p.land t).sp.bstat } } :=
  Timed.applyBst_eq ..

theorem Pend.landClear_fpstat (p : Pend) (t : Timed) (h : ∀ v, p.res ≠ .special 0x011 v) :
    (p.landClear t).sp.fpstat = t.sp.fpstat := by
  unfold Pend.landClear
  split <;> try rfl
  rename_i n v hp
  rw [if_neg fun hn => h v (hp.trans (by rw [hn]))]

theorem Pend.landValue_fpstat (p : Pend) (t : Timed) : (p.landValue t).sp.fpstat = t.sp.fpstat := by
  unfold Pend.landValue
  split <;> try rfl
  · rw [Timed.setSpecial]; split_ifs <;> rfl
  · rw [Timed.setApex]; split_ifs <;> rfl
  · rw [Timed.writeParts_frame]

theorem Pend.land_fpstat (p : Pend) (t : Timed) : (p.land t).sp.fpstat = t.sp.fpstat ||| p.fps.setWidth 64 := by
  rw [Pend.land_eq, Pend.landValue_fpstat]

/-- Nothing lands on what it does not name: the clears. -/
theorem Pend.landClear_other (p : Pend) (t : Timed) (ha : ∀ d, p.res ≠ .accovClear d) (hb : ∀ a b, p.res ≠ .bstClear a b)
    (hs : ∀ v, p.res ≠ .special 0x011 v) : p.landClear t = t := by
  unfold Pend.landClear
  split <;> try rfl
  · rename_i r h; exact absurd h (ha r)
  · rename_i a b h; exact absurd h (hb a b)
  · rename_i n v h
    exact if_neg fun hn => hs v (h.trans (by rw [hn]))

theorem execResultLanding_marks (s : State) :
    ∃ l, exec .resultLanding s = .next ((s.setCore { s.core with marks := l }).setTimed s.timed.landDue) ∧
      ∀ m, m ∈ l ↔ m ∈ s.core.marks ∧ ∀ p, p ∈ s.timed.due → p.res.covers m = false :=
  ⟨_, rfl, fun m => by
    rw [List.mem_filter, Bool.not_eq_true', List.any_eq_false]
    simp only [Bool.not_eq_true]
    rfl⟩

/-- A set of scratchpad bytes: those that no part touches stay, and the last part to cover a byte whole gives it its value. -/
theorem Timed.writeParts_spec (t : Timed) (l : List StripePart) (x : Nat) :
    ((∀ q, q ∈ l → ¬ q.touches x) → (t.writeParts l).sbyte x = t.sbyte x) ∧
    ∀ q k, l = k ++ [q] → q.stripe = x / 4096 → q.mask.extractLsb' (8 * (x % 4096)) 8 = BitVec.allOnes 8 →
      (t.writeParts l).sbyte x = q.data.extractLsb' (8 * (x % 4096)) 8 := by
  refine ⟨t.sbyte_writeParts_other l x, ?_⟩
  rintro q k rfl hs hm
  rw [Timed.writeParts_append]
  exact Timed.sbyte_writePart_full _ q x hs hm

theorem Timed.bst_land (p : Pend) (t : Timed) (e : Nat) :
    (p.land t).bst e = (p.bst.filter fun x => x.entry = e).foldl bstMerge ((p.landValue t).bst e) :=
  Timed.bst_applyBst ..

/-- The clears, each at its destination alone. -/
theorem Pend.landClear_spec (p : Pend) (t : Timed) :
    (∀ d, p.res = .accovClear d → p.landClear t = { t with regs := { t.regs with accov := (p.landClear t).regs.accov } } ∧
      ∀ r : BitVec 12, r.toNat < 1536 → (p.landClear t).rowOv r = if r = d then false else t.rowOv r) ∧
    (∀ a b, p.res = .bstClear a b → p.landClear t = { t with sp := { t.sp with bstat := (p.landClear t).sp.bstat } } ∧
      ∀ x, x ∈ (p.landClear t).sp.bstat ↔ x ∈ t.sp.bstat ∧ ¬ (a ≤ x.1 ∧ x.1 < a + b)) ∧
    (∀ v, p.res = .special 0x011 v → p.landClear t = { t with sp := { t.sp with fpstat := t.sp.fpstat &&& ~~~v } }) := by
  refine ⟨fun d h => ?_, fun a b h => ?_, fun v h => ?_⟩
  · have hc : p.landClear t = t.setOv d false := by rw [Pend.landClear, h]
    rw [hc]
    exact ⟨rfl, fun r hr => t.rowOv_setOv d r false hr⟩
  · have hc : p.landClear t = t.clearBst a b := by rw [Pend.landClear, h]
    rw [hc]
    exact ⟨rfl, fun x => by simp [Timed.clearBst, Store.clearRange, imp_iff_not_or]⟩
  · rw [Pend.landClear, h]
    rfl

/-- Settles O23: the aging of a result by the number of landings, each destination by its own write, the entries of BSTAT by the
updates that name them. -/
theorem resultsLand : Obligations.ResultsLand := by
  refine ⟨⟨execResultLanding_marks, fun t L d v hf hL => ⟨fun n hn r => ?_, fun n hn => (t.repeat_landDue_after L d v hf hL n hn).2⟩⟩,
    fun t p => ?_, fun t p q v k hk hp hq => ?_⟩
  · change (Nat.repeat Timed.landDue n (t.pendS L d v)).sreg r = _
    rw [t.repeat_landDue_before L d v hf n hn]
    rfl
  · obtain ⟨hseq, hflags, hwins, hdesc, hfly⟩ := p.landValue_frame t
    obtain ⟨haccov, hbst, hfps⟩ := p.landClear_spec t
    have value : ∀ {r : Result}, p.res = r → p.landValue t = (⟨p.remain, p.slot, r, p.fps, p.bst⟩ : Pend).landValue t := by
      rintro _ rfl; rfl
    refine ⟨hseq, hflags, hwins, hdesc, hfly, fun d v h => ?_, fun d v h => ?_, fun d v h => ?_, fun d v h => ?_, fun d h => ?_,
      fun n v h => ?_, fun n v h => ?_, fun m y d h => value h, fun v h => value h, fun h => value h, fun l h => ?_, fun h => ?_,
      ⟨haccov, hbst, hfps, p.landClear_other t⟩, p.land_eq t, fun e => ⟨fun h => ?_, fun hne hexp => ?_⟩⟩
    · rw [value h]; exact ⟨fun r => t.sreg_setS d r v, rfl, fun _ => rfl, fun _ => rfl, fun _ => rfl, rfl, rfl⟩
    · rw [value h]; exact ⟨fun r => t.vreg_setV d r v, rfl, fun _ => rfl, fun _ => rfl, fun _ => rfl, rfl, rfl⟩
    · rw [value h]; exact ⟨fun r => t.mreg_setM d r v, rfl, fun _ => rfl, fun _ => rfl, fun _ => rfl, rfl, rfl⟩
    · rw [value h]; exact ⟨fun r => t.row_setRow d r v, rfl, fun _ => rfl, fun _ => rfl, fun _ => rfl, rfl, rfl⟩
    · rw [value h]
      exact ⟨rfl, fun r => t.row_setRow d r 0, fun r hr => (t.setRow d 0).rowOv_setOv d r false hr⟩
    · rw [value h]
      change t.setSpecial n v = _
      unfold Timed.setSpecial
      split_ifs <;> rfl
    · rw [value h]
      change t.setApex n v = _
      unfold Timed.setApex
      split_ifs <;> rfl
    · rw [value h]
      exact ⟨t.writeParts_frame l, t.writeParts_spec l⟩
    · rcases h with h | ⟨r, h⟩ | ⟨a, b, h⟩ <;> exact value h
    · rw [Timed.bst_land, h]
      rfl
    · obtain ⟨u, l, hl⟩ := List.exists_cons_of_ne_nil hne
      rw [Timed.bst_land, hl]
      exact toNat_foldl_bstMerge _ u l (hl ▸ hexp)
  · have hclear : (q.landClear (p.landClear t)).sp.fpstat = t.sp.fpstat &&& ~~~v := by
      rw [q.landClear_fpstat _ fun w => hq _ w, (p.landClear_spec t).2.2 v hp]
    have hk64 : k < 64 := by omega
    simp only [Pend.land_fpstat, hclear, BitVec.getLsbD_or, BitVec.getLsbD_and, BitVec.getLsbD_not, BitVec.getLsbD_setWidth, hk64,
      decide_true, Bool.true_and]

end Sys2Proof.Machine
end

section
/-!
SUPPORT. Words that the chapters write out, read by the decoder (R113, R116-R126): each is a closed computation.
-/

namespace Sys2Proof.Machine

/-- Settles O17: the decoder runs on each word. -/
theorem wordsDecode : Obligations.WordsDecode := by
  unfold Obligations.WordsDecode
  and_intros <;> rfl

end Sys2Proof.Machine
end

section
/-!
SUPPORT. Commands that enter the copy queue (R127, R185, R186, R190-R194, R197, R345): with a free entry, what a command captures at
its issue, and the frame of its entry.
-/

namespace Sys2Proof.Machine

/-- `i` has entered the copy queue with the loop counters of its issue, nothing of it done, and what `p` says of the rest. -/
def State.entersCopy (s : State) (i : Instr) (p : Cmd → Prop) : Prop :=
  ∃ (u : State) (c : Cmd), exec i s = .next u ∧ s.entersQueue u none c true ∧ c.ins = i ∧ c.eng = .copy ∧
    c.cnt = s.timed.seq.loop.cnt ∧ c.reqs = [] ∧ c.run = 0 ∧ c.boff = 0 ∧ c.stop = .run ∧ p c

theorem State.entersQueue_push (s : State) (c : Cmd) (hseq : c.seq = s.un.nseq) :
    s.entersQueue (s.setUn (s.un.push c true)) none { c with batch := s.un.openBatch } true := by
  refine ⟨s.onlyCoreOf_setCore _, ?_, State.un_setUn .., hseq, rfl, ?_⟩
  · rw [State.timed_setUn]
    exact ⟨rfl, fun g => (if_neg fun h => nomatch h.1).symm⟩
  · rw [State.core_setUn]
    exact ⟨rfl, rfl, rfl, rfl⟩

section
variable {s : State} (hroom : s.un.count .copy < 24)
include hroom

/-- A meaning that comes to the entry of a new command into the copy queue. -/
theorem State.entersCopy_of_enqueue {i : Instr} {cls : BitVec 4} {a b : Word} {w w2 : Option Window} {img : BitVec 1024}
    {p : Cmd → Prop} (h : exec i s = .next (s.enqueue (newCmd s.timed s.un .copy i cls a b w w2 img) true))
    (hp : p { newCmd s.timed s.un .copy i cls a b w w2 img with batch := s.un.openBatch }) : s.entersCopy i p := by
  rw [State.enqueue_room s (newCmd s.timed s.un .copy i cls a b w w2 img) true (decide_eq_true hroom)] at h
  exact ⟨_, _, h, s.entersQueue_push _ rfl, rfl, rfl, rfl, rfl, rfl, rfl, rfl, hp⟩

/-- A command with a descriptor whose check passes. -/
theorem State.entersCopy_of_tileCmd {i : Instr} {o : CaOp} {tr : Option Trap} (hi : exec i s = tileCmd i o tr s) (h : tr = none) :
    s.entersCopy i fun c =>
      c.cls = o.cls ∧ c.a = s.timed.sreg o.sa ∧ c.win = s.timed.win o.w ∧ c.img = s.timed.descr o.d := by
  subst h
  exact State.entersCopy_of_enqueue hroom hi ⟨rfl, rfl, rfl, rfl⟩

theorem wcopy_enters {o : CaOp} {x y : Window} (hx : s.timed.win o.w = some x) (hy : s.timed.win (o.ext.setWidth 5) = some y)
    (hsize : x.size = y.size) : s.entersCopy (.wcopy o) fun c => c.win = some x ∧ c.win2 = some y := by
  have ht : wcopyTrap s.timed o = none := by simp only [wcopyTrap, hx, hy, hsize, if_true]
  have h : execWcopy o s = .next (s.enqueue (newCmd s.timed s.un .copy (.wcopy o) 0 0 0 (s.timed.win o.w)
      (s.timed.win (o.ext.setWidth 5)) 0) true) := by rw [execWcopy, ht]
  exact State.entersCopy_of_enqueue hroom h ⟨hx, hy⟩

theorem wfill_enters {o : CaOp} {x : Window} (hx : s.timed.win o.w = some x) :
    s.entersCopy (.wfill o) fun c => c.win = some x ∧ c.a = s.timed.sreg o.sa := by
  have ht : wfillTrap s.timed o = none := by rw [wfillTrap, hx]; rfl
  have h : execWfill o s = .next (s.enqueue (newCmd s.timed s.un .copy (.wfill o) 0 (s.timed.sreg o.sa) 0 (s.timed.win o.w) none
      0) true) := by rw [execWfill, ht]
  exact State.entersCopy_of_enqueue hroom h ⟨hx, rfl⟩

theorem fence_enters (m : BitVec 16) (sc : BitVec 3) (k : BitVec 2) : s.entersCopy (.fence m sc k) fun c => c.cls = 0 :=
  State.entersCopy_of_enqueue hroom rfl rfl

end

/-- Settles O33: each command comes to one entry into the copy queue. -/
theorem tileCommandsEnter : Obligations.TileCommandsEnter := fun _ _ m sc k hroom =>
  ⟨State.entersCopy_of_tileCmd hroom rfl, State.entersCopy_of_tileCmd hroom rfl, State.entersCopy_of_tileCmd hroom rfl,
    State.entersCopy_of_tileCmd hroom rfl, State.entersCopy_of_tileCmd hroom rfl rfl,
    fun h => ⟨State.entersCopy_of_tileCmd hroom rfl h, State.entersCopy_of_tileCmd hroom rfl h⟩,
    fun _ _ hx hy hsize => wcopy_enters hroom hx hy hsize, fun _ hx => wfill_enters hroom hx, fence_enters hroom m sc k⟩

end Sys2Proof.Machine
end

section
/-!
SUPPORT. A step runs the decoded bundle (R110, R113-R115, R130, R138, R161): the bundle at a halfword, the slots of a decoded bundle as
`exec` runs them, and the step of a core whose bundle issues.
-/

namespace Sys2Proof.Machine

/-! ### The bundle at a halfword -/

section
variable {c : Core}

theorem Core.halfTrap_none {p : Nat} (h : p < c.image.overlayLen) (hb : c.image.badHalf = []) : c.halfTrap p = none := by
  simp [Core.halfTrap, Nat.not_le.2 h, hb]

theorem Core.halfTraps_none {p n : Nat} (h : p + n ≤ c.image.overlayLen) (hb : c.image.badHalf = []) :
    c.halfTraps p n = none := by
  induction n generalizing p with
  | zero => rfl
  | succ n ih => rw [Core.halfTraps, Core.halfTrap_none (by omega) hb]; exact ih (by omega)

/-- Halfwords that hold a number's digits, least significant first, read as that number. -/
theorem Core.literal_eq (x p k n : Nat)
    (h : ∀ i, i < n → (Store.get 0 c.image.overlay (p + i)).toNat = x / 65536 ^ (k + i) % 65536) :
    c.literal p n = x / 65536 ^ k % 65536 ^ n := by
  induction n generalizing p k with
  | zero => rw [Core.literal, Nat.pow_zero, Nat.mod_one]
  | succ n ih =>
    have hrest : ∀ i, i < n → (Store.get 0 c.image.overlay (p + 1 + i)).toNat = x / 65536 ^ (k + 1 + i) % 65536 := fun i hi => by
      rw [Nat.add_right_comm p 1 i, Nat.add_right_comm k 1 i]
      exact h (i + 1) (Nat.succ_lt_succ hi)
    have hfirst : (Store.get 0 c.image.overlay p).toNat = x / 65536 ^ k % 65536 := h 0 n.succ_pos
    rw [Core.literal, ih (p + 1) (k + 1) hrest, hfirst, Nat.pow_succ' (n := n), Nat.mod_mul, Nat.div_div_eq_div_mul, Nat.pow_succ]

theorem Core.literal_of_halves {p : Nat} {w : BundleBits}
    (h : ∀ i, i < 24 → Store.get 0 c.image.overlay (p + i) = w.extractLsb' (16 * i) 16) :
    BitVec.ofNat 384 (c.literal p 24) = w := by
  have hlit : c.literal p 24 = w.toNat / 65536 ^ 0 % 65536 ^ 24 := by
    refine Core.literal_eq w.toNat p 0 24 fun i hi => ?_
    rw [h i hi, BitVec.extractLsb'_toNat, Nat.shiftRight_eq_div_pow, Nat.pow_mul, Nat.zero_add]
  apply BitVec.eq_of_toNat_eq
  rw [hlit, BitVec.toNat_ofNat]
  have := w.isLt
  omega

theorem Core.headBits_of_literal {w : BundleBits} (hr : c.timed.seq.loop.replays = false) (hb : c.image.badHalf = [])
    (hp : c.half c.timed.seq.pc = 0xFFFF) (hlen : c.timed.seq.pc.toNat + 25 ≤ c.image.overlayLen)
    (hw : ∀ i, i < 24 → Store.get 0 c.image.overlay (c.timed.seq.pc.toNat + 1 + i) = w.extractLsb' (16 * i) 16)
    (hv : bundleValid w = true) : c.headBits = .ok w := by
  have hfirst : c.halfTrap c.timed.seq.pc.toNat = none := Core.halfTrap_none (by omega) hb
  have hrest : c.halfTraps (c.timed.seq.pc.toNat + 1) 24 = none := Core.halfTraps_none (by omega) hb
  have hesc : (c.half c.timed.seq.pc).toNat = 0xFFFF := by rw [hp]; rfl
  simp only [Core.headBits, hr, Bool.false_eq_true, if_false, Core.fetch, hfirst, hesc, if_true, hrest, Core.literal_of_halves hw, hv]

theorem Core.headBits_of_entry (hr : c.timed.seq.loop.replays = false) (hb : c.image.badHalf = [])
    (hd : (c.half c.timed.seq.pc).toNat < c.image.dictCount) (h13 : (c.half c.timed.seq.pc).toNat < 0x2000)
    (hlen : c.timed.seq.pc.toNat < c.image.overlayLen) (hbd : c.image.badDict = []) :
    c.headBits = .ok (Store.get 0 c.image.dict (c.half c.timed.seq.pc).toNat) := by
  have hne : (c.half c.timed.seq.pc).toNat ≠ 0xFFFF := by omega
  simp only [Core.headBits, hr, Bool.false_eq_true, if_false, Core.fetch, Core.halfTrap_none hlen hb, hne, hd, h13, and_self, if_true,
    hbd, List.contains_nil]

end

/-! ### The slots of a decoded bundle -/

theorem readSync_slot (w : BitVec 40) : (readSync w).all (fun i => i.slot? == some .sync) = true := by
  unfold readSync; (repeat' split) <;> rfl

theorem readBranch_slot (w : BitVec 32) : (readBranch w).all (fun i => i.slot? == some .branch) = true := by
  unfold readBranch; (repeat' split) <;> rfl

theorem readScalar_slot (w : BitVec 32) : (readScalar w).all (fun i => i.slot? == some .scalar) = true := by
  unfold readScalar; (repeat' split) <;> rfl

theorem readVectorA_slot (w : BitVec 64) : (readVectorA w).all (fun i => i.slot? == some .vectorA) = true := by
  unfold readVectorA; (repeat' split) <;> rfl

theorem readVectorB_slot (w : BitVec 64) : (readVectorB w).all (fun i => i.slot? == some .vectorB) = true := by
  unfold readVectorB; (repeat' split) <;> rfl

theorem readMatrix_slot (w : BitVec 32) : (readMatrix w).all (fun i => i.slot? == some .matrix) = true := by
  unfold readMatrix; (repeat' split) <;> rfl

theorem readTranspose_slot (w : BitVec 32) : (readTranspose w).all (fun i => i.slot? == some .transpose) = true := by
  unfold readTranspose; (repeat' split) <;> rfl

theorem readCopy_slot (w : BitVec 48) : (readCopy w).all (fun i => i.slot? == some .copy) = true := by
  unfold readCopy; (repeat' split) <;> rfl

/-- A slot's field decodes to instructions of the slot alone. -/
theorem slot_of_slotOf {n : Nat} {k : Slot} {read : BitVec n → Option Instr}
    (hread : ∀ w, (read w).all (fun i => i.slot? == some k) = true) {w : BitVec n} {x : Option Instr}
    (h : slotOf k read w = .ok x) {i : Instr} (hi : x = some i) : i.slot? = some k := by
  have hw := hread w
  unfold slotOf at h
  split_ifs at h
  · cases h; cases hi
  · split at h
    · cases h
    · rename_i hr
      split_ifs at h
      cases h; cases hi
      rw [hr] at hw
      exact eq_of_beq hw

/-- One slot of a bundle, its instruction run as `exec` runs it. -/
def runDecoded (n : SlotNo) (x : Option Instr) (s : State) : Out := match x with
  | none => .next s
  | some i => exec i (s.inSlot n)

theorem runSlot_eq_runDecoded (n : SlotNo) {k : Slot} {x : Option Instr} (h : ∀ i, x = some i → i.slot? = some k) :
    runSlot n (slotMeaning k) x = runDecoded n x := by
  funext s
  cases x with
  | none => rfl
  | some i => exact (exec_eq_slotMeaning (h i rfl) _).symm

/-- What a bundle that decodes holds, slot by slot. -/
theorem decodeBundle_slots {w : BundleBits} {b : Bundle} (h : decodeBundle w = .ok b) :
    (∀ i, b.sync = some i → i.slot? = some .sync) ∧ (∀ i, b.br = some i → i.slot? = some .branch) ∧
    (∀ i, b.sA = some i → i.slot? = some .scalar) ∧ (∀ i, b.sB = some i → i.slot? = some .scalar) ∧
    (∀ i, b.vA = some i → i.slot? = some .vectorA) ∧ (∀ i, b.vB = some i → i.slot? = some .vectorB) ∧
    (∀ i, b.mx = some i → i.slot? = some .matrix) ∧ (∀ i, b.tr = some i → i.slot? = some .transpose) ∧
    ∀ i, b.cp = some i → i.slot? = some .copy := by
  unfold decodeBundle at h
  split at h
  · cases h
  · split at h
    iterate 9 · cases h
    rename_i hy hbr hsA hsB hvA hvB hmx htr hcp
    cases h
    exact ⟨fun _ => slot_of_slotOf readSync_slot hy, fun _ => slot_of_slotOf readBranch_slot hbr,
      fun _ => slot_of_slotOf readScalar_slot hsA, fun _ => slot_of_slotOf readScalar_slot hsB,
      fun _ => slot_of_slotOf readVectorA_slot hvA, fun _ => slot_of_slotOf readVectorB_slot hvB,
      fun _ => slot_of_slotOf readMatrix_slot hmx, fun _ => slot_of_slotOf readTranspose_slot htr,
      fun _ => slot_of_slotOf readCopy_slot hcp⟩

/-- Issue runs each slot's instruction as `exec` runs it, and the branch slot's sequencer shows to no other slot (R114). -/
theorem runSlots_of_decoded {w : BundleBits} {b : Bundle} (h : decodeBundle w = .ok b) (s : State) :
    runSlots b s =
      andThen (runDecoded 0 b.sync s) fun s0 =>
      andThen (runDecoded 0 b.br s0) fun s1 =>
      andThen (runDecoded 1 b.sA (s1.setTimed { s1.timed with seq := s0.timed.seq })) fun s2 =>
      andThen (runDecoded 2 b.sB s2) fun s3 =>
      andThen (runDecoded 3 b.vA s3) fun s4 =>
      andThen (runDecoded 4 b.vB s4) fun s5 =>
      andThen (runDecoded 5 b.mx s5) fun s6 =>
      andThen (runDecoded 6 b.tr s6) fun s7 =>
      andThen (runDecoded 7 b.cp s7) fun s8 => .next (s8.setTimed { s8.timed with seq := s1.timed.seq }) := by
  obtain ⟨hy, hbr, hsA, hsB, hvA, hvB, hmx, htr, hcp⟩ := decodeBundle_slots h
  rw [← runSlot_eq_runDecoded 0 hy, ← runSlot_eq_runDecoded 0 hbr, ← runSlot_eq_runDecoded 1 hsA, ← runSlot_eq_runDecoded 2 hsB,
    ← runSlot_eq_runDecoded 3 hvA, ← runSlot_eq_runDecoded 4 hvB, ← runSlot_eq_runDecoded 5 hmx, ← runSlot_eq_runDecoded 6 htr,
    ← runSlot_eq_runDecoded 7 hcp]
  rfl

/-! ### The step of a core whose bundle issues -/

theorem State.head_of_verdict_issue {s : State} {b : Bundle} {w : BundleBits} (h : s.verdict = .issue b w) :
    s.core.headBits = .ok w ∧ decodeBundle w = .ok b := by
  simp only [State.verdict] at h
  (repeat' split at h) <;> cases h
  have hw : s.core.headBits = .ok w := by assumption
  have hb : s.core.head = .ok b := by assumption
  rw [Core.head, hw] at hb
  cases hd : decodeBundle w with
  | ok x =>
    simp only [hd] at hb
    exact ⟨hw, congrArg Except.ok (Except.ok.inj hb)⟩
  | error x =>
    simp only [hd] at hb
    cases hb

/-- The turn of a core whose bundle issues: the cycle charged, the issue, the end of the cycle, the turn of the next. -/
theorem State.turn_of_issue {u : State} {k : Task} {b : Bundle} {w : BundleBits} (hk : u.core.task = some k)
    (hrun : k.phase = .running) (hdue : u.un.closedDue = [])
    (hno : (u.charge u.focus.val).boundaryAt (u.charge u.focus.val).focus.val = none)
    (hv : (u.charge u.focus.val).verdict = .issue b w) :
    u.turn = andThen (andThen ((u.charge u.focus.val).issue b w) State.endOfCycle) fun t => .next t.nextFocus := by
  have hcycle : u.coreCycle = andThen ((u.charge u.focus.val).issue b w) State.endOfCycle := by
    have hphase : (u.charge u.focus.val).phaseCycle k = (u.charge u.focus.val).runCycle := by unfold State.phaseCycle; rw [hrun]
    rw [State.coreCycle, hk, hdue]
    change (u.charge u.focus.val).phaseCycle k = _
    rw [hphase, State.runCycle, hno, hv]
    rfl
  rw [State.turn, hcycle]

theorem andThen_assoc (o : Out) (f g : State → Out) : andThen (andThen o f) g = andThen o fun s => andThen (f s) g := by
  cases o <;> rfl

theorem step_of_cycle {s : State} {drawn : Bool} (hc : s.choice = .cycle drawn) :
    step s = andThen (if drawn then s.drew else s).turn fun t => .next t.sweep := by
  rw [step, State.advance, hc, State.act]

/-! ### A skipped body -/

section
variable {s : State}

theorem execLoopSkip_off (h : s.timed.seq.loop.skip = false) : exec .loopSkip s = .next s := by
  have h' : s.core.timed.seq.loop.skip = false := h
  change execLoopSkip s = _
  simp [execLoopSkip, h']

theorem execLoopSkip_traps {x : Trap} (h : s.timed.seq.loop.skip = true) (hx : s.core.skipTrap = some x) :
    exec .loopSkip s = .next (s.takeTrap 0 x) := by
  have h' : s.core.timed.seq.loop.skip = true := h
  change execLoopSkip s = _
  simp [execLoopSkip, h', hx]

/-- One bundle is passed over, and what lies ahead of it is fetched. -/
theorem execLoopSkip_passes {w : BundleBits} (h : s.timed.seq.loop.skip = true) (hx : s.core.skipTrap = none)
    (hw : s.core.headBits = .ok w) : exec .loopSkip s =
      .next ((s.setTimed { s.timed with seq := s.timed.seq.skipOne (s.core.after s.timed.seq.pc) (bitAt w 1) }).fetchAhead
        (s.core.after s.timed.seq.pc)) := by
  have h' : s.core.timed.seq.loop.skip = true := h
  change execLoopSkip s = _
  simp only [execLoopSkip, h', hx, hw]
  rfl

end

/-! ### Fetch ahead -/

theorem State.fetchAhead_of_depth_zero (h : Config.fetchDepth = 0) (s : State) (p : BitVec 18) : s.fetchAhead p = s := by
  unfold State.fetchAhead
  split
  · rfl
  · rw [h]; rfl

/-- The task on core `n` has reported halfword `p`, which it only fetched ahead. -/
def State.hasReported (s : State) (n p : Nat) : Prop := ∃ k, (s.coreAt n).task = some k ∧ p ∈ k.reported

theorem State.coreAt_health (s : State) (kind u c a d n : Nat) : (s.health kind u c a d).coreAt n = s.coreAt n := by
  have h := (s.health_byHome kind u c a d).1
  rw [h]
  rfl

theorem State.aheadFault_reports {s : State} {n : Nat} {k : Task} (hn : n < 96) (hk : (s.coreAt n).task = some k) (p kind : Nat) :
    (s.aheadFault n p kind).hasReported n p := by
  rw [State.aheadFault]
  simp only [hk]
  split
  · rename_i h
    exact ⟨k, hk, List.contains_iff_mem.1 h⟩
  · exact ⟨{ k with reported := p :: k.reported }, by rw [State.coreAt_health, State.coreAt_setCoreAt _ _ _ hn],
      List.mem_cons_self⟩

theorem State.aheadFault_keeps {s : State} {n p : Nat} (hn : n < 96) (h : s.hasReported n p) (q kind : Nat) :
    (s.aheadFault n q kind).hasReported n p := by
  obtain ⟨k, hk, hp⟩ := h
  rw [State.aheadFault]
  simp only [hk]
  split
  · exact ⟨k, hk, hp⟩
  · exact ⟨{ k with reported := q :: k.reported }, by rw [State.coreAt_health, State.coreAt_setCoreAt _ _ _ hn],
      List.mem_cons_of_mem _ hp⟩

theorem State.ahead_keeps {n p : Nat} (hn : n < 96) (fuel : Nat) {s : State} (h : s.hasReported n p) (q lit : Nat) :
    (State.ahead n fuel s q lit).hasReported n p := by
  induction fuel generalizing s q lit with
  | zero => exact h
  | succ fuel ih =>
    rw [State.ahead]
    apply ih
    split_ifs
    · exact State.aheadFault_keeps hn h _ _
    · exact State.aheadFault_keeps hn h _ _
    · exact h

theorem State.ahead_focus (n fuel : Nat) (s : State) (p lit : Nat) : (State.ahead n fuel s p lit).focus = s.focus := by
  have hone : ∀ (s : State) (q kind : Nat), (s.aheadFault n q kind).focus = s.focus := fun s q kind => by
    rw [State.aheadFault]
    split
    · rfl
    · split
      · rfl
      · rw [(State.health_byHome ..).1, State.setCoreAt_focus]
  induction fuel generalizing s p lit with
  | zero => rfl
  | succ fuel ih =>
    rw [State.ahead]
    refine (ih ..).trans ?_
    split_ifs
    · exact hone ..
    · exact hone ..
    · rfl

/-- A halfword beyond the overlay that is fetched ahead at once is reported. -/
theorem State.fetchAhead_reports {s : State} {k : Task} {p : BitVec 18} (hd : Config.fetchDepth ≠ 0) (hk : s.core.task = some k)
    (hr : s.timed.seq.loop.replays = false) (hp : s.core.image.overlayLen ≤ p.toNat) :
    ∃ k', (s.fetchAhead p).core.task = some k' ∧ p.toNat ∈ k'.reported := by
  have hclean : s.core.aheadClean p.toNat 64 = false := by
    rw [Core.aheadClean, decide_eq_false (by omega), Bool.false_and, Bool.false_and]
  obtain ⟨m, hm⟩ := Nat.exists_eq_succ_of_ne_zero (show min 64 Config.fetchDepth ≠ 0 by omega)
  have hcore : s.coreAt s.focus.val = s.core := dif_pos s.focus.isLt
  have hfetch : s.fetchAhead p = State.ahead s.focus.val (m + 1) s p.toNat 0 := by
    rw [State.fetchAhead, hr, hclean, hm]
    rfl
  have hrep : (s.fetchAhead p).hasReported s.focus.val p.toNat := by
    rw [hfetch, State.ahead, hcore]
    simp only [hp, if_true]
    exact State.ahead_keeps s.focus.isLt m (State.aheadFault_reports s.focus.isLt (hcore ▸ hk) _ _) _ _
  have hfocus : (s.fetchAhead p).focus = s.focus := by rw [hfetch, State.ahead_focus]
  rw [State.hasReported, ← hfocus] at hrep
  have hcore' : (s.fetchAhead p).coreAt (s.fetchAhead p).focus.val = (s.fetchAhead p).core := dif_pos (s.fetchAhead p).focus.isLt
  rwa [hcore'] at hrep

/-! ### What the statement comes to -/

/-- A core that skips a body whose next bundle is the last of the overlay. -/
def skipAtEnd : State := State.reset.setCore
  { Core.reset with
    task := some .plain
    image := { Image.reset with dictCount := 1, overlayLen := 1 }
    timed := { Timed.reset with seq := { Timed.reset.seq with pc := 0, loop := { LoopState.idle with skip := true } } } }

/-- The passing over of a bundle, with nothing fetched ahead of it. -/
theorem execLoopSkip_passes_of_depth_zero {s : State} {w : BundleBits} (hd : Config.fetchDepth = 0)
    (h : s.timed.seq.loop.skip = true) (hx : s.core.skipTrap = none) (hw : s.core.headBits = .ok w) :
    ∃ t, exec .loopSkip s = .next t ∧ t.un = s.un ∧ t.core.task = s.core.task ∧ t.timed = { s.timed with seq :=
      { s.timed.seq with
        pc := s.core.after s.timed.seq.pc
        loop := if bitAt w 1 then .idle else { s.timed.seq.loop with pos := s.timed.seq.loop.pos + 1 } } } := by
  refine ⟨_, (execLoopSkip_passes h hx hw).trans (by rw [State.fetchAhead_of_depth_zero hd]), State.un_setTimed .., ?_, ?_⟩
  · rw [State.core_setTimed]
  · rw [State.timed_setTimed, Seq.skipOne]
    cases bitAt w 1 <;> rfl

theorem skipAtEnd_facts :
    ∃ w, skipAtEnd.timed.seq.loop.skip = true ∧ skipAtEnd.core.skipTrap = none ∧ skipAtEnd.core.headBits = .ok w ∧
      skipAtEnd.core.task = some .plain := by
  have hw : skipAtEnd.core.headBits = .ok 0 := by
    rw [skipAtEnd, State.core_setCore]
    exact Core.headBits_of_entry rfl rfl (by decide) (by decide) (by decide) rfl
  refine ⟨0, by rw [skipAtEnd, State.timed_setCore], ?_, hw, by rw [skipAtEnd, State.core_setCore]⟩
  rw [Core.skipTrap, hw, skipAtEnd, State.core_setCore]
  rfl

/-- The bundle after the one it passes over is none of the overlay's. -/
theorem skipAtEnd_next : skipAtEnd.core.image.overlayLen ≤ (skipAtEnd.core.after skipAtEnd.timed.seq.pc).toNat := by
  rw [skipAtEnd, State.core_setCore, State.timed_setCore]
  decide

/-- O16 is left open: all of it holds of a device that fetches nothing ahead, but where one is fetched ahead beyond the overlay while a
body is skipped, the task reports it (R396), so that the last clause's `t.core.task = s.core.task` fails. `Config.fetchDepth` is a
constant without a body (log entry 15), and neither side can be proved. -/
theorem stepRunsDecodedInstruction_iff : Obligations.StepRunsDecodedInstruction ↔ Config.fetchDepth = 0 := by
  constructor
  · rintro ⟨-, -, -, h⟩
    obtain ⟨w, hskip, htrap, hw, htask⟩ := skipAtEnd_facts
    obtain ⟨-, -, -, -, -, -, hpass⟩ := h skipAtEnd Bundle.nop w
    obtain ⟨t, ht, -, hkept, -⟩ := hpass hskip htrap hw
    rw [execLoopSkip_passes hskip htrap hw] at ht
    obtain rfl := Host.Outcome.next.inj ht
    by_contra hd
    obtain ⟨k, hk, hp⟩ := State.fetchAhead_reports (k := .plain) (p := skipAtEnd.core.after skipAtEnd.timed.seq.pc)
      (s := skipAtEnd.setTimed { skipAtEnd.timed with
        seq := skipAtEnd.timed.seq.skipOne (skipAtEnd.core.after skipAtEnd.timed.seq.pc) (bitAt w 1) })
      hd (by rw [State.core_setTimed]; exact htask) (by rw [State.timed_setTimed, Seq.skipOne]; cases bitAt w 1 <;> rfl)
      (by rw [State.core_setTimed]; exact skipAtEnd_next)
    rw [hkept, htask] at hk
    cases hk
    cases hp
  · intro hd
    refine ⟨fun c w hr hb => ⟨fun hp hlen hh hv => Core.headBits_of_literal hr hb hp hlen hh hv,
      fun hdict h13 hlen hbd => Core.headBits_of_entry hr hb hdict h13 hlen hbd⟩, fun w b s h => runSlots_of_decoded h s,
      fun s k b w drawn hc hk hrun hdue hno hv => ?_, fun s b w => ⟨rfl, fun h => ?_, fun n x h => ?_, fun cause h => ?_, execLoopSkip_off,
        fun x h hx => execLoopSkip_traps h hx, execLoopSkip_passes_of_depth_zero hd⟩⟩
    · obtain ⟨hw, hb⟩ := State.head_of_verdict_issue hv
      refine ⟨hw, hb, ?_⟩
      rw [step_of_cycle hc, State.turn_of_issue hk hrun hdue hno hv, andThen_assoc]
      rfl
    · have he : exec .headOfIssue s = s.issue b w := by change execHeadOfIssue s = _; rw [execHeadOfIssue, h]
      obtain ⟨t, ht⟩ := State.issue_goesOn s b w
      exact ⟨he, t, he.trans ht, trivial⟩
    · change execHeadOfIssue s = _; rw [execHeadOfIssue, h]
    · change execHeadOfIssue s = _
      rw [execHeadOfIssue, h]
      by_cases hc : cause = 4
      · simp only [hc, if_true]; rfl
      · simp only [hc, if_false]

end Sys2Proof.Machine
end

section
/-!
SUPPORT. The scalar slots (R144-R149): what the shared shapes of the register-to-register, immediate and FP32 instructions put in
flight, and the values of those whose meaning is not written as the rules write it.
-/

namespace Sys2Proof.Machine

/-! ### The shapes -/

section
variable {s : State} {i : Instr} {d a b : BitVec 6} {v : Word}

theorem exec_rr_gives (f : Word → Word → Word) {lat : Nat} (hi : exec i s = execRR f lat d a b s)
    (h : f (s.timed.sreg a) (s.timed.sreg b) = v) : exec i s = .next (s.setTimed (s.timed.pendS lat d v)) := by
  subst h; exact hi

theorem exec_r_gives (f : Word → Word) (hi : exec i s = execR f d a s) (h : f (s.timed.sreg a) = v) :
    exec i s = .next (s.setTimed (s.timed.pendS 1 d v)) := by
  subst h; exact hi

theorem exec_f_gives (f : Timed → Word × BitVec 5) {x : BitVec 5} (hi : exec i s = execF d f s) (h : f s.timed = (v, x)) :
    exec i s = .next (s.setTimed (s.timed.pendFps 4 (.scalar d v) x)) := by
  rw [hi, execF, State.timedNext, h]

end

/-! ### Values (R144, R148) -/

theorem shiftBy_eq (y : Word) : shiftBy y = y.toNat % 64 := by simp [shiftBy, bits]

theorem boolWord_decide (p : Prop) [Decidable p] : boolWord (decide p) = if p then 1 else 0 := by simp [boolWord]

theorem boolWord_beq (x y : Word) : boolWord (x == y) = if x = y then 1 else 0 := by simp [boolWord]

theorem ite_decide_word (p : Prop) [Decidable p] (x y : Word) :
    (if decide p = true then x else y) = if p then x else y := by simp only [decide_eq_true_eq]

theorem mulHigh_natCast (n : Nat) : mulHigh (n : Int) = BitVec.ofNat 64 (n / 2 ^ 64) := by
  rw [mulHigh, wrapInt, ← BitVec.ofInt_natCast]
  rfl

theorem toNat_capSeg (x : Word) : (capSeg x).toNat = x.toNat / 2 ^ 58 := by
  simp only [capSeg, BitVec.extractLsb'_toNat, Nat.shiftRight_eq_div_pow]
  omega

theorem toNat_capOff (x : Word) : (capOff x).toNat = x.toNat % 2 ^ 58 := by
  simp [capOff]

/-- A capability is its segment above its offset (R83). -/
theorem append_capability (g : BitVec 6) (o : BitVec 58) : (g ++ o : Word) = BitVec.ofNat 64 (g.toNat * 2 ^ 58 + o.toNat) := by
  apply BitVec.eq_of_toNat_eq
  have hg := g.isLt
  have ho := o.isLt
  rw [BitVec.toNat_append, ← Nat.shiftLeft_add_eq_or_of_lt ho, Nat.shiftLeft_eq, BitVec.toNat_ofNat]
  omega

theorem capSeg_append_add (x y : Word) : (capSeg x ++ (capOff x + y.setWidth 58) : Word) =
    BitVec.ofNat 64 (x.toNat / 2 ^ 58 * 2 ^ 58 + (x.toNat + y.toNat) % 2 ^ 58) := by
  rw [append_capability, toNat_capSeg, BitVec.toNat_add, toNat_capOff, BitVec.toNat_setWidth, ← Nat.add_mod]

theorem append_capOff (g : BitVec 6) (x : Word) :
    (g ++ capOff x : Word) = BitVec.ofNat 64 (g.toNat * 2 ^ 58 + x.toNat % 2 ^ 58) := by
  rw [append_capability, toNat_capOff]

theorem setWidth_capSeg (x : Word) : (capSeg x).setWidth 64 = BitVec.ofNat 64 (x.toNat / 2 ^ 58) := by
  rw [← toNat_capSeg, BitVec.ofNat_toNat]

theorem setWidth_capOff (x : Word) : (capOff x).setWidth 64 = BitVec.ofNat 64 (x.toNat % 2 ^ 58) := by
  rw [← toNat_capOff, BitVec.ofNat_toNat]

/-! ### The instructions -/

/-- Settles O1: each instruction by its shape, and the value of each that the rules write otherwise. -/
theorem integerAndCapabilityResults : Obligations.IntegerAndCapabilityResults := by
  refine ⟨fun s d a b => ?_, fun s d a i sh q w => ?_, fun s d a b g i => ?_⟩
  · have shift := shiftBy_eq (s.timed.sreg b)
    exact ⟨rfl, rfl, rfl, rfl, rfl,
      exec_rr_gives (fun x y => x <<< shiftBy y) rfl (by rw [shift]),
      exec_rr_gives (fun x y => x >>> shiftBy y) rfl (by rw [shift]),
      exec_rr_gives (fun x y => x.sshiftRight (shiftBy y)) rfl (by rw [shift]),
      exec_rr_gives (fun x y => boolWord (x.slt y)) rfl (boolWord_decide _),
      exec_rr_gives (fun x y => boolWord (x.ult y)) rfl (boolWord_decide _),
      exec_rr_gives (fun x y => boolWord (x == y)) rfl (boolWord_beq _ _),
      exec_rr_gives (fun x y => if x.sle y then x else y) rfl (ite_decide_word _ _ _),
      exec_rr_gives (fun x y => if y.sle x then x else y) rfl (ite_decide_word _ _ _),
      exec_rr_gives (fun x y => if x.ule y then x else y) rfl (ite_decide_word _ _ _),
      exec_rr_gives (fun x y => if y.ule x then x else y) rfl (ite_decide_word _ _ _),
      rfl, rfl, exec_rr_gives (fun x y => mulHigh ((x.toNat : Int) * y.toNat)) rfl (mulHigh_natCast (_ * _)),
      rfl, rfl, rfl, rfl⟩
  · exact ⟨rfl, rfl, rfl, rfl, rfl, rfl, rfl, exec_r_gives (fun x => boolWord (x.slt (sext12 i))) rfl (boolWord_decide _),
      rfl, rfl⟩
  · exact ⟨exec_rr_gives (fun x y => capSeg x ++ (capOff x + y.setWidth 58)) rfl (capSeg_append_add _ _),
      exec_r_gives (fun x => capSeg x ++ (capOff x + (sext12 i).setWidth 58)) rfl (capSeg_append_add _ _),
      exec_r_gives (fun x => g ++ capOff x) rfl (append_capOff _ _),
      exec_r_gives (fun x => (capSeg x).setWidth 64) rfl (setWidth_capSeg _),
      exec_r_gives (fun x => (capOff x).setWidth 64) rfl (setWidth_capOff _)⟩

/-! ### FP32 (R149) -/

theorem fpsBits_ix (ix : Bool) : fpsBits false false false ix = if ix then 16 else 0 := by cases ix <;> rfl

theorem fpsBits_iv (iv : Bool) : fpsBits iv false false false = if iv then 1 else 0 := by cases iv <;> rfl

/-- The integer that CVT.i64.f32 gives where it lies in range. -/
theorem toInt_wrapInt {x : Int} (hlo : -2 ^ 63 ≤ x) (hhi : x ≤ 2 ^ 63 - 1) : (wrapInt 64 x).toInt = x := by
  rw [wrapInt, BitVec.toInt_ofInt]
  exact Int.bmod_eq_of_le (by omega) (by omega)

section
variable {rtz neg : Bool} {m : Nat} {e : Int}

theorem cvtToI64_below (h : (roundInt rtz neg m e).1 < -2 ^ 63) : cvtToI64 rtz (.num neg m e) = (0x8000000000000000, 5) :=
  if_pos h

theorem cvtToI64_above (h : 2 ^ 63 - 1 < (roundInt rtz neg m e).1) : cvtToI64 rtz (.num neg m e) = (0x7FFFFFFFFFFFFFFF, 5) :=
  (if_neg (by omega)).trans (if_pos h)

theorem cvtToI64_within (hlo : -2 ^ 63 ≤ (roundInt rtz neg m e).1) (hhi : (roundInt rtz neg m e).1 ≤ 2 ^ 63 - 1) :
    cvtToI64 rtz (.num neg m e) = (wrapInt 64 (roundInt rtz neg m e).1, if (roundInt rtz neg m e).2 then 16 else 0) := by
  rw [cvtToI64, if_neg (not_lt.2 hlo), if_neg (not_lt.2 hhi), fpsBits_ix]

end

/-- Settles O2: each instruction by its shape, and CVT.i64.f32 by where the rounded integer lies. -/
theorem scalarFp32Results : Obligations.ScalarFp32Results := by
  refine ⟨fun s d a b => ?_, fun s d a => ?_⟩
  · exact ⟨rfl, rfl, rfl, rfl, rfl, rfl,
      exec_f_gives (fun t => let x := lowF32 (t.sreg a); let y := lowF32 (t.sreg b)
        (boolWord (x.lt y), fpsBits (x.isNan || y.isNan) false false false)) rfl (Prod.ext rfl (fpsBits_iv _)), rfl,
      exec_f_gives (fun t => let r := roundTo fp32 t.srtz (ofInt (t.sreg a).toInt)
        (f32Word r.val, fpsBits false false false r.inexact)) rfl (Prod.ext rfl (fpsBits_ix _)), rfl⟩
  · have cvt : ∀ {x : FVal} {v : Word} {f : BitVec 5}, lowF32 (s.timed.sreg a) = x → cvtToI64 s.timed.srtz x = (v, f) →
        exec (.cvtI64F32 d a) s = .next (s.setTimed (s.timed.pendFps 4 (.scalar d v) f)) := by
      rintro _ v f rfl h
      exact exec_f_gives (fun t => cvtToI64 t.srtz (lowF32 (t.sreg a))) rfl h
    intro rtz gives
    cases hx : lowF32 (s.timed.sreg a) with
    | nan => exact cvt hx rfl
    | inf neg => exact cvt hx rfl
    | num neg m e =>
      exact ⟨fun hlo hhi => ⟨_, toInt_wrapInt hlo hhi, cvt hx (cvtToI64_within hlo hhi)⟩,
        fun hlo => cvt hx (cvtToI64_below hlo), fun hhi => cvt hx (cvtToI64_above hhi)⟩

end Sys2Proof.Machine
end

section
/-!
SUPPORT. The scratchpad loads and stores of the scalar slots (R150, R151): the checks of an address, what an access whose checks pass
puts in flight, and the bytes that a store writes and a load reads (R1).
-/

namespace Sys2Proof.Machine

/-! ### The checks (R151) -/

section
variable {t : Timed} {a : BitVec 6} {i : BitVec 12} {n : Nat}

theorem spTrap_none (h : spAddr t a i + n ≤ 8388608 ∧ spAddr t a i % n = 0) : spTrap t a i n = none := by
  obtain ⟨hrange, halign⟩ := h
  exact (if_neg (Nat.not_lt.2 hrange)).trans (if_neg (not_not.2 halign))

theorem spTrap_range (h : 8388608 < spAddr t a i + n) : spTrap t a i n = some ⟨0x0B, BitVec.ofNat 64 (spAddr t a i)⟩ :=
  if_pos h

theorem spTrap_alignment (hrange : spAddr t a i + n ≤ 8388608) (halign : spAddr t a i % n ≠ 0) :
    spTrap t a i n = some ⟨0x0C, BitVec.ofNat 64 (spAddr t a i)⟩ :=
  (if_neg (Nat.not_lt.2 hrange)).trans (if_pos halign)

end

/-! ### Loads and stores -/

section
variable {s : State} {j : Instr} {d a b : BitVec 6} {i : BitVec 12} {n : Nat}

theorem exec_load_completes (ext : Nat → Word) {v : Word} (hj : exec j s = execLds n ext d a i s)
    (hv : ext (s.timed.sread (spAddr s.timed a i) n) = v)
    (h : spAddr s.timed a i + n ≤ 8388608 ∧ spAddr s.timed a i % n = 0) :
    exec j s = .next (s.setTimed (s.timed.pendS 4 d v)) := by
  rw [hj, execLds, spTrap_none h, State.trapOr_none, hv]

theorem exec_store_completes (hj : exec j s = execSts n b a i s)
    (h : spAddr s.timed a i + n ≤ 8388608 ∧ spAddr s.timed a i % n = 0) :
    exec j s = .next (s.setTimed (s.timed.pend 2 (.scratch [storePart (spAddr s.timed a i) n (s.timed.sreg b).toNat]))) := by
  rw [hj, execSts, spTrap_none h, State.trapOr_none]

/-- An access of `n` bytes takes its trap in place of any effect: the range trap first, then the alignment trap. -/
theorem trapOr_spTrap (f : Timed → Timed) :
    let x := spAddr s.timed a i
    let o := s.trapOr (scalarSlot s.timed) (spTrap s.timed a i n) f
    (8388608 < x + n → o = .next (s.takeTrap (scalarSlot s.timed) ⟨0x0B, BitVec.ofNat 64 x⟩)) ∧
    (x + n ≤ 8388608 → x % n ≠ 0 → o = .next (s.takeTrap (scalarSlot s.timed) ⟨0x0C, BitVec.ofNat 64 x⟩)) := by
  refine ⟨fun h => ?_, fun hrange halign => ?_⟩
  · rw [spTrap_range h, State.trapOr_some]
  · rw [spTrap_alignment hrange halign, State.trapOr_some]

end

theorem signedElem_eq_toInt {w x : Nat} (hw : 0 < w) (hx : x < 2 ^ w) : signedElem w x = (BitVec.ofNat w x).toInt := by
  have hpow : 2 ^ w = 2 * 2 ^ (w - 1) := by rw [← Nat.pow_succ', Nat.succ_eq_add_one, Nat.sub_add_cancel hw]
  rw [signedElem, BitVec.toInt_eq_toNat_cond, BitVec.toNat_ofNat, Nat.mod_eq_of_lt hx]
  by_cases h : 2 ^ (w - 1) ≤ x
  · rw [if_pos h, if_neg (by omega)]
    norm_cast
  · rw [if_neg h, if_pos (by omega)]

/-- The sign extension of a load. -/
theorem sextW_eq_signExtend {w x : Nat} (hw : 0 < w) (hx : x < 2 ^ w) : sextW w x = (BitVec.ofNat w x).signExtend 64 := by
  rw [sextW, signedElem_eq_toInt hw hx]
  rfl

theorem Timed.sread_lt (t : Timed) (a n : Nat) : t.sread a n < 2 ^ (8 * n) := Nat.mod_lt _ (Nat.two_pow_pos _)

/-- Settles O3: where the checks pass by what the access puts in flight, elsewhere by the check that fails first. -/
theorem scratchpadInstructions : Obligations.ScratchpadInstructions := by
  refine ⟨fun s d a b i => ?_, fun s d a b i => ?_⟩
  · have unsigned : ∀ {j : Instr} {n : Nat}, exec j s = execLds n zext d a i s → _ := fun hj => exec_load_completes zext hj rfl
    have signed : ∀ {j : Instr} (n : Nat), 0 < n → exec j s = execLds n (sextW (8 * n)) d a i s → _ :=
      fun n hn hj => exec_load_completes (sextW (8 * n)) hj (sextW_eq_signExtend (by omega) (s.timed.sread_lt _ n))
    have store : ∀ {j : Instr} {n : Nat}, exec j s = execSts n b a i s → _ := exec_store_completes
    exact ⟨unsigned rfl, signed 1 Nat.one_pos rfl, unsigned rfl, signed 2 Nat.two_pos rfl, unsigned rfl,
      signed 4 (Nat.succ_pos _) rfl, unsigned rfl, store rfl, store rfl, store rfl, store rfl⟩
  · exact ⟨(trapOr_spTrap _).1, (trapOr_spTrap _).1, (trapOr_spTrap _).1, trapOr_spTrap _, trapOr_spTrap _, trapOr_spTrap _,
      trapOr_spTrap _, trapOr_spTrap _, trapOr_spTrap _, trapOr_spTrap _, trapOr_spTrap _⟩

/-! ### The bytes of an access (R1, R150) -/

theorem getLsbD_storePart_mask (a n v k : Nat) : (storePart a n v).mask.getLsbD k =
    decide (k < 32768 ∧ 8 * (a % 4096) ≤ k ∧ k < 8 * (a % 4096) + 8 * n) := by
  simp only [storePart, BitVec.getLsbD_ofNat, Nat.testBit_shiftLeft, Nat.testBit_two_pow_sub_one]
  rw [Bool.eq_iff_iff]
  simp only [Bool.and_eq_true, decide_eq_true_eq]
  omega

theorem getLsbD_storePart_data {a n k : Nat} (v : Nat) (hk : k < 8 * n) (h : 8 * (a % 4096) + k < 32768) :
    (storePart a n v).data.getLsbD (8 * (a % 4096) + k) = v.testBit k := by
  simp only [storePart, BitVec.getLsbD_ofNat, Nat.testBit_shiftLeft, Nat.testBit_mod_two_pow]
  simp [hk, h]

theorem getLsbD_byteOf (v k i : Nat) (hi : i < 8) : (BitVec.ofNat 8 (v / 256 ^ k)).getLsbD i = v.testBit (8 * k + i) := by
  rw [show 256 ^ k = 2 ^ (8 * k) from (Nat.pow_mul 2 8 k).symm, BitVec.getLsbD_ofNat, Nat.testBit_div_two_pow]
  simp [hi, Nat.add_comm]

/-- The byte at `x` after a store of `n` bytes at `a` in one stripe. -/
theorem Timed.sbyte_storePart (t : Timed) {a n : Nat} (v : Nat) (h : a % 4096 + n ≤ 4096) (x : Nat) :
    (t.writePart (storePart a n v)).sbyte x =
      if a ≤ x ∧ x < a + n then BitVec.ofNat 8 (v / 256 ^ (x - a)) else t.sbyte x := by
  split_ifs with hx
  · obtain ⟨k, rfl⟩ := Nat.exists_eq_add_of_le hx.1
    have hk : k < n := by omega
    have hmod : (a + k) % 4096 = a % 4096 + k := by omega
    rw [Timed.sbyte_writePart_full t _ (a + k) (show a / 4096 = (a + k) / 4096 by omega), Nat.add_sub_cancel_left, hmod]
    · refine BitVec.eq_of_getLsbD_eq fun i hi => ?_
      rw [getLsbD_byteOf v k i hi, BitVec.getLsbD_extractLsb', Nat.mul_add, Nat.add_assoc,
        getLsbD_storePart_data v (by omega) (by omega)]
      simp [hi]
    · refine BitVec.eq_of_getLsbD_eq fun i hi => ?_
      rw [BitVec.getLsbD_extractLsb', getLsbD_storePart_mask, BitVec.getLsbD_allOnes]
      simp only [hi, decide_true, Bool.true_and, decide_eq_true_eq]
      omega
  · refine t.sbyte_writePart_other _ x ?_
    rintro ⟨hs, hm⟩
    refine hm (BitVec.eq_of_getLsbD_eq (y := 0#8) fun i hi => ?_)
    change a / 4096 = x / 4096 at hs
    rw [BitVec.getLsbD_extractLsb', getLsbD_storePart_mask, BitVec.getLsbD_zero, Bool.and_eq_false_iff]
    refine .inr (decide_eq_false ?_)
    omega

theorem Timed.byte_sread (t : Timed) {a n k : Nat} (h : a % 4096 + n ≤ 4096) (hk : k < n) :
    BitVec.ofNat 8 (t.sread a n / 256 ^ k) = t.sbyte (a + k) := by
  have hmod : (a + k) % 4096 = a % 4096 + k := by omega
  have hdiv : (a + k) / 4096 = a / 4096 := by omega
  refine BitVec.eq_of_getLsbD_eq fun i hi => ?_
  have hbit : 8 * k + i < 8 * n := by omega
  rw [getLsbD_byteOf _ k i hi, Timed.sread, Timed.sbyte, hmod, hdiv, BitVec.getLsbD_extractLsb', Nat.testBit_mod_two_pow,
    Nat.testBit_shiftRight, BitVec.testBit_toNat, Nat.mul_add, Nat.add_assoc]
  simp [hi, hbit]

/-! ### Landings without FPSTAT bits and BSTAT updates -/

theorem Timed.orFps_zero (t : Timed) : t.orFps 0 = t := by simp [Timed.orFps]

theorem Pend.land_plain (n : Nat) (k : SlotNo) (r : Result) (t : Timed) :
    (⟨n, k, r, 0, []⟩ : Pend).land t = (⟨n, k, r, 0, []⟩ : Pend).landValue t := Timed.orFps_zero _

/-- Settles O4: the landing is the write of one stripe part, read byte by byte. -/
theorem scratchpadBytes : Obligations.ScratchpadBytes := by
  refine ⟨fun t A n v slot h _ => ?_, fun t A n h => ⟨?_, fun k hk => t.byte_sread h hk⟩⟩
  · rw [Pend.land_plain]
    exact ⟨t.sbyte_storePart v.toNat h, rfl, rfl, rfl, rfl, rfl, rfl, rfl, rfl, rfl, rfl⟩
  · rw [show 256 ^ n = 2 ^ (8 * n) from (Nat.pow_mul 2 8 n).symm]
    exact t.sread_lt A n

end Sys2Proof.Machine
end

section
/-!
SUPPORT. Special registers (R152, R153) and SHAPE (R154): what a register reads at issue, where a write lands, and the fields of a
grant.
-/

namespace Sys2Proof.Machine

/-! ### Reading (R152) -/

theorem exec_mfsr_reads {s : State} {d : BitVec 6} {r : BitVec 12} {v : Word} (h : srValue s r = v) :
    exec (.mfsr d r) s = .next (s.setTimed (s.timed.pendS 1 d v)) := by subst h; rfl

theorem taskValue_of_task {s : State} {k : Task} (h : s.core.task = some k) (f : Task → Nat) :
    taskValue s f = BitVec.ofNat 64 (f k) := by rw [taskValue, h]

theorem srValue_loopCounter (s : State) (j : Fin 6) :
    srValue s (0x018 + BitVec.ofNat 12 j.val) = (s.timed.seq.loop.cnt.get j).setWidth 64 := by
  fin_cases j <;> rfl

/-! ### Landing (R153, R65, R68) -/

theorem Pend.land_special (n : BitVec 12) (v : Word) (slot : SlotNo) (t : Timed) :
    (⟨0, slot, .special n v, 0, []⟩ : Pend).land t = t.setSpecial n v := Pend.land_plain ..

/-- Settles O5: each register by what its number names, each write by its clear and its landing. -/
theorem specialRegisters : Obligations.SpecialRegisters := by
  refine ⟨fun s k d a r hk => ?_, fun t v slot => ?_⟩
  · have task : ∀ {n : BitVec 12} (f : Task → Nat), srValue s n = taskValue s f →
        exec (.mfsr d n) s = .next (s.setTimed (s.timed.pendS 1 d (BitVec.ofNat 64 (f k)))) :=
      fun f h => exec_mfsr_reads (h.trans (taskValue_of_task hk f))
    have ident : ∀ {n : BitVec 12} (f : Task → BitVec 32), srValue s n = (taskValue s fun k => (f k).toNat) →
        exec (.mfsr d n) s = .next (s.setTimed (s.timed.pendS 1 d ((f k).setWidth 64))) :=
      fun f h => exec_mfsr_reads (h.trans ((taskValue_of_task hk _).trans (BitVec.ofNat_toNat 64 (f k))))
    exact ⟨task (fun k => k.taskIdx.toNat % cardSpanX k.card) rfl,
      task (fun k => k.taskIdx.toNat / cardSpanX k.card % cardSpanY k.card) rfl,
      task (fun k => k.taskIdx.toNat / (cardSpanX k.card * cardSpanY k.card)) rfl,
      task (fun k => cardSpanX k.card) rfl, task (fun k => cardSpanY k.card) rfl, task (fun k => cardSpanZ k.card) rfl,
      ident Task.taskIdx rfl, ident Task.regionId rfl, ident Task.cardIdx rfl,
      rfl, rfl, rfl, rfl, rfl, rfl, rfl, rfl, rfl, fun j => exec_mfsr_reads (srValue_loopCounter s j), rfl⟩
  · refine ⟨?_, ?_, ?_⟩
    all_goals rw [Pend.land_special]; rfl

/-! ### The grant of SHAPE (R154) -/

theorem or_eq_add_of_dvd_of_lt {x y k : Nat} (hx : 2 ^ k ∣ x) (hy : y < 2 ^ k) : x ||| y = x + y := by
  obtain ⟨q, rfl⟩ := hx
  exact (Nat.two_pow_add_eq_or_of_lt hy q).symm

/-- Four fields of 16 bits, none wider than its place. -/
theorem or_fields_eq_add (e : Nat) {c r v : Nat} (hc : c < 2 ^ 16) (hr : r < 2 ^ 16) (hv : v < 2 ^ 16) :
    e <<< 48 ||| c <<< 32 ||| r <<< 16 ||| v = e * 2 ^ 48 + c * 2 ^ 32 + r * 2 ^ 16 + v := by
  simp only [Nat.shiftLeft_eq]
  rw [or_eq_add_of_dvd_of_lt (k := 48) (y := c * 2 ^ 32) (by omega) (by omega),
    or_eq_add_of_dvd_of_lt (k := 32) (y := r * 2 ^ 16) (by omega) (by omega),
    or_eq_add_of_dvd_of_lt (k := 16) (by omega) hv]

theorem grant_le (n most : Nat) : (if n = 0 ∨ most < n then most else n) ≤ most := by split_ifs <;> omega

theorem toNat_shapeGrant (x : Word) (ew : BitVec 2) :
    let within := fun (n most : Nat) => if n = 0 ∨ most < n then most else n
    (shapeGrant x ew).toNat = ew.toNat * 2 ^ 48 + within (x.toNat / 2 ^ 32 % 8192) (4096 / 2 ^ ew.toNat) * 2 ^ 32 +
      within (x.toNat / 2 ^ 16 % 8192) 128 * 2 ^ 16 + within (x.toNat % 8192) 1024 := by
  intro within
  have hfield : bits x.toNat 44 32 = x.toNat / 2 ^ 32 % 8192 ∧ bits x.toNat 28 16 = x.toNat / 2 ^ 16 % 8192 ∧
      bits x.toNat 12 0 = x.toNat % 8192 := by simp [bits, Nat.shiftRight_eq_div_pow]
  obtain ⟨hcols, hrows, hvl⟩ := hfield
  have hmost : 4096 / 2 ^ ew.toNat ≤ 4096 := Nat.div_le_self ..
  have hew := ew.isLt
  have hc := grant_le (x.toNat / 2 ^ 32 % 8192) (4096 / 2 ^ ew.toNat)
  have hr := grant_le (x.toNat / 2 ^ 16 % 8192) 128
  have hv := grant_le (x.toNat % 8192) 1024
  simp only [shapeGrant, hcols, hrows, hvl, Nat.shiftRight_eq_div_pow 4096]
  rw [or_fields_eq_add _ (by omega) (by omega) (by omega), BitVec.toNat_ofNat, Nat.mod_eq_of_lt (by omega)]

end Sys2Proof.Machine

namespace Sys2Proof

/-- Settles O6: one grant for both destinations, read field by field. -/
theorem shapeGrant : Obligations.ShapeGrant :=
  fun s _ a ew => ⟨Machine.shapeGrant (s.timed.sreg a) ew, rfl, fun _ => Machine.toNat_shapeGrant _ ew⟩

end Sys2Proof
end

section
/-!
SUPPORT. The rest of the branch slot: the active bits of a mask under BMT and BMF (R157), the return stack and loop nests (R159, R160),
and the system instructions that end a task (R163, R165, R49).
-/

namespace Sys2Proof.Machine

/-! ### The active bits of a mask (R157) -/

section
variable {t : Timed} {m : BitVec 4}

theorem testBit_activeBits (n : Nat) : (t.activeBits m).testBit n = (decide (n < t.vl) && (t.mreg m).getLsbD n) :=
  Nat.testBit_mod_two_pow ..

theorem allSet_iff : t.allSet m = true ↔ ∀ n, n < t.vl → (t.mreg m).getLsbD n = true := by
  rw [Timed.allSet, beq_iff_eq]
  refine ⟨fun h n hn => ?_, fun h => Nat.eq_of_testBit_eq fun n => ?_⟩
  · have := congrArg (Nat.testBit · n) h
    simpa [testBit_activeBits, Nat.testBit_two_pow_sub_one, hn] using this
  · rw [testBit_activeBits, Nat.testBit_two_pow_sub_one]
    by_cases hn : n < t.vl
    · rw [h n hn, Bool.and_true]
    · simp [hn]

theorem noneSet_iff : t.noneSet m = true ↔ ∀ n, n < t.vl → (t.mreg m).getLsbD n = false := by
  rw [Timed.noneSet, beq_iff_eq]
  refine ⟨fun h n hn => ?_, fun h => Nat.eq_of_testBit_eq fun n => ?_⟩
  · have := congrArg (Nat.testBit · n) h
    simpa [testBit_activeBits, hn] using this
  · rw [testBit_activeBits, Nat.zero_testBit]
    by_cases hn : n < t.vl
    · rw [h n hn, Bool.and_false]
    · simp [hn]

/-- With an active lane, a mask is not both. -/
theorem noneSet_of_allSet (hvl : 0 < t.vl) (h : t.allSet m = true) : t.noneSet m = false :=
  Bool.eq_false_iff.2 fun hn => Bool.false_ne_true ((noneSet_iff.1 hn 0 hvl).symm.trans (allSet_iff.1 h 0 hvl))

theorem allSet_of_noneSet (hvl : 0 < t.vl) (h : t.noneSet m = true) : t.allSet m = false :=
  Bool.eq_false_iff.2 fun ha => Bool.false_ne_true ((noneSet_of_allSet hvl ha).symm.trans h)

end

section
variable {s : State} {m : BitVec 4} (hb : s.timed.seq.bdelay = 0) (hl : s.timed.seq.loop.active = false) (x : BitVec 18)
include hb hl

theorem maskTrap_eq_mixedTrap : maskTrap s.timed m = mixedTrap s.timed m := by
  rw [maskTrap, ctlTrap_none hb hl, Option.none_or]

theorem maskBranches_uniform (h : (s.timed.allSet m || s.timed.noneSet m) = true) :
    let four := s.core.fourth s.timed.seq.pc
    exec (.bmt m x) s = .next (s.setTimed (s.timed.transfer (if s.timed.allSet m then x else four))) ∧
    exec (.bmf m x) s = .next (s.setTimed (s.timed.transfer (if s.timed.noneSet m then x else four))) := by
  have hnone : maskTrap s.timed m = none := (maskTrap_eq_mixedTrap hb hl).trans (if_pos h)
  change s.trapOr 0 (maskTrap s.timed m) _ = _ ∧ s.trapOr 0 (maskTrap s.timed m) _ = _
  rw [hnone]
  exact ⟨rfl, rfl⟩

theorem maskBranches_mixed (h : (s.timed.allSet m || s.timed.noneSet m) = false) :
    exec (.bmt m x) s = .next (s.takeTrap 0 ⟨0x08, m.setWidth 64⟩) ∧
    exec (.bmf m x) s = .next (s.takeTrap 0 ⟨0x08, m.setWidth 64⟩) := by
  have hsome : maskTrap s.timed m = some ⟨0x08, m.setWidth 64⟩ :=
    (maskTrap_eq_mixedTrap hb hl).trans (if_neg (by rw [h]; exact Bool.false_ne_true))
  change s.trapOr 0 (maskTrap s.timed m) _ = _ ∧ s.trapOr 0 (maskTrap s.timed m) _ = _
  rw [hsome]
  exact ⟨rfl, rfl⟩

end

/-- Settles O8: a uniform mask by which of the two it is, a mixed mask by one bit of each kind. -/
theorem maskBranches : Obligations.MaskBranches := by
  intro s m x t goes four mixed hb hl hvl _
  refine ⟨fun h => ?_, fun h => ?_, fun ⟨i, hi, hset⟩ ⟨j, hj, hclear⟩ => maskBranches_mixed hb hl x ?_⟩
  · have ha := allSet_iff.2 h
    have := maskBranches_uniform hb hl x (m := m) (by rw [ha, Bool.true_or])
    rwa [ha, noneSet_of_allSet hvl ha] at this
  · have hn := noneSet_iff.2 h
    have := maskBranches_uniform hb hl x (m := m) (by rw [hn, Bool.or_true])
    rwa [hn, allSet_of_noneSet hvl hn] at this
  · rw [Bool.or_eq_false_iff, Bool.eq_false_iff, Bool.eq_false_iff, ne_eq, ne_eq, allSet_iff, noneSet_iff]
    exact ⟨fun h => Bool.false_ne_true (hclear.symm.trans (h j hj)), fun h => Bool.false_ne_true ((h i hi).symm.trans hset)⟩

/-! ### The return stack and loop nests (R159, R160) -/

theorem rspush_completes {s : State} (a : BitVec 6) (h : s.timed.seq.rstack.length < 32) :
    exec (.rspush a) s = .next (s.setTimed (s.timed.rpush ((s.timed.sreg a).setWidth 18))) := by
  change s.trapOr 0 (pushTrap s.timed) _ = _
  rw [pushTrap_none h, State.trapOr_none]

theorem rspop_completes {s : State} (d : BitVec 6) {y : BitVec 18} {l : List (BitVec 18)} (h : s.timed.seq.rstack = y :: l) :
    exec (.rspop d) s = .next (s.setTimed
      (({ s.timed with seq := { s.timed.seq with rstack := l } } : Timed).pendS 1 d (y.setWidth 64))) := by
  change s.trapOr 0 (popTrap s.timed) _ = _
  rw [popTrap_none h, State.trapOr_none, Timed.rdrop, Timed.rtop, h]
  rfl

theorem loop_starts {s : State} (a : BitVec 6) (p : BitVec 3) (hb : s.timed.seq.bdelay = 0)
    (hl : s.timed.seq.loop.active = false) :
    exec (.loop a p) s = .next (s.setTimed { s.timed with seq := { s.timed.seq with
      loop := startLoop (loopBounds s.timed a (p.toNat + 1)) p (s.core.after s.timed.seq.pc) } }) := by
  have h : loopTrap s.timed = none := by simp [loopTrap, hb, hl]
  change s.trapOr 0 (loopTrap s.timed) _ = _
  rw [h, State.trapOr_none]

theorem get_loopBounds (t : Timed) (a : BitVec 6) (n : Nat) (j : Fin 6) :
    (loopBounds t a n).get j = if j.val < n then (t.sreg (a + BitVec.ofNat 6 j.val)).setWidth 32 else 0 := by
  rw [loopBounds, Vector.get_eq_getElem, Vector.getElem_ofFn]

theorem tripCount_succ (b : Vector (BitVec 32) 6) (n : Nat) :
    tripCount b (n + 1) = tripCount b n * (b.toList.getD n 0).toNat := by
  rw [tripCount, List.range_succ, List.foldl_append]
  rfl

theorem getD_toList {b : Vector (BitVec 32) 6} {n : Nat} (h : n < 6) : b.toList.getD n 0 = b.get ⟨n, h⟩ := by
  rw [List.getD_eq_getElem _ _ (by rwa [Vector.length_toList]), Vector.getElem_toList, Vector.get_eq_getElem]

/-- The trip count is 0 where a bound in the nest is. -/
theorem tripCount_ne_zero_iff (b : Vector (BitVec 32) 6) {n : Nat} (h : n ≤ 6) :
    tripCount b n ≠ 0 ↔ ∀ j : Fin 6, j.val < n → b.get j ≠ 0 := by
  induction n with
  | zero => exact ⟨fun _ j hj => absurd hj (Nat.not_lt_zero _), fun _ => Nat.one_ne_zero⟩
  | succ n ih =>
    have hn : n < 6 := h
    have hlast : (b.get ⟨n, hn⟩).toNat ≠ 0 ↔ b.get ⟨n, hn⟩ ≠ 0 := not_congr (BitVec.toNat_inj (y := 0))
    rw [tripCount_succ, getD_toList hn, Nat.mul_ne_zero_iff, ih hn.le, hlast]
    refine ⟨fun ⟨hlow, hn0⟩ j hj => ?_, fun hall => ⟨fun j hj => hall j (hj.trans n.lt_succ_self), hall _ n.lt_succ_self⟩⟩
    rcases Nat.lt_succ_iff_lt_or_eq.1 hj with hj | hj
    · exact hlow j hj
    · obtain rfl : j = ⟨n, hn⟩ := Fin.ext hj
      exact hn0

/-- Settles O9: each instruction by its check and its effect, a nest by its bounds and the product of them. -/
theorem sequencerInstructions : Obligations.SequencerInstructions := by
  refine fun s a d p im => ⟨rspush_completes a, fun y l h => rspop_completes d h, fun hb hl hp => ?_, rfl, rfl⟩
  refine ⟨_, loop_starts a p hb hl, fun j => ⟨?_, ?_⟩, rfl, rfl, ?_, ?_⟩
  · rw [Vector.get_eq_getElem]
    exact Vector.getElem_replicate ..
  · exact (get_loopBounds s.timed a (p.toNat + 1) j).trans (by simp only [Nat.lt_succ_iff])
  · simpa only [startLoop, decide_eq_true_eq, Nat.lt_succ_iff] using tripCount_ne_zero_iff _ (Nat.succ_le_succ hp)
  · simp [startLoop]

/-! ### The end of a task (R163, R165, R49) -/

theorem State.coreAt_focus (s : State) : s.coreAt s.focus.val = s.core := dif_pos s.focus.isLt

theorem dieOf_focus_lt (s : State) : dieOf s.focus.val < 8 := Nat.div_lt_of_lt_mul s.focus.isLt

/-- What the failure of a task leaves on its core: results, pushes and drains in flight are gone, all else of the timed domain stays. -/
theorem State.coreAt_failCore {s : State} {n : Nat} {k : Task} (hn : n < 96) (h : (s.coreAt n).task = some k) (pc : BitVec 18)
    (i : FaultInfo) (least : Nat) : (s.failCore n pc i least).coreAt n = { s.coreAt n with
      timed := (s.coreAt n).timed.discard
      task := some { k with phase := .failed, hold := none, late := none, evict := none } } := by
  unfold State.failCore
  simp only [h]
  rw [State.coreAt_congr (State.regionFail_cores ..) hn, State.coreAt_congr (State.evictEnds_cores ..) hn,
    State.coreAt_setCoreAt _ _ _ hn]

/-- What the fault-log entry of a trap other than that of a flag in ERROR says of it (R390). -/
def Trap.info (x : Trap) (slot : BitVec 4) : FaultInfo :=
  { kind := 0, code := x.code, slot := slot, replays := 0, detail := x.detail, reached := 0, faddr := 0 }

/-- A trap other than that of a flag in ERROR on a core with a task (R165). -/
theorem State.takeTrap_eq_failCore {s : State} {k : Task} (h : s.core.task = some k) (slot : BitVec 4) {x : Trap}
    (hx : x.code ≠ 0x07) : s.takeTrap slot x =
      s.failCore s.focus.val s.timed.seq.pc (x.info slot) (if x.code = 0x0E then 1 else 0) := by
  simp only [State.takeTrap, h, if_neg hx]
  rfl

/-- A task that takes a trap fails, and hands its fault-log entry to the DCU of its die. -/
theorem State.takeTrap_fails {s : State} {k : Task} (h : s.core.task = some k) (slot : BitVec 4) {x : Trap} (hx : x.code ≠ 0x07) :
    (s.takeTrap slot x).core.timed = s.timed.discard ∧
    (∃ q, (s.takeTrap slot x).core.task = some q ∧ q.phase = .failed) ∧
    ((s.takeTrap slot x).dcu (dieOf s.focus.val)).flog.queue = (s.dcu (dieOf s.focus.val)).flog.queue ++
      [faultRec s.focus.val s.core k s.timed.seq.pc (x.info slot)] := by
  have hat : (s.coreAt s.focus.val).task = some k := by rw [s.coreAt_focus, h]
  have hfocus : (s.takeTrap slot x).focus = s.focus := by rw [s.takeTrap_failsOnly slot x]
  have hcore := State.coreAt_failCore s.focus.isLt hat s.timed.seq.pc (x.info slot) (if x.code = 0x0E then 1 else 0)
  rw [← State.takeTrap_eq_failCore h slot hx, s.coreAt_focus, ← hfocus, State.coreAt_focus] at hcore
  refine ⟨by rw [hcore]; rfl, ⟨_, by rw [hcore], rfl⟩, ?_⟩
  rw [State.takeTrap_eq_failCore h slot hx, State.failCore_logs (dieOf_focus_lt s) hat, s.coreAt_focus]

theorem Untimed.closeFlagless_queue (u : Untimed) : u.closeFlagless.queue = u.queue := by
  unfold Untimed.closeFlagless
  split <;> rfl

/-- What END leaves: the task in DRAINING, and the state beside its core but for the eviction that it answers. -/
theorem execEndTask_drains {s : State} {k : Task} (h : s.core.task = some k) :
    exec .endTask s = .next ((s.setCore { s.core with
      timed := { s.timed with seq := { s.timed.seq with bdelay := 0, loop := .idle } }
      un := s.un.closeFlagless
      task := some { k with phase := .draining, endPc := s.timed.seq.pc, evict := none } }).evictEnds s.focus.val 3) := by
  change execEndTask s = _
  simp only [execEndTask, h]
  rfl

theorem State.core_evictEnds (s : State) (n : Nat) (r : BitVec 4) : (s.evictEnds n r).core = s.core := by
  rw [State.evictEnds, State.onDcu_frame]
  rfl

/-- Settles O10: TRAPI and ABORT by the trap that they take, END by what it leaves. -/
theorem taskEndings : Obligations.TaskEndings := by
  refine ⟨fun s k im hk i code hi => ?_, fun s k hk => ?_⟩
  · have hexec : exec i s = .next (s.takeTrap 0 ⟨code, im.setWidth 64⟩) := by
      rcases hi with ⟨rfl, rfl⟩ | ⟨rfl, rfl⟩ <;> rfl
    have hcode : code ≠ 0x07 := by rcases hi with ⟨-, rfl⟩ | ⟨-, rfl⟩ <;> decide
    obtain ⟨htimed, htask, hlog⟩ := State.takeTrap_fails hk 0 (x := ⟨code, im.setWidth 64⟩) hcode
    exact ⟨_, hexec, htimed, htask, _, hlog, rfl, rfl, rfl, rfl, rfl, rfl, rfl, rfl⟩
  · refine ⟨_, _, execEndTask_drains hk, ?_, rfl, ?_, ?_, ?_, ?_⟩
    · rw [State.core_evictEnds, State.core_setCore]
    · rw [State.timed, State.core_evictEnds, State.core_setCore]
    · rw [State.un, State.core_evictEnds, State.core_setCore]
      exact s.un.closeFlagless_queue
    · rw [State.evictEnds, State.onDcu_mem, State.setCore_mem]
    · rw [State.evictEnds, State.onDcu_regions, State.setCore_regions]

end Sys2Proof.Machine
end

section
/-!
PROOF of O32: the vector moves of the copy slot (R179-R181), and the lanes of a register that chunks of the scratchpad fill.
-/

namespace Sys2Proof.Machine

/-! ### Elements of a register (R61, R207) -/

theorem testBit_elem (v : VReg) (w n j : Nat) : (elem v w n).testBit j = (decide (j < w) && v.getLsbD (w * n + j)) := by
  rw [elem, Nat.testBit_mod_two_pow, Nat.testBit_shiftRight, BitVec.testBit_toNat]

theorem getLsbD_setElem (v : VReg) (w i x : Nat) {j : Nat} (hj : j < 32768) : (setElem v w i x).getLsbD j =
    if w * i ≤ j ∧ j - w * i < w then x.testBit (j - w * i) else v.getLsbD j := by
  simp only [setElem, BitVec.getLsbD_or, BitVec.getLsbD_and, BitVec.getLsbD_not, BitVec.getLsbD_ofNat, Nat.testBit_shiftLeft,
    Nat.testBit_two_pow_sub_one, Nat.testBit_mod_two_pow]
  by_cases hle : w * i ≤ j <;> by_cases hlt : j - w * i < w <;> simp [hj, hle, hlt]

theorem elem_setElem (v : VReg) {w i : Nat} (x : Nat) (hi : w * (i + 1) ≤ 32768) {n : Nat} (hn : w * (n + 1) ≤ 32768) :
    elem (setElem v w i x) w n = if n = i then x % 2 ^ w else elem v w n := by
  refine Nat.eq_of_testBit_eq fun j => ?_
  rw [apply_ite (Nat.testBit · j), testBit_elem, testBit_elem, Nat.testBit_mod_two_pow]
  by_cases hj : j < w
  · rw [Nat.mul_succ] at hi hn
    rw [getLsbD_setElem v w i x (by omega)]
    rcases Nat.lt_trichotomy n i with h | rfl | h
    · have := Nat.mul_le_mul_left w h
      rw [Nat.mul_succ] at this
      rw [if_neg (by omega), if_neg (by omega)]
    · simp [hj]
    · have := Nat.mul_le_mul_left w h
      rw [Nat.mul_succ] at this
      rw [if_neg (by omega), if_neg (by omega)]
  · simp [hj]

theorem elem_updElems (en : Nat → Bool) (f : Nat → Nat) (old : VReg) {w m : Nat} (hm : w * m ≤ 32768) {n : Nat}
    (hn : w * (n + 1) ≤ 32768) :
    elem (updElems w en f old m) w n = if n < m ∧ en n = true then f n % 2 ^ w else elem old w n := by
  induction m with
  | zero => simp [updElems]
  | succ m ih =>
    have ih := ih (Nat.le_trans (Nat.mul_le_mul_left w (Nat.le_succ m)) hm)
    rw [updElems]
    by_cases hnm : n = m
    · subst hnm
      by_cases he : en n = true <;> simp [he, elem_setElem _ _ hm hn, ih]
    · have hlt : n < m + 1 ↔ n < m := by omega
      by_cases he : en m = true <;> simp [he, elem_setElem _ _ hm hn, ih, hnm, hlt]

/-! ### Scratchpad bytes of one stripe (R1, R173) -/

theorem Timed.sread_succ (t : Timed) {a n : Nat} (h : a % 4096 + (n + 1) ≤ 4096) :
    t.sread a (n + 1) = (t.sbyte a).toNat + 256 * t.sread (a + 1) n := by
  cases n with
  | zero => simp [Timed.sread, Timed.sbyte, Nat.mod_one]
  | succ n =>
    rw [Timed.sread, Timed.sread, Timed.sbyte, BitVec.extractLsb'_toNat, show (a + 1) / 4096 = a / 4096 by omega,
      show 8 * ((a + 1) % 4096) = 8 * (a % 4096) + 8 by omega, Nat.shiftRight_add,
      show 8 * (n + 1 + 1) = 8 + 8 * (n + 1) by omega, Nat.pow_add, Nat.mod_mul, Nat.shiftRight_eq_div_pow _ 8]

theorem Timed.sread_eq_sbytes (t : Timed) {a n : Nat} (h : a % 4096 + n ≤ 4096) : t.sread a n = t.sbytes a n := by
  induction n generalizing a with
  | zero => simp [Timed.sread, Timed.sbytes, Nat.mod_one]
  | succ n ih =>
    rw [t.sread_succ h, Timed.sbytes, ih (by omega)]

/-- Lane `k` of a chunk is the four bytes from `4 k` on. -/
theorem chunkAt_lane (t : Timed) {a k : Nat} (h : a % 4096 + 64 ≤ 4096) (hk : k < 16) :
    chunkAt t a >>> (32 * k) % 2 ^ 32 = t.sbytes (a + 4 * k) 4 := by
  rw [← t.sread_eq_sbytes (by omega), chunkAt, Timed.sread, Timed.sread, show (a + 4 * k) / 4096 = a / 4096 by omega,
    show 8 * ((a + 4 * k) % 4096) = 8 * (a % 4096) + 32 * k by omega]
  refine Nat.eq_of_testBit_eq fun j => ?_
  simp only [Nat.testBit_mod_two_pow, Nat.testBit_shiftRight]
  by_cases hj : j < 32
  · simp [hj, show 32 * k + j < 512 by omega, Nat.add_assoc]
  · simp [hj]

/-- A lane of a register that chunks within their stripes fill. -/
theorem elem_loadReg (t : Timed) {addr : Nat → Nat} (old : VReg) {n : Nat} (hvl : t.vl ≤ 1024) (hn : n < 1024)
    (haddr : ∀ k, addr k % 4096 + 64 ≤ 4096) : elem (loadReg t addr old) 32 n =
      if n < t.vl then t.sbytes (addr (n / 16) + 4 * (n % 16)) 4 else elem old 32 n := by
  rw [loadReg, elem_updElems _ _ _ (by omega) (by omega), Nat.mod_mod, chunkAt_lane t (haddr _) (Nat.mod_lt _ (by decide))]
  simp

/-! ### The checks of a move (R181) -/

section
variable {t : Timed} {o : CvOp} {w : Window}

theorem moveTrap_undeclared (h : t.win o.w = none) : moveTrap t o = some ⟨0x32, o.w.setWidth 64⟩ := by
  rw [moveTrap, h]
  rfl

theorem bcastTrap_undeclared (h : t.win o.w = none) : bcastTrap t o = some ⟨0x32, o.w.setWidth 64⟩ := by
  rw [bcastTrap, h]
  rfl

theorem moveTrap_none (hw : t.win o.w = some w)
    (h : if o.am = true then moveRow t o + 64 ≤ w.sr ∧ moveChunk t o < w.nc
      else moveRow t o % w.g = 0 ∧ moveRow t o + w.g ≤ w.sr) : moveTrap t o = none := by
  cases ham : o.am with
  | false =>
    rw [ham, if_neg Bool.false_ne_true] at h
    simp [moveTrap, hw, ham, h.1, Nat.not_lt.2 h.2]
  | true =>
    rw [ham, if_pos rfl] at h
    simp [moveTrap, hw, ham, Nat.not_lt.2 h.1, Nat.not_le.2 h.2]

theorem moveTrap_row_unaligned (hw : t.win o.w = some w) (ham : o.am = false) (h : moveRow t o % w.g ≠ 0) :
    moveTrap t o = some ⟨0x34, o.w.setWidth 64⟩ := by
  simp [moveTrap, hw, ham, h, trap]

theorem moveTrap_row_outside (hw : t.win o.w = some w) (ham : o.am = false) (h : moveRow t o % w.g = 0)
    (hsr : w.sr < moveRow t o + w.g) : moveTrap t o = some ⟨0x33, o.w.setWidth 64⟩ := by
  simp [moveTrap, hw, ham, h, hsr, trap]

theorem moveTrap_column_outside (hw : t.win o.w = some w) (ham : o.am = true)
    (h : w.sr < moveRow t o + 64 ∨ w.nc ≤ moveChunk t o) : moveTrap t o = some ⟨0x33, o.w.setWidth 64⟩ := by
  simp [moveTrap, hw, ham, h, trap]

theorem bcastTrap_none (hw : t.win o.w = some w) (h : moveRow t o < w.sr) : bcastTrap t o = none := by
  simp [bcastTrap, hw, Nat.not_le.2 h]

theorem bcastTrap_outside (hw : t.win o.w = some w) (h : w.sr ≤ moveRow t o) :
    bcastTrap t o = some ⟨0x33, o.w.setWidth 64⟩ := by
  simp [bcastTrap, hw, h, trap]

end

/-! ### The moves (R180) -/

section
variable {s : State} {o : CvOp} {w : Window}

theorem execVld_completes (hw : s.timed.win o.w = some w) (h : moveTrap s.timed o = none) :
    exec (.vld o) s = .next (s.setTimed (s.timed.pend 6 (.vector o.v
      (loadReg s.timed (moveAddr w o.am (moveRow s.timed o) (moveChunk s.timed o)) (s.timed.vreg o.v))))) := by
  change execVld o s = _
  rw [execVld, h, State.trapOr_none, hw]

theorem execVldb_completes (hw : s.timed.win o.w = some w) (h : bcastTrap s.timed o = none) :
    exec (.vldb o) s = .next (s.setTimed (s.timed.pend 6 (.vector o.v
      (loadReg s.timed (bcastAddr w (moveRow s.timed o)) (s.timed.vreg o.v))))) := by
  change execVldb o s = _
  rw [execVldb, h, State.trapOr_none, hw]

theorem moveOut_declared {t : Timed} (hw : t.win o.w = some w) (en : Nat → Bool) : moveOut t o en =
    t.pend 3 (.scratch (storeParts (fun n => decide (n < t.vl) && en n)
      (moveAddr w o.am (moveRow t o) (moveChunk t o)) (t.vreg o.v) 64)) := by
  rw [moveOut, hw]

theorem execVst_completes (h : moveTrap s.timed o = none) :
    exec (.vst o) s = .next (s.setTimed (moveOut s.timed o fun _ => true)) := by
  change execVst o s = _
  rw [execVst, h, State.trapOr_none]

theorem execVstm_completes (h : moveTrap s.timed o = none) :
    exec (.vstm o) s = .next (s.setTimed (moveOut s.timed o fun n => (s.timed.mreg (o.ext.setWidth 4)).getLsbD n)) := by
  change execVstm o s = _
  rw [execVstm, h, State.trapOr_none]

theorem moves_trap {k : Trap} (h : moveTrap s.timed o = some k) :
    exec (.vld o) s = .next (s.takeTrap 7 k) ∧ exec (.vst o) s = .next (s.takeTrap 7 k) ∧
      exec (.vstm o) s = .next (s.takeTrap 7 k) := by
  change execVld o s = _ ∧ execVst o s = _ ∧ execVstm o s = _
  rw [execVld, execVst, execVstm, h]
  exact ⟨rfl, rfl, rfl⟩

theorem execVldb_traps {k : Trap} (h : bcastTrap s.timed o = some k) : exec (.vldb o) s = .next (s.takeTrap 7 k) := by
  change execVldb o s = _
  rw [execVldb, h, State.trapOr_some]

end

/-- Settles O32: each move by its check, a loaded lane by the chunk that holds it. -/
theorem vectorMovesOfTheCopySlot : Obligations.VectorMovesOfTheCopySlot := by
  refine ⟨fun s o w hw => ⟨fun hfits => execVld_completes hw (moveTrap_none hw hfits),
      fun hrow => execVldb_completes hw (bcastTrap_none hw hrow), fun hfits => ?_, fun hfits => ?_⟩,
    fun s o => ⟨fun hw => ⟨moves_trap (moveTrap_undeclared hw), execVldb_traps (bcastTrap_undeclared hw)⟩,
      fun w hw => ⟨fun ham h => moves_trap (moveTrap_row_unaligned hw ham h),
        fun ham h hsr => moves_trap (moveTrap_row_outside hw ham h hsr),
        fun ham h => moves_trap (moveTrap_column_outside hw ham h), fun h => execVldb_traps (bcastTrap_outside hw h)⟩⟩,
    fun t addr old n hvl hn haddr => elem_loadReg t old hvl hn haddr⟩
  · rw [execVst_completes (moveTrap_none hw hfits), moveOut_declared hw]
    rfl
  · rw [execVstm_completes (moveTrap_none hw hfits), moveOut_declared hw]
    rfl

end Sys2Proof.Machine
end

section
/-!
PROOF of O34: the checks of a tile command at issue (R183, R195), one lemma per outcome.
-/

namespace Sys2Proof.Machine

/-- Check 3 of R195, of a footprint without planes. -/
theorem alignBad_eq_false_iff {d : Desc} {off : Nat} : alignBad d off false = false ↔
    off % 4 = 0 ∧ dRun d % 4 = 0 ∧ dWstart d % 4 = 0 ∧
      ∀ k, k < dNdim d → dWstride d k % 4 = 0 ∧ dMstride d k % 4 = 0 := by
  simp [alignBad, and_assoc]

/-- Check 4 of R195. -/
theorem windowBad_eq_false_iff {d : Desc} {c : Vector (BitVec 32) 6} {w : Window} : windowBad d c w = false ↔
    0 ≤ (dWstart d : Int) + (spanOf d c dWstride).1 ∧
      (dWstart d : Int) + (spanOf d c dWstride).2 + dRun d ≤ w.size := by
  simp [windowBad]

theorem tileCmd_traps {i : Instr} {o : CaOp} {tr : Option Trap} {s : State} {k : Trap} (h : tr = some k) :
    tileCmd i o tr s = .next (s.takeTrap 7 k) := by
  rw [h]
  rfl

section
variable {s : State} {o : CaOp} {r : Right}

theorem tileTrap_of_empty (h : runCount (s.timed.descr o.d) = 0) : tileTrap s o true r false none = none := if_pos h

theorem tileTrap_undeclared (h : runCount (s.timed.descr o.d) ≠ 0) (hw : s.timed.win o.w = none) :
    tileTrap s o true r false none = some ⟨0x32, o.w.setWidth 64⟩ := by
  simp [tileTrap, h, hw, trap]

/-- The checks that follow when the window is declared. -/
theorem tileTrap_declared {w : Window} (h : runCount (s.timed.descr o.d) ≠ 0) (hw : s.timed.win o.w = some w) :
    tileTrap s o true r false none =
      if alignBad (s.timed.descr o.d) (capOffs (s.timed.sreg o.sa)) false = true then some ⟨0x31, o.d.setWidth 64⟩
      else if windowBad (s.timed.descr o.d) s.timed.seq.loop.cnt w = true then some ⟨0x33, o.w.setWidth 64⟩
      else if segOk s (s.timed.sreg o.sa) r false
        (byteSpan (s.timed.descr o.d) s.timed.seq.loop.cnt (capOffs (s.timed.sreg o.sa)) none) = true then none
      else some ⟨0x30, s.timed.sreg o.sa⟩ := by
  simp [tileTrap, h, hw, trap]

end

/-- Settles O34: the first check that fails decides the trap, as `tileTrap` tries them in the order of R195. -/
theorem tileChecks : Obligations.TileChecks := by
  intro s o i r hi
  have traps : ∀ k, tileTrap s o true r false none = some k → exec i s = .next (s.takeTrap 7 k) := fun k h => by
    rcases hi with ⟨rfl, rfl⟩ | ⟨rfl, rfl⟩ <;> exact tileCmd_traps h
  refine ⟨tileTrap_of_empty, fun hr hw => traps _ (tileTrap_undeclared hr hw), fun w hw => ⟨fun hr ha => traps _ ?_,
    fun hr ha hin => traps _ ?_, fun hr ha hin hseg => traps _ ?_, fun hr ha hin hseg => ?_⟩⟩ <;>
    rw [tileTrap_declared hr hw]
  · rw [if_pos (eq_true_of_ne_false (mt alignBad_eq_false_iff.1 ha))]
  · rw [alignBad_eq_false_iff.2 ha, if_neg Bool.false_ne_true, if_pos (eq_true_of_ne_false (mt windowBad_eq_false_iff.1 hin))]
  · rw [alignBad_eq_false_iff.2 ha, windowBad_eq_false_iff.2 hin, if_neg Bool.false_ne_true, if_neg Bool.false_ne_true,
      if_neg hseg]
  · rw [alignBad_eq_false_iff.2 ha, windowBad_eq_false_iff.2 hin, if_neg Bool.false_ne_true, if_neg Bool.false_ne_true,
      if_pos hseg]

end Sys2Proof.Machine
end

section
/-!
PROOF of O35: WDECL, WFREE and DSET at issue (R177, R184), and the storage of a window (R175, R176).
-/

namespace Sys2Proof.Machine

/-! ### An instruction that only passes through the copy queue -/

section
variable {s : State} {i j : Instr} {tr : Option Trap} {f : Timed → Timed}

theorem passThrough_traps (hi : exec i s = passThrough j tr f s) {k : Trap} (h : tr = some k) :
    exec i s = .next (s.takeTrap 7 k) := by
  rw [hi, h]
  rfl

/-- With a free entry and no trap the effect on the timed domain is made, and no batch changes. -/
theorem passThrough_takes_effect (hi : exec i s = passThrough j tr f s) (hroom : s.un.count .copy < 24)
    (h : tr = none) :
    ∃ x, exec i s = .next x ∧ s.onlyCoreOf x ∧ x.timed = f s.timed ∧ x.core.task = s.core.task ∧
      x.un.batches = s.un.batches := by
  subst h
  refine ⟨_, hi.trans (if_pos (decide_eq_true hroom)),
    State.onlyCoreOf_trans (s.onlyCoreOf_setCore _) (State.onlyCoreOf_setCore _ _), ?_, ?_, ?_⟩
  · rw [State.timed_setUn, State.timed_setTimed]
  · rw [State.core_setUn, State.core_setTimed]
  · rw [State.un_setUn, State.un_setTimed]
    rfl

end

section
variable (s : State) (o : CfOp)

theorem exec_wdecl : exec (.wdecl o) s = passThrough (.wdecl o) (wdeclTrap s.timed o)
    (fun t => t.setWin (o.ext.setWidth 5)
      (some (windowOf t.sp.shape ((t.sreg o.sa).setWidth 23) (bit o.ext.toNat 5)))) s := rfl

theorem exec_wfree :
    exec (.wfree o) s = passThrough (.wfree o) none (fun t => t.setWin (o.ext.setWidth 5) none) s := rfl

/-- A descriptor replaced by the image at a scratchpad address, without what stands above its NDIM. -/
def Timed.setDescAt (t : Timed) (d : BitVec 4) (a : Nat) : Timed :=
  { t with desc := t.desc.set d.toNat (descKept (descAt t a)) d.isLt }

theorem exec_dset : exec (.dset o) s = passThrough (.dset o) (dsetTrap s.timed o)
    (fun t => t.setDescAt (o.ext.setWidth 4) (t.sreg o.sa).toNat) s := rfl

end

/-! ### The checks of WDECL and DSET -/

section
variable {t : Timed} {o : CfOp}

theorem wdeclTrap_none (h : (t.sreg o.sa).toNat % 4096 = 0 ∧
    (t.sreg o.sa).toNat + (windowOf t.sp.shape ((t.sreg o.sa).setWidth 23) false).storage ≤ 8388608) : wdeclTrap t o = none :=
  if_neg fun hbad => hbad.elim (absurd h.1) (Nat.not_lt.2 h.2)

theorem wdeclTrap_outside (h : ¬ ((t.sreg o.sa).toNat % 4096 = 0 ∧
    (t.sreg o.sa).toNat + (windowOf t.sp.shape ((t.sreg o.sa).setWidth 23) false).storage ≤ 8388608)) :
    wdeclTrap t o = some ⟨0x36, t.sreg o.sa⟩ :=
  if_pos (by omega)

theorem dsetTrap_outside (h : ¬ ((t.sreg o.sa).toNat % 128 = 0 ∧ (t.sreg o.sa).toNat + 128 ≤ 8388608)) :
    dsetTrap t o = some ⟨0x36, t.sreg o.sa⟩ :=
  if_pos (by omega)

theorem dsetTrap_bad (h : (t.sreg o.sa).toNat % 128 = 0 ∧ (t.sreg o.sa).toNat + 128 ≤ 8388608)
    (hbad : descBad (descAt t (t.sreg o.sa).toNat) = true) :
    dsetTrap t o = some ⟨0x35, (o.ext.setWidth 4 : BitVec 4).setWidth 64⟩ :=
  (if_neg (by omega)).trans (if_pos hbad)

theorem dsetTrap_none (h : (t.sreg o.sa).toNat % 128 = 0 ∧ (t.sreg o.sa).toNat + 128 ≤ 8388608)
    (hgood : descBad (descAt t (t.sreg o.sa).toNat) = false) : dsetTrap t o = none :=
  (if_neg (by omega)).trans (if_neg (Bool.eq_false_iff.1 hgood))

end

/-! ### The storage of a window (R175, R176) -/

section
variable {w : Window}

/-- RP is a power of two from 64 to 4096, and the rows of a stripe fill it. -/
theorem Window.pitch_and_rows (w : Window) : ∃ k, k < 7 ∧ w.rp = 64 * 2 ^ k ∧ w.g = 2 ^ (6 - k) ∧ w.g * w.rp = 4096 := by
  obtain ⟨k, hk, hp, -⟩ := pow2Pitch_eq w.rbu
  have hstripe : 2 ^ (6 - k) * (64 * 2 ^ k) = 4096 := by
    rw [Nat.mul_left_comm, ← Nat.pow_add, show 6 - k + k = 6 by omega]
  have hrows : w.g = 2 ^ (6 - k) := by
    rw [Window.g, show w.rp = 64 * 2 ^ k from hp, ← hstripe]
    exact Nat.mul_div_cancel _ (by positivity)
  exact ⟨k, hk, hp, hrows, by rw [hrows, show w.rp = 64 * 2 ^ k from hp, hstripe]⟩

theorem Window.rp_le (w : Window) : w.rp ≤ 4096 := by
  obtain ⟨k, -, -, hg, hstripe⟩ := w.pitch_and_rows
  exact Nat.le_of_dvd (by decide) (Dvd.intro_left _ hstripe)

/-- A storage row lies in one of the stripes of the storage. -/
theorem Window.stripe_lt {i : Nat} (hi : i < w.sr) : i / w.g < w.sr / w.g := by
  obtain ⟨k, -, -, hg, -⟩ := w.pitch_and_rows
  have hpos : 0 < w.g := hg ▸ Nat.two_pow_pos _
  exact Nat.div_lt_div_of_lt_of_dvd (Dvd.intro_left _ rfl) hi

theorem Window.addr_within {i x : Nat} (hi : i < w.sr) (hx : x < w.rp) :
    w.base.toNat ≤ w.addr i x ∧ w.addr i x < w.base.toNat + w.storage := by
  obtain ⟨k, hk, hp, hg, hstripe⟩ := w.pitch_and_rows
  have hrp := w.rp_le
  have hrow := Window.stripe_lt hi
  unfold Window.addr Window.storage
  split
  · have hchunk : (x / 64 ^^^ bitrev6 (i % 64)) < 64 := Nat.xor_lt_two_pow (n := 6) (by omega) (bitrev6_lt _)
    omega
  · have hin : i % w.g * w.rp + w.rp ≤ 4096 := by
      have hlt : i % w.g < w.g := Nat.mod_lt _ (hg ▸ Nat.two_pow_pos _)
      have := Nat.mul_le_mul_right w.rp hlt
      rw [Nat.succ_mul, hstripe] at this
      exact this
    have hsplit : i * w.rp = i / w.g * 4096 + i % w.g * w.rp := by
      conv_lhs => rw [← Nat.div_add_mod i w.g, Nat.add_mul, Nat.mul_comm w.g, Nat.mul_assoc, hstripe]
    omega

/-- The window whose used rows are the whole rows of `w`: it places the bytes of a row where `w` does. -/
def Window.padded (w : Window) : Window := { w with tc := BitVec.ofNat 13 w.rp, ew := 0 }

theorem Window.padded_rbu (w : Window) : w.padded.rbu = w.rp := by
  have := w.rp_le
  change (BitVec.ofNat 13 w.rp).toNat = w.rp
  rw [BitVec.toNat_ofNat]
  omega

theorem pow2Pitch_idem (n : Nat) : pow2Pitch (pow2Pitch n) = pow2Pitch n := by
  obtain ⟨k, hk, hp, -⟩ := pow2Pitch_eq n
  rw [hp]
  exact (by decide : ∀ k < 7, pow2Pitch (64 * 2 ^ k) = 64 * 2 ^ k) k hk

theorem Window.padded_addr (w : Window) (i x : Nat) : w.padded.addr i x = w.addr i x := by
  have hrp : w.padded.rp = w.rp := by
    rw [Window.rp, w.padded_rbu]
    exact pow2Pitch_idem w.rbu
  rw [Window.addr, Window.g, hrp]
  rfl

/-- Row bytes have places of their own also beyond the used bytes of their rows. -/
theorem Window.addr_injective_of_pitch {i j x y : Nat} (hx : x < w.rp) (hy : y < w.rp) (h : w.addr i x = w.addr j y) :
    i = j ∧ x = y := by
  rw [← w.padded_rbu] at hx hy
  rw [← w.padded_addr, ← w.padded_addr] at h
  exact Window.addr_injective (w.padded_rbu ▸ w.rp_le) hx hy h

end

/-- Settles O35: each instruction by its check and its effect, ADDR by the stripe and the chunk of a row byte. -/
theorem windowsAndDescriptors : Obligations.WindowsAndDescriptors := by
  refine ⟨fun s o => ⟨fun hroom => ⟨fun hfits => ?_, ?_, fun hin hgood => ?_⟩, fun hfits => ?_, fun hin => ?_,
    fun hin hbad => ?_⟩, fun w i x j y _ _ _ _ hi hx _ hy => ?_⟩
  · exact passThrough_takes_effect (exec_wdecl s o) hroom (wdeclTrap_none hfits)
  · exact passThrough_takes_effect (exec_wfree s o) hroom rfl
  · exact passThrough_takes_effect (exec_dset s o) hroom (dsetTrap_none hin hgood)
  · exact passThrough_traps (exec_wdecl s o) (wdeclTrap_outside hfits)
  · exact passThrough_traps (exec_dset s o) (dsetTrap_outside hin)
  · exact passThrough_traps (exec_dset s o) (dsetTrap_bad hin hbad)
  · obtain ⟨hlow, hhigh⟩ := Window.addr_within hi hx
    exact ⟨hlow, hhigh, Window.addr_injective_of_pitch hx hy⟩

end Sys2Proof.Machine
end

section
/-!
PROOF of O36: BCLOSE and BWAIT (R186, R188), and a command of the copy slot whose queue is full (R130 cause 2).
-/

namespace Sys2Proof.Machine

/-! ### The flags that a command claims (R23) -/

theorem Timed.claimed_none (t : Timed) : t.claimed t none := ⟨rfl, fun _ => (if_neg fun h => nomatch h.1).symm⟩

theorem Timed.claimed_claimFlag (t : Timed) (f : BitVec 5) : t.claimed (t.claimFlag f) (some f) := by
  refine ⟨?_, fun g => ?_⟩
  · unfold Timed.claimFlag
    split <;> rfl
  · rw [Timed.flag_claimFlag]
    exact if_congr (by rw [Option.some_inj, eq_comm]) rfl rfl

/-! ### BCLOSE and BWAIT (R186, R188) -/

section
variable {s : State}

/-- The open batch holds a command. -/
theorem Untimed.openNonEmpty_iff {u : Untimed} :
    u.openNonEmpty = true ↔ ∃ b, b ∈ u.batches ∧ b.isOpen = true ∧ 0 < b.count := by
  simp [Untimed.openNonEmpty]

theorem execBclose_closes (f : BitVec 5) (hroom : s.un.count .copy < 24) (hclosed : s.un.closedCount < 16) :
    exec (.bclose f) s = .next ((s.setCore (s.core.claim f)).setUn
      ((s.un.closeBatch (some f)).push (newCmd s.timed s.un .copy (.bclose f) 0 0 0 none none 0) false)) := by
  have h : exec (.bclose f) s = _ := if_pos ⟨decide_eq_true hroom, hclosed⟩
  rw [h, State.un_setCore, Core.claim_un]
  rfl

theorem execBclose_held (f : BitVec 5) (h : 16 ≤ s.un.closedCount) : exec (.bclose f) s = .next s :=
  if_neg fun hc => Nat.not_lt.2 h hc.2

theorem execBwait_passes (n : BitVec 8) (hroom : s.un.count .copy < 24) (hout : s.un.outstanding ≤ n.toNat)
    (hclosed : ¬ (s.un.openNonEmpty = true ∧ 16 ≤ s.un.closedCount)) :
    exec (.bwait n) s = .next (s.setUn
      (s.un.closeFlagless.push (newCmd s.timed s.un .copy (.bwait n) 0 0 0 none none 0) false)) :=
  if_pos ⟨decide_eq_true hroom, hout, hclosed⟩

theorem execBwait_held_of_outstanding (n : BitVec 8) (h : n.toNat < s.un.outstanding) : exec (.bwait n) s = .next s :=
  if_neg fun hc => Nat.not_le.2 h hc.2.1

theorem execBwait_held_of_closed (n : BitVec 8) (h : 16 ≤ s.un.closedCount) (hopen : s.un.openNonEmpty = true) :
    exec (.bwait n) s = .next s := if_neg fun hc => hc.2.2 ⟨hopen, h⟩

theorem Untimed.closeFlagless_batches (u : Untimed) :
    u.closeFlagless.batches = if u.openNonEmpty = true then (u.closeBatch none).batches else u.batches :=
  apply_ite Untimed.batches ..

/-! ### A full queue (R130 cause 2) -/

theorem tileCmd_full {i : Instr} {o : CaOp} {tr : Option Trap} (htrap : tr = none) (h : s.un.room .copy = false) :
    tileCmd i o tr s = .next s := by
  subst htrap
  exact congrArg Host.Outcome.next (s.enqueue_full _ true h)

theorem passThrough_full {i : Instr} {tr : Option Trap} {f : Timed → Timed} (htrap : tr = none)
    (h : s.un.room .copy = false) : passThrough i tr f s = .next s := by
  simp only [passThrough, htrap, h, Bool.false_eq_true, if_false]

theorem issueFlagged_full {tr : Option Trap} {f : BitVec 5} {c : Cmd} (htrap : tr = none)
    (h : s.un.room c.eng = false) : issueFlagged tr f c s = .next s :=
  (issueFlagged_spec ..).2 (.inr (.inl ⟨htrap, h, rfl⟩))

theorem execWcopy_full {o : CaOp} (htrap : wcopyTrap s.timed o = none) (h : s.un.room .copy = false) :
    execWcopy o s = .next s := by
  rw [execWcopy, htrap]
  exact congrArg Host.Outcome.next (s.enqueue_full _ true h)

theorem execWfill_full {o : CaOp} (htrap : wfillTrap s.timed o = none) (h : s.un.room .copy = false) :
    execWfill o s = .next s := by
  rw [execWfill, htrap]
  exact congrArg Host.Outcome.next (s.enqueue_full _ true h)

theorem execPharm_full {o : CfOp} (htrap : pharmTrap s.timed s.un o = none) (h : s.un.room .vertex = false) :
    execPharm o s = .next s := by
  simp only [execPharm, htrap, h, Bool.false_eq_true, if_false]

theorem execLopen_full {o : CfOp} (htrap : lopenTrap s o = none) (h : s.un.room .lattice = false) :
    execLopen o s = .next s := by
  simp only [execLopen, htrap, h, Bool.false_eq_true, if_false]

theorem pushCmd_full {i : Instr} {o : CfOp} {n : Nat} (htrap : lpushTrap s o n (s.timed.sreg o.sa) = none)
    (h : s.un.room .lattice = false) : pushCmd i o n s = .next s := by
  simp only [pushCmd, htrap, h, Bool.false_eq_true, if_false]
  split <;> rfl

theorem closeCmd_full {i : Instr} {o : CfOp} (htrap : lcloseTrap s o = none) (h : s.un.room .lattice = false) :
    closeCmd i o s = .next s := by
  simp only [closeCmd, htrap, h, Bool.false_eq_true, if_false]
  split <;> rfl

theorem slot_of_engineOf {i : Instr} {e : Engine} (h : engineOf i = some e) : i.slot? = some .copy := by
  cases i <;> cases h <;> rfl

/-- What the copy slot makes of a command that no check stops, with its queue full. -/
theorem slotCopy_full {i : Instr} {e : Engine} (hi : engineOf i = some e) (h : s.un.room e = false)
    (htrap : copyTrap s i = none) : slotCopy i s = .next s := by
  cases i
  case tld | tst | tldm | tldbp | strem | stremo => cases hi; exact tileCmd_full htrap h
  case pref => cases hi; exact tileCmd_full rfl h
  case wcopy => cases hi; exact execWcopy_full htrap h
  case wfill => cases hi; exact execWfill_full htrap h
  case wdecl => cases hi; rw [slotCopy, execWdecl]; exact passThrough_full htrap h
  case dset => cases hi; rw [slotCopy, execDset]; exact passThrough_full htrap h
  case wfree => cases hi; rw [slotCopy, execWfree]; exact passThrough_full rfl h
  case fence => cases hi; exact congrArg Host.Outcome.next (s.enqueue_full _ true h)
  case bclose | bwait => cases hi; exact if_neg fun hc => Bool.false_ne_true (h.symm.trans hc.1)
  case pharm => cases hi; exact execPharm_full htrap h
  case lopen => cases hi; exact execLopen_full htrap h
  case lpush | lpushs => cases hi; exact pushCmd_full htrap h
  case lclose | labort => cases hi; exact closeCmd_full htrap h
  case xsend | pwait => cases hi; exact issueFlagged_full rfl h
  case phreg | phdrop | pharr | phwait | phrd | swld | swst | aadd | amin | amax | aand | aor | axor | axchg | acas | afaddF32 |
      gbag | gbagw | grows | gpref | gstat | gcntrd | gcntclr | gskrd | lapply | lstep | lquery | lstat | lspill | xa2a |
      xbkt | xpool | xstat | pcnt | tbarr | tstat | tepoch | tlog => cases hi; exact issueFlagged_full htrap h
  all_goals cases hi

end

/-- Settles O36: BCLOSE and BWAIT by their conditions, a full queue by the shape of the command's issue. -/
theorem batchControlAndFullQueues : Obligations.BatchControlAndFullQueues := by
  refine ⟨fun s f n => ⟨fun hroom hclosed => ?_, fun h hopen => ?_, fun hroom hout hopen => ?_, fun h => ?_, fun h => ?_⟩,
    fun s i e hi hfull htrap => ?_⟩
  · refine ⟨_, execBclose_closes f hroom hclosed, ⟨?_, ?_, ?_⟩, ?_⟩
    · exact State.onlyCoreOf_trans (s.onlyCoreOf_setCore _) (State.onlyCoreOf_setCore _ _)
    · rw [State.timed_setUn, State.timed_setCore, Core.claim_timed]
      exact s.timed.claimed_claimFlag f
    · rw [State.core_setUn, State.core_setCore, Core.claim_task]
    · rw [State.un_setUn]
      rfl
  · exact execBwait_held_of_closed n h (Untimed.openNonEmpty_iff.2 hopen)
  · refine ⟨_, execBwait_passes n hroom hout ?_, ⟨s.onlyCoreOf_setCore _, ?_, ?_⟩, ?_⟩
    · rintro ⟨h, hclosed⟩
      exact hopen.elim (Nat.not_lt.2 hclosed) fun hn => hn (Untimed.openNonEmpty_iff.1 h)
    · rw [State.timed_setUn]
      exact s.timed.claimed_none
    · rw [State.core_setUn]
    · rw [State.un_setUn]
      exact s.un.closeFlagless_batches
  · exact execBclose_held f h
  · exact execBwait_held_of_outstanding n h
  · rw [exec_eq_slotMeaning (slot_of_engineOf hi)]
    exact slotCopy_full hi (decide_eq_false (Nat.not_lt.2 hfull)) htrap

end Sys2Proof.Machine
end

section
/-!
SUPPORT. What starts, losses of state and readings leave (R401-R403): memory read by its keys, the controller but for its health
log, and the tests of a reading, sensor by sensor.
-/

namespace Sys2Proof.Machine

/-! ### Entries of a vector by number -/

section
variable {α : Type} {n : Nat} (v : Vector α n)

theorem getD_toList_get (i : Fin n) (d : α) : v.toList.getD i.val d = v.get i := by
  rw [List.getD_eq_getElem _ _ (by rw [Vector.length_toList]; exact i.isLt), Vector.getElem_toList, Vector.get_eq_getElem]

theorem mem_toList_iff_get {x : α} : x ∈ v.toList ↔ ∃ i : Fin n, v.get i = x := by
  rw [Vector.mem_toList_iff, Vector.mem_iff_getElem]
  exact ⟨fun ⟨i, hi, h⟩ => ⟨⟨i, hi⟩, h⟩, fun ⟨i, h⟩ => ⟨i.val, i.isLt, h⟩⟩

theorem any_toList_iff {p : α → Bool} : v.toList.any p = true ↔ ∃ i : Fin n, p (v.get i) = true := by
  simp only [List.any_eq_true, mem_toList_iff_get, exists_exists_eq_and]

theorem all_toList_iff {p : α → Bool} : v.toList.all p = true ↔ ∀ i : Fin n, p (v.get i) = true := by
  simp only [List.all_eq_true, mem_toList_iff_get, forall_exists_index, forall_apply_eq_imp_iff]

theorem any_range_iff {p : Nat → Bool} : (List.range n).any p = true ↔ ∃ i : Fin n, p i.val = true := by
  simp [List.any_eq_true, Fin.exists_iff]

theorem all_range_iff {p : Nat → Bool} : (List.range n).all p = true ↔ ∀ i : Fin n, p i.val = true := by
  simp [List.all_eq_true, Fin.forall_iff]

/-- A search through the numbered entries finds one. -/
theorem isSome_find?_zipIdx_iff {p : α × Nat → Bool} :
    (v.toList.zipIdx.find? p).isSome = true ↔ ∃ i : Fin n, p (v.get i, i.val) = true := by
  rw [List.find?_isSome]
  constructor
  · rintro ⟨⟨x, k⟩, hmem, hp⟩
    obtain ⟨hk, hx⟩ := List.getElem?_eq_some_iff.1 (List.mem_zipIdx_iff_getElem?.1 hmem)
    rw [Vector.length_toList] at hk
    rw [Vector.getElem_toList] at hx
    exact ⟨⟨k, hk⟩, by rwa [Vector.get_eq_getElem, hx]⟩
  · rintro ⟨i, hp⟩
    refine ⟨_, List.mem_zipIdx_iff_getElem?.2 ?_, hp⟩
    rw [List.getElem?_eq_some_iff]
    exact ⟨by rw [Vector.length_toList]; exact i.isLt, by rw [Vector.getElem_toList, Vector.get_eq_getElem]⟩

end

/-! ### Memory by its keys -/

/-- A table of which only the entries with certain keys are left. -/
theorem Store.get_filter_key {α : Type} [DecidableEq α] (d : α) {l : Store α} (h : Store.wf d l = true) (q : Nat → Bool)
    (k : Nat) : Store.get d (l.filter fun e => q e.1) k = if q k = true then Store.get d l k else d := by
  induction l with
  | nil => simp
  | cons x l ih =>
    obtain ⟨a, v⟩ := x
    obtain ⟨-, hlow, hwf⟩ := (Store.wf_cons ..).1 h
    have ih := ih hwf
    rcases Nat.lt_trichotomy k a with hk | rfl | hk
    · have hrest : ∀ e ∈ ((a, v) :: l), k < e.1 := by
        simp only [List.mem_cons, forall_eq_or_imp]
        exact ⟨hk, fun e he => hk.trans (hlow e he)⟩
      rw [Store.get_below d _ k hrest, ite_self]
      exact Store.get_below d _ k fun e he => hrest e (List.mem_of_mem_filter he)
    · have hrest : Store.get d (l.filter fun e => q e.1) k = d :=
        Store.get_below d _ k fun e he => hlow e (List.mem_of_mem_filter he)
      by_cases hq : q k = true <;> simp [hq, Store.get, hrest]
    · have hget : Store.get d ((a, v) :: l) k = Store.get d l k := by
        rw [Store.get, if_neg (by omega), if_neg (by omega)]
      rw [hget, ← ih, List.filter_cons]
      split
      · rw [Store.get, if_neg (by omega), if_neg (by omega)]
      · rfl

/-- A memory written entry by entry reads at the keys of the entries as they do. -/
theorem Memory.byte_foldl_setByte {l : Memory} (h : l.wf = true) (m : Memory) (a : Nat) :
    (l.foldl (fun (m : Memory) x => m.setByte x.1 x.2) m).byte a = if a ∈ l.map (·.1) then l.byte a else m.byte a := by
  induction l generalizing m with
  | nil => simp
  | cons x l ih =>
    obtain ⟨b, v⟩ := x
    obtain ⟨-, hlow, hwf⟩ := (Store.wf_cons ..).1 h
    rw [List.foldl_cons, List.map_cons, ih hwf, Memory.byte_setByte]
    by_cases hmem : a ∈ l.map (·.1)
    · obtain ⟨e, he, rfl⟩ := List.mem_map.1 hmem
      have hb := hlow e he
      rw [if_pos hmem, if_pos (List.mem_cons_of_mem _ hmem)]
      exact ((if_neg (by omega)).trans (if_neg (by omega))).symm
    · by_cases hab : a = b
      · subst hab
        simp [Memory.byte, Store.get, hmem]
      · simp [hab, hmem]

theorem Memory.byte_lost (m : Memory) {a : Nat} (h : a < 2 ^ 52) :
    Memory.byte (m.filter fun x => decide (2 ^ 52 ≤ x.1)) a = 0 :=
  Store.get_below _ _ _ fun _ he => lt_of_lt_of_le h (of_decide_eq_true (List.mem_filter.1 he).2)

theorem Memory.byte_kept {m : Memory} (hm : m.wf = true) {a : Nat} (h : 2 ^ 52 ≤ a) :
    Memory.byte (m.filter fun x => decide (2 ^ 52 ≤ x.1)) a = m.byte a :=
  (Store.get_filter_key (0 : Byte) hm (fun k => decide (2 ^ 52 ≤ k)) a).trans (if_pos (decide_eq_true h))

/-! ### The health log (R402) -/

/-- The controller's block is as it was but for the tail and the count of lost entries of its health log. -/
def Control.logged (c d : Control) : Prop := d = { c with hlogTail := d.hlogTail, hlogLost := d.hlogLost }

theorem Control.logged_refl (c : Control) : c.logged c := rfl

theorem Control.logged_trans {c d e : Control} (h : c.logged d) (k : d.logged e) : c.logged e := by
  unfold Control.logged at h k ⊢
  rw [h] at k
  exact k

theorem State.byHome_logged {s t : State} (h : s.byHome t) : s.ctl.logged t.ctl := State.byHome_ctl h

/-- `t` comes from `s` by entries of the health log. -/
def State.byEntries (s t : State) : Prop := t = { s with mem := t.mem, ctl := t.ctl } ∧ s.ctl.logged t.ctl

theorem State.byEntries_refl (s : State) : s.byEntries s := ⟨rfl, rfl⟩

theorem State.byEntries_trans {s t u : State} (h : s.byEntries t) (k : t.byEntries u) : s.byEntries u := by
  refine ⟨?_, Control.logged_trans h.2 k.2⟩
  have k1 := k.1
  rw [h.1] at k1
  exact k1

theorem State.byEntries_log (s : State) (m : Memory) (a b : BitVec 32) :
    s.byEntries { s with mem := m, ctl := { s.ctl with hlogTail := a, hlogLost := b } } := ⟨rfl, rfl⟩

theorem State.health_byEntries (s : State) (kind unit core addr data : Nat) :
    s.byEntries (s.health kind unit core addr data) := by
  unfold State.health
  extract_lets ctl at' v
  split
  · exact s.byEntries_log ..
  · exact s.byEntries_log ..

theorem State.foldl_byEntries {β : Type} {f : State → β → State} (hf : ∀ (t : State) x, t.byEntries (f t x)) (l : List β)
    (s : State) : s.byEntries (l.foldl f s) :=
  List.foldlRecOn (motive := s.byEntries) l f s.byEntries_refl fun t ht x _ => State.byEntries_trans ht (hf t x)

theorem State.readingEntries_byEntries (s : State) (old : Control) : s.byEntries (s.readingEntries old) :=
  State.byEntries_trans (State.foldl_byEntries (fun t _ => t.health_byEntries ..) _ s) <|
    State.byEntries_trans (State.foldl_byEntries (fun t _ => t.health_byEntries ..) _ _) <|
      State.foldl_byEntries (fun t _ => t.health_byEntries ..) _ _

/-! ### A reading (R401) -/

section
variable {c : Control} {x : SensorReadings}

theorem Control.isSome_tripping_iff : (c.tripping x).isSome = true ↔
    (∃ i : Fin 25, c.tTrip.toNat ≤ (x.temps.get i).toNat) ∨
      ∃ i : Fin 18, c.vTrip.get i ≠ 0 ∧ (x.volts.get i).toNat < (c.vTrip.get i).toNat := by
  have htemp := isSome_find?_zipIdx_iff x.temps (p := fun y => decide (c.tTrip.toNat ≤ y.1.toNat))
  have hvolt := isSome_find?_zipIdx_iff x.volts (p := fun y =>
    decide (c.vTrip.toList.getD y.2 0 ≠ 0 ∧ y.1.toNat < (c.vTrip.toList.getD y.2 0).toNat))
  simp only [getD_toList_get, decide_eq_true_eq] at htemp hvolt
  unfold Control.tripping
  split
  · next y hy => simp [← htemp, hy]
  · next hy =>
    rw [Option.isSome_map, hvolt, ← htemp, hy]
    simp

theorem Control.railLow_iff (v : Vector (BitVec 16) 18) (i : Fin 18) :
    c.railLow v i.val = true ↔ c.vLow.get i ≠ 0 ∧ (v.get i).toNat < (c.vLow.get i).toNat := by
  simp only [Control.railLow, getD_toList_get, Bool.and_eq_true, decide_eq_true_eq]

theorem Control.mustSlow_iff : c.mustSlow = true ↔ (∃ i : Fin 25, c.tThrot.toNat ≤ (c.temps.get i).toNat) ∨
    c.pwrCap.toNat < c.pwrNow.toNat ∨
      ∃ i : Fin 18, c.vLow.get i ≠ 0 ∧ (c.volts.get i).toNat < (c.vLow.get i).toNat := by
  simp only [Control.mustSlow, Bool.or_eq_true, any_toList_iff, any_range_iff, Control.railLow_iff, decide_eq_true_eq, or_assoc]

theorem Control.mayQuicken_iff : c.mayQuicken = true ↔ (∀ i : Fin 25, (c.temps.get i).toNat + 80 < c.tThrot.toNat) ∧
    c.pwrNow.toNat + 100 < c.pwrCap.toNat ∧
      ∀ i : Fin 18, c.vLow.get i = 0 ∨ (c.vLow.get i).toNat ≤ (c.volts.get i).toNat := by
  have hrail : ∀ i : Fin 18, (!c.railLow c.volts i.val) = true ↔
      c.vLow.get i = 0 ∨ (c.vLow.get i).toNat ≤ (c.volts.get i).toNat := fun i => by
    rw [Bool.not_eq_true', ← Bool.not_eq_true, Control.railLow_iff, not_and_or, not_not, Nat.not_lt]
  simp only [Control.mayQuicken, Bool.and_eq_true, all_toList_iff, all_range_iff, hrail, decide_eq_true_eq, and_assoc]

theorem Control.nextStep_le (h : c.pwrStep.toNat ≤ 8) : c.nextStep ≤ 8 := by
  unfold Control.nextStep
  simp only []
  split_ifs <;> omega

/-- The controller's block once a reading has been taken in and PWRSTEP has followed it, before any entry. -/
def Control.stepped (c : Control) (x : SensorReadings) : Control :=
  { c.read x with pwrStep := BitVec.ofNat 4 (c.read x).nextStep }

/-- Control.nextStep reads nothing of the health log. -/
theorem Control.logged_nextStep {d : Control} (h : c.logged d) : d.nextStep = c.nextStep := by
  rw [h]
  rfl

theorem State.stepPower_byEntries (s : State) :
    ({ s with ctl := { s.ctl with pwrStep := BitVec.ofNat 4 s.ctl.nextStep } } : State).byEntries s.stepPower := by
  unfold State.stepPower
  simp only []
  split
  · exact State.byEntries_refl _
  · exact State.health_byEntries ..

/-- A reading taken in changes the controller's block and, by the entries it makes, memory. -/
theorem State.reading_byEntries (s : State) (x : SensorReadings) :
    ({ s with ctl := s.ctl.stepped x } : State).byEntries
      (({ s with ctl := s.ctl.read x } : State).readingEntries s.ctl).stepPower := by
  refine State.byEntries_trans ?_ (State.stepPower_byEntries _)
  obtain ⟨hframe, hlog⟩ := ({ s with ctl := s.ctl.read x } : State).readingEntries_byEntries s.ctl
  generalize ({ s with ctl := s.ctl.read x } : State).readingEntries s.ctl = e at hframe hlog ⊢
  rw [Control.logged_nextStep hlog]
  constructor
  · conv_lhs => rw [hframe]
  · unfold Control.logged at hlog ⊢
    conv_lhs => rw [hlog]
    rfl

end

end Sys2Proof.Machine
end

section
/-!
PROOF of O15: what each start, each loss of state and each reading leaves (R400-R404).
-/

namespace Sys2Proof.Machine

/-! ### A start that ends in READY (R403) -/

/-- `t` is a module just started at rack position `pos`: nothing under way, every register at its reset value but those of the
controller and HASHM, and HASHA the values of HASHM. -/
def State.startedAs (s t : State) (pos : BitVec 4) : Prop :=
  t.ctl.sstate = .ready ∧ t.ctl.sres = 0 ∧ t.cores = State.reset.cores ∧ t.regions = [] ∧
    t.dcus = State.reset.dcus ∧ t.rdc = State.reset.rdc ∧ t.vertex = State.reset.vertex ∧ t.pbc = State.reset.pbc ∧
    t.lattice = State.reset.lattice ∧ t.tables = [] ∧ t.trust = State.reset.trust ∧ t.myMod = pos ∧
    t.inRack pos.toNat = true ∧
    (∀ n : Fin 8, (t.hbm.get n).hashM = (s.hbm.get n).hashM ∧ (t.hbm.get n).hashA = (s.hbm.get n).hashM) ∧
    t.ctl.hlogBase = s.ctl.hlogBase ∧ t.ctl.pwrCap = s.ctl.pwrCap

theorem State.rackAt_own (s : State) (pos : BitVec 4) : (s.rackAt pos).rackMap.getLsbD pos.toNat = true :=
  (getLsbD_putBit _ _ _ _ pos.isLt).trans (if_pos rfl)

theorem State.restarted_startedAs {s u : State} (pos : BitVec 4) (mem : Memory) (poison : List Nat) {ctl : Control}
    (hhbm : u.hbm = s.hbm) (hbase : ctl.hlogBase = s.ctl.hlogBase) (hcap : ctl.pwrCap = s.ctl.pwrCap) :
    s.startedAs (u.restarted pos mem poison ctl) pos := by
  refine ⟨rfl, rfl, rfl, rfl, rfl, rfl, rfl, rfl, rfl, rfl, rfl, rfl, u.rackAt_own pos, fun n => ?_, hbase, hcap⟩
  rw [← hhbm]
  simp [State.restarted, Vector.get_eq_getElem]

/-! ### Step 3 of a warm start -/

theorem State.crossOn_ctl (s : State) (key : Nat) (p : Option Nat) : (s.crossOn key p).ctl = s.ctl := by
  unfold State.crossOn
  split <;> rfl

theorem State.writeHome_logged (s : State) (n : Nat) (x : RdcSector) : s.ctl.logged (s.writeHome n x).ctl := by
  change s.ctl.logged (State.crossOn _ _ _).ctl
  rw [State.crossOn_ctl]
  exact State.byHome_logged (State.homeWrite_byHome ..)

/-- The masks are as they were, and so is the controller's block but for its health log. -/
def State.bySaving (s t : State) : Prop := t.hbm = s.hbm ∧ s.ctl.logged t.ctl

theorem State.bySaving_refl (s : State) : s.bySaving s := ⟨rfl, rfl⟩

theorem State.bySaving_trans {s t u : State} (h : s.bySaving t) (k : t.bySaving u) : s.bySaving u :=
  ⟨k.1.trans h.1, Control.logged_trans h.2 k.2⟩

theorem State.foldl_bySaving {β : Type} {f : State → β → State} (hf : ∀ (t : State) x, t.bySaving (f t x)) (l : List β)
    (s : State) : s.bySaving (l.foldl f s) :=
  List.foldlRecOn (motive := s.bySaving) l f s.bySaving_refl fun t ht x _ => State.bySaving_trans ht (hf t x)

theorem State.saveSector_bySaving (s : State) (die : Nat) (x : Nat × RdcSector) : s.bySaving (s.saveSector die x) := by
  unfold State.saveSector
  split_ifs
  · exact s.bySaving_refl
  · exact ⟨by rw [State.writeHome_byTraffic], s.writeHome_logged ..⟩
  · exact ⟨State.byHome_hbm (s.health_byHome ..), State.byHome_logged (s.health_byHome ..)⟩

theorem State.saveCaches_bySaving (s : State) : s.bySaving s.saveCaches :=
  State.foldl_bySaving (fun t d => State.foldl_bySaving (fun u x => u.saveSector_bySaving d x) _ t) _ s

/-- Without dirty sectors there is nothing to save. -/
theorem State.saveCaches_of_clean {s : State} (h : ∀ n, n < 8 → ∀ e, e ∈ s.rdcOf n → e.2.dirty = 0) : s.saveCaches = s :=
  List.foldlRecOn (motive := fun t => t = s) _ _ rfl fun t ht d hd =>
    List.foldlRecOn (motive := fun t => t = s) _ _ ht fun u hu e he => by
      subst ht
      rw [hu]
      exact if_pos (h d (List.mem_range.1 hd) e he)

/-- The state when a warm start has saved what the caches hold. -/
def State.saved (s : State) : State := ({ s with ctl := { s.ctl with sstate := .starting } } : State).saveCaches

/-! ### Memory that stays where it was -/

theorem hashShift_self (m : Vector (BitVec 44) 6) (a : Nat) : hashShift m m a = 0 := by
  simp [hashShift, parity44]

/-- With the masks in force and the module's number unchanged, a byte stays where it was. -/
theorem State.movedAddr_self {s : State} (hmask : ∀ n : Fin 8, (s.hbm.get n).hashM = (s.hbm.get n).hashA) {pos a : Nat}
    (h : a / 2 ^ 48 = pos) : s.movedAddr pos a = a := by
  unfold State.movedAddr
  simp only [hmask, hashShift_self, Nat.xor_zero, dite_eq_ite, ite_self]
  omega

theorem State.movedMem_byte {s : State} (hwf : Memory.wf s.mem = true) {pos : Nat}
    (hfix : ∀ e ∈ s.mem, e.1 < 2 ^ 52 → s.movedAddr pos e.1 = e.1) (a : Nat) :
    (s.movedMem pos).byte a = s.mem.byte a := by
  have hsame : s.movedMem pos = s.mem.foldl (fun (m : Memory) x => m.setByte x.1 x.2) [] :=
    List.foldl_ext _ _ _ fun m e he => by
      split
      · next h => rw [hfix e he h]
      · rfl
  rw [hsame, Memory.byte_foldl_setByte hwf]
  split
  · rfl
  · next h => exact (Store.get_of_not_key (0 : Byte) s.mem a h).symm

/-! ### The starts (R403) -/

section
variable {s : State} {x : StartChecks}

theorem execStart_busy (op : BitVec 2) (h : s.ctl.sstate = .starting) :
    exec (.coldStart x) s = .next s ∧ exec (.warmStart x) s = .next s ∧ exec (.startOpInvalid op) s = .next s :=
  ⟨if_pos h, if_pos h, if_pos (.inl h)⟩

/-- A start that ends in FAILED leaves memory. -/
theorem State.startFails_spec (s : State) (r : BitVec 4) : (s.startFails r).ctl.sstate = .failed ∧
    (s.startFails r).ctl.sres = r ∧ (s.startFails r).mem = s.mem := ⟨rfl, rfl, rfl⟩

variable (hb : ¬ s.ctl.sstate = .starting)
include hb

theorem execColdStart_firmware_fails (hf : x.fwOk = false) : exec (.coldStart x) s = .next (s.startFails 3) := by
  change execColdStart x s = _
  simp [execColdStart, hb, hf]

theorem execColdStart_training_fails (hf : x.fwOk = true) (ht : x.trainOk = false) :
    exec (.coldStart x) s = .next (s.startFails 4) := by
  change execColdStart x s = _
  simp [execColdStart, hb, hf, ht]

theorem execColdStart_passes (hf : x.fwOk = true) (ht : x.trainOk = true) : exec (.coldStart x) s =
    .next (s.restarted x.position (s.mem.filter fun c => decide (2 ^ 52 ≤ c.1)) (s.poison.filter fun g => decide (2 ^ 47 ≤ g))
      { s.ctl with roscCold := s.ctl.rosc, cold := true, measured := true }) := by
  change execColdStart x s = _
  simp [execColdStart, hb, hf, ht]

theorem execWarmStart_without_cold (hc : s.ctl.cold = false) :
    exec (.warmStart x) s = .next { s with ctl := { s.ctl with sres := 2 } } := by
  change execWarmStart x s = _
  simp [execWarmStart, hb, hc]

theorem execWarmStart_digest_fails (hc : s.ctl.cold = true) (hf : x.fwOk = false) :
    exec (.warmStart x) s = .next (s.startFails 5) := by
  change execWarmStart x s = _
  simp [execWarmStart, hb, hc, hf]

theorem execWarmStart_passes (hc : s.ctl.cold = true) (hf : x.fwOk = true) : exec (.warmStart x) s =
    .next (s.saved.restarted x.position (s.saved.movedMem x.position.toNat) (s.saved.movedPoison x.position.toNat) s.saved.ctl) := by
  change execWarmStart x s = _
  simp [execWarmStart, hb, hc, hf, State.saved]

theorem execStartOpInvalid_refused {op : BitVec 2} (h : op = 0 ∨ op = 3) :
    exec (.startOpInvalid op) s = .next { s with ctl := { s.ctl with sres := 1 } } :=
  if_neg (by rcases h with rfl | rfl <;> simp [hb])

end

/-- The controller's block after a warm start is the earlier one but for its health log and what the start reports. -/
theorem State.saved_ctl (s : State) : s.saved.ctl.hlogBase = s.ctl.hlogBase ∧ s.saved.ctl.pwrCap = s.ctl.pwrCap ∧
    s.saved.ctl.cold = s.ctl.cold := by
  have h : Control.logged _ s.saved.ctl := (State.saveCaches_bySaving _).2
  rw [h]
  exact ⟨rfl, rfl, rfl⟩

/-- A warm start that passes. -/
theorem execWarmStart_restarts {s : State} {x : StartChecks} (hb : ¬ s.ctl.sstate = .starting) (hc : s.ctl.cold = true)
    (hf : x.fwOk = true) : ∃ t, exec (.warmStart x) s = .next t ∧ s.startedAs t x.position ∧ t.ctl.cold = true ∧
      t.mem = s.saved.movedMem x.position.toNat := by
  have hexec := execWarmStart_passes hb hc hf
  have hhbm : s.saved.hbm = s.hbm := (State.saveCaches_bySaving _).1
  obtain ⟨hbase, hcap, hcold⟩ := s.saved_ctl
  generalize s.saved = u at hexec hhbm hbase hcap hcold ⊢
  exact ⟨_, hexec, State.restarted_startedAs _ _ _ hhbm hbase hcap, hcold.trans hc, rfl⟩

theorem State.saved_of_clean {s : State} (h : ∀ n, n < 8 → ∀ e, e ∈ s.rdcOf n → e.2.dirty = 0) :
    s.saved = { s with ctl := { s.ctl with sstate := .starting } } := State.saveCaches_of_clean h

/-- A warm start that moves nothing leaves every byte of the module's memory. -/
theorem State.saved_movedMem_byte {s : State} (hmask : ∀ n : Fin 8, (s.hbm.get n).hashM = (s.hbm.get n).hashA)
    (hclean : ∀ n, n < 8 → ∀ e, e ∈ s.rdcOf n → e.2.dirty = 0) (hwf : Memory.wf s.mem = true)
    (hown : ∀ e, e ∈ s.mem → e.1 < 2 ^ 52 → e.1 / 2 ^ 48 = s.myMod.toNat) (a : Nat) :
    (s.saved.movedMem s.myMod.toNat).byte a = s.mem.byte a := by
  rw [State.saved_of_clean hclean]
  exact State.movedMem_byte (s := { s with ctl := { s.ctl with sstate := .starting } }) hwf
    (fun e he hlow => State.movedAddr_self hmask (hown e he hlow)) a

/-! ### Readings and trips (R401) -/

/-- The controller's block shows a reading. -/
def Control.shows (c : Control) (x : SensorReadings) : Prop :=
  c.temps = x.temps ∧ c.volts = x.volts ∧ c.pwrNow = x.power ∧ c.rosc = x.rosc

/-- Nothing is left of the module's work, of its trust and of its own memory. -/
def State.emptied (t : State) : Prop :=
  t.cores = State.reset.cores ∧ t.regions = [] ∧ t.trust = State.reset.trust ∧ t.lattice = State.reset.lattice ∧
    ∀ a, a < 2 ^ 52 → t.mem.byte a = 0

theorem State.lost_emptied (s : State) (c : Control) : (s.lost c).emptied :=
  ⟨rfl, rfl, rfl, rfl, fun _ h => Memory.byte_lost _ h⟩

/-- The state when the readings of a tick have been taken in. -/
def State.taken (s : State) (x : SensorReadings) : State :=
  (({ s with ctl := s.ctl.read x } : State).readingEntries s.ctl).stepPower

/-- What a tick makes of the controller's block. -/
theorem State.taken_ctl (s : State) (x : SensorReadings) : (s.taken x).ctl.shows x ∧
    (s.taken x).ctl.sstate = s.ctl.sstate ∧ (s.taken x).ctl.pwrStep = (s.ctl.stepped x).pwrStep := by
  have h : (s.ctl.stepped x).logged (s.taken x).ctl := (s.reading_byEntries x).2
  rw [h]
  exact ⟨⟨rfl, rfl, rfl, rfl⟩, rfl, rfl⟩

/-- A tick that does not trip the module changes the controller's block and memory alone. -/
theorem State.taken_frame (s : State) (x : SensorReadings) :
    s.taken x = { s with ctl := (s.taken x).ctl, mem := (s.taken x).mem } := (s.reading_byEntries x).1

/-- What a trip leaves of a module whose controller's block shows a reading. -/
theorem State.trip_spec {s : State} {x : SensorReadings} (h : s.ctl.shows x) (u v : Nat) : (s.trip u v).emptied ∧
    (∀ n : Fin 8, ((s.trip u v).hbm.get n).hashM = (s.hbm.get n).hashM) ∧ (s.trip u v).ctl.shows x ∧
    (s.trip u v).ctl.sstate = .tripped ∧ (s.trip u v).ctl.cold = false ∧ (s.trip u v).ctl.pwrStep = s.ctl.pwrStep := by
  have hlog : s.ctl.logged (s.health 11 u 0 0 v).ctl := (s.health_byEntries ..).2
  refine ⟨⟨rfl, rfl, rfl, rfl, fun _ ha => Memory.byte_lost _ ha⟩, fun n => ?_, ?_, rfl, rfl, ?_⟩
  · simp [State.trip, Vector.get_eq_getElem]
  · change Control.shows { (s.health 11 u 0 0 v).ctl with sstate := .tripped, cold := false } x
    rw [hlog]
    exact h
  · change (s.health 11 u 0 0 v).ctl.pwrStep = _
    rw [hlog]

section
variable {s : State} {x : SensorReadings}

theorem exec_powerControlTick_tripped (h : s.ctl.sstate = .tripped) :
    exec (.powerControlTick x) s = .next (s.taken x) := if_pos h

theorem exec_powerControlTick_trips (h : s.ctl.sstate ≠ .tripped) {u v : Nat} (ht : s.ctl.tripping x = some (u, v)) :
    exec (.powerControlTick x) s = .next ((s.taken x).trip u v) := by
  change execPowerControlTick x s = _
  simp only [execPowerControlTick, if_neg h, ht]
  rfl

theorem exec_powerControlTick_stays (h : s.ctl.sstate ≠ .tripped) (ht : s.ctl.tripping x = none) :
    exec (.powerControlTick x) s = .next (s.taken x) := by
  change execPowerControlTick x s = _
  simp only [execPowerControlTick, if_neg h, ht]
  rfl

theorem exec_moduleTrip_tripped (h : s.ctl.sstate = .tripped) : exec (.moduleTrip x) s = .next s := if_pos h

theorem exec_moduleTrip_trips (h : s.ctl.sstate ≠ .tripped) {u v : Nat} (ht : s.ctl.tripping x = some (u, v)) :
    exec (.moduleTrip x) s = .next ((({ s with ctl := s.ctl.read x } : State).readingEntries s.ctl).trip u v) := by
  change execModuleTrip x s = _
  simp only [execModuleTrip, if_neg h, ht]

theorem exec_moduleTrip_stays (h : s.ctl.sstate ≠ .tripped) (ht : s.ctl.tripping x = none) :
    exec (.moduleTrip x) s = .next s := by
  change execModuleTrip x s = _
  simp only [execModuleTrip, if_neg h, ht]

/-- Every tick takes its readings in and lets PWRSTEP follow them. -/
theorem exec_powerControlTick_reads (s : State) (x : SensorReadings) : ∃ t, exec (.powerControlTick x) s = .next t ∧
    t.ctl.shows x ∧ t.ctl.pwrStep = (s.ctl.stepped x).pwrStep := by
  obtain ⟨hshows, -, hstep⟩ := s.taken_ctl x
  by_cases h : s.ctl.sstate = .tripped
  · exact ⟨_, exec_powerControlTick_tripped h, hshows, hstep⟩
  · cases ht : s.ctl.tripping x with
    | none => exact ⟨_, exec_powerControlTick_stays h ht, hshows, hstep⟩
    | some y =>
      obtain ⟨-, -, htrip, -, -, hkeep⟩ := State.trip_spec hshows y.1 y.2
      exact ⟨_, exec_powerControlTick_trips h ht, htrip, hkeep.trans hstep⟩

/-- A reading that trips the module does so at a tick and between ticks. -/
theorem exec_trips (h : s.ctl.sstate ≠ .tripped) (ht : (s.ctl.tripping x).isSome = true) {i : Instr}
    (hi : i ∈ [.powerControlTick x, .moduleTrip x]) : ∃ t, exec i s = .next t ∧ t.emptied ∧
      (∀ n : Fin 8, (t.hbm.get n).hashM = (s.hbm.get n).hashM) ∧ t.ctl.shows x ∧
        t.ctl.sstate = .tripped ∧ t.ctl.cold = false := by
  obtain ⟨⟨u, v⟩, hy⟩ := Option.isSome_iff_exists.1 ht
  have hcase : ∃ p : State, exec i s = .next (p.trip u v) ∧ p.ctl.shows x ∧ p.hbm = s.hbm := by
    simp only [List.mem_cons, List.not_mem_nil, or_false] at hi
    rcases hi with rfl | rfl
    · exact ⟨_, exec_powerControlTick_trips h hy, (s.taken_ctl x).1, by rw [s.taken_frame x]⟩
    · have hread := ({ s with ctl := s.ctl.read x } : State).readingEntries_byEntries s.ctl
      exact ⟨_, exec_moduleTrip_trips h hy, by rw [hread.2]; exact ⟨rfl, rfl, rfl, rfl⟩, by rw [hread.1]⟩
  obtain ⟨p, hexec, hshows, hhbm⟩ := hcase
  obtain ⟨hempty, hmask, hreads, hstate, hcold, -⟩ := State.trip_spec hshows u v
  exact ⟨_, hexec, hempty, hhbm ▸ hmask, hreads, hstate, hcold⟩

end

/-- PWRSTEP after a reading: one up where something calls for it, else one down where everything allows it. -/
theorem Control.toNat_pwrStep_stepped (c : Control) (x : SensorReadings) (h : c.pwrStep.toNat ≤ 8) :
    (c.stepped x).pwrStep.toNat =
      if (∃ i : Fin 25, c.tThrot.toNat ≤ (x.temps.get i).toNat) ∨ c.pwrCap.toNat < x.power.toNat ∨
        ∃ i : Fin 18, c.vLow.get i ≠ 0 ∧ (x.volts.get i).toNat < (c.vLow.get i).toNat then min 8 (c.pwrStep.toNat + 1)
      else if (∀ i : Fin 25, (x.temps.get i).toNat + 80 < c.tThrot.toNat) ∧ x.power.toNat + 100 < c.pwrCap.toNat ∧
        ∀ i : Fin 18, c.vLow.get i = 0 ∨ (c.vLow.get i).toNat ≤ (x.volts.get i).toNat then c.pwrStep.toNat - 1
      else c.pwrStep.toNat := by
  have hle : (c.read x).nextStep ≤ 8 := Control.nextStep_le h
  have hstep : (c.stepped x).pwrStep.toNat = (c.read x).nextStep := (BitVec.toNat_ofNat ..).trans (by omega)
  exact hstep.trans (if_congr Control.mustSlow_iff rfl (if_congr Control.mayQuicken_iff rfl rfl))

/-- PWRCAP is at most 2,400 (R400). -/
theorem exec_pwrcapWrite (s : State) (v : Word) : exec (.pwrcapWrite v) s =
    .next { s with ctl := { s.ctl with pwrCap := BitVec.ofNat 12 (min 2400 (v.toNat % 4096)) } } := rfl

/-- Settles O15: each start by the check that decides it, each reading by whether it trips the module. -/
theorem startsAndPower : Obligations.StartsAndPower := by
  refine ⟨fun s x op => ⟨execStart_busy op, fun hb => ⟨fun hf => ?_, fun hf ht => ?_, fun hf ht => ?_, fun hc => ?_,
    fun hc hf => ?_, fun hc hf => ?_, execStartOpInvalid_refused hb⟩⟩,
    fun s x v => ⟨fun i hi => ?_, ?_, fun h => ?_, fun h => ⟨fun ht i hi => ?_, fun ht => ?_⟩, exec_pwrcapWrite s v⟩⟩
  · exact ⟨_, execColdStart_firmware_fails hb hf, s.startFails_spec 3⟩
  · exact ⟨_, execColdStart_training_fails hb hf ht, s.startFails_spec 4⟩
  · refine ⟨_, execColdStart_passes hb hf ht, State.restarted_startedAs _ _ _ rfl rfl rfl, rfl, fun a ha => Memory.byte_lost _ ha,
      fun a ha hwf => Memory.byte_kept hwf ha, fun g hg hmem => ?_⟩
    exact Nat.not_le.2 hg (of_decide_eq_true (List.mem_filter.1 hmem).2)
  · exact execWarmStart_without_cold hb hc
  · exact ⟨_, execWarmStart_digest_fails hb hc hf, s.startFails_spec 5⟩
  · obtain ⟨t, ht, hstarted, hcold, hmem⟩ := execWarmStart_restarts hb hc hf
    refine ⟨t, ht, hstarted, hcold, fun hpos hmask hclean hwf hown a _ => ?_⟩
    rw [hmem, hpos]
    exact State.saved_movedMem_byte hmask hclean hwf hown a
  · simp only [List.mem_cons, List.not_mem_nil, or_false] at hi
    rcases hi with rfl | rfl <;> exact ⟨_, rfl, s.lost_emptied _, rfl⟩
  · obtain ⟨t, ht, hshows, hstep⟩ := exec_powerControlTick_reads s x
    exact ⟨t, ht, hshows, fun hle => hstep ▸ s.ctl.toNat_pwrStep_stepped x hle⟩
  · obtain ⟨hshows, hstate, -⟩ := s.taken_ctl x
    exact ⟨exec_moduleTrip_tripped h, _, exec_powerControlTick_tripped h, s.taken_frame x, hshows, hstate.trans h⟩
  · exact exec_trips h (Control.isSome_tripping_iff.2 ht) hi
  · have hnone := Option.not_isSome_iff_eq_none.1 (mt Control.isSome_tripping_iff.1 ht)
    obtain ⟨hshows, hstate, hstep⟩ := s.taken_ctl x
    have hcores : (s.taken x).cores = s.cores := by rw [s.taken_frame x]
    have htrust : (s.taken x).trust = s.trust := by rw [s.taken_frame x]
    exact ⟨exec_moduleTrip_stays h hnone, _, exec_powerControlTick_stays h hnone,
      fun hle => hstep ▸ s.ctl.toNat_pwrStep_stepped x hle, hshows, hstate, hcores, htrust⟩

end Sys2Proof.Machine
end

section
/-!
SUPPORT. Bundles that are invalid (R113, R116): a slot whose field reads as an instruction that is not well formed makes its bundle
no bundle.
-/

namespace Sys2Proof

/-- A field that reads as an instruction which is not well formed is no field of its slot; the NOP alone is not read. -/
theorem slotOf_ne_ok {n : Nat} {k : Slot} {read : BitVec n → Option Instr} {w : BitVec n} {i : Instr} (h0 : read 0 = none)
    (h : read w = some i) (hwf : i.wf = false) (x : Option Instr) : slotOf k read w ≠ .ok x := by
  have hw : w ≠ 0 := fun e => by rw [e, h0] at h; cases h
  simp only [slotOf, if_neg hw, h, hwf, Bool.false_eq_true, if_false]
  exact fun e => by cases e

/-- The fields of vector slot B and of the transpose slot in a bundle that decodes. -/
theorem decodeBundle_fields {w : BundleBits} {b : Bundle} (h : decodeBundle w = .ok b) :
    slotOf .vectorB readVectorB (w.extractLsb' 208 64) = .ok b.vB ∧
      slotOf .transpose readTranspose (w.extractLsb' 304 32) = .ok b.tr := by
  unfold decodeBundle at h
  split at h
  · cases h
  · split at h
    iterate 9 · cases h
    rename_i hvB _ htr _
    cases h
    exact ⟨hvB, htr⟩

theorem decodeBundle_ne_ok_of_vectorB {w : BundleBits} {i : Instr} (hk : i.slot? = some .vectorB) (hwf : i.wf = false)
    (h : w.extractLsb' 208 64 = encodeVectorB i) (b : Bundle) : decodeBundle w ≠ .ok b := fun hb =>
  slotOf_ne_ok rfl (readVectorB_encodeVectorB hk) hwf _ (h ▸ (decodeBundle_fields hb).1)

theorem decodeBundle_ne_ok_of_transpose {w : BundleBits} {i : Instr} (hk : i.slot? = some .transpose) (hwf : i.wf = false)
    (h : w.extractLsb' 304 32 = encodeTranspose i) (b : Bundle) : decodeBundle w ≠ .ok b := fun hb =>
  slotOf_ne_ok rfl (readTranspose_encodeTranspose hk) hwf _ (h ▸ (decodeBundle_fields hb).2)

end Sys2Proof
end

section
/-!
PROOF of O29: the transpose instructions, element by element, and the selectors that are out of range (R230).
-/

namespace Sys2Proof.Machine

/-- Column `c` of row `r` in block `k` comes from row `c`, column `r` of the block that the selector pairs with `k`. -/
theorem xposeFrom_block (blk k : Nat) {r c : Nat} (hr : r < 32) (hc : c < 32) :
    xposeFrom blk (1024 * k + 32 * r + c) = 1024 * (k ^^^ blk) + 32 * c + r := by
  rw [xposeFrom, show (1024 * k + 32 * r + c) / 1024 = k by omega, show (1024 * k + 32 * r + c) % 32 = c by omega,
    show (1024 * k + 32 * r + c) % 1024 / 32 = r by omega]

theorem elem_mod_two_pow (v : VReg) (w n : Nat) : elem v w n % 2 ^ w = elem v w n := Nat.mod_mod ..

theorem elem_xposeReg (v : VReg) {w n : Nat} (blk : Nat) (hw : 0 < w) (hn : w * (n + 1) ≤ 32768) :
    elem (xposeReg w blk v) w n = elem v w (xposeFrom blk n) := by
  have hlt : n < 32768 / w := (Nat.le_div_iff_mul_le hw).2 (Nat.mul_comm .. ▸ hn)
  rw [xposeReg, elem_updElems _ _ _ (Nat.mul_div_le ..) hn, if_pos ⟨hlt, rfl⟩, elem_mod_two_pow]

/-- Settles O29: each instruction is the turn of its blocks, and a selector out of range is not well formed. -/
theorem transposedElements : Obligations.TransposedElements := by
  intro s d a blk i w hi
  refine ⟨fun _ => ⟨xposeReg w blk.toNat (s.timed.vreg a), ?_, fun k r c hk hr hc => ?_⟩, fun bits hbits hblk => ?_⟩
  · rcases hi with ⟨rfl, rfl⟩ | ⟨rfl, rfl⟩ | ⟨rfl, rfl⟩ | ⟨rfl, rfl⟩ <;> rfl
  · have hn : 0 < w ∧ w * (1024 * k + 32 * r + c + 1) ≤ 32768 := by
      rcases hi with ⟨-, rfl⟩ | ⟨-, rfl⟩ | ⟨-, rfl⟩ | ⟨-, rfl⟩ <;> omega
    rw [elem_xposeReg _ _ hn.1 hn.2, xposeFrom_block _ _ hr hc]
  · rcases hi with ⟨rfl, rfl⟩ | ⟨rfl, rfl⟩ | ⟨rfl, rfl⟩ | ⟨rfl, rfl⟩
    · have hsel : (blk == 0) = false := beq_false_of_ne fun h => hblk (by simp [h])
      exact decodeBundle_ne_ok_of_transpose (i := .xposeN32 d a blk) rfl (Bool.and_eq_false_iff.2 (.inr hsel)) hbits
    · have hsel : ¬ blk.toNat ≤ 1 := fun h => hblk (Nat.lt_succ_of_le h)
      exact decodeBundle_ne_ok_of_transpose (i := .xposeN16 d a blk) rfl
        (Bool.and_eq_false_iff.2 (.inr (decide_eq_false hsel))) hbits
    · have hsel : ¬ blk.toNat ≤ 3 := fun h => hblk (Nat.lt_succ_of_le h)
      exact decodeBundle_ne_ok_of_transpose (i := .xposeN8 d a blk) rfl
        (Bool.and_eq_false_iff.2 (.inr (decide_eq_false hsel))) hbits
    · exact absurd trivial hblk

end Sys2Proof.Machine
end

section
/-!
PROOF of O27: the masks of a compare, bit by bit, what a NaN and the zeros compare as, and the compares that are invalid (R216).
-/

namespace Sys2Proof.Machine

/-! ### The masks that a compare puts in flight -/

theorem getLsbD_updBits (en f : Nat → Bool) (old : MReg) (m : Nat) {n : Nat} (hn : n < 1024) :
    (updBits en f old m).getLsbD n = if n < m ∧ en n = true then f n else old.getLsbD n := by
  induction m with
  | zero => simp [updBits]
  | succ m ih =>
    rw [updBits]
    by_cases hnm : n = m
    · subst hnm
      by_cases he : en n = true <;> simp [he, getLsbD_putBit _ _ _ _ hn, ih]
    · have hlt : n < m + 1 ↔ n < m := by omega
      by_cases he : en m = true <;> simp [he, getLsbD_putBit _ _ _ _ hn, ih, hnm, hlt]

/-- The masks of a group in rising order, the BSTAT update with the first alone. -/
theorem pendMasks_eq (t0 : Timed) (o : VOp) (rel : Nat → Bool) (b : List BstUpd) (k j : Nat) (t : Timed) :
    pendMasks t0 o rel b k j t = { t with inFlight := t.inFlight ++ (List.range k).map fun i =>
      ⟨2, t.seq.issuing, .mask (o.vd.setWidth 4 + BitVec.ofNat 4 (j + i)) (cmpMask t0 o rel (j + i)), 0,
        if i = 0 then b else []⟩ } := by
  induction k generalizing b j t with
  | zero => simp [pendMasks]
  | succ k ih =>
    rw [pendMasks, ih, List.range_succ_eq_map, List.map_cons, List.map_map]
    simp [Timed.pendBst, Function.comp_def, Nat.add_assoc, Nat.add_comm 1]

/-- A compare by `rel`, as R216 gives its masks: their order and latency, and each of their bits. -/
def comparesBy (s : State) (o : VOp) (i : Instr) (rel : Nat → Bool) : Prop :=
  let t := s.timed
  let g := 32 / o.ty.width
  ∃ (m : Nat → MReg) (l : Nat → List BstUpd),
    exec i s = .next (s.setTimed { t with inFlight := t.inFlight ++ (List.range g).map fun j =>
      ⟨2, t.seq.issuing, .mask (o.vd.setWidth 4 + BitVec.ofNat 4 j) (m j), 0, l j⟩ }) ∧
    ∀ j n, j < g → n < 1024 →
      (m j).getLsbD n = if n < t.vl ∧ t.enabled o o.ty.width (g * n + j) = true then rel (g * n + j)
        else (t.mreg (o.vd.setWidth 4 + BitVec.ofNat 4 j)).getLsbD n

theorem comparesBy_of_pendMasks {s : State} {o : VOp} {i : Instr} {rel rel' : Nat → Bool} {b : List BstUpd}
    (hi : exec i s = .next (s.setTimed (pendMasks s.timed o rel' b (32 / o.ty.width) 0 s.timed))) (h : ∀ n, rel' n = rel n) :
    comparesBy s o i rel := by
  obtain rfl : rel' = rel := funext h
  refine ⟨cmpMask s.timed o rel', fun j => if j = 0 then b else [], ?_, fun j n _ hn => getLsbD_updBits _ _ _ _ hn⟩
  simpa only [pendMasks_eq, Nat.zero_add] using hi

section
variable {s : State} {o : VOp} {ri : Int → Int → Bool} {rf : FVal → FVal → Bool} {i : Instr} (hi : exec i s = compare o ri rf s)
include hi

theorem compare_int (h : o.ty.isFloat = false) {rel : Int → Int → Bool} (hrel : ∀ x y, ri x y = rel x y) : comparesBy s o i fun n =>
    rel (intOf o.ty (elem (s.timed.vreg o.va) o.ty.width n)) (intOf o.ty (s.timed.opB o o.ty.width n)) :=
  comparesBy_of_pendMasks (hi.trans (congrArg _ (congrArg s.setTimed (if_neg (Bool.eq_false_iff.1 h))))) fun _ => hrel _ _

theorem compare_float (h : o.ty.isFloat = true) : comparesBy s o i fun n =>
    rf (valIn o.ty (elem (s.timed.vreg o.va) o.ty.width n)).1 (valIn o.ty (s.timed.opB o o.ty.width n)).1 :=
  comparesBy_of_pendMasks (hi.trans (congrArg _ (congrArg s.setTimed (if_pos h)))) fun _ => rfl

end

/-! ### NaN and zeros -/

theorem FVal.lt_of_nan {x y : FVal} (h : x.isNan = true ∨ y.isNan = true) : x.lt y = false := by
  rcases h with h | h
  · cases x with
    | nan => rfl
    | inf _ => cases h
    | num _ _ _ => cases h
  · cases y with
    | nan => cases x <;> rfl
    | inf _ => cases h
    | num _ _ _ => cases h

theorem FVal.eqv_of_nan {x y : FVal} (h : x.isNan = true ∨ y.isNan = true) : x.eqv y = false := by
  rcases h with h | h <;> simp [FVal.eqv, h]

theorem signedMag_shiftMag_zero (neg : Bool) (k : Int) : signedMag neg (shiftMag 0 k) = 0 := by
  simp [signedMag, shiftMag]

theorem FVal.lt_zero_zero (neg neg' : Bool) (e e' : Int) : (FVal.num neg 0 e).lt (.num neg' 0 e') = false := by
  simp [FVal.lt, signedMag_shiftMag_zero]

theorem FVal.eqv_zero_zero (neg neg' : Bool) (e e' : Int) : (FVal.num neg 0 e).eqv (.num neg' 0 e') = true := by
  simp [FVal.eqv, FVal.isNan, FVal.lt_zero_zero]

/-! ### Invalid compares -/

theorem wfCmp_eq_false {o : VOp} (h : o.ty ∈ ([.f8, .i4, .n4] : List ElemTy) ∨ o.vd.toNat % (32 / o.ty.width) ≠ 0) :
    o.wfCmp = false := by
  rcases h with h | h
  · have hty : o.arithTy = false := by
      simp only [List.mem_cons, List.not_mem_nil, or_false] at h
      rcases h with h | h | h <;> simp [VOp.arithTy, h, ElemTy.isInt, ElemTy.isArithFloat]
    simp [VOp.wfCmp, hty]
  · have hmd : (o.vd.toNat % o.ty.perLane == 0) = false := beq_false_of_ne h
    simp [VOp.wfCmp, hmd]

/-- The opcodes of the compares in the table of vector slot B (R123). -/
theorem compare_of_opcode {op : BitVec 8} (hlo : 1 ≤ op.toNat) (hhi : op.toNat ≤ 4) (o : VOp) :
    ∃ i : Instr, i.slot? = some .vectorB ∧ i.wf = o.wfCmp ∧ VOp.word op o = encodeVectorB i := by
  have hop : op = 1 ∨ op = 2 ∨ op = 3 ∨ op = 4 := by bv_omega
  rcases hop with rfl | rfl | rfl | rfl
  · exact ⟨.vcmpeq o, rfl, rfl, rfl⟩
  · exact ⟨.vcmpne o, rfl, rfl, rfl⟩
  · exact ⟨.vcmplt o, rfl, rfl, rfl⟩
  · exact ⟨.vcmple o, rfl, rfl, rfl⟩

/-- Settles O27: a compare by its relation on integers or on values, an invalid one by its fields. -/
theorem compares : Obligations.Compares := by
  intro s o
  have heq : exec (.vcmpeq o) s = compare o (fun a b => a == b) FVal.eqv s := rfl
  have hne : exec (.vcmpne o) s = compare o (fun a b => a != b) (fun a b => !a.eqv b) s := rfl
  have hlt : exec (.vcmplt o) s = compare o (fun a b => decide (a < b)) FVal.lt s := rfl
  have hle : exec (.vcmple o) s = compare o (fun a b => decide (a ≤ b)) (fun a b => a.lt b || a.eqv b) s := rfl
  refine ⟨fun h => ⟨compare_int heq h beq_eq_decide,
      compare_int (rel := fun x y => decide (x ≠ y)) hne h fun x y => by rw [bne, beq_eq_decide, ← decide_not],
      compare_int hlt h fun _ _ => rfl, compare_int hle h fun _ _ => rfl⟩,
    fun h => ⟨compare_float heq h, compare_float hne h, compare_float hlt h, compare_float hle h⟩,
    fun x y hn => ⟨FVal.eqv_of_nan hn, FVal.lt_of_nan hn⟩, fun neg e e' => ⟨FVal.eqv_zero_zero .., FVal.lt_zero_zero ..⟩,
    fun op bits hlo hhi hbits hbad => ?_⟩
  obtain ⟨i, hslot, hwf, hword⟩ := compare_of_opcode hlo hhi o
  exact decodeBundle_ne_ok_of_vectorB hslot (hwf.trans (wfCmp_eq_false hbad)) (hbits.trans hword)

end Sys2Proof.Machine
end

section
/-!
PROOF of O28: the mask instructions, and the single elements and block statistics with their one trap (R225-R229).
-/

namespace Sys2Proof.Machine

theorem indexTrap_none {t : Timed} {o : VOp} {limit : Nat} (h : o.sbf = false ∨ elemIdx t o < limit) :
    indexTrap t o limit = none := by
  refine if_neg fun hbad => ?_
  obtain ⟨hsbf, hle⟩ := hbad
  rcases h with h | h
  · exact Bool.eq_false_iff.1 h hsbf
  · rw [elemIdx, if_pos hsbf] at h
    exact Nat.not_le.2 h hle

theorem indexTrap_scalar {t : Timed} {o : VOp} {limit : Nat} (hsbf : o.sbf = true) (h : limit ≤ (t.scalarB o).toNat) :
    indexTrap t o limit = some ⟨0x10, BitVec.ofNat 64 ((t.scalarB o).toNat % 2 ^ 32)⟩ := by
  have hdetail : ((t.scalarB o).setWidth 32).setWidth 64 = BitVec.ofNat 64 ((t.scalarB o).toNat % 2 ^ 32) := by
    rw [← BitVec.ofNat_toNat, BitVec.toNat_setWidth]
  rw [indexTrap, if_pos ⟨hsbf, h⟩, hdetail]
  rfl

section
variable {s : State} {o : VOp} {i : Instr} {limit : Nat} {f : Timed → Timed}
  (hi : exec i s = s.trapOr 4 (indexTrap s.timed o limit) f)
include hi

theorem exec_indexed_completes (h : o.sbf = false ∨ elemIdx s.timed o < limit) : exec i s = .next (s.setTimed (f s.timed)) := by
  rw [hi, indexTrap_none h, State.trapOr_none]

theorem exec_indexed_traps (hsbf : o.sbf = true) (h : limit ≤ (s.timed.scalarB o).toNat) :
    exec i s = .next (s.takeTrap 4 ⟨0x10, BitVec.ofNat 64 ((s.timed.scalarB o).toNat % 2 ^ 32)⟩) := by
  rw [hi, indexTrap_scalar hsbf h, State.trapOr_some]

end

theorem bits_eq_div_mod (x h l : Nat) : bits x h l = x / 2 ^ l % 2 ^ (h + 1 - l) := by
  rw [bits, Nat.shiftRight_eq_div_pow]

/-- Settles O28: each mask instruction as it stands, the indexed ones by whether their index is within its range. -/
theorem masksElementsStatistics : Obligations.MasksElementsStatistics := by
  refine ⟨fun s o => ?_, fun s o hsbf => ?_⟩
  · have vext := exec_indexed_completes (s := s) (o := o) (i := .vext o) rfl
    have vins := exec_indexed_completes (s := s) (o := o) (i := .vins o) rfl
    have bstrd := exec_indexed_completes (s := s) (o := o) (i := .bstrd o) rfl
    have scsel := exec_indexed_completes (s := s) (o := o) (i := .scsel o) rfl
    have bstclr : exec (.bstclr o) s = .next (s.setTimed (s.timed.pend 2
      (.bstClear (bits o.imm.toNat 6 0) (bits o.imm.toNat 13 7 + 1)))) := rfl
    have hblk : ∀ k, (if o.sbf = true then (s.timed.scalarB o).toNat else k) = if o.sbf = true then elemIdx s.timed o else k :=
      fun _ => ite_congr rfl (fun h => (if_pos h).symm) fun _ => rfl
    simp only [hblk, bits_eq_div_mod, Nat.reduceAdd, Nat.reduceSub, Nat.reducePow, Nat.div_one] at scsel bstclr
    exact ⟨rfl, rfl, rfl, rfl, rfl, fun h => ⟨vext h, vins h⟩, fun h => ⟨bstrd h, scsel h⟩, bstclr⟩
  · have vext := exec_indexed_traps (s := s) (o := o) (i := .vext o) rfl hsbf
    have vins := exec_indexed_traps (s := s) (o := o) (i := .vins o) rfl hsbf
    have bstrd := exec_indexed_traps (s := s) (o := o) (i := .bstrd o) rfl hsbf
    have scsel := exec_indexed_traps (s := s) (o := o) (i := .scsel o) rfl hsbf
    exact ⟨fun h => ⟨vext h, vins h⟩, fun h => ⟨bstrd h, scsel h⟩⟩

end Sys2Proof.Machine
end

section
/-!
PROOF of O26: the bits of a three-input table (R220), and the pairs of a conversion (R224).
-/

namespace Sys2Proof.Machine

/-! ### Three-input logic -/

/-- A minterm has a bit where the table has its number and the three operands' bits spell that number. -/
theorem testBit_minterm {w k : Nat} (hk : k < w) (table a b c m : Nat) : (minterm (2 ^ w - 1) table a b c m).testBit k =
    (table.testBit m && (a.testBit k == m.testBit 2) && (b.testBit k == m.testBit 1) && (c.testBit k == m.testBit 0)) := by
  have hsel : ∀ x n : Nat, (if m.testBit n = true then x else x ^^^ (2 ^ w - 1)).testBit k = (x.testBit k == m.testBit n) := by
    intro x n
    cases m.testBit n <;> simp [hk]
  rw [minterm]
  cases table.testBit m with
  | false => simp
  | true => simp only [if_true, Nat.testBit_and, hsel, Bool.true_and]

theorem testBit_lut3 {w k : Nat} (hk : k < w) (table a b c : Nat) : (lut3 w table a b c).testBit k =
    table.testBit (4 * (a.testBit k).toNat + 2 * (b.testBit k).toNat + (c.testBit k).toNat) := by
  simp only [lut3, Nat.testBit_or, testBit_minterm hk]
  cases a.testBit k <;> cases b.testBit k <;> cases c.testBit k <;> simp [Nat.testBit, Nat.shiftRight_eq_div_pow]

/-! ### Conversions -/

/-- The destination of a conversion, whose pair from source element `n` gives `y n`. -/
def convOut (t : Timed) (o : VOp) (ts : ElemTy) (y : Nat → Nat) : VReg :=
  let wmax := max o.ty.width ts.width
  let n := 32768 / wmax
  let off := if o.ty.width < ts.width then o.part * n else 0
  updElems o.ty.width (fun j => decide (off ≤ j) && (decide (j - off < t.active wmax) && t.enabled o wmax (j - off)))
    (fun j => y (if ts.width < o.ty.width then j - off + o.part * n else j - off)) (t.vreg o.vd) (off + n)

section
variable (o : VOp) (s : State)

theorem exec_vcvt : exec (.vcvt o) s =
    convert o (fun t ts n => convElem o.ty ts t.vrtz 0 (elem (t.vreg o.va) ts.width n)) s := rfl

theorem exec_vcvtw : exec (.vcvtw o) s =
    convert o (fun t ts n => ⟨elem (t.vreg o.va) ts.width n % 2 ^ o.ty.width, .nan, false⟩) s := rfl

theorem exec_vcvts : exec (.vcvts o) s =
    convert o (fun t ts n => convElem o.ty ts t.vrtz (t.scaleExp o (n / 32)) (elem (t.vreg o.va) ts.width n)) s := rfl

theorem exec_vunpk4 : exec (.vunpk4 o) s =
    convert o (fun t ts n => ⟨wrapTy o.ty (intOf ts (elem (t.vreg o.va) 4 n)), .nan, false⟩) s := rfl

end

section
variable {s : State} {o : VOp} {ts : ElemTy} (hts : o.ts? = some ts)
include hts

theorem exec_convert_completes {i : Instr} {f : Timed → ElemTy → Nat → EOut} (hi : exec i s = convert o f s) : ∃ l, exec i s =
    .next (s.setTimed (s.timed.pendBst 3 (.vector o.vd (convOut s.timed o ts fun n => (f s.timed ts n).bits)) l)) := by
  rw [hi, convert, hts]
  exact ⟨_, rfl⟩

end

section
variable {o : VOp} {ts : ElemTy} {j : Nat}

/-- Element `j` of a conversion's destination: that of its pair where it is in part h, active and enabled. -/
theorem elem_convOut (t : Timed) (y : Nat → Nat) (hwd : 0 < o.ty.width) (hj : j < 32768 / o.ty.width) :
    let wd := o.ty.width
    let ws := ts.width
    let n := 32768 / max wd ws
    let first := if wd < ws then o.part * n else 0
    (if wd < ws then (o.part + 1) * n ≤ 32768 / wd else if ws < wd then (o.part + 1) * n ≤ 32768 / ws else o.part = 0) →
    elem (convOut t o ts y) wd j =
      if first ≤ j ∧ j - first < n ∧ j - first < t.vl * 32 / max wd ws ∧ t.enabled o (max wd ws) (j - first) = true
      then y (if ws < wd then j + o.part * n else j - first) % 2 ^ wd else elem (t.vreg o.vd) wd j := by
  intro wd ws n first hpart
  have hroom : first + n ≤ 32768 / wd := by
    by_cases hlt : wd < ws
    · simp only [if_pos hlt, Nat.add_mul, Nat.one_mul] at hpart
      simpa only [first, if_pos hlt] using hpart
    · simp only [first, if_neg hlt, n, Nat.max_eq_left (Nat.not_lt.1 hlt), Nat.zero_add]
      exact le_rfl
  have hmul : ∀ {k}, k ≤ 32768 / wd → wd * k ≤ 32768 := fun h => Nat.mul_comm .. ▸ (Nat.le_div_iff_mul_le hwd).1 h
  rw [convOut, elem_updElems _ _ _ (hmul hroom) (hmul hj)]
  have hon : (j < first + n ∧ (decide (first ≤ j) && (decide (j - first < t.active (max wd ws)) &&
      t.enabled o (max wd ws) (j - first))) = true) ↔ (first ≤ j ∧ j - first < n ∧ j - first < t.vl * 32 / max wd ws ∧
      t.enabled o (max wd ws) (j - first) = true) := by
    simp only [Bool.and_eq_true, decide_eq_true_eq]
    exact and_left_comm.trans (and_congr_right fun hle => and_congr_left' (Nat.sub_lt_iff_lt_add' hle).symm)
  have hsrc : (if ws < wd then j - first + o.part * n else j - first) = if ws < wd then j + o.part * n else j - first := by
    split_ifs with h
    · simp only [first, if_neg (Nat.lt_asymm h), Nat.sub_zero]
    · rfl
  rw [← hsrc]
  exact if_congr hon rfl rfl

end

/-- Settles O26: a table bit by its minterms, a destination element of a conversion by its pair. -/
theorem tableAndConvertedElements : Obligations.TableAndConvertedElements := by
  refine ⟨fun w table a b c k hk _ _ _ => testBit_lut3 hk table a b c, ?_⟩
  intro s o ts j hts hvl t wd ws n hpart hwd hj first src on x i y hi
  have completes : ∀ {f : Timed → ElemTy → Nat → EOut}, exec i s = convert o f s → (f t ts src).bits = y →
      ∃ v l, exec i s = .next (s.setTimed (t.pendBst 3 (.vector o.vd v) l)) ∧
        elem v wd j = if on then y % 2 ^ wd else elem (t.vreg o.vd) wd j := by
    intro f hf hy
    obtain ⟨l, hl⟩ := exec_convert_completes hts hf
    refine ⟨_, l, hl, ?_⟩
    rw [← hy]
    exact elem_convOut t _ (Nat.zero_lt_of_lt hwd) hj hpart
  rcases hi with ⟨rfl, rfl⟩ | ⟨rfl, rfl⟩ | ⟨rfl, rfl⟩ | ⟨rfl, hws, rfl⟩
  · exact completes (exec_vcvt o s) rfl
  · exact completes (exec_vcvtw o s) rfl
  · exact completes (exec_vcvts o s) rfl
  · exact completes (exec_vunpk4 o s) (congrArg (fun k => wrapTy o.ty (intOf ts (elem (t.vreg o.va) k src))) hws.symm)

end Sys2Proof.Machine
end

section
/-!
SUPPORT. The shapes of the vector slots (R205-R215): a register of results, element by element.
-/

namespace Sys2Proof.Machine

/-- A meaning that puts one register of results in flight, by the value of each of its elements. -/
theorem exec_elems_gives {s : State} {i : Instr} {o : VOp} {lat w : Nat} {f g : Nat → Nat}
    (hi : exec i s = .next (s.setTimed (s.timed.pendElems lat o w f))) (h : ∀ n, f n = g n) :
    exec i s = .next (s.setTimed (s.timed.pend lat (.vector o.vd (s.timed.vecOut o w g)))) := by
  rw [hi, Timed.pendElems, funext h]

end Sys2Proof.Machine
end

section
/-!
PROOF of O25: select, shift, logic, permute and conversion of vector slot B (R217-R224).
-/

namespace Sys2Proof.Machine

/-- An element of a zip is that of the register its parity names. -/
theorem zipElem_eq (o : VOp) (t : Timed) (j : Nat) : zipElem o t j =
    if j % 2 = 0 then elem (t.vreg o.va) o.ty.width (j / 2) else elem (t.vreg o.vb) o.ty.width (j / 2) := by
  rw [zipElem, apply_ite t.vreg, apply_ite (elem · o.ty.width (j / 2))]

theorem exec_pair_gives {s : State} {i : Instr} {o : VOp} {f g : Timed → Nat → Nat} (hi : exec i s = pendPair o f g s)
    {f' g' : Nat → Nat} (hf : ∀ n, f s.timed n = f' n) (hg : ∀ n, g s.timed n = g' n) :
    exec i s = .next (s.setTimed ((s.timed.pend 4 (.vector o.vd (allElems o.ty.width f'))).pend 4
      (.vector (o.vd + 1) (allElems o.ty.width g')))) := by
  rw [hi, pendPair, State.timedNext, funext hf, funext hg]

/-- Settles O25: each instruction by the value of an element, a shift as a product or quotient; a conversion by its source type. -/
theorem vectorBResults : Obligations.VectorBResults := by
  intro s o
  have vzip : exec (.vzip o) s = pendPair o (fun t n => zipElem o t n) (fun t n => zipElem o t (n + o.ty.count)) s := rfl
  refine ⟨rfl, exec_elems_gives rfl fun n => ?vshl, exec_elems_gives rfl fun n => ?vshr, rfl, exec_elems_gives rfl fun n => ?vfshl,
    exec_elems_gives rfl fun n => ?vfshr, rfl, rfl, rfl, rfl,
    exec_pair_gives vzip (fun _ => zipElem_eq ..) fun _ => zipElem_eq .., rfl, fun ts hts i hi => ?conversion⟩
  case vshl => exact congrArg (· % _) (Nat.shiftLeft_eq ..)
  case vshr => exact Nat.shiftRight_eq_div_pow ..
  case vfshl => exact congrArg (· / _ % _) (Nat.shiftLeft_eq ..)
  case vfshr => exact congrArg (· % _) (Nat.shiftRight_eq_div_pow ..)
  case conversion =>
    simp only [List.mem_cons, List.not_mem_nil, or_false] at hi
    rcases hi with rfl | rfl | rfl | rfl
    · exact ⟨_, exec_convert_completes hts (exec_vcvt o s)⟩
    · exact ⟨_, exec_convert_completes hts (exec_vcvtw o s)⟩
    · exact ⟨_, exec_convert_completes hts (exec_vcvts o s)⟩
    · exact ⟨_, exec_convert_completes hts (exec_vunpk4 o s)⟩

end Sys2Proof.Machine
end

section
/-!
PROOF of O24: vector slot A (R210-R215).
-/

namespace Sys2Proof.Machine

theorem mul_active_le {t : Timed} (hvl : t.vl ≤ 1024) (w : Nat) : w * t.active w ≤ 32768 :=
  Nat.le_trans (Nat.mul_div_le ..) (by omega)

/-- R206: an element is enabled by an unmasked instruction, or by its bit of its mask. -/
theorem enabled_iff (t : Timed) (o : VOp) (w i : Nat) : t.enabled o w i = true ↔
    o.msk = false ∨ (t.mreg (o.ma + BitVec.ofNat 4 (i % (32 / w)))).getLsbD (i / (32 / w)) = true := by
  rw [Timed.enabled, Bool.or_eq_true, Bool.not_eq_true', Timed.maskBit]

/-- Settles O24: each instruction by its form for its type, most as they stand; an element of a destination by R206 and R207. -/
theorem vectorArithmeticAndReductions : Obligations.VectorArithmeticAndReductions := by
  -- An instruction with one form for every type is stated as it is modelled; the others split on whether the type is floating.
  refine ⟨fun s o => ⟨fun h => ?_, fun h => ?_, rfl, rfl, rfl, rfl, rfl, rfl, rfl, rfl, rfl, rfl, rfl, rfl, rfl, rfl, rfl, rfl⟩,
    fun s o => ⟨fun h => ?_, fun h => ?_, rfl, rfl⟩, fun t o w f i hw hvl hi => ?_⟩
  · have hn := Bool.eq_false_iff.1 h
    exact ⟨if_neg hn, if_neg hn, if_neg hn, exec_elems_gives (if_neg hn) fun n => congrArg (wrapTy o.ty) (min_def ..).symm,
      exec_elems_gives (if_neg hn) fun n => congrArg (wrapTy o.ty) (max_def' ..).symm,
      exec_elems_gives (if_neg hn) fun n => congrArg (wrapTy o.ty) (Int.natCast_natAbs _), if_neg hn⟩
  · exact ⟨if_pos h, if_pos h, if_pos h, if_pos h, if_pos h, if_pos h, if_pos h⟩
  · have hn := Bool.eq_false_iff.1 h
    exact ⟨if_neg hn, if_neg hn, if_neg hn⟩
  · exact ⟨if_pos h, if_pos h, if_pos h⟩
  · have hw0 : 0 < w := by omega
    have hin : w * (i + 1) ≤ 32768 := Nat.mul_comm .. ▸ (Nat.le_div_iff_mul_le hw0).1 hi
    rw [Timed.vecOut, elem_updElems _ _ _ (mul_active_le hvl w) hin]
    exact if_congr (and_congr_right' (enabled_iff ..)) rfl rfl

end Sys2Proof.Machine
end

section
/-!
SUPPORT. The matrix array at issue (R237-R248): the fields of a packed number, the weight chain, what a push captures, and the
candidate of a drain.
-/

namespace Sys2Proof.Machine

/-! ### Fields of a packed number -/

theorem packN_lt (w : Nat) (f : Nat → Nat) (m : Nat) : packN w f m < 2 ^ (w * m) := by
  induction m with
  | zero => simp [packN]
  | succ m ih =>
    have hfield := Nat.mul_le_mul_right (2 ^ (w * m)) (Nat.succ_le_of_lt (Nat.mod_lt (f m) (Nat.two_pow_pos w)))
    rw [packN, Nat.mul_succ, Nat.pow_add, Nat.mul_comm (2 ^ (w * m))]
    rw [Nat.succ_mul] at hfield
    omega

theorem packN_field (w : Nat) (f : Nat → Nat) {m n : Nat} (hn : n < m) : packN w f m >>> (w * n) % 2 ^ w = f n % 2 ^ w := by
  rw [Nat.shiftRight_eq_div_pow]
  induction m with
  | zero => omega
  | succ m ih =>
    rw [packN]
    rcases Nat.lt_succ_iff_lt_or_eq.1 hn with h | rfl
    · obtain ⟨d, rfl⟩ := Nat.exists_eq_add_of_lt h
      have hpow : f (n + d + 1) % 2 ^ w * 2 ^ (w * (n + d + 1)) =
          2 ^ (w * n) * (2 ^ w * (f (n + d + 1) % 2 ^ w * 2 ^ (w * d))) := by ring
      rw [hpow, Nat.add_mul_div_left _ _ (Nat.two_pow_pos _), Nat.add_mul_mod_self_left, ih h]
    · rw [Nat.add_mul_div_right _ _ (Nat.two_pow_pos _), Nat.div_eq_of_lt (packN_lt ..), Nat.zero_add, Nat.mod_mod]

theorem extractLsb'_packN (w : Nat) (f : Nat → Nat) {m n : Nat} (hn : n < m) :
    (BitVec.ofNat (w * m) (packN w f m)).extractLsb' (w * n) w = BitVec.ofNat w (f n) := by
  refine BitVec.eq_of_toNat_eq ?_
  rw [BitVec.extractLsb'_toNat, BitVec.toNat_ofNat, BitVec.toNat_ofNat, Nat.mod_eq_of_lt (packN_lt w f m), packN_field w f hn]

theorem colOf_packN (f : Nat → Nat) {n : Nat} (hn : n < 128) :
    colOf (BitVec.ofNat 4096 (packN 32 f 128)) n = BitVec.ofNat 32 (f n) :=
  extractLsb'_packN 32 f (m := 128) hn

theorem getLsbD_packN_toNat (b : Nat → Bool) {m n : Nat} (hn : n < m) :
    (BitVec.ofNat m (packN 1 (fun k => (b k).toNat) m)).getLsbD n = b n := by
  have hfield := packN_field 1 (fun k => (b k).toNat) hn
  rw [Nat.one_mul, Nat.pow_one, Nat.shiftRight_eq_div_pow] at hfield
  rw [BitVec.getLsbD_ofNat, decide_eq_true hn, Bool.true_and, Nat.testBit_eq_decide_div_mod_eq, hfield]
  cases b n <;> rfl

/-! ### Numeric types (R233) -/

theorem mtFloat_iff (mt : BitVec 2) : mtFloat mt = true ↔ mt = 0 ∨ mt = 3 := by
  simp [mtFloat]

theorem not_mtFloat_iff_not (mt : BitVec 2) : (!mtFloat mt) = true ↔ ¬ (mt = 0 ∨ mt = 3) := by
  rw [← mtFloat_iff, Bool.not_eq_true', Bool.not_eq_true]

theorem not_mtFloat_iff (mt : BitVec 2) : (!mtFloat mt) = true ↔ mt = 1 ∨ mt = 2 := by
  revert mt
  decide

/-! ### The weight chain (R240) -/

theorem ArrayState.shift_shadow (x : ArrayState) (row : BitVec 2048) :
    (x.shift row).shadow = (x.shadow >>> 2048) ||| (row.setWidth 262144 <<< (2048 * 127)) := by
  unfold ArrayState.shift
  split_ifs <;> rfl

/-- Every row of SHADOW moves one place down. -/
theorem ArrayState.shift_row_down (x : ArrayState) (row : BitVec 2048) {i : Nat} (hi : i < 127) :
    (x.shift row).shadow.extractLsb' (2048 * i) 2048 = x.shadow.extractLsb' (2048 * (i + 1)) 2048 := by
  ext j hj
  have hlow : 2048 * i + j < 2048 * 127 := by omega
  simp only [x.shift_shadow, BitVec.getElem_extractLsb', BitVec.getLsbD_or, BitVec.getLsbD_ushiftRight, BitVec.getLsbD_shiftLeft,
    hlow, decide_true, Bool.not_true, Bool.and_false, Bool.false_and, Bool.or_false]
  exact congrArg _ (by omega)

/-- The new row is the last. -/
theorem ArrayState.shift_row_last (x : ArrayState) (row : BitVec 2048) :
    (x.shift row).shadow.extractLsb' (2048 * 127) 2048 = row := by
  ext j hj
  have hin : 2048 * 127 + j < 262144 := by omega
  have hbeyond : x.shadow.getLsbD (2048 + (2048 * 127 + j)) = false := BitVec.getLsbD_of_ge _ _ (by omega)
  simp [x.shift_shadow, hbeyond, hin, hj]

/-! ### What a push captures (R242) -/

theorem colOf_pushOf_sums (x : ArrayState) (a : BitVec 2048) (row : BitVec 12) (ovw : Bool) {n : Nat} (hn : n < 128) :
    (colOf (pushOf x a row ovw).sums n).toNat = (columnSum x.metric x.mt a x.active n).1 % 2 ^ 32 := by
  rw [pushOf, colOf_packN _ hn, BitVec.toNat_ofNat]

theorem getLsbD_pushOf_flin (x : ArrayState) (a : BitVec 2048) (row : BitVec 12) (ovw : Bool) {n : Nat} (hn : n < 128) :
    (pushOf x a row ovw).flin.getLsbD n = (columnSum x.metric x.mt a x.active n).2 :=
  getLsbD_packN_toNat (fun n => (columnSum x.metric x.mt a x.active n).2) hn

/-! ### ORD (R246) -/

theorem ordKey_true (x : BitVec 32) : ordKey true x = x.toInt := rfl

theorem ordKey_injective (int : Bool) : Function.Injective (ordKey int) := by
  intro x y h
  cases int with
  | true => exact BitVec.eq_of_toInt_eq h
  | false =>
    refine BitVec.eq_of_toNat_eq ?_
    simp only [ordKey, Bool.false_eq_true, if_false, BitVec.msb_eq_decide, decide_eq_true_eq] at h
    have hx := x.isLt
    have hy := y.isLt
    split_ifs at h <;> omega

/-- The place of a value in ORD, counted so that the better of two comes first. -/
def apexPlace (argMax int : Bool) (x : BitVec 32) : Int := if argMax then -ordKey int x else ordKey int x

theorem better_iff (argMax int : Bool) (x y : BitVec 32) :
    better argMax int x y = true ↔ apexPlace argMax int x < apexPlace argMax int y := by
  cases argMax <;> simp [better, apexPlace]

theorem apexPlace_le_iff (argMax int : Bool) (x y : BitVec 32) : apexPlace argMax int x ≤ apexPlace argMax int y ↔
    if argMax then ordKey int y ≤ ordKey int x else ordKey int x ≤ ordKey int y := by
  cases argMax <;> simp [apexPlace]

theorem apexPlace_eq_iff (argMax int : Bool) (x y : BitVec 32) :
    apexPlace argMax int x = apexPlace argMax int y ↔ ordKey int x = ordKey int y := by
  cases argMax <;> simp [apexPlace]

/-! ### The candidate of a drain (R246) -/

section
variable (argMax int : Bool) (row : BitVec 4096) (en : BitVec 128) (base : BitVec 16)

/-- Column `n` may be a drain's candidate: it is enabled, has an index, and is no NaN. -/
def drainable (n : Nat) : Prop :=
  en.getLsbD n = true ∧ base.toNat + n ≤ 65534 ∧ ordNan int (colOf row n) = false

/-- Column `n` is the candidate among the columns below `m`: no other is better, and of equal ones it is the lowest. -/
def drainFirst (m n : Nat) : Prop :=
  n < m ∧ drainable int row en base n ∧ ∀ k, k < m → drainable int row en base k →
    apexPlace argMax int (colOf row n) ≤ apexPlace argMax int (colOf row k) ∧
      (apexPlace argMax int (colOf row k) = apexPlace argMax int (colOf row n) → n ≤ k)

variable {argMax int row en base}

theorem drainScan_succ_of_not {m : Nat} (h : ¬ drainable int row en base m) :
    drainScan argMax int row en base (m + 1) = drainScan argMax int row en base m := by
  refine if_pos ?_
  by_contra hc
  refine h ?_
  simpa only [drainable, Bool.or_eq_true, Bool.not_eq_true', decide_eq_true_eq, not_or, Bool.not_eq_false, Bool.not_eq_true,
    Nat.not_lt, and_assoc] using hc

theorem drainScan_succ_of_none {m : Nat} (h : drainable int row en base m) (hscan : drainScan argMax int row en base m = none) :
    drainScan argMax int row en base (m + 1) = some (colOf row m, BitVec.ofNat 16 (base.toNat + m)) := by
  obtain ⟨hen, hidx, hnan⟩ := h
  simp [drainScan, hen, hnan, hscan, Nat.not_lt.2 hidx]

theorem drainScan_succ_of_some {m : Nat} {b : BitVec 32 × BitVec 16} (h : drainable int row en base m)
    (hscan : drainScan argMax int row en base m = some b) : drainScan argMax int row en base (m + 1) =
      if better argMax int (colOf row m) b.1 then some (colOf row m, BitVec.ofNat 16 (base.toNat + m)) else some b := by
  obtain ⟨hen, hidx, hnan⟩ := h
  simp [drainScan, hen, hnan, hscan, Nat.not_lt.2 hidx]

theorem drainFirst_succ {m n : Nat} (h : drainFirst argMax int row en base m n) (hm : drainable int row en base m →
    apexPlace argMax int (colOf row n) ≤ apexPlace argMax int (colOf row m)) : drainFirst argMax int row en base (m + 1) n := by
  obtain ⟨hn, hdn, hfirst⟩ := h
  refine ⟨Nat.lt_succ_of_lt hn, hdn, fun k hk hdk => ?_⟩
  rcases Nat.lt_succ_iff_lt_or_eq.1 hk with hlt | rfl
  · exact hfirst k hlt hdk
  · exact ⟨hm hdk, fun _ => hn.le⟩

theorem drainFirst_last {m : Nat} (hm : drainable int row en base m) (h : ∀ k, k < m → drainable int row en base k →
    apexPlace argMax int (colOf row m) < apexPlace argMax int (colOf row k)) : drainFirst argMax int row en base (m + 1) m := by
  refine ⟨Nat.lt_succ_self m, hm, fun k hk hdk => ?_⟩
  rcases Nat.lt_succ_iff_lt_or_eq.1 hk with hlt | rfl
  · exact ⟨(h k hlt hdk).le, fun heq => absurd heq (h k hlt hdk).ne'⟩
  · exact ⟨le_rfl, fun _ => le_rfl⟩

/-- What the scan of the columns below `m` finds: no column that may be a candidate, or the candidate with its index. -/
theorem drainScan_spec (m : Nat) :
    (drainScan argMax int row en base m = none ∧ ∀ n, n < m → ¬ drainable int row en base n) ∨
    ∃ n, drainFirst argMax int row en base m n ∧
      drainScan argMax int row en base m = some (colOf row n, BitVec.ofNat 16 (base.toNat + n)) := by
  induction m with
  | zero => exact .inl ⟨rfl, fun _ h => absurd h (Nat.not_lt_zero _)⟩
  | succ m ih =>
    by_cases hm : drainable int row en base m
    · rcases ih with ⟨hscan, hnone⟩ | ⟨n, hfirst, hscan⟩
      · rw [drainScan_succ_of_none hm hscan]
        exact .inr ⟨m, drainFirst_last hm fun k hk hdk => absurd hdk (hnone k hk), rfl⟩
      · simp only [drainScan_succ_of_some hm hscan, better_iff]
        split_ifs with hbetter
        · exact .inr ⟨m, drainFirst_last hm fun k hk hdk => hbetter.trans_le (hfirst.2.2 k hk hdk).1, rfl⟩
        · exact .inr ⟨n, drainFirst_succ hfirst fun _ => Int.not_lt.1 hbetter, rfl⟩
    · rw [drainScan_succ_of_not hm]
      rcases ih with ⟨hscan, hnone⟩ | ⟨n, hfirst, hscan⟩
      · exact .inl ⟨hscan, Nat.forall_lt_succ_right.2 ⟨hnone, hm⟩⟩
      · exact .inr ⟨n, drainFirst_succ hfirst fun hdm => absurd hdm hm, hscan⟩

/-- A drain holds the candidate of its row, if the row has one. -/
theorem drainOf_spec (t : Timed) (r : BitVec 12) :
    let place := fun n => drainFirst t.arr.argMax (!mtFloat t.arr.mt) (t.row r) t.arr.cen t.sp.apxb 128 n
    ((drainOf t r).valid = true ↔ ∃ n, n < 128 ∧ drainable (!mtFloat t.arr.mt) (t.row r) t.arr.cen t.sp.apxb n) ∧
    ((drainOf t r).valid = true → ∃ n, place n ∧ (drainOf t r).value = colOf (t.row r) n ∧
      (drainOf t r).index.toNat = t.sp.apxb.toNat + n) := by
  rcases drainScan_spec (argMax := t.arr.argMax) (int := !mtFloat t.arr.mt) (row := t.row r) (en := t.arr.cen)
    (base := t.sp.apxb) 128 with ⟨hscan, hnone⟩ | ⟨n, hfirst, hscan⟩
  · have hvalid : (drainOf t r).valid = false := by rw [drainOf, hscan]; rfl
    simp only [hvalid, Bool.false_eq_true, false_iff, not_exists, not_and, false_implies, and_true]
    exact hnone
  · have hvalid : (drainOf t r).valid = true := by rw [drainOf, hscan]; rfl
    have ⟨hn, hdn, _⟩ := hfirst
    refine ⟨iff_of_true hvalid ⟨n, hn, hdn⟩, fun _ => ⟨n, hfirst, ?_, ?_⟩⟩
    · rw [drainOf, hscan]; rfl
    · have hidx : t.sp.apxb.toNat + n < 2 ^ 16 := Nat.lt_of_le_of_lt hdn.2.1 (by decide)
      rw [drainOf, hscan]
      exact Nat.mod_eq_of_lt hidx

end

/-! ### The accumulator store (R244) -/

theorem getLsbD_ones_shiftLeft (w k m j : Nat) :
    (BitVec.ofNat m ((2 ^ w - 1) <<< k)).getLsbD j = decide (j < m ∧ k ≤ j ∧ j - k < w) := by
  simp [BitVec.getLsbD_ofNat, Nat.testBit_shiftLeft, Nat.testBit_two_pow_sub_one]

/-- What MACCRD leaves in its register: the row in two sub-rows from `sr` on. -/
def maccrdReg (v : VReg) (row : BitVec 4096) (sr : BitVec 4) : VReg :=
  (v &&& ~~~BitVec.ofNat 32768 ((2 ^ 4096 - 1) <<< (2048 * sr.toNat))) ||| (row.setWidth 32768 <<< (2048 * sr.toNat))

theorem getLsbD_maccrdReg (v : VReg) (row : BitVec 4096) (sr : BitVec 4) {j : Nat} (hj : j < 32768) :
    (maccrdReg v row sr).getLsbD j =
      if 2048 * sr.toNat ≤ j ∧ j - 2048 * sr.toNat < 4096 then row.getLsbD (j - 2048 * sr.toNat) else v.getLsbD j := by
  rw [maccrdReg, BitVec.getLsbD_or, BitVec.getLsbD_and, BitVec.getLsbD_not, getLsbD_ones_shiftLeft, BitVec.getLsbD_shiftLeft,
    BitVec.getLsbD_setWidth]
  by_cases hlow : 2048 * sr.toNat ≤ j
  · by_cases hhigh : j - 2048 * sr.toNat < 4096
    · simp [hj, hlow, hhigh, Nat.not_lt.2 hlow, show j - 2048 * sr.toNat < 32768 by omega]
    · simp [hj, hhigh, BitVec.getLsbD_of_ge row _ (Nat.not_lt.1 hhigh)]
  · simp [hj, hlow, Nat.not_le.1 hlow]

theorem elem_maccrdReg (v : VReg) (row : BitVec 4096) (sr : BitVec 4) {n : Nat} (hn : n < 1024) :
    elem (maccrdReg v row sr) 32 n = if 64 * sr.toNat ≤ n ∧ n < 64 * sr.toNat + 128
      then (colOf row (n - 64 * sr.toNat)).toNat else elem v 32 n := by
  refine Nat.eq_of_testBit_eq fun j => ?_
  rw [apply_ite (Nat.testBit · j), testBit_elem, testBit_elem, BitVec.testBit_toNat, colOf, BitVec.getLsbD_extractLsb']
  by_cases hj : j < 32
  · rw [getLsbD_maccrdReg v row sr (by omega)]
    have hin : (2048 * sr.toNat ≤ 32 * n + j ∧ 32 * n + j - 2048 * sr.toNat < 4096) ↔
        (64 * sr.toNat ≤ n ∧ n < 64 * sr.toNat + 128) := by omega
    simp only [hin, hj, decide_true, Bool.true_and]
    refine if_ctx_congr Iff.rfl (fun h => congrArg _ ?_) fun _ => rfl
    omega
  · simp [hj]

end Sys2Proof.Machine
end

section
/-!
PROOF of O30: the instructions of the matrix slot at issue (R237-R248).
-/

namespace Sys2Proof.Machine

/-- ORD of a numeric type, as the rule writes it. -/
theorem ordKey_of_mt (mt : BitVec 2) (x : BitVec 32) : ordKey (!mtFloat mt) x =
    if mt = 0 ∨ mt = 3 then (if x.msb then -((x.toNat % 2 ^ 31 : Nat) : Int) - 1 else (x.toNat : Int)) else x.toInt := by
  by_cases h : mtFloat mt = true
  · rw [if_pos ((mtFloat_iff mt).1 h), h]; rfl
  · rw [if_neg fun hc => h ((mtFloat_iff mt).2 hc), Bool.eq_false_iff.2 h]; rfl

theorem ordNan_of_mt (mt : BitVec 2) (x : BitVec 32) :
    ordNan (!mtFloat mt) x = false ↔ ¬ ((mt = 0 ∨ mt = 3) ∧ (ofF32 x).isNan = true) := by
  rw [ordNan, Bool.not_not, ← mtFloat_iff, ← Bool.and_eq_true, Bool.not_eq_true]

/-- With nothing else in flight, a result of latency 1 lands at the next landing. -/
theorem Timed.landDue_pend {t : Timed} (h : t.inFlight = []) (r : Result) :
    (t.pend 1 r).landDue = (⟨1, t.seq.issuing, r, 0, []⟩ : Pend).land { t with inFlight := [] } :=
  Timed.landDue_lands (t := t.pend 1 r) (by rw [Timed.pend, h]; rfl) le_rfl

/-- A push of either kind puts what it captured in flight. -/
theorem exec_push_captures {s : State} {i : Instr} {ovw : Bool} {v : BitVec 8} {sr : BitVec 4} {row : BitVec 12}
    (hi : exec i s = execPush ovw v sr row s) :
    let t := s.timed
    let sums := fun n => columnSum t.arr.metric t.arr.mt ((t.vreg v).extractLsb' (2048 * sr.toNat) 2048) t.arr.active n
    ∃ p : Push, exec i s = .next (s.setTimed { t with arr := { t.arr with pushes := t.arr.pushes ++ [p] } }) ∧
      p.remain = 136 ∧ p.ovw = ovw ∧ p.row = row ∧ p.en = t.arr.cen ∧
      (p.int = true ↔ t.arr.mt = 1 ∨ t.arr.mt = 2) ∧
      ∀ n, n < 128 → (colOf p.sums n).toNat = (sums n).1 % 2 ^ 32 ∧ p.flin.getLsbD n = (sums n).2 :=
  ⟨pushOf s.timed.arr (subRow (s.timed.vreg v) sr) row ovw, hi, rfl, rfl, rfl, rfl, not_mtFloat_iff _,
    fun _ hn => ⟨colOf_pushOf_sums _ _ row ovw hn, getLsbD_pushOf_flin _ _ row ovw hn⟩⟩

/-- Settles O30: what stands in flight after each instruction, by the fields a push captures and the candidate a drain holds. -/
theorem matrixInstructions : Obligations.MatrixInstructions := by
  intro s d a ma v sr row m y sel dir
  refine ⟨rfl, rfl, rfl, rfl, exec_push_captures rfl, exec_push_captures rfl, ⟨drainOf s.timed row, rfl, ?drain⟩,
    fun h => ?mode, fun h n hn => ?enables, rfl,
    fun _ => ⟨maccrdReg (s.timed.vreg v) (s.timed.row row) sr, rfl, fun n hn => elem_maccrdReg _ _ sr hn⟩,
    rfl, rfl, rfl, rfl, rfl⟩
  case drain =>
    intro fl col rank cand
    have hrank : ∀ n, rank n = ordKey (!mtFloat s.timed.arr.mt) (col n) := fun n => (ordKey_of_mt ..).symm
    have hcand : ∀ n, cand n ↔ n < 128 ∧
        drainable (!mtFloat s.timed.arr.mt) (s.timed.row row) s.timed.arr.cen s.timed.sp.apxb n := fun n =>
      and_congr_right' (and_congr_right' (and_congr_right' (ordNan_of_mt ..).symm))
    obtain ⟨hvalid, hplace⟩ := drainOf_spec s.timed row
    refine ⟨rfl, rfl, not_mtFloat_iff_not .., by simpa only [hcand] using hvalid, fun hv => ?_⟩
    obtain ⟨n, ⟨hn, hdn, hfirst⟩, hvalue, hindex⟩ := hplace hv
    refine ⟨n, (hcand n).2 ⟨hn, hdn⟩, hvalue, hindex, fun k hk => ?_⟩
    obtain ⟨hlt, hdk⟩ := (hcand k).1 hk
    obtain ⟨hle, htie⟩ := hfirst k hlt hdk
    rw [hrank, hrank]
    exact ⟨(apexPlace_le_iff ..).1 hle, fun heq => htie ((apexPlace_eq_iff ..).2 heq)⟩
  case mode =>
    rw [Timed.landDue_pend h]
    rfl
  case enables =>
    rw [Timed.landDue_pend h]
    change ((s.timed.mreg ma).setWidth 128).getLsbD n = _
    rw [BitVec.getLsbD_setWidth, decide_eq_true hn, Bool.true_and]

end Sys2Proof.Machine
end

section
/-!
SUPPORT. The beats of the matrix array (R239, R242, R246): what the landing of a push and the combination of a drain change.
-/

namespace Sys2Proof.Machine

/-! ### A push lands (R242) -/

theorem ofNat_toNat_emod (x : Int) : BitVec.ofNat 32 (x % 2 ^ 32).toNat = BitVec.ofInt 32 x := by
  refine BitVec.eq_of_toNat_eq ?_
  rw [BitVec.toNat_ofInt, BitVec.toNat_ofNat]
  omega

theorem colOf_pushRow (p : Push) (old : BitVec 4096) {n : Nat} (hn : n < 128) : colOf (pushRow p old) n =
    if p.en.getLsbD n = false then colOf old n
    else if p.ovw then colOf p.sums n
    else if p.int then colOf old n + colOf p.sums n
    else toF32 (arrayRound ((flushIn fp32 (ofF32 (colOf old n))).1.add (ofF32 (colOf p.sums n)))).1 := by
  rw [pushRow, colOf_packN _ hn]
  cases p.en.getLsbD n with
  | false => exact BitVec.eq_of_toNat_eq (Nat.mod_eq_of_lt (BitVec.isLt _))
  | true =>
    cases hint : p.int with
    | false => cases hovw : p.ovw <;> simp [accFloat, hovw]
    | true =>
      cases hovw : p.ovw with
      | true => exact BitVec.eq_of_toNat_eq (Nat.mod_eq_of_lt (BitVec.isLt _))
      | false => exact (ofNat_toNat_emod _).trans (by rw [accInt, BitVec.ofInt_add, BitVec.ofInt_toInt, BitVec.ofInt_toInt]; rfl)

theorem pushWraps_iff (p : Push) (old : BitVec 4096) (m : Nat) : pushWraps p old m = true ↔
    ∃ n, n < m ∧ p.en.getLsbD n = true ∧
      ((colOf old n).toInt + (colOf p.sums n).toInt < -2 ^ 31 ∨ 2 ^ 31 - 1 < (colOf old n).toInt + (colOf p.sums n).toInt) := by
  induction m with
  | zero => simp [pushWraps]
  | succ m ih =>
    rw [pushWraps, Bool.or_eq_true, ih, Nat.exists_lt_succ_right, Bool.and_eq_true, Bool.or_eq_true, decide_eq_true_eq,
      decide_eq_true_eq]
    rfl

theorem pushOv_iff (p : Push) (old : BitVec 4096) (ov : Bool) : pushOv p old ov = true ↔
    p.ovw = false ∧ (ov = true ∨ (p.int = true ∧ pushWraps p old 128 = true)) := by
  unfold pushOv
  cases p.ovw <;> cases p.int <;> simp

/-- A push changes its row, the overflow bit of that row, and BSTAT. -/
theorem Push.land_eq (p : Push) (t : Timed) :
    p.land t = { (t.setRow p.row (pushRow p (t.row p.row))).setOv p.row (pushOv p (t.row p.row) (t.rowOv p.row)) with
      sp := { t.sp with bstat := (p.land t).sp.bstat } } := by
  unfold Push.land
  split_ifs
  · rfl
  · exact Timed.applyBst_eq ..

theorem Push.row_land (p : Push) (t : Timed) (r : BitVec 12) :
    (p.land t).row r = if r = p.row then pushRow p (t.row p.row) else t.row r := by
  rw [p.land_eq]
  exact t.row_setRow p.row r _

theorem Push.rowOv_land (p : Push) (t : Timed) {r : BitVec 12} (hr : r.toNat < 1536) :
    (p.land t).rowOv r = if r = p.row then pushOv p (t.row p.row) (t.rowOv p.row) else t.rowOv r := by
  rw [p.land_eq]
  exact (t.setRow p.row _).rowOv_setOv p.row r _ hr

/-! ### The accumulate beat (R227, R239, R244) -/

/-- `u` comes from `t` by changes of the accumulator store, its overflow bits, FPSTAT and BSTAT. -/
def Timed.accumulatesTo (t u : Timed) : Prop :=
  u = { t with regs := { t.regs with acc := u.regs.acc, accov := u.regs.accov }, sp := u.sp }

theorem Timed.accumulatesTo_refl (t : Timed) : t.accumulatesTo t := rfl

theorem Timed.accumulatesTo_trans {t u w : Timed} (h : t.accumulatesTo u) (k : u.accumulatesTo w) : t.accumulatesTo w := by
  unfold Timed.accumulatesTo at h k ⊢
  rw [h] at k
  exact k

theorem Push.accumulatesTo_land (p : Push) (t : Timed) : t.accumulatesTo (p.land t) := by
  unfold Timed.accumulatesTo
  rw [p.land_eq]
  rfl

theorem Pend.accumulatesTo_landClear (p : Pend) (t : Timed) : t.accumulatesTo (p.landClear t) := by
  unfold Pend.landClear
  split <;> try rfl
  split_ifs <;> rfl

theorem landPushes_accumulatesTo (l : List Push) (t : Timed) : t.accumulatesTo (landPushes l t) := by
  induction l generalizing t with
  | nil => exact t.accumulatesTo_refl
  | cons p l ih => exact Timed.accumulatesTo_trans (p.accumulatesTo_land t) (ih _)

theorem landClears_accumulatesTo (l : List Pend) (t : Timed) : t.accumulatesTo (landClears l t) := by
  induction l generalizing t with
  | nil => exact t.accumulatesTo_refl
  | cons p l ih => exact Timed.accumulatesTo_trans (p.accumulatesTo_landClear t) (ih _)

/-- The pushes that are not yet due, one cycle older. -/
def Timed.agedPushes (t : Timed) : List Push :=
  (t.arr.pushes.filter fun p => !decide (p.remain ≤ 1)).map fun p => { p with remain := p.remain - 1 }

/-- The beat ages the pushes that are not due, and else changes only what a push or a clear may. -/
theorem Timed.accumulate_accumulatesTo (t : Timed) :
    ({ t with arr := { t.arr with pushes := t.agedPushes } } : Timed).accumulatesTo t.accumulate := by
  have hclears := landClears_accumulatesTo t.due t
  have harr : (landClears t.due t).arr = t.arr := by rw [hclears]
  refine Timed.accumulatesTo_trans (u := { landClears t.due t with arr := { t.arr with pushes := t.agedPushes } }) ?_ ?_
  · unfold Timed.accumulatesTo at hclears ⊢
    rw [hclears]
  · simp only [Timed.accumulate, harr]
    exact landPushes_accumulatesTo ..

/-! ### The combination of a drain (R246, R247) -/

/-- A drain found a candidate, and it replaces the running state. -/
def Drain.replaces (d : Drain) (t : Timed) : Prop :=
  d.valid = true ∧ (t.sp.apxi = 0xFFFF ∨ ordNan d.int t.sp.apxv = true ∨
    apexPlace d.argMax d.int d.value < apexPlace d.argMax d.int t.sp.apxv ∨
    (d.value = t.sp.apxv ∧ d.index.toNat < t.sp.apxi.toNat))

theorem Drain.land_cond_iff (d : Drain) (t : Timed) :
    (d.valid && (decide (t.sp.apxi = 0xFFFF) || ordNan d.int t.sp.apxv || better d.argMax d.int d.value t.sp.apxv ||
      (decide (ordKey d.int d.value = ordKey d.int t.sp.apxv) && decide (d.index.toNat < t.sp.apxi.toNat)))) = true ↔
    d.replaces t := by
  simp only [Drain.replaces, Bool.and_eq_true, Bool.or_eq_true, decide_eq_true_eq, better_iff, (ordKey_injective d.int).eq_iff,
    or_assoc]

theorem Drain.land_of_replaces {d : Drain} {t : Timed} (h : d.replaces t) :
    d.land t = { t with sp := { t.sp with apxv := d.value, apxi := d.index } } :=
  if_pos ((d.land_cond_iff t).2 h)

theorem Drain.land_of_not_replaces {d : Drain} {t : Timed} (h : ¬ d.replaces t) : d.land t = t :=
  if_neg fun hc => h ((d.land_cond_iff t).1 hc)

/-- A drain changes APXV and APXI alone. -/
theorem Drain.land_frame (d : Drain) (t : Timed) :
    d.land t = { t with sp := { t.sp with apxv := (d.land t).sp.apxv, apxi := (d.land t).sp.apxi } } := by
  by_cases h : d.replaces t
  · rw [Drain.land_of_replaces h]
  · rw [Drain.land_of_not_replaces h]

theorem landDrains_frame (l : List Drain) (t : Timed) :
    landDrains l t = { t with sp := { t.sp with apxv := (landDrains l t).sp.apxv, apxi := (landDrains l t).sp.apxi } } := by
  induction l generalizing t with
  | nil => rfl
  | cons d l ih =>
    have hl := ih (d.land t)
    rw [d.land_frame] at hl
    rw [landDrains, d.land_frame]
    exact hl

/-- What a drain leaves does not depend on the array. -/
theorem Drain.land_arr (d : Drain) (t : Timed) (a : ArrayState) : d.land { t with arr := a } = { d.land t with arr := a } := by
  by_cases h : d.replaces t
  · rw [Drain.land_of_replaces h]
    exact Drain.land_of_replaces (t := { t with arr := a }) h
  · rw [Drain.land_of_not_replaces h]
    exact Drain.land_of_not_replaces (t := { t with arr := a }) h

/-- The drains that are not yet due, one cycle older. -/
def Timed.agedDrains (t : Timed) : List Drain :=
  (t.arr.drains.filter fun p => !decide (p.remain ≤ 1)).map fun p => { p with remain := p.remain - 1 }

/-- The beat ages the drains that are not due, and else changes APXV and APXI alone. -/
theorem Timed.combine_frame (t : Timed) : t.combine =
    { t with
      arr := { t.arr with drains := t.agedDrains }
      sp := { t.sp with apxv := t.combine.sp.apxv, apxi := t.combine.sp.apxi } } :=
  landDrains_frame ..

/-- Alone in flight and due, a drain combines and leaves none in flight. -/
theorem Timed.combine_lands {t : Timed} {d : Drain} (h : t.arr.drains = [d]) (hr : d.remain ≤ 1) :
    t.combine = d.land { t with arr := { t.arr with drains := [] } } := by
  simp [Timed.combine, h, hr, landDrains]

/-- A drain that found a candidate, against a running state that is no NaN and not void. -/
theorem Drain.replaces_iff {d : Drain} {t : Timed} (hv : d.valid = true) (hi : t.sp.apxi ≠ 0xFFFF)
    (hn : ordNan d.int t.sp.apxv = false) : d.replaces t ↔
      (if d.argMax then ordKey d.int t.sp.apxv < ordKey d.int d.value else ordKey d.int d.value < ordKey d.int t.sp.apxv) ∨
      (d.value = t.sp.apxv ∧ d.index.toNat < t.sp.apxi.toNat) := by
  simp only [Drain.replaces, hv, hi, hn, Bool.false_eq_true, false_or, true_and]
  cases d.argMax <;> simp [apexPlace]

theorem Drain.took_of_replaces {d : Drain} {t : Timed} (h : d.replaces t) :
    (d.land t).sp.apxv = d.value ∧ (d.land t).sp.apxi = d.index := by
  rw [Drain.land_of_replaces h]
  exact ⟨rfl, rfl⟩

theorem Timed.setApex_apxv (t : Timed) (sel : BitVec 2) (v : BitVec 32) :
    (t.setApex sel v).sp.apxv = if sel = 0 then v else t.sp.apxv := by
  unfold Timed.setApex
  split_ifs <;> rfl

theorem Timed.setApex_apxi (t : Timed) (sel : BitVec 2) (v : BitVec 32) :
    (t.setApex sel v).sp.apxi = if sel = 1 then v.setWidth 16 else t.sp.apxi := by
  by_cases h : sel = 1
  · subst h; rfl
  · rw [Timed.setApex, if_neg h, if_neg h]
    split_ifs <;> rfl

/-- The Apex register that a landing result names takes its value, and the other stays. -/
theorem Pend.land_apex {p : Pend} {sel : BitVec 2} {v : BitVec 32} (h : p.res = .apex sel v) (t : Timed) :
    (p.land t).sp.apxv = (if sel = 0 then v else t.sp.apxv) ∧
    (p.land t).sp.apxi = (if sel = 1 then v.setWidth 16 else t.sp.apxi) := by
  rw [p.land_eq, Pend.landValue, h]
  exact ⟨t.setApex_apxv sel v, t.setApex_apxi sel v⟩

/-- A drain and an APXWR of one cycle: the register that the APXWR names is what it writes, the other that of the drain. -/
theorem Timed.landDue_combine_apex {t : Timed} {d : Drain} {p : Pend} {sel : BitVec 2} {v : BitVec 32} (hd : t.arr.drains = [d])
    (hdue : d.remain ≤ 1) (hf : t.inFlight = [p]) (hp : p.remain ≤ 1) (hres : p.res = .apex sel v) :
    t.combine.landDue.sp.apxv = (if sel = 0 then v else (d.land t).sp.apxv) ∧
    t.combine.landDue.sp.apxi = (if sel = 1 then v.setWidth 16 else (d.land t).sp.apxi) := by
  have hcomb := Timed.combine_lands hd hdue
  rw [d.land_arr] at hcomb
  have hfly : t.combine.inFlight = [p] := by rw [hcomb, d.land_frame, hf]
  have hland := Pend.land_apex hres { t.combine with inFlight := [] }
  rw [Timed.landDue_lands hfly hp, hland.1, hland.2, hcomb]
  exact ⟨rfl, rfl⟩

end Sys2Proof.Machine
end

section
/-!
PROOF of O31: the weight chain, the beats of the matrix array and what they leave (R131, R163, R239-R247).
-/

namespace Sys2Proof.Machine

/-- The 128th shift copies SHADOW to ACTIVE; any other counts (R240). -/
theorem ArrayState.shift_active (x : ArrayState) (row : BitVec 2048) : x.shift row =
    { x with
      shadow := (x.shift row).shadow
      active := if x.wcnt = 127 then (x.shift row).shadow else x.active
      wcnt := if x.wcnt = 127 then 0 else x.wcnt + 1 } := by
  rw [x.shift_shadow, ArrayState.shift]
  split_ifs <;> rfl

theorem execAccumulateLanding_marks (s : State) :
    ∃ l, exec .accumulateLanding s = .next ((s.setCore { s.core with marks := l }).setTimed s.timed.accumulate) ∧
      ∀ m, m ∈ l ↔ m ∈ s.core.marks ∧ ∀ p, p ∈ s.timed.arr.pushes → p.remain ≤ 1 → p.covers m = false :=
  ⟨_, rfl, fun m => by
    rw [List.mem_filter, Bool.not_eq_true', List.any_eq_false]
    simp only [Bool.and_eq_true, decide_eq_true_eq, not_and, Bool.not_eq_true]
    rfl⟩

/-- Settles O31: the chain by its rows, a push by its columns, each beat by its frame, a drain by whether it replaces APXV and
APXI. -/
theorem matrixEffects : Obligations.MatrixEffects := by
  refine ⟨fun x row => ⟨fun i hi => x.shift_row_down row hi, x.shift_row_last row, ?shift⟩, fun p t hrow => ?push,
    fun s => ⟨?accumulate, ⟨s.timed.combine, rfl, ?combine⟩, rfl⟩, fun x t => ?drain⟩
  case shift =>
    rw [x.shift_active]
    exact ⟨fun h => ⟨if_pos h, if_pos h⟩, fun h => ⟨if_neg h, if_neg h⟩, rfl, rfl, rfl, rfl, rfl, rfl⟩
  case push =>
    refine ⟨fun n hn => ?_, ?_, fun r hr => ⟨?_, fun hr' => ?_⟩, ?_⟩
    · rw [p.row_land, if_pos rfl]
      exact colOf_pushRow p _ hn
    · rw [p.rowOv_land t hrow, if_pos rfl, pushOv_iff, pushWraps_iff]
    · rw [p.row_land, if_neg hr]
    · rw [p.rowOv_land t hr', if_neg hr]
    · rw [p.land_eq]
      exact ⟨fun _ => rfl, fun _ => rfl, fun _ => rfl, rfl, rfl, rfl⟩
  case accumulate =>
    obtain ⟨l, hl, hmarks⟩ := execAccumulateLanding_marks s
    refine ⟨_, l, hl, hmarks, ?_⟩
    rw [s.timed.accumulate_accumulatesTo]
    exact ⟨rfl, rfl, rfl, rfl, rfl, rfl, rfl, rfl⟩
  case combine =>
    rw [s.timed.combine_frame]
    exact ⟨rfl, rfl, rfl, rfl, rfl, rfl⟩
  case drain =>
    intro u took
    have htook : x.replaces t → took := Drain.took_of_replaces
    have hkept : ¬ x.replaces t → u = t := Drain.land_of_not_replaces
    have hint : x.int = true → ordNan x.int t.sp.apxv = false := fun hx => by rw [hx]; rfl
    refine ⟨fun hv => hkept fun h => Bool.false_ne_true (hv.symm.trans h.1), fun hv hi => htook ⟨hv, .inl hi⟩,
      fun hv hx hi hbetter => htook ((Drain.replaces_iff hv hi (hint hx)).2 (.inl ?_)),
      fun hv hx hval hidx => htook ⟨hv, .inr (.inr (.inr ⟨hval, hidx⟩))⟩, fun hx hi hworse => hkept fun h => ?_,
      fun hv hx hnan => htook ⟨hv, .inr (.inl ?_)⟩, fun hv hx hnan hi => ?_, fun hv hx hi hval hidx => hkept fun h => ?_,
      fun sel v p hd hr hf hp hres => ?_, ?_⟩
    · rw [hx]
      exact hbetter
    · have hrep := (Drain.replaces_iff h.1 hi (hint hx)).1 h
      simp only [hx, ordKey_true] at hrep
      rcases hrep with hbetter | ⟨hval, -⟩
      · split_ifs at hworse hbetter <;> omega
      · simp [hval] at hworse
    · rw [hx]
      exact hnan
    · have hrep := Drain.replaces_iff hv hi (by rw [hx]; exact hnan)
      rw [hx] at hrep
      by_cases h : x.replaces t
      · exact (if_pos (hrep.1 h)).mpr (htook h)
      · exact (if_neg fun hc => h (hrep.2 hc)).mpr (hkept h)
    · rcases (Drain.replaces_iff hv hi (hint hx)).1 h with hbetter | ⟨-, hlt⟩
      · simp [hval] at hbetter
      · omega
    · exact Timed.landDue_combine_apex hd hr.le hf hp.le hres
    · rw [show u = _ from x.land_frame t]
      exact ⟨rfl, rfl, rfl, rfl⟩

end Sys2Proof.Machine
end

section
/-!
PROOF of O52: what TRY_PASS, ARRIVE and the registration of a member make of a phaser. At most two phases pass at once, for the second
passage uses up AHEAD and leaves ARR empty.
-/

namespace Sys2Proof.Machine

/-! ### The members that signal (R262) -/

theorem Phaser.getLsbD_signalling (p : Phaser) {i : Nat} (h : i < 64) :
    p.signalling.getLsbD i = (p.reg.getLsbD i && decide (p.mode i ≠ 1)) := by
  have hmode : ∀ lo hi : Bool, decide (lo.toNat + 2 * hi.toNat ≠ 1) = !(lo && !hi) := by decide
  rw [Phaser.mode, hmode]
  simp [Phaser.signalling, h]

/-! ### TRY_PASS (R262) -/

/-- The open phase passes: some member signals, and every one that does has arrived. -/
def Phaser.passes (p : Phaser) : Prop := p.signalling ≠ 0 ∧ p.signalling &&& ~~~p.arr = 0

/-- The phaser one passage on. -/
def Phaser.passed (p : Phaser) : Phaser :=
  { p with phase := p.phase + 1, reg := (p.reg &&& ~~~p.leave) ||| p.join, arr := p.ahead &&& ((p.reg &&& ~~~p.leave) ||| p.join),
           ahead := 0, join := 0, leave := 0 }

theorem tryPass_of_passes {p : Phaser} (h : p.passes) (n : Nat) (l : List (BitVec 32)) :
    tryPass (n + 1) p l = tryPass n p.passed (l ++ [p.phase]) := if_pos h

theorem tryPass_of_not_passes {p : Phaser} (h : ¬ p.passes) (n : Nat) (l : List (BitVec 32)) : tryPass (n + 1) p l = (p, l) :=
  if_neg h

/-- With nobody arrived no phase passes. -/
theorem Phaser.not_passes_of_arr_eq_zero {p : Phaser} (h : p.arr = 0) : ¬ p.passes := by
  rintro ⟨hsig, hall⟩
  rw [h, show ~~~(0 : BitVec 64) = BitVec.allOnes 64 from rfl, BitVec.and_allOnes] at hall
  exact hsig hall

/-- The second passage has used up AHEAD. -/
theorem Phaser.arr_passed_passed (p : Phaser) : p.passed.passed.arr = 0 := by simp [Phaser.passed]

/-- No, one or two phases pass, and then no more. -/
theorem tryPass_cases (p : Phaser) :
    (¬ p.passes ∧ tryPass 3 p [] = (p, [])) ∨
    (¬ p.passed.passes ∧ tryPass 3 p [] = (p.passed, [p.phase])) ∨
    (¬ p.passed.passed.passes ∧ tryPass 3 p [] = (p.passed.passed, [p.phase, p.phase + 1])) := by
  by_cases h : p.passes
  · rw [tryPass_of_passes h]
    by_cases h1 : p.passed.passes
    · have h2 := Phaser.not_passes_of_arr_eq_zero p.arr_passed_passed
      exact .inr (.inr ⟨h2, by rw [tryPass_of_passes h1, tryPass_of_not_passes h2]; rfl⟩)
    · exact .inr (.inl ⟨h1, by rw [tryPass_of_not_passes h1]; rfl⟩)
  · exact .inl ⟨h, tryPass_of_not_passes h ..⟩

/-- `x` and the phases `l` come of `p` by the passages that were due: none is left, the phases are consecutive from the open one, at
most two, and while none passes nothing has changed. -/
def Phaser.comesTo (p x : Phaser) (l : List (BitVec 32)) : Prop :=
  ¬ x.passes ∧ l.length ≤ 2 ∧ (∀ i, i < l.length → l[i]? = some (p.phase + BitVec.ofNat 32 i)) ∧
    x.phase = p.phase + BitVec.ofNat 32 l.length ∧
    (x.modeLo = p.modeLo ∧ x.modeHi = p.modeHi ∧ x.scope = p.scope ∧ x.deliv = p.deliv ∧ x.broken = p.broken) ∧
    (l = [] → x.reg = p.reg ∧ x.join = p.join ∧ x.leave = p.leave)

theorem tryPass_comesTo (p : Phaser) : p.comesTo (tryPass 3 p []).1 (tryPass 3 p []).2 := by
  rcases tryPass_cases p with ⟨hx, h⟩ | ⟨hx, h⟩ | ⟨hx, h⟩ <;> rw [h]
  · exact ⟨hx, by simp, by simp, by simp, ⟨rfl, rfl, rfl, rfl, rfl⟩, fun _ => ⟨rfl, rfl, rfl⟩⟩
  · refine ⟨hx, by simp, fun i hi => ?_, rfl, ⟨rfl, rfl, rfl, rfl, rfl⟩, fun hl => nomatch hl⟩
    obtain rfl : i = 0 := by simpa using hi
    simp
  · refine ⟨hx, by simp, fun i hi => ?_, ?_, ⟨rfl, rfl, rfl, rfl, rfl⟩, fun hl => nomatch hl⟩
    · obtain rfl | rfl : i = 0 ∨ i = 1 := by simp at hi; omega
      · simp
      · rfl
    · exact BitVec.add_assoc p.phase 1 1

/-- Where no phase is left to pass no member signals, or one that does has not arrived. -/
theorem Phaser.settled_of_not_passes {p : Phaser} (h : ¬ p.passes) :
    p.signalling = 0 ∨ ∃ i, i < 64 ∧ p.signalling.getLsbD i = true ∧ p.arr.getLsbD i = false := by
  by_contra hc
  push Not at hc
  refine h ⟨hc.1, BitVec.eq_of_getLsbD_eq fun i hi => ?_⟩
  have := hc.2 i hi
  cases hs : p.signalling.getLsbD i
  · simp [hs]
  · simp [hs, Bool.eq_true_of_not_eq_false (this hs)]

/-! ### ARRIVE (R262) -/

/-- The member's arrival counted in the open phase, or in the next where it has arrived in this one. -/
def Phaser.counting (p : Phaser) (m : Nat) : Phaser :=
  if p.arr.getLsbD m then { p with ahead := p.ahead ||| BitVec.twoPow 64 m } else { p with arr := p.arr ||| BitVec.twoPow 64 m }

theorem arrive_eq_none_iff (p : Phaser) (m : Nat) : arrive p m = none ↔
    p.reg.getLsbD m = false ∨ p.mode m = 1 ∨ (p.arr.getLsbD m = true ∧ p.ahead.getLsbD m = true) := by
  unfold arrive
  by_cases h1 : p.reg.getLsbD m = false ∨ p.mode m = 1
  · have : (!p.reg.getLsbD m || p.mode m == 1) = true := by simpa using h1
    simp only [this, if_true, true_iff]
    tauto
  · have : (!p.reg.getLsbD m || p.mode m == 1) = false := by simpa using h1
    rw [← or_assoc]
    simp only [this, h1, false_or]
    cases p.arr.getLsbD m <;> cases p.ahead.getLsbD m <;> simp

/-- An arrival that is one counts, and then passes what phases are due. -/
theorem arrive_spec {p p1 : Phaser} {m : Nat} {ps : List (BitVec 32)} {ph : BitVec 32} (h : arrive p m = some (p1, ps, ph)) :
    p1 = (tryPass 3 (p.counting m) []).1 ∧ ps = (tryPass 3 (p.counting m) []).2 ∧
      ph = if p.arr.getLsbD m then p.phase + 1 else p.phase := by
  unfold arrive at h
  unfold Phaser.counting
  split at h
  · cases h
  · cases ha : p.arr.getLsbD m with
    | false =>
      rw [ha] at h
      cases h
      exact ⟨rfl, rfl, rfl⟩
    | true =>
      rw [ha] at h
      cases hb : p.ahead.getLsbD m with
      | false =>
        rw [hb] at h
        cases h
        exact ⟨rfl, rfl, rfl⟩
      | true => rw [hb] at h; cases h

theorem Phaser.counting_frame (p : Phaser) (m : Nat) :
    p.counting m = { p with arr := (p.counting m).arr, ahead := (p.counting m).ahead } := by
  unfold Phaser.counting
  split <;> rfl

theorem arrive_comesTo {p p1 : Phaser} {m : Nat} {ps : List (BitVec 32)} {ph : BitVec 32} (h : arrive p m = some (p1, ps, ph)) :
    p.comesTo p1 ps := by
  obtain ⟨rfl, rfl, -⟩ := arrive_spec h
  have hc := tryPass_comesTo (p.counting m)
  generalize tryPass 3 (p.counting m) [] = x at hc
  rw [p.counting_frame m] at hc
  exact hc

/-! ### The registration of a member (R268) -/

theorem Phaser.freeMember_eq_some {p : Phaser} {j : Nat} (h : p.freeMember = some j) :
    j < 64 ∧ p.reg.getLsbD j = false ∧ p.join.getLsbD j = false ∧
      ∀ i, i < j → p.reg.getLsbD i = true ∨ p.join.getLsbD i = true := by
  obtain ⟨hfree, hj, hleast⟩ := List.find?_range_eq_some.1 h
  simp only [Bool.and_eq_true, Bool.not_eq_true'] at hfree
  refine ⟨List.mem_range.1 hj, hfree.1, hfree.2, fun i hi => ?_⟩
  have := hleast i hi
  cases hr : p.reg.getLsbD i <;> cases hk : p.join.getLsbD i <;> simp_all

theorem Phaser.freeMember_eq_none_iff (p : Phaser) :
    p.freeMember = none ↔ ∀ i, i < 64 → p.reg.getLsbD i = true ∨ p.join.getLsbD i = true := by
  rw [Phaser.freeMember, List.find?_range_eq_none]
  refine forall₂_congr fun i _ => ?_
  cases p.reg.getLsbD i <;> cases p.join.getLsbD i <;> simp

/-- The phaser with a new member `j`: taking part at once while no member signals, else from the next passage on. -/
def Phaser.enrolled (p : Phaser) (mode j : Nat) : Phaser :=
  { p with
    modeLo := putBit p.modeLo j (mode % 2 == 1)
    modeHi := putBit p.modeHi j (decide (2 ≤ mode))
    reg := if p.signalling = 0 then p.reg ||| BitVec.twoPow 64 j else p.reg
    join := if p.signalling = 0 then p.join else p.join ||| BitVec.twoPow 64 j }

theorem register_eq_some {p p1 : Phaser} {mode j : Nat} (h : register p mode = some (p1, j)) :
    p.freeMember = some j ∧ p1 = p.enrolled mode j := by
  unfold register at h
  unfold Phaser.enrolled
  split at h
  · cases h
  · split at h
    · cases h
    · next k hk =>
      cases h
      exact ⟨hk, by split <;> rfl⟩

theorem register_eq_none_iff (p : Phaser) (mode : Nat) : register p mode = none ↔
    (mode = 3 ∧ p.deliv = false) ∨ ∀ i, i < 64 → p.reg.getLsbD i = true ∨ p.join.getLsbD i = true := by
  rw [← p.freeMember_eq_none_iff]
  unfold register
  by_cases h : mode = 3 ∧ p.deliv = false
  · simp [h]
  · rw [if_neg (by simpa using h), or_iff_right h]
    cases p.freeMember <;> simp

theorem Phaser.mode_enrolled (p : Phaser) (mode j : Nat) {i : Nat} (hi : i < 64) (hm : mode < 4) :
    (p.enrolled mode j).mode i = if i = j then mode else p.mode i := by
  simp only [Phaser.mode, Phaser.enrolled, getLsbD_putBit _ _ _ _ hi]
  by_cases hij : i = j
  · simp only [hij, if_true]
    revert mode
    decide
  · simp only [hij, if_false]

theorem getLsbD_or_twoPow (x : BitVec 64) (j : Nat) {i : Nat} (hi : i < 64) :
    (x ||| BitVec.twoPow 64 j).getLsbD i = (x.getLsbD i || decide (i = j)) := by
  rw [BitVec.getLsbD_or, BitVec.getLsbD_twoPow]
  by_cases h : j = i
  · subst h; simp [hi]
  · simp [h, Ne.symm h]

theorem Phaser.getLsbD_enrolled (p : Phaser) (mode j : Nat) {i : Nat} (hi : i < 64) :
    (p.enrolled mode j).reg.getLsbD i = (p.reg.getLsbD i || decide (i = j ∧ p.signalling = 0)) ∧
      (p.enrolled mode j).join.getLsbD i = (p.join.getLsbD i || decide (i = j ∧ p.signalling ≠ 0)) := by
  by_cases h : p.signalling = 0#64 <;> simp [Phaser.enrolled, h, getLsbD_or_twoPow _ _ hi]

/-- Settles O52: arrivals by the passages that they bring about, a registration by the lowest free number. -/
theorem phaserPassage : Obligations.PhaserPassage := by
  intro p m mode hm hmode
  refine ⟨fun i hi => p.getLsbD_signalling hi, fun p1 ps ph h => ?arrival, arrive_eq_none_iff p m, fun p1 j h => ?registration,
    register_eq_none_iff p mode⟩
  case arrival =>
    obtain ⟨hsettled, hlen, hps, hphase, ⟨hlo, hhi, hscope, hdeliv, hbroken⟩, hkept⟩ := arrive_comesTo h
    exact ⟨Phaser.settled_of_not_passes hsettled, (arrive_spec h).2.2, hlen, hps, hphase, hlo, hhi, hscope, hdeliv, hbroken, hkept⟩
  case registration =>
    obtain ⟨hfree, rfl⟩ := register_eq_some h
    obtain ⟨hj, hreg, hjoin, hleast⟩ := Phaser.freeMember_eq_some hfree
    obtain ⟨hregj, hjoinj⟩ := p.getLsbD_enrolled mode j hj
    refine ⟨hj, hreg, hjoin, hleast, (p.mode_enrolled mode j hj hmode).trans (if_pos rfl), fun i hi hij => ?_, ?_, ?_⟩
    · obtain ⟨hri, hki⟩ := p.getLsbD_enrolled mode j hi
      refine ⟨?_, ?_, (p.mode_enrolled mode j hi hmode).trans (if_neg hij)⟩
      · rw [hri]; simp [hij]
      · rw [hki]; simp [hij]
    · rw [hregj, hreg]; simp
    · rw [hjoinj, hjoin]; simp

end Sys2Proof.Machine
end

section
/-!
PROOF of O37: the Vertex commands at issue, by the checks of R267 and the one entry that a command which passes them makes.
-/

namespace Sys2Proof.Machine

variable {s : State} {o : CfOp}

/-! ### The checks of R267 -/

theorem handleBad_phaser (h : Word) : handleBad true false h = false ↔ h.toNat < 2 ^ 39 ∧ h.toNat % 16 = 0 := by
  rw [handleBad, bits_eq_div_mod, Bool.or_eq_false_iff, Bool.or_eq_false_iff]
  simp only [Bool.true_and, Bool.not_true, Bool.false_and, decide_eq_false_iff_not, not_not, and_true, Nat.pow_zero, Nat.div_one]
  omega

theorem handleBad_word (wide : Bool) (h : Word) :
    handleBad false wide h = false ↔ h.toNat < 2 ^ 39 ∧ (wide = true → h.getLsbD 3 = false) := by
  rw [handleBad, Bool.or_eq_false_iff, Bool.or_eq_false_iff, hHalf, bit, ← BitVec.getLsbD]
  simp only [Bool.false_and, Bool.not_false, Bool.true_and, decide_eq_false_iff_not, not_not, and_true, Bool.and_eq_false_imp]
  rw [Nat.div_eq_zero_iff, or_iff_right (by norm_num)]

/-- A window is declared and holds `n` bytes at L, a multiple of 16. -/
def Timed.holdsAt (t : Timed) (o : CfOp) (n : Nat) : Prop :=
  ∃ x, t.win (cfW o) = some x ∧ (t.sreg o.sb).toNat % 16 = 0 ∧ (t.sreg o.sb).toNat + n ≤ x.size

theorem windowFits_iff (t : Timed) (o : CfOp) (n : Nat) :
    windowFits t (cfW o) (t.sreg o.sb).toNat n = true ↔ t.holdsAt o n := by
  unfold windowFits Timed.holdsAt
  cases t.win (cfW o) with
  | none => simp
  | some x => simp

section
variable {t : Timed} {phaser wide : Bool} {n : Nat}

theorem vxTrap_none (hh : handleBad phaser wide (t.sreg o.sa) = false) (hw : t.holdsAt o n) : vxTrap t o phaser wide n = none := by
  rw [vxTrap, hh, (windowFits_iff t o n).2 hw]
  rfl

theorem vxTrap_handle (hh : ¬ handleBad phaser wide (t.sreg o.sa) = false) :
    vxTrap t o phaser wide n = some ⟨0x41, t.sreg o.sa⟩ := by
  rw [vxTrap, Bool.eq_true_of_not_eq_false hh]
  rfl

theorem vxTrap_window (hh : handleBad phaser wide (t.sreg o.sa) = false) (hw : ¬ t.holdsAt o n) :
    vxTrap t o phaser wide n = some ⟨0x40, (cfW o).setWidth 64⟩ := by
  rw [vxTrap, hh, Bool.eq_false_iff.2 (mt (windowFits_iff t o n).1 hw)]
  rfl

theorem phTrap_none (hh : handleBad true false (t.sreg o.sa) = false) : phTrap t o = none := by
  rw [phTrap, hh]
  rfl

theorem phTrap_handle (hh : ¬ handleBad true false (t.sreg o.sa) = false) : phTrap t o = some ⟨0x41, t.sreg o.sa⟩ := by
  rw [phTrap, Bool.eq_true_of_not_eq_false hh]
  rfl

end

/-! ### The arm slot of PHARM (R272) -/

/-- A slot for window `w`: the one armed for it, or a free one. -/
def Untimed.hasSlot (u : Untimed) (w : BitVec 5) : Prop :=
  ∃ k : Fin 4, u.arms.get k = none ∨ ∃ y, u.arms.get k = some y ∧ y.w = w

theorem Untimed.armed_iff (u : Untimed) (w : BitVec 5) :
    u.armed w = true ↔ ∃ k : Fin 4, ∃ y, u.arms.get k = some y ∧ y.w = w := by
  rw [Untimed.armed, any_toList_iff]
  refine exists_congr fun k => ?_
  cases u.arms.get k <;> simp

theorem Untimed.armFree_iff (u : Untimed) : u.armFree = true ↔ ∃ k : Fin 4, u.arms.get k = none := by
  rw [Untimed.armFree, any_toList_iff]
  exact exists_congr fun k => Option.isNone_iff_eq_none

theorem Untimed.hasSlot_iff (u : Untimed) (w : BitVec 5) : (u.armed w || u.armFree) = true ↔ u.hasSlot w := by
  rw [Bool.or_eq_true, u.armed_iff, u.armFree_iff, ← exists_or]
  exact exists_congr fun k => or_comm

/-- A slot for the window is found, and the arm is bound there. -/
theorem Untimed.bindArm_binds {u : Untimed} {a : Arm} (h : u.hasSlot a.w) :
    ∃ k : Fin 4, u.bindArm a = { u with arms := u.arms.set k.val (some a) k.isLt } := by
  have hslot : ∃ k, u.armSlot a.w = some k := by
    unfold Untimed.armSlot
    split
    · exact ⟨_, rfl⟩
    · next hnone =>
      obtain ⟨k, hk⟩ := h
      refine Option.isSome_iff_exists.1 (List.find?_isSome.2 ⟨k, List.mem_finRange k, ?_⟩)
      rcases hk with hk | ⟨y, hy, hw⟩
      · rw [hk]; rfl
      · exact absurd (List.find?_eq_none.1 hnone k (List.mem_finRange k)) (by simp [hy, hw])
  obtain ⟨k, hk⟩ := hslot
  exact ⟨k, by rw [Untimed.bindArm, hk]⟩

section
variable {t : Timed} {u : Untimed} {x : Window}

theorem pharmTrap_none (hh : handleBad true false (t.sreg o.sa) = false) (hx : t.win (cfW o) = some x)
    (hsize : pharmN (t.sreg o.sb) ≤ x.size) (hslot : u.hasSlot (cfW o)) : pharmTrap t u o = none := by
  simp [pharmTrap, hh, hx, (u.hasSlot_iff _).2 hslot, hsize]

theorem pharmTrap_handle (hh : ¬ handleBad true false (t.sreg o.sa) = false) : pharmTrap t u o = some ⟨0x41, t.sreg o.sa⟩ := by
  rw [pharmTrap, Bool.eq_true_of_not_eq_false hh]
  rfl

theorem pharmTrap_window (hh : handleBad true false (t.sreg o.sa) = false) (hx : t.win (cfW o) = none) :
    pharmTrap t u o = some ⟨0x40, (cfW o).setWidth 64⟩ := by
  rw [pharmTrap, hh, hx]
  rfl

theorem pharmTrap_slot (hh : handleBad true false (t.sreg o.sa) = false) (hx : t.win (cfW o) = some x)
    (h : x.size < pharmN (t.sreg o.sb) ∨ ¬ u.hasSlot (cfW o)) : pharmTrap t u o = some ⟨0x42, (cfW o).setWidth 64⟩ := by
  have hbad : ((u.armed (cfW o) || u.armFree) && decide (pharmN (t.sreg o.sb) ≤ x.size)) = false := by
    rw [Bool.and_eq_false_iff, decide_eq_false_iff_not, Nat.not_le, ← Bool.not_eq_true, u.hasSlot_iff]
    exact h.symm
  rw [pharmTrap, hh, hx]
  simp only [hbad, Bool.false_eq_true, if_false]
  rfl

end

/-! ### Entry into the Vertex queue (R23, R265) -/

theorem State.claimed_claim (s : State) (f : BitVec 5) : s.timed.claimed (s.core.claim f).timed (some f) := by
  rw [Core.claim_timed]
  exact Timed.claimed_claimFlag _ f

theorem State.entersQueue_claim (s : State) (f : BitVec 5) {c : Cmd} (hseq : c.seq = s.un.nseq) :
    s.entersQueue ((s.setCore (s.core.claim f)).setUn (s.un.push c false)) (some f) { c with batch := none } false := by
  refine ⟨State.onlyCoreOf_trans (s.onlyCoreOf_setCore _) (State.onlyCoreOf_setCore _ _), ?_, State.un_setUn .., hseq, rfl, ?_⟩
  · rw [State.timed_setUn, State.timed_setCore]
    exact s.claimed_claim f
  · rw [State.core_setUn, State.core_setCore]
    exact ⟨Core.claim_task .., Core.claim_image .., Core.claim_fails .., Core.claim_marks ..⟩

/-- `i` has entered the Vertex queue, claiming its flag, with what `p` says of the command. -/
def State.entersVertex (s : State) (o : CfOp) (i : Instr) (p : Cmd → Prop) : Prop :=
  ∃ (u : State) (c : Cmd), exec i s = .next u ∧ s.entersQueue u (some o.f) c false ∧ c.ins = i ∧ c.eng = .vertex ∧ p c

/-- A command that no check stops enters, with the handle and the operands of its issue. -/
theorem State.entersVertex_of_issueFlagged (hroom : s.un.count .vertex < 16) {i : Instr} {tr : Option Trap} {cls : BitVec 4}
    {a b : Word} {w w2 : Option Window} {img : BitVec 1024} {p : Cmd → Prop}
    (hi : exec i s = issueFlagged tr o.f (newCmd s.timed s.un .vertex i cls a b w w2 img) s) (htrap : tr = none)
    (hp : p { newCmd s.timed s.un .vertex i cls a b w w2 img with batch := none }) : s.entersVertex o i p :=
  ⟨_, _, hi.trans ((issueFlagged_spec ..).2 (.inr (.inr ⟨htrap, decide_eq_true hroom, rfl⟩))), s.entersQueue_claim o.f rfl,
    rfl, rfl, hp⟩

theorem issueFlagged_traps {i : Instr} {tr : Option Trap} {f : BitVec 5} {c : Cmd} {k : Trap}
    (hi : exec i s = issueFlagged tr f c s) (htrap : tr = some k) : exec i s = .next (s.takeTrap 7 k) :=
  hi.trans ((issueFlagged_spec ..).2 (.inl ⟨k, htrap, rfl⟩))

theorem execPharm_traps {k : Trap} (htrap : pharmTrap s.timed s.un o = some k) : exec (.pharm o) s = .next (s.takeTrap 7 k) := by
  change execPharm o s = _
  rw [execPharm, htrap]

/-- The arm of a PHARM at issue. -/
def State.newArm (s : State) (o : CfOp) : Arm :=
  { seq := s.un.nseq, flag := o.f, handle := s.timed.sreg o.sa, member := (s.timed.sreg o.sb).setWidth 6, w := cfW o,
    n := pharmN (s.timed.sreg o.sb), c := 0, ok := false, nacks := 0, backoff := false }

theorem execPharm_enters (hroom : s.un.count .vertex < 16) (htrap : pharmTrap s.timed s.un o = none) :
    exec (.pharm o) s = .next (((s.setCore (s.core.claim o.f)).setUn (s.un.push (phCmd (.pharm o) o s) false)).setUn
      ((s.un.push (phCmd (.pharm o) o s) false).bindArm (s.newArm o))) := by
  have hun : (s.setCore (s.core.claim o.f)).un = s.un := by rw [State.un_setCore, Core.claim_un]; rfl
  have hr : s.un.room .vertex = true := decide_eq_true hroom
  change execPharm o s = _
  simp only [execPharm, htrap, hr, if_true]
  rw [State.enqueue_room _ _ _ (by rw [hun]; exact hr), hun, State.un_setUn]
  rfl

/-- PHARM enters the queue and binds a slot for its window. -/
theorem execPharm_arms (hroom : s.un.count .vertex < 16) (htrap : pharmTrap s.timed s.un o = none) (hslot : s.un.hasSlot (cfW o)) :
    ∃ (u : State) (k : Fin 4) (y : Arm), exec (.pharm o) s = .next u ∧ u.un.arms = s.un.arms.set k.val (some y) k.isLt ∧
      y.flag = o.f ∧ y.handle = s.timed.sreg o.sa ∧ y.w = cfW o ∧ y.n = pharmN (s.timed.sreg o.sb) ∧ y.c = 0 ∧
      u.un.queue.length = s.un.queue.length + 1 ∧ s.onlyCoreOf u ∧ s.timed.claimed u.timed (some o.f) := by
  have hexec := execPharm_enters hroom htrap
  obtain ⟨k, hk⟩ := Untimed.bindArm_binds (u := s.un.push (phCmd (.pharm o) o s) false) (a := s.newArm o) hslot
  rw [hk] at hexec
  refine ⟨_, k, s.newArm o, hexec, by rw [State.un_setUn]; rfl, rfl, rfl, rfl, rfl, rfl, ?_, ?_, ?_⟩
  · rw [State.un_setUn]
    exact List.length_append
  · exact State.onlyCoreOf_trans (s.onlyCoreOf_setCore _)
      (State.onlyCoreOf_trans (State.onlyCoreOf_setCore _ _) (State.onlyCoreOf_setCore _ _))
  · rw [State.timed_setUn, State.timed_setUn, State.timed_setCore]
    exact s.claimed_claim o.f

/-- The commands on sync words whose width is their EXT field's. -/
def syncCommands (o : CfOp) : List Instr :=
  [.swld o, .swst o, .aadd o, .amin o, .amax o, .aand o, .aor o, .axor o, .axchg o, .acas o]

theorem exec_syncCommands (s : State) (o : CfOp) : ∀ i ∈ syncCommands o,
    exec i s = issueFlagged (vxTrap s.timed o false (vxWide o) 16) o.f (vxCmd i o s) s := by
  simp only [syncCommands, List.forall_mem_cons]
  exact ⟨rfl, rfl, rfl, rfl, rfl, rfl, rfl, rfl, rfl, rfl, fun _ h => nomatch h⟩

/-- What a sync-word command takes with it. -/
theorem vxCmd_captures (i : Instr) (s : State) (o : CfOp) :
    let c := { vxCmd i o s with batch := none }
    c.a = s.timed.sreg o.sa ∧ c.cls = o.cls ∧
      ∀ x, s.timed.win (cfW o) = some x → c.img = BitVec.ofNat 1024 (s.timed.winRead x (s.timed.sreg o.sb).toNat 16) := by
  refine ⟨rfl, rfl, fun x hx => ?_⟩
  simp only [vxCmd, hx]
  rfl

/-- Settles O37: a command whose checks pass by its one entry, any other by the check of R267 that fails first. -/
theorem vertexCommandsAtIssue : Obligations.VertexCommandsAtIssue := by
  refine ⟨fun s o hroom => ?enters, fun s o => ?traps⟩
  case enters =>
    refine ⟨fun hp hw => ?_, fun hp => ?_, fun hp hw => ?_, fun hx hw i hi => ?_, fun hx hw => ?_, fun x hp hx hsize hslot => ?_⟩
    · exact State.entersVertex_of_issueFlagged hroom rfl (vxTrap_none ((handleBad_phaser _).2 hp) hw) ⟨rfl, rfl, rfl⟩
    · have htrap := phTrap_none ((handleBad_phaser (s.timed.sreg o.sa)).2 hp)
      exact ⟨State.entersVertex_of_issueFlagged hroom rfl htrap ⟨rfl, rfl, rfl⟩,
        State.entersVertex_of_issueFlagged hroom rfl htrap ⟨rfl, rfl, rfl⟩,
        State.entersVertex_of_issueFlagged hroom rfl htrap ⟨rfl, rfl, rfl⟩⟩
    · exact State.entersVertex_of_issueFlagged hroom rfl (vxTrap_none ((handleBad_phaser _).2 hp) hw) ⟨rfl, rfl, rfl⟩
    · exact State.entersVertex_of_issueFlagged hroom (exec_syncCommands s o i hi) (vxTrap_none ((handleBad_word _ _).2 hx) hw)
        (vxCmd_captures i s o)
    · exact State.entersVertex_of_issueFlagged hroom rfl
        (vxTrap_none ((handleBad_word _ _).2 ⟨hx, fun h => nomatch h⟩) hw) (vxCmd_captures (.afaddF32 o) s o)
    · exact execPharm_arms hroom (pharmTrap_none ((handleBad_phaser _).2 hp) hx hsize hslot) hslot
  case traps =>
    refine ⟨fun hp => ?_, fun hx i hi => ?_, fun hx => ?_, fun hp => ⟨fun hw => ?_, fun hw => ?_⟩, fun hx hw i hi => ?_,
      fun hx hw => ?_, fun hp hx => ?_, fun x hp hx h => ?_⟩
    · have hh := mt (handleBad_phaser (s.timed.sreg o.sa)).1 hp
      simp only [List.forall_mem_cons]
      exact ⟨issueFlagged_traps rfl (vxTrap_handle hh), issueFlagged_traps rfl (phTrap_handle hh),
        issueFlagged_traps rfl (phTrap_handle hh), issueFlagged_traps rfl (phTrap_handle hh), execPharm_traps (pharmTrap_handle hh),
        issueFlagged_traps rfl (vxTrap_handle hh), fun _ h => nomatch h⟩
    · exact issueFlagged_traps (exec_syncCommands s o i hi) (vxTrap_handle (mt (handleBad_word _ _).1 hx))
    · exact issueFlagged_traps rfl (vxTrap_handle (mt (handleBad_word _ _).1 fun h => hx h.1))
    · exact issueFlagged_traps rfl (vxTrap_window ((handleBad_phaser _).2 hp) hw)
    · exact issueFlagged_traps rfl (vxTrap_window ((handleBad_phaser _).2 hp) hw)
    · exact issueFlagged_traps (exec_syncCommands s o i hi) (vxTrap_window ((handleBad_word _ _).2 hx) hw)
    · exact issueFlagged_traps rfl (vxTrap_window ((handleBad_word _ _).2 ⟨hx, fun h => nomatch h⟩) hw)
    · exact execPharm_traps (pharmTrap_window ((handleBad_phaser _).2 hp) hx)
    · refine execPharm_traps (pharmTrap_slot ((handleBad_phaser _).2 hp) hx (h.imp_right fun hall => ?_))
      rintro ⟨k, hk | ⟨y, hy, hw⟩⟩
      · obtain ⟨y, hy, -⟩ := hall k
        exact nomatch hk.symm.trans hy
      · obtain ⟨z, hz, hne⟩ := hall k
        exact hne (Option.some_inj.1 (hz.symm.trans hy) ▸ hw)

end Sys2Proof.Machine
end

section
/-!
SUPPORT. Accesses to homes do not see the cores (R333): the same step from other cores gives the same answer and differs in the cores
alone.
-/

namespace Sys2Proof.Machine

/-- The same state of everything but the cores. -/
def State.withCores (s : State) (cs : Vector Core 96) : State := { s with cores := cs }

theorem State.byCores_withCores {s t : State} (h : s.byCores t) : t = s.withCores t.cores := h

variable (s : State) (cs : Vector Core 96)

@[simp] theorem State.withCores_cores : (s.withCores cs).cores = cs := rfl
@[simp] theorem State.withCores_vertex : (s.withCores cs).vertex = s.vertex := rfl

/-! ### Bytes where they stand -/

theorem State.place_withCores (key : Nat) : (s.withCores cs).place key = s.place key := State.place_congr s (s.withCores cs) rfl rfl rfl key

theorem State.bytesAt_withCores (key n : Nat) : (s.withCores cs).bytesAt key n = s.bytesAt key n := by
  induction n generalizing key with
  | zero => rfl
  | succ n ih =>
    rw [State.bytesAt, State.bytesAt, ih, s.place_withCores cs]
    rfl

theorem State.poisonAt_withCores (key n : Nat) : (s.withCores cs).poisonAt key n = s.poisonAt key n := by
  induction n generalizing key with
  | zero => rfl
  | succ n ih =>
    rw [State.poisonAt, State.poisonAt, ih, s.place_withCores cs]
    rfl

theorem State.granuleIn_withCores (key n : Nat) : (s.withCores cs).granuleIn key n = s.granuleIn key n := by
  simp only [State.granuleIn, s.poisonAt_withCores cs, s.place_withCores cs]

theorem State.writeBytes_withCores (key n mask v : Nat) :
    (s.withCores cs).writeBytes key n mask v = (s.writeBytes key n mask v).withCores cs := by
  induction n generalizing s key mask v with
  | zero => rfl
  | succ n ih =>
    rw [State.writeBytes, State.writeBytes, s.place_withCores cs]
    split
    · exact ih { s with mem := s.mem.setByte (s.place key) (BitVec.ofNat 8 v) } ..
    · exact ih ..

theorem State.covers_withCores (key n mask g : Nat) : (s.withCores cs).covers key n mask g = s.covers key n mask g := by
  simp only [State.covers, s.place_withCores cs]

theorem State.storeAt_withCores (key n mask v : Nat) :
    (s.withCores cs).storeAt key n mask v = (s.storeAt key n mask v).withCores cs := by
  simp only [State.storeAt, s.place_withCores cs, s.covers_withCores cs]
  exact State.writeBytes_withCores { s with poison := s.poison.filter fun g => !(s.covers key n mask g) } cs ..

/-! ### Bins applied (R328) -/

theorem State.health_withCores (k u c a d : Nat) : (s.withCores cs).health k u c a d = (s.health k u c a d).withCores cs := by
  have hcounter : (s.withCores cs).cycleCounter = s.cycleCounter := rfl
  have hctl : (s.withCores cs).ctl = s.ctl := rfl
  have hmem : (s.withCores cs).mem = s.mem := rfl
  simp only [State.health, hcounter, hctl, hmem]
  generalize Memory.write s.mem _ _ _ = m
  split <;> rfl

theorem State.onUnit_withCores (u : Nat) (f : LatticeUnit → LatticeUnit) :
    (s.withCores cs).onUnit u f = (s.onUnit u f).withCores cs := by
  unfold State.onUnit
  split <;> rfl

theorem State.readTarget_withCores (u : Nat) (g : LRegion) (k : Nat) : (s.withCores cs).readTarget u g k = s.readTarget u g k := by
  have hrow : (s.withCores cs).keyRow u g k = s.keyRow u g k := rfl
  simp only [State.readTarget, hrow, s.bytesAt_withCores cs]

theorem State.writeTarget_withCores (u : Nat) (g : LRegion) (k : Nat) (t : Target) :
    (s.withCores cs).writeTarget u g k t = (s.writeTarget u g k t).withCores cs := by
  have hrow : (s.withCores cs).keyRow u g k = s.keyRow u g k := rfl
  simp only [State.writeTarget, hrow, State.storeAt_withCores]
  split <;> rfl

theorem State.targetPoisoned_withCores (u r : Nat) (g : LRegion) (k : Nat) :
    (s.withCores cs).targetPoisoned u r g k = s.targetPoisoned u r g k := by
  have hrow : (s.withCores cs).keyRow u g k = s.keyRow u g k := rfl
  simp only [State.targetPoisoned, hrow, s.poisonAt_withCores cs]
  rfl

theorem State.targetGranule_withCores (u : Nat) (g : LRegion) (k : Nat) :
    (s.withCores cs).targetGranule u g k = s.targetGranule u g k := by
  have hrow : (s.withCores cs).keyRow u g k = s.keyRow u g k := rfl
  simp only [State.targetGranule, hrow, s.granuleIn_withCores cs, s.place_withCores cs]

/-- `f` takes a state to one with an answer, and the cores pass through it. -/
def coreBlind (f : State → State × Bool) : Prop :=
  ∀ (s : State) (cs : Vector Core 96), f (s.withCores cs) = ((f s).1.withCores cs, (f s).2)

theorem applyWhere_coreBlind (u r k : Nat) (p : LRegion → Bin → Bool) : coreBlind fun s => s.applyWhere u r k p := by
  intro s cs
  have hunit : (s.withCores cs).unitOf u = s.unitOf u := rfl
  simp only [State.applyWhere, hunit, s.targetPoisoned_withCores cs, s.targetGranule_withCores cs, s.readTarget_withCores cs,
    State.onUnit_withCores, State.health_withCores, State.writeTarget_withCores]
  split
  · rfl
  · split
    · rfl
    · split <;> rfl

theorem applyKeys_coreBlind (u r : Nat) (l : List Nat) : coreBlind fun s => s.applyKeys u r l := by
  induction l with
  | nil => exact fun _ _ => rfl
  | cons k l ih =>
    intro s cs
    have hkey := applyWhere_coreBlind u r k (fun _ _ => true) s cs
    simp only [State.applyKeys, State.applyKey, hkey, ih _ cs]

theorem State.keysIn_withCores (u : Nat) (g : LRegion) (x : Nat) : (s.withCores cs).keysIn u g x = s.keysIn u g x := rfl

theorem applyIn_coreBlind (u x : Nat) (l : List (Nat × LRegion)) : coreBlind fun s => s.applyIn u x l := by
  induction l with
  | nil => exact fun _ _ => rfl
  | cons g l ih =>
    intro s cs
    have hkeys := applyKeys_coreBlind u g.1 (s.keysIn u g.2 x) s cs
    simp only [State.applyIn, s.keysIn_withCores cs, hkeys, ih _ cs]

theorem applyUnits_coreBlind (x : Nat) (l : List Nat) : coreBlind fun s => s.applyUnits x l := by
  induction l with
  | nil => exact fun _ _ => rfl
  | cons u l ih =>
    intro s cs
    have hunit : (s.withCores cs).unitOf u = s.unitOf u := rfl
    have hin := applyIn_coreBlind u x (s.unitOf u).regions s cs
    simp only [State.applyUnits, hunit, hin, ih _ cs]

theorem touchAll_coreBlind (us l : List Nat) : coreBlind fun s => s.touchAll us l := by
  induction l with
  | nil => exact fun _ _ => rfl
  | cons x l ih =>
    intro s cs
    have hunits := applyUnits_coreBlind x us s cs
    simp only [State.touchAll, hunits, ih _ cs]

theorem touch_coreBlind (key n : Nat) : coreBlind fun s => s.touch key n := by
  intro s cs
  have hsectors : (s.withCores cs).sectorsOf key n = s.sectorsOf key n := by
    simp only [State.sectorsOf, s.place_withCores cs]
  have hunits : (s.withCores cs).instancesAt key = s.instancesAt key := rfl
  simp only [State.touch, hsectors, hunits]
  exact touchAll_coreBlind _ _ s cs

/-- A read at a home from other cores. -/
theorem State.homeRead_withCores (key n : Nat) :
    (s.withCores cs).homeRead key n = ((s.homeRead key n).1.withCores cs, (s.homeRead key n).2) := by
  simp only [State.homeRead, touch_coreBlind key n s cs, State.bytesAt_withCores, State.poisonAt_withCores]

end Sys2Proof.Machine
end

section
/-!
SUPPORT. The Vertex of a die under its updates (R254-R257), and what a flag reported to its task leaves as it was (R23, R280).
-/

namespace Sys2Proof.Machine

/-! ### The unit of a die -/

section
variable {s t : State} {d : Nat}

theorem State.onVx_eq_set (s : State) (hd : d < 8) (f : VertexUnit → VertexUnit) :
    s.onVx d f = { s with vertex := s.vertex.set d (f (s.vxOf d)) hd } := by simp [State.onVx, State.vxOf, hd]

@[simp] theorem State.vxOf_onVx (s : State) (hd : d < 8) (f : VertexUnit → VertexUnit) : (s.onVx d f).vxOf d = f (s.vxOf d) := by
  rw [s.onVx_eq_set hd]
  simp [State.vxOf, hd, Vector.get_eq_getElem]

theorem State.vxOf_onVx_other (s : State) (d : Nat) (f : VertexUnit → VertexUnit) {e : Nat} (he : e < 8) (hne : e ≠ d) :
    (s.onVx d f).vxOf e = s.vxOf e := by
  unfold State.onVx
  split
  · simp only [State.vxOf, he, dif_pos, Vector.get_eq_getElem]
    exact Vector.getElem_set_ne _ _ fun h => hne h.symm
  · rfl

theorem State.onVx_frame (s : State) (d : Nat) (f : VertexUnit → VertexUnit) :
    s.onVx d f = { s with vertex := (s.onVx d f).vertex } := by
  unfold State.onVx
  split <;> rfl

theorem State.vxOf_congr (h : t.vertex = s.vertex) (d : Nat) : t.vxOf d = s.vxOf d := by simp [State.vxOf, h]

theorem State.byHome_vertex (h : s.byHome t) : t.vertex = s.vertex := by rw [h.1]
theorem State.byTraffic_vertex (h : s.byTraffic t) : t.vertex = s.vertex := by rw [h]
theorem State.byCores_vertex (h : s.byCores t) : t.vertex = s.vertex := by rw [h]

/-- A change of the unit that keeps `g` of it keeps `g` of every die's unit. -/
theorem State.vxOf_onVx_keeps {β : Type} (s : State) (d : Nat) {f : VertexUnit → VertexUnit} {g : VertexUnit → β}
    (h : ∀ u, g (f u) = g u) {e : Nat} (he : e < 8) : g ((s.onVx d f).vxOf e) = g (s.vxOf e) := by
  by_cases hne : e = d
  · subst hne
    rw [s.vxOf_onVx he, h]
  · rw [s.vxOf_onVx_other d f he hne]

end

@[simp] theorem VertexUnit.obj_setObj (u : VertexUnit) (n : Nat) (x : VObject) (m : Nat) :
    (u.setObj n x).obj m = if m = n then x else u.obj m := Store.get_set ..

theorem VertexUnit.obj_congr {u v : VertexUnit} (h : u.objs = v.objs) (n : Nat) : u.obj n = v.obj n :=
  congrArg (fun l : Store VObject => Store.get VObject.reset l n) h

/-! ### An object's record read and written (R254) -/

theorem State.readObj_byHome (s : State) (d n : Nat) : s.byHome (s.readObj d n).1 := by
  have hx := s.homeRead_byHome ((s.vxOf d).ovfAt n) 64
  simp only [State.readObj]
  generalize s.homeRead ((s.vxOf d).ovfAt n) 64 = x at hx
  split
  · exact hx
  · exact s.byHome_refl

/-- A record read from other cores. -/
theorem State.readObj_withCores (s : State) (cs : Vector Core 96) (d n : Nat) :
    (s.withCores cs).readObj d n = ((s.readObj d n).1.withCores cs, (s.readObj d n).2) := by
  have hvx : (s.withCores cs).vxOf d = s.vxOf d := rfl
  simp only [State.readObj, hvx, s.homeRead_withCores cs]
  generalize s.homeRead ((s.vxOf d).ovfAt n) 64 = x
  split <;> rfl

section
variable {s : State} {d n : Nat}

theorem State.readObj_phaser {p : Phaser} (h : (s.readObj d n).2 = some (.phaser p)) :
    ∃ p0, ((s.vxOf d).obj n).kind = .phaser p0 := by
  unfold State.readObj at h
  simp only [] at h
  cases hk : ((s.vxOf d).obj n).kind with
  | phaser p0 => exact ⟨p0, rfl⟩
  | free =>
    rw [hk] at h
    split at h
    · simp [ObjKind.withRec] at h
    · simp at h
  | sync w =>
    rw [hk] at h
    split at h
    · simp [ObjKind.withRec] at h
    · simp at h

/-- A record written is the object's from then on; its generation and every other object stay. -/
theorem State.vxOf_writeObj (s : State) (hd : d < 8) (n : Nat) (k : ObjKind) : (s.writeObj d n k).vxOf d =
    { (s.vxOf d).setObj n { (s.vxOf d).obj n with kind := k } with bad := (s.vxOf d).bad.filter fun x => x != n } := by
  unfold State.writeObj
  simp only []
  split
  · rw [State.vxOf_congr (State.byHome_vertex (State.homeWrite_byHome ..)), s.vxOf_onVx hd]
  · exact s.vxOf_onVx hd _

theorem State.obj_writeObj (s : State) (hd : d < 8) (n : Nat) (k : ObjKind) (m : Nat) :
    ((s.writeObj d n k).vxOf d).obj m = if m = n then { (s.vxOf d).obj n with kind := k } else (s.vxOf d).obj m := by
  rw [s.vxOf_writeObj hd]
  exact VertexUnit.obj_setObj ..

theorem State.writeObj_cores (s : State) (d n : Nat) (k : ObjKind) : (s.writeObj d n k).cores = s.cores := by
  unfold State.writeObj
  simp only []
  split
  · exact (State.byHome_cores (State.homeWrite_byHome ..)).trans (State.onVx_cores ..)
  · exact State.onVx_cores ..

theorem State.writeObj_rdc (s : State) (d n : Nat) (k : ObjKind) : (s.writeObj d n k).rdc = s.rdc := by
  unfold State.writeObj
  simp only []
  split
  · exact (State.byHome_rdc (State.homeWrite_byHome ..)).trans (State.onVx_rdc ..)
  · exact State.onVx_rdc ..

end

/-! ### A flag reported (R23, R280) -/

/-- The cores of `t` hold what those of `s` do but for flags and failures kept: no queue and no arm slot has changed. -/
def State.keepsQueues (s t : State) : Prop := ∀ n, n < 96 → ∃ x, t.unAt n = { s.unAt n with flagless := x }

/-- The flags in ERROR are the same. -/
def State.keepsErrors (s t : State) : Prop :=
  ∀ n, n < 96 → ∀ f, (t.timedAt n).flag f = .error ↔ (s.timedAt n).flag f = .error

theorem State.keepsQueues_refl (s : State) : s.keepsQueues s := fun _ _ => ⟨_, rfl⟩

theorem State.keepsErrors_refl (s : State) : s.keepsErrors s := fun _ _ _ => Iff.rfl

theorem State.keepsQueues_trans {s t u : State} (h : s.keepsQueues t) (k : t.keepsQueues u) : s.keepsQueues u := fun n hn => by
  obtain ⟨x, hx⟩ := h n hn
  obtain ⟨y, hy⟩ := k n hn
  exact ⟨y, by rw [hy, hx]⟩

theorem State.keepsErrors_trans {s t u : State} (h : s.keepsErrors t) (k : t.keepsErrors u) : s.keepsErrors u :=
  fun n hn f => (k n hn f).trans (h n hn f)

theorem State.keepsQueues_of_cores {s t : State} (h : t.cores = s.cores) : s.keepsQueues t := fun _ hn =>
  ⟨_, State.unAt_congr h hn⟩

theorem State.keepsErrors_of_cores {s t : State} (h : t.cores = s.cores) : s.keepsErrors t := fun _ hn f => by
  rw [State.timedAt_congr h hn]

theorem State.keepsQueues_onCore (s : State) (m : Nat) {f : Core → Core} (hf : ∀ c, ∃ x, (f c).un = { c.un with flagless := x }) :
    s.keepsQueues (s.onCore m f) := fun n hn => by
  by_cases h : n = m
  · subst h
    rw [State.unAt, s.coreAt_onCore n f hn]
    exact hf _
  · exact ⟨_, congrArg Core.un (s.coreAt_setCoreAt_other m n _ h hn)⟩

theorem State.keepsErrors_onCore (s : State) (m : Nat) {f : Core → Core}
    (hf : ∀ c g, (f c).timed.flag g = .error ↔ c.timed.flag g = .error) : s.keepsErrors (s.onCore m f) := fun n hn g => by
  by_cases h : n = m
  · subst h
    rw [State.timedAt, s.coreAt_onCore n f hn]
    exact hf _ g
  · exact iff_of_eq (congrArg (fun c : Core => c.timed.flag g = .error) (s.coreAt_setCoreAt_other m n _ h hn))

theorem State.cmd?_keepsQueues {s t : State} (h : s.keepsQueues t) {n : Nat} (hn : n < 96) (q : Nat) : t.cmd? n q = s.cmd? n q := by
  obtain ⟨x, hx⟩ := h n hn
  rw [State.cmd?, hx]
  rfl

theorem State.arms_keepsQueues {s t : State} (h : s.keepsQueues t) {n : Nat} (hn : n < 96) : (t.unAt n).arms = (s.unAt n).arms := by
  obtain ⟨x, hx⟩ := h n hn
  rw [hx]

theorem Core.un_report (c : Core) (x : Note) : ∃ l, (c.report x).un = { c.un with flagless := l } := by
  unfold Core.report
  simp only []
  split
  · split
    · exact ⟨_, rfl⟩
    · split <;> exact ⟨_, rfl⟩
  · split <;> split <;> exact ⟨_, rfl⟩

theorem Core.timed_report_done (c : Core) {x : Note} (hx : x.ok = true) : (c.report x).timed = c.timed.doneFlag x.flag := by
  unfold Core.report
  rw [if_pos hx]
  simp only []
  split
  · rfl
  · split <;> rfl

theorem Timed.doneFlag_error (t : Timed) (f g : BitVec 5) : (t.doneFlag f).flag g = .error ↔ t.flag g = .error := by
  unfold Timed.doneFlag
  split
  · rfl
  · next h =>
    rw [Timed.flag_setFlag]
    by_cases hg : g = f
    · subst hg
      simp [h]
    · rw [if_neg hg]

section
variable (s : State) (w : TaskRef) (x : Note)

theorem State.noteEvicted_vertex : (s.noteEvicted w x).vertex = s.vertex := by
  unfold State.noteEvicted
  split
  · rfl
  · split
    · rfl
    · exact (State.putRegion_vertex ..).trans (State.byHome_vertex (s.noteInSlot_byHome ..))

theorem State.noteEvicted_rdc : (s.noteEvicted w x).rdc = s.rdc := by
  unfold State.noteEvicted
  split
  · rfl
  · split
    · rfl
    · exact (State.putRegion_rdc ..).trans (State.byHome_rdc (s.noteInSlot_byHome ..))

/-- What a report comes to: a change of the core of its task, or a note in a save slot. -/
theorem State.report_cases : s.report w x = s.noteEvicted w x ∨ s.report w x = s ∨
    ∃ n f, s.report w x = s.onCore n f ∧ (f = (fun c => c.report x) ∨ ∃ k, f = fun c => { c with task := k }) := by
  unfold State.report
  split
  · next n _ =>
    split
    · exact .inr (.inl rfl)
    · split
      · exact .inr (.inr ⟨n, _, rfl, .inr ⟨_, rfl⟩⟩)
      · exact .inr (.inr ⟨n, _, rfl, .inl rfl⟩)
  · exact .inl rfl

/-- A flag reported changes no Vertex and no RDC. -/
theorem State.report_vertex : (s.report w x).vertex = s.vertex := by
  obtain h | h | ⟨n, f, h, -⟩ := s.report_cases w x <;> rw [h]
  · exact s.noteEvicted_vertex w x
  · exact State.onCore_vertex ..

theorem State.report_rdc : (s.report w x).rdc = s.rdc := by
  obtain h | h | ⟨n, f, h, -⟩ := s.report_cases w x <;> rw [h]
  · exact s.noteEvicted_rdc w x
  · exact State.onCore_rdc ..

theorem State.report_keepsQueues : s.keepsQueues (s.report w x) := by
  obtain h | h | ⟨n, f, h, rfl | ⟨k, rfl⟩⟩ := s.report_cases w x <;> rw [h]
  · exact State.keepsQueues_of_cores (s.noteEvicted_cores w x)
  · exact s.keepsQueues_refl
  · exact s.keepsQueues_onCore n fun c => c.un_report x
  · exact s.keepsQueues_onCore n fun c => ⟨_, rfl⟩

theorem State.report_keepsErrors (hx : x.ok = true) : s.keepsErrors (s.report w x) := by
  obtain h | h | ⟨n, f, h, rfl | ⟨k, rfl⟩⟩ := s.report_cases w x <;> rw [h]
  · exact State.keepsErrors_of_cores (s.noteEvicted_cores w x)
  · exact s.keepsErrors_refl
  · refine s.keepsErrors_onCore n fun c g => ?_
    rw [c.timed_report_done hx]
    exact c.timed.doneFlag_error ..
  · exact s.keepsErrors_onCore n fun c g => Iff.rfl

end

/-! ### Wait requests answered (R263, R278) -/

/-- What holds before and passes from state to state by every report of a kind holds after the requests are answered. -/
theorem State.answer_induction {P : State → Prop} (ok : Bool) (hP : ∀ s w (x : Note), x.ok = ok → P s → P (s.report w x))
    (l : List WaitReq) (s : State) (h : P s) : P (s.answer ok l) := by
  induction l generalizing s with
  | nil => exact h
  | cons w l ih =>
    refine ih _ ?_
    unfold State.reportTo
    split
    · exact h
    · exact hP _ _ _ rfl h

variable (s : State) (ok : Bool) (l : List WaitReq)

theorem State.answer_vertex : (s.answer ok l).vertex = s.vertex :=
  State.answer_induction (P := fun t => t.vertex = s.vertex) ok (fun t w x _ h => (t.report_vertex w x).trans h) l s rfl

theorem State.answer_rdc : (s.answer ok l).rdc = s.rdc :=
  State.answer_induction (P := fun t => t.rdc = s.rdc) ok (fun t w x _ h => (t.report_rdc w x).trans h) l s rfl

theorem State.answer_keepsQueues : s.keepsQueues (s.answer ok l) :=
  State.answer_induction (P := s.keepsQueues) ok (fun t w x _ h => State.keepsQueues_trans h (t.report_keepsQueues w x)) l s
    s.keepsQueues_refl

theorem State.answer_keepsErrors : s.keepsErrors (s.answer true l) :=
  State.answer_induction (P := s.keepsErrors) true (fun t w x hx h => State.keepsErrors_trans h (t.report_keepsErrors w x hx)) l s
    s.keepsErrors_refl

end Sys2Proof.Machine
end

section
/-!
PROOF of O50: the host commands of a Vertex by the check that ends them or by what they make of the object, and its two registers.
-/

namespace Sys2Proof.Machine

variable {s : State} {die obj : Nat}

/-! ### The end of a host command (R258) -/

theorem State.vxOf_vxRes (s : State) (hd : die < 8) (obj : Nat) (r : BitVec 4) :
    (s.vxRes die obj r).vxOf die = { s.vxOf die with res := r, genOut := ((s.vxOf die).obj obj).gen } := s.vxOf_onVx hd _

theorem State.obj_vxRes (s : State) (hd : die < 8) (obj : Nat) (r : BitVec 4) (m : Nat) :
    ((s.vxRes die obj r).vxOf die).obj m = (s.vxOf die).obj m := by
  rw [s.vxOf_vxRes hd]
  rfl

@[simp] theorem State.vxRes_cores (s : State) (die obj : Nat) (r : BitVec 4) : (s.vxRes die obj r).cores = s.cores :=
  State.onVx_cores ..

/-- RES and GENOUT as the end of a host command leaves them. -/
def State.hostDone (t : State) (die obj : Nat) (r : BitVec 4) : Prop :=
  (t.vxOf die).res = r ∧ (t.vxOf die).genOut = ((t.vxOf die).obj obj).gen

theorem State.hostDone_vxRes (s : State) (hd : die < 8) (obj : Nat) (r : BitVec 4) : (s.vxRes die obj r).hostDone die obj r := by
  unfold State.hostDone
  rw [s.obj_vxRes hd, s.vxOf_vxRes hd]
  exact ⟨rfl, rfl⟩

/-- `i` does nothing but answer `r`. -/
def State.hostAnswers (s : State) (die obj : Nat) (i : Instr) (r : BitVec 4) : Prop :=
  ∃ t, exec i s = .next t ∧ t = { s with vertex := t.vertex } ∧
    t.vxOf die = { s.vxOf die with res := r, genOut := ((s.vxOf die).obj obj).gen }

theorem State.hostAnswers_of (hd : die < 8) {i : Instr} {r : BitVec 4} (h : exec i s = .next (s.vxRes die obj r)) :
    s.hostAnswers die obj i r := ⟨_, h, s.onVx_frame die _, s.vxOf_vxRes hd obj r⟩

/-! ### The checks that INIT_SYNC, INIT_PHASER and READ share (R258) -/

section
variable {allowed : ObjKind → Bool} {f : State → State}

theorem State.vxHost_beyond (h : (s.vxOf die).objCount ≤ obj) : s.vxHost die obj allowed f = .next (s.vxRes die obj 2) := if_pos h

theorem State.vxHost_kind (h : obj < (s.vxOf die).objCount) (hk : allowed ((s.vxOf die).obj obj).kind = false) :
    s.vxHost die obj allowed f = .next (s.vxRes die obj 3) := by
  simp [State.vxHost, Nat.not_le.2 h, hk]

theorem State.vxHost_address (h : obj < (s.vxOf die).objCount) (hk : allowed ((s.vxOf die).obj obj).kind = true)
    (ha : s.imageOk (s.vxOf die).cmdAddr 64 = false) : s.vxHost die obj allowed f = .next (s.vxRes die obj 4) := by
  simp [State.vxHost, Nat.not_le.2 h, hk, ha]

theorem State.vxHost_acts (h : obj < (s.vxOf die).objCount) (hk : allowed ((s.vxOf die).obj obj).kind = true)
    (ha : s.imageOk (s.vxOf die).cmdAddr 64 = true) : s.vxHost die obj allowed f = .next (f s) := by
  simp [State.vxHost, Nat.not_le.2 h, hk, ha]

end

theorem ObjKind.isFree_eq_false {k : ObjKind} (h : k ≠ .free) : k.isFree = false := by
  cases k with
  | free => exact absurd rfl h
  | sync w => rfl
  | phaser p => rfl

/-! ### An object made (R254, R258) -/

theorem State.createObj_cores (s : State) (die obj : Nat) (k : ObjKind) : (s.createObj die obj k).cores = s.cores := by
  refine (State.writeObj_cores ..).trans ?_
  split
  · exact State.onVx_cores ..
  · rfl

theorem State.obj_createObj (s : State) (hd : die < 8) (obj : Nat) (k : ObjKind) :
    ((s.createObj die obj k).vxOf die).obj obj = ⟨((s.vxOf die).obj obj).gen, k⟩ := by
  rw [State.createObj, State.obj_writeObj _ hd, if_pos rfl]
  split
  · rw [s.vxOf_onVx hd]
    rfl
  · rfl

/-- An object made in a state that an access to a home has led to. -/
theorem State.createObj_made {t : State} (hd : die < 8) (h : s.byHome t) (obj : Nat) (k : ObjKind) :
    let u := (t.createObj die obj k).vxRes die obj 0
    u.hostDone die obj 0 ∧ (u.vxOf die).obj obj = ⟨((s.vxOf die).obj obj).gen, k⟩ ∧ u.cores = s.cores := by
  refine ⟨State.hostDone_vxRes _ hd .., ?_, ?_⟩
  · rw [State.obj_vxRes _ hd, t.obj_createObj hd, State.vxOf_congr (State.byHome_vertex h)]
  · rw [State.vxRes_cores, State.createObj_cores, State.byHome_cores h]

/-- An image that cannot be taken leaves the object as it was. -/
theorem State.refused_image {t : State} (hd : die < 8) (h : s.byHome t) (obj : Nat) :
    (t.vxRes die obj 4).hostDone die obj 4 ∧ ((t.vxRes die obj 4).vxOf die).obj obj = (s.vxOf die).obj obj :=
  ⟨t.hostDone_vxRes hd .., by rw [t.obj_vxRes hd, State.vxOf_congr (State.byHome_vertex h)]⟩

section
variable (h : obj < (s.vxOf die).objCount) (hk : ((s.vxOf die).obj obj).kind = .free)
  (ha : s.imageOk (s.vxOf die).cmdAddr 64 = true)
include h hk ha

theorem execInitSync_reads {x : State × Nat × Bool} (hx : s.homeRead (s.vxOf die).cmdAddr.toNat 64 = x) :
    exec (.initSync die obj) s = .next (if x.2.2 = true then x.1.vxRes die obj 4
      else (x.1.createObj die obj (.sync (BitVec.ofNat 512 x.2.1))).vxRes die obj 0) := by
  change execInitSync die obj s = _
  rw [execInitSync, State.vxHost_acts h (by rw [hk]; rfl) ha]
  simp only [hx]

theorem execInitPhaser_reads {x : State × Nat × Bool} (hx : s.homeRead (s.vxOf die).cmdAddr.toNat 64 = x) :
    exec (.initPhaser die obj) s = .next (if (x.2.2 || phaserImageBad (BitVec.ofNat 512 x.2.1)) = true then x.1.vxRes die obj 4
      else (x.1.createObj die obj (.phaser (.ofRec (BitVec.ofNat 512 x.2.1)))).vxRes die obj 0) := by
  change execInitPhaser die obj s = _
  rw [execInitPhaser, State.vxHost_acts h (by rw [hk]; rfl) ha]
  simp only [hx]

/-- INIT_SYNC and INIT_PHASER of a FREE object, by what the image reads as. -/
theorem init_makes (hd : die < 8) :
    let image := s.homeRead (s.vxOf die).cmdAddr.toNat 64
    let rec' : BitVec 512 := BitVec.ofNat 512 image.2.1
    let made := fun (i : Instr) (k : ObjKind) => ∃ t, exec i s = .next t ∧ t.hostDone die obj 0 ∧
      (t.vxOf die).obj obj = ⟨((s.vxOf die).obj obj).gen, k⟩ ∧ t.cores = s.cores
    let left := fun (i : Instr) => ∃ t, exec i s = .next t ∧ t.hostDone die obj 4 ∧ (t.vxOf die).obj obj = (s.vxOf die).obj obj
    (image.2.2 = false →
      made (.initSync die obj) (.sync rec') ∧ (phaserImageBad rec' = false → made (.initPhaser die obj) (.phaser (.ofRec rec')))) ∧
    (image.2.2 = true → left (.initSync die obj)) ∧
    (image.2.2 = true ∨ phaserImageBad rec' = true → left (.initPhaser die obj)) := by
  have hhome := s.homeRead_byHome (s.vxOf die).cmdAddr.toNat 64
  generalize hx : s.homeRead (s.vxOf die).cmdAddr.toNat 64 = x at hhome
  have hsync := execInitSync_reads h hk ha hx
  have hphaser := execInitPhaser_reads h hk ha hx
  refine ⟨fun hok => ⟨⟨_, hsync, ?_⟩, fun hp => ⟨_, hphaser, ?_⟩⟩, fun hbad => ⟨_, hsync, ?_⟩, fun hbad => ⟨_, hphaser, ?_⟩⟩
  · simp only [hok, Bool.false_eq_true, if_false]
    exact State.createObj_made hd hhome ..
  · simp only [hok, hp, Bool.or_self, Bool.false_eq_true, if_false]
    exact State.createObj_made hd hhome ..
  · simp only [hbad, if_true]
    exact State.refused_image hd hhome obj
  · simp only [Bool.or_eq_true, hbad, if_true]
    exact State.refused_image hd hhome obj

end

/-! ### Waits and arms of an object that goes (R278) -/

theorem Core.arms_foldl_report (c : Core) (l : List Arm) (f : Arm → Note) :
    (l.foldl (fun c a => c.report (f a)) c).un.arms = c.un.arms :=
  List.foldlRecOn (motive := fun d : Core => d.un.arms = c.un.arms) l _ rfl fun d hd a _ => by
    obtain ⟨x, hx⟩ := d.un_report (f a)
    rw [hx]
    exact hd

/-- No arm slot left names what has failed. -/
theorem Core.failArms_arms (c : Core) (names : Word → Bool) {k : Fin 4} {x : Arm} (h : (c.failArms names).un.arms.get k = some x) :
    names x.handle = false := by
  rw [Core.failArms, Core.arms_foldl_report, Vector.get_eq_getElem, Vector.getElem_map] at h
  obtain ⟨y, -, hy⟩ := Option.bind_eq_some_iff.1 h
  split at hy
  · cases hy
  · next hn =>
    cases hy
    exact Bool.eq_false_iff.2 hn

theorem State.failWaits_vertex (s : State) (hd : die < 8) (obj : Nat) : (s.failWaits die obj).vxOf die =
    { s.vxOf die with waits := (s.vxOf die).waits.filter fun w => w.obj != obj } := by
  refine (State.vxOf_congr (?_ : _ = (s.onVx die fun u => { u with waits := u.waits.filter fun w => w.obj != obj }).vertex) die).trans
    (s.vxOf_onVx hd _)
  exact State.answer_vertex ..

theorem State.coreAt_mapCores (s : State) (f : Core → Core) {n : Nat} (hn : n < 96) :
    ({ s with cores := s.cores.map f } : State).coreAt n = f (s.coreAt n) := by
  simp [State.coreAt, hn, Vector.get_eq_getElem]

theorem State.failWaits_arms (s : State) (die obj : Nat) {n : Nat} (hn : n < 96) {k : Fin 4} {x : Arm}
    (h : ((s.failWaits die obj).unAt n).arms.get k = some x) :
    ¬ (hObj x.handle = obj ∧ hDie x.handle = die ∧ hMod x.handle = s.myMod.toNat) := by
  rw [State.unAt, State.failWaits, State.coreAt_mapCores _ _ hn] at h
  simpa [and_assoc] using Core.failArms_arms _ _ h

/-- No wait is held on the object, and no arm slot names it. -/
def State.objCleared (t : State) (m : BitVec 4) (die obj : Nat) : Prop :=
  (∀ w ∈ (t.vxOf die).waits, w.obj ≠ obj) ∧
    ∀ n k x, n < 96 → (t.unAt n).arms.get k = some x → ¬ (hObj x.handle = obj ∧ hDie x.handle = die ∧ hMod x.handle = m.toNat)

/-- What follows a FREE or BREAK and keeps waits and cores keeps them cleared. -/
theorem State.objCleared_after {t : State} (hd : die < 8) (hw : (t.vxOf die).waits = ((s.failWaits die obj).vxOf die).waits)
    (hc : t.cores = (s.failWaits die obj).cores) : t.objCleared s.myMod die obj := by
  refine ⟨fun w h => ?_, fun n k x hn h => ?_⟩
  · rw [hw, s.failWaits_vertex hd] at h
    simpa using (List.mem_filter.1 h).2
  · rw [State.unAt_congr hc hn] at h
    exact s.failWaits_arms die obj hn h

/-! ### FREE, BREAK and READ (R258) -/

theorem freeObject_frees (hd : die < 8) (h : obj < (s.vxOf die).objCount) (hk : ((s.vxOf die).obj obj).kind ≠ .free) :
    ∃ t, exec (.freeObject die obj) s = .next t ∧ t.hostDone die obj 0 ∧
      (t.vxOf die).obj obj = ⟨((s.vxOf die).obj obj).gen + 1, .free⟩ ∧
      (∀ m, m ≠ obj → (t.vxOf die).obj m = (s.vxOf die).obj m) ∧ t.objCleared s.myMod die obj := by
  have hexec : exec (.freeObject die obj) s = .next (((s.failWaits die obj).onVx die fun u =>
      { u with moved := u.moved.filter fun n => n != obj }.setObj obj ⟨(u.obj obj).gen + 1, .free⟩).vxRes die obj 0) := by
    change execFreeObject die obj s = _
    simp [execFreeObject, Nat.not_le.2 h, ObjKind.isFree_eq_false hk]
  have hobj : ∀ m, ((s.failWaits die obj).vxOf die).obj m = (s.vxOf die).obj m := fun m => by
    rw [s.failWaits_vertex hd]
    rfl
  refine ⟨_, hexec, State.hostDone_vxRes _ hd .., ?_, fun m hm => ?_, State.objCleared_after hd ?_ ?_⟩
  · rw [State.obj_vxRes _ hd, State.vxOf_onVx _ hd, VertexUnit.obj_setObj, if_pos rfl, hobj]
  · rw [State.obj_vxRes _ hd, State.vxOf_onVx _ hd, VertexUnit.obj_setObj, if_neg hm]
    exact hobj m
  · rw [State.vxOf_vxRes _ hd, State.vxOf_onVx _ hd]
    rfl
  · rw [State.vxRes_cores, State.onVx_cores]

theorem State.writeObj_myMod (s : State) (d n : Nat) (k : ObjKind) : (s.writeObj d n k).myMod = s.myMod := by
  unfold State.writeObj
  simp only []
  split
  · rw [(State.homeWrite_byHome ..).1]
    exact State.onVx_myMod ..
  · exact State.onVx_myMod ..

theorem breakPhaser_breaks (hd : die < 8) (h : obj < (s.vxOf die).objCount) {p : Phaser}
    (hp : (s.readObj die obj).2 = some (.phaser p)) : ∃ t, exec (.breakPhaser die obj) s = .next t ∧ t.hostDone die obj 0 ∧
      (t.vxOf die).obj obj = ⟨((s.vxOf die).obj obj).gen, .phaser { p with broken := true }⟩ ∧ t.objCleared s.myMod die obj := by
  obtain ⟨p0, hk⟩ := State.readObj_phaser hp
  have hread := s.readObj_byHome die obj
  generalize hu : (s.readObj die obj).1 = u at hread
  have hexec : exec (.breakPhaser die obj) s =
      .next (((u.writeObj die obj (.phaser { p with broken := true })).failWaits die obj).vxRes die obj 0) := by
    change execBreakPhaser die obj s = _
    simp only [execBreakPhaser, Nat.not_le.2 h, if_false, hk, hp, hu]
  have hmod : (u.writeObj die obj (.phaser { p with broken := true })).myMod = s.myMod := by
    rw [State.writeObj_myMod, hread.1]
  refine ⟨_, hexec, State.hostDone_vxRes _ hd .., ?_, ?_⟩
  · rw [State.obj_vxRes _ hd, State.failWaits_vertex _ hd]
    refine (State.obj_writeObj u hd obj _ obj).trans ((if_pos rfl).trans ?_)
    rw [State.vxOf_congr (State.byHome_vertex hread)]
  · rw [← hmod]
    refine State.objCleared_after hd ?_ (State.vxRes_cores ..)
    rw [State.vxOf_vxRes _ hd]

theorem readObject_reads (hd : die < 8) (h : obj < (s.vxOf die).objCount) (hk : ((s.vxOf die).obj obj).kind ≠ .free)
    (ha : s.imageOk (s.vxOf die).cmdAddr 64 = true) {k : ObjKind} (hr : (s.readObj die obj).2 = some k) :
    ∃ t, exec (.readObject die obj) s = .next t ∧ t.hostDone die obj 0 ∧
      t.mem = ((s.readObj die obj).1.homeWrite (s.vxOf die).cmdAddr.toNat 64 (2 ^ 64 - 1) k.toRec.toNat).1.mem ∧
      (t.vxOf die).objs = (s.vxOf die).objs := by
  have hexec : exec (.readObject die obj) s = .next (((s.readObj die obj).1.homeWrite (s.vxOf die).cmdAddr.toNat 64 (2 ^ 64 - 1)
      k.toRec.toNat).1.vxRes die obj 0) := by
    change execReadObject die obj s = _
    rw [execReadObject, State.vxHost_acts h (by rw [ObjKind.isFree_eq_false hk]; rfl) ha]
    simp only [hr]
  have hhome := State.byHome_trans (s.readObj_byHome die obj)
    ((s.readObj die obj).1.homeWrite_byHome (s.vxOf die).cmdAddr.toNat 64 (2 ^ 64 - 1) k.toRec.toNat)
  refine ⟨_, hexec, State.hostDone_vxRes _ hd .., State.vxRes_mem .., ?_⟩
  rw [State.vxOf_vxRes _ hd, State.vxOf_congr (State.byHome_vertex hhome)]

/-! ### The two registers (R257) -/

/-- `i` puts `x` in the place of the unit, and does nothing else. -/
theorem State.vertexStores (hd : die < 8) {i : Instr} {f : VertexUnit → VertexUnit} {x : VertexUnit}
    (h : exec i s = .next (s.onVx die f)) (hx : f (s.vxOf die) = x) :
    ∃ t, exec i s = .next t ∧ t = { s with vertex := t.vertex } ∧ t.vxOf die = x :=
  ⟨_, h, s.onVx_frame die f, (s.vxOf_onVx hd f).trans hx⟩

theorem execOvfBaseWrite_eq (s : State) (die : Nat) (v : Word) : exec (.ovfBaseWrite die v) s =
    if (!(s.vxOf die).allFree || s.ovfBad die (v.setWidth 52) (s.vxOf die).objCount) = true
      then .next (s.onVx die fun u => { u with cfgErr := true }) else .next (s.onVx die fun u => { u with ovfBase := v.setWidth 52 }) :=
  rfl

theorem execObjCountWrite_eq (s : State) (die : Nat) (v : Word) : exec (.objCountWrite die v) s =
    if (!(s.vxOf die).allFree || decide (1048576 < v.toNat % 2 ^ 21) || s.ovfBad die (s.vxOf die).ovfBase (v.toNat % 2 ^ 21)) = true
      then .next (s.onVx die fun u => { u with cfgErr := true })
      else .next (s.onVx die fun u => { u with objCount := v.toNat % 2 ^ 21 }) := by
  have hn : bits v.toNat 20 0 = v.toNat % 2 ^ 21 := rfl
  change execObjCountWrite die v s = _
  simp only [execObjCountWrite, hn]

/-- The three commands that take an image share their checks. -/
theorem exec_initSync_host (s : State) (die obj : Nat) : ∃ f, exec (.initSync die obj) s = s.vxHost die obj ObjKind.isFree f := by
  change ∃ f, execInitSync die obj s = _
  rw [execInitSync]
  exact ⟨_, rfl⟩

theorem exec_initPhaser_host (s : State) (die obj : Nat) : ∃ f, exec (.initPhaser die obj) s = s.vxHost die obj ObjKind.isFree f := by
  change ∃ f, execInitPhaser die obj s = _
  rw [execInitPhaser]
  exact ⟨_, rfl⟩

theorem exec_readObject_host (s : State) (die obj : Nat) :
    ∃ f, exec (.readObject die obj) s = s.vxHost die obj (fun k => !k.isFree) f := by
  change ∃ f, execReadObject die obj s = _
  rw [execReadObject]
  exact ⟨_, rfl⟩

theorem execFreeObject_beyond (h : (s.vxOf die).objCount ≤ obj) : exec (.freeObject die obj) s = .next (s.vxRes die obj 2) := if_pos h

theorem execBreakPhaser_beyond (h : (s.vxOf die).objCount ≤ obj) : exec (.breakPhaser die obj) s = .next (s.vxRes die obj 2) :=
  if_pos h

theorem execFreeObject_kind (h : obj < (s.vxOf die).objCount) (hk : ((s.vxOf die).obj obj).kind = .free) :
    exec (.freeObject die obj) s = .next (s.vxRes die obj 3) := by
  change execFreeObject die obj s = _
  simp only [execFreeObject, Nat.not_le.2 h, if_false, hk, ObjKind.isFree, if_true]

theorem execBreakPhaser_kind (h : obj < (s.vxOf die).objCount) (hk : ∀ p, ((s.vxOf die).obj obj).kind ≠ .phaser p) :
    exec (.breakPhaser die obj) s = .next (s.vxRes die obj 3) := by
  change execBreakPhaser die obj s = _
  simp only [execBreakPhaser, Nat.not_le.2 h, if_false]
  split
  · next p hp => exact absurd hp (hk p)
  · rfl
  · rfl

/-- Settles O50: each command by its first check that fails, or by what it makes of the object. -/
theorem vertexHostCommands : Obligations.VertexHostCommands := by
  intro s die obj op v hd
  obtain ⟨fs, hsync⟩ := exec_initSync_host s die obj
  obtain ⟨fp, hphaser⟩ := exec_initPhaser_host s die obj
  obtain ⟨fr, hread⟩ := exec_readObject_host s die obj
  refine ⟨fun h => ?beyond, fun h hk => ?standing, fun h hk => ?free, fun hop => ?unknown, ?registers⟩
  case beyond =>
    simp only [List.forall_mem_cons]
    exact ⟨State.hostAnswers_of hd (hsync.trans (State.vxHost_beyond h)), State.hostAnswers_of hd (hphaser.trans (State.vxHost_beyond h)),
      State.hostAnswers_of hd (execFreeObject_beyond h), State.hostAnswers_of hd (hread.trans (State.vxHost_beyond h)),
      State.hostAnswers_of hd (execBreakPhaser_beyond h), fun _ hi => nomatch hi⟩
  case standing =>
    have hfree := ObjKind.isFree_eq_false hk
    have hreads : (!((s.vxOf die).obj obj).kind.isFree) = true := by rw [hfree]; rfl
    exact ⟨State.hostAnswers_of hd (hsync.trans (State.vxHost_kind h hfree)),
      State.hostAnswers_of hd (hphaser.trans (State.vxHost_kind h hfree)),
      fun ha => State.hostAnswers_of hd (hread.trans (State.vxHost_address h hreads ha)),
      fun k ha hr => readObject_reads hd h hk ha hr, freeObject_frees hd h hk,
      fun w hw => State.hostAnswers_of hd (execBreakPhaser_kind h fun p hp => nomatch hw.symm.trans hp),
      fun p hp => breakPhaser_breaks hd h hp⟩
  case free =>
    have hfree : ((s.vxOf die).obj obj).kind.isFree = true := by rw [hk]; rfl
    have hreads : (!((s.vxOf die).obj obj).kind.isFree) = false := by rw [hfree]; rfl
    exact ⟨State.hostAnswers_of hd (execFreeObject_kind h hk), State.hostAnswers_of hd (hread.trans (State.vxHost_kind h hreads)),
      State.hostAnswers_of hd (execBreakPhaser_kind h fun p hp => nomatch hk.symm.trans hp),
      fun ha => ⟨State.hostAnswers_of hd (hsync.trans (State.vxHost_address h hfree ha)),
        State.hostAnswers_of hd (hphaser.trans (State.vxHost_address h hfree ha))⟩, fun ha => init_makes h hk ha hd⟩
  case unknown =>
    have hne : ¬ (1 ≤ op.toNat ∧ op.toNat ≤ 5) := by
      rcases hop with rfl | hop
      · simp
      · omega
    exact State.vertexStores hd (if_neg hne) rfl
  case registers =>
    refine ⟨fun hf hb => ?_, fun hbad => ?_, fun hf hn hb => ?_, fun hbad => ?_⟩
    · refine State.vertexStores hd ((execOvfBaseWrite_eq ..).trans (if_neg ?_)) rfl
      simp [hf, hb]
    · refine State.vertexStores hd ((execOvfBaseWrite_eq ..).trans (if_pos ?_)) rfl
      simpa using hbad
    · refine State.vertexStores hd ((execObjCountWrite_eq ..).trans (if_neg ?_)) rfl
      rw [hf, hb, decide_eq_false (Nat.not_lt.2 hn)]
      exact Bool.false_ne_true
    · refine State.vertexStores hd ((execObjCountWrite_eq ..).trans (if_pos ?_)) rfl
      rcases hbad with hbad | hbad
      · rw [hbad]
        rfl
      · rw [hbad, Bool.or_true]

end Sys2Proof.Machine
end

section
/-!
SUPPORT. What a command of Vertex comes to, whatever it asks for: its release whole (R264), its failure (R278), the phaser written back
with its passages notified, and its wait request (R263).
-/

namespace Sys2Proof.Machine

/-! ### The release of a command (R98, R264) -/

/-- A release whole, and then what the command does. -/
theorem State.releaseThen_all (s : State) (n : Nat) {c : Cmd} (hleft : c.prog.left = none) (scope : Nat) (f : State → State) :
    s.releaseThen n c scope (BitVec.allOnes 1024) f = f (s.fenceAct n 0xFFFF scope 1) := by
  unfold State.releaseThen State.fencePass State.fenceAct
  by_cases hsc : scope < 3
  · simp [hsc]
  · simp [hsc, hleft]

/-- No sector of core `n`'s die that a release at `scope` covers is dirty. -/
def State.clean (s t : State) (n scope : Nat) : Prop :=
  3 ≤ scope → ∀ y, s.sectorIn (decide (scope = 4)) y = true → (t.sector (n / 12) y).dirty = 0

theorem State.byTraffic_myMod {s t : State} (h : s.byTraffic t) : t.myMod = s.myMod := by rw [h]

theorem State.sectorIn_congr {s t : State} (h : t.myMod = s.myMod) (domain : Bool) (y : Nat) :
    t.sectorIn domain y = s.sectorIn domain y := by
  simp [State.sectorIn, State.home, h]

section
variable {s t u : State} {n scope : Nat}

theorem State.clean_fenceAct (hn : n < 96) (hu : s.byTraffic u) (mask : BitVec 16) : s.clean (u.fenceAct n mask scope 1) n scope :=
  fun hsc _ hy => (State.fenceAct_fences hn mask hsc ((State.sectorIn_congr (State.byTraffic_myMod hu) _ _).trans hy)).1 (.inl rfl)

theorem State.clean_congr (hu : s.clean u n scope) (h : t.rdc = u.rdc) : s.clean t n scope := fun hsc y hy => by
  rw [State.sector_congr h]
  exact hu hsc y hy

end

/-! ### Flags and results (R23, R25) -/

/-- The flag `f` of core `n` is SET in `t` unless it was ERROR in `s`, which it stays. -/
def State.setsFlag (s t : State) (n : Nat) (f : BitVec 5) : Prop :=
  (t.timedAt n).flag f = if (s.timedAt n).flag f = .error then .error else .set

/-- The command's window holds the number `v` in `k` bytes from L on. -/
def State.shows (t : State) (n : Nat) (c : Cmd) (k v : Nat) : Prop :=
  ∀ w, c.win = some w → 1 ≤ w.rbu → w.rbu ≤ 4096 → 1 ≤ w.tr.toNat → w.tr.toNat ≤ 128 → c.b.toNat + k ≤ w.size →
    ∀ i, i < k → (t.timedAt n).sbyte (w.byteAddr (c.b.toNat + i)) = BitVec.ofNat 8 (v >>> (8 * i))

section
variable {s u : State} {n : Nat} (hn : n < 96)
include hn

theorem State.setsFlag_of_keepsErrors {t : State} {f : BitVec 5} (h : s.keepsErrors u) (ht : u.setsFlag t n f) : s.setsFlag t n f :=
  ht.trans (if_congr (h n hn f) rfl rfl)

theorem State.setsFlag_cmdDone (h : s.keepsErrors u) (q : Nat) (f : BitVec 5) : s.setsFlag (u.cmdDone n q f none) n f :=
  State.setsFlag_of_keepsErrors hn h (u.flag_cmdDone hn q f)

variable {c : Cmd} (hp : c.prog.parked = none) (f : BitVec 5) (k v : Nat)
include hp

theorem State.cmd?_cmdResult : (u.cmdResult n c f c.b.toNat k v (BitVec.allOnes 1024)).cmd? n c.seq = none :=
  (u.cmdResult_lands hn hp f c.b.toNat k v).1

theorem State.setsFlag_cmdResult (h : s.keepsErrors u) :
    s.setsFlag (u.cmdResult n c f c.b.toNat k v (BitVec.allOnes 1024)) n f :=
  State.setsFlag_of_keepsErrors hn h (u.cmdResult_lands hn hp f c.b.toNat k v).2.1

theorem State.shows_cmdResult : (u.cmdResult n c f c.b.toNat k v (BitVec.allOnes 1024)).shows n c k v :=
  fun w hw _ hrbu _ _ hsize => (u.cmdResult_lands hn hp f c.b.toNat k v).2.2 w hw hrbu hsize

end

theorem State.reportAt_byCores (s : State) (n : Nat) (x : Note) : s.byCores (s.reportAt n x) := s.onCore_byCores n _

theorem State.cmdDone_byCores (s : State) (n q : Nat) (f : BitVec 5) (scope : Option (BitVec 3)) :
    s.byCores (s.cmdDone n q f scope) := State.byCores_trans (s.reportAt_byCores ..) (State.dropCmd_byCores ..)

theorem State.cmdFailed_byCores (s : State) (n q : Nat) (f : BitVec 5) (op : BitVec 8) (reached : Nat) (faddr : BitVec 52) :
    s.byCores (s.cmdFailed n q f op reached faddr) := State.byCores_trans (s.reportAt_byCores ..) (State.dropCmd_byCores ..)

theorem State.cmdResult_byCores (s : State) (n : Nat) {c : Cmd} (hp : c.prog.parked = none) (f : BitVec 5) (l k v : Nat) :
    s.byCores (s.cmdResult n c f l k v (BitVec.allOnes 1024)) := by
  rw [s.cmdResult_whole n hp]
  exact State.byCores_trans (s.winWriteAt_byCores ..) (State.cmdDone_byCores ..)

/-! ### A command fails (R278) -/

section
variable (s : State) (n : Nat) (c : Cmd) (f : BitVec 5)

theorem State.vxFail_byCores : s.byCores (s.vxFail n c f) := by
  unfold State.vxFail
  split
  · split
    · exact State.byCores_trans (s.onUn_byCores ..) (State.cmdFailed_byCores ..)
    · exact s.dropCmd_byCores ..
  · exact s.cmdFailed_byCores ..

theorem State.cmd?_vxFail (hn : n < 96) : (s.vxFail n c f).cmd? n c.seq = none := by
  unfold State.vxFail
  split
  · split <;> exact State.cmd?_dropCmd _ hn _
  · exact State.cmd?_dropCmd _ hn _

theorem State.vxFail_of_not_pharm (h : ∀ y, c.ins ≠ .pharm y) : s.vxFail n c f = s.cmdFailed n c.seq f (opOf c.ins) 0 0 := by
  unfold State.vxFail
  split
  · next y hy => exact absurd hy (h y)
  · rfl

theorem State.flag_vxFail (hn : n < 96) (h : ∀ y, c.ins ≠ .pharm y) : ((s.vxFail n c f).timedAt n).flag f = .error := by
  rw [s.vxFail_of_not_pharm n c f h]
  exact s.flag_cmdFailed hn ..

end

/-! ### Passages notified (R263) -/

/-- `t` differs from `s` by reports of flags set and of requests taken: the objects and the RDCs are the same, the cores keep their
queues and arm slots, and no flag has become ERROR. -/
structure State.notified (s t : State) : Prop where
  objs : ∀ d, d < 8 → (t.vxOf d).objs = (s.vxOf d).objs
  rdc : t.rdc = s.rdc
  queues : s.keepsQueues t
  errors : s.keepsErrors t

theorem State.notified_refl (s : State) : s.notified s := ⟨fun _ _ => rfl, rfl, s.keepsQueues_refl, s.keepsErrors_refl⟩

theorem State.notified_trans {s t u : State} (h : s.notified t) (k : t.notified u) : s.notified u where
  objs d hd := (k.objs d hd).trans (h.objs d hd)
  rdc := k.rdc.trans h.rdc
  queues := State.keepsQueues_trans h.queues k.queues
  errors := State.keepsErrors_trans h.errors k.errors

theorem State.notified_answer (s : State) (l : List WaitReq) : s.notified (s.answer true l) where
  objs d _ := congrArg VertexUnit.objs (State.vxOf_congr (s.answer_vertex true l) d)
  rdc := s.answer_rdc true l
  queues := s.answer_keepsQueues true l
  errors := s.answer_keepsErrors l

/-- A change of the held requests alone. -/
theorem State.notified_waits (s : State) (d : Nat) (f : List WaitReq → List WaitReq) :
    s.notified (s.onVx d fun u => { u with waits := f u.waits }) where
  objs _ he := s.vxOf_onVx_keeps d (f := fun u => { u with waits := f u.waits }) (g := VertexUnit.objs) (fun _ => rfl) he
  rdc := State.onVx_rdc ..
  queues := State.keepsQueues_of_cores (State.onVx_cores ..)
  errors := State.keepsErrors_of_cores (State.onVx_cores ..)

theorem State.notified_notify (s : State) (d n : Nat) (q : BitVec 32) : s.notified (s.notify d n q) :=
  State.notified_trans (s.notified_waits d fun l => l.filter fun w => !(w.obj == n && w.phase == q)) (State.notified_answer ..)

theorem State.notified_request (s : State) (d : Nat) (p : Phaser) (w : WaitReq) : s.notified (s.request d p w) := by
  unfold State.request
  split
  · exact s.notified_answer [w]
  · exact s.notified_waits d (· ++ [w])

/-- A request finds its phase passed, or is held. -/
theorem State.request_held (s : State) {d : Nat} (hd : d < 8) (p : Phaser) (w : WaitReq) :
    hasPassed w.phase p.phase = true ∨ w ∈ ((s.request d p w).vxOf d).waits := by
  unfold State.request
  split
  · next h => exact .inl h
  · rw [s.vxOf_onVx hd]
    exact .inr (List.mem_append_right _ (List.mem_singleton_self w))

theorem State.obj_notified {s t : State} (h : s.notified t) {d : Nat} (hd : d < 8) (m : Nat) : (t.vxOf d).obj m = (s.vxOf d).obj m :=
  VertexUnit.obj_congr (h.objs d hd) m

/-! ### A phaser written back (R263) -/

section
variable (s : State) (d o : Nat) (p : Phaser) (l : List (BitVec 32))

theorem State.putPhaser_notified : (s.writeObj d o (.phaser p)).notified (s.putPhaser d o p l) :=
  List.foldlRecOn (motive := (s.writeObj d o (.phaser p)).notified) l _ (State.notified_refl _)
    fun t ht q _ => State.notified_trans ht (t.notified_notify d o q)

theorem State.kind_putPhaser {d : Nat} (hd : d < 8) : (((s.putPhaser d o p l).vxOf d).obj o).kind = .phaser p := by
  rw [State.obj_notified (s.putPhaser_notified d o p l) hd, s.obj_writeObj hd, if_pos rfl]

theorem State.putPhaser_rdc : (s.putPhaser d o p l).rdc = s.rdc :=
  (s.putPhaser_notified d o p l).rdc.trans (s.writeObj_rdc ..)

theorem State.putPhaser_keepsQueues : s.keepsQueues (s.putPhaser d o p l) :=
  State.keepsQueues_trans (State.keepsQueues_of_cores (s.writeObj_cores ..)) (s.putPhaser_notified d o p l).queues

theorem State.putPhaser_keepsErrors : s.keepsErrors (s.putPhaser d o p l) :=
  State.keepsErrors_trans (State.keepsErrors_of_cores (s.writeObj_cores ..)) (s.putPhaser_notified d o p l).errors

end

end Sys2Proof.Machine
end

section
/-!
SUPPORT. The commands on a phaser of this module (R268-R271): what each makes of the phaser, its flag, its result and its arm slot.
-/

namespace Sys2Proof.Machine

variable {s u : State} {n q : Nat} {c : Cmd} {k : Task} {o : CfOp} {p p1 : Phaser} {ps : List (BitVec 32)}

/-- Command `q` of core `n` is `c`, of its task `k`, and due with nothing of it done. -/
structure State.starts (s : State) (n q : Nat) (c : Cmd) (k : Task) : Prop where
  core : n < 96
  queued : s.cmd? n q = some c
  task : (s.coreAt n).task = some k
  due : s.vxDue n c = true
  parked : c.prog.parked = none
  left : c.prog.left = none

/-- Command `q` is performed whole: it has left its queue, and then `P` holds. -/
def State.performs (s : State) (n q : Nat) (P : State → Prop) : Prop :=
  ∃ t, exec (.vertexOperation n ⟨q, BitVec.allOnes 1024⟩) s = .next t ∧ t.cmd? n q = none ∧ P t

/-- Where the command goes. -/
def State.vxTurn (s : State) (n : Nat) (c : Cmd) (o : CfOp) (k : Task) (words : BitVec 1024) : State :=
  if hMod c.a = s.myMod.toNat then s.vxLocal n c o k words
  else if s.mayReach (hMod c.a) then s.vxRemote n c o k words
  else s.releaseThen n c (if releases c.ins then 4 else 0) words fun s => s.vxFail n c o.f

theorem exec_vertexOperation (h : s.starts n q c k) (hf : vxFields c.ins = some o) :
    exec (.vertexOperation n ⟨q, BitVec.allOnes 1024⟩) s = .next (s.vxTurn n c o k (BitVec.allOnes 1024)) := by
  change execVertexOperation n ⟨q, BitVec.allOnes 1024⟩ s = _
  simp only [execVertexOperation, h.queued, h.task, hf, h.due, State.orLand, h.parked, State.vxTurn, Option.isSome_none, Bool.not_true,
    Bool.false_eq_true, if_false]

/-! ### The record of the object reached (R254, R264, R278) -/

/-- The state in which a command meets its object: the record read, and its release at `scope` made. -/
def State.reach (s : State) (n : Nat) (c : Cmd) (scope : Nat) : State :=
  (s.readObj (hDie c.a) (hObj c.a)).1.fenceAct n 0xFFFF scope 1

theorem State.readObj_byTraffic (s : State) (d m : Nat) : s.byTraffic (s.readObj d m).1 := State.byHome_byTraffic (s.readObj_byHome d m)

theorem State.reach_byTraffic (s : State) (n : Nat) (c : Cmd) (scope : Nat) : s.byTraffic (s.reach n c scope) :=
  State.byTraffic_trans (s.readObj_byTraffic ..) (State.fenceAct_byTraffic ..)

theorem State.clean_reach (s : State) (hn : n < 96) (c : Cmd) (scope : Nat) : s.clean (s.reach n c scope) n scope :=
  State.clean_fenceAct hn (s.readObj_byTraffic ..) _

theorem State.vxLocal_beyond (h : (s.vxOf (hDie c.a)).objCount ≤ hObj c.a) (words : BitVec 1024) :
    s.vxLocal n c o k words = s.vxFail n c o.f := if_pos h

/-- A handle of another generation fails, its release made. -/
theorem State.vxLocal_stale (ho : hObj c.a < (s.vxOf (hDie c.a)).objCount)
    (hg : ((s.vxOf (hDie c.a)).obj (hObj c.a)).gen ≠ hGen c.a) (hleft : c.prog.left = none) :
    s.vxLocal n c o k (BitVec.allOnes 1024) =
      (s.reach n c (objScope c (s.readObj (hDie c.a) (hObj c.a)).2)).vxFail n c o.f := by
  simp only [State.vxLocal, if_neg (Nat.not_le.2 ho), if_pos hg, State.releaseThen_all _ n hleft]
  rfl

/-- A command, due here, names an object of its generation whose record reads as `r`. -/
structure State.meets (s : State) (n q : Nat) (c : Cmd) (k : Task) (r : ObjKind) : Prop extends s.starts n q c k where
  here : hMod c.a = s.myMod.toNat
  die : hDie c.a < 8
  obj : hObj c.a < (s.vxOf (hDie c.a)).objCount
  gen : ((s.vxOf (hDie c.a)).obj (hObj c.a)).gen = hGen c.a
  record : (s.readObj (hDie c.a) (hObj c.a)).2 = some r

/-- The command's member number. -/
def Cmd.member (c : Cmd) : Nat := bits c.b.toNat 5 0

theorem exec_meets_sync {w : BitVec 512} (h : s.meets n q c k (.sync w)) (hf : vxFields c.ins = some o) :
    exec (.vertexOperation n ⟨q, BitVec.allOnes 1024⟩) s = .next
      (if isPhaserOp c.ins then (s.readObj (hDie c.a) (hObj c.a)).1.vxFail n c o.f
       else (s.readObj (hDie c.a) (hObj c.a)).1.syncCmd n c o w (BitVec.allOnes 1024)) := by
  rw [exec_vertexOperation h.tostarts hf, State.vxTurn, if_pos h.here]
  simp only [State.vxLocal, if_neg (Nat.not_le.2 h.obj), if_neg (not_not_intro h.gen), h.record]

theorem exec_meets_phaser (h : s.meets n q c k (.phaser p)) (hf : vxFields c.ins = some o) :
    exec (.vertexOperation n ⟨q, BitVec.allOnes 1024⟩) s = .next
      (if !isPhaserOp c.ins || p.broken || !(inPhaserScope p (hDie c.a) n k.lcluster) then
        (s.reach n c (p.releaseScope c.ins c.member)).vxFail n c o.f
       else ((s.reach n c (p.releaseScope c.ins c.member)).phaserOp n c p k.ref (BitVec.allOnes 1024)).getD
        ((s.reach n c (p.releaseScope c.ins c.member)).vxFail n c o.f)) := by
  rw [exec_vertexOperation h.tostarts hf, State.vxTurn, if_pos h.here]
  simp only [State.vxLocal, if_neg (Nat.not_le.2 h.obj), if_neg (not_not_intro h.gen), h.record, State.releaseThen_all _ n h.left]
  rfl

/-! ### What a state reached leaves -/

theorem State.keepsErrors_of_byTraffic (h : s.byTraffic u) : s.keepsErrors u := State.keepsErrors_of_cores (State.byTraffic_cores h)

theorem State.kind_of_vertex {t : State} (h : t.vertex = s.vertex) (d m : Nat) : ((t.vxOf d).obj m).kind = ((s.vxOf d).obj m).kind := by
  rw [State.vxOf_congr h]

theorem State.kind_of_byCores {t : State} (h : u.byCores t) (d m : Nat) : ((t.vxOf d).obj m).kind = ((u.vxOf d).obj m).kind :=
  State.kind_of_vertex (State.byCores_vertex h) d m

theorem State.vxFail_vertex (h : s.byTraffic u) (n : Nat) (c : Cmd) (f : BitVec 5) : (u.vxFail n c f).vertex = s.vertex :=
  (State.byCores_vertex (u.vxFail_byCores n c f)).trans (State.byTraffic_vertex h)

/-! ### The commands that fail -/

/-- A command fails without a change of any object, and its flag says so. -/
theorem State.performs_vxFail (hn : n < 96) (hc : s.cmd? n q = some c) (hu : s.byTraffic u)
    (hexec : exec (.vertexOperation n ⟨q, BitVec.allOnes 1024⟩) s = .next (u.vxFail n c o.f)) (hp : ∀ y, c.ins ≠ .pharm y) :
    s.performs n q fun t => (t.timedAt n).flag o.f = .error ∧ t.vertex = s.vertex :=
  ⟨_, hexec, State.cmd?_seq hc ▸ u.cmd?_vxFail n c o.f hn, u.flag_vxFail n c o.f hn hp, State.vxFail_vertex hu ..⟩

theorem State.performs_stranger (h : s.starts n q c k) (here : hMod c.a = s.myMod.toNat) (hf : vxFields c.ins = some o)
    (hne : (s.vxOf (hDie c.a)).objCount ≤ hObj c.a ∨ ((s.vxOf (hDie c.a)).obj (hObj c.a)).gen ≠ hGen c.a)
    (hp : ∀ y, c.ins ≠ .pharm y) : s.performs n q fun t => (t.timedAt n).flag o.f = .error ∧ t.vertex = s.vertex := by
  have hexec := exec_vertexOperation h hf
  rw [State.vxTurn, if_pos here] at hexec
  rcases Nat.lt_or_ge (hObj c.a) (s.vxOf (hDie c.a)).objCount with ho | ho
  · rw [State.vxLocal_stale ho (hne.resolve_left (Nat.not_le.2 ho)) h.left] at hexec
    exact State.performs_vxFail h.core h.queued (s.reach_byTraffic ..) hexec hp
  · rw [State.vxLocal_beyond ho] at hexec
    exact State.performs_vxFail h.core h.queued s.byTraffic_refl hexec hp

/-- A handle that a phaser has outlived makes its release all the same. -/
theorem State.performs_stale_clean (h : s.starts n q c k) (here : hMod c.a = s.myMod.toNat) (hf : vxFields c.ins = some o)
    (ho : hObj c.a < (s.vxOf (hDie c.a)).objCount) (hg : ((s.vxOf (hDie c.a)).obj (hObj c.a)).gen ≠ hGen c.a)
    (hr : (s.readObj (hDie c.a) (hObj c.a)).2 = some (.phaser p)) :
    s.performs n q fun t => s.clean t n (p.releaseScope c.ins c.member) := by
  have hexec := exec_vertexOperation h hf
  rw [State.vxTurn, if_pos here, State.vxLocal_stale ho hg h.left, hr] at hexec
  exact ⟨_, hexec, State.cmd?_seq h.queued ▸ State.cmd?_vxFail _ n c o.f h.core,
    State.clean_congr (s.clean_reach h.core c _) (State.byCores_rdc (State.vxFail_byCores ..))⟩

/-- A phaser command on sync words fails. -/
theorem State.performs_sync_pharr {w : BitVec 512} (h : s.meets n q c k (.sync w)) (hi : c.ins = .pharr o) :
    s.performs n q fun t => (t.timedAt n).flag o.f = .error ∧ t.vertex = s.vertex := by
  have hexec := exec_meets_sync h (o := o) (by rw [hi]; rfl)
  rw [if_pos (by rw [hi]; rfl)] at hexec
  exact State.performs_vxFail h.core h.queued (s.readObj_byTraffic ..) hexec (by rw [hi]; exact fun _ h => nomatch h)

/-! ### Phaser commands in scope (R268-R271) -/

/-- A command meets a phaser that is not broken, from a task in its scope. -/
structure State.joins (s : State) (n q : Nat) (c : Cmd) (k : Task) (p : Phaser) : Prop extends s.meets n q c k (.phaser p) where
  intact : p.broken = false
  inScope : inPhaserScope p (hDie c.a) n k.lcluster = true

theorem exec_joins (h : s.joins n q c k p) (hf : vxFields c.ins = some o) (hop : isPhaserOp c.ins = true) :
    exec (.vertexOperation n ⟨q, BitVec.allOnes 1024⟩) s = .next
      (((s.reach n c (p.releaseScope c.ins c.member)).phaserOp n c p k.ref (BitVec.allOnes 1024)).getD
        ((s.reach n c (p.releaseScope c.ins c.member)).vxFail n c o.f)) := by
  rw [exec_meets_phaser h.tomeets hf, hop, h.intact, h.inScope]
  rfl

/-- A command that `phaserOp` takes from every state reached to one with `P` is performed with `P`. -/
theorem State.performs_of_phaserOp (h : s.joins n q c k p) (hf : vxFields c.ins = some o) (hop : isPhaserOp c.ins = true)
    {P : State → Prop} (hP : ∀ u, s.byTraffic u →
      ∃ t, u.phaserOp n c p k.ref (BitVec.allOnes 1024) = some t ∧ t.cmd? n c.seq = none ∧ P t) : s.performs n q P := by
  have hexec := exec_joins h hf hop
  obtain ⟨t, ht, hq, hPt⟩ := hP _ (s.reach_byTraffic n c (p.releaseScope c.ins c.member))
  rw [ht] at hexec
  exact ⟨t, hexec, State.cmd?_seq h.queued ▸ hq, hPt⟩

/-- The phaser written back in a state reached, whatever cores see of it after. -/
theorem State.kind_after_putPhaser {t : State} (hd : hDie c.a < 8) (h : (u.putPhaser (hDie c.a) (hObj c.a) p1 ps).byCores t) :
    ((t.vxOf (hDie c.a)).obj (hObj c.a)).kind = .phaser p1 :=
  (State.kind_of_byCores h ..).trans (u.kind_putPhaser _ p1 ps hd)

theorem State.keepsErrors_putPhaser (hu : s.byTraffic u) {d m : Nat} :
    s.keepsErrors (u.putPhaser d m p1 ps) :=
  State.keepsErrors_trans (State.keepsErrors_of_byTraffic hu) (u.putPhaser_keepsErrors d m p1 ps)

/-! What `phaserOp` says of each command where it succeeds. -/

section
variable (u : State) (n : Nat) (who : TaskRef) (words : BitVec 1024) {ph : BitVec 32}

theorem State.phaserOp_phreg (hi : c.ins = .phreg o) {j : Nat} (hreg : register p (vxMode o) = some (p1, j)) :
    u.phaserOp n c p who words = some ((u.putPhaser (hDie c.a) (hObj c.a) p1 []).cmdResult n c o.f c.b.toNat 8 j words) := by
  simp only [State.phaserOp, hi, hreg]

theorem State.phaserOp_phdrop (hi : c.ins = .phdrop o) (hdrop : dropMember p c.member = some (p1, ps)) :
    u.phaserOp n c p who words = some ((u.putPhaser (hDie c.a) (hObj c.a) p1 ps).cmdDone n c.seq o.f none) := by
  rw [Cmd.member] at hdrop
  simp only [State.phaserOp, hi, hdrop]

theorem State.phaserOp_pharr_sig (hi : c.ins = .pharr o) (harr : arrive p c.member = some (p1, ps, ph)) (hm : p.mode c.member = 0) :
    u.phaserOp n c p who words = some ((u.putPhaser (hDie c.a) (hObj c.a) p1 ps).cmdDone n c.seq o.f none) := by
  rw [Cmd.member] at harr hm
  simp only [State.phaserOp, hi, harr, hm]
  rfl

theorem State.phaserOp_pharr_sw (hi : c.ins = .pharr o) (harr : arrive p c.member = some (p1, ps, ph)) (hm : p.mode c.member = 2) :
    u.phaserOp n c p who words = some (((u.putPhaser (hDie c.a) (hObj c.a) p1 ps).dropCmd n c.seq).request (hDie c.a) p1
      ⟨hObj c.a, ph, some who, 0, o.f, p.scope, opOf c.ins⟩) := by
  rw [Cmd.member] at harr hm
  simp only [State.phaserOp, hi, harr, hm]
  rfl

theorem State.phaserOp_phwait (hi : c.ins = .phwait o) (hw : p.mayWait (bits c.b.toNat 37 32) = true) :
    u.phaserOp n c p who words = some ((u.dropCmd n c.seq).request (hDie c.a) p
      ⟨hObj c.a, c.b.setWidth 32, some who, 0, o.f, p.scope, opOf c.ins⟩) := by
  simp only [State.phaserOp, hi, hw, if_true]

theorem State.phaserOp_phrd (hi : c.ins = .phrd o) :
    u.phaserOp n c p who words = some (u.cmdResult n c o.f c.b.toNat 64 p.toRec.toNat words) := by
  simp only [State.phaserOp, hi]

theorem State.phaserOp_pharm (hi : c.ins = .pharm o) {a : Arm} (ha : (u.unAt n).armOf c.seq = some a)
    (hr : (u.unAt n).released = []) (hm : p.reg.getLsbD c.member = true ∨ p.join.getLsbD c.member = true)
    (hmode : p.mode c.member = 3) :
    u.phaserOp n c p who words =
      some ((u.dropCmd n c.seq).onUn n fun v => v.onArm c.seq fun a => some { a with ok := true }) := by
  rw [Cmd.member] at hmode hm
  have hmem : (p.reg.getLsbD (bits c.b.toNat 5 0) || p.join.getLsbD (bits c.b.toNat 5 0)) = true := by simpa using hm
  simp only [State.phaserOp, hi, ha, hr, hmem, hmode]
  rfl

end

theorem State.performs_phreg (h : s.joins n q c k p) (hi : c.ins = .phreg o) {j : Nat} (hreg : register p (vxMode o) = some (p1, j)) :
    s.performs n q fun t => ((t.vxOf (hDie c.a)).obj (hObj c.a)).kind = .phaser p1 ∧ s.setsFlag t n o.f ∧ t.shows n c 8 j := by
  refine State.performs_of_phaserOp h (o := o) (by rw [hi]; rfl) (by rw [hi]; rfl) fun u hu =>
    ⟨_, u.phaserOp_phreg n k.ref _ hi hreg, ?_, ?_, ?_, ?_⟩
  · exact State.cmd?_cmdResult h.core h.parked ..
  · exact State.kind_after_putPhaser h.die (State.cmdResult_byCores _ n h.parked ..)
  · exact State.setsFlag_cmdResult h.core h.parked _ _ _ (State.keepsErrors_putPhaser hu)
  · exact State.shows_cmdResult h.core h.parked _ _ _

theorem State.performs_phdrop (h : s.joins n q c k p) (hi : c.ins = .phdrop o) (hdrop : dropMember p c.member = some (p1, ps)) :
    s.performs n q fun t => ((t.vxOf (hDie c.a)).obj (hObj c.a)).kind = .phaser p1 ∧ s.setsFlag t n o.f := by
  refine State.performs_of_phaserOp h (o := o) (by rw [hi]; rfl) (by rw [hi]; rfl) fun u hu =>
    ⟨_, u.phaserOp_phdrop n k.ref _ hi hdrop, ?_, ?_, ?_⟩
  · exact State.cmd?_dropCmd _ h.core _
  · exact State.kind_after_putPhaser h.die (State.cmdDone_byCores ..)
  · exact State.setsFlag_cmdDone h.core (State.keepsErrors_putPhaser hu) ..

/-- A SIG member arrives: its flag is set. -/
theorem State.performs_pharr_sig (h : s.joins n q c k p) (hi : c.ins = .pharr o) {ph : BitVec 32}
    (harr : arrive p c.member = some (p1, ps, ph)) (hm : p.mode c.member = 0) :
    s.performs n q fun t => ((t.vxOf (hDie c.a)).obj (hObj c.a)).kind = .phaser p1 ∧ s.setsFlag t n o.f := by
  refine State.performs_of_phaserOp h (o := o) (by rw [hi]; rfl) (by rw [hi]; rfl) fun u hu =>
    ⟨_, u.phaserOp_pharr_sig n k.ref _ hi harr hm, ?_, ?_, ?_⟩
  · exact State.cmd?_dropCmd _ h.core _
  · exact State.kind_after_putPhaser h.die (State.cmdDone_byCores ..)
  · exact State.setsFlag_cmdDone h.core (State.keepsErrors_putPhaser hu) ..

/-- The request of a command of task `k` for phase `ph` of its phaser, which has scope `scope`. -/
def Cmd.waitReq (c : Cmd) (k : Task) (f : BitVec 5) (scope : BitVec 3) (ph : BitVec 32) : WaitReq :=
  ⟨hObj c.a, ph, some k.ref, 0, f, scope, opOf c.ins⟩

/-- The request of a command for phase `ph` of phaser `p` finds it passed, or is held. -/
def State.awaits (t : State) (c : Cmd) (k : Task) (f : BitVec 5) (p : Phaser) (ph : BitVec 32) : Prop :=
  hasPassed ph p.phase = true ∨ c.waitReq k f p.scope ph ∈ (t.vxOf (hDie c.a)).waits

/-- A request made of a state whose queue the command has left. -/
theorem State.request_performs (u : State) (hn : n < 96) (hd : hDie c.a < 8) (k : Task) (f : BitVec 5) (p : Phaser) (ph : BitVec 32) :
    let t := (u.dropCmd n c.seq).request (hDie c.a) p (c.waitReq k f p.scope ph)
    t.cmd? n c.seq = none ∧ ((t.vxOf (hDie c.a)).obj (hObj c.a)).kind = ((u.vxOf (hDie c.a)).obj (hObj c.a)).kind ∧
      t.awaits c k f p ph := by
  have hnote := (u.dropCmd n c.seq).notified_request (hDie c.a) p (c.waitReq k f p.scope ph)
  refine ⟨?_, ?_, State.request_held _ hd p (c.waitReq k f p.scope ph)⟩
  · rw [State.cmd?_keepsQueues hnote.queues hn]
    exact u.cmd?_dropCmd hn _
  · rw [State.obj_notified hnote hd]
    exact State.kind_of_byCores (u.dropCmd_byCores ..) ..

/-- An SW member arrives: its flag waits for the passage. -/
theorem State.performs_pharr_sw (h : s.joins n q c k p) (hi : c.ins = .pharr o) {ph : BitVec 32}
    (harr : arrive p c.member = some (p1, ps, ph)) (hm : p.mode c.member = 2) :
    s.performs n q fun t => ((t.vxOf (hDie c.a)).obj (hObj c.a)).kind = .phaser p1 ∧ t.awaits c k o.f p1 ph := by
  obtain ⟨-, -, -, -, ⟨-, -, hscope, -, -⟩, -⟩ := arrive_comesTo harr
  refine State.performs_of_phaserOp h (o := o) (by rw [hi]; rfl) (by rw [hi]; rfl) fun u _ =>
    ⟨_, (u.phaserOp_pharr_sw n k.ref _ hi harr hm).trans (by rw [← hscope]), ?_⟩
  obtain ⟨hq, hkind, hwait⟩ := (u.putPhaser (hDie c.a) (hObj c.a) p1 ps).request_performs (c := c) h.core h.die k o.f p1 ph
  exact ⟨hq, hkind.trans (u.kind_putPhaser _ p1 ps h.die), hwait⟩

theorem Phaser.mayWait_of_mode {m : Nat} (hin : p.reg.getLsbD m = true ∨ p.join.getLsbD m = true) (hm : p.mode m ≠ 0) :
    p.mayWait m = true := by simp [Phaser.mayWait, hin, hm]

theorem State.performs_phwait (h : s.joins n q c k p) (hi : c.ins = .phwait o) (hw : p.mayWait (bits c.b.toNat 37 32) = true) :
    s.performs n q fun t => ((t.vxOf (hDie c.a)).obj (hObj c.a)).kind = ((s.vxOf (hDie c.a)).obj (hObj c.a)).kind ∧
      t.awaits c k o.f p (c.b.setWidth 32) := by
  refine State.performs_of_phaserOp h (o := o) (by rw [hi]; rfl) (by rw [hi]; rfl) fun u hu =>
    ⟨_, u.phaserOp_phwait n k.ref _ hi hw, ?_⟩
  obtain ⟨hq, hkind, hwait⟩ := u.request_performs (c := c) h.core h.die k o.f p (c.b.setWidth 32)
  exact ⟨hq, hkind.trans (State.kind_of_vertex (State.byTraffic_vertex hu) ..), hwait⟩

theorem State.performs_phrd (h : s.joins n q c k p) (hi : c.ins = .phrd o) :
    s.performs n q fun t => ((t.vxOf (hDie c.a)).obj (hObj c.a)).kind = ((s.vxOf (hDie c.a)).obj (hObj c.a)).kind ∧
      s.setsFlag t n o.f ∧ t.shows n c 64 p.toRec.toNat := by
  refine State.performs_of_phaserOp h (o := o) (by rw [hi]; rfl) (by rw [hi]; rfl) fun u hu =>
    ⟨_, u.phaserOp_phrd n k.ref _ hi, ?_, ?_, ?_, ?_⟩
  · exact State.cmd?_cmdResult h.core h.parked ..
  · exact (State.kind_of_byCores (u.cmdResult_byCores n h.parked ..) ..).trans (State.kind_of_vertex (State.byTraffic_vertex hu) ..)
  · exact State.setsFlag_cmdResult h.core h.parked _ _ _ (State.keepsErrors_of_byTraffic hu)
  · exact State.shows_cmdResult h.core h.parked _ _ _

/-! ### The check of an arm (R272) -/

/-- The arm of PHARM `q` changed is found again. -/
theorem Untimed.armOf_onArm (v : Untimed) {g : Arm → Arm} (hg : ∀ a, (g a).seq = a.seq) :
    (v.onArm q fun a => some (g a)).armOf q = (v.armOf q).map g := by
  let h : Arm → Arm := fun a => if a.seq = q then g a else a
  have hseq : ∀ a, (h a).seq = a.seq := fun a => by
    by_cases ha : a.seq = q <;> simp [h, ha, hg]
  have hone : (fun x : Arm => if x.seq = q then some (g x) else some x) = fun x => some (h x) := by
    funext x
    by_cases hx : x.seq = q <;> simp [h, hx]
  have htest : ((fun a : Arm => a.seq == q) ∘ h) = fun a => a.seq == q := funext fun a => congrArg (· == q) (hseq a)
  have hslots : ∀ l : List (Option Arm), (l.map fun a => a.bind fun x => some (h x)).filterMap id = (l.filterMap id).map h := by
    intro l
    induction l with
    | nil => rfl
    | cons a l ih => cases a <;> simp_all
  simp only [Untimed.armOf, Untimed.onArm, hone, Vector.toList_map, hslots, List.filterMap_eq_map', ← List.map_append, List.find?_map,
    htest]
  cases hf : List.find? (fun a : Arm => a.seq == q) (v.arms.toList.filterMap id ++ v.released) with
  | none => rfl
  | some a =>
    have ha : a.seq = q := by simpa using List.find?_some hf
    simp [h, ha]

/-- A PHARM of a RECV member lets its arm go on. -/
theorem State.performs_pharm (h : s.joins n q c k p) (hi : c.ins = .pharm o) {a : Arm} (ha : (s.unAt n).armOf q = some a)
    (hr : (s.unAt n).released = []) (hm : p.reg.getLsbD c.member = true ∨ p.join.getLsbD c.member = true)
    (hmode : p.mode c.member = 3) :
    s.performs n q fun t => ((t.vxOf (hDie c.a)).obj (hObj c.a)).kind = ((s.vxOf (hDie c.a)).obj (hObj c.a)).kind ∧
      (t.unAt n).armOf q = some { a with ok := true } := by
  have hseq := State.cmd?_seq h.queued
  refine State.performs_of_phaserOp h (o := o) (by rw [hi]; rfl) (by rw [hi]; rfl) fun u hu => ?_
  have hun : u.unAt n = s.unAt n := State.unAt_congr (State.byTraffic_cores hu) h.core
  refine ⟨_, u.phaserOp_pharm n k.ref _ hi (by rw [hun, hseq]; exact ha) (by rw [hun]; exact hr) hm hmode, ?_, ?_, ?_⟩
  · rw [State.cmd?_onUn _ h.core, State.dropCmd, State.unAt_onUn _ h.core, hseq]
    exact Untimed.cmd?_dropCmd ..
  · exact (State.kind_of_byCores (State.byCores_trans (u.dropCmd_byCores ..) (State.onUn_byCores ..)) ..).trans
      (State.kind_of_vertex (State.byTraffic_vertex hu) ..)
  · rw [State.unAt_onUn _ h.core, hseq, Untimed.armOf_onArm _ (g := fun a => { a with ok := true }) fun _ => rfl, State.dropCmd,
      State.unAt_onUn _ h.core, hun]
    exact congrArg (Option.map _) ha

/-! ### The release of an arrival (R264) -/

/-- What an arrival makes of the phaser leaves the RDCs. -/
theorem State.phaserOp_pharr {t : State} (hn : n < 96) (hi : c.ins = .pharr o)
    (h : u.phaserOp n c p k.ref (BitVec.allOnes 1024) = some t) : t.rdc = u.rdc ∧ t.cmd? n c.seq = none := by
  simp only [State.phaserOp, hi] at h
  split at h
  · cases h
  · cases harr : arrive p (bits c.b.toNat 5 0) with
    | none =>
      rw [harr] at h
      cases h
    | some x =>
      obtain ⟨p1, ps, ph⟩ := x
      rw [harr] at h
      simp only [] at h
      split at h
      · obtain rfl := Option.some_inj.1 h
        exact ⟨(State.byCores_rdc (State.cmdDone_byCores ..)).trans (u.putPhaser_rdc ..), State.cmd?_dropCmd _ hn _⟩
      · obtain rfl := Option.some_inj.1 h
        have hnote := State.notified_request ((u.putPhaser (hDie c.a) (hObj c.a) p1 ps).dropCmd n c.seq) (hDie c.a) p1
          ⟨hObj c.a, ph, some k.ref, 0, o.f, p.scope, opOf (.pharr o)⟩
        refine ⟨hnote.rdc.trans ((State.byCores_rdc (State.dropCmd_byCores ..)).trans (u.putPhaser_rdc ..)), ?_⟩
        rw [State.cmd?_keepsQueues hnote.queues hn]
        exact State.cmd?_dropCmd _ hn _

/-- An arrival is released at the scope of its phaser, also where it fails; on one that is broken or out of scope it does. -/
theorem State.performs_pharr_clean (h : s.meets n q c k (.phaser p)) (hi : c.ins = .pharr o) :
    s.performs n q fun t => (p.broken = true ∨ inPhaserScope p (hDie c.a) n k.lcluster = false →
      (t.timedAt n).flag o.f = .error ∧ t.vertex = s.vertex) ∧ s.clean t n p.scope.toNat := by
  have hexec := exec_meets_phaser h (o := o) (by rw [hi]; rfl)
  have hsc : p.releaseScope c.ins c.member = p.scope.toNat := by rw [hi]; rfl
  have hclean := s.clean_reach h.core c p.scope.toNat
  rw [hsc] at hexec
  have hbt := s.reach_byTraffic n c p.scope.toNat
  generalize s.reach n c p.scope.toNat = u at hexec hclean hbt
  have hfails : (u.vxFail n c o.f).cmd? n q = none ∧ s.clean (u.vxFail n c o.f) n p.scope.toNat :=
    ⟨State.cmd?_seq h.queued ▸ u.cmd?_vxFail n c o.f h.core, State.clean_congr hclean (State.byCores_rdc (u.vxFail_byCores ..))⟩
  by_cases hb : p.broken = true ∨ inPhaserScope p (hDie c.a) n k.lcluster = false
  · rw [if_pos (by rcases hb with hb | hb <;> simp [hb])] at hexec
    exact ⟨_, hexec, hfails.1,
      fun _ => ⟨u.flag_vxFail n c o.f h.core (by rw [hi]; exact fun _ h => nomatch h), State.vxFail_vertex hbt ..⟩, hfails.2⟩
  · rw [if_neg (by simp [hi, isPhaserOp]; simpa using hb)] at hexec
    cases hop : u.phaserOp n c p k.ref (BitVec.allOnes 1024) with
    | none => exact ⟨_, by rw [hexec, hop]; rfl, hfails.1, fun hx => absurd hx hb, hfails.2⟩
    | some t =>
      obtain ⟨hrdc, hq⟩ := State.phaserOp_pharr h.core hi hop
      exact ⟨t, by rw [hexec, hop]; rfl, State.cmd?_seq h.queued ▸ hq, fun hx => absurd hx hb, State.clean_congr hclean hrdc⟩

end Sys2Proof.Machine
end

section
/-!
SUPPORT. The commands on sync words (R273-R276): a field of the record replaced, and what each command leaves in its word or half.
-/

namespace Sys2Proof.Machine

/-! ### A field of a number replaced -/

/-- `W` with its `z` bits from bit `at'` on replaced by `new`. -/
def replaceField (W at' z new : Nat) : Nat := W - (W / 2 ^ at' % 2 ^ z) <<< at' + new <<< at'

section
variable {W at' z new : Nat} (hnew : new < 2 ^ z)
include hnew

/-- The parts of the number below the field, in it and above it. -/
theorem replaceField_parts : replaceField W at' z new % 2 ^ at' = W % 2 ^ at' ∧ replaceField W at' z new / 2 ^ at' % 2 ^ z = new ∧
    replaceField W at' z new / 2 ^ at' / 2 ^ z = W / 2 ^ at' / 2 ^ z := by
  have hA : 0 < 2 ^ at' := Nat.two_pow_pos at'
  have hZ : 0 < 2 ^ z := Nat.two_pow_pos z
  have heq : replaceField W at' z new = W % 2 ^ at' + 2 ^ at' * (new + 2 ^ z * (W / 2 ^ at' / 2 ^ z)) := by
    have hW := Nat.mod_add_div W (2 ^ at')
    have hfield := Nat.mod_add_div (W / 2 ^ at') (2 ^ z)
    rw [replaceField, Nat.shiftLeft_eq, Nat.shiftLeft_eq]
    generalize W / 2 ^ at' % 2 ^ z = old at hfield ⊢
    generalize W / 2 ^ at' / 2 ^ z = high at hfield ⊢
    rw [← hfield] at hW
    generalize W % 2 ^ at' = low at hW ⊢
    subst hW
    rw [show low + 2 ^ at' * (old + 2 ^ z * high) = low + 2 ^ at' * (2 ^ z * high) + old * 2 ^ at' by ring, Nat.add_sub_cancel]
    ring
  have hhigh : replaceField W at' z new / 2 ^ at' = new + 2 ^ z * (W / 2 ^ at' / 2 ^ z) := by
    rw [heq, Nat.add_mul_div_left _ _ hA, Nat.div_eq_of_lt (Nat.mod_lt _ hA), Nat.zero_add]
  refine ⟨?_, ?_, ?_⟩
  · rw [heq, Nat.add_mul_mod_self_left, Nat.mod_mod]
  · rw [hhigh, Nat.add_mul_mod_self_left, Nat.mod_eq_of_lt hnew]
  · rw [hhigh, Nat.add_mul_div_left _ _ hZ, Nat.div_eq_of_lt hnew, Nat.zero_add]

/-- Every bit outside the field is as it was. -/
theorem testBit_replaceField {i : Nat} (hi : i < at' ∨ at' + z ≤ i) : (replaceField W at' z new).testBit i = W.testBit i := by
  obtain ⟨hlow, -, hhigh⟩ := replaceField_parts (W := W) (at' := at') hnew
  rcases hi with hi | hi
  · have hbit := congrArg (·.testBit i) hlow
    simpa only [Nat.testBit_mod_two_pow, hi, decide_true, Bool.true_and] using hbit
  · have hbit := congrArg (·.testBit (i - (at' + z))) hhigh
    simpa only [Nat.div_div_eq_div_mul, ← Nat.pow_add, Nat.testBit_div_two_pow, Nat.sub_add_cancel hi] using hbit

/-- A number within `k` bits stays there where the field does. -/
theorem replaceField_lt {k : Nat} (hW : W < 2 ^ k) (hk : at' + z ≤ k) : replaceField W at' z new < 2 ^ k := by
  refine Nat.lt_pow_two_of_testBit _ fun i hi => ?_
  rw [testBit_replaceField hnew (.inr (hk.trans hi))]
  exact Nat.testBit_lt_two_pow (hW.trans_le (Nat.pow_le_pow_right (by decide) hi))

end

/-! ### The word or half of a command (R273) -/

/-- Where the word or half that a command's handle names stands in the record. -/
def Cmd.syncAt (c : Cmd) : Nat := 64 * hWord c.a + if hHalf c.a then 32 else 0

theorem Cmd.syncAt_le (c : Cmd) {wide : Bool} (h : wide = true → hHalf c.a = false) :
    c.syncAt + (if wide then 64 else 32) ≤ 512 := by
  have hword : hWord c.a < 8 := Nat.mod_lt _ (by decide)
  unfold Cmd.syncAt
  cases wide
  · cases hHalf c.a <;> simp <;> omega
  · simp [h rfl]
    omega

/-- The old value of `z` bits in the record, and the operands (R273). -/
def Cmd.syncOld (c : Cmd) (w : BitVec 512) (z : Nat) : Nat := w.toNat / 2 ^ c.syncAt % 2 ^ z
def Cmd.syncA (c : Cmd) (z : Nat) : Nat := c.img.toNat % 2 ^ 64 % 2 ^ z
def Cmd.syncB (c : Cmd) (z : Nat) : Nat := c.img.toNat / 2 ^ 64 % 2 ^ z

/-- What a sync-word command makes of the record `w`: `new` of the old value and its operands in its `z` bits, every other bit as it
was, its flag set, and the old value at L where it keeps it. -/
def State.leavesWord (s t : State) (n : Nat) (c : Cmd) (f : BitVec 5) (w : BitVec 512) (z : Nat) (keeps : Bool)
    (new : Nat → Nat → Nat → Nat → Nat) : Prop :=
  ∃ w', ((t.vxOf (hDie c.a)).obj (hObj c.a)).kind = .sync w' ∧
    w'.toNat / 2 ^ c.syncAt % 2 ^ z = new z (c.syncOld w z) (c.syncA z) (c.syncB z) ∧
    (∀ i, (i < c.syncAt ∨ c.syncAt + z ≤ i) → w'.getLsbD i = w.getLsbD i) ∧ s.setsFlag t n f ∧
    (keeps = true → t.shows n c (z / 8) (c.syncOld w z))

/-- The new value of `op` in `z` bits is `new` of the old one and the operands, a number of `z` bits. -/
def newValue (op : BitVec 8) (o : CfOp) (z : Nat) (new : Nat → Nat → Nat → Nat → Nat) : Prop :=
  ∀ old a b, old < 2 ^ z → a < 2 ^ z → b < 2 ^ z →
    atomicNew op (vxSigned o) z old a b = new z old a b ∧ new z old a b < 2 ^ z

/-- The answer of a sync-word command: its old value, and the record with the new value in its word or half. -/
theorem syncOp_spec {c : Cmd} {op : BitVec 8} {o : CfOp} {wide : Bool} {z : Nat} {new : Nat → Nat → Nat → Nat → Nat}
    (hz : z = if wide then 64 else 32) (hhalf : wide = true → hHalf c.a = false) (hnew : newValue op o z new) (w : BitVec 512) :
    ∃ w', syncOp w op wide (vxSigned o) (hWord c.a) (hHalf c.a) (c.img.toNat % 2 ^ 64) (c.img.toNat / 2 ^ 64) = (c.syncOld w z, w') ∧
      w'.toNat / 2 ^ c.syncAt % 2 ^ z = new z (c.syncOld w z) (c.syncA z) (c.syncB z) ∧
      ∀ i, (i < c.syncAt ∨ c.syncAt + z ≤ i) → w'.getLsbD i = w.getLsbD i := by
  have hZ : 0 < 2 ^ z := Nat.two_pow_pos z
  obtain ⟨heq, hlt⟩ := hnew (c.syncOld w z) (c.syncA z) (c.syncB z) (Nat.mod_lt _ hZ) (Nat.mod_lt _ hZ) (Nat.mod_lt _ hZ)
  have hsync : syncOp w op wide (vxSigned o) (hWord c.a) (hHalf c.a) (c.img.toNat % 2 ^ 64) (c.img.toNat / 2 ^ 64) =
      (c.syncOld w z, BitVec.ofNat 512 (replaceField w.toNat c.syncAt z
        (atomicNew op (vxSigned o) z (c.syncOld w z) (c.syncA z) (c.syncB z) % 2 ^ z))) := by
    unfold syncOp
    simp only [← hz, Nat.shiftRight_eq_div_pow]
    rfl
  rw [heq, Nat.mod_eq_of_lt hlt] at hsync
  generalize new z (c.syncOld w z) (c.syncA z) (c.syncB z) = v at hsync hlt ⊢
  have hnat : (BitVec.ofNat 512 (replaceField w.toNat c.syncAt z v)).toNat = replaceField w.toNat c.syncAt z v :=
    (BitVec.toNat_ofNat ..).trans (Nat.mod_eq_of_lt (replaceField_lt hlt w.isLt (hz ▸ c.syncAt_le hhalf)))
  refine ⟨_, hsync, ?_, fun i hi => ?_⟩
  · rw [hnat]
    exact (replaceField_parts hlt).2.1
  · rw [BitVec.getLsbD, BitVec.getLsbD, hnat]
    exact testBit_replaceField hlt hi

/-! ### A sync-word command performed (R275) -/

variable {s : State} {n q : Nat} {c : Cmd} {k : Task} {o : CfOp} {w : BitVec 512}

theorem exec_meets_syncWord (h : s.meets n q c k (.sync w)) (hf : vxFields c.ins = some o) (hp : isPhaserOp c.ins = false)
    {op : BitVec 8} (hop : opOf c.ins = op) {wide : Bool} (hwide : (if op = 0x30 then false else vxWide o) = wide)
    {v : Nat} {w' : BitVec 512} (hsync : syncOp w op wide (vxSigned o) (hWord c.a) (hHalf c.a) (c.img.toNat % 2 ^ 64)
      (c.img.toNat / 2 ^ 64) = (v, w')) :
    let u := (s.readObj (hDie c.a) (hObj c.a)).1.writeObj (hDie c.a) (hObj c.a) (.sync w')
    exec (.vertexOperation n ⟨q, BitVec.allOnes 1024⟩) s = .next (if op = 0x27 then u.cmdDone n c.seq o.f none
      else u.cmdResult n c o.f c.b.toNat (if wide then 8 else 4) v (BitVec.allOnes 1024)) := by
  rw [exec_meets_sync h hf, hp]
  simp only [Bool.false_eq_true, if_false, State.syncCmd, hop, hwide, hsync]

/-- A sync-word command leaves its new value, and answers with the old one. -/
theorem State.performs_sync (h : s.meets n q c k (.sync w)) {i : Instr} (hi : c.ins = i) (hf : vxFields i = some o)
    (hp : isPhaserOp i = false) {op : BitVec 8} (hop : opOf i = op) {wide : Bool}
    (hwide : (if op = 0x30 then false else vxWide o) = wide) (hhalf : wide = true → hHalf c.a = false)
    {new : Nat → Nat → Nat → Nat → Nat} (hnew : newValue op o (if wide then 64 else 32) new)
    {keeps : Bool} (hkeeps : keeps = true → op ≠ 0x27) :
    s.performs n q fun t => s.leavesWord t n c o.f w (if wide then 64 else 32) keeps new := by
  subst hi
  obtain ⟨w', hsync, hfield, hbits⟩ := syncOp_spec rfl hhalf hnew w
  have hexec := exec_meets_syncWord h hf hp hop hwide hsync
  have hbytes : (if wide then 8 else 4) = (if wide then 64 else 32) / 8 := by cases wide <;> rfl
  rw [hbytes] at hexec
  generalize (if wide then 64 else 32) = z at hexec hfield hbits ⊢
  have hbt := s.readObj_byTraffic (hDie c.a) (hObj c.a)
  simp only [] at hexec
  generalize (s.readObj (hDie c.a) (hObj c.a)).1 = r at hexec hbt
  have hkind : (((r.writeObj (hDie c.a) (hObj c.a) (.sync w')).vxOf (hDie c.a)).obj (hObj c.a)).kind = .sync w' := by
    rw [r.obj_writeObj h.die, if_pos rfl]
  have herr : s.keepsErrors (r.writeObj (hDie c.a) (hObj c.a) (.sync w')) :=
    State.keepsErrors_of_cores ((r.writeObj_cores ..).trans (State.byTraffic_cores hbt))
  generalize r.writeObj (hDie c.a) (hObj c.a) (.sync w') = u at hexec hkind herr
  have hseq := State.cmd?_seq h.queued
  by_cases hst : op = 0x27
  · rw [if_pos hst] at hexec
    exact ⟨_, hexec, hseq ▸ State.cmd?_dropCmd _ h.core _, w', (State.kind_of_byCores (u.cmdDone_byCores ..) ..).trans hkind,
      hfield, hbits, State.setsFlag_cmdDone h.core herr .., fun hx => absurd hst (hkeeps hx)⟩
  · rw [if_neg hst] at hexec
    exact ⟨_, hexec, hseq ▸ State.cmd?_cmdResult h.core h.parked .., w',
      (State.kind_of_byCores (u.cmdResult_byCores n h.parked ..) ..).trans hkind, hfield, hbits,
      State.setsFlag_cmdResult h.core h.parked _ _ _ herr, fun _ => State.shows_cmdResult h.core h.parked _ _ _⟩

/-- The commands with an old value and a choice of widths: all but SWST and AFADD. -/
theorem State.performs_atomic (h : s.meets n q c k (.sync w)) {i : Instr} (hi : c.ins = i) (hf : vxFields i = some o)
    (hp : isPhaserOp i = false) {op : BitVec 8} (hop : opOf i = op) {new : Nat → Nat → Nat → Nat → Nat}
    (hnew : ∀ z, newValue op o z new) (hhalf : vxWide o = true → hHalf c.a = false) (hadd : op ≠ 0x30 := by decide)
    (hst : op ≠ 0x27 := by decide) :
    s.performs n q fun t => s.leavesWord t n c o.f w (if vxWide o then 64 else 32) true new :=
  State.performs_sync h hi hf hp hop (if_neg hadd) hhalf (hnew _) fun _ => hst

/-! ### The values of R275 -/

/-- The comparison of AMIN and AMAX, in the type that `o` names. -/
def lowerOf (o : CfOp) (z a b : Nat) : Bool :=
  if vxSigned o then decide (signedElem z a < signedElem z b) else decide (a < b)

theorem lowerOf_iff (o : CfOp) (z a b : Nat) :
    (if vxSigned o then signedElem z a else (a : Int)) < (if vxSigned o then signedElem z b else (b : Int)) ↔
      lowerOf o z a b = true := by
  unfold lowerOf
  cases vxSigned o <;> simp

section
variable (o : CfOp) (z : Nat)

theorem newValue_swld : newValue 0x26 o z fun _ old _ _ => old := fun _ _ _ h _ _ => ⟨rfl, h⟩

theorem newValue_swst : newValue 0x27 o z fun _ _ a _ => a := fun _ _ _ _ h _ => ⟨rfl, h⟩

theorem newValue_aadd : newValue 0x28 o z fun z old a _ => (old + a) % 2 ^ z := fun _ _ _ _ _ _ =>
  ⟨rfl, Nat.mod_lt _ (Nat.two_pow_pos z)⟩

theorem newValue_amin : newValue 0x29 o z fun z old a _ => if lowerOf o z a old then a else old := fun old a _ hold ha _ =>
  ⟨if_congr (lowerOf_iff o z a old) rfl rfl, by dsimp only; split <;> assumption⟩

theorem newValue_amax : newValue 0x2A o z fun z old a _ => if lowerOf o z old a then a else old := fun old a _ hold ha _ =>
  ⟨if_congr (lowerOf_iff o z old a) rfl rfl, by dsimp only; split <;> assumption⟩

theorem newValue_aand : newValue 0x2B o z fun _ old a _ => old &&& a := fun old _ _ _ ha _ => ⟨rfl, Nat.and_lt_two_pow old ha⟩

theorem newValue_aor : newValue 0x2C o z fun _ old a _ => old ||| a := fun _ _ _ hold ha _ => ⟨rfl, Nat.or_lt_two_pow hold ha⟩

theorem newValue_axor : newValue 0x2D o z fun _ old a _ => old ^^^ a := fun _ _ _ hold ha _ => ⟨rfl, Nat.xor_lt_two_pow hold ha⟩

theorem newValue_axchg : newValue 0x2E o z fun _ _ a _ => a := fun _ _ _ _ h _ => ⟨rfl, h⟩

theorem newValue_acas : newValue 0x2F o z fun _ old a b => if old = a then b else old := fun old a b hold _ hb =>
  ⟨rfl, by dsimp only; split <;> assumption⟩

end

theorem newValue_afadd (o : CfOp) : newValue 0x30 o 32 fun _ old a _ =>
    (toF32 (rneF32 ((ofF32 (BitVec.ofNat 32 old)).add (ofF32 (BitVec.ofNat 32 a))))).toNat := fun _ _ _ _ _ _ =>
  ⟨rfl, BitVec.isLt _⟩

end Sys2Proof.Machine
end

section
/-!
SUPPORT. What leaves a core for a Vertex elsewhere, and the arms: commands on an object of another module (R279), an arm released, its
arrival made, held or refused (R272, R278).
-/

namespace Sys2Proof.Machine

variable {s u : State} {n q : Nat} {c : Cmd} {k : Task} {o : CfOp}

/-! ### A crossing (R367) -/

theorem State.crossTo_byTraffic (s : State) (m k : Nat) : s.byTraffic (s.crossTo m k) := by
  unfold State.crossTo
  split
  · rfl
  · exact List.foldlRecOn (motive := s.byTraffic) _ _ s.byTraffic_refl fun t ht _ _ => State.byTraffic_trans ht rfl

theorem State.crossTo_rdc (s : State) (m k : Nat) : (s.crossTo m k).rdc = s.rdc := by
  unfold State.crossTo
  split
  · rfl
  · exact List.foldlRecOn (motive := fun t : State => t.rdc = s.rdc) _ _ rfl fun t ht _ _ => ht

/-- Cores, Vertices and RDCs are the same. -/
def State.alike (s t : State) : Prop := t.cores = s.cores ∧ t.vertex = s.vertex ∧ t.rdc = s.rdc

theorem State.crossTo_alike (s : State) (m k : Nat) : s.alike (s.crossTo m k) :=
  ⟨State.byTraffic_cores (s.crossTo_byTraffic m k), State.byTraffic_vertex (s.crossTo_byTraffic m k), s.crossTo_rdc m k⟩

theorem State.freshBool_alike {t : State} (h : s.alike t) : s.alike t.freshBool.2 := h

theorem State.fresh_alike {t : State} (h : s.alike t) : s.alike t.fresh.2 := h

/-! ### An arm's arrival sent (R272) -/

theorem State.reportAt_keepsQueues (s : State) (n : Nat) (x : Note) : s.keepsQueues (s.reportAt n x) :=
  s.keepsQueues_onCore n fun c => c.un_report x

/-- An arrival leaves the queues and the RDCs. -/
theorem State.armArrive_keeps (s : State) (n : Nat) (a : Arm) (who : TaskRef) :
    s.keepsQueues (s.armArrive n a who) ∧ (s.armArrive n a who).rdc = s.rdc := by
  have hread := s.readObj_byHome (hDie a.handle) (hObj a.handle)
  unfold State.armArrive
  simp only []
  generalize s.readObj (hDie a.handle) (hObj a.handle) = x at hread ⊢
  have hqueues : s.keepsQueues x.1 := State.keepsQueues_of_cores (State.byHome_cores hread)
  have hfails : ∀ y, s.keepsQueues (x.1.reportAt n y) ∧ (x.1.reportAt n y).rdc = s.rdc := fun y =>
    ⟨State.keepsQueues_trans hqueues (x.1.reportAt_keepsQueues n y),
      (State.byCores_rdc (x.1.reportAt_byCores n y)).trans (State.byHome_rdc hread)⟩
  split
  · split
    · exact hfails _
    · split
      · exact hfails _
      · next p1 ps _ _ =>
        have hput := x.1.putPhaser_keepsQueues (hDie a.handle) (hObj a.handle) p1 ps
        exact ⟨State.keepsQueues_trans hqueues (State.keepsQueues_trans hput (State.notified_request ..).queues),
          (State.notified_request ..).rdc.trans ((x.1.putPhaser_rdc ..).trans (State.byHome_rdc hread))⟩
  · exact hfails _

theorem State.armSend_keeps (s : State) (n : Nat) (a : Arm) (who : TaskRef) :
    s.keepsQueues (s.armSend n a who) ∧ (s.armSend n a who).rdc = s.rdc := by
  obtain ⟨hcores, -, hrdc⟩ := s.crossTo_alike (hMod a.handle) 1
  unfold State.armSend
  split
  · exact s.armArrive_keeps n a who
  · split
    · exact ⟨State.keepsQueues_of_cores hcores, hrdc⟩
    · exact ⟨s.reportAt_keepsQueues n _, State.byCores_rdc (s.reportAt_byCores ..)⟩

/-! ### A command on an object of another module (R279) -/

/-- The command has left its queue with the RDCs as they were, and, but for a PHARM, the Vertices. -/
def State.quits (u t : State) (n : Nat) (c : Cmd) : Prop :=
  t.cmd? n c.seq = none ∧ t.rdc = u.rdc ∧ ((∀ y, c.ins ≠ .pharm y) → t.vertex = u.vertex)

theorem State.quits_of_byCores {v t : State} (h : u.alike v) (hc : v.byCores t) (hq : t.cmd? n c.seq = none) : u.quits t n c :=
  ⟨hq, (State.byCores_rdc hc).trans h.2.2, fun _ => (State.byCores_vertex hc).trans h.2.1⟩

/-- However the other module answers, the command leaves its queue and this module's objects. -/
theorem State.vxRemote_quits (s : State) (hn : n < 96) (hpark : c.prog.parked = none) (hleft : c.prog.left = none) (o : CfOp) (k : Task) :
    (s.fenceAct n 0xFFFF (if releases c.ins then 4 else 0) 1).quits (s.vxRemote n c o k (BitVec.allOnes 1024)) n c := by
  unfold State.vxRemote
  rw [s.releaseThen_all n hleft]
  generalize s.fenceAct n 0xFFFF (if releases c.ins then 4 else 0) 1 = u
  simp only []
  have hcross := State.freshBool_alike (u.crossTo_alike (hMod c.a) 1)
  have hdrop : ∀ v, u.alike v → u.quits (v.dropCmd n c.seq) n c := fun v hv =>
    State.quits_of_byCores hv (v.dropCmd_byCores ..) (v.cmd?_dropCmd hn _)
  have hdone : ∀ v, u.alike v → u.quits (v.cmdDone n c.seq o.f none) n c := fun v hv =>
    State.quits_of_byCores hv (v.cmdDone_byCores ..) (State.cmd?_dropCmd _ hn _)
  have hresult : ∀ v l b, u.alike v → u.quits (v.cmdResult n c o.f c.b.toNat l b (BitVec.allOnes 1024)) n c := fun v l b hv =>
    State.quits_of_byCores hv (v.cmdResult_byCores n hpark ..) (State.cmd?_cmdResult hn hpark ..)
  generalize (u.crossTo (hMod c.a) 1).freshBool = r at hcross ⊢
  have hfresh := State.fresh_alike hcross
  split
  · exact State.quits_of_byCores hcross (r.2.vxFail_byCores ..) (r.2.cmd?_vxFail n c o.f hn)
  · split
    · exact hresult _ _ _ hfresh
    · exact hresult _ _ _ hfresh
    · exact hdone _ hcross
    · exact hdone _ hcross
    · exact hdrop _ hcross
    · exact hdrop _ hcross
    · next y hy =>
      have hun : ∀ f : Untimed → Untimed, (∀ v, (f v).queue = v.queue) →
          (((r.2.dropCmd n c.seq).onUn n f).cmd? n c.seq = none ∧ ((r.2.dropCmd n c.seq).onUn n f).rdc = u.rdc) := fun f hf => by
        refine ⟨?_, (State.byCores_rdc (State.onUn_byCores ..)).trans ((State.byCores_rdc (State.dropCmd_byCores ..)).trans hcross.2.2)⟩
        rw [State.cmd?_onUn _ hn, Untimed.cmd?, hf]
        exact r.2.cmd?_dropCmd hn _
      split
      · next a _ =>
        obtain ⟨hq, hrdc⟩ := hun (fun v => v.onArm c.seq fun _ => none) fun _ => rfl
        obtain ⟨hqueues, hsame⟩ := ((r.2.dropCmd n c.seq).onUn n fun v => v.onArm c.seq fun _ => none).armSend_keeps n a k.ref
        exact ⟨(State.cmd?_keepsQueues hqueues hn _).trans hq, hsame.trans hrdc, fun hne => absurd hy (hne y)⟩
      · obtain ⟨hq, hrdc⟩ := hun (fun v => v.onArm c.seq fun a => some { a with ok := true }) fun _ => rfl
        exact ⟨hq, hrdc, fun hne => absurd hy (hne y)⟩
    · exact hresult _ _ _ hfresh

/-- A command on an object of another module: its release is made at domain scope, this module's objects stay, and its flag is ERROR
where that module may not be reached. -/
theorem performs_away (h : s.starts n q c k) (away : hMod c.a ≠ s.myMod.toNat) (hf : vxFields c.ins = some o) :
    s.performs n q fun t => (releases c.ins = true → ∀ y, (t.sector (n / 12) y).dirty = 0) ∧
      ((∀ y, c.ins ≠ .pharm y) → t.vertex = s.vertex ∧ (s.mayReach (hMod c.a) = false → (t.timedAt n).flag o.f = .error)) := by
  have hexec := exec_vertexOperation h hf
  have hbt := s.fenceAct_byTraffic n 0xFFFF (if releases c.ins then 4 else 0) 1
  have hclean := State.clean_fenceAct (scope := if releases c.ins then 4 else 0) h.core s.byTraffic_refl 0xFFFF
  have hseq := State.cmd?_seq h.queued
  have hall : ∀ t : State, t.rdc = (s.fenceAct n 0xFFFF (if releases c.ins then 4 else 0) 1).rdc →
      releases c.ins = true → ∀ y, (t.sector (n / 12) y).dirty = 0 := fun t ht hrel y => by
    have ht' := State.clean_congr hclean ht
    rw [if_pos hrel] at ht'
    exact ht' (by decide) y rfl
  rw [State.vxTurn, if_neg away] at hexec
  by_cases hreach : s.mayReach (hMod c.a) = true
  · rw [if_pos hreach] at hexec
    obtain ⟨hq, hrdc, hvx⟩ := s.vxRemote_quits h.core h.parked h.left o k
    exact ⟨_, hexec, hseq ▸ hq, hall _ hrdc, fun hne => ⟨(hvx hne).trans (State.byTraffic_vertex hbt), fun hno => by simp [hno] at hreach⟩⟩
  · rw [if_neg hreach, s.releaseThen_all n h.left] at hexec
    exact ⟨_, hexec, hseq ▸ State.cmd?_vxFail _ n c o.f h.core, hall _ (State.byCores_rdc (State.vxFail_byCores ..)),
      fun hne => ⟨State.vxFail_vertex hbt .., fun _ => State.flag_vxFail _ n c o.f h.core hne⟩⟩

/-! ### An arm that has counted its bytes (R272) -/

section
variable {i : Nat} {a : Arm} {p p1 : Phaser} {ps : List (BitVec 32)} {ph : BitVec 32}

/-- The slot of PHARM `q` is free again. -/
def Untimed.freed (v : Untimed) (q : Nat) : Prop := ∀ j x, v.arms.get j = some x → x.seq ≠ q

theorem Untimed.freed_onArm (v : Untimed) (q : Nat) : (v.onArm q fun _ => none).freed q := by
  intro j x hx
  simp only [Untimed.onArm, Vector.get_eq_getElem, Vector.getElem_map, Option.bind_eq_some_iff] at hx
  obtain ⟨y, -, hy⟩ := hx
  split at hy
  · cases hy
  · next hne => exact Option.some_inj.1 hy ▸ hne

/-- The arm may send its arrival at once. -/
def State.armReady (s : State) (n i : Nat) (a : Arm) : Bool := a.ok && s.armFree n a && (decide (4 ≤ i) || !(s.armFar n a))

/-- The state with the slot of an arm released. -/
def State.freeArm (s : State) (n : Nat) (a : Arm) : State := s.onUn n fun v => v.onArm a.seq fun _ => none

theorem exec_armComplete (hd : s.armDue n i = some a) (hk : (s.coreAt n).task = some k) :
    exec (.armComplete n i) s = .next (if s.armReady n i a then (s.freeArm n a).armSend n a k.ref
      else (s.freeArm n a).onUn n fun v => { v with released := v.released ++ [a] }) := by
  change execArmComplete n i s = _
  simp only [execArmComplete, hd, hk]
  exact (apply_ite Host.Outcome.next ..).symm

theorem State.freed_freeArm (s : State) (hn : n < 96) (a : Arm) : ((s.freeArm n a).unAt n).freed a.seq := by
  rw [State.freeArm, s.unAt_onUn hn]
  exact Untimed.freed_onArm _ _

/-- An arm that must wait leaves its slot and is kept as released. -/
theorem exec_armComplete_waits (hn : n < 96) (hi : i < 4) (hd : s.armDue n i = some a) (hk : (s.coreAt n).task = some k)
    (hw : a.ok = false ∨ s.armFree n a = false ∨ s.armFar n a = true) :
    ∃ t, exec (.armComplete n i) s = .next t ∧ a ∈ (t.unAt n).released ∧ (t.unAt n).freed a.seq ∧ s.byCores t ∧
      (t.coreAt n).timed = (s.coreAt n).timed := by
  have hno : s.armReady n i a = false := by
    rcases hw with h | h | h <;> simp [State.armReady, h, Nat.not_le.2 hi]
  refine ⟨_, exec_armComplete hd hk, ?_⟩
  rw [if_neg (by simp [hno]), State.unAt_onUn _ hn]
  exact ⟨List.mem_append_right _ (List.mem_singleton_self a), s.freed_freeArm hn a,
    State.byCores_trans (s.onUn_byCores ..) (State.onUn_byCores ..), (State.timedAt_onUn _ hn _).trans (s.timedAt_onUn hn _)⟩

/-- An arm that may send does, its slot released. -/
theorem exec_armComplete_sends (hn : n < 96) (hd : s.armDue n i = some a) (hk : (s.coreAt n).task = some k)
    (hr : s.armReady n i a = true) :
    exec (.armComplete n i) s = .next ((s.freeArm n a).armSend n a k.ref) ∧ (((s.freeArm n a).armSend n a k.ref).unAt n).freed a.seq := by
  refine ⟨by rw [exec_armComplete hd hk, if_pos hr], ?_⟩
  rw [Untimed.freed, State.arms_keepsQueues (State.armSend_keeps ..).1 hn]
  exact s.freed_freeArm hn a

theorem State.armSend_here (cs : Vector Core 96) (here : hMod a.handle = s.myMod.toNat) (who : TaskRef) :
    (s.withCores cs).armSend n a who = (s.withCores cs).armArrive n a who := if_pos here

theorem State.armSend_refused (cs : Vector Core 96) (away : hMod a.handle ≠ s.myMod.toNat) (hno : s.mayReach (hMod a.handle) = false)
    (who : TaskRef) :
    (s.withCores cs).armSend n a who = (s.withCores cs).reportAt n ⟨a.flag, false, none, some ⟨0x24, 0, 0⟩⟩ :=
  (if_neg away).trans (if_neg fun hyes => Bool.false_ne_true (hno.symm.trans hyes))

/-- The member of an arm arrives at a phaser of this module. -/
theorem State.kind_armArrive (hd : hDie a.handle < 8) (hg : ((s.vxOf (hDie a.handle)).obj (hObj a.handle)).gen = hGen a.handle)
    (hr : (s.readObj (hDie a.handle) (hObj a.handle)).2 = some (.phaser p)) (hb : p.broken = false)
    (ha : arrive p a.member.toNat = some (p1, ps, ph)) (who : TaskRef) :
    (((s.armArrive n a who).vxOf (hDie a.handle)).obj (hObj a.handle)).kind = .phaser p1 := by
  have hgen : (((s.readObj (hDie a.handle) (hObj a.handle)).1.vxOf (hDie a.handle)).obj (hObj a.handle)).gen = hGen a.handle := by
    rw [State.vxOf_congr (State.byHome_vertex (s.readObj_byHome ..))]
    exact hg
  simp only [State.armArrive, hr, hb, hgen, ha]
  rw [if_neg (by simp), State.obj_notified (State.notified_request ..) hd]
  exact State.kind_putPhaser _ _ p1 ps hd

theorem exec_armComplete_arrives (hn : n < 96) (hdue : s.armDue n i = some a) (hk : (s.coreAt n).task = some k) (hok : a.ok = true)
    (here : hMod a.handle = s.myMod.toNat) (hnear : s.armFar n a = false ∨ 4 ≤ i) (hd : hDie a.handle < 8)
    (hroom : (s.vxOf (hDie a.handle)).poolRoom = true)
    (hg : ((s.vxOf (hDie a.handle)).obj (hObj a.handle)).gen = hGen a.handle)
    (hr : (s.readObj (hDie a.handle) (hObj a.handle)).2 = some (.phaser p)) (hb : p.broken = false)
    (ha : arrive p a.member.toNat = some (p1, ps, ph)) :
    ∃ t, exec (.armComplete n i) s = .next t ∧ ((t.vxOf (hDie a.handle)).obj (hObj a.handle)).kind = .phaser p1 ∧
      (t.unAt n).freed a.seq := by
  have hready : s.armReady n i a = true := by
    rcases hnear with h | h <;> simp [State.armReady, State.armFree, hok, here, hroom, h]
  obtain ⟨hexec, hfreed⟩ := exec_armComplete_sends hn hdue hk hready
  refine ⟨_, hexec, ?_, hfreed⟩
  have hcores : s.byCores (s.freeArm n a) := s.onUn_byCores ..
  have hread : ((s.withCores (s.freeArm n a).cores).readObj (hDie a.handle) (hObj a.handle)).2 = some (.phaser p) := by
    rw [s.readObj_withCores]
    exact hr
  rw [State.byCores_withCores hcores, State.armSend_here _ here]
  have hgen : (((s.withCores (s.freeArm n a).cores).vxOf (hDie a.handle)).obj (hObj a.handle)).gen = hGen a.handle := hg
  exact State.kind_armArrive hd hgen hread hb ha k.ref

/-- An arrival to another module that may not be reached makes the arm's flag ERROR. -/
theorem exec_armComplete_refused (hn : n < 96) (hdue : s.armDue n i = some a) (hk : (s.coreAt n).task = some k) (hok : a.ok = true)
    (away : hMod a.handle ≠ s.myMod.toNat) (hno : s.mayReach (hMod a.handle) = false) :
    ∃ t, exec (.armComplete n i) s = .next t ∧ (t.timedAt n).flag a.flag = .error ∧ t.vertex = s.vertex ∧
      (t.unAt n).freed a.seq := by
  have hready : s.armReady n i a = true := by
    simp [State.armReady, State.armFree, State.armFar, hok, away, hno]
  obtain ⟨hexec, hfreed⟩ := exec_armComplete_sends hn hdue hk hready
  have hcores : s.byCores (s.freeArm n a) := s.onUn_byCores ..
  refine ⟨_, hexec, ?_, ?_, hfreed⟩
  · rw [State.byCores_withCores hcores, State.armSend_refused _ away hno, State.timedAt_reportAt _ hn]
    exact Core.flag_report_failed ..
  · rw [State.byCores_withCores hcores, State.armSend_refused _ away hno, ← State.byCores_withCores hcores]
    exact (State.byCores_vertex (State.reportAt_byCores ..)).trans (State.byCores_vertex hcores)

end

/-! ### Records moved (R254) -/

section
variable {die obj : Nat}

/-- A record in SRAM goes to the overflow area. -/
theorem exec_vertexRecordMove_out (hd : die < 8) (ho : obj < (s.vxOf die).objCount) (hk : ((s.vxOf die).obj obj).kind ≠ .free)
    (hm : obj ∉ (s.vxOf die).moved) (hb : obj ∉ (s.vxOf die).bad) :
    ∃ t, exec (.vertexRecordMove die obj) s = .next t ∧ t.cores = s.cores ∧
      t.vxOf die = { s.vxOf die with moved := (s.vxOf die).moved ++ [obj], ovfMoves := satAdd48 (s.vxOf die).ovfMoves 1 } ∧
      t.mem = (s.homeWrite ((s.vxOf die).ovfAt obj) 64 (2 ^ 64 - 1) ((s.vxOf die).obj obj).kind.toRec.toNat).1.mem := by
  have hexec : exec (.vertexRecordMove die obj) s = .next
      ((s.homeWrite ((s.vxOf die).ovfAt obj) 64 (2 ^ 64 - 1) ((s.vxOf die).obj obj).kind.toRec.toNat).1.onVx die fun u =>
        { u with moved := u.moved ++ [obj], ovfMoves := satAdd48 u.ovfMoves 1 }) := by
    change execVertexRecordMove die obj s = _
    simp only [execVertexRecordMove, ObjKind.isFree_eq_false hk, Nat.not_le.2 ho, List.contains_eq_mem, hm, hb, decide_false,
      Bool.false_eq_true, or_self, if_false]
  have hbyte := s.homeWrite_byHome ((s.vxOf die).ovfAt obj) 64 (2 ^ 64 - 1) ((s.vxOf die).obj obj).kind.toRec.toNat
  generalize (s.homeWrite ((s.vxOf die).ovfAt obj) 64 (2 ^ 64 - 1) ((s.vxOf die).obj obj).kind.toRec.toNat).1 = x at hexec hbyte ⊢
  refine ⟨_, hexec, (State.onVx_cores ..).trans (State.byHome_cores hbyte), ?_, State.onVx_mem ..⟩
  rw [State.vxOf_onVx _ hd, State.vxOf_congr (State.byHome_vertex hbyte)]

/-- A record comes back to SRAM as it reads. -/
theorem exec_vertexRecordMove_back (hd : die < 8) (ho : obj < (s.vxOf die).objCount) (hk : ((s.vxOf die).obj obj).kind ≠ .free)
    (hm : obj ∈ (s.vxOf die).moved) (hroom : (s.vxOf die).resident < frames) {r : ObjKind} (hr : (s.readObj die obj).2 = some r) :
    ∃ t, exec (.vertexRecordMove die obj) s = .next t ∧ t.cores = s.cores ∧
      t.vxOf die = { (s.vxOf die).setObj obj { (s.vxOf die).obj obj with kind := r } with
        moved := (s.vxOf die).moved.filter fun m => m != obj, ovfMoves := satAdd48 (s.vxOf die).ovfMoves 1 } := by
  have hexec : exec (.vertexRecordMove die obj) s = .next ((s.readObj die obj).1.onVx die fun u =>
      { u.setObj obj { u.obj obj with kind := r } with
        moved := u.moved.filter fun m => m != obj, ovfMoves := satAdd48 u.ovfMoves 1 }) := by
    change execVertexRecordMove die obj s = _
    simp only [execVertexRecordMove, ObjKind.isFree_eq_false hk, Nat.not_le.2 ho, List.contains_eq_mem, hm, decide_true,
      Bool.false_eq_true, or_self, if_false, if_true, Nat.not_le.2 hroom, hr]
    rfl
  have hbyte := s.readObj_byHome die obj
  generalize (s.readObj die obj).1 = x at hexec hbyte
  refine ⟨_, hexec, (State.onVx_cores ..).trans (State.byHome_cores hbyte), ?_⟩
  rw [State.vxOf_onVx _ hd, State.vxOf_congr (State.byHome_vertex hbyte)]

end

end Sys2Proof.Machine
end

section
/-!
PROOF of O51: the commands of cores, the arms and the moves of records, each by the lemma about its own performance.
-/

namespace Sys2Proof.Machine

/-- Settles O51: every command by what it does at the object it meets, every arm by where its arrival goes. -/
theorem vertexPerformsCommands : Obligations.VertexPerformsCommands := by
  intro s n hn
  refine ⟨fun q c k hc hk hdue here hpark hleft => ?here, fun q c k x hc hk hdue away hpark hleft hf => ?away,
    fun i a k hi hd hk hw => exec_armComplete_waits hn hi hd hk hw,
    fun i a k p p1 ps ph hd hk hok here hnear hdie hroom hg hr hb ha =>
      exec_armComplete_arrives hn hd hk hok here hnear hdie hroom hg hr hb ha,
    fun i a k hd hk hok away hno => exec_armComplete_refused hn hd hk hok away hno,
    fun die obj hdie ho hkind => ⟨fun hm hb => ?out, fun r hm hroom hr => ?back⟩⟩
  case here =>
    have hstart : s.starts n q c k := ⟨hn, hc, hk, hdue, hpark, hleft⟩
    refine ⟨fun x hf hne hp => State.performs_stranger hstart here hf hne hp,
      fun x p hf ho hg hr => State.performs_stale_clean hstart here hf ho hg hr, fun hd ho hg => ?_⟩
    have hmeets : ∀ {r}, (s.readObj (hDie c.a) (hObj c.a)).2 = some r → s.meets n q c k r := fun hr =>
      ⟨hstart, here, hd, ho, hg, hr⟩
    refine ⟨fun p x hr hi => ?arrival, fun p hr hb hsc => ?phaser, fun w x hr hi => ?mismatch, fun w hr => ?sync⟩
    case arrival =>
      obtain ⟨t, hexec, hq, hfails, hclean⟩ := State.performs_pharr_clean (hmeets hr) hi
      exact ⟨t, hexec, hq, hfails, fun y hsc hy => hclean hsc y hy⟩
    case phaser =>
      have hjoins : s.joins n q c k p := ⟨hmeets hr, hb, hsc⟩
      refine ⟨fun x p1 j hi hreg => State.performs_phreg hjoins hi hreg,
        fun x p1 ps hi hdrop => State.performs_phdrop hjoins hi hdrop,
        fun x p1 ps ph hi harr => ⟨fun hm => State.performs_pharr_sig hjoins hi harr hm,
          fun hm => State.performs_pharr_sw hjoins hi harr hm⟩,
        fun x hi hin hm => State.performs_phwait hjoins hi (by rw [bits_eq_div_mod]; exact Phaser.mayWait_of_mode hin hm),
        fun x hi => State.performs_phrd hjoins hi,
        fun x a hi ha hrel hm hmode => State.performs_pharm hjoins hi ha hrel hm hmode⟩
    case mismatch =>
      obtain ⟨t, hexec, hq, hflag, hvx⟩ := State.performs_sync_pharr (hmeets hr) hi
      exact ⟨t, hexec, hq, hflag, State.kind_of_vertex hvx ..⟩
    case sync =>
      have h := hmeets hr
      exact ⟨fun x hi hh => State.performs_atomic h hi rfl rfl (x.word_opcode _) (newValue_swld x) hh,
        fun x hi hh =>
          State.performs_sync h hi rfl rfl (x.word_opcode _) (wide := vxWide x) rfl hh (newValue_swst x _) (fun h => nomatch h),
        fun x hi hh => State.performs_atomic h hi rfl rfl (x.word_opcode _) (newValue_aadd x) hh,
        fun x hi hh => State.performs_atomic h hi rfl rfl (x.word_opcode _) (newValue_amin x) hh,
        fun x hi hh => State.performs_atomic h hi rfl rfl (x.word_opcode _) (newValue_amax x) hh,
        fun x hi hh => State.performs_atomic h hi rfl rfl (x.word_opcode _) (newValue_aand x) hh,
        fun x hi hh => State.performs_atomic h hi rfl rfl (x.word_opcode _) (newValue_aor x) hh,
        fun x hi hh => State.performs_atomic h hi rfl rfl (x.word_opcode _) (newValue_axor x) hh,
        fun x hi hh => State.performs_atomic h hi rfl rfl (x.word_opcode _) (newValue_axchg x) hh,
        fun x hi hh => State.performs_atomic h hi rfl rfl (x.word_opcode _) (newValue_acas x) hh,
        fun x hi hh => State.performs_sync h hi rfl rfl (x.word_opcode _) (wide := false) rfl hh (newValue_afadd x) fun _ => by decide⟩
  case away => exact performs_away ⟨hn, hc, hk, hdue, hpark, hleft⟩ away hf
  case out =>
    obtain ⟨t, hexec, hcores, hvx, hmem⟩ := exec_vertexRecordMove_out hdie ho hkind hm hb
    exact ⟨t, hexec, ⟨congrArg VertexUnit.ovfMoves hvx, hcores⟩, congrArg VertexUnit.moved hvx,
      VertexUnit.obj_congr (congrArg VertexUnit.objs hvx) obj, hmem⟩
  case back =>
    obtain ⟨t, hexec, hcores, hvx⟩ := exec_vertexRecordMove_back hdie ho hkind hm hroom hr
    refine ⟨t, hexec, ⟨congrArg VertexUnit.ovfMoves hvx, hcores⟩, ?_, ?_⟩
    · rw [hvx]
      simp
    · rw [VertexUnit.obj_congr (congrArg VertexUnit.objs hvx)]
      exact (VertexUnit.obj_setObj ..).trans (if_pos rfl)

end Sys2Proof.Machine
end
